-- ==== Sys2Proof/Word.lean ====
section
/-! DEFINITION. The widths the L9 computes in (R81) and their plainest readings. -/
namespace Sys2Proof

abbrev Byte := BitVec 8
abbrev Half := BitVec 16
abbrev Word := BitVec 32
abbrev DWord := BitVec 64

/-- Bits [hi:lo] of a doubleword as a natural number (R2). -/
def DWord.bits (x : DWord) (hi lo : Nat) : Nat := (x.toNat >>> lo) % 2 ^ (hi + 1 - lo)

/-- Bits [hi:lo] of a word as a natural number (R2). -/
def Word.bits (x : Word) (hi lo : Nat) : Nat := (x.toNat >>> lo) % 2 ^ (hi + 1 - lo)

/-- The n-bit pattern `x` read as signed (R2). -/
def signedOf (n x : Nat) : Int :=
  let y := x % 2 ^ n
  if 2 * y < 2 ^ n then (y : Int) else (y : Int) - (2 ^ n : Nat)

/-- The n-bit pattern of the exact integer `v`, reduced modulo 2^n (`wrap` of R8). -/
def patternOf (n : Nat) (v : Int) : Nat := (v % (2 ^ n : Nat)).toNat

end Sys2Proof
end

