-- ==== Sys2Proof/Syntax.lean ====
section
/-! DEFINITION. Every step of spec/opcode_table.json as one constructor: the sequencer, CE and ME words with the
fields of chapter 9, and the steps that carry no bits (engine commands, token commands, events) with what selects them.
Where a step acts at a place (a stream, a slot, a port), the place is `State.cur`, as the word itself does not name it. -/
namespace Sys2Proof

/-- The operand fields of a CE operation word below op (Table 9.6); fn is the condition of cmp and the source type of cvt and
deq, and else repeats the operation. A CE instruction's constructor names the operation; its operand fields stand beside it,
in `State.cew`, as the decoder gives both. -/
structure CeW where
  fn : BitVec 4 := 0
  ty : BitVec 4 := 0
  rnd : BitVec 2 := 0
  dm : BitVec 2 := 0
  dslot : BitVec 4 := 0
  k : BitVec 5 := 0
  fire : BitVec 2 := 0
  sat : BitVec 1 := 0
  pr : BitVec 1 := 0
  deriving DecidableEq, Repr, Inhabited

/-- The fields of an ME operation word below op and fn (Table 9.10). -/
structure MeW where
  ty : BitVec 4
  desc : BitVec 4
  dslot : BitVec 4
  k : BitVec 5
  flags : BitVec 5
  deriving DecidableEq, Repr

/-- The fields of an MX command: word 0 below op (Table 9.13) and word 1 whole. -/
structure MxW where
  shape : BitVec 5
  ty : BitVec 4
  acc : BitVec 1
  ringA : BitVec 4
  ringB : BitVec 4
  accsel : BitVec 4
  tr : BitVec 2
  sd : BitVec 1
  w1 : Word
  deriving DecidableEq, Repr

/-- The collective descriptor (Table 12.10) below its kind. -/
structure ClDesc where
  op : BitVec 2
  ty : BitVec 4
  rnd : BitVec 3
  ftz : BitVec 1
  anc : BitVec 9
  group : BitVec 3
  reroute : BitVec 1
  id : BitVec 24
  send : DWord
  recv : DWord
  len : DWord
  list : DWord
  nmem : BitVec 16
  cap : BitVec 16
  nrec : BitVec 32
  rbytes : DWord
  deriving DecidableEq, Repr

/-- The link command descriptor (Table 12.11) below its op. -/
structure LkDesc where
  port : BitVec 6
  dir : BitVec 1
  kslot : BitVec 1
  node : BitVec 12
  nflit : BitVec 8
  handle : BitVec 32
  src : DWord
  dst : DWord
  salt : BitVec 32
  deriving DecidableEq, Repr

/-- The scrub descriptor (R312). -/
structure ScDesc where
  base : DWord
  nblk : DWord
  bitmap : DWord
  deriving DecidableEq, Repr

/-- The kinds of access that translation checks (R121). -/
inductive Access where
  | load | store | atomic | fetch
  deriving DecidableEq, Repr

/-- The flit header (Table 14.2). -/
structure FlitHdr where
  type : BitVec 4
  dst : BitVec 12
  src : BitVec 12
  index : BitVec 8
  xfer : BitVec 16
  nq : BitVec 5
  ord : BitVec 1
  deriving DecidableEq, Repr

/-- A time of four coordinates (R59, Table 3.1). -/
structure Time where
  c0 : BitVec 32
  c1 : BitVec 16
  c2 : BitVec 16
  c3 : BitVec 16
  deriving DecidableEq, Repr

/-- One pointstamp update of a batch (R68, R339): location, time and signed count. -/
structure StampUpdate where
  loc : Nat
  time : Time
  count : Int
  deriving DecidableEq, Repr

/-- A function with a readiness bit of its own (Table 14.5). -/
inductive ReadyFn where
  | cluster (die c : Nat)
  | die (die : Nat)
  | hbm (stack : Nat)
  | port (port : Nat)
  | lpddr (iod : Nat)
  | cxl (iod : Nat)
  | mc
  | iod (iod : Nat)
  deriving DecidableEq, Repr

/-- The instructions and steps of the L9, one constructor per row of the opcode table. -/
inductive Instr where
  /-- ADD (R199). Writes the 64-bit wrapping sum of s(a) and s(b) to s(d). -/
  | add (d : BitVec 6) (a : BitVec 6) (b : BitVec 6)
  /-- SUB (R199). Writes the 64-bit wrapping difference s(a) minus s(b) to s(d). -/
  | sub (d : BitVec 6) (a : BitVec 6) (b : BitVec 6)
  /-- MUL (R199). Writes the low 64 bits of the product s(a)·s(b) to s(d). -/
  | mul (d : BitVec 6) (a : BitVec 6) (b : BitVec 6)
  /-- MULH (R199). Writes the high 64 bits of the signed 128-bit product to s(d). -/
  | mulh (d : BitVec 6) (a : BitVec 6) (b : BitVec 6)
  /-- MULHN (R199). Writes the high 64 bits of the natural 128-bit product to s(d). -/
  | mulhn (d : BitVec 6) (a : BitVec 6) (b : BitVec 6)
  /-- DIV (R103). Writes the signed quotient truncated toward zero, with the special cases of R103 and no trap. -/
  | div (d : BitVec 6) (a : BitVec 6) (b : BitVec 6)
  /-- DIVN (R103). Writes the natural quotient, all ones when the divisor is 0. -/
  | divn (d : BitVec 6) (a : BitVec 6) (b : BitVec 6)
  /-- REM (R103). Writes the signed remainder, which takes the sign of the dividend. -/
  | rem (d : BitVec 6) (a : BitVec 6) (b : BitVec 6)
  /-- REMN (R103). Writes the natural remainder, or the dividend when the divisor is 0. -/
  | remn (d : BitVec 6) (a : BitVec 6) (b : BitVec 6)
  /-- ADDS (R102). Writes sat(i64, s(a) + s(b)). -/
  | adds (d : BitVec 6) (a : BitVec 6) (b : BitVec 6)
  /-- SUBS (R102). Writes sat(i64, s(a) − s(b)). -/
  | subs (d : BitVec 6) (a : BitVec 6) (b : BitVec 6)
  /-- AND (R199). Writes the bitwise AND of s(a) and s(b). -/
  | and (d : BitVec 6) (a : BitVec 6) (b : BitVec 6)
  /-- OR (R199). Writes the bitwise OR of s(a) and s(b). -/
  | or (d : BitVec 6) (a : BitVec 6) (b : BitVec 6)
  /-- XOR (R199). Writes the bitwise XOR of s(a) and s(b). -/
  | xor (d : BitVec 6) (a : BitVec 6) (b : BitVec 6)
  /-- ANDN (R199). Writes s(a) AND NOT s(b). -/
  | andn (d : BitVec 6) (a : BitVec 6) (b : BitVec 6)
  /-- ORN (R199). Writes s(a) OR NOT s(b). -/
  | orn (d : BitVec 6) (a : BitVec 6) (b : BitVec 6)
  /-- SHL (R199). Shifts s(a) left by s(b)[5:0]. -/
  | shl (d : BitVec 6) (a : BitVec 6) (b : BitVec 6)
  /-- SHR (R199). Shifts s(a) right, logically, by s(b)[5:0]. -/
  | shr (d : BitVec 6) (a : BitVec 6) (b : BitVec 6)
  /-- SRA (R199). Shifts s(a) right, arithmetically, by s(b)[5:0]. -/
  | sra (d : BitVec 6) (a : BitVec 6) (b : BitVec 6)
  /-- ROL (R199). Rotates s(a) left by s(b)[5:0]. -/
  | rol (d : BitVec 6) (a : BitVec 6) (b : BitVec 6)
  /-- MIN (R199). Writes the signed minimum of s(a) and s(b). -/
  | min (d : BitVec 6) (a : BitVec 6) (b : BitVec 6)
  /-- MAX (R199). Writes the signed maximum of s(a) and s(b). -/
  | max (d : BitVec 6) (a : BitVec 6) (b : BitVec 6)
  /-- MINN (R199). Writes the natural minimum of s(a) and s(b). -/
  | minn (d : BitVec 6) (a : BitVec 6) (b : BitVec 6)
  /-- MAXN (R199). Writes the natural maximum of s(a) and s(b). -/
  | maxn (d : BitVec 6) (a : BitVec 6) (b : BitVec 6)
  /-- CLZ (R199). Writes the number of leading zero bits of s(a), or 64 when it is zero. -/
  | clz (d : BitVec 6) (a : BitVec 6)
  /-- CTZ (R199). Writes the number of trailing zero bits of s(a), or 64 when it is zero. -/
  | ctz (d : BitVec 6) (a : BitVec 6)
  /-- POPC (R199). Writes the number of one bits of s(a). -/
  | popc (d : BitVec 6) (a : BitVec 6)
  /-- BREV (R199). Writes the bit reversal of s(a). -/
  | brev (d : BitVec 6) (a : BitVec 6)
  /-- ADDI (R200). Writes s(a) plus the sign-extended imm14, wrapping. -/
  | addi (d : BitVec 6) (a : BitVec 6) (i : BitVec 14)
  /-- ANDI (R200). Writes s(a) AND the sign-extended imm14. -/
  | andi (d : BitVec 6) (a : BitVec 6) (i : BitVec 14)
  /-- ORI (R200). Writes s(a) OR the sign-extended imm14. -/
  | ori (d : BitVec 6) (a : BitVec 6) (i : BitVec 14)
  /-- XORI (R200). Writes s(a) XOR the sign-extended imm14. -/
  | xori (d : BitVec 6) (a : BitVec 6) (i : BitVec 14)
  /-- SHLI (R200). Shifts s(a) left by an immediate amount. -/
  | shli (d : BitVec 6) (a : BitVec 6) (n : BitVec 6)
  /-- SHRI (R200). Shifts s(a) right, logically, by an immediate amount. -/
  | shri (d : BitVec 6) (a : BitVec 6) (n : BitVec 6)
  /-- SRAI (R200). Shifts s(a) right, arithmetically, by an immediate amount. -/
  | srai (d : BitVec 6) (a : BitVec 6) (n : BitVec 6)
  /-- ROLI (R200). Rotates s(a) left by an immediate amount. -/
  | roli (d : BitVec 6) (a : BitVec 6) (n : BitVec 6)
  /-- LI (R201). Writes sext(imm20) to s(d), untainted. -/
  | li (d : BitVec 6) (i : BitVec 20)
  /-- LUI (R201). Replaces bits [39:20] of s(d) with imm20. -/
  | lui (d : BitVec 6) (i : BitVec 20)
  /-- LUH (R201). Replaces bits [63:40] of s(d) with imm20 sign-extended to 24 bits. -/
  | luh (d : BitVec 6) (i : BitVec 20)
  /-- CMP (R202). Writes predicate pd with a signed or natural comparison of s(a) and s(b). -/
  | cmp (p : BitVec 3) (c : BitVec 4) (a : BitVec 6) (b : BitVec 6)
  /-- CMPI (R202). Writes predicate pd with a comparison of s(a) and a sign-extended imm13. -/
  | cmpi (p : BitVec 3) (c : BitVec 4) (a : BitVec 6) (i : BitVec 13)
  /-- SEL (R203). Writes s(a) when the (optionally negated) predicate holds, else s(b). -/
  | sel (d : BitVec 6) (a : BitVec 6) (b : BitVec 6) (n : BitVec 1) (p : BitVec 3)
  /-- PAND (R204). Writes the AND of two predicates. -/
  | pand (d : BitVec 3) (a : BitVec 3) (b : BitVec 3)
  /-- POR (R204). Writes the OR of two predicates. -/
  | por (d : BitVec 3) (a : BitVec 3) (b : BitVec 3)
  /-- PXOR (R204). Writes the XOR of two predicates. -/
  | pxor (d : BitVec 3) (a : BitVec 3) (b : BitVec 3)
  /-- PNOT (R204). Writes the inverse of a predicate. -/
  | pnot (d : BitVec 3) (a : BitVec 3)
  /-- PMOV (R204). Copies a predicate. -/
  | pmov (d : BitVec 3) (a : BitVec 3)
  /-- PSET (R204). Sets a predicate to 1. -/
  | pset (d : BitVec 3)
  /-- PCLR (R204). Clears a predicate to 0. -/
  | pclr (d : BitVec 3)
  /-- LD (R205). Loads 2^sz bytes, sign-extended, through the block view. -/
  | ld (d : BitVec 6) (a : BitVec 6) (s : BitVec 2) (o : BitVec 12)
  /-- LDN (R205). Loads 2^sz bytes, zero-extended, through the block view. -/
  | ldn (d : BitVec 6) (a : BitVec 6) (s : BitVec 2) (o : BitVec 12)
  /-- ST (R205). Buffers a store of 2^sz bytes that becomes visible at commit. -/
  | st (d : BitVec 6) (a : BitVec 6) (s : BitVec 2) (o : BitVec 12)
  /-- LDC (R206). Load-consume that taints its destination and orders dependent accesses. -/
  | ldc (d : BitVec 6) (a : BitVec 6) (s : BitVec 1) (o : BitVec 12)
  /-- LDA (R207). Load that is an acquire at its scope. -/
  | lda (d : BitVec 6) (a : BitVec 6) (s : BitVec 2) (c : BitVec 2) (o : BitVec 10)
  /-- STL (R207). Store that is a release at its scope. -/
  | stl (d : BitVec 6) (a : BitVec 6) (s : BitVec 2) (c : BitVec 2) (o : BitVec 10)
  /-- AMO_ADD (R208). Atomic add at the home during commit, returning the old value. -/
  | amoAdd (d : BitVec 6) (a : BitVec 6) (b : BitVec 6) (c : BitVec 2) (s : BitVec 1) (o : BitVec 1)
  /-- AMO_AND (R208). Atomic AND at the home, returning the old value. -/
  | amoAnd (d : BitVec 6) (a : BitVec 6) (b : BitVec 6) (c : BitVec 2) (s : BitVec 1) (o : BitVec 1)
  /-- AMO_OR (R208). Atomic OR at the home, returning the old value. -/
  | amoOr (d : BitVec 6) (a : BitVec 6) (b : BitVec 6) (c : BitVec 2) (s : BitVec 1) (o : BitVec 1)
  /-- AMO_XOR (R208). Atomic XOR at the home, returning the old value. -/
  | amoXor (d : BitVec 6) (a : BitVec 6) (b : BitVec 6) (c : BitVec 2) (s : BitVec 1) (o : BitVec 1)
  /-- AMO_MIN (R208). Atomic signed minimum at the home. -/
  | amoMin (d : BitVec 6) (a : BitVec 6) (b : BitVec 6) (c : BitVec 2) (s : BitVec 1) (o : BitVec 1)
  /-- AMO_MAX (R208). Atomic signed maximum at the home. -/
  | amoMax (d : BitVec 6) (a : BitVec 6) (b : BitVec 6) (c : BitVec 2) (s : BitVec 1) (o : BitVec 1)
  /-- AMO_MINN (R208). Atomic natural minimum at the home. -/
  | amoMinn (d : BitVec 6) (a : BitVec 6) (b : BitVec 6) (c : BitVec 2) (s : BitVec 1) (o : BitVec 1)
  /-- AMO_MAXN (R208). Atomic natural maximum at the home. -/
  | amoMaxn (d : BitVec 6) (a : BitVec 6) (b : BitVec 6) (c : BitVec 2) (s : BitVec 1) (o : BitVec 1)
  /-- AMO_SWAP (R208). Atomic swap at the home, returning the old value. -/
  | amoSwap (d : BitVec 6) (a : BitVec 6) (b : BitVec 6) (c : BitVec 2) (s : BitVec 1) (o : BitVec 1)
  /-- AMO_CAS (R208). Atomic compare-and-swap against s(d), returning the old value. -/
  | amoCas (d : BitVec 6) (a : BitVec 6) (b : BitVec 6) (c : BitVec 2) (s : BitVec 1) (o : BitVec 1)
  /-- AMO_FADD (R208). Atomic f32 add at the home with the captured rounding mode. -/
  | amoFadd (d : BitVec 6) (a : BitVec 6) (b : BitVec 6) (c : BitVec 2) (o : BitVec 1)
  /-- FENCE (R134). Orders the accesses of the earlier and later sides that its mask names at its scope. -/
  | fence (w : BitVec 1) (x : BitVec 1) (y : BitVec 1) (z : BitVec 1) (c : BitVec 2)
  /-- FADD (R210). Floating-point add rounded under the captured FPCR. -/
  | fadd (d : BitVec 6) (a : BitVec 6) (b : BitVec 6) (f : BitVec 1)
  /-- FSUB (R210). Floating-point subtract. -/
  | fsub (d : BitVec 6) (a : BitVec 6) (b : BitVec 6) (f : BitVec 1)
  /-- FMUL (R210). Floating-point multiply. -/
  | fmul (d : BitVec 6) (a : BitVec 6) (b : BitVec 6) (f : BitVec 1)
  /-- FDIV (R210). Floating-point divide. -/
  | fdiv (d : BitVec 6) (a : BitVec 6) (b : BitVec 6) (f : BitVec 1)
  /-- FSQRT (R210). Floating-point square root. -/
  | fsqrt (d : BitVec 6) (a : BitVec 6) (f : BitVec 1)
  /-- FMIN (R210). Floating-point minimum with −0 below +0. -/
  | fmin (d : BitVec 6) (a : BitVec 6) (b : BitVec 6) (f : BitVec 1)
  /-- FMAX (R210). Floating-point maximum with −0 below +0. -/
  | fmax (d : BitVec 6) (a : BitVec 6) (b : BitVec 6) (f : BitVec 1)
  /-- FABS (R210). Clears the sign bit of s(a). -/
  | fabs (d : BitVec 6) (a : BitVec 6) (f : BitVec 1)
  /-- FNEG (R210). Inverts the sign bit of s(a). -/
  | fneg (d : BitVec 6) (a : BitVec 6) (f : BitVec 1)
  /-- FFMA (R211). Fused multiply-add with a single rounding. -/
  | ffma (d : BitVec 6) (a : BitVec 6) (b : BitVec 6) (c : BitVec 6) (f : BitVec 1)
  /-- FCMP (R212). Writes a predicate from a floating-point comparison with the NaN rules of R212. -/
  | fcmp (p : BitVec 3) (c : BitVec 4) (a : BitVec 6) (b : BitVec 6) (f : BitVec 1)
  /-- FCVT (R213). Converts s(a) between integer and floating-point types. -/
  | fcvt (d : BitVec 6) (a : BitVec 6) (t : BitVec 4) (s : BitVec 4)
  /-- BR (R214). Conditional branch that ends its block when taken. -/
  | br (p : BitVec 3) (n : BitVec 1) (o : BitVec 22)
  /-- J (R214). Jump that ends its block. -/
  | j (o : BitVec 26)
  /-- CALL (R215). Jump that pushes the block's fall-through address, spilling the oldest entry when needed. -/
  | call (o : BitVec 26)
  /-- JR (R214). Jump to the block address in s(a). -/
  | jr (a : BitVec 6)
  /-- CALLR (R214). Call to the block address in s(a). -/
  | callr (a : BitVec 6)
  /-- TMOV (R216). Copies a time register. -/
  | tmov (d : BitVec 3) (a : BitVec 3)
  /-- TSET (R216). Sets one coordinate of a time register from s(x). -/
  | tset (d : BitVec 3) (c : BitVec 2) (x : BitVec 6)
  /-- TGET (R216). Reads one coordinate of a time register into s(x). -/
  | tget (a : BitVec 3) (c : BitVec 2) (x : BitVec 6)
  /-- TINC (R216). Adds s(x) to one coordinate, trapping WATCH on overflow. -/
  | tinc (d : BitVec 3) (a : BitVec 3) (c : BitVec 2) (x : BitVec 6)
  /-- TJOIN (R216). Writes the join of two times. -/
  | tjoin (d : BitVec 3) (a : BitVec 3) (b : BitVec 3)
  /-- TMEET (R216). Writes the meet of two times. -/
  | tmeet (d : BitVec 3) (a : BitVec 3) (b : BitVec 3)
  /-- TLE (R216). Writes a predicate: ta ≤ tb in the product order. -/
  | tle (a : BitVec 3) (b : BitVec 3) (p : BitVec 3)
  /-- TLT (R216). Writes a predicate: ta < tb. -/
  | tlt (a : BitVec 3) (b : BitVec 3) (p : BitVec 3)
  /-- TEQ (R216). Writes a predicate: ta = tb. -/
  | teq (a : BitVec 3) (b : BitVec 3) (p : BitVec 3)
  /-- TADV (R216). Advances a coordinate to s(x) and clears those above it. -/
  | tadv (d : BitVec 3) (a : BitVec 3) (c : BitVec 2) (x : BitVec 6)
  /-- TINCI (R216). Adds an immediate to one coordinate. -/
  | tinci (d : BitVec 3) (a : BitVec 3) (c : BitVec 2) (n : BitVec 6)
  /-- HZLD (R217). Reads a location's frontier into hz and binds it. -/
  | hzld (h : BitVec 3) (x : BitVec 6)
  /-- HZWAIT (R217). Waits until a time is complete under the bound location's frontier. -/
  | hzwait (a : BitVec 3) (h : BitVec 3)
  /-- HZPUB (R217). Publishes hz as a source's new input frontier at commit. -/
  | hzpub (h : BitVec 3) (x : BitVec 6)
  /-- HZLE (R217). Writes a predicate: the time is not yet complete under hz. -/
  | hzle (a : BitVec 3) (h : BitVec 3) (p : BitVec 3)
  /-- HZGET (R217). Reads the element count of hz. -/
  | hzget (h : BitVec 3) (x : BitVec 6)
  /-- HZTIME (R217). Reads one element of hz into a time register. -/
  | hztime (d : BitVec 3) (h : BitVec 3) (e : BitVec 3)
  /-- ENQ_MX (R219). Enqueues a two-word MX command at commit. -/
  | enqMx (a : BitVec 6) (b : BitVec 6) (c : BitVec 6)
  /-- ENQ_AG (R219). Enqueues a run of an ME stream descriptor, optionally overriding its base. -/
  | enqAg (a : BitVec 6) (b : BitVec 6) (c : BitVec 6) (f : BitVec 1)
  /-- ENQ_CL (R310). Enqueues a collective named by a descriptor in memory. -/
  | enqCl (a : BitVec 6) (b : BitVec 6)
  /-- ENQ_LK (R311). Enqueues a link command named by a descriptor. -/
  | enqLk (a : BitVec 6) (b : BitVec 6)
  /-- ENQ_SC (R312). Enqueues a scrub of memory blocks named by a descriptor. -/
  | enqSc (a : BitVec 6) (b : BitVec 6)
  /-- ENQ_TI (R220). Enqueues injection of a token built from registers at a TI port. -/
  | enqTi (a : BitVec 6) (b : BitVec 6) (c : BitVec 6) (p : BitVec 2)
  /-- ENQ_TO (R221). Enqueues taking the next token at a TO port into memory. -/
  | enqTo (a : BitVec 6) (b : BitVec 6) (p : BitVec 2)
  /-- ENQ_PL (R222). Enqueues a demand for a placement state of a DTD. -/
  | enqPl (a : BitVec 6) (b : BitVec 6) (c : BitVec 6)
  /-- WAITC (R224). Waits until a completion object's count reaches s(b), then acquires. -/
  | waitc (a : BitVec 6) (b : BitVec 6)
  /-- SIGC (R225). Signals a completion object at commit as a release. -/
  | sigc (a : BitVec 6) (b : BitVec 6) (s : BitVec 3)
  /-- WAITB (R227). Waits until a barrier's arrivals reach expected, writing its poison flag to a predicate. -/
  | waitb (p : BitVec 3) (a : BitVec 6)
  /-- BARA (R226). Arms a byte-counting barrier at commit and advances its generation. -/
  | bara (a : BitVec 6) (b : BitVec 6) (s : BitVec 1)
  /-- CFG_LOAD (R228). Verifies a pricking and stages it as the slot's next configuration. -/
  | cfgLoad (a : BitVec 6) (b : BitVec 6) (c : BitVec 6)
  /-- CFG_SWITCH (R228). Injects SWITCH picots to move the region to the staged configuration. -/
  | cfgSwitch (b : BitVec 6) (c : BitVec 6)
  /-- CFG_PAGE (R228). Fetches a site's element unit ahead of its first token. -/
  | cfgPage (a : BitVec 6) (b : BitVec 6)
  /-- CTX_LAUNCH (R230). Enters a context RCB's physical address into launch queue 15 at commit. -/
  | ctxLaunch (a : BitVec 6)
  /-- CTX_PRIO (R327). Sets a context's firing priority, clamped to its parent's. -/
  | ctxPrio (a : BitVec 6) (n : BitVec 4)
  /-- CTX_SUSP (R230). Stops a context's streams at block boundaries and its queued command issue. -/
  | ctxSusp (a : BitVec 6)
  /-- CTX_RESUME (R230). Undoes ctx.susp. -/
  | ctxResume (a : BitVec 6)
  /-- CTX_EVICT (R328). Starts eviction of a context by SNAP picots. -/
  | ctxEvict (a : BitVec 6)
  /-- MFS (R198). Reads a system register into s(d). -/
  | mfs (d : BitVec 6) (r : BitVec 6) (s : BitVec 4)
  /-- MTS (R198). Writes s(d) into a system register's writable fields. -/
  | mts (d : BitVec 6) (r : BitVec 6) (s : BitVec 4)
  /-- TRAP (R232). Traps with code 0x0B and the argument s(a). -/
  | trap (a : BitVec 6)
  /-- TRACE (R235). Writes a user entry with s(a) into the memory trace ring at commit. -/
  | trace (a : BitVec 6)
  /-- AGS_RD (R288). Runs an affine read, emitting tokens or filling a tile. -/
  | agsRd (w : MeW)
  /-- AGS_WR (R288). Runs an affine write from arriving tokens or a tile. -/
  | agsWr (w : MeW)
  /-- AGS_RDCF (R94). Reads and decodes CF8 blocks, emitting HDR and data tokens. -/
  | agsRdcf (w : MeW)
  /-- AGS_WRCF (R93). Encodes arriving E4M3 blocks as CF8 and writes them. -/
  | agsWrcf (w : MeW)
  /-- AGS_FILL (R288). Copies a run's bytes into scratchpad. -/
  | agsFill (w : MeW)
  /-- AGS_SCRUB (R313). Scrubs 64-byte blocks and emits a bitmap. -/
  | agsScrub (w : MeW)
  /-- AGX_GATH (R289). Gathers elements at A's indices. -/
  | agxGath (w : MeW)
  /-- AGX_SCAT (R289). Scatters B's elements to A's indices. -/
  | agxScat (w : MeW)
  /-- AGX_CHASE (R290). Starts a pointer chase from A's address. -/
  | agxChase (w : MeW)
  /-- AGX_ATOM_ADD (R291). Atomic add per element at the home, returning old values. -/
  | agxAtomAdd (w : MeW)
  /-- AGX_ATOM_MIN (R291). Atomic minimum per element. -/
  | agxAtomMin (w : MeW)
  /-- AGX_ATOM_MAX (R291). Atomic maximum per element. -/
  | agxAtomMax (w : MeW)
  /-- AGX_ATOM_CAS (R291). Atomic compare-and-swap per element. -/
  | agxAtomCas (w : MeW)
  /-- AGX_ATOM_SWP (R291). Atomic swap per element. -/
  | agxAtomSwp (w : MeW)
  /-- WAV_LD (R292). Submits a wave-ordered load. -/
  | wavLd (o p s : BitVec 6) (z : BitVec 2) (d : BitVec 3)
  /-- WAV_ST (R292). Submits a wave-ordered store. -/
  | wavSt (o p s : BitVec 6) (z : BitVec 2) (d : BitVec 3)
  /-- WAV_MNOP (R292). Submits a wave-ordered placeholder that makes no access. -/
  | wavMnop (o p s : BitVec 6) (z : BitVec 2) (d : BitVec 3)
  /-- TTB_LOOK (R293). Looks up a key in the tag table. -/
  | ttbLook (w : MeW)
  /-- TTB_INS (R293). Inserts a key and slot into the tag table. -/
  | ttbIns (w : MeW)
  /-- TTB_EVICT (R293). Invalidates the context's entry of a key. -/
  | ttbEvict (w : MeW)
  /-- TTB_FILL (R293). Copies a line from memory into scratchpad, then inserts it. -/
  | ttbFill (w : MeW)
  /-- TIL_SETF (R294). Moves a tile from EMPTY to FILLING. -/
  | tilSetf (w : MeW)
  /-- TIL_READY (R294). Moves a tile from FILLING to READY. -/
  | tilReady (w : MeW)
  /-- TIL_DRAIN (R294). Drains a READY tile as DENSE tokens. -/
  | tilDrain (w : MeW)
  /-- TIL_EMPTY (R294). Empties a tile and removes it from its ring. -/
  | tilEmpty (w : MeW)
  /-- TIL_PUSH (R294). Appends a tile to a ring's tail. -/
  | tilPush (w : MeW)
  /-- TIL_POP (R294). Removes a ring's head. -/
  | tilPop (w : MeW)
  /-- TIL_QUERY (R294). Emits a tile entry and a ring entry. -/
  | tilQuery (w : MeW)
  /-- ARR_INS (R295). Inserts a group of changes as a new arrangement batch. -/
  | arrIns (w : MeW)
  /-- ARR_SEEK (R296). Seeks a key in an arrangement and emits consolidated changes or contents. -/
  | arrSeek (w : MeW)
  /-- ARR_CMPT (R295). Compacts every batch under a given frontier. -/
  | arrCmpt (w : MeW)
  /-- ARR_MRG (R295). Merges every batch into one consolidated batch. -/
  | arrMrg (w : MeW)
  /-- BAR (R297). Arrives at a byte-counting barrier once earlier writes are visible. -/
  | bar (w : MeW)
  /-- PLD (R298). Placement-aware read that waits for the demanded state. -/
  | pld (w : MeW)
  /-- PST (R298). Placement-aware write that waits for the demanded state. -/
  | pst (w : MeW)
  /-- SBR (R299). Stops named streams until their earlier accesses are visible. -/
  | sbr (w : MeW)
  /-- MMA (R302). Starts a matrix multiply-accumulate into FX128 cells, after gang rendezvous. -/
  | mma (w : MxW)
  /-- MMA_KSTEP (R302). One K-step once operand tiles are READY, retiring by popping the rings. -/
  | mmaKstep (w : MxW)
  /-- MMZ (R303). Zeroes accumulator cells, OVR bits and invalid marks. -/
  | mmz (w : MxW)
  /-- MLOAD (R303). Loads a tile's rows into cells as FX128 terms. -/
  | mload (w : MxW)
  /-- MDRAIN (R304). Rounds cells to a target format and emits them as tokens. -/
  | mdrain (w : MxW)
  /-- CVRESET (R305). Takes accumulator slots for coverage state and initialises it. -/
  | cvreset (w : MxW)
  /-- CVRESET_RELEASE (R305). Returns the coverage slots to mma. -/
  | cvresetRelease (w : MxW)
  /-- CVLOAD_ENT (R306). Loads coverage entries from the ring A head tile. -/
  | cvloadEnt (w : MxW)
  /-- CVLOAD_GAIN (R306). Loads gains with tie keys and marks them valid. -/
  | cvloadGain (w : MxW)
  /-- CVPROBE (R307). Accumulates weighted gains from similarity cells. -/
  | cvprobe (w : MxW)
  /-- CVCOMMIT (R307). Raises best values by a committed column. -/
  | cvcommit (w : MxW)
  /-- CVREAD_ARG (R308). Emits the argmax of the valid gains in a range. -/
  | cvreadArg (w : MxW)
  /-- CVREAD_GAIN (R308). Emits the gains of a range. -/
  | cvreadGain (w : MxW)
  /-- ALLREDUCE (R310). Collective that combines each member's part and gives every member the result. -/
  | allreduce (d : ClDesc)
  /-- REDUCE_SCATTER (R310). Collective that combines and leaves each member its share. -/
  | reduceScatter (d : ClDesc)
  /-- ALLGATHER (R310). Collective that gathers every member's part in coordinate order. -/
  | allgather (d : ClDesc)
  /-- ALLTOALL (R310). Collective that exchanges one part per destination. -/
  | alltoall (d : ClDesc)
  /-- IRREGULAR_ALLTOALL (R160). Collective round that assigns records to destinations under capacity and policy. -/
  | irregularAlltoall (d : ClDesc)
  /-- COLLECTIVE_NODE_FIRE (R159). A collective graph node combines or forwards tokens from its group. -/
  | collectiveNodeFire (node : Nat)
  /-- SEND (R311). Sends flits of a payload to another node under the transmit slot. -/
  | send (d : LkDesc)
  /-- KEYLD (R311). Installs an enrolled key into a port slot. -/
  | keyld (d : LkDesc)
  /-- KEYSW (R311). Sends a key-switch marker and moves transmission to the other slot. -/
  | keysw (d : LkDesc)
  /-- STAT (R311). Writes the port's link status. -/
  | stat (d : LkDesc)
  /-- SCRUB (R313). Scrubs memory blocks in order, writing the bitmap. -/
  | scrub (d : ScDesc)
  /-- UNLATCH (R40). Element command that clears a slot's latched value. -/
  | unlatch (n : BitVec 4)
  /-- ACCCLR (R40). Element command that empties an accumulator without emitting. -/
  | accclr (n : BitVec 4)
  /-- SWITCH (R229). A SWITCH picot arrives; once on every input, the element or box takes its new words and forwards it. -/
  | switch (gen : BitVec 24)
  /-- SNAP (R328). A SNAP picot arrives; the unit records its state and forwards SNAP, later recording channel state. -/
  | snap (id : BitVec 16)
  /-- ABORT (R399). An ABORT picot for a collective in flight ends that collective at the member. -/
  | abort (id : BitVec 24)
  /-- CONFIG_UNCORRECTABLE (R374). An uncorrectable configuration word freezes the region while the unit is refetched. -/
  | configUncorrectable (isBox : Bool)
  /-- WALK (R121). A translation walk completes, setting a and d by compare-and-swap. -/
  | walk (root va : DWord) (ag : Bool) (acc : Access)
  /-- ACTIVATION_ALERT (R385). An HBM activation alert triggers mitigation, with owed refreshes first when 8 are postponed. -/
  | activationAlert (stack bank : Nat) (postponed : Nat)
  /-- GATEWAY_MESSAGE (R339). A batch of pointstamp updates is applied whole at the receiving aggregate in seq order. -/
  | gatewayMessage (ptab : DWord) (seq : Word) (ups : List StampUpdate)
  /-- CONVERSION_RENDEZVOUS (R154). Members meet on a collective id and perform the phases of a placement conversion. -/
  | conversionRendezvous (cid dtd : Nat)
  /-- CONVERSION_COMPLETE (R154). When every member finishes, st, gen and busy are updated and done is signalled. -/
  | conversionComplete (cid dtd : Nat)
  /-- LAUNCH_NOTIFY (R316). A write of LQNTF notifies the scheduler of new entries. -/
  | launchNotify (q : BitVec 4) (tail : BitVec 9)
  /-- LAUNCH_ENTRY_READ (R316). The scheduler reads a queue entry, advances head and marks the RCB queued. -/
  | launchEntryRead (q : BitVec 4)
  /-- CANDIDATE_FAULT (R378). A candidate that can never become ready is ended with a record. -/
  | candidateFault (q : BitVec 4)
  /-- WAITING_PRIORITY_AGING (R320). A candidate's waiting priority rises one level per 2^20 die cycles. -/
  | waitingPriorityAging (q : BitVec 4)
  /-- ADMIT (R320). The scheduler admits the chosen ready candidate and advances its partition's pass value. -/
  | admission (q : BitVec 4)
  /-- CONTEXT_START (R324). Once every region has loaded, the context runs and its streams start. -/
  | contextStart (cid : Nat)
  /-- RETIRE (R326). A finished context releases its resources and signals done. -/
  | retire (cid : Nat)
  /-- EVICTION_COMPLETE (R328). A complete snapshot is written, slots released and the context requeued. -/
  | evictionComplete (cid : Nat)
  /-- POST_MORTEM_COMPLETE (R420). The sealed image is visible, pmres written, then done signalled. -/
  | postMortemComplete (cid : Nat)
  /-- FENCE_CLUSTER (R343). Setting a CFENCE bit fences a cluster and evicts its contexts. -/
  | fenceCluster (c : BitVec 6)
  /-- UNFENCE_CLUSTER (R343). Clearing a CFENCE bit re-admits the cluster once ready. -/
  | unfenceCluster (c : BitVec 6)
  /-- REPLACE_CLUSTER_MICROCODE (R343). CMCODE go verifies and installs a cluster microcode image. -/
  | replaceClusterMicrocode (v : DWord)
  /-- UPDATE_FIRMWARE (R343). FWSTAGE go verifies a staged firmware image. -/
  | updateFirmware (v : DWord)
  /-- RETRAIN_PORT (R343). PCTL.train drains the port's replay buffer and retrains it. -/
  | retrainPort (port : BitVec 6)
  /-- PORT_ENABLE (R343). PCTL.en enables or disables a link port. -/
  | portEnable (port : BitVec 6) (en : Bool)
  /-- FAULT_RETRY (R391). FQRES with act 0 retries a stalled access afresh. -/
  | faultRetry (seq : Word)
  /-- FQRES_END (R391). FQRES with act 1 ends the context of a fault record. -/
  | fqresEnd (seq : Word)
  /-- KEY_IMPORT (R346). Decapsulates, unwraps and stores an imported key, returning its handle. -/
  | keyImport (rec : DWord)
  /-- KEY_REMOVE (R346). Frees a key store entry and advances its generation. -/
  | keyRemove (rec : DWord)
  /-- ATTESTATION_REPORT (R347). ATTGO go writes a signed attestation report. -/
  | attestationReport (v : DWord)
  /-- POWER_CAP (R344). A write of MCAP sets the requested module power cap. -/
  | powerCap (cap : BitVec 13)
  /-- REGISTER_WRITE (R7). A write of a register with no row of its own updates its writable fields. -/
  | registerWrite (window : BitVec 4) (off : BitVec 16) (v : DWord)
  /-- FUNCTION_READY (R25). A die, cluster, stack, port or controller reports ready and sets its bit. -/
  | functionReady (fn : ReadyFn) (up : Bool)
  /-- FLIT_TRANSMIT (R336). A port sends its next flit under its current slot when the replay buffer has room. -/
  | flitTransmit (port : BitVec 6)
  /-- OPEN (R334). Receipt of a transfer's OPEN flit. -/
  | flitOpen (port : BitVec 6) (h : FlitHdr) (addr mode ptab n : DWord)
  /-- DATA (R335). Receipt of a DATA flit, performed in index order. -/
  | flitData (port : BitVec 6) (h : FlitHdr) (pay : List DWord)
  /-- READ (R334). Receipt of a READ flit, answered with one RDATA. -/
  | flitRead (port : BitVec 6) (h : FlitHdr) (addr len rxfer : DWord)
  /-- RDATA (R334). Receipt of an RDATA reply. -/
  | flitRdata (port : BitVec 6) (h : FlitHdr) (pay : List DWord)
  /-- MARK (R337). Receipt of the key-switch marker switches the receive slot. -/
  | flitMark (port : BitVec 6) (h : FlitHdr)
  /-- ACK (R336). Receipt of an ACK frees acknowledged replay flits. -/
  | flitAck (port : BitVec 6) (ctr : DWord)
  /-- NAK (R401). Receipt of a NAK resends from the named flit with original IVs. -/
  | flitNak (port : BitVec 6) (ctr : DWord)
  /-- FLIT_AUTH_FAILURE (R401). A flit failing authentication is discarded with later flits and one NAK is returned. -/
  | flitAuthFailure (port : BitVec 6)
  /-- RESEND_TIMEOUT (R401). No ACK for 4,096 port cycles resends the oldest unacknowledged flit. -/
  | resendTimeout (port : BitVec 6)
  /-- RET (R215). Pops the return stack, refilling from the spill area when empty on chip. -/
  | ret
  /-- RETI (R233). Commits, clears th and resumes at trapblk. -/
  | reti
  /-- EXIT (R234). Commits and stops the stream fetching. -/
  | exit
  /-- NOP (R235). Has no effect. -/
  | nop
  /-- YIELD (R235). Transfers to the fall-through block and goes behind ready streams of its priority. -/
  | yield
  /-- BLOCK_COMMIT (R50). Makes all buffered effects of a block visible at once, after any wait for queue room. -/
  | blockCommit
  /-- ASYNC_TRAP (R357). An asynchronous trap from a refused command is taken at the next block boundary or wait. -/
  | asyncTrap
  /-- STREAM_EXITED (R234). An exited stream becomes exited once all its queued commands have completed. -/
  | streamExited
  /-- CE_ADD (R248). Integer element-wise add, wrapping or saturating. -/
  | ceAdd
  /-- CE_SUB (R248). Integer element-wise subtract. -/
  | ceSub
  /-- CE_MUL (R248). Integer element-wise multiply. -/
  | ceMul
  /-- CE_MULH (R248). Integer element-wise high product. -/
  | ceMulh
  /-- CE_MIN (R248). Integer element-wise minimum. -/
  | ceMin
  /-- CE_MAX (R248). Integer element-wise maximum. -/
  | ceMax
  /-- CE_ABS (R248). Integer element-wise absolute value. -/
  | ceAbs
  /-- CE_NEG (R248). Integer element-wise negation. -/
  | ceNeg
  /-- CE_MAD (R248). Integer element-wise x·y + z with one wrap or saturation. -/
  | ceMad
  /-- CE_AVG (R248). Integer element-wise floor average. -/
  | ceAvg
  /-- CE_AND (R249). Element-wise AND. -/
  | ceAnd
  /-- CE_OR (R249). Element-wise OR. -/
  | ceOr
  /-- CE_XOR (R249). Element-wise XOR. -/
  | ceXor
  /-- CE_ANDN (R249). Element-wise AND NOT. -/
  | ceAndn
  /-- CE_NOT (R249). Element-wise NOT. -/
  | ceNot
  /-- CE_SHL (R249). Element-wise left shift. -/
  | ceShl
  /-- CE_SHR (R249). Element-wise logical right shift. -/
  | ceShr
  /-- CE_SRA (R249). Element-wise arithmetic right shift. -/
  | ceSra
  /-- CE_ROL (R249). Element-wise rotate left. -/
  | ceRol
  /-- CE_POPC (R249). Element-wise population count. -/
  | cePopc
  /-- CE_CLZ (R249). Element-wise leading-zero count. -/
  | ceClz
  /-- CE_FLOAT_ADD (R250). Float element-wise add, rounded once. -/
  | ceFloatAdd
  /-- CE_FLOAT_SUB (R250). Float element-wise subtract. -/
  | ceFloatSub
  /-- CE_FLOAT_MUL (R250). Float element-wise multiply. -/
  | ceFloatMul
  /-- CE_FMA (R250). Float fused multiply-add with one rounding. -/
  | ceFma
  /-- CE_FLOAT_MIN (R250). Float element-wise minimum. -/
  | ceFloatMin
  /-- CE_FLOAT_MAX (R250). Float element-wise maximum. -/
  | ceFloatMax
  /-- CE_FLOAT_ABS (R250). Float element-wise absolute value. -/
  | ceFloatAbs
  /-- CE_FLOAT_NEG (R250). Float element-wise negation. -/
  | ceFloatNeg
  /-- CE_FMS (R250). Float fused x·y − z with one rounding. -/
  | ceFms
  /-- CE_RCP (R251). Correctly rounded reciprocal. -/
  | ceRcp
  /-- CE_RSQ (R251). Correctly rounded reciprocal square root. -/
  | ceRsq
  /-- CE_SQRT (R251). Correctly rounded square root, SR included. -/
  | ceSqrt
  /-- CE_EXP2 (R251). Correctly rounded 2^x. -/
  | ceExp2
  /-- CE_LOG2 (R251). Correctly rounded log2 x. -/
  | ceLog2
  /-- CE_TANH (R251). Correctly rounded tanh. -/
  | ceTanh
  /-- CE_SIGM (R251). Correctly rounded sigmoid. -/
  | ceSigm
  /-- CE_SIN (R251). Correctly rounded sine. -/
  | ceSin
  /-- CE_COS (R251). Correctly rounded cosine. -/
  | ceCos
  /-- CE_ERF (R251). Correctly rounded erf. -/
  | ceErf
  /-- CE_CMP (R252). Element-wise comparison giving all ones or zero. -/
  | ceCmp
  /-- CE_SEL (R253). Element-wise select of A or B by C. -/
  | ceSel
  /-- CVT (R254). Converts each element between types, recolouring through k. -/
  | cvt
  /-- QNTB (R255). Quantises A to a block-scaled format, emitting an HDR then the data token. -/
  | qntb
  /-- QNT (R255). Quantises A to an unscaled narrow format. -/
  | qnt
  /-- DEQ (R256). Decodes narrow elements with their scale and rounds into f32, bf16 or f16. -/
  | deq
  /-- MOV (R257). Copies A lanes, or a constant when k is nonzero. -/
  | mov
  /-- MOVK (R257). Emits constant kN in every lane with A's header. -/
  | movk
  /-- BCAST (R257). Broadcasts A lane k to every lane. -/
  | bcast
  /-- LSHIFT (R257). Shifts lanes up by k, filling with zero. -/
  | lshift
  /-- LREV (R257). Reverses the lane order. -/
  | lrev
  /-- LSEL (R257). Selects A lanes by the indices in B. -/
  | lsel
  /-- STEER_BIT (R258). Sends A to o0 or o1 by C lane 0. -/
  | steerBit
  /-- STEER_PAR (R258). Sends A to o0 or o1 by the parity of its key hash. -/
  | steerPar
  /-- MERGE_ANY (R259). Emits the older of the two port heads. -/
  | mergeAny
  /-- MERGE_TAG (R259). Emits the head whose tag comes first in cyclic order. -/
  | mergeTag
  /-- COPY (R258). Sends A to both outputs. -/
  | copy
  /-- GATE (R258). Passes A once a B of its tag arrives, discarding B. -/
  | gate
  /-- DROP (R258). Consumes A and emits nothing. -/
  | drop
  /-- SINK (R261). Consumes and counts tokens, emitting the counts and EOS at EOS. -/
  | sink
  /-- TAG_INC (R262). Advances A's tag by k within its colour's range. -/
  | tagInc
  /-- TAG_SET (R262). Sets A's tag from B lane 0. -/
  | tagSet
  /-- TAG_GET (R262). Emits A's tag offset. -/
  | tagGet
  /-- TAG_BASE (R262). Emits A's colour base and tag count. -/
  | tagBase
  /-- ALC_ALLOC (R263). Allocates a colour and tag range, waiting until free, and emits the grant. -/
  | alcAlloc
  /-- ALC_FREE (R262). Frees A's colour and range. -/
  | alcFree
  /-- PACK (R264). Joins g tokens into one wider token of the result colour. -/
  | pack
  /-- UNPACK (R264). Splits A into g narrower tokens. -/
  | unpack
  /-- RED_SUM (R266). Accumulates per-lane sums over a group and emits at its close. -/
  | redSum
  /-- RED_MIN (R266). Accumulates per-lane minima over a group. -/
  | redMin
  /-- RED_MAX (R266). Accumulates per-lane maxima over a group. -/
  | redMax
  /-- RED_AND (R266). Accumulates per-lane AND over a group. -/
  | redAnd
  /-- RED_OR (R266). Accumulates per-lane OR over a group. -/
  | redOr
  /-- RED_CNT (R266). Counts nonzero lanes over a group. -/
  | redCnt
  /-- SCAN_SUM (R267). Running sum over a group, one token out per token in. -/
  | scanSum
  /-- SCAN_MAX (R267). Running maximum over a group. -/
  | scanMax
  /-- LRS (R268). Linear recurrence h := a·h + b with one rounding. -/
  | lrs
  /-- ACC_ADD (R269). Adds A into a shared accumulator, emitting nothing. -/
  | accAdd
  /-- ACC_MAX (R269). Maxes A into a shared accumulator. -/
  | accMax
  /-- ACC_RESET (R269). Emits and empties an accumulator. -/
  | accReset
  /-- CNEG (R270). Negates a change's diff. -/
  | cneg
  /-- CSCALE (R270). Scales a change's value elements by B. -/
  | cscale
  /-- MKCHG (R270). Builds a change from B's time and diff and A's lanes. -/
  | mkchg
  /-- DENSE (R270). Turns a change into a dense token weighted by its diff. -/
  | dense
  /-- DADD (R270). Adds a diff-weighted change into a dense token. -/
  | dadd
  /-- CT_ENTER (R271). Enters a loop: adds a zero coordinate and recolours to depth d+1. -/
  | ctEnter
  /-- CT_LEAVE (R271). Leaves a loop: clears c(d) and recolours to depth d−1. -/
  | ctLeave
  /-- CT_STEP (R271). Increments the innermost loop counter. -/
  | ctStep
  /-- CT_SET (R271). Sets coordinate j from B lane 0. -/
  | ctSet
  /-- CT_ADV (R271). Advances coordinate j to B and clears those above. -/
  | ctAdv
  /-- CT_LE (R272). Sends A to o0 when its time ≤ B's time, else o1. -/
  | ctLe
  /-- CT_LT (R272). Time test A < B. -/
  | ctLt
  /-- CT_EQ (R272). Time test A = B. -/
  | ctEq
  /-- CT_PAR (R272). Time test A and B incomparable. -/
  | ctPar
  /-- KHASH (R273). Emits the key hash of A. -/
  | khash
  /-- KEXCH (R273). Routes A by bit k of its key hash. -/
  | kexch
  /-- CJOIN (R274). Pairs a new change with each seek reply, emitting the joined change. -/
  | cjoin
  /-- CRED_COUNT (R275). Computes the count-reduction correction at one time and key. -/
  | credCount
  /-- CRED_SUM (R275). Computes the sum-reduction correction. -/
  | credSum
  /-- CRED_MIN (R275). Computes the min-reduction correction. -/
  | credMin
  /-- CRED_MAX (R275). Computes the max-reduction correction. -/
  | credMax
  /-- CDIST (R276). Emits the distinct correction [m > 0] − e. -/
  | cdist
  /-- CCONS (R277). Consolidates a group's changes, emitting nonzero sums in order. -/
  | ccons
  /-- CNOTE (R278). Holds a pointstamp at a location and passes A. -/
  | cnote
  /-- CREL (R278). Releases a held pointstamp and passes A. -/
  | crel
  /-- MXC (R280). Emits a two-lane MX command token built from constants and A. -/
  | mxc
  /-- CNTR (R279). Emits c counted tokens per A token. -/
  | cntr
  /-- CTL_SIG (R281). Emits a control bit from A. -/
  | ctlSig
  /-- CTL_WAIT (R281). Routes A by the next control bit on B. -/
  | ctlWait
  /-- CTL_AND2 (R281). Emits the AND of the next control bits on A and B. -/
  | ctlAnd2
  /-- CE_NOP (R282). A slot that never fires. -/
  | ceNop
  /-- WAVE_ACCESS_PERFORM (R292). The memory interface performs a wave access once its predecessor on the path has been performed. -/
  | waveAccessPerform
  /-- SBR_RELEASE (R299). Named streams resume and sbr passes A once their earlier accesses are visible. -/
  | sbrRelease
  /-- MX_ACCEPT (R300). The MX accepts a command from the source whose turn it is when its buffer has room. -/
  | mxAccept
  /-- COMMAND_ISSUE (R53). A queue issues its next command to its engine in entry order. -/
  | commandIssue
  /-- COMMAND_COMPLETE (R55). An engine command whose effects are done signals its completion object. -/
  | commandComplete
  /-- FETCH (R40). Element command that fetches the element unit of the token's context. -/
  | fetch
  /-- SWITCH_FORWARD (R41). A switch word moves a token toward its output or into an element input port when the next hop has room. -/
  | switchForward
  /-- EOS (R247). Once every read port has delivered EOS, the slot flushes unmatched operands and emits EOS. -/
  | eos
  /-- AGING_PROMOTION (R45). A ready slot passed over for 64 cycles is raised one priority level. -/
  | agingPromotion
  /-- CONFIG_UNIT_FETCH (R29). An element unit arrives from the configuration cache, its digest checked, and waiting tokens proceed. -/
  | configUnitFetch
  /-- AG_ACCESS (R287). An AG stream issues the access of its next element. -/
  | agAccess
  /-- AG_REPLY (R138). Replies of AG requests re-enter the fabric as ordered tokens. -/
  | agReply
  /-- AG_RUN_END (R297). A run ends; with arv it arrives at its barrier once its last write is visible. -/
  | agRunEnd
  /-- CHASE_STEP (R290). A pointer chase makes its next load after the previous reply returns. -/
  | chaseStep
  /-- GATHER_ENGINE_BATCH (R127). A stack gather engine performs a batch of up to 64 element accesses. -/
  | gatherEngineBatch
  /-- MU_WATCHDOG (R376). A waiter for MU entries through 2^20 cycles with none freed raises WATCH 0x81. -/
  | muWatchdog
  /-- AGGREGATE_WATCHDOG (R376). A die-aggregate batch waiting the same way raises WATCH 0x82. -/
  | aggregateWatchdog
  /-- XINV_PAGE (R125). Starts invalidation of cached entries overlapping one page of a root. -/
  | xinvPage
  /-- XINV_ROOT (R125). Starts invalidation of every cached entry of a root. -/
  | xinvRoot
  /-- XINV_DIE (R125). Starts invalidation of every cached entry on the die. -/
  | xinvDie
  /-- XINV_DONE (R125). The invalidation finishes and go reads 0. -/
  | xinvDone
  /-- FIRMWARE_SWITCH (R343). The management core switches to the new firmware at its next quiescent point. -/
  | firmwareSwitch
  /-- COLD_RESET (R340). Boot ROM writes the boundary registers, derives keys and verifies firmware. -/
  | coldReset
  /-- RESULT_REACHES_OUTPUT (R244). A firing's result leaves the element pipeline 6 or 12 cycles after issue. It enters the output register and, under dm 2 or 3, is delivered to the local slot at the end of that cycle. -/
  | resultReachesOutput
  deriving DecidableEq, Repr

/-- Where a step acts: the cluster (module-wide index, R13), the context slot or stream, the site, the instruction
slot or descriptor, and a further selector (queue, port, switch word position, issued command). -/
structure Locus where
  cluster : Nat := 0
  ctx : Nat := 0
  site : Nat := 0
  slot : Nat := 0
  sel : Nat := 0
  deriving DecidableEq, Repr, Inhabited

/-- What an agent does in one step: a sequencer stream runs its next instruction, a slot fires, an element takes the
head of its command input, the MX runs its oldest accepted command, an engine runs an issued command, a step with no
words takes place, or the environment upsets stored bits: of a line of memory (R382), a word of scratchpad (R380), or a token that an element holds (R374):
`part` 0 to 2 is the operand of the matching entry `idx` of the slot at that port, 3 its latched value, 4 and 5 token `idx` of an output register. -/
inductive What where
  | stream
  | fire
  | command
  | mx
  | engine
  | event (i : Instr)
  | upsetMemory (line : Nat) (symbols : Nat) (bit : Nat)
  | upsetScratchpad (word : Nat) (kind : Nat)
  | upsetToken (part : Nat) (idx : Nat)
  deriving DecidableEq, Repr, Inhabited

/-- One move of one agent. -/
structure Move where
  at_ : Locus
  what : What
  deriving DecidableEq, Repr, Inhabited

end Sys2Proof
end

