-- ==== Sys2Proof/WellFormed.lean ====
section
/-! DEFINITION. Which instructions are assigned encodings (chapter 9): the fields each one uses and the codes each may take. -/
namespace Sys2Proof

/-- How a CE operation uses the fields of its word (Tables 9.6, 9.7, 18.4): opcode, function code, permitted types, whether
it names a destination, the values its k may take (R180), whether it saturates or is predicated, the fire modes it has, and whether fn is an
operand. The field rnd is never an unused one: an operation that does not round ignores it (R179). -/
structure CeForm where
  op : Nat
  fn : Nat
  tys : List Nat
  dest : Bool := true
  kLo : Nat := 0
  kHi : Nat := 31
  fires : List Nat := [0, 1, 2, 3]
  sat : Bool := false
  pr : Bool := false
  fnFree : Bool := false
  deriving DecidableEq, Repr

/-- How an ME operation uses the fields of its word (Tables 9.10 to 9.12, 12.2, 12.3). -/
structure MeForm where
  op : Nat
  fn : Nat
  tys : List Nat := [0]
  desc : Bool := false
  dslot : Bool := false
  k : Bool := false
  flags : Nat := 0
  deriving DecidableEq, Repr

/-- Integer types of Table 9.6. -/
def intTys : List Nat := [0, 1, 2, 11, 12]

/-- A CE word uses only what its form has (R169, R178, R179). -/
def CeForm.ok (f : CeForm) (w : CeW) : Bool :=
  f.tys.contains w.ty.toNat && (f.fnFree || decide (w.fn.toNat = f.fn)) && (f.dest || decide (w.dm = 0)) && (decide (w.dm.toNat ≥ 2) || decide (w.dslot = 0)) &&
  decide (f.kLo ≤ w.k.toNat) && decide (w.k.toNat ≤ f.kHi) && f.fires.contains w.fire.toNat &&
  (decide (w.sat = 0) || (f.sat && intTys.contains w.ty.toNat)) && (f.pr || decide (w.pr = 0))

/-- An ME word uses only what its form has (R169, R182). -/
def MeForm.ok (f : MeForm) (w : MeW) : Bool :=
  f.tys.contains w.ty.toNat && (f.desc || decide (w.desc = 0)) && (f.dslot || decide (w.dslot = 0)) &&
  (f.k || decide (w.k = 0)) && decide (w.flags.toNat < 2 ^ f.flags)

/-- The form of a CE operation; none for every other instruction. -/
def Instr.ce? : Instr → Option CeForm
  | .ceAdd => some { op := 1, fn := 0, tys := [0, 1, 2, 11, 12], sat := true, pr := true }
  | .ceSub => some { op := 1, fn := 1, tys := [0, 1, 2, 11, 12], sat := true, pr := true }
  | .ceMul => some { op := 1, fn := 2, tys := [0, 1, 2, 11, 12], sat := true, pr := true }
  | .ceMulh => some { op := 1, fn := 3, tys := [0, 1, 2, 11, 12], sat := true, pr := true }
  | .ceMin => some { op := 1, fn := 4, tys := [0, 1, 2, 11, 12], sat := true, pr := true }
  | .ceMax => some { op := 1, fn := 5, tys := [0, 1, 2, 11, 12], sat := true, pr := true }
  | .ceAbs => some { op := 1, fn := 6, tys := [0, 1, 2, 11, 12], sat := true, pr := true }
  | .ceNeg => some { op := 1, fn := 7, tys := [0, 1, 2, 11, 12], sat := true, pr := true }
  | .ceMad => some { op := 1, fn := 8, tys := [0, 1, 2, 11, 12], sat := true, pr := true }
  | .ceAvg => some { op := 1, fn := 9, tys := [0, 1, 2, 11, 12], sat := true, pr := true }
  | .ceAnd => some { op := 2, fn := 0, tys := [0, 1, 2, 11, 12], pr := true }
  | .ceOr => some { op := 2, fn := 1, tys := [0, 1, 2, 11, 12], pr := true }
  | .ceXor => some { op := 2, fn := 2, tys := [0, 1, 2, 11, 12], pr := true }
  | .ceAndn => some { op := 2, fn := 3, tys := [0, 1, 2, 11, 12], pr := true }
  | .ceNot => some { op := 2, fn := 4, tys := [0, 1, 2, 11, 12], pr := true }
  | .ceShl => some { op := 2, fn := 5, tys := [0, 1, 2, 11, 12], pr := true }
  | .ceShr => some { op := 2, fn := 6, tys := [0, 1, 2, 11, 12], pr := true }
  | .ceSra => some { op := 2, fn := 7, tys := [0, 1, 2, 11, 12], pr := true }
  | .ceRol => some { op := 2, fn := 8, tys := [0, 1, 2, 11, 12], pr := true }
  | .cePopc => some { op := 2, fn := 9, tys := [0, 1, 2, 11, 12], pr := true }
  | .ceClz => some { op := 2, fn := 10, tys := [0, 1, 2, 11, 12], pr := true }
  | .ceFloatAdd => some { op := 3, fn := 0, tys := [3, 4, 5, 15], pr := true }
  | .ceFloatSub => some { op := 3, fn := 1, tys := [3, 4, 5, 15], pr := true }
  | .ceFloatMul => some { op := 3, fn := 2, tys := [3, 4, 5, 15], pr := true }
  | .ceFma => some { op := 3, fn := 3, tys := [3, 4, 5, 15], pr := true }
  | .ceFloatMin => some { op := 3, fn := 4, tys := [3, 4, 5, 15], pr := true }
  | .ceFloatMax => some { op := 3, fn := 5, tys := [3, 4, 5, 15], pr := true }
  | .ceFloatAbs => some { op := 3, fn := 6, tys := [3, 4, 5, 15], pr := true }
  | .ceFloatNeg => some { op := 3, fn := 7, tys := [3, 4, 5, 15], pr := true }
  | .ceFms => some { op := 3, fn := 8, tys := [3, 4, 5, 15], pr := true }
  | .ceRcp => some { op := 4, fn := 0, tys := [3, 4, 5, 15], pr := true }
  | .ceRsq => some { op := 4, fn := 1, tys := [3, 4, 5, 15], pr := true }
  | .ceSqrt => some { op := 4, fn := 2, tys := [3, 4, 5, 15], pr := true }
  | .ceExp2 => some { op := 4, fn := 3, tys := [3, 4, 5, 15], pr := true }
  | .ceLog2 => some { op := 4, fn := 4, tys := [3, 4, 5, 15], pr := true }
  | .ceTanh => some { op := 4, fn := 5, tys := [3, 4, 5, 15], pr := true }
  | .ceSigm => some { op := 4, fn := 6, tys := [3, 4, 5, 15], pr := true }
  | .ceSin => some { op := 4, fn := 7, tys := [3, 4, 5, 15], pr := true }
  | .ceCos => some { op := 4, fn := 8, tys := [3, 4, 5, 15], pr := true }
  | .ceErf => some { op := 4, fn := 9, tys := [3, 4, 5, 15], pr := true }
  | .ceCmp => some { op := 5, fn := 0, tys := [0, 1, 2, 3, 4, 5, 11, 12, 15], pr := true, fnFree := true }
  | .ceSel => some { op := 6, fn := 0, tys := [0, 1, 2, 3, 4, 5, 6, 7, 8, 9, 10, 11, 12, 15] }
  | .cvt => some { op := 7, fn := 0, tys := [0, 1, 2, 3, 4, 5, 6, 7, 8, 9, 10, 11, 12], sat := true, pr := true, fnFree := true }
  | .qntb => some { op := 8, fn := 0, tys := [6, 7, 8, 9, 10, 11, 12], pr := true }
  | .qnt => some { op := 8, fn := 1, tys := [6, 7, 8, 9, 10, 11, 12], pr := true }
  | .deq => some { op := 9, fn := 0, tys := [3, 4, 5], pr := true, fnFree := true }
  | .mov => some { op := 10, fn := 0, tys := [0, 1, 2, 3, 4, 5, 6, 7, 8, 9, 10, 11, 12], pr := true }
  | .movk => some { op := 10, fn := 1, tys := [0, 1, 2, 3, 4, 5, 6, 7, 8, 9, 10, 11, 12], pr := true }
  | .bcast => some { op := 10, fn := 2, tys := [0, 1, 2, 3, 4, 5, 6, 7, 8, 9, 10, 11, 12], pr := true }
  | .lshift => some { op := 10, fn := 3, tys := [0, 1, 2, 3, 4, 5, 6, 7, 8, 9, 10, 11, 12], pr := true }
  | .lrev => some { op := 10, fn := 4, tys := [0, 1, 2, 3, 4, 5, 6, 7, 8, 9, 10, 11, 12], pr := true }
  | .lsel => some { op := 10, fn := 5, tys := [0, 1, 2, 3, 4, 5, 6, 7, 8, 9, 10, 11, 12], pr := true }
  | .steerBit => some { op := 16, fn := 0, tys := [0], dest := false, fires := [0], kHi := 0 }
  | .steerPar => some { op := 16, fn := 1, tys := [0], dest := false, fires := [0], kHi := 0 }
  | .mergeAny => some { op := 17, fn := 0, tys := [0], kHi := 0 }
  | .mergeTag => some { op := 17, fn := 1, tys := [0], kHi := 0 }
  | .copy => some { op := 18, fn := 0, tys := [0], dest := false, fires := [0], kHi := 0 }
  | .gate => some { op := 19, fn := 0, tys := [0], fires := [0], kHi := 0 }
  | .drop => some { op := 20, fn := 0, tys := [0], dest := false, fires := [0], kHi := 0 }
  | .sink => some { op := 20, fn := 1, tys := [0], dest := false, fires := [0] }
  | .tagInc => some { op := 21, fn := 0, tys := [0] }
  | .tagSet => some { op := 21, fn := 1, tys := [0] }
  | .tagGet => some { op := 21, fn := 2, tys := [0] }
  | .tagBase => some { op := 21, fn := 3, tys := [0] }
  | .alcAlloc => some { op := 22, fn := 0, tys := [0] }
  | .alcFree => some { op := 22, fn := 1, tys := [0], dest := false, kHi := 0 }
  | .pack => some { op := 23, fn := 0, tys := [0], fires := [3] }
  | .unpack => some { op := 23, fn := 1, tys := [0] }
  | .redSum => some { op := 24, fn := 0, tys := [0, 1, 2, 3, 4, 5], kHi := 0, sat := true }
  | .redMin => some { op := 24, fn := 1, tys := [0, 1, 2, 3, 4, 5], kHi := 0, sat := true }
  | .redMax => some { op := 24, fn := 2, tys := [0, 1, 2, 3, 4, 5], kHi := 0, sat := true }
  | .redAnd => some { op := 24, fn := 3, tys := [0, 1, 2], kHi := 0, sat := true }
  | .redOr => some { op := 24, fn := 4, tys := [0, 1, 2], kHi := 0, sat := true }
  | .redCnt => some { op := 24, fn := 5, tys := [0], kHi := 0, sat := true }
  | .scanSum => some { op := 25, fn := 0, tys := [0, 1, 2, 3, 4, 5], kHi := 0, sat := true }
  | .scanMax => some { op := 25, fn := 1, tys := [0, 1, 2, 3, 4, 5], kHi := 0, sat := true }
  | .lrs => some { op := 26, fn := 0, tys := [3, 4, 5], kHi := 0, fires := [0, 3] }
  | .accAdd => some { op := 27, fn := 0, tys := [0, 1, 2, 3], dest := false, sat := true, kHi := 15 }
  | .accMax => some { op := 27, fn := 1, tys := [0, 1, 2, 3], dest := false, sat := true, kHi := 15 }
  | .accReset => some { op := 27, fn := 2, tys := [0, 1, 2, 3], sat := true, kHi := 15 }
  | .cneg => some { op := 32, fn := 0, tys := [0] }
  | .cscale => some { op := 32, fn := 1, tys := [0, 1, 2, 3], sat := true }
  | .mkchg => some { op := 32, fn := 2, tys := [0] }
  | .dense => some { op := 32, fn := 3, tys := [0, 1, 2, 3], sat := true }
  | .dadd => some { op := 32, fn := 4, tys := [0, 1, 2, 3], sat := true }
  | .ctEnter => some { op := 33, fn := 0, tys := [14], kLo := 1 }
  | .ctLeave => some { op := 33, fn := 1, tys := [14], kLo := 1 }
  | .ctStep => some { op := 33, fn := 2, tys := [14], kHi := 0 }
  | .ctSet => some { op := 33, fn := 3, tys := [14] }
  | .ctAdv => some { op := 33, fn := 4, tys := [14] }
  | .ctLe => some { op := 34, fn := 0, tys := [14], dest := false, kHi := 0 }
  | .ctLt => some { op := 34, fn := 1, tys := [14], dest := false, kHi := 0 }
  | .ctEq => some { op := 34, fn := 2, tys := [14], dest := false, kHi := 0 }
  | .ctPar => some { op := 34, fn := 3, tys := [14], dest := false, kHi := 0 }
  | .khash => some { op := 35, fn := 0, tys := [0] }
  | .kexch => some { op := 35, fn := 1, tys := [0], dest := false }
  | .cjoin => some { op := 36, fn := 0, tys := [0], fires := [0] }
  | .credCount => some { op := 37, fn := 0, tys := [0] }
  | .credSum => some { op := 37, fn := 1, tys := [0, 1, 2, 3], sat := true }
  | .credMin => some { op := 37, fn := 2, tys := [0, 1, 2, 3] }
  | .credMax => some { op := 37, fn := 3, tys := [0, 1, 2, 3] }
  | .cdist => some { op := 38, fn := 0, tys := [0], kHi := 0, fires := [0] }
  | .ccons => some { op := 39, fn := 0, tys := [0], kHi := 0 }
  | .cnote => some { op := 40, fn := 0, tys := [0] }
  | .crel => some { op := 40, fn := 1, tys := [0] }
  | .mxc => some { op := 48, fn := 0, tys := [0] }
  | .cntr => some { op := 49, fn := 0, tys := [0] }
  | .ctlSig => some { op := 50, fn := 0, tys := [0], fires := [0], kHi := 0 }
  | .ctlWait => some { op := 50, fn := 1, tys := [0], dest := false, fires := [0], kHi := 0 }
  | .ctlAnd2 => some { op := 50, fn := 2, tys := [0], fires := [0], kHi := 0 }
  | .ceNop => some { op := 62, fn := 0, tys := [0], dest := false, kHi := 0, fires := [0] }
  | _ => none

/-- The form and fields of an ME operation word other than a wave word. -/
def Instr.me? : Instr → Option (MeForm × MeW)
  | .agsRd w => some ({ op := 1, fn := 0, tys := [0, 1, 2, 3, 4, 5, 6, 7, 8, 9, 10, 11, 12], desc := true, flags := 2 }, w)
  | .agsWr w => some ({ op := 1, fn := 1, tys := [0, 1, 2, 3, 4, 5, 6, 7, 8, 9, 10, 11, 12], desc := true, flags := 2 }, w)
  | .agsRdcf w => some ({ op := 1, fn := 2, tys := [6], desc := true, flags := 2 }, w)
  | .agsWrcf w => some ({ op := 1, fn := 3, tys := [6], desc := true, flags := 2 }, w)
  | .agsFill w => some ({ op := 1, fn := 4, desc := true }, w)
  | .agsScrub w => some ({ op := 1, fn := 5, desc := true }, w)
  | .agxGath w => some ({ op := 2, fn := 0, tys := [0, 1, 2, 3, 4, 5, 6, 7, 8, 9, 10, 11, 12], desc := true, flags := 1 }, w)
  | .agxScat w => some ({ op := 2, fn := 1, tys := [0, 1, 2, 3, 4, 5, 6, 7, 8, 9, 10, 11, 12], desc := true, flags := 1 }, w)
  | .agxChase w => some ({ op := 2, fn := 2, desc := true }, w)
  | .agxAtomAdd w => some ({ op := 2, fn := 3, tys := [0, 1, 2, 3], desc := true, flags := 1 }, w)
  | .agxAtomMin w => some ({ op := 2, fn := 4, tys := [0, 1, 2, 3], desc := true, flags := 1 }, w)
  | .agxAtomMax w => some ({ op := 2, fn := 5, tys := [0, 1, 2, 3], desc := true, flags := 1 }, w)
  | .agxAtomCas w => some ({ op := 2, fn := 6, tys := [0, 1, 2], desc := true, flags := 1 }, w)
  | .agxAtomSwp w => some ({ op := 2, fn := 7, tys := [0, 1, 2], desc := true, flags := 1 }, w)
  | .ttbLook w => some ({ op := 4, fn := 0, k := true }, w)
  | .ttbIns w => some ({ op := 4, fn := 1, k := true }, w)
  | .ttbEvict w => some ({ op := 4, fn := 2, k := true }, w)
  | .ttbFill w => some ({ op := 4, fn := 3, desc := true, k := true }, w)
  | .tilSetf w => some ({ op := 5, fn := 0, k := true }, w)
  | .tilReady w => some ({ op := 5, fn := 1, k := true }, w)
  | .tilDrain w => some ({ op := 5, fn := 2, k := true }, w)
  | .tilEmpty w => some ({ op := 5, fn := 3, k := true }, w)
  | .tilPush w => some ({ op := 5, fn := 4, k := true }, w)
  | .tilPop w => some ({ op := 5, fn := 5, k := true }, w)
  | .tilQuery w => some ({ op := 5, fn := 6, k := true }, w)
  | .arrIns w => some ({ op := 6, fn := 0, dslot := true, k := true }, w)
  | .arrSeek w => some ({ op := 6, fn := 1, dslot := true, k := true, flags := 1 }, w)
  | .arrCmpt w => some ({ op := 6, fn := 2, dslot := true, k := true }, w)
  | .arrMrg w => some ({ op := 6, fn := 3, dslot := true, k := true }, w)
  | .bar w => some ({ op := 7, fn := 0, k := true }, w)
  | .pld w => some ({ op := 8, fn := 0, desc := true, k := true }, w)
  | .pst w => some ({ op := 9, fn := 0, desc := true, k := true }, w)
  | .sbr w => some ({ op := 10, fn := 0, k := true }, w)
  | _ => none

/-! ### MX commands (Tables 9.13 to 9.16, 12.5 to 12.8) -/

/-- M and N of a shape field (Table 9.15). -/
def MxW.m (w : MxW) : Nat := 16 <<< ((w.shape.toNat >>> 3) % 4)
def MxW.n (w : MxW) : Nat := 16 <<< ((w.shape.toNat >>> 1) % 4)

/-- K of a shape and type (Table 9.14). -/
def MxW.kk (w : MxW) : Nat :=
  let k0 := match w.ty.toNat with
    | 0 => 8
    | 1 => 16
    | 2 => 16
    | 7 => 64
    | 9 => 64
    | _ => 32
  if w.shape.getLsbD 0 then 2 * k0 else k0

/-- The signed 9-bit anchor at [lo+8:lo] of word 1 (R97). -/
def MxW.anchorAt (w : MxW) (lo : Nat) : Int := (w.w1.extractLsb' lo 9).toInt

/-- An anchor in range (R97). -/
def anchorOk (a : Int) : Bool := decide (-200 ≤ a) && decide (a ≤ 200)

/-- a and b of a gang code (R186). -/
def gangDims : Nat → Option (Nat × Nat)
  | 0 => some (1, 1)
  | 1 => some (2, 1)
  | 2 => some (1, 2)
  | 3 => some (2, 2)
  | 4 => some (4, 1)
  | 5 => some (4, 2)
  | _ => none

/-- Which fields of word 0 are zero for a command that does not use them (Table 12.5): shape M and N, shape[0], ty limit,
acc, ring A, ring B, accsel, tr and sd. -/
def MxW.uses (w : MxW) (mn k : Bool) (ty : Nat) (acc ra rb as ts : Bool) : Bool :=
  (mn || decide (w.shape.toNat / 2 = 0)) && (k || !(w.shape.getLsbD 0)) && decide (w.ty.toNat ≤ ty) &&
  (acc || decide (w.acc = 0)) && (ra || decide (w.ringA = 0)) && (rb || decide (w.ringB = 0)) &&
  (as || decide (w.accsel = 0)) && (ts || (decide (w.tr = 0) && decide (w.sd = 0)))

def w1z (w : MxW) (lo n : Nat) : Bool := decide (w.w1.extractLsb' lo n = 0)

/-- Word 0 [13:8] is the token colour of a drain or read, so ring A keeps only its low two bits (Table 12.5). -/
def MxW.colourOnly (w : MxW) : Bool := decide (w.ringA.toNat < 4)

/-- The opcode of an MX command and whether its fields are assigned (R169, R185, R186, R303 to R308). -/
def Instr.mx? : Instr → Option (Nat × MxW × Bool)
  | .mma w => some (1, w, w.uses true true 9 true true true true true &&
      (match gangDims (w.w1.toNat >>> 29) with
       | some (a, b) => decide ((w.w1.toNat >>> 26) % 8 < a * b)
       | none => false) && anchorOk (w.anchorAt 17) && decide (w.w1.toNat % 2 ^ 17 ≠ 0))
  | .mmz w => some (2, w, w.uses true false 0 false false false true false && decide (w.w1 = 0))
  | .mdrain w => some (3, w, w.uses true false 9 true true true true false && w.colourOnly && anchorOk (w.anchorAt 21) &&
      decide ((w.w1.toNat >>> 18) % 8 ≤ 5) && (!(w.w1.getLsbD 17) || decide (3 ≤ w.ty.toNat)))
  | .mload w => some (4, w, w.uses true false 8 true false false true false && [0, 1, 2, 8].contains w.ty.toNat &&
      anchorOk (w.anchorAt 15) && decide ((w.w1.toNat >>> 8) % 128 + (w.w1.toNat >>> 1) % 128 < w.m) && w1z w 0 1)
  | .cvreset w => some (8, w, w.uses false false 0 false false false false false && w1z w 0 17)
  | .cvresetRelease w => some (8, w, w.uses false false 0 false false false false false && decide (w.w1 = 1))
  | .cvloadEnt w => some (9, w, w.uses false false 0 false true false false false && !(w.w1.getLsbD 31) && w1z w 0 6)
  | .cvloadGain w => some (9, w, w.uses false false 0 false true true false false && w.w1.getLsbD 31 &&
      anchorOk (w.anchorAt 6) && w1z w 0 6)
  | .cvprobe w => some (10, w, w.uses true false 0 true false true true false && anchorOk (w.anchorAt 8) &&
      decide (w.w1.toNat % 256 + w.n ≤ 256))
  | .cvcommit w => some (11, w, w.uses true false 0 false false false true false && anchorOk (w.anchorAt 8) &&
      decide (w.w1.toNat % 256 < w.n))
  | .cvreadArg w => some (12, w, w.uses false false 0 false true true false false && w.colourOnly && !(w.w1.getLsbD 31) &&
      w1z w 0 13)
  | .cvreadGain w => some (12, w, w.uses false false 0 false true true false false && w.colourOnly && w.w1.getLsbD 31 &&
      w1z w 0 13)
  | _ => none

/-! ### Sequencer words -/

/-- Codes that chapter 9 leaves unassigned within the fields of a sequencer constructor (R171, R173). -/
def Instr.seqOk : Instr → Bool
  | .cmp _ c _ _ => decide (c.toNat ≤ 9)
  | .cmpi _ c _ _ => decide (c.toNat ≤ 9)
  | .fcmp _ c _ _ _ => decide (c.toNat ≤ 7)
  | .fcvt _ _ t s => decide (t.toNat ≤ 7) && decide (s.toNat ≤ 7) && decide (t ≠ s)
  | .sigc _ _ x => decide (x.toNat ≤ 5)
  | .enqAg _ _ c f => decide (f = 1) || decide (c = 0)
  | _ => true

/-- Wave words: pred and succ lie on the side of own that the word allows; sizes and descriptors are all assigned (R183). -/
def Instr.isWave : Instr → Bool
  | .wavLd _ _ _ _ _ => true
  | .wavSt _ _ _ _ _ => true
  | .wavMnop _ _ _ _ _ => true
  | _ => false

/-- A CE operation with operand fields that its word may hold (R169, R178, R179). -/
def Instr.ceOk (i : Instr) (w : CeW) : Bool :=
  match i.ce? with
  | some f => f.ok w && (match i with
      | .ceCmp => decide (w.fn.toNat ≤ 7) || (decide (w.fn.toNat ≤ 9) && intTys.contains w.ty.toNat)
      | .cvt => (decide (w.fn.toNat ≤ 12) || decide (w.fn.toNat = 15)) && decide (w.fn ≠ w.ty)
      | .deq => decide (6 ≤ w.fn.toNat) && decide (w.fn.toNat ≤ 12)
      | _ => true)
  | none => false

/-- An instruction whose encoding is assigned (R169); for a CE operation see `Instr.ceOk`. -/
def Instr.wf (i : Instr) : Bool :=
  match i.me? with
  | some (f, w) => f.ok w
  | none => match i.mx? with
    | some (_, _, ok) => ok
    | none => i.seqOk

end Sys2Proof
end

