-- ==== Sys2Proof/Decode.lean ====
section
/-! DEFINITION. Decoding of the sequencer word, the CE and ME operation words, the MX command and the descriptors in memory
(chapters 9, 10 and 12), and the encoders. Where a word has no instruction the decoder says which rule rejects it. -/
namespace Sys2Proof

/-- A decoded sequencer word, or the ILLEGAL detail of Table 18.1: 1 opcode, 2 code, 3 unused field. -/
inductive SeqDec where
  | ok (i : Instr)
  | bad (detail : Nat)
  deriving DecidableEq, Repr

/-- An instruction whose unused fields must be zero (R169). -/
def need (p : Bool) (i : Instr) : SeqDec := if p then .ok i else .bad 3

def fD (w : Word) : BitVec 6 := w.extractLsb' 20 6
def fA (w : Word) : BitVec 6 := w.extractLsb' 14 6
def fB (w : Word) : BitVec 6 := w.extractLsb' 8 6
def fFn (w : Word) : Nat := (w.extractLsb' 0 8).toNat

/-- Opcode 0x01 (Table 9.2). -/
def decAlu (w : Word) : SeqDec :=
  let d := fD w
  let a := fA w
  let b := fB w
  match fFn w with
  | 0x00 => .ok (.add d a b)
  | 0x01 => .ok (.sub d a b)
  | 0x02 => .ok (.mul d a b)
  | 0x03 => .ok (.mulh d a b)
  | 0x04 => .ok (.mulhn d a b)
  | 0x05 => .ok (.div d a b)
  | 0x06 => .ok (.divn d a b)
  | 0x07 => .ok (.rem d a b)
  | 0x08 => .ok (.remn d a b)
  | 0x09 => .ok (.adds d a b)
  | 0x0A => .ok (.subs d a b)
  | 0x10 => .ok (.and d a b)
  | 0x11 => .ok (.or d a b)
  | 0x12 => .ok (.xor d a b)
  | 0x13 => .ok (.andn d a b)
  | 0x14 => .ok (.orn d a b)
  | 0x18 => .ok (.shl d a b)
  | 0x19 => .ok (.shr d a b)
  | 0x1A => .ok (.sra d a b)
  | 0x1B => .ok (.rol d a b)
  | 0x20 => .ok (.min d a b)
  | 0x21 => .ok (.max d a b)
  | 0x22 => .ok (.minn d a b)
  | 0x23 => .ok (.maxn d a b)
  | 0x28 => need (b == 0) (.clz d a)
  | 0x29 => need (b == 0) (.ctz d a)
  | 0x2A => need (b == 0) (.popc d a)
  | 0x2B => need (b == 0) (.brev d a)
  | _ => .bad 2

/-- Opcode 0x06, SHI (R171). -/
def decShi (w : Word) : SeqDec :=
  let n : BitVec 6 := w.extractLsb' 0 6
  let ok := w.extractLsb' 6 6 == 0
  match (w.extractLsb' 12 2).toNat with
  | 0 => need ok (.shli (fD w) (fA w) n)
  | 1 => need ok (.shri (fD w) (fA w) n)
  | 2 => need ok (.srai (fD w) (fA w) n)
  | _ => need ok (.roli (fD w) (fA w) n)

/-- Opcode 0x0D, the predicate operations; upper bits of the predicate fields are zero (R171). -/
def decPred (w : Word) : SeqDec :=
  let d : BitVec 3 := w.extractLsb' 20 3
  let a : BitVec 3 := w.extractLsb' 14 3
  let b : BitVec 3 := w.extractLsb' 8 3
  let dz := w.extractLsb' 23 3 == 0
  let az := w.extractLsb' 17 3 == 0
  let bz := w.extractLsb' 11 3 == 0
  match fFn w with
  | 0 => need (dz && az && bz) (.pand d a b)
  | 1 => need (dz && az && bz) (.por d a b)
  | 2 => need (dz && az && bz) (.pxor d a b)
  | 3 => need (dz && az && fB w == 0) (.pnot d a)
  | 4 => need (dz && az && fB w == 0) (.pmov d a)
  | 5 => need (dz && fA w == 0 && fB w == 0) (.pset d)
  | 6 => need (dz && fA w == 0 && fB w == 0) (.pclr d)
  | _ => .bad 2

/-- Opcode 0x16, AMO. -/
def decAmo (w : Word) : SeqDec :=
  let d := fD w
  let a := fA w
  let b := fB w
  let c : BitVec 2 := w.extractLsb' 2 2
  let s : BitVec 1 := w.extractLsb' 1 1
  let o : BitVec 1 := w.extractLsb' 0 1
  match (w.extractLsb' 4 4).toNat with
  | 0 => .ok (.amoAdd d a b c s o)
  | 1 => .ok (.amoAnd d a b c s o)
  | 2 => .ok (.amoOr d a b c s o)
  | 3 => .ok (.amoXor d a b c s o)
  | 4 => .ok (.amoMin d a b c s o)
  | 5 => .ok (.amoMax d a b c s o)
  | 6 => .ok (.amoMinn d a b c s o)
  | 7 => .ok (.amoMaxn d a b c s o)
  | 8 => .ok (.amoSwap d a b c s o)
  | 9 => .ok (.amoCas d a b c s o)
  | 10 => if s = 0 then .ok (.amoFadd d a b c o) else .bad 2
  | _ => .bad 2

/-- Opcode 0x18, floating point. -/
def decFloat (w : Word) : SeqDec :=
  let d := fD w
  let a := fA w
  let b := fB w
  let f : BitVec 1 := w.extractLsb' 7 1
  match (w.extractLsb' 0 7).toNat with
  | 0 => .ok (.fadd d a b f)
  | 1 => .ok (.fsub d a b f)
  | 2 => .ok (.fmul d a b f)
  | 3 => .ok (.fdiv d a b f)
  | 4 => need (b == 0) (.fsqrt d a f)
  | 5 => .ok (.fmin d a b f)
  | 6 => .ok (.fmax d a b f)
  | 7 => need (b == 0) (.fabs d a f)
  | 8 => need (b == 0) (.fneg d a f)
  | _ => .bad 2

/-- Opcodes 0x0A, 0x0B and 0x1A, the comparisons. -/
def decCmp (w : Word) : SeqDec :=
  let p : BitVec 3 := w.extractLsb' 23 3
  let c : BitVec 4 := w.extractLsb' 19 4
  let a : BitVec 6 := w.extractLsb' 13 6
  let b : BitVec 6 := w.extractLsb' 7 6
  match (w.extractLsb' 26 6).toNat with
  | 0x0A => if c.toNat ≤ 9 then need (w.extractLsb' 0 7 == 0) (.cmp p c a b) else .bad 2
  | 0x0B => if c.toNat ≤ 9 then .ok (.cmpi p c a (w.extractLsb' 0 13)) else .bad 2
  | _ => if c.toNat ≤ 7 then need (w.extractLsb' 0 6 == 0) (.fcmp p c a b (w.extractLsb' 6 1)) else .bad 2

/-- Opcode 0x28 (Table 9.3). -/
def decTime (w : Word) : SeqDec :=
  let d : BitVec 3 := w.extractLsb' 23 3
  let a : BitVec 3 := w.extractLsb' 20 3
  let b : BitVec 3 := w.extractLsb' 17 3
  let h := w.extractLsb' 14 3 == 0
  let c : BitVec 2 := w.extractLsb' 12 2
  let x : BitVec 6 := w.extractLsb' 0 6
  let p : BitVec 3 := w.extractLsb' 0 3
  match (w.extractLsb' 6 6).toNat with
  | 0 => need (b == 0 && h && c == 0 && x == 0) (.tmov d a)
  | 1 => need (a == 0 && b == 0 && h) (.tset d c x)
  | 2 => need (d == 0 && b == 0 && h) (.tget a c x)
  | 3 => need (b == 0 && h) (.tinc d a c x)
  | 4 => need (h && c == 0 && x == 0) (.tjoin d a b)
  | 5 => need (h && c == 0 && x == 0) (.tmeet d a b)
  | 6 => if x.toNat ≤ 7 then need (d == 0 && h && c == 0) (.tle a b p) else .bad 2
  | 7 => if x.toNat ≤ 7 then need (d == 0 && h && c == 0) (.tlt a b p) else .bad 2
  | 8 => if x.toNat ≤ 7 then need (d == 0 && h && c == 0) (.teq a b p) else .bad 2
  | 9 => need (b == 0 && h) (.tadv d a c x)
  | 10 => need (b == 0 && h) (.tinci d a c x)
  | _ => .bad 2

/-- Opcode 0x29 (Table 9.3). -/
def decHz (w : Word) : SeqDec :=
  let d : BitVec 3 := w.extractLsb' 23 3
  let a : BitVec 3 := w.extractLsb' 20 3
  let b := w.extractLsb' 17 3 == 0
  let h : BitVec 3 := w.extractLsb' 14 3
  let c := w.extractLsb' 12 2 == 0
  let x : BitVec 6 := w.extractLsb' 0 6
  let p : BitVec 3 := w.extractLsb' 0 3
  match (w.extractLsb' 6 6).toNat with
  | 0 => need (d == 0 && a == 0 && b && c) (.hzld h x)
  | 1 => need (d == 0 && b && c && x == 0) (.hzwait a h)
  | 2 => need (d == 0 && a == 0 && b && c) (.hzpub h x)
  | 3 => if x.toNat ≤ 7 then need (d == 0 && b && c) (.hzle a h p) else .bad 2
  | 4 => need (d == 0 && a == 0 && b && c) (.hzget h x)
  | 5 => if x.toNat ≤ 7 then need (a == 0 && b && c) (.hztime d h p) else .bad 2
  | _ => .bad 2

/-- Opcodes 0x30 and 0x35, the Q format (Tables 9.2 and 10.8). -/
def decEnq (w : Word) : SeqDec :=
  let a : BitVec 6 := w.extractLsb' 16 6
  let b : BitVec 6 := w.extractLsb' 10 6
  let c : BitVec 6 := w.extractLsb' 4 6
  match (w.extractLsb' 22 4).toNat with
  | 0 => need (w.extractLsb' 0 4 == 0) (.enqMx a b c)
  | 1 => need (w.extractLsb' 1 3 == 0 && (w.getLsbD 0 || c == 0)) (.enqAg a b c (w.extractLsb' 0 1))
  | 2 => need (w.extractLsb' 0 10 == 0) (.enqCl a b)
  | 3 => need (w.extractLsb' 0 10 == 0) (.enqLk a b)
  | 4 => need (w.extractLsb' 0 10 == 0) (.enqSc a b)
  | 5 => need (w.extractLsb' 2 2 == 0) (.enqTi a b c (w.extractLsb' 0 2))
  | 6 => need (w.extractLsb' 2 8 == 0) (.enqTo a b (w.extractLsb' 0 2))
  | 7 => need (w.extractLsb' 0 4 == 0) (.enqPl a b c)
  | _ => .bad 2

def decCfg (w : Word) : SeqDec :=
  let a : BitVec 6 := w.extractLsb' 16 6
  let b : BitVec 6 := w.extractLsb' 10 6
  let c : BitVec 6 := w.extractLsb' 4 6
  match (w.extractLsb' 22 4).toNat with
  | 0 => need (w.extractLsb' 0 4 == 0) (.cfgLoad a b c)
  | 1 => need (a == 0 && w.extractLsb' 0 4 == 0) (.cfgSwitch b c)
  | 2 => need (w.extractLsb' 0 10 == 0) (.cfgPage a b)
  | _ => .bad 2

/-- Opcode 0x36, CTX. -/
def decCtx (w : Word) : SeqDec :=
  let a := fA w
  let z := fD w == 0
  let s : BitVec 4 := w.extractLsb' 0 4
  match (w.extractLsb' 4 10).toNat with
  | 0 => need (z && s == 0) (.ctxLaunch a)
  | 1 => need z (.ctxPrio a s)
  | 2 => need (z && s == 0) (.ctxSusp a)
  | 3 => need (z && s == 0) (.ctxResume a)
  | 4 => need (z && s == 0) (.ctxEvict a)
  | _ => .bad 2

/-- Opcode 0x3C, SYS (R174). -/
def decSys (w : Word) : SeqDec :=
  let d := fD w
  let a := fA w
  let s : BitVec 4 := w.extractLsb' 0 4
  match (w.extractLsb' 4 10).toNat with
  | 0 => .ok (.mfs d a s)
  | 1 => .ok (.mts d a s)
  | 2 => need (d == 0 && s == 0) (.trap a)
  | 3 => need (d == 0 && a == 0 && s == 0) .reti
  | 4 => need (d == 0 && a == 0 && s == 0) .exit
  | 5 => need (d == 0 && s == 0) (.trace a)
  | 6 => need (d == 0 && a == 0 && s == 0) .nop
  | 7 => need (d == 0 && a == 0 && s == 0) .yield
  | _ => .bad 2

/-- Opcodes 0x23 and 0x31 to 0x34. -/
def decObj (w : Word) : SeqDec :=
  let a := fA w
  let b := fB w
  match (w.extractLsb' 26 6).toNat with
  | 0x23 => match fFn w with
    | 0 => need (fD w == 0 && b == 0) (.jr a)
    | 1 => need (fD w == 0 && b == 0) (.callr a)
    | 2 => need (fD w == 0 && b == 0 && a == 0) .ret
    | _ => .bad 2
  | 0x31 => need (fD w == 0 && fFn w == 0) (.waitc a b)
  | 0x32 => if (w.extractLsb' 0 3).toNat ≤ 5 then need (fD w == 0 && w.extractLsb' 3 5 == 0) (.sigc a b (w.extractLsb' 0 3))
            else .bad 2
  | 0x33 => need (w.extractLsb' 23 3 == 0 && b == 0 && fFn w == 0) (.waitb (w.extractLsb' 20 3) a)
  | _ => need (fD w == 0 && w.extractLsb' 1 7 == 0) (.bara a b (w.extractLsb' 0 1))

/-- Opcodes 0x10 to 0x17, memory. -/
def decMem (w : Word) : SeqDec :=
  let d := fD w
  let a := fA w
  let s : BitVec 2 := w.extractLsb' 12 2
  let o : BitVec 12 := w.extractLsb' 0 12
  match (w.extractLsb' 26 6).toNat with
  | 0x10 => .ok (.ld d a s o)
  | 0x11 => .ok (.ldn d a s o)
  | 0x12 => .ok (.st d a s o)
  | 0x13 => if s.getLsbD 1 then .ok (.ldc d a (w.extractLsb' 12 1) o) else .bad 2
  | 0x14 => .ok (.lda d a s (w.extractLsb' 10 2) (w.extractLsb' 0 10))
  | 0x15 => .ok (.stl d a s (w.extractLsb' 10 2) (w.extractLsb' 0 10))
  | 0x16 => decAmo w
  | _ => need (w.extractLsb' 0 20 == 0)
      (.fence (w.extractLsb' 25 1) (w.extractLsb' 24 1) (w.extractLsb' 23 1) (w.extractLsb' 22 1) (w.extractLsb' 20 2))

/-- The sequencer decoder (R173, Table 9.2). -/
def decodeSeq (w : Word) : SeqDec :=
  let d := fD w
  let a := fA w
  let i : BitVec 14 := w.extractLsb' 0 14
  let u : BitVec 20 := w.extractLsb' 0 20
  match (w.extractLsb' 26 6).toNat with
  | 0x01 => decAlu w
  | 0x02 => .ok (.addi d a i)
  | 0x03 => .ok (.andi d a i)
  | 0x04 => .ok (.ori d a i)
  | 0x05 => .ok (.xori d a i)
  | 0x06 => decShi w
  | 0x07 => .ok (.li d u)
  | 0x08 => .ok (.lui d u)
  | 0x09 => .ok (.luh d u)
  | 0x0A => decCmp w
  | 0x0B => decCmp w
  | 0x0C => need (w.extractLsb' 4 4 == 0) (.sel d a (fB w) (w.extractLsb' 3 1) (w.extractLsb' 0 3))
  | 0x0D => decPred w
  | 0x10 => decMem w
  | 0x11 => decMem w
  | 0x12 => decMem w
  | 0x13 => decMem w
  | 0x14 => decMem w
  | 0x15 => decMem w
  | 0x16 => decMem w
  | 0x17 => decMem w
  | 0x18 => decFloat w
  | 0x19 => if w.getLsbD 1 then .bad 2 else .ok (.ffma d a (fB w) (w.extractLsb' 2 6) (w.extractLsb' 0 1))
  | 0x1A => decCmp w
  | 0x1B =>
    let t : BitVec 4 := w.extractLsb' 4 4
    let s : BitVec 4 := w.extractLsb' 0 4
    if t.toNat ≤ 7 ∧ s.toNat ≤ 7 ∧ t ≠ s then need (fB w == 0) (.fcvt d a t s) else .bad 2
  | 0x20 => .ok (.br (w.extractLsb' 23 3) (w.extractLsb' 22 1) (w.extractLsb' 0 22))
  | 0x21 => .ok (.j (w.extractLsb' 0 26))
  | 0x22 => .ok (.call (w.extractLsb' 0 26))
  | 0x23 => decObj w
  | 0x28 => decTime w
  | 0x29 => decHz w
  | 0x30 => decEnq w
  | 0x31 => decObj w
  | 0x32 => decObj w
  | 0x33 => decObj w
  | 0x34 => decObj w
  | 0x35 => decCfg w
  | 0x36 => decCtx w
  | 0x3C => decSys w
  | _ => .bad 1

/-! ### CE and ME operation words -/

/-- The CE operation of an opcode and function code (Table 9.7). -/
def cePick (op : Nat) (fn : BitVec 4) : Option Instr :=
  match op with
  | 1 => match fn.toNat with
    | 0 => some .ceAdd
    | 1 => some .ceSub
    | 2 => some .ceMul
    | 3 => some .ceMulh
    | 4 => some .ceMin
    | 5 => some .ceMax
    | 6 => some .ceAbs
    | 7 => some .ceNeg
    | 8 => some .ceMad
    | 9 => some .ceAvg
    | _ => none
  | 2 => match fn.toNat with
    | 0 => some .ceAnd
    | 1 => some .ceOr
    | 2 => some .ceXor
    | 3 => some .ceAndn
    | 4 => some .ceNot
    | 5 => some .ceShl
    | 6 => some .ceShr
    | 7 => some .ceSra
    | 8 => some .ceRol
    | 9 => some .cePopc
    | 10 => some .ceClz
    | _ => none
  | 3 => match fn.toNat with
    | 0 => some .ceFloatAdd
    | 1 => some .ceFloatSub
    | 2 => some .ceFloatMul
    | 3 => some .ceFma
    | 4 => some .ceFloatMin
    | 5 => some .ceFloatMax
    | 6 => some .ceFloatAbs
    | 7 => some .ceFloatNeg
    | 8 => some .ceFms
    | _ => none
  | 4 => match fn.toNat with
    | 0 => some .ceRcp
    | 1 => some .ceRsq
    | 2 => some .ceSqrt
    | 3 => some .ceExp2
    | 4 => some .ceLog2
    | 5 => some .ceTanh
    | 6 => some .ceSigm
    | 7 => some .ceSin
    | 8 => some .ceCos
    | 9 => some .ceErf
    | _ => none
  | 5 => some .ceCmp
  | 6 => match fn.toNat with
    | 0 => some .ceSel
    | _ => none
  | 7 => some .cvt
  | 8 => match fn.toNat with
    | 0 => some .qntb
    | 1 => some .qnt
    | _ => none
  | 9 => some .deq
  | 10 => match fn.toNat with
    | 0 => some .mov
    | 1 => some .movk
    | 2 => some .bcast
    | 3 => some .lshift
    | 4 => some .lrev
    | 5 => some .lsel
    | _ => none
  | 16 => match fn.toNat with
    | 0 => some .steerBit
    | 1 => some .steerPar
    | _ => none
  | 17 => match fn.toNat with
    | 0 => some .mergeAny
    | 1 => some .mergeTag
    | _ => none
  | 18 => match fn.toNat with
    | 0 => some .copy
    | _ => none
  | 19 => match fn.toNat with
    | 0 => some .gate
    | _ => none
  | 20 => match fn.toNat with
    | 0 => some .drop
    | 1 => some .sink
    | _ => none
  | 21 => match fn.toNat with
    | 0 => some .tagInc
    | 1 => some .tagSet
    | 2 => some .tagGet
    | 3 => some .tagBase
    | _ => none
  | 22 => match fn.toNat with
    | 0 => some .alcAlloc
    | 1 => some .alcFree
    | _ => none
  | 23 => match fn.toNat with
    | 0 => some .pack
    | 1 => some .unpack
    | _ => none
  | 24 => match fn.toNat with
    | 0 => some .redSum
    | 1 => some .redMin
    | 2 => some .redMax
    | 3 => some .redAnd
    | 4 => some .redOr
    | 5 => some .redCnt
    | _ => none
  | 25 => match fn.toNat with
    | 0 => some .scanSum
    | 1 => some .scanMax
    | _ => none
  | 26 => match fn.toNat with
    | 0 => some .lrs
    | _ => none
  | 27 => match fn.toNat with
    | 0 => some .accAdd
    | 1 => some .accMax
    | 2 => some .accReset
    | _ => none
  | 32 => match fn.toNat with
    | 0 => some .cneg
    | 1 => some .cscale
    | 2 => some .mkchg
    | 3 => some .dense
    | 4 => some .dadd
    | _ => none
  | 33 => match fn.toNat with
    | 0 => some .ctEnter
    | 1 => some .ctLeave
    | 2 => some .ctStep
    | 3 => some .ctSet
    | 4 => some .ctAdv
    | _ => none
  | 34 => match fn.toNat with
    | 0 => some .ctLe
    | 1 => some .ctLt
    | 2 => some .ctEq
    | 3 => some .ctPar
    | _ => none
  | 35 => match fn.toNat with
    | 0 => some .khash
    | 1 => some .kexch
    | _ => none
  | 36 => match fn.toNat with
    | 0 => some .cjoin
    | _ => none
  | 37 => match fn.toNat with
    | 0 => some .credCount
    | 1 => some .credSum
    | 2 => some .credMin
    | 3 => some .credMax
    | _ => none
  | 38 => match fn.toNat with
    | 0 => some .cdist
    | _ => none
  | 39 => match fn.toNat with
    | 0 => some .ccons
    | _ => none
  | 40 => match fn.toNat with
    | 0 => some .cnote
    | 1 => some .crel
    | _ => none
  | 48 => match fn.toNat with
    | 0 => some .mxc
    | _ => none
  | 49 => match fn.toNat with
    | 0 => some .cntr
    | _ => none
  | 50 => match fn.toNat with
    | 0 => some .ctlSig
    | 1 => some .ctlWait
    | 2 => some .ctlAnd2
    | _ => none
  | 62 => match fn.toNat with
    | 0 => some .ceNop
    | _ => none
  | _ => none

/-- The fields of a CE operation word (Table 9.6). -/
def ceFields (w : Word) : CeW :=
  { fn := w.extractLsb' 22 4, ty := w.extractLsb' 18 4, rnd := w.extractLsb' 16 2, dm := w.extractLsb' 14 2, dslot := w.extractLsb' 10 4,
    k := w.extractLsb' 5 5, fire := w.extractLsb' 3 2, sat := w.extractLsb' 2 1, pr := w.extractLsb' 1 1 }

/-- The operation and operand fields of a CE word; none where its encoding is unassigned (Table 18.4, reason 3). -/
def decodeCe (w : Word) : Option (Instr × CeW) :=
  if w.getLsbD 0 then none
  else match cePick (w.extractLsb' 26 6).toNat (w.extractLsb' 22 4) with
    | some i => if i.ceOk (ceFields w) then some (i, ceFields w) else none
    | none => none

/-- The ME operation of an opcode and function code (Table 9.11). -/
def mePick (op : Nat) (fn : BitVec 4) (w : MeW) : Option Instr :=
  match op with
  | 1 => match fn.toNat with
    | 0 => some (.agsRd w)
    | 1 => some (.agsWr w)
    | 2 => some (.agsRdcf w)
    | 3 => some (.agsWrcf w)
    | 4 => some (.agsFill w)
    | 5 => some (.agsScrub w)
    | _ => none
  | 2 => match fn.toNat with
    | 0 => some (.agxGath w)
    | 1 => some (.agxScat w)
    | 2 => some (.agxChase w)
    | 3 => some (.agxAtomAdd w)
    | 4 => some (.agxAtomMin w)
    | 5 => some (.agxAtomMax w)
    | 6 => some (.agxAtomCas w)
    | 7 => some (.agxAtomSwp w)
    | _ => none
  | 4 => match fn.toNat with
    | 0 => some (.ttbLook w)
    | 1 => some (.ttbIns w)
    | 2 => some (.ttbEvict w)
    | 3 => some (.ttbFill w)
    | _ => none
  | 5 => match fn.toNat with
    | 0 => some (.tilSetf w)
    | 1 => some (.tilReady w)
    | 2 => some (.tilDrain w)
    | 3 => some (.tilEmpty w)
    | 4 => some (.tilPush w)
    | 5 => some (.tilPop w)
    | 6 => some (.tilQuery w)
    | _ => none
  | 6 => match fn.toNat with
    | 0 => some (.arrIns w)
    | 1 => some (.arrSeek w)
    | 2 => some (.arrCmpt w)
    | 3 => some (.arrMrg w)
    | _ => none
  | 7 => match fn.toNat with
    | 0 => some (.bar w)
    | _ => none
  | 8 => match fn.toNat with
    | 0 => some (.pld w)
    | _ => none
  | 9 => match fn.toNat with
    | 0 => some (.pst w)
    | _ => none
  | 10 => match fn.toNat with
    | 0 => some (.sbr w)
    | _ => none
  | _ => none

/-- The fields of an ME operation word (Table 9.10). -/
def meFields (w : Word) : MeW :=
  { ty := w.extractLsb' 18 4, desc := w.extractLsb' 14 4, dslot := w.extractLsb' 10 4, k := w.extractLsb' 5 5,
    flags := w.extractLsb' 0 5 }

/-- A wave word (Table 9.12). -/
def decodeWave (w : Word) : Option Instr :=
  let o : BitVec 6 := w.extractLsb' 20 6
  let p : BitVec 6 := w.extractLsb' 14 6
  let s : BitVec 6 := w.extractLsb' 8 6
  let z : BitVec 2 := w.extractLsb' 3 2
  let d : BitVec 3 := w.extractLsb' 0 3
  match (w.extractLsb' 5 3).toNat with
  | 0 => some (.wavLd o p s z d)
  | 1 => some (.wavSt o p s z d)
  | 2 => some (.wavMnop o p s z d)
  | _ => none

/-- An ME operation word; none where its encoding is unassigned. -/
def decodeMe (w : Word) : Option Instr :=
  if (w.extractLsb' 26 6).toNat = 3 then decodeWave w
  else (mePick (w.extractLsb' 26 6).toNat (w.extractLsb' 22 4) (meFields w)).filter Instr.wf

/-! ### MX commands -/

/-- The fields of MX word 0 (Table 9.13). -/
def mxFields (w0 w1 : Word) : MxW :=
  { shape := w0.extractLsb' 21 5, ty := w0.extractLsb' 17 4, acc := w0.extractLsb' 16 1, ringA := w0.extractLsb' 12 4,
    ringB := w0.extractLsb' 8 4, accsel := w0.extractLsb' 4 4, tr := w0.extractLsb' 2 2, sd := w0.extractLsb' 1 1, w1 := w1 }

/-- The command of an MX opcode, with word 1 telling apart the two forms of cvreset, cvload and cvread. -/
def mxPick (op : Nat) (w : MxW) : Option Instr :=
  match op with
  | 1 => some (.mma w)
  | 2 => some (.mmz w)
  | 3 => some (.mdrain w)
  | 4 => some (.mload w)
  | 8 => some (if w.w1.getLsbD 0 then .cvresetRelease w else .cvreset w)
  | 9 => some (if w.w1.getLsbD 31 then .cvloadGain w else .cvloadEnt w)
  | 10 => some (.cvprobe w)
  | 11 => some (.cvcommit w)
  | 12 => some (if w.w1.getLsbD 31 then .cvreadGain w else .cvreadArg w)
  | _ => none

/-- An MX command (R185). -/
def decodeMx (w0 w1 : Word) : Option Instr :=
  if w0.getLsbD 0 then none else (mxPick (w0.extractLsb' 26 6).toNat (mxFields w0 w1)).filter Instr.wf

/-! ### Descriptors in memory -/

/-- A collective descriptor of eight doublewords (Table 12.10); none where a code is one that its engine refuses (Table 18.2, reason 2). Reserved
fields and the modes 4 to 7 of rnd are no ground of that table. -/
def decodeCl (q : List DWord) : Option Instr :=
  match q with
  | [h, send, recv, len, list, n, _, rb] =>
    let d : ClDesc :=
      { op := h.extractLsb' 58 2, ty := h.extractLsb' 54 4, rnd := h.extractLsb' 51 3,
        ftz := h.extractLsb' 50 1,
        anc := h.extractLsb' 41 9, group := h.extractLsb' 38 3, reroute := h.extractLsb' 37 1, id := h.extractLsb' 0 24,
        send := send, recv := recv, len := len, list := list, nmem := n.extractLsb' 48 16, cap := n.extractLsb' 32 16,
        nrec := n.extractLsb' 0 32, rbytes := rb }
    if d.op.toNat = 3 ∨ d.ty.toNat > 13 ∨ d.group.toNat > 4 then none
    else match (h.extractLsb' 60 4).toNat with
      | 0 => some (.allreduce d)
      | 1 => some (.reduceScatter d)
      | 2 => some (.allgather d)
      | 3 => some (.alltoall d)
      | 4 => some (.irregularAlltoall d)
      | _ => none
  | _ => none

/-- A link descriptor (Table 12.11); none where its op or port is unassigned (Table 18.2, reason 3). -/
def decodeLk (q : List DWord) : Option Instr :=
  match q with
  | [h, src, dst, sl, _, _, _, _] =>
    let d : LkDesc :=
      { port := h.extractLsb' 54 6, dir := h.extractLsb' 53 1, kslot := h.extractLsb' 52 1,
        node := h.extractLsb' 40 12, nflit := h.extractLsb' 32 8, handle := h.extractLsb' 0 32, src := src, dst := dst,
        salt := sl.extractLsb' 32 32 }
    if d.port.toNat > 47 then none
    else match (h.extractLsb' 60 4).toNat with
      | 0 => some (.send d)
      | 1 => some (.keyld d)
      | 2 => some (.keysw d)
      | 3 => some (.stat d)
      | _ => none
  | _ => none

/-- A scrub descriptor (R312); none where it is refused (Table 18.2, reason 4). -/
def decodeSc (q : List DWord) : Option Instr :=
  match q with
  | [base, nblk, bitmap, a, b, c, d, e] =>
    if base.extractLsb' 0 6 ≠ 0 ∨ nblk.toNat = 0 ∨ bitmap.extractLsb' 0 3 ≠ 0 ∨ a ≠ 0 ∨ b ≠ 0 ∨ c ≠ 0 ∨ d ≠ 0 ∨ e ≠ 0 then none
    else some (.scrub { base := base, nblk := nblk, bitmap := bitmap })
  | _ => none

/-! ### The encoders -/

def op6 (op : Nat) : BitVec 6 := BitVec.ofNat 6 op

/-- Format R (Table 9.1). -/
def encR (op fn : Nat) (d a b : BitVec 6) : Word := op6 op ++ d ++ a ++ b ++ BitVec.ofNat 8 fn
def encA (fn : Nat) (d a b : BitVec 6) (c : BitVec 2) (s o : BitVec 1) : Word :=
  op6 0x16 ++ d ++ a ++ b ++ BitVec.ofNat 4 fn ++ c ++ s ++ o
def encF (fn : Nat) (d a b : BitVec 6) (f : BitVec 1) : Word := op6 0x18 ++ d ++ a ++ b ++ f ++ BitVec.ofNat 7 fn
def encT (op fn : Nat) (d a b h : BitVec 3) (c : BitVec 2) (x : BitVec 6) : Word :=
  op6 op ++ d ++ a ++ b ++ h ++ c ++ BitVec.ofNat 6 fn ++ x
def encQ (op q : Nat) (a b c : BitVec 6) (f : BitVec 4) : Word := op6 op ++ BitVec.ofNat 4 q ++ a ++ b ++ c ++ f
def encS (op fn : Nat) (d a : BitVec 6) (s : BitVec 4) : Word := op6 op ++ d ++ a ++ BitVec.ofNat 10 fn ++ s
def encP (fn : Nat) (d a b : BitVec 3) : Word := op6 0x0D ++ 0#3 ++ d ++ 0#3 ++ a ++ 0#3 ++ b ++ BitVec.ofNat 8 fn
def p6 (p : BitVec 3) : BitVec 6 := 0#3 ++ p

/-- The word of a sequencer instruction (R170 to R175). -/
def encodeSeq : Instr → Option Word
  | .add d a b => some (encR 1 0 d a b)
  | .sub d a b => some (encR 1 1 d a b)
  | .mul d a b => some (encR 1 2 d a b)
  | .mulh d a b => some (encR 1 3 d a b)
  | .mulhn d a b => some (encR 1 4 d a b)
  | .div d a b => some (encR 1 5 d a b)
  | .divn d a b => some (encR 1 6 d a b)
  | .rem d a b => some (encR 1 7 d a b)
  | .remn d a b => some (encR 1 8 d a b)
  | .adds d a b => some (encR 1 9 d a b)
  | .subs d a b => some (encR 1 10 d a b)
  | .and d a b => some (encR 1 16 d a b)
  | .or d a b => some (encR 1 17 d a b)
  | .xor d a b => some (encR 1 18 d a b)
  | .andn d a b => some (encR 1 19 d a b)
  | .orn d a b => some (encR 1 20 d a b)
  | .shl d a b => some (encR 1 24 d a b)
  | .shr d a b => some (encR 1 25 d a b)
  | .sra d a b => some (encR 1 26 d a b)
  | .rol d a b => some (encR 1 27 d a b)
  | .min d a b => some (encR 1 32 d a b)
  | .max d a b => some (encR 1 33 d a b)
  | .minn d a b => some (encR 1 34 d a b)
  | .maxn d a b => some (encR 1 35 d a b)
  | .clz d a => some (encR 1 40 d a 0)
  | .ctz d a => some (encR 1 41 d a 0)
  | .popc d a => some (encR 1 42 d a 0)
  | .brev d a => some (encR 1 43 d a 0)
  | .addi d a i => some (op6 2 ++ d ++ a ++ i)
  | .andi d a i => some (op6 3 ++ d ++ a ++ i)
  | .ori d a i => some (op6 4 ++ d ++ a ++ i)
  | .xori d a i => some (op6 5 ++ d ++ a ++ i)
  | .shli d a n => some (op6 6 ++ d ++ a ++ BitVec.ofNat 2 0 ++ 0#6 ++ n)
  | .shri d a n => some (op6 6 ++ d ++ a ++ BitVec.ofNat 2 1 ++ 0#6 ++ n)
  | .srai d a n => some (op6 6 ++ d ++ a ++ BitVec.ofNat 2 2 ++ 0#6 ++ n)
  | .roli d a n => some (op6 6 ++ d ++ a ++ BitVec.ofNat 2 3 ++ 0#6 ++ n)
  | .li d i => some (op6 7 ++ d ++ i)
  | .lui d i => some (op6 8 ++ d ++ i)
  | .luh d i => some (op6 9 ++ d ++ i)
  | .cmp p c a b => some (op6 0x0A ++ p ++ c ++ a ++ b ++ 0#7)
  | .cmpi p c a i => some (op6 0x0B ++ p ++ c ++ a ++ i)
  | .sel d a b n p => some (op6 0x0C ++ d ++ a ++ b ++ 0#4 ++ n ++ p)
  | .pand d a b => some (encP 0 d a b)
  | .por d a b => some (encP 1 d a b)
  | .pxor d a b => some (encP 2 d a b)
  | .pnot d a => some (encP 3 d a 0)
  | .pmov d a => some (encP 4 d a 0)
  | .pset d => some (encP 5 d 0 0)
  | .pclr d => some (encP 6 d 0 0)
  | .ld d a s o => some (op6 16 ++ d ++ a ++ s ++ o)
  | .ldn d a s o => some (op6 17 ++ d ++ a ++ s ++ o)
  | .st d a s o => some (op6 18 ++ d ++ a ++ s ++ o)
  | .ldc d a s o => some (op6 0x13 ++ d ++ a ++ 1#1 ++ s ++ o)
  | .lda d a s c o => some (op6 20 ++ d ++ a ++ s ++ c ++ o)
  | .stl d a s c o => some (op6 21 ++ d ++ a ++ s ++ c ++ o)
  | .amoAdd d a b c s o => some (encA 0 d a b c s o)
  | .amoAnd d a b c s o => some (encA 1 d a b c s o)
  | .amoOr d a b c s o => some (encA 2 d a b c s o)
  | .amoXor d a b c s o => some (encA 3 d a b c s o)
  | .amoMin d a b c s o => some (encA 4 d a b c s o)
  | .amoMax d a b c s o => some (encA 5 d a b c s o)
  | .amoMinn d a b c s o => some (encA 6 d a b c s o)
  | .amoMaxn d a b c s o => some (encA 7 d a b c s o)
  | .amoSwap d a b c s o => some (encA 8 d a b c s o)
  | .amoCas d a b c s o => some (encA 9 d a b c s o)
  | .amoFadd d a b c o => some (encA 10 d a b c 0 o)
  | .fence w x y z c => some (op6 0x17 ++ w ++ x ++ y ++ z ++ c ++ 0#20)
  | .fadd d a b f => some (encF 0 d a b f)
  | .fsub d a b f => some (encF 1 d a b f)
  | .fmul d a b f => some (encF 2 d a b f)
  | .fdiv d a b f => some (encF 3 d a b f)
  | .fmin d a b f => some (encF 5 d a b f)
  | .fmax d a b f => some (encF 6 d a b f)
  | .fsqrt d a f => some (encF 4 d a 0 f)
  | .fabs d a f => some (encF 7 d a 0 f)
  | .fneg d a f => some (encF 8 d a 0 f)
  | .ffma d a b c f => some (op6 0x19 ++ d ++ a ++ b ++ c ++ 0#1 ++ f)
  | .fcmp p c a b f => some (op6 0x1A ++ p ++ c ++ a ++ b ++ f ++ 0#6)
  | .fcvt d a t s => some (op6 0x1B ++ d ++ a ++ 0#6 ++ t ++ s)
  | .br p n o => some (op6 0x20 ++ p ++ n ++ o)
  | .j o => some (op6 0x21 ++ o)
  | .call o => some (op6 0x22 ++ o)
  | .jr a => some (encR 0x23 0 0 a 0)
  | .callr a => some (encR 0x23 1 0 a 0)
  | .ret => some (encR 0x23 2 0 0 0)
  | .tmov d a => some (encT 0x28 0 d a 0 0 0 0)
  | .tset d c x => some (encT 0x28 1 d 0 0 0 c x)
  | .tget a c x => some (encT 0x28 2 0 a 0 0 c x)
  | .tinc d a c x => some (encT 0x28 3 d a 0 0 c x)
  | .tjoin d a b => some (encT 0x28 4 d a b 0 0 0)
  | .tmeet d a b => some (encT 0x28 5 d a b 0 0 0)
  | .tle a b p => some (encT 0x28 6 0 a b 0 0 (p6 p))
  | .tlt a b p => some (encT 0x28 7 0 a b 0 0 (p6 p))
  | .teq a b p => some (encT 0x28 8 0 a b 0 0 (p6 p))
  | .tadv d a c x => some (encT 0x28 9 d a 0 0 c x)
  | .tinci d a c n => some (encT 0x28 10 d a 0 0 c n)
  | .hzld h x => some (encT 0x29 0 0 0 0 h 0 x)
  | .hzwait a h => some (encT 0x29 1 0 a 0 h 0 0)
  | .hzpub h x => some (encT 0x29 2 0 0 0 h 0 x)
  | .hzle a h p => some (encT 0x29 3 0 a 0 h 0 (p6 p))
  | .hzget h x => some (encT 0x29 4 0 0 0 h 0 x)
  | .hztime d h e => some (encT 0x29 5 d 0 0 h 0 (p6 e))
  | .enqMx a b c => some (encQ 0x30 0 a b c 0)
  | .enqAg a b c f => some (encQ 0x30 1 a b c (0#3 ++ f))
  | .enqCl a b => some (encQ 0x30 2 a b 0 0)
  | .enqLk a b => some (encQ 0x30 3 a b 0 0)
  | .enqSc a b => some (encQ 0x30 4 a b 0 0)
  | .enqTi a b c p => some (encQ 0x30 5 a b c (0#2 ++ p))
  | .enqTo a b p => some (encQ 0x30 6 a b 0 (0#2 ++ p))
  | .enqPl a b c => some (encQ 0x30 7 a b c 0)
  | .waitc a b => some (encR 0x31 0 0 a b)
  | .sigc a b s => some (op6 0x32 ++ 0#6 ++ a ++ b ++ 0#5 ++ s)
  | .waitb p a => some (op6 0x33 ++ 0#3 ++ p ++ a ++ 0#14)
  | .bara a b s => some (op6 0x34 ++ 0#6 ++ a ++ b ++ 0#7 ++ s)
  | .cfgLoad a b c => some (encQ 0x35 0 a b c 0)
  | .cfgSwitch b c => some (encQ 0x35 1 0 b c 0)
  | .cfgPage a b => some (encQ 0x35 2 a b 0 0)
  | .ctxLaunch a => some (encS 0x36 0 0 a 0)
  | .ctxPrio a n => some (encS 0x36 1 0 a n)
  | .ctxSusp a => some (encS 0x36 2 0 a 0)
  | .ctxResume a => some (encS 0x36 3 0 a 0)
  | .ctxEvict a => some (encS 0x36 4 0 a 0)
  | .mfs d r s => some (encS 0x3C 0 d r s)
  | .mts d r s => some (encS 0x3C 1 d r s)
  | .trap a => some (encS 0x3C 2 0 a 0)
  | .reti => some (encS 0x3C 3 0 0 0)
  | .exit => some (encS 0x3C 4 0 0 0)
  | .trace a => some (encS 0x3C 5 0 a 0)
  | .nop => some (encS 0x3C 6 0 0 0)
  | .yield => some (encS 0x3C 7 0 0 0)
  | _ => none

/-- The word of a CE operation (Table 9.6). -/
def ceWord (op : Nat) (w : CeW) : Word :=
  op6 op ++ w.fn ++ w.ty ++ w.rnd ++ w.dm ++ w.dslot ++ w.k ++ w.fire ++ w.sat ++ w.pr ++ 0#1

/-- The word of an ME operation (Table 9.10). -/
def meWord (op fn : Nat) (w : MeW) : Word := op6 op ++ BitVec.ofNat 4 fn ++ w.ty ++ w.desc ++ w.dslot ++ w.k ++ w.flags

/-- A wave word (Table 9.12). -/
def waveWord (kind : Nat) (o p s : BitVec 6) (z : BitVec 2) (d : BitVec 3) : Word :=
  op6 3 ++ o ++ p ++ s ++ BitVec.ofNat 3 kind ++ z ++ d

/-- The word of a CE operation with its operand fields. -/
def encodeCe (i : Instr) (w : CeW) : Option Word := i.ce?.map fun f => ceWord f.op w

/-- The word of a memory element operation or a wave access. -/
def encodeMe (i : Instr) : Option Word :=
  match i.me? with
  | some (f, w) => some (meWord f.op f.fn w)
  | none => match i with
    | .wavLd o p s z d => some (waveWord 0 o p s z d)
    | .wavSt o p s z d => some (waveWord 1 o p s z d)
    | .wavMnop o p s z d => some (waveWord 2 o p s z d)
    | _ => none

/-- The two words of an MX command (R185). -/
def encodeMx (i : Instr) : Option (Word × Word) :=
  match i.mx? with
  | some (op, w, _) =>
    some (op6 op ++ w.shape ++ w.ty ++ w.acc ++ w.ringA ++ w.ringB ++ w.accsel ++ w.tr ++ w.sd ++ 0#1, w.w1)
  | none => none

/-- The words of an instruction that has any; `c` are the operand fields of a CE operation. -/
def encode (i : Instr) (c : CeW) : List Word :=
  match encodeSeq i with
  | some w => [w]
  | none => match (encodeCe i c).or (encodeMe i) with
    | some w => [w]
    | none => match encodeMx i with
      | some (a, b) => [a, b]
      | none => []

/-- The sequencer word of four bytes, lowest address first (R3, R170). -/
def wordOfBytes (b0 b1 b2 b3 : Byte) : Word := b3 ++ b2 ++ b1 ++ b0

/-- The instruction that one word of the opcode table stands for. The three word classes share their opcodes: a word is read
by the sequencer's decoder, then by the CE's, then by the ME's, as nothing in the word says which unit holds it. -/
def decodeTableWord (nbits w : Nat) : Option Instr :=
  if nbits > 32 then none
  else
    let x : Word := wordOfBytes (BitVec.ofNat 8 w) (BitVec.ofNat 8 (w / 2 ^ 8)) (BitVec.ofNat 8 (w / 2 ^ 16))
      (BitVec.ofNat 8 (w / 2 ^ 24))
    match decodeSeq x with
    | .ok i => some i
    | .bad _ => match decodeCe x with
      | some (i, _) => some i
      | none => decodeMe x

end Sys2Proof
end

