-- ==== Sys2Proof/Machine/Num.lean ====
section
/-! DEFINITION. Number formats and arithmetic (chapter 4): decoding to exact values, rounding, the orders of types,
stochastic rounding bits, block scaling and the exact operations on values. -/
namespace Sys2Proof.Machine

/-- An exact value: a NaN (signalling or not), an infinity, or (−1)^neg · m · 2^e, with m = 0 a signed zero. -/
inductive Val where
  | nan (sig : Bool)
  | inf (neg : Bool)
  | fin (neg : Bool) (m : Nat) (e : Int)
  deriving DecidableEq, Repr, Inhabited

/-- How a format treats values beyond its largest finite one (Table 4.3). -/
inductive FmtClass where
  | ieee | e4m3 | noInf
  deriving DecidableEq, Repr

/-- A floating-point format (Table 4.2): exponent bits, mantissa bits, bias, class. -/
structure Fmt where
  eb : Nat
  mb : Nat
  bias : Nat
  cls : FmtClass
  deriving DecidableEq, Repr

def fmtF64 : Fmt := ⟨11, 52, 1023, .ieee⟩
def fmtF32 : Fmt := ⟨8, 23, 127, .ieee⟩
def fmtBf16 : Fmt := ⟨8, 7, 127, .ieee⟩
def fmtF16 : Fmt := ⟨5, 10, 15, .ieee⟩
def fmtE5M2 : Fmt := ⟨5, 2, 15, .ieee⟩
def fmtE4M3 : Fmt := ⟨4, 3, 7, .e4m3⟩
def fmtE3M2 : Fmt := ⟨3, 2, 3, .noInf⟩
def fmtE2M3 : Fmt := ⟨2, 3, 1, .noInf⟩
def fmtE2M1 : Fmt := ⟨2, 1, 1, .noInf⟩

def Fmt.width (f : Fmt) : Nat := 1 + f.eb + f.mb

/-- The magnitude pattern of the largest finite value (Table 4.2). -/
def Fmt.maxBits (f : Fmt) : Nat :=
  match f.cls with
  | .ieee => (2 ^ f.eb - 1) * 2 ^ f.mb - 1
  | .e4m3 => 2 ^ (f.eb + f.mb) - 2
  | .noInf => 2 ^ (f.eb + f.mb) - 1

/-- The canonical NaN (R84); formats without NaN take +0 (Table 4.3). -/
def Fmt.nanBits (f : Fmt) : Nat :=
  match f.cls with
  | .ieee => (2 ^ f.eb - 1) * 2 ^ f.mb + 2 ^ (f.mb - 1)
  | .e4m3 => 2 ^ (f.eb + f.mb) - 1
  | .noInf => 0

/-- The exact value of a pattern (R83); `ftz` reads a subnormal as zero (R85). -/
def Fmt.decode (f : Fmt) (ftz : Bool) (x : Nat) : Val :=
  let neg := x.testBit (f.eb + f.mb)
  let e := (x >>> f.mb) % 2 ^ f.eb
  let m := x % 2 ^ f.mb
  if f.cls = .ieee ∧ e = 2 ^ f.eb - 1 then
    if m = 0 then .inf neg else .nan (!(m.testBit (f.mb - 1)))
  else if f.cls = .e4m3 ∧ x % 2 ^ (f.eb + f.mb) = 2 ^ (f.eb + f.mb) - 1 then .nan false
  else if e = 0 then
    if ftz ∧ f.cls = .ieee ∧ f.mb ≠ 2 then .fin neg 0 0 else .fin neg m (1 - (f.bias : Int) - f.mb)
  else .fin neg (2 ^ f.mb + m) ((e : Int) - f.bias - f.mb)

/-- Rounding modes of R86. -/
inductive RMode where
  | rne | rtz | rdn | rup | sr
  deriving DecidableEq, Repr

def RMode.ofCode : Nat → RMode
  | 0 => .rne
  | 1 => .rtz
  | 2 => .rdn
  | 3 => .rup
  | _ => .sr

/-- m · 2^(−s) rounded to an integer: lo, or hi as the mode decides (R86); `r` are the random bits under SR. -/
def roundShift (mode : RMode) (neg : Bool) (m s r : Nat) : Nat :=
  let lo := m >>> s
  let rem := m % 2 ^ s
  if rem = 0 then lo
  else
    let up := match mode with
      | .rne => decide (2 ^ s < 2 * rem) || (decide (2 * rem = 2 ^ s) && decide (lo % 2 = 1))
      | .rtz => false
      | .rdn => neg
      | .rup => !neg
      | .sr => decide (r < (rem * 2 ^ 16) >>> s)
    if up then lo + 1 else lo

/-- The sticky flags of an operation (R104). -/
structure FFlags where
  nv : Bool := false
  dz : Bool := false
  of : Bool := false
  uf : Bool := false
  nx : Bool := false
  deriving DecidableEq, Repr, Inhabited

def FFlags.or (a b : FFlags) : FFlags :=
  ⟨a.nv || b.nv, a.dz || b.dz, a.of || b.of, a.uf || b.uf, a.nx || b.nx⟩

/-- What an overflow gives (Table 4.3): the magnitude pattern. -/
def Fmt.overflow (f : Fmt) (mode : RMode) (neg : Bool) : Nat :=
  match f.cls with
  | .ieee =>
    let toInf := match mode with
      | .rne | .sr => true
      | .rtz => false
      | .rdn => neg
      | .rup => !neg
    if toInf then f.maxBits + 1 else f.maxBits
  | _ => f.maxBits

def Fmt.signed (f : Fmt) (neg : Bool) (mag : Nat) : Nat :=
  if neg then mag + 2 ^ (f.eb + f.mb) else mag

/-- round_to of R86, R87 and R85 for a value, with the flags of R104. -/
def Fmt.round (f : Fmt) (mode : RMode) (ftz : Bool) (r : Nat) (v : Val) : Nat × FFlags :=
  match v with
  | .nan _ => (f.nanBits, {})
  | .inf neg =>
    match f.cls with
    | .ieee => (f.signed neg (f.maxBits + 1), {})
    | _ => (f.signed neg f.maxBits, {})
  | .fin neg m e =>
    if m = 0 then (f.signed neg 0, {})
    else
      let top : Int := e + m.log2
      let emin : Int := 1 - (f.bias : Int)
      let q : Int := (if top < emin then emin else top) - f.mb
      let sig := if e ≥ q then m <<< (e - q).toNat else roundShift mode neg m (q - e).toNat r
      let exact := decide (e ≥ q) || decide (m % 2 ^ (q - e).toNat = 0)
      let mag := (q - (emin - f.mb)).toNat * 2 ^ f.mb + sig
      if mag > f.maxBits then
        (f.signed neg (f.overflow mode neg), { of := true, nx := true })
      else
        -- tininess after rounding with an unbounded exponent (R104)
        let q' : Int := top - f.mb
        let sig' := if e ≥ q' then m <<< (e - q').toNat else roundShift mode neg m (q' - e).toNat r
        let tiny := decide (top < emin) && !(decide (top = emin - 1) && decide (sig' = 2 ^ (f.mb + 1)))
        if ftz ∧ f.cls = .ieee ∧ f.mb ≠ 2 ∧ mag < 2 ^ f.mb ∧ mag ≠ 0 then
          (f.signed neg 0, { uf := true, nx := true })
        else (f.signed neg mag, { uf := tiny && !exact, nx := !exact })

/-- The integer types of Table 4.1 as width and signedness. -/
structure ITy where
  bits : Nat
  signed : Bool
  deriving DecidableEq, Repr

def ITy.lo (t : ITy) : Int := if t.signed then -(2 ^ (t.bits - 1) : Nat) else 0
def ITy.hi (t : ITy) : Int := if t.signed then (2 ^ (t.bits - 1) : Nat) - 1 else (2 ^ t.bits : Nat) - 1

/-- `sat` of R8. -/
def ITy.sat (t : ITy) (v : Int) : Int := if v < t.lo then t.lo else if v > t.hi then t.hi else v

/-- A pattern read in the type (R2). -/
def ITy.read (t : ITy) (x : Nat) : Int := if t.signed then signedOf t.bits x else ((x % 2 ^ t.bits : Nat) : Int)

/-- `wrap` of R8. -/
def ITy.wrap (t : ITy) (v : Int) : Int := t.read (patternOf t.bits v)

/-- The pattern of an exact integer under sat or wrap (R101, R240). -/
def ITy.write (t : ITy) (sat : Bool) (v : Int) : Nat := patternOf t.bits (if sat then t.sat v else v)

/-- A value rounded to an integer (R86), none for NaN and infinities; the flag says that it changed. -/
def roundInt (mode : RMode) (r : Nat) : Val → Option (Int × Bool)
  | .fin neg m e =>
    let a := if e ≥ 0 then m <<< e.toNat else roundShift mode neg m (-e).toNat r
    let changed := decide (e < 0) && decide (m % 2 ^ (-e).toNat ≠ 0)
    some (if neg then -(a : Int) else (a : Int), changed)
  | _ => none

/-- Conversion of a value to an integer type (R87): clamped, NaN 0. -/
def ITy.ofVal (t : ITy) (mode : RMode) (r : Nat) (v : Val) : Int :=
  match v with
  | .nan _ => 0
  | .inf neg => if neg then t.lo else t.hi
  | .fin _ _ _ => match roundInt mode r v with
    | some (i, _) => t.sat i
    | none => 0

/-- An exact integer as a value. -/
def Val.ofInt (i : Int) : Val := .fin (decide (i < 0)) i.natAbs 0

/-- The value times 2^k. -/
def Val.scale (k : Int) : Val → Val
  | .fin n m e => .fin n m (e + k)
  | v => v

def Val.isNan : Val → Bool
  | .nan _ => true
  | _ => false

def Val.isSnan : Val → Bool
  | .nan s => s
  | _ => false

def Val.neg : Val → Val
  | .fin n m e => .fin (!n) m e
  | .inf n => .inf (!n)
  | v => v

def Val.abs : Val → Val
  | .fin _ m e => .fin false m e
  | .inf _ => .inf false
  | v => v

/-- A finite value's signed mantissa at exponent `q ≤ e`. -/
def alignTo (q : Int) (neg : Bool) (m : Nat) (e : Int) : Int :=
  let a : Int := ((m <<< (e - q).toNat : Nat) : Int)
  if neg then -a else a

/-- The exact sum (IEEE 754 for infinities and zeros); a zero sum of unlike signs is −0 only under RDN. -/
def Val.add (mode : RMode) (x y : Val) : Val × Bool :=
  match x, y with
  | .nan s, v => (.nan false, s || v.isSnan)
  | v, .nan s => (.nan false, s || v.isSnan)
  | .inf a, .inf b => if a = b then (.inf a, false) else (.nan false, true)
  | .inf a, _ => (.inf a, false)
  | _, .inf b => (.inf b, false)
  | .fin a m e, .fin b n g =>
    if m = 0 ∧ n = 0 then (.fin (if a = b then a else mode == .rdn) 0 0, false)
    else
      let q := if e < g then e else g
      let t := alignTo q a m e + alignTo q b n g
      if t = 0 then (.fin (mode == .rdn) 0 0, false)
      else (.fin (decide (t < 0)) t.natAbs q, false)

/-- The exact product. -/
def Val.mul (x y : Val) : Val × Bool :=
  match x, y with
  | .nan s, v => (.nan false, s || v.isSnan)
  | v, .nan s => (.nan false, s || v.isSnan)
  | .inf a, .inf b => (.inf (a != b), false)
  | .inf a, .fin b n _ => if n = 0 then (.nan false, true) else (.inf (a != b), false)
  | .fin a m _, .inf b => if m = 0 then (.nan false, true) else (.inf (a != b), false)
  | .fin a m e, .fin b n g => (.fin (a != b) (m * n) (e + g), false)

/-- The quotient with 160 quotient bits and a sticky bit, exact for every rounding decision of the formats. -/
def Val.div (x y : Val) : Val × FFlags :=
  match x, y with
  | .nan s, v => (.nan false, { nv := s || v.isSnan })
  | v, .nan s => (.nan false, { nv := s || v.isSnan })
  | .inf _, .inf _ => (.nan false, { nv := true })
  | .inf a, .fin b _ _ => (.inf (a != b), {})
  | .fin a _ _, .inf b => (.fin (a != b) 0 0, {})
  | .fin a m e, .fin b n g =>
    if n = 0 then
      if m = 0 then (.nan false, { nv := true }) else (.inf (a != b), { dz := true })
    else if m = 0 then (.fin (a != b) 0 0, {})
    else
      let num := m <<< (160 + n.log2)
      let q := num / n
      let st := if num % n = 0 then 0 else 1
      (.fin (a != b) (2 * q + st) (e - g - 161 - n.log2), {})

/-- Integer square root by bits: `fuel` bits of the root. -/
def isqrtLoop : Nat → Nat → Nat → Nat
  | 0, _, r => r
  | k + 1, n, r =>
    let c := r + 2 ^ k
    if c * c ≤ n then isqrtLoop k n c else isqrtLoop k n r

def isqrt (n : Nat) : Nat := isqrtLoop (n.log2 / 2 + 1) n 0

/-- The square root with a sticky bit. -/
def Val.sqrt (x : Val) : Val × FFlags :=
  match x with
  | .nan s => (.nan false, { nv := s })
  | .inf neg => if neg then (.nan false, { nv := true }) else (.inf false, {})
  | .fin neg m e =>
    if m = 0 then (.fin neg 0 0, {})
    else if neg then (.nan false, { nv := true })
    else
      let odd := e % 2 ≠ 0
      let m1 := if odd then 2 * m else m
      let e1 := if odd then e - 1 else e
      let n := m1 <<< 160
      let r := isqrt n
      let st := if r * r = n then 0 else 1
      (.fin false (2 * r + st) (e1 / 2 - 81), {})

/-- −1, 0 or 1 as x is less than, equal to or above y; none with a NaN. Zeros are equal. -/
def Val.cmp (x y : Val) : Option Int :=
  match x, y with
  | .nan _, _ => none
  | _, .nan _ => none
  | .inf a, .inf b => some (if a = b then 0 else if a then -1 else 1)
  | .inf a, .fin _ _ _ => some (if a then -1 else 1)
  | .fin _ _ _, .inf b => some (if b then 1 else -1)
  | .fin a m e, .fin b n g =>
    let q := if e < g then e else g
    let d := alignTo q a m e - alignTo q b n g
    some (if d < 0 then -1 else if d = 0 then 0 else 1)

def Val.signBit : Val → Bool
  | .fin n _ _ => n
  | .inf n => n
  | .nan _ => false

/-- x below y in the order with −0 below +0 (fmin, fmax; NaN excluded). -/
def Val.below (x y : Val) : Bool :=
  match x.cmp y with
  | some c => decide (c < 0) || (decide (c = 0) && x.signBit && !y.signBit)
  | none => false

/-- Table 9.2's conditions of fcmp and of cmp on floats (R212); the flag is NV. -/
def fcond (cond : Nat) (x y : Val) : Bool × Bool :=
  let snan := x.isSnan || y.isSnan
  match x.cmp y with
  | none => match cond with
    | 1 => (true, snan)
    | 6 => (true, snan)
    | 0 => (false, snan)
    | 7 => (false, snan)
    | _ => (false, true)
  | some c => match cond with
    | 0 => (decide (c = 0), false)
    | 1 => (decide (c ≠ 0), false)
    | 2 => (decide (c < 0), false)
    | 3 => (decide (c ≤ 0), false)
    | 4 => (decide (c > 0), false)
    | 5 => (decide (c ≥ 0), false)
    | 6 => (false, false)
    | _ => (true, false)

/-- Table 9.2's conditions of cmp on integers (R202): signed and natural readings of both. -/
def icond (cond : Nat) (x y : Int) (nx ny : Nat) : Bool :=
  match cond with
  | 0 => decide (nx = ny)
  | 1 => decide (nx ≠ ny)
  | 2 => decide (x < y)
  | 3 => decide (x ≥ y)
  | 4 => decide (nx < ny)
  | 5 => decide (nx ≥ ny)
  | 6 => decide (x ≤ y)
  | 7 => decide (x > y)
  | 8 => decide (nx ≤ ny)
  | _ => decide (nx > ny)

/-- mix of R88. -/
def mix (v : Word) : Word :=
  let v := v ^^^ (v >>> 16)
  let v := v * 0x7FEB352D#32
  let v := v ^^^ (v >>> 15)
  let v := v * 0x846CA68B#32
  v ^^^ (v >>> 16)

/-- sr_bits of R88. -/
def srBits (seed a b : Word) : Nat :=
  let h := mix (seed ^^^ a)
  let h := mix (h ^^^ b)
  h.toNat >>> 16

/-! ### The type codes of Table 9.6 -/

/-- Bits of one element of a type code (R237). -/
def tyBits : Nat → Nat
  | 2 => 64
  | 4 => 16
  | 5 => 16
  | 6 => 8
  | 7 => 8
  | 8 => 8
  | 9 => 8
  | 10 => 4
  | 11 => 8
  | 12 => 4
  | _ => 32

def tyInt : Nat → Option ITy
  | 0 => some ⟨32, true⟩
  | 1 => some ⟨32, false⟩
  | 2 => some ⟨64, true⟩
  | 11 => some ⟨8, true⟩
  | 12 => some ⟨4, true⟩
  | _ => none

def tyFmt : Nat → Option Fmt
  | 3 => some fmtF32
  | 4 => some fmtBf16
  | 5 => some fmtF16
  | 6 => some fmtE4M3
  | 7 => some fmtE5M2
  | 8 => some fmtE2M3
  | 9 => some fmtE3M2
  | 10 => some fmtE2M1
  | _ => none

/-- The exact value of an element of type code `ty` (R237–R239); FP6 ignores bits [7:6] (R82). -/
def tyDecode (ty : Nat) (ftz : Bool) (x : Nat) : Val :=
  match tyFmt ty with
  | some f => f.decode ftz (x % 2 ^ f.width)
  | none => match tyInt ty with
    | some t => .ofInt (t.read x)
    | none => .ofInt (x % 2 ^ 32)

/-- A value decoded with an E8M0 scale byte (R89): 0xFF gives NaN. -/
def scaled (v : BitVec 8) (x : Val) : Val := if v = 0xFF then .nan false else x.scale ((v.toNat : Int) - 127)

/-- round_to of a value into an element of type code `ty`; integers clamp (R87). -/
def tyRound (ty : Nat) (mode : RMode) (ftz : Bool) (r : Nat) (v : Val) : Nat :=
  match tyFmt ty with
  | some f => (f.round mode ftz r v).1
  | none => match tyInt ty with
    | some t => patternOf t.bits (t.ofVal mode r v)
    | none => 0

/-! ### Block scaling (R90) -/

/-- E of R90. -/
def blockE : Nat → Nat
  | 6 => 8
  | 7 => 15
  | 9 => 4
  | 8 => 2
  | 10 => 2
  | 11 => 6
  | _ => 2

/-- The largest finite magnitude of a block as m · 2^e, or none when it is zero. -/
def blockMax : List Val → Option (Nat × Int)
  | [] => none
  | .fin _ m e :: r =>
    if m = 0 then blockMax r
    else match blockMax r with
      | none => some (m, e)
      | some (n, g) =>
        if (Val.fin false m e).cmp (.fin false n g) = some (-1) then some (n, g) else some (m, e)
  | _ :: r => blockMax r

/-- The scale byte of R90. -/
def blockScale (ty : Nat) (xs : List Val) : BitVec 8 :=
  if xs.any Val.isNan then 0xFF
  else match blockMax xs with
    | none => 127
    | some (m, e) =>
      let v : Int := e + m.log2 - blockE ty + 127
      BitVec.ofNat 8 (if v < 0 then 0 else if v > 254 then 254 else v.toNat)

/-- One element of a quantised block under scale byte `v` (R90). -/
def blockElem (ty : Nat) (mode : RMode) (r : Nat) (v : BitVec 8) (x : Val) : Nat :=
  if v = 0xFF then 0 else tyRound ty mode false r (x.scale (127 - (v.toNat : Int)))

/-! ### FX128 (R97–R100) -/

/-- trunc(p / 2^(A−96)) of a finite value, toward zero. -/
def fxTerm (anchor : Int) (neg : Bool) (m : Nat) (e : Int) : Int :=
  let k := e - (anchor - 96)
  let a : Nat := if k ≥ 0 then m <<< k.toNat else m >>> (-k).toNat
  if neg then -(a : Int) else (a : Int)

/-- |p| ≥ 2^A. -/
def fxOver (anchor : Int) (m : Nat) (e : Int) : Bool := decide (m ≠ 0) && decide (e + m.log2 ≥ anchor)

/-- The value of a cell: v · 2^(A−96) (R97). -/
def fxVal (anchor : Int) (v : BitVec 128) : Val :=
  let i := v.toInt
  .fin (decide (i < 0)) i.natAbs (anchor - 96)

end Sys2Proof.Machine
end

