-- ==== Sys2Proof/Config.lean ====
section
/-! DEFINITION. What the manual leaves to the part, the policy or the moment. Every constant here is opaque: nothing
can be proved about its value, so a claim holds whatever it is. -/
namespace Sys2Proof.Config

/-- DESIGN CHOICE (log 1): which agent moves next when the agenda is empty; no order between agents is assumed. -/
opaque nextMove : Nat → Move

/-- DESIGN CHOICE (log 2): local cycles that pass at a unit during a step (R12): cluster c is unit c, die d is 384 + d, link port p is
400 + p. Units share no time base. -/
opaque elapsed : Nat → Nat → Nat

/-- The cycles that a wait has lasted as a step finds it: of a slot for its output, of the MX for a tile or a drain port, of an access for its bank, of a
miss for a walker. The spec gives no clock to count them by (Table 14.6, log 17). -/
opaque waited : Nat → Nat

/-- Where a colour's tag range is placed among the free ranges, which the manual does not say (R35, log 10). -/
opaque allocBase : Nat → Nat

/-- Module id of this module: modules take ids 0 to 2047 (R22). -/
opaque moduleNumber : BitVec 11
def moduleId : BitVec 12 := moduleNumber.zeroExtend 12

/-- The node at the other end of a link port, which the manual does not give: where a MARK is sent (log 32). -/
opaque portNode : Nat → BitVec 12

/-- Bytes populated on one CXL port; the model holds them to 3,072 GB at most (R21, Table 5.5). -/
opaque cxlBytes : Nat → Nat

/-- SHA3-256, named by the manual as a published standard (log 6). -/
opaque sha3 : List Byte → BitVec 256

/-- ML-DSA-44 verification of a digest (FIPS 204, log 6): public key, digest, signature. -/
opaque mldsaVerify : List Byte → BitVec 256 → List Byte → Bool

/-- ML-DSA-44 signature of a digest by the device identity key, 2,420 bytes (log 6). -/
opaque mldsaSign : BitVec 256 → Fin 2420 → Byte

/-- AES-256-GCM (log 6): key, IV, additional data, plaintext; ciphertext byte i. -/
opaque gcmCipher : BitVec 256 → BitVec 96 → List Byte → List Byte → Nat → Byte

/-- AES-256-GCM tag (log 6). -/
opaque gcmTag : BitVec 256 → BitVec 96 → List Byte → List Byte → BitVec 128

/-- AES-256-GCM decryption of byte i, given the ciphertext (log 6). -/
opaque gcmPlain : BitVec 256 → BitVec 96 → List Byte → List Byte → Nat → Byte

/-- ML-KEM-768 decapsulation with the import key (FIPS 203, log 6). -/
opaque mlkemDecap : List Byte → BitVec 256

/-- AES key unwrap of 40 bytes (SP 800-38F, log 6); none when the integrity check fails. -/
opaque keyUnwrap : BitVec 256 → List Byte → Option (BitVec 256)

/-- The identity public key (1,312 bytes) and the import public key (1,184 bytes) as attested (R347). -/
opaque identityPub : Fin 1312 → Byte
opaque importPub : Fin 1184 → Byte

/-- The digest of the signed microcode or firmware image that lies at a key of memory, if its ML-DSA-44 signature over SHA3-256 verifies; the
layout of these images is not the manual's (R343, log 6). -/
opaque signedImage : List (Nat × Byte) → Nat → Option (BitVec 256)

/-- SHA3-256 of the signed boot policy, and of the firmware running after cold reset (R347). -/
opaque policyDigest : BitVec 256
opaque bootFirmwareDigest : BitVec 256

/-- The digest of the microcode a cluster runs after cold reset (R347). -/
opaque bootMicrocodeDigest : Nat → BitVec 256

/-- The boundary registers that boot ROM writes from the signed policy: doubleword at an offset (Table 14.8). -/
opaque policyBoundary : Nat → DWord

/-- Link keys of the signed policy: key of entry i, if the policy names one (R345). -/
opaque policyKey : Nat → Option (BitVec 256)

/-- The handle that the signed policy names for the first key of a direction of a port, and its salt, whose source the manual does not give
(R337, log 102). -/
opaque firstHandle : Nat → Bool → Option (BitVec 32 × BitVec 32)

/-- The nonce a module draws at cold reset (R418). -/
opaque nonce : Nat → BitVec 32

/-- What the sensors of MTEMP measure as time goes on: highest die temperature, and mean power, which the model holds to 5,200 W (Table 14.9,
R23; log 81). -/
opaque temperature : Nat → BitVec 32
opaque power : Nat → BitVec 16

/-- The port by which a flit of an access leaves for a node, which the manual does not say (R118, R334, log 97). -/
opaque portTo : Nat → Nat
/-- An access of another node's memory that is no plain store of doublewords: what it does (`fn`: 0 to 10 an AMO of R208, 16 a signal, 17 the arming
of a barrier, 18 an arrival, 19 a store of other lengths or of poisoned data, 32 + 16·f + ty an AG atomic), its bytes, operand and compare value,
rounding, flush and poison. -/
structure FarOp where
  fn : Nat
  n : Nat
  y : Nat
  cv : Nat := 0
  rm : Nat := 0
  ftz : Bool := false
  poison : Bool := false
/-- The doublewords of the transfer in which such an access travels, which the manual does not lay out (R334, log 97), and what an arriving transfer
asks for; none where it is a plain store of doublewords. -/
opaque accessWords : FarOp → List DWord
opaque accessOf : List DWord → Option FarOp
/-- Whether an RDATA that refuses an access says that the address is not populated (XLATE detail 4), or else that the line is poisoned, which
the manual does not lay out (R392, log 97). -/
opaque refusedXlate : FlitHdr → Bool

/-- An edge between regions as the loader binds it, which the manual lays out nowhere (R28, R322; log 49): regions by their index in the context, the
die network ports, the producer's channel, or the collective node and the member whose stream it is. Of an edge between modules (R322, R146) `from_`
or `to_` names the other module, and `locs` the context locations to which a token that leaves by it leads. -/
structure EdgeSpec where
  src : Nat
  port : Nat
  vc : Nat
  dst : Nat := 0
  dstPort : Nat := 0
  node : Option Nat := none
  member : Nat := 0
  from_ : Option Nat := none
  to_ : Option Nat := none
  locs : List Nat := []
/-- A collective node of a graph as the loader places it, which the manual lays out nowhere (R158, R159; log 49): members and their completion
objects by region index, and for each output the region, port and channel it feeds. -/
structure NodeSpec where
  id : BitVec 24
  kind : Nat
  op : Nat
  ty : Nat
  rnd : Nat
  ftz : Bool
  cap : Nat
  reroute : Bool
  rate : Nat
  group : List Nat
  objs : List (Nat × BitVec 64)
  dest : List (Nat × Nat × Nat × Nat)
/-- What the loader binds at an admission (log 49). -/
opaque edges : Nat → List EdgeSpec
opaque nodes : Nat → List NodeSpec

/-- How a combination rounds under one of the codes 4 to 7 of rnd, which a DTD reserves and a collective descriptor does not assign, and which no
rule stops (R152, Table 12.10; log 129). -/
opaque reservedRnd : Nat → Nat

/-- How many entries the member map at an address has as a context is judged, which no field of the manual gives (R145, R378; log 33). -/
opaque mapEntries : Nat → BitVec 64 → Nat

/-- How many bytes a member had received in an operation with members on other modules when an ABORT ended it, and what they were: the manual does
not say how the modules' parts of one come together (R399, log 99). -/
opaque abortedAfter : Nat → Nat
opaque receivedByte : Nat → Nat → BitVec 8

/-- What an accumulator cell holds when the coverage state gives its slot back, which the manual does not say (R305, log 18). -/
opaque releasedCell : Nat → BitVec 128

/-- The gain of a column whose terms include one that is not finite, and the OVR that a term without a value sets (R307, log 19). -/
opaque openGain : Nat → BitVec 128
opaque openOvr : Nat → Bool

/-- Lane i of an argmax token where no gain of the range is valid (R308, log 20). -/
opaque openLane : Nat → Nat → Word

end Sys2Proof.Config
end

