-- ==== Sys2Proof/Machine/Sparse.lean ====
section
/-! DEFINITION. Sparse tables: a list of key and value pairs with rising keys, what is not listed being a default. -/
namespace Sys2Proof

/-- A table from natural numbers, kept as pairs. -/
abbrev Map (α : Type) := List (Nat × α)

namespace Map

/-- The value listed at `k`, if any. -/
def find? {α : Type} : Map α → Nat → Option α
  | [], _ => none
  | (j, v) :: r, k => if j = k then some v else find? r k

/-- The value at `k`, or `d` where nothing is listed. -/
def get {α : Type} (d : α) (m : Map α) (k : Nat) : α := (m.find? k).getD d

/-- The table without key `k`. -/
def del {α : Type} : Map α → Nat → Map α
  | [], _ => []
  | (j, v) :: r, k => if j = k then del r k else (j, v) :: del r k

/-- Places a pair before the first larger key. -/
def place {α : Type} : Map α → Nat → α → Map α
  | [], k, v => [(k, v)]
  | (j, w) :: r, k, v => if k < j then (k, v) :: (j, w) :: r else (j, w) :: place r k v

/-- The table with `v` at `k`. -/
def set {α : Type} (m : Map α) (k : Nat) (v : α) : Map α := place (m.del k) k v

/-- The table with `v` at `k`, listing nothing where `v` is the default `d`. -/
def put {α : Type} [DecidableEq α] (d : α) (m : Map α) (k : Nat) (v : α) : Map α :=
  if v = d then m.del k else m.set k v

/-- The table with the value at `k` changed by `f`. -/
def mod {α : Type} (d : α) (m : Map α) (k : Nat) (f : α → α) : Map α := m.set k (f (m.get d k))

/-- Keys rise strictly. -/
def sorted {α : Type} : Map α → Bool
  | [] => true
  | [_] => true
  | (j, _) :: (k, w) :: r => decide (j < k) && sorted ((k, w) :: r)

/-- The canonical form: strictly rising keys and no entry equal to the default. -/
def wf {α : Type} [DecidableEq α] (d : α) (m : Map α) : Bool :=
  sorted m && m.all (fun e => decide (e.2 ≠ d))

/-- The values listed. -/
def vals {α : Type} (m : Map α) : List α := m.map Prod.snd

end Map
end Sys2Proof
end

