-- ==== Sys2Proof/Machine/State.lean ====
section
/-! DEFINITION. The state of one L9 module as plain data: memory, clusters (streams, fabric, matrix unit, meridian unit,
tables), dies, I/O dies, ports, admitted contexts, and the model's own schedule. -/
namespace Sys2Proof.Machine

/-- Why a step can stop with a fault. -/
inductive Fault where
  /-- Raised by `step` when the move names a cluster, site or stream the module does not have (R13, R15, R16), which no
  agent of the machine can do. Safe: the move is none of the hardware's. -/
  | noSuchAgent
  deriving DecidableEq, Repr

/-- Why the model has no next state. -/
inductive Refusal where
  /-- Raised by an arm of `exec` for an instruction without a meaning yet. Safe. -/
  | notModelled (mnemonic : String)
  deriving DecidableEq, Repr

/-! ### Tokens and fabric -/

/-- A token (R32, Table 2.2). `scale` is the scale byte of the HDR latched on its channel when it was taken (R34), 127
before the first; `stamp` is its order of arrival at the port that holds it (R45). -/
structure Token where
  kind : BitVec 3
  chan : BitVec 5 := 0
  ctx : BitVec 2 := 0
  colour : BitVec 6 := 0
  tag : BitVec 12 := 0
  slot : BitVec 4 := 0
  port : BitVec 2 := 0
  poison : Bool := false
  last : Bool := false
  aux : BitVec 16 := 0
  lanes : List Word := []
  scale : BitVec 8 := 127
  stamp : Nat := 0
  deriving DecidableEq, Repr, Inhabited

/-- A switch word (R39) with its elastic buffer of 4 tokens (R41). `pos` is its position among the words of the box (R27). During a switch,
`switched` is an old word that has forwarded the picot and waits for the others of its input and channel, and `fresh` a word that has its new
value (R229). -/
structure SwWord where
  net : BitVec 2
  out : BitVec 3
  inp : BitVec 3
  ctx : BitVec 2
  vc : BitVec 5
  mc : Bool
  pos : Nat := 0
  buf : List Token := []
  switched : Bool := false
  fresh : Bool := false
  deriving DecidableEq, Repr, Inhabited

/-- A matching entry (R36): the operands waiting at ports A, B and C. -/
structure Entry where
  a : Option Token := none
  b : Option Token := none
  c : Option Token := none
  deriving DecidableEq, Repr, Inhabited

/-- What a slot keeps from one firing to the next (R283): its matching entries, latched value, next tag of a sequence, running
values (`vals`: exact integers, or the bits of floats), the tokens of its open group, the counts of a sink, the results of a
firing already emitted (`count`) and the operands of that firing with their entry (`pinned`), the ports ended by EOS and the unmatched counts,
the colours of a sink's tokens that no EOS has followed (`taken`), the cycles it was passed over while ready and the levels it rose by
(`passed`, `raised`, R45), and whether it was chosen and had to wait (`tried`). A slot in mode sequence starts at the tag at its colour's base, offset 0:
R44 gives only the cyclic order (DESIGN CHOICE, log 86). -/
structure SlotSt where
  entries : Map Entry := []
  latch : Option Token := none
  seqNext : Nat := 0
  vals : List Int := []
  group : List Token := []
  groupB : List Token := []
  size : Nat := 0
  doneA : Bool := false
  doneB : Bool := false
  count : Nat := 0
  pinned : Option (Option Nat × List (Nat × Token)) := none
  data : Nat := 0
  errs : Nat := 0
  firstErr : BitVec 16 := 0
  taken : List Nat := []
  eos : List (Nat × Nat) := []
  unmatched : Map Nat := []
  passed : Nat := 0
  raised : Nat := 0
  tried : Bool := false
  sawEos : List Nat := []
  deriving DecidableEq, Repr, Inhabited

/-- A result on its way to an output register or a local slot (R244, R245): output 0 or 1, or 2 for local only. -/
structure PipeItem where
  out : Nat
  tok : Token
  loc : Option (BitVec 4) := none
  deriving DecidableEq, Repr, Inhabited

/-- An element unit (R27, R29). Descriptors are 8 doublewords each (Table 12.1). -/
structure ElemUnit where
  words : Map Word := []
  consts : Map Word := []
  vcfmt : Map Word := []
  descs : Map (List DWord) := []
  deriving DecidableEq, Repr, Inhabited

/-- A run of a stream descriptor (R286), or the draining of a tile (desc 16 + tile, R294): the governing slot, base in force, the
AG command or the operand tokens that started it, and whether these still stand at their ports (`holds`, R389), its position in stream order, the elements of a token not yet complete
(R406), the replies on their way back (R138), bytes moved and written, errors and poison met, the fault record it stalls on (R389), the
end of the contiguous bytes written (R383), for pld and pst the demand it waits for (R153), `retried` that its access is one that was retried and
`ranged` that the retry is of an entered range (R391), and how often it was passed over and the levels it rose by (R45). -/
structure Run where
  desc : Nat
  slot : Nat
  base : DWord
  cmdId : Nat := 0
  a : Option Token := none
  b : Option Token := none
  x : Option Token := none
  ent : Option Nat := none
  holds : Bool := false
  z : Nat := 4
  pos : Nat := 0
  emitted : Nat := 0
  part : List Nat := []
  partPoison : Bool := false
  missed : Nat := 0
  ready : List Token := []
  moved : Nat := 0
  wrote : Nat := 0
  poisoned : Bool := false
  wroteBad : Bool := false
  error : Bool := false
  isOver : Bool := false
  stalled : Option Nat := none
  retried : Bool := false
  ranged : Bool := false
  cov : Nat := 0
  addr : DWord := 0
  demand : Option (Nat × Nat) := none
  waitsJoin : Bool := false
  buf : DWord := 0
  cap : Nat := 0
  passed : Nat := 0
  raised : Nat := 0
  deriving DecidableEq, Repr, Inhabited

/-- An arrangement of a bank (R295): the share offsets of its batches, newest first, and its free pointer as an offset in its area. -/
structure Arr where
  batches : List Nat := []
  free : Nat := 0
  deriving DecidableEq, Repr, Inhabited

/-- A wave access that has been submitted and not yet performed (R292): its slot and descriptor, numbers, address token and data,
the fault record it stalls on, and that it was retried after one of an entered range (R391). -/
structure WaveAcc where
  slot : Nat
  desc : Nat
  own : Nat
  pred : Nat
  succ : Nat
  tok : Token
  data : Option Token := none
  num : Nat := 0
  stalled : Option Nat := none
  ranged : Bool := false
  deriving DecidableEq, Repr, Inhabited

/-- What a staged configuration gives an element (R228). -/
structure NextUnit where
  typ : Nat
  unit : ElemUnit
  win : Map Nat
  fixedA : List Nat
  deriving DecidableEq, Repr, Inhabited

/-- One element for one context. `next` is its part of the staged configuration; `holds` that a switch has begun and the element has not switched,
`switched` that it has; `swIns`, `swOuts` and `swBack` are the channels that its ports
and outputs had, and its feedback inputs, when a switch began (R229, R372). `runs` are its runs in the order they were started, `waves` its submitted wave accesses, `ntok` the
tokens each descriptor has taken, `sbr` its stream barriers not yet released with the streams they name, `held` the descriptors that a
stream barrier holds (with the site and slot of the sbr), `stallSlot` the bar slots that stall on a fault record (sequence number + 1) or
that were retried after one of an entered range (0), `win` the windows of its slots (R36), `fixedA` the slots whose port A width the pricking fixes (R424). -/
structure Elem where
  typ : Nat
  share : Nat := 0
  shareBase : Nat := 0
  unit : Option ElemUnit := none
  fetching : Bool := false
  inA : List Token := []
  inB : List Token := []
  inC : List Token := []
  inQ : List Token := []
  slots : Map SlotSt := []
  hdr : Map Token := []
  pipe : List PipeItem := []
  out0 : List Token := []
  out1 : List Token := []
  accs : Map (List Word) := []
  runs : List Run := []
  arrs : Map Arr := []
  waves : List WaveAcc := []
  ntok : Map Nat := []
  sbr : List (Nat × Token × List (Nat × Nat)) := []
  held : List (Nat × Nat) := []
  stallSlot : List (Nat × Nat) := []
  snapped : Bool := false
  picots : List Nat := []
  win : Map Nat := []
  fixedA : List Nat := []
  next : Option NextUnit := none
  holds : Bool := false
  switched : Bool := false
  swIns : List (Nat × BitVec 5) := []
  swOuts : List (Nat × BitVec 5) := []
  swBack : List (Nat × Nat) := []
  deriving DecidableEq, Repr, Inhabited

/-- One fabric site: its switch words, those of staged configurations (R228), its element per context slot, the word that each output serves next
(R41), and the context slots whose words there are being fetched again (R374). -/
structure Site where
  words : List SwWord := []
  next : List SwWord := []
  elems : Map Elem := []
  turns : Map Nat := []
  refetch : List Nat := []
  deriving DecidableEq, Repr, Inhabited

/-! ### Sequencer -/

/-- A frontier register with its binding (Tables 3.2 and 10.1). -/
structure Hz where
  els : List Time := [⟨0, 0, 0, 0⟩]
  bound : Bool := false
  src : Bool := false
  loc : BitVec 16 := 0
  deriving DecidableEq, Repr, Inhabited

/-- The registers of a stream (R196). Register 0 is never listed; a taint is listed where it is set. -/
structure Regs where
  s : Map DWord := []
  taint : Map Bool := []
  p : BitVec 8 := 0
  tm : Map Time := []
  hz : Map Hz := []
  rstk : List DWord := []
  nspill : BitVec 32 := 0
  fpcr : DWord := 0
  trapvec : DWord := 0
  cause : BitVec 16 := 0
  trapblk : DWord := 0
  trapidx : BitVec 7 := 0
  trapaddr : DWord := 0
  spillbase : DWord := 0
  spilllim : DWord := 0
  th : Bool := false
  trcctl : BitVec 3 := 3
  deriving DecidableEq, Repr, Inhabited

/-- An engine command as captured (R105, R218): operands, lanes of a TI command, rounding, and what became of it. -/
structure Cmd where
  q : Nat
  a : DWord
  obj : DWord
  c : DWord
  flg : BitVec 4 := 0
  lanes : List Word := []
  rm : BitVec 2 := 0
  ftz : Bool := false
  word : Word := 0
  idx : Nat := 0
  id : Nat := 0
  desc : List DWord := []
  pos : Nat := 0
  done : Bool := false
  inc : Nat := 0
  status : Nat := 0
  stalled : Option Nat := none
  deriving DecidableEq, Repr, Inhabited

/-- A buffered effect of a block (R49), with the index of its instruction. Memory is named by virtual address and home key. -/
inductive Eff where
  | store (va : DWord) (key : Nat) (n : Nat) (v : DWord) (rel : Bool)
  | amo (fn : Nat) (va : DWord) (key : Nat) (n : Nat) (d : BitVec 6) (y cv : DWord) (rm : BitVec 2) (ftz : Bool) (t : Bool)
  | load (va : DWord) (kind : Nat) (n : Nat)
  | signal (va : DWord) (key : Nat) (inc : Nat) (status : Nat)
  | bara (va : DWord) (key : Nat) (expected : DWord) (strict : Bool)
  | enq (c : Cmd)
  | cfg (c : Cmd)
  | ctx (fn : Nat) (pa : Nat) (n : Nat)
  | hzpub (loc : Nat) (els : List Time)
  | trace (v : DWord)
  | push (ra : DWord)
  | evsel (n : Nat) (v : BitVec 16)
  | evcnt (n : Nat) (v : BitVec 48)
  deriving DecidableEq, Repr

/-- Where a stream stands (R48-R51, R234). -/
inductive Phase where
  | idle
  | ready
  | inBlock
  | committing
  | exiting
  | exited
  deriving DecidableEq, Repr

/-- A pending asynchronous trap (R357). -/
structure Async where
  code : Nat
  detail : Nat
  addr : DWord
  deriving DecidableEq, Repr

/-- One sequencer stream. `arch` is the architectural state, `view` the block's view of it (R49), `prio` the firing priority it took at the
start of its block (R51, R327), `waited` that it was stopped in a waiting instruction, and `dropped` the commands not issued that a fault end has
discarded, both for its image (R417). -/
structure Stream where
  prio : Nat := 0
  arch : Regs := {}
  view : Regs := {}
  pc : DWord := 0
  phase : Phase := .idle
  idx : Nat := 0
  len : Nat := 0
  wflag : Bool := false
  tflag : Bool := false
  waiting : Bool := false
  next : DWord := 0
  taken : Bool := false
  isRet : Bool := false
  isReti : Bool := false
  isExit : Bool := false
  isYield : Bool := false
  effs : List (Nat × Eff) := []
  queues : Map (List Cmd) := []
  issued : List Cmd := []
  asyncs : List Async := []
  exitBlk : DWord := 0
  brRing : List (DWord × DWord) := []
  memRing : List (DWord × DWord) := []
  brPos : Nat := 0
  memPos : Nat := 0
  armed : List Nat := []
  yields : Nat := 0
  waited : Bool := false
  dropped : List Cmd := []
  deriving DecidableEq, Repr, Inhabited

/-! ### Cluster -/

/-- A cached leaf (R124): partition root, virtual page base, page size code, leaf entry. -/
structure Tlb where
  root : DWord
  va : Nat
  ps : Nat
  leaf : DWord
  deriving DecidableEq, Repr

/-- A pointstamp entry (R68). -/
structure Stamp where
  cid : Nat
  loc : Nat
  time : Time
  count : Int
  deriving DecidableEq, Repr

/-- A colour declaration (Table 2.9). -/
structure ColourDecl where
  dyn : Bool := false
  wid : Nat := 1
  tags : Nat := 1
  depth : Nat := 0
  kl : Nat := 0
  vl : Nat := 0
  deriving DecidableEq, Repr, Inhabited

/-- One composition of a path summary: an action and addend per coordinate (R28, R71). -/
structure Compo where
  act : List (Nat × Nat)
  deriving DecidableEq, Repr

/-- A path summary between two locations (R71). -/
structure Summary where
  src : Nat
  dst : Nat
  comps : List Compo
  deriving DecidableEq, Repr

/-- The inherited quantities of a node of the RCB tree (R30). -/
structure Effective where
  bclus : Nat := 0
  bcobj : Nat := 0
  bmem : Nat := 0
  prio : Nat := 0
  fdom : Nat := 0
  dump : DWord := 0
  dumplen : Nat := 0
  dumpkey : BitVec 32 := 0
  trapvec : DWord := 0
  deriving DecidableEq, Repr, Inhabited

/-- A staged configuration (R228): its image and generation, its location map, and the digests of its verification. -/
structure Staged where
  image : Nat
  gen : Nat
  locs : Map Nat := []
  portLocs : Map Nat := []
  digests : Map (BitVec 256) := []
  deriving DecidableEq, Repr

/-- A unit that the configuration cache holds (R325): the context slot and site it belongs to, its image, and what was read. -/
structure CacheUnit where
  k : Nat
  site : Nat
  image : Nat
  unit : ElemUnit
  deriving DecidableEq, Repr

/-- The region loaded in a context slot. `eff` are its effective values (R31), `setUp` that its stream and sources are ready to start (R324). `waveAt` is the wave whose accesses are being performed, for each colour, and `waveDone` the
accesses of it performed (colour, own, succ; R292); `snapSent` that its sources have injected SNAP (R328). -/
structure Region where
  cid : Nat
  index : Nat := 0
  rcb : Nat := 0
  image : Nat := 0
  gen : Nat := 0
  entry : DWord := 0
  locBase : Nat := 0
  nloc : Nat := 0
  locs : Map Nat := []
  portLocs : Map Nat := []
  tiSource : List Nat := []
  digests : Map (BitVec 256) := []
  staged : Option Staged := none
  switching : Option Nat := none
  frozen : Bool := false
  setUp : Bool := false
  started : Bool := false
  eff : Effective := {}
  gpos : Nat := 0
  gang : Nat := 0
  tiles : List Nat := []
  rings : List Nat := []
  waveAt : Map Nat := []
  waveDone : List (Nat × Nat × Nat) := []
  snapSent : Bool := false
  deriving DecidableEq, Repr, Inhabited

/-- An accepted MX command (R300): its words, issuer, how far it has come, and the tiles of its cluster that it has read (R112). -/
structure MxCmd where
  w0 : Word
  w1 : Word
  ctx : Nat
  stream : Option (Nat × Nat) := none
  colour : BitVec 6 := 0
  tag : BitVec 12 := 0
  rm : BitVec 2 := 0
  ftz : Bool := false
  started : Bool := false
  refused : Bool := false
  pos : Nat := 0
  error : Bool := false
  poisoned : Bool := false
  used : List Nat := []
  deriving DecidableEq, Repr, Inhabited

/-- The coverage accumulator (R305). Entries are best (f32) and weight (bf16). -/
structure Coverage where
  e : Nat
  best : Map Word := []
  weight : Map Half := []
  gains : Map (BitVec 128) := []
  valid : List Nat := []
  keys : Map Word := []
  index : Map Word := []
  anchor : Int := 0
  ovr : Bool := false
  deriving DecidableEq, Repr, Inhabited

/-- The matrix unit. Cell c of slot a is at 2,048·a + c. `owner` is the context slot whose command last took each accumulator slot, and at 16 the
coverage state (DEDUCED, log 27). -/
structure Mx where
  cells : Map (BitVec 128) := []
  invalid : List Nat := []
  ovr : BitVec 16 := 0
  cov : Option Coverage := none
  buf : List MxCmd := []
  turn : Nat := 0
  owner : Map Nat := []
  deriving DecidableEq, Repr, Inhabited

/-- One cluster. `turn` is the stream that is served first among equals (R52), `muStall` are the waiters at its MU (context, who), `muWait` the cycles since one of its entries became free while any
waits, `muReported` that the watchdog has reported the stall (R376), `cc` the units of the configuration cache, the one fetched last at the end
(R325), `snaps` the TO ports (4 · port + slot) and MX command ports (16 + 4 · port + slot) that SNAP has reached (R328). -/
structure Cluster where
  streams : Map Stream := []
  turn : Nat := 0
  regions : Map Region := []
  sites : Map Site := []
  spad : List Host.Cell := []
  spadMark : Map Nat := []
  tiles : Map DWord := []
  tileUse : Map Nat := []
  rings : Map Word := []
  tags : Map DWord := []
  stamps : List Stamp := []
  muStall : List (Nat × Nat) := []
  cf : List (Nat × Nat) := []
  seqTlb : List Tlb := []
  agTlb : List Tlb := []
  cc : List CacheUnit := []
  snaps : List Nat := []
  evsel : Map (BitVec 16) := []
  evcnt : Map (BitVec 48) := []
  toBuf : Map (List Token) := []
  mxBuf : Map (List Token) := []
  mx : Mx := {}
  resetAt : Nat := 0
  muWait : Nat := 0
  muReported : Bool := false
  microcode : Option (BitVec 256) := none
  deriving DecidableEq, Repr, Inhabited

/-! ### Module -/

/-- A candidate: the entry a launch queue has at its head after the scheduler has read it (R318, R320). -/
structure Candidate where
  rcb : Nat
  readAt : Nat
  level : Nat := 0
  reentry : Option Nat := none
  deriving DecidableEq, Repr

/-- A fault record outstanding (Table 20.4), with whom it holds. -/
structure FaultRec where
  seq : Nat
  words : List DWord
  locus : Locus
  cid : Nat
  va : DWord
  code : Nat
  detail : Nat
  deriving DecidableEq, Repr

/-- The registers and tables of one compute die. -/
structure Die where
  drdy : DWord := 0
  devsel : Map (BitVec 16) := []
  devcnt : Map (BitVec 48) := []
  xinvr : DWord := 0
  xinv : DWord := 0
  cfence : DWord := 0
  cmcode : DWord := 0
  fqbase : DWord := 0
  fqtail : BitVec 7 := 0
  fqhead : BitVec 7 := 0
  fqntf : DWord := 0
  fqres : DWord := 0
  fseq : Nat := 0
  records : List FaultRec := []
  lqbase : Map DWord := []
  lqntf : Map (BitVec 9) := []
  lqhead : Map (BitVec 9) := []
  cands : Map Candidate := []
  pass : Map Nat := []
  heldQ : Option Nat := none
  chainHead : Nat := 0
  chainTail : Nat := 0
  aggStall : List (Nat × Nat) := []
  aggWait : Nat := 0
  aggReported : Bool := false
  owed : Map Nat := []
  deriving DecidableEq, Repr, Inhabited

/-- The registers of one I/O die. -/
structure Iod where
  irdy : DWord := 0
  mcap : BitVec 13 := 5200
  boundary : Map DWord := []
  fwstage : DWord := 0
  attch : Map DWord := []
  attgo : DWord := 0
  kimp : DWord := 0
  kimpst : DWord := 0
  deriving DecidableEq, Repr, Inhabited

/-- A key slot of one direction of a port (R337). -/
structure KeySlot where
  loaded : Bool := false
  handle : BitVec 32 := 0
  salt : BitVec 32 := 0
  ctr : DWord := 0
  key : BitVec 256 := 0
  deriving DecidableEq, Repr, Inhabited

/-- A flit as sent: header, plaintext, the slot it was sent under with its key and salt, the counter of its IV (R336, R337), and the command it
belongs to. -/
structure Flit where
  hdr : FlitHdr
  pay : List DWord
  slotB : Bool
  ctr : DWord
  key : BitVec 256 := 0
  salt : BitVec 32 := 0
  cmd : Option (Nat × Nat × Nat) := none
  deriving DecidableEq, Repr

/-- A DATA flit accepted and not yet performed: its ord bit, when it came, and its doublewords (R335). -/
structure HeldFlit where
  ord : Bool
  at_ : Nat
  pay : List DWord
  deriving DecidableEq, Repr

/-- An inbound transfer (R334): OPEN fields, the flits performed, those accepted and not yet performed (by index), and when its OPEN came. -/
structure Transfer where
  src : BitVec 12
  xfer : BitVec 16
  addr : DWord
  mode : DWord
  ptab : DWord
  n : Nat
  got : Nat := 0
  failed : Bool := false
  held : Map HeldFlit := []
  at_ : Nat := 0
  deriving DecidableEq, Repr

/-- A READ accepted and not yet performed, since its ord bit holds it (R335) or its memory is not ready (R25). -/
structure HeldRead where
  src : BitVec 12
  addr : DWord
  len : DWord
  rxfer : BitVec 16
  at_ : Nat
  ord : Bool := false
  deriving DecidableEq, Repr

/-- One link port (Table 14.3, R336-R338, R401-R404). `resend` is how many flits at the end of the replay buffer are to be sent again,
`injected` when its latest flits left, `due` the port cycle at which the oldest flit goes out again unless an ACK comes (R401). -/
structure Port where
  pctl : BitVec 2 := 0
  plim : DWord := 0x1000000000000
  txA : KeySlot := {}
  txB : KeySlot := {}
  rxA : KeySlot := {}
  rxB : KeySlot := {}
  txOnB : Bool := false
  rxOnB : Bool := false
  replay : List Flit := []
  resend : Nat := 0
  outq : List (FlitHdr × List DWord × Option (Nat × Nat × Nat)) := []
  wire : List Flit := []
  sending : Option (Nat × Nat × Nat) := none
  naks : BitVec 32 := 0
  fails : Nat := 0
  xfers : List Transfer := []
  reads : List HeldRead := []
  injected : List Nat := []
  due : Nat := 0
  deriving DecidableEq, Repr, Inhabited

/-- A key store entry (R345). -/
structure KeyEntry where
  valid : Bool := false
  typ : Nat := 0
  root : DWord := 0
  gen : BitVec 12 := 0
  key : BitVec 256 := 0
  deriving DecidableEq, Repr, Inhabited

/-- An allocated colour of a context (R35, R243). -/
structure ColourAlloc where
  base : Nat
  n : Nat
  width : Nat
  deriving DecidableEq, Repr

/-- A conversion in flight (R154): collective id, DTD, target, the done object, the members' places in linear order, whether another member had
demanded another target by its start (R155), whether the mesh has members on other modules, whether its data have moved, poison met, the bytes
written at each member, the fault record it stalls on, and the members here at which an ABORT has ended it (R399). -/
structure CollOp where
  id : Nat
  dtd : Nat
  target : Nat
  done : DWord
  places : List (Nat × Nat)
  rival : Bool := false
  away : Bool := false
  started : Bool := false
  poisoned : Bool := false
  bytes : Map Nat := []
  stalled : Option Nat := none
  left : List Nat := []
  deriving DecidableEq, Repr

/-- A collective node placed by the loader (R158, R159): its collective id, kind, operator, type, rounding, flush, members, capacity and
policy, the token rate that it declares and the times of the tokens that came lately on each input, the members' places and the completion
objects of their rounds, the streams that have arrived and the results not yet delivered, keyed by member (all-to-all: n · member + peer), and
where each output enters its region: cluster, slot, port and channel. -/
structure CollNode where
  id : Nat := 0
  kind : Nat := 0
  op : Nat := 0
  ty : Nat := 0
  rnd : Nat := 0
  ftz : Bool := false
  n : Nat := 0
  cap : Nat := 0
  reroute : Bool := false
  rate : Nat := 64
  recent : Map (List Nat) := []
  group : List (Nat × Nat) := []
  objs : Map DWord := []
  turn : Nat := 0
  ins : Map (List Token) := []
  outs : Map (List Token) := []
  dest : Map (Nat × Nat × Nat × Nat) := []
  deriving DecidableEq, Repr, Inhabited

/-- An edge between regions as the loader binds it (R17, R32): the port and channel a token leaves by, and the region, port and
channel it enters by, or the collective node and member whose stream it joins (R158). Where the other end lies on another module, `away` names that
module (R322, R146): on an edge that leaves `locs` are the locations it leads to; one that comes from there has no cluster at its beginning. -/
structure EdgeBind where
  c : Nat
  k : Nat
  p : Nat
  vc : Nat
  toC : Nat := 0
  toK : Nat := 0
  toP : Nat := 0
  toVc : Nat := 0
  node : Option Nat := none
  member : Nat := 0
  away : Option Nat := none
  locs : List Nat := []
  deriving DecidableEq, Repr

/-- Where a region of a context stands. -/
structure Placed where
  cluster : Nat
  slot : Nat
  rcb : Nat
  image : Nat
  deriving DecidableEq, Repr

/-- What a snapshot records of a region (R328): its stream, words and elements, scratchpad shares (keyed 65,536 · ME + offset, marks by
word), tile, ring and tag entries, the uses of its tiles (R112), the matrix unit, the tokens at its TO and MX ports (by port), and where the region was. -/
structure Saved where
  at_ : Nat × Nat
  region : Region
  stream : Stream
  sites : Map Site := []
  spad : List Host.Cell := []
  marks : Map Nat := []
  tiles : Map DWord := []
  tileUse : Map Nat := []
  rings : Map Word := []
  tags : Map DWord := []
  mx : Mx := {}
  toBuf : Map (List Token) := []
  mxBuf : Map (List Token) := []
  deriving DecidableEq, Repr

/-- An entry of the range table (R143): the operation that holds the bytes, the first byte and the one after the last. -/
structure Held where
  owner : Nat
  lo : Nat
  hi : Nat
  deriving DecidableEq, Repr
/-- The entry and n bytes at va share a byte. -/
def Held.meets (r : Held) (va n : Nat) : Bool := decide (r.lo < r.hi) && decide (va < r.hi) && decide (r.lo < va + n)

/-- An admitted context (R317-R331). `gseq` is the next gateway batch of each sender, `others` its members on other modules, each with its module, and `gout` the next batch from each die's aggregate
to each (keyed 2,048 · die + module; R339), `saved` its snapshot while it is evicted,
`objs` the completion-file entries that it held on each cluster when a fault end began (R417). -/
structure Ctx where
  rcb : Nat
  job : Nat := 0
  part : Nat := 0
  root : DWord := 0
  prio : Nat := 0
  parentPrio : Nat := 15
  fdom : Nat := 0
  dump : DWord := 0
  dumplen : Nat := 0
  dumpkey : BitVec 32 := 0
  trapvec : DWord := 0
  bclus : Nat := 0
  bcobj : Nat := 0
  bmem : Nat := 0
  ptab : DWord := 0
  done : Nat := 0
  die : Nat := 0
  regions : List Placed := []
  running : Bool := false
  susp : Bool := false
  evicting : Bool := false
  ending : Option (Nat × Nat × DWord × DWord × Nat × Bool) := none
  colours : Map ColourDecl := []
  allocs : Map ColourAlloc := []
  freed : Map ColourAlloc := []
  sources : Map (List Time) := []
  summaries : List Summary := []
  holds : List Stamp := []
  ranges : List Held := []
  colls : List CollOp := []
  nodes : Map CollNode := []
  edges : List EdgeBind := []
  gseq : Map Nat := []
  others : List (Nat × Nat) := []
  gout : Map Nat := []
  saved : List Saved := []
  savedStamps : List Stamp := []
  objs : List (Nat × Nat) := []
  deriving DecidableEq, Repr, Inhabited

/-- The other modules that hold members of a context. -/
def Ctx.peers (x : Ctx) : List Nat := (x.others.map Prod.snd).eraseDups

/-- A token that has left for another module: an edge's, with the port and channel it enters by there (R322; log 119), or an ABORT picot of a gateway
for a member there, which is given as the port (R366). -/
structure Departed where
  cid : Nat
  module_ : Nat
  port : Nat
  vc : Nat
  tok : Token
  deriving DecidableEq, Repr

/-- How another node has answered an access of aperture 3 or 4 (R334, R392): performed, or refused with a code and detail. -/
inductive FarAns where
  | good
  | bad (code detail : Nat)
  deriving DecidableEq, Repr

/-- An access of aperture 3 or 4 that this module has sent (R118, R334): who waits, the bytes, whether it is a write, which is answered by the ACK
of its DATA flit, the port and tag by which its RDATA comes, and the answer. -/
structure FarRead where
  who : Nat
  key : Nat
  n : Nat
  write : Bool := false
  port : Nat
  xfer : BitVec 16
  answer : Option FarAns := none
  deriving DecidableEq, Repr

/-- A signal that waits for the home of its object (R25): the cluster and root by which it is translated, the object, increment and status; `phys`
that the object is at a physical address of local HBM. -/
structure OwedSignal where
  cluster : Nat
  root : DWord
  obj : DWord
  inc : Nat
  status : Nat
  phys : Bool := false
  deriving DecidableEq, Repr

/-- The state of the module. `mem` holds one pair per byte that is not zero, keyed by home (aperture, peer, physical
address); `marks` one entry per 64-byte line with a correctable error of one symbol (1) or two (4), an uncorrectable one (2) or a poison mark (3), `prot` the format tag under which a line of a
tolerant page was written (R122, R123). Bytes at keys of apertures 3 and 4 are those that answers from there brought last. `nodes` are the
addresses of the RCBs that a scheduler has read or taken (R31), `signals` what waits for its home, `sent` the tokens that have left for other modules. `cew` are the operand fields of the CE operation that fires, `cur` is where the step acts. -/
structure State where
  mem : List Host.Cell := []
  marks : Map Nat := []
  prot : Map Nat := []
  farReads : List FarRead := []
  nodes : List Nat := []
  signals : List OwedSignal := []
  sent : List Departed := []
  clusters : Map Cluster := []
  dies : Map Die := []
  iods : Map Iod := []
  ports : Map Port := []
  ctxs : Map Ctx := []
  nextCid : Nat := 1
  keys : Map KeyEntry := []
  reports : BitVec 32 := 0
  temp : BitVec 32 := 0
  power : BitVec 16 := 0
  ivc : DWord := 0
  resets : Nat := 0
  firmware : Option (BitVec 256) := none
  stagedFw : Option (BitVec 256) := none
  cmdId : Nat := 0
  cew : CeW := {}
  cur : Locus := {}
  agenda : List Move := []
  tick : Nat := 0
  deriving DecidableEq, Repr, Inhabited

/-- The module right after reset: every field at its reset value, memory with nothing listed, no context resident. -/
def State.reset : State := {}

end Sys2Proof.Machine
end

