-- ==== Sys2Proof/Machine/Times.lean ====
section
/-! DEFINITION. Times, their orders and frontiers (R59 to R66). -/
namespace Sys2Proof

def Time.zero : Time := ⟨0, 0, 0, 0⟩
def Time.coord (t : Time) (j : Nat) : Nat :=
  match j with
  | 0 => t.c0.toNat
  | 1 => t.c1.toNat
  | 2 => t.c2.toNat
  | _ => t.c3.toNat
def Time.setCoord (t : Time) (j v : Nat) : Time :=
  match j with
  | 0 => { t with c0 := BitVec.ofNat 32 v }
  | 1 => { t with c1 := BitVec.ofNat 16 v }
  | 2 => { t with c2 := BitVec.ofNat 16 v }
  | _ => { t with c3 := BitVec.ofNat 16 v }
/-- The bits of a coordinate (R59). -/
def coordBits (j : Nat) : Nat := if j = 0 then 32 else 16
def Time.le (s t : Time) : Bool :=
  decide (s.c0.toNat ≤ t.c0.toNat) && decide (s.c1.toNat ≤ t.c1.toNat) && decide (s.c2.toNat ≤ t.c2.toNat) &&
    decide (s.c3.toNat ≤ t.c3.toNat)
def Time.lt (s t : Time) : Bool := s.le t && decide (s ≠ t)
def bmax {n : Nat} (a b : BitVec n) : BitVec n := if a.toNat < b.toNat then b else a
def bmin {n : Nat} (a b : BitVec n) : BitVec n := if a.toNat < b.toNat then a else b
def Time.join (s t : Time) : Time := ⟨bmax s.c0 t.c0, bmax s.c1 t.c1, bmax s.c2 t.c2, bmax s.c3 t.c3⟩
def Time.meet (s t : Time) : Time := ⟨bmin s.c0 t.c0, bmin s.c1 t.c1, bmin s.c2 t.c2, bmin s.c3 t.c3⟩
/-- The coordinates as one number, whose order is the lexicographic order (R60, Table 3.1). -/
def Time.key (t : Time) : Nat := (t.c0 ++ t.c1 ++ t.c2 ++ t.c3).toNat
def Time.ofKey (k : Nat) : Time :=
  ⟨BitVec.ofNat 32 (k / 2 ^ 48), BitVec.ofNat 16 (k / 2 ^ 32), BitVec.ofNat 16 (k / 2 ^ 16), BitVec.ofNat 16 k⟩
/-- The first coordinate's nonzero index above which all are zero: the depth in use. -/
def Time.depth (t : Time) : Nat := if t.c3 ≠ 0 then 3 else if t.c2 ≠ 0 then 2 else if t.c1 ≠ 0 then 1 else 0
/-- The 12 bytes of a time in memory (R63), as three words. -/
def Time.words (t : Time) : List Word := [t.c0, t.c2 ++ t.c1, BitVec.zeroExtend 32 t.c3]

/-- Inserts in lexicographic order, once. -/
def insTime (t : Time) : List Time → List Time
  | [] => [t]
  | u :: r => if t = u then u :: r else if t.key < u.key then t :: u :: r else u :: insTime t r
/-- The minimal elements in ascending lexicographic order (R64). -/
def minimal (ts : List Time) : List Time :=
  let l := ts.foldl (fun a t => insTime t a) []
  l.filter fun t => !(l.any fun u => u.lt t)
/-- R66: at most 8 elements, the last two replaced by their meet while there are more. -/
def reduce8 : Nat → List Time → List Time
  | 0, l => l
  | k + 1, l =>
    if l.length ≤ 8 then l
    else match l.reverse with
      | a :: b :: r => reduce8 k (minimal (a.meet b :: r))
      | _ => l
def frontierOf (ts : List Time) : List Time := let m := minimal ts; reduce8 m.length m
/-- t is complete under F (R64). -/
def complete (f : List Time) (t : Time) : Bool := !(f.any fun x => x.le t)

end Sys2Proof
end

