-- ==== Sys2Proof/Machine/Ops.lean ====
section
/-! DEFINITION. The named operations over memory, registers, objects, the meridian unit and translation that the meanings
share, the taking of a trap and the return from one, and the fault end of a context. -/
namespace Sys2Proof.Machine

/-! ### Reaching the parts of the machine -/

def State.cluster (s : State) (c : Nat) : Cluster := s.clusters.get {} c
def State.modCluster (s : State) (c : Nat) (f : Cluster → Cluster) : State := { s with clusters := s.clusters.mod {} c f }
def State.stream (s : State) (c k : Nat) : Stream := (s.cluster c).streams.get {} k
def State.modStream (s : State) (c k : Nat) (f : Stream → Stream) : State :=
  s.modCluster c fun x => { x with streams := x.streams.mod {} k f }
def State.region? (s : State) (c k : Nat) : Option Region := (s.cluster c).regions.find? k
def State.modRegion (s : State) (c k : Nat) (f : Region → Region) : State :=
  s.modCluster c fun x => match x.regions.find? k with
    | some r => { x with regions := x.regions.set k (f r) }
    | none => x
def State.ctx? (s : State) (cid : Nat) : Option Ctx := s.ctxs.find? cid
def State.modCtx (s : State) (cid : Nat) (f : Ctx → Ctx) : State :=
  match s.ctxs.find? cid with
  | some x => { s with ctxs := s.ctxs.set cid (f x) }
  | none => s
/-- The context of the region in context slot k of cluster c. -/
def State.ctxAt (s : State) (c k : Nat) : Option Ctx := (s.region? c k).bind fun r => s.ctx? r.cid
def State.cidAt (s : State) (c k : Nat) : Nat := match s.region? c k with
  | some r => r.cid
  | none => 0
def State.rootAt (s : State) (c k : Nat) : DWord := match s.ctxAt c k with
  | some x => x.root
  | none => 0
def dieOf (c : Nat) : Nat := c / 48
def State.die (s : State) (d : Nat) : Die := s.dies.get {} d
def State.modDie (s : State) (d : Nat) (f : Die → Die) : State := { s with dies := s.dies.mod {} d f }
def State.iod (s : State) (i : Nat) : Iod := s.iods.get {} i
def State.modIod (s : State) (i : Nat) (f : Iod → Iod) : State := { s with iods := s.iods.mod {} i f }
def State.port (s : State) (p : Nat) : Port := s.ports.get {} p
def State.modPort (s : State) (p : Nat) (f : Port → Port) : State := { s with ports := s.ports.mod {} p f }

/-- The stream that acts. -/
def State.me (s : State) : Stream := s.stream s.cur.cluster s.cur.ctx
def State.modMe (s : State) (f : Stream → Stream) : State := s.modStream s.cur.cluster s.cur.ctx f
def State.setMe (s : State) (st : Stream) : State := s.modMe fun _ => st

/-! ### Events (R341) -/

/-- An event code selects `ev` for an event of slot `k` (R341). -/
def evMatches (sel : BitVec 16) (ev k : Nat) : Bool :=
  decide ((sel.extractLsb' 0 12).toNat = ev) &&
    (!(sel.getLsbD 15) || decide ((sel.extractLsb' 13 2).toNat = k))

/-- An event code as a select register holds it: bit 12 is reserved (R6, R341). -/
def eventCode (v : BitVec 16) : BitVec 16 := v &&& 0xEFFF

/-- Adds `n` to every cluster counter that selects the event. -/
def Cluster.count (x : Cluster) (ev k n : Nat) : Cluster :=
  { x with evcnt := (List.range 8).foldl (fun m i =>
      if evMatches (x.evsel.get 0 i) ev k then m.set i (m.get 0 i + BitVec.ofNat 48 n) else m) x.evcnt }
def State.count (s : State) (c ev k : Nat) : State := s.modCluster c fun x => x.count ev k 1
/-- Counts the cycles of a wait (log 17). -/
def State.countWait (s : State) (c ev k : Nat) : State := s.modCluster c fun x => x.count ev k (Config.waited s.tick)
/-- An ME operation issues; its scratchpad accesses may have waited for their banks (R108). -/
def State.countMe (s : State) (c k : Nat) : State := (s.count c 0x012 k).countWait c 0x013 k

/-- Adds n to every die counter that selects the event; die events have no slot. -/
def Die.count (x : Die) (ev n : Nat) : Die :=
  { x with devcnt := (List.range 16).foldl (fun m i =>
      if ((x.devsel.get 0 i).extractLsb' 0 12).toNat = ev then m.set i (m.get 0 i + BitVec.ofNat 48 n) else m) x.devcnt }
def State.countDie (s : State) (d ev : Nat) : State := s.modDie d fun x => x.count ev 1

/-! ### Memory: bytes at their homes (R107, R117) -/

/-- The key of a byte: aperture, peer or node, physical address (R117). -/
def memKey (ap peer pa : Nat) : Nat := ((ap * 4096 + peer) <<< 64) + pa
def keyAp (key : Nat) : Nat := (key >>> 64) / 4096
def keyPa (key : Nat) : Nat := key % 2 ^ 64
/-- A physical address of local HBM. -/
def hbm (pa : Nat) : Nat := memKey 0 0 pa

/-- What a byte that nothing has written reads as. DESIGN CHOICE (log 4): zero. -/
def memBlank : Byte := 0

/-- Memory in canonical form: rising keys and no byte listed that reads as an unlisted one. -/
def Memory.wf (m : List Host.Cell) : Bool := Map.wf memBlank m

def readByte (m : List Host.Cell) (k : Nat) : Byte := Map.get memBlank m k
def writeByte (m : List Host.Cell) (k : Nat) (v : Byte) : List Host.Cell := Map.put memBlank m k v

/-- n bytes at k, little-endian (R3). -/
def readLe (m : List Host.Cell) : Nat → Nat → Nat
  | _, 0 => 0
  | k, n + 1 => (readByte m k).toNat + 256 * readLe m (k + 1) n

/-- Writes the low n bytes of v at k, little-endian (R3). -/
def writeLe (m : List Host.Cell) (k : Nat) : Nat → Nat → List Host.Cell
  | 0, _ => m
  | n + 1, v => writeLe (writeByte m k (BitVec.ofNat 8 v)) (k + 1) n (v / 256)

def State.rd (s : State) (k n : Nat) : Nat := readLe s.mem k n
def State.wr (s : State) (k n v : Nat) : State := { s with mem := writeLe s.mem k n v }
/-- A byte that the scheduler alone writes: state, pmres or rlink of a node that it has read or taken (R31, Table 2.1). -/
def State.roByte (s : State) (k : Nat) : Bool :=
  s.nodes.any fun b => decide (k = hbm (b + 4)) || (decide (hbm (b + 0x98) ≤ k) && decide (k < hbm (b + 0xA8)))
/-- What n bytes at k become by the write of v: those that the scheduler alone writes keep their values (R7, R31). -/
def State.kept (s : State) (k n v : Nat) : Nat :=
  if (List.range n).any fun i => s.roByte (k + i)
  then (List.range n).foldl (fun w i => w + (if s.roByte (k + i) then s.rd (k + i) 1 else v / 256 ^ i % 256) * 256 ^ i) 0
  else v
/-- A scheduler has read or taken RCBs: from then on their fields marked RO are its own. The spec does not say when the memory of an RCB is one no more:
it stays so until reset (DESIGN CHOICE, log 118). -/
def State.takeNodes (s : State) (l : List Nat) : State := { s with nodes := s.nodes ++ (l.filter fun a => !(s.nodes.contains a)).eraseDups }
/-- A write by anyone but the scheduler. -/
def State.wrKeep (s : State) (k n v : Nat) : State := s.wr k n (s.kept k n v)
def State.rd64 (s : State) (k : Nat) : DWord := BitVec.ofNat 64 (s.rd k 8)
def State.wr64 (s : State) (k : Nat) (v : DWord) : State := s.wr k 8 v.toNat

/-- The marks of 64-byte lines (R382, R383): 1 a correctable error of one symbol, 4 one of two symbols, 2 uncorrectable, 3 poisoned. -/
def State.mark (s : State) (k : Nat) : Nat := s.marks.get 0 (k / 64)
def State.setMark (s : State) (k v : Nat) : State := { s with marks := Map.put 0 s.marks (k / 64) v }

/-- The bits that check bits cover in a line written under a format tag of a tolerant page; 0 stands for every other page (Table 5.8). -/
def coveredBit (ft bit : Nat) : Bool := match ft with
  | 1 => decide (bit % 8 ≥ 3)
  | 2 => decide (bit % 8 ≥ 2)
  | 3 => decide (bit % 16 ≥ 7)
  | 4 => decide (bit % 16 ≥ 10)
  | 5 => decide (bit % 32 ≥ 23)
  | _ => true
/-- The protection that a leaf gives (R122, R123): the format tag where tol is set and the tag is 1 to 6, else 0. -/
def leafProt (leaf : DWord) : Nat :=
  let ft := leaf.bits 13 11
  if leaf.getLsbD 10 ∧ 1 ≤ ft ∧ ft ≤ 6 then ft else 0
/-- The lines of n bytes of HBM at a key take a protection: it is fixed when a line is written (R123). -/
def State.setProt (s : State) (k n ft : Nat) : State :=
  if keyAp k ≠ 0 ∨ n = 0 then s
  else { s with prot := (List.range ((k + n - 1) / 64 + 1 - k / 64)).foldl (fun m i => Map.put 0 m (k / 64 + i) ft) s.prot }

/-- The die whose stack holds a key of local HBM (R11). -/
def keyDie (key : Nat) : Nat := (keyPa key / 2 ^ 36) / 2

/-- What a read of the line finds (R382): 0 good, 1 an uncorrectable error just found, which marks the line, 2 a poisoned line.
A correctable error in HBM counts event 0x104 and stays. -/
def State.touchLine (s : State) (k : Nat) : State × Nat :=
  match s.mark k with
  | 0 => (s, 0)
  | 1 | 4 => (if keyAp k = 0 then s.countDie (keyDie k) 0x104 else s, 0)
  | 2 => (s.setMark k 3, 1)
  | _ => (s, 2)

/-- Reads every line that n bytes at k meet; the worst finding. -/
def State.touch (s : State) (k n : Nat) : State × Nat :=
  let lines := (k + n - 1) / 64 + 1 - k / 64
  (List.range lines).foldl (fun (a : State × Nat) i =>
    let r := a.1.touchLine ((k / 64 + i) * 64)
    (r.1, Nat.max a.2 r.2)) (s, 0)

/-- HBM access events 0x102 and 0x103 (Table 14.6). -/
def State.countHbm (s : State) (key : Nat) (write : Bool) : State :=
  if keyAp key = 0 then s.countDie (keyDie key) (if write then 0x103 else 0x102) else s

/-! ### Translation (R119 to R124) -/

/-- Canonical: bits [63:48] equal bit 47 (R119). -/
def canonical (va : DWord) : Bool :=
  let t := va.toNat >>> 47
  decide (t = 0) || decide (t = 2 ^ 17 - 1)

/-- Populated ranges of the apertures (Table 5.5). -/
def populated (ap pa : Nat) : Bool :=
  match ap with
  | 0 => decide (pa < 2 ^ 40)
  | 1 => decide (pa < 2 ^ 41)
  | 2 => decide (pa % 2 ^ 42 < Nat.min (Config.cxlBytes (pa / 2 ^ 42 % 2)) (3 * 2 ^ 40)) && decide (pa < 2 ^ 43)
  | 3 => decide (pa < 2 ^ 40)
  | 4 => true
  | _ => false

/-- The bytes of a page size code. -/
def psBytes : Nat → Nat
  | 0 => 2 ^ 16
  | 1 => 2 ^ 21
  | _ => 2 ^ 30

structure LeafAt where
  leaf : DWord
  at_ : Nat
  ps : Nat
  deriving DecidableEq, Repr

/-- The entry address at a level (R119). -/
def entryAt (table lvl : Nat) (va : DWord) : Nat :=
  match lvl with
  | 1 => table + 8 * va.bits 47 39
  | 2 => table + 8 * va.bits 38 30
  | 3 => table + 8 * va.bits 29 21
  | _ => table + 8 * va.bits 20 16

/-- The walk from a table at a level (R119): the leaf, or the XLATE detail. A valid table entry at level 4 is not in R119's list of malformed
entries, but nothing else can be done with one: XLATE 3 (DESIGN CHOICE, log 96). -/
def walkFrom (s : State) (va : DWord) : Nat → Nat → Nat → State × Except Nat LeafAt
  | 0, _, _ => (s, .error 3)
  | fuel + 1, lvl, table =>
    let k := hbm (entryAt table lvl va)
    let (s1, bad) := s.touchLine k
    if bad ≠ 0 then (s1, .error 5)
    else
      let e := s1.rd64 k
      let s1 := s1.countHbm k false
      if !(e.getLsbD 0) then (s1, .error 2)
      else if e.getLsbD 1 then
        let ps := e.bits 15 14
        let ok := match lvl, ps with
          | 2, 2 => decide (e.bits 29 16 = 0)
          | 3, 1 => decide (e.bits 20 16 = 0)
          | 4, 0 => true
          | _, _ => false
        if ok then (s1, .ok ⟨e, k, ps⟩) else (s1, .error 3)
      else
        let nxt := e.bits 51 8 * 256
        let aligned := decide (lvl = 3) || decide (nxt % 4096 = 0)
        if lvl ≥ 4 ∨ !aligned ∨ !(populated 0 nxt) then (s1, .error 3) else walkFrom s1 va fuel (lvl + 1) nxt

/-- The physical home of an address under a leaf (R120). -/
def leafKey (leaf : DWord) (va : DWord) : Nat :=
  let ps := leaf.bits 15 14
  let pa := leaf.bits 51 16 * 2 ^ 16 + va.toNat % psBytes ps
  let ap := leaf.bits 8 6
  memKey ap (if ap = 3 ∨ ap = 4 then leaf.bits 63 52 else 0) pa

/-- Permission of a leaf (R121): the PERM detail, or 0. -/
def leafPerm (leaf : DWord) (acc : Access) : Nat :=
  let r := leaf.getLsbD 2
  let w := leaf.getLsbD 3
  let far := decide (leaf.bits 8 6 = 3) || decide (leaf.bits 8 6 = 4)
  match acc with
  | .load => if r then 0 else 1
  | .fetch => if r then 0 else 1
  | .store => if w then 0 else 2
  | .atomic => if !r then 1 else if !w then 2 else if far && !(leaf.getLsbD 9) then 3 else 0

def accWrites : Access → Bool
  | .store => true
  | .atomic => true
  | _ => false

/-- A cached leaf covers the page of an address (R124). -/
def Tlb.hits (t : Tlb) (root va : DWord) : Bool :=
  decide (t.root = root) && decide (t.va / psBytes t.ps = va.toNat / psBytes t.ps)

/-- The verdict of a leaf on an access: the home, or the code and detail (R117, R121). -/
def leafVerdict (leaf va : DWord) (acc : Access) : Except (Nat × Nat) Nat :=
  let ap := leaf.bits 8 6
  let k := leafKey leaf va
  if !(populated ap (keyPa k)) then .error (3, 4)
  else
    let p := leafPerm leaf acc
    if p = 0 then .ok k else .error (4, p)

/-- Enters a leaf in a translation cache of `cap` entries, the oldest giving way (R124). -/
def tlbAdd (l : List Tlb) (t : Tlb) (cap : Nat) : List Tlb :=
  let l' := l.filter fun x => !(decide (x.root = t.root) && decide (x.va = t.va) && decide (x.ps = t.ps))
  (l' ++ [t]).drop (l'.length + 1 - cap)

/-- Walks the tables for an access and sets a and d (R121); the cache of the requester takes the leaf. -/
def State.walk (s : State) (c : Nat) (ag : Bool) (root va : DWord) (acc : Access) : State × Except (Nat × Nat) Nat :=
  let s0 := (s.count c (if ag then 0x32 else 0x33) s.cur.ctx).modDie (dieOf c) fun x => (x.count 0x100 1).count 0x101 (Config.waited s.tick)
  match walkFrom s0 va 5 1 root.toNat with
  | (s1, .error d) => (s1, .error (3, d))
  | (s1, .ok l) =>
    match leafVerdict l.leaf va acc with
    | .error e => (s1, .error e)
    | .ok k =>
      let leaf := l.leaf ||| 16#64 ||| (if accWrites acc then 32#64 else 0#64)
      let s2 := if leaf = l.leaf then s1 else (s1.wr64 l.at_ leaf).countHbm l.at_ true
      let t : Tlb := { root := root, va := va.toNat / psBytes l.ps * psBytes l.ps, ps := l.ps, leaf := leaf }
      (s2.modCluster c fun x =>
        if ag then { x with agTlb := tlbAdd x.agTlb t 512 } else { x with seqTlb := tlbAdd x.seqTlb t 64 }, .ok k)

/-- The memory at a key reports ready (R25, Table 14.5): its HBM stack, LPDDR-6 group or CXL port. Apertures 3 and 4 wait at their port. -/
def State.homeReady (s : State) (key : Nat) : Bool := match keyAp key with
  | 0 => (s.die (keyDie key)).drdy.getLsbD (49 + keyPa key / 2 ^ 36 % 2)
  | 1 => (s.iod (keyPa key / 2 ^ 40 % 2)).irdy.getLsbD 25
  | 2 => (s.iod (keyPa key / 2 ^ 42 % 2)).irdy.getLsbD 26
  | _ => true

/-- Translation of an access through the caches and tables (R119 to R124): the home key, or the trap code and detail. -/
def State.lookup (s : State) (c : Nat) (ag : Bool) (root va : DWord) (acc : Access) :
    State × Except (Nat × Nat) Nat :=
  if !(canonical va) then (s, .error (3, 1))
  else
    let l := if ag then (s.cluster c).agTlb else (s.cluster c).seqTlb
    match l.find? fun t => t.hits root va with
    | some t =>
      if accWrites acc && t.leaf.getLsbD 3 && !(t.leaf.getLsbD 5) then s.walk c ag root va acc
      else (s, leafVerdict t.leaf va acc)
    | none => s.walk c ag root va acc

/-- Translation of an access: the home key, or the trap code and detail. Code 0 stands for no trap: the access waits, since the tables or the
home it needs are not ready yet (R25). -/
def State.translate (s : State) (c : Nat) (ag : Bool) (root va : DWord) (acc : Access) : State × Except (Nat × Nat) Nat :=
  if !(s.homeReady (hbm root.toNat)) then (s, .error (0, 0))
  else match s.lookup c ag root va acc with
    | (s1, .ok k) => if s1.homeReady k then (s1, .ok k) else (s1, .error (0, 0))
    | (s1, .error e) => (s1, .error e)

/-- The protection that a page gives its lines (R123), by its leaf as it stands. -/
def State.protAt (s : State) (root va : DWord) : Nat := match (walkFrom s va 5 1 root.toNat).2 with
  | .ok l => leafProt l.leaf
  | .error _ => 0

/-! ### Accesses through apertures 3 and 4 (R118, R334, R392) -/

def isFar (key : Nat) : Bool := decide (keyAp key ≥ 3)
def keyPeer (key : Nat) : Nat := (key >>> 64) % 4096
/-- Payload units used, minus 1 (Table 14.2). -/
def nqOf (n : Nat) : BitVec 5 := BitVec.ofNat 5 (n - 1)
/-- A flit of this module waits to be sent. -/
def State.sendLater (s : State) (p : Nat) (type dst : Nat) (index : Nat) (xfer : BitVec 16) (pay : List DWord) (cmd : Option (Nat × Nat × Nat))
    (ord : Bool := false) : State :=
  let h : FlitHdr :=
    { type := BitVec.ofNat 4 type, dst := BitVec.ofNat 12 dst, src := Config.moduleId, index := BitVec.ofNat 8 index, xfer := xfer,
      nq := nqOf pay.length, ord := BitVec.ofBool ord }
  s.modPort p fun x => { x with outq := x.outq ++ [(h, pay, cmd)] }
/-- The doublewords of n bytes, the last one filled with zeros. -/
def dwordsOf (n v : Nat) : List DWord := (List.range ((n + 7) / 8)).map fun i => BitVec.ofNat 64 (v % 2 ^ (8 * n) / 2 ^ (64 * i))
/-- The doublewords of a store of n bytes (R334): those bytes, where they fill doublewords and are not poisoned (log 97). -/
def storeWords (n v : Nat) (poison : Bool) : List DWord :=
  if n % 8 = 0 ∧ !poison then dwordsOf n v else Config.accessWords { fn := 19, n := n, y := v % 2 ^ (8 * n), poison := poison }
/-- A store or AMO travels as a transfer in mode 0: an OPEN and one DATA flit of 29 doublewords at most (R334). -/
def State.farTransfer (s : State) (key : Nat) (pay : List DWord) (ord : Bool := false) : State :=
  let p := Config.portTo (keyPeer key) % 48
  let x := BitVec.ofNat 16 s.cmdId
  (({ s with cmdId := s.cmdId + 1 }).sendLater p 0 (keyPeer key) 0 x [BitVec.ofNat 64 (keyPa key), 0, 0, 0] none).sendLater p 1 (keyPeer key) 0 x pay none ord
/-- What is asked of another node: a load, which travels as a READ; a write, which travels as a transfer and is performed once its DATA flit is
acknowledged; an AMO, whose old value comes back by RDATA. -/
inductive FarReq where
  | read
  | write (ws : List DWord)
  | amo (ws : List DWord)
def FarReq.isWrite : FarReq → Bool
  | .write _ => true
  | _ => false
/-- An access of another node: its answer, none while it has not come. The first asking sends it. -/
def State.farAsk (s : State) (who key n : Nat) (q : FarReq) : State × Option FarAns :=
  match s.farReads.find? fun r => decide (r.who = who) && decide (r.key = key) && decide (r.n = n) && decide (r.write = q.isWrite) with
  | some r => (s, r.answer)
  | none =>
    let p := Config.portTo (keyPeer key) % 48
    let x := BitVec.ofNat 16 s.cmdId
    let s1 := match q with
      | .read => ({ s with cmdId := s.cmdId + 1 }).sendLater p 2 (keyPeer key) 0 x
          [BitVec.ofNat 64 (keyPa key), BitVec.ofNat 64 n, x.zeroExtend 64] none
      | .write ws => s.farTransfer key ws
      | .amo ws => s.farTransfer key ws
    ({ s1 with farReads := s1.farReads ++ [{ who := who, key := key, n := n, write := q.isWrite, port := p, xfer := x }] }, none)
/-- What a waiter has asked for is no longer held. -/
def State.farDone (s : State) (who : Nat) : State := { s with farReads := s.farReads.filter fun r => decide (r.who ≠ who) }
/-- One answer has been taken. -/
def State.farTake (s : State) (who key : Nat) : State :=
  { s with farReads := s.farReads.filter fun r => !(decide (r.who = who) && decide (r.key = key)) }
/-- A load of another node's bytes, which it leaves at their key: done, its code and detail, or code 0 while its answer is awaited (R392). -/
def State.farLoad (s : State) (who key n : Nat) : State × Except (Nat × Nat) Unit := match s.farAsk who key n .read with
  | (s1, none) => (s1, .error (0, 0))
  | (s1, some .good) => (s1.farTake who key, .ok ())
  | (s1, some (.bad code d)) => (s1.farTake who key, .error (code, d))
/-- The numbers by which a stream asks: for a load, and for the effect of its block at an index. -/
def farStream (c k : Nat) : Nat := 4 * c + k
def farEff (c k i : Nat) : Nat := 2 ^ 12 + 128 * farStream c k + i
/-- Nothing that a stream has asked for is held any longer. -/
def State.farDrop (s : State) (c k : Nat) : State :=
  let mine (w : Nat) : Bool := decide (w = farStream c k) ||
    (decide (2 ^ 12 ≤ w) && decide (w < 2 ^ 20) && decide ((w - 2 ^ 12) / 128 = farStream c k))
  { s with farReads := s.farReads.filter fun r => !(mine r.who) }

/-- A write of n bytes at its home by an access through va under a root: memory takes the bytes under the page's protection (R123). A write to aperture
3 or 4 is performed by its home (R118, R334). -/
def State.wrAt (s : State) (root va : DWord) (key n v : Nat) : State :=
  if isFar key then s else (s.wrKeep key n v).setProt key n (s.protAt root va)

/-- An access of n bytes overlaps a range that the context has entered (R143). -/
def Ctx.entered (x : Ctx) (va n : Nat) : Bool := x.ranges.any fun r => r.meets va n
/-- It overlaps one that another operation than the owner has entered. -/
def Ctx.enteredBut (x : Ctx) (owner va n : Nat) : Bool := x.ranges.any fun r => decide (r.owner ≠ owner) && r.meets va n

/-! ### The meridian unit (R68 to R74) -/

/-- A composition on a time, coordinate by coordinate (R28, R71): 0 keep, 1 set to zero, 2 add. A sum past the width of its coordinate, on which
the spec is silent, stays at its greatest value (DESIGN CHOICE, log 94). -/
def Compo.apply (c : Compo) (t : Time) : Time :=
  let f (j v w : Nat) : Nat := match c.act.getD j (0, 0) with
    | (0, _) => v
    | (1, _) => 0
    | (_, a) => Nat.min (v + a) (2 ^ w - 1)
  ⟨BitVec.ofNat 32 (f 0 t.c0.toNat 32), BitVec.ofNat 16 (f 1 t.c1.toNat 16), BitVec.ofNat 16 (f 2 t.c2.toNat 16),
   BitVec.ofNat 16 (f 3 t.c3.toNat 16)⟩

/-- The live pointstamps of a context on the module, counts of different units summed at their locations. -/
def State.stampsOf (s : State) (cid : Nat) : List Stamp :=
  (s.clusters.vals.flatMap fun c => c.stamps).filter fun p => decide (p.cid = cid) && decide (p.count ≠ 0)

/-- The frontier of a context at a location (R71): minimal images of the live pointstamps, reduced. -/
def State.frontier (s : State) (cid loc : Nat) : List Time :=
  let sums := match s.ctx? cid with
    | some x => x.summaries
    | none => []
  frontierOf ((s.stampsOf cid).flatMap fun p =>
    (if p.loc = loc then [p.time] else []) ++
    (sums.filter fun q => decide (q.src = p.loc) && decide (q.dst = loc)).flatMap fun q => q.comps.map fun c => c.apply p.time)

/-- The cluster whose MU holds the entries of a location: that of the region whose location it is (R67), else the context's first. The spec does
not say which MU holds an entry (DESIGN CHOICE, log 95). -/
def State.locCluster (s : State) (cid loc : Nat) : Nat :=
  match List.find? (fun (e : Nat × Cluster) => e.2.regions.any fun r =>
      decide (r.2.cid = cid) && decide (r.2.locBase ≤ loc) && decide (loc < r.2.locBase + Nat.max 1 r.2.nloc)) s.clusters with
  | some e => e.1
  | none => match s.ctx? cid with
    | some x => (x.regions.map Placed.cluster).headD 0
    | none => 0

structure Upd where
  loc : Nat
  time : Time
  n : Int
  deriving DecidableEq, Repr

/-- Adds a count at one entry, whose count has 32 bits (R68); a count of zero frees it (R70). -/
def stampAdd (l : List Stamp) (cid : Nat) (u : Upd) : List Stamp :=
  match l.find? fun p => decide (p.cid = cid) && decide (p.loc = u.loc) && decide (p.time = u.time) with
  | some p =>
    let rest := l.filter fun q => !(decide (q.cid = cid) && decide (q.loc = u.loc) && decide (q.time = u.time))
    let n := (p.count + u.n).bmod (2 ^ 32)
    if n = 0 then rest else rest ++ [{ p with count := n }]
  | none => if u.n.bmod (2 ^ 32) = 0 then l else l ++ [⟨cid, u.loc, u.time, u.n.bmod (2 ^ 32)⟩]

/-- A batch with its increments first, at the MUs of this module (R69). -/
def State.muLocal (s : State) (cid : Nat) (us : List Upd) : State :=
  let go (s : State) (u : Upd) : State :=
    let at_ := s.locCluster cid u.loc
    let free (l : List Stamp) : Bool := decide (l.length < (s.cluster at_).stamps.length)
    let put (c : Cluster) : Cluster :=
      let l := stampAdd c.stamps cid u
      if free l then { c with stamps := l, muWait := 0, muReported := false } else { c with stamps := l }
    let s1 := s.modCluster at_ put
    if free (s1.cluster at_).stamps then s1.modDie (dieOf at_) fun d => { d with aggWait := 0, aggReported := false } else s1
  let s1 := (us.filter fun u => decide (u.n > 0)).foldl go s
  (us.filter fun u => decide (u.n < 0)).foldl go s1

/-- An update of a gateway message: location, time and count in 24 bytes (Table 14.10). -/
def Upd.words (u : Upd) : List DWord :=
  let k := u.time.c0.toNat + u.time.c1.toNat * 2 ^ 32 + u.time.c2.toNat * 2 ^ 48 + u.time.c3.toNat * 2 ^ 64
  let v := u.loc % 2 ^ 16 + k * 2 ^ 32 + patternOf 32 u.n * 2 ^ 128
  [BitVec.ofNat 64 v, BitVec.ofNat 64 (v / 2 ^ 64), BitVec.ofNat 64 (v / 2 ^ 128)]
/-- The plaintext of the GATE flits of a batch, nine updates each (R339, Table 14.10). -/
def gateFlits (ptab : DWord) (seq total : Nat) : Nat → List Upd → List (List DWord)
  | 0, _ => []
  | fuel + 1, us =>
    let now := us.take 9
    let rest := us.drop 9
    let w1 := seq % 2 ^ 32 + total % 2 ^ 16 * 2 ^ 32 + now.length * 2 ^ 48 + (if rest.isEmpty then 2 ^ 56 else 0)
    ([ptab, BitVec.ofNat 64 w1] ++ now.flatMap Upd.words) :: (if rest.isEmpty then [] else gateFlits ptab seq total fuel rest)
/-- A batch as it is forwarded: its increments before its decrements (R69). -/
def upsFirst (us : List Upd) : List Upd := (us.filter fun u => decide (u.n > 0)) ++ us.filter fun u => !(decide (u.n > 0))
/-- A batch goes from the aggregate of the die that acts to that of another module that holds members of the context, in consecutive GATE flits of one
xfer, under the next sequence number of that path (R69, R72, R339). -/
def State.gateTo (s : State) (cid : Nat) (us : List Upd) (m : Nat) : State := match s.ctx? cid with
  | none => s
  | some x =>
    let path := 2048 * dieOf s.cur.cluster + m
    let seq := x.gout.get 0 path
    let tag := BitVec.ofNat 16 s.cmdId
    let fs := gateFlits x.ptab seq us.length (us.length + 1) (upsFirst us)
    let s1 := { s with cmdId := s.cmdId + 1 }.modCtx cid fun x => { x with gout := x.gout.set path ((seq + 1) % 2 ^ 32) }
    (List.range fs.length).foldl (fun s i => s.sendLater (Config.portTo m % 48) 5 m i tag (fs.getD i []) none) s1
/-- A batch of this module's own: it is applied here and sent to the other modules of its context (R69, R72, R339). The aggregates of this module's dies
have it within the step, which R72 allows; a batch is that of one firing, one commit, or one reply of an AG with what it takes, since the spec does not
say what an AG burst is (DESIGN CHOICE, log 117). -/
def State.muApply (s : State) (cid : Nat) (us : List Upd) : State :=
  let peers := match s.ctx? cid with
    | some x => if us.isEmpty then [] else x.peers
    | none => []
  peers.foldl (fun s m => s.gateTo cid us m) (s.muLocal cid us)

/-- New entries that a batch needs at one cluster, negative ones too (R70, R73). -/
def State.muNeed (s : State) (cid c : Nat) (us : List Upd) : Nat :=
  let l := (s.cluster c).stamps
  ((us.filter fun u => decide (u.n ≠ 0) && decide (s.locCluster cid u.loc = c) &&
      !(l.any fun p => decide (p.cid = cid) && decide (p.loc = u.loc) && decide (p.time = u.time))).map
    fun u => (u.loc, u.time)).eraseDups.length

/-- The clusters whose MUs a batch updates. -/
def State.muClusters (s : State) (cid : Nat) (us : List Upd) : List Nat := (us.map fun u => s.locCluster cid u.loc).eraseDups
/-- A cluster's MU has the entries that a batch needs there (R73): element rule, or the source rule with its reserve of 8. -/
def State.muFits (s : State) (cid : Nat) (us : List Upd) (source : Bool) (c : Nat) : Bool :=
  let free := 64 - (s.cluster c).stamps.length
  let n := s.muNeed cid c us
  decide (n = 0) || (if source then decide (free ≥ n + 8) || (decide (free = 64) && decide (n ≤ 64)) else decide (free ≥ n))
/-- Live entries of a die. -/
def State.aggUsed (s : State) (d : Nat) : Nat :=
  (s.clusters.map fun (e : Nat × Cluster) => if dieOf e.1 = d then e.2.stamps.length else 0).foldl (· + ·) 0
/-- A die's aggregate has the entries that a batch needs there, under the R73 rule of its sender (R74). -/
def State.aggFits (s : State) (cid : Nat) (us : List Upd) (source : Bool) (d : Nat) : Bool :=
  let n : Nat := (((s.muClusters cid us).filter fun c => decide (dieOf c = d)).map fun c => s.muNeed cid c us).foldl (· + ·) 0
  let free := 1024 - s.aggUsed d
  decide (n = 0) || (if source then decide (free ≥ n + 8) || (decide (free = 1024) && decide (n ≤ 1024)) else decide (free ≥ n))
/-- The batch can take its entries (R73, R74). -/
def State.muRoom (s : State) (cid : Nat) (us : List Upd) (source : Bool) : Bool :=
  let cs := s.muClusters cid us
  cs.all (s.muFits cid us source) && (cs.map dieOf).eraseDups.all (s.aggFits cid us source)

/-- A waiter is noted where a batch finds no room (R73, R74, R376). -/
def State.muWait (s : State) (cid who : Nat) (us : List Upd) (source : Bool) : State :=
  let cs := s.muClusters cid us
  let note (x : Cluster) : Cluster :=
    { x with muStall := if x.muStall.contains (cid, who) then x.muStall else x.muStall ++ [(cid, who)] }
  let s1 := (cs.filter fun c => !(s.muFits cid us source c)).foldl (fun s c => s.modCluster c note) s
  ((cs.map dieOf).eraseDups.filter fun d => !(s.aggFits cid us source d)).foldl (fun s d =>
    s.modDie d fun x => { x with aggStall := if x.aggStall.contains (cid, who) then x.aggStall else x.aggStall ++ [(cid, who)] }) s1
/-- The waiter goes on. -/
def State.muGo (s : State) (cid who : Nat) (us : List Upd) : State :=
  let cs := s.muClusters cid us
  let drop (x : Cluster) : Cluster := { x with muStall := x.muStall.filter fun e => decide (e ≠ (cid, who)) }
  (cs.map dieOf).eraseDups.foldl (fun s d => s.modDie d fun x => { x with aggStall := x.aggStall.filter fun e => decide (e ≠ (cid, who)) })
    (cs.foldl (fun s c => s.modCluster c drop) s)

/-- A waiter waits no more, whatever it needed. -/
def State.muForget (s : State) (cid who : Nat) : State :=
  let drop (l : List (Nat × Nat)) : List (Nat × Nat) := l.filter fun e => decide (e ≠ (cid, who))
  { s with
    clusters := s.clusters.map fun e => (e.1, { e.2 with muStall := drop e.2.muStall })
    dies := s.dies.map fun e => (e.1, { e.2 with aggStall := drop e.2.aggStall }) }

/-! ### Sequencer registers -/

/-- s0 reads zero (R170). -/
def Regs.rs (r : Regs) (i : BitVec 6) : DWord := if i = 0 then 0 else r.s.get 0 i.toNat
/-- s0 is never tainted (R137). -/
def Regs.taintOf (r : Regs) (i : BitVec 6) : Bool := if i = 0 then false else r.taint.get false i.toNat
/-- Writes s(i) and its taint; a write of s0 is discarded (R170). -/
def Regs.ws (r : Regs) (i : BitVec 6) (v : DWord) (t : Bool) : Regs :=
  if i = 0 then r else { r with s := Map.put 0 r.s i.toNat v, taint := Map.put false r.taint i.toNat t }
def Regs.rp (r : Regs) (p : BitVec 3) : Bool := r.p.getLsbD p.toNat
def Regs.wp (r : Regs) (p : BitVec 3) (v : Bool) : Regs :=
  let m : BitVec 8 := 1#8 <<< p.toNat
  { r with p := if v then r.p ||| m else r.p &&& ~~~m }
def Regs.rt (r : Regs) (t : BitVec 3) : Time := r.tm.get Time.zero t.toNat
def Regs.wt (r : Regs) (t : BitVec 3) (v : Time) : Regs := { r with tm := Map.put Time.zero r.tm t.toNat v }
def Regs.rh (r : Regs) (h : BitVec 3) : Hz := r.hz.get {} h.toNat
def Regs.wh (r : Regs) (h : BitVec 3) (v : Hz) : Regs := { r with hz := r.hz.set h.toNat v }

/-- The rounding mode and flush of FPCR (R104, R105). -/
def Regs.rm (r : Regs) : RMode := RMode.ofCode (r.fpcr.toNat % 4)
def Regs.ftz (r : Regs) : Bool := r.fpcr.getLsbD 2
/-- Sets sticky flags (Table 4.6). -/
def Regs.flags (r : Regs) (f : FFlags) : Regs :=
  let b (x : Bool) (n : Nat) : DWord := if x then 1#64 <<< n else 0
  { r with fpcr := r.fpcr ||| b f.nv 7 ||| b f.dz 6 ||| b f.of 5 ||| b f.uf 4 ||| b f.nx 3 }

/-- A write of an s register in the block view: an earlier AMO of the block no longer delivers into it (R133). -/
def Stream.wr (st : Stream) (d : BitVec 6) (v : DWord) (t : Bool) : Stream :=
  { st with view := st.view.ws d v t, effs := st.effs.map fun e => match e with
    | (i, .amo fn va key n d' y cv rm ftz t') => (i, .amo fn va key n (if d' = d then 0 else d') y cv rm ftz t')
    | e => e }
def Stream.addEff (st : Stream) (e : Eff) : Stream := { st with effs := st.effs ++ [(st.idx, e)] }

/-! ### Completion objects (R225) -/

/-- The bytes of a completion object after a signal (Table 10.10). -/
def State.signalled (s : State) (key inc status : Nat) : State :=
  let w := s.rd64 key
  let cnt := (w.bits 47 0 + inc) % 2 ^ 48
  let st := Nat.max (w.bits 55 48) status
  s.wrKeep key 8 (w.bits 63 56 * 2 ^ 56 + st * 2 ^ 48 + cnt)
/-- The doublewords in which a signal travels to another node (R334, log 97). -/
def signalWords (inc status : Nat) : List DWord := Config.accessWords { fn := 16, n := 8, y := inc, cv := status }
/-- A signal: one indivisible update of the object at its home, which lies on the page of va (R123). To a home on another node it is sent. -/
def State.signal (s : State) (root va : DWord) (key inc status : Nat) : State :=
  if key = 0 then s
  else if isFar key then s.farTransfer key (signalWords inc status)
  else ((s.signalled key inc status).setProt key 8 (s.protAt root va)).countHbm key true

/-- The completion file gives up one use of an object (R377). -/
def cfDrop (l : List (Nat × Nat)) (key : Nat) : List (Nat × Nat) :=
  l.filterMap fun e => if e.1 = key then (if e.2 ≤ 1 then none else some (e.1, e.2 - 1)) else some e

/-- The completion-file entry of an object of a context: commands that name one object share it (R377). -/
def cfKey (cid : Nat) (obj : DWord) : Nat := cid * 2 ^ 64 + obj.toNat

/-- Signals the object at a virtual address under a root, by cluster c (R225); an object that does not translate takes no signal, and one whose home
is not ready takes it when it is (R25). -/
def State.signalUnder (s : State) (c : Nat) (root obj : DWord) (inc status : Nat) : State :=
  match s.translate c true root obj .store with
  | (s1, .ok key) => s1.signal root obj key inc status
  | (s1, .error (code, _)) => if code = 0 then { s1 with signals := s1.signals ++ [⟨c, root, obj, inc, status, false⟩] } else s1
/-- The same for the context in slot k of cluster c. -/
def State.signalVa (s : State) (c k : Nat) (obj : DWord) (inc status : Nat) : State :=
  if obj = 0 then s else s.signalUnder c (s.rootAt c k) obj inc status
/-- A signal of an object at a physical address of local HBM (R315); one that is 0 or not aligned takes none. -/
def State.signalPa (s : State) (pa : Nat) (inc status : Nat) : State :=
  if pa = 0 ∨ pa % 16 ≠ 0 ∨ pa + 16 > 2 ^ 40 then s
  else if !(s.homeReady (hbm pa)) then { s with signals := s.signals ++ [⟨0, 0, BitVec.ofNat 64 pa, inc, status, true⟩] }
  else (s.signalled (hbm pa) inc status).countHbm (hbm pa) true
/-- The signals that wait for their homes are sent, in order (R25). -/
def State.sendSignals (s : State) : State :=
  s.signals.foldl (fun s x => if x.phys then s.signalPa x.obj.toNat x.inc x.status else s.signalUnder x.cluster x.root x.obj x.inc x.status)
    { s with signals := [] }

/-- Signals a command's object on completion and frees its completion-file entry. -/
def State.signalCmd (s : State) (c k : Nat) (cmd : Cmd) (inc status : Nat) : State :=
  if cmd.obj = 0 then s
  else (s.signalVa c k cmd.obj inc status).modCluster c fun x => { x with cf := cfDrop x.cf (cfKey (s.cidAt c k) cmd.obj) }

/-- Status codes (Table 10.10). -/
def stOk : Nat := 0
def stError : Nat := 1
def stAborted : Nat := 2
def stPoisoned : Nat := 3
def stFaulted : Nat := 5

/-! ### Fault end (R363 to R367) -/

/-- The place of a region of a context. -/
def Ctx.places (x : Ctx) : List (Nat × Nat) := x.regions.map fun r => (r.cluster, r.slot)

/-- A stream stops: a block in progress is abandoned (R51), every command not complete signals FAULTED (R364), collectives
ABORTED with what they have written (R366). -/
def State.stopStream (s : State) (p : Nat × Nat) : State :=
  let st := s.stream p.1 p.2
  let sig (s : State) (c : Cmd) : State :=
    if c.q = 2 ∧ c.id ≠ 0 ∧ !c.done then s.signalCmd p.1 p.2 c c.inc stAborted else s.signalCmd p.1 p.2 c 0 stFaulted
  let s0 := if st.phase = .inBlock ∨ st.phase = .committing then s.count p.1 3 p.2 else s
  let s1 := (st.issued ++ st.queues.vals.flatten).foldl sig s0
  (s1.farDrop p.1 p.2).modStream p.1 p.2 fun st => { st with
    view := st.arch, effs := [], waiting := false, waited := decide (st.phase = .inBlock) && st.waiting,
    queues := [], issued := [], dropped := st.queues.vals.flatten, asyncs := [],
    phase := match st.phase with
      | .idle => .idle
      | .exited => .exited
      | _ => .ready }

/-- The trap registers of a killed stream are recorded as 0 (R365). -/
def Stream.killed (st : Stream) : Stream := { st with arch := { st.arch with trapblk := 0, trapidx := 0, trapaddr := 0 } }
/-- The completion-file entries that a context holds on the clusters of its regions (R377). -/
def State.heldObjs (s : State) (cid : Nat) (x : Ctx) : List (Nat × Nat) :=
  (x.places.map Prod.fst).eraseDups.flatMap fun c => (((s.cluster c).cf.map Prod.fst).filter fun o => decide (o / 2 ^ 64 = cid)).map fun o => (c, o)
/-- The kind of a collective on memory and its descriptor (Table 12.10). -/
def clOf : Instr → Option (Nat × ClDesc)
  | .allreduce d => some (0, d)
  | .reduceScatter d => some (1, d)
  | .allgather d => some (2, d)
  | .alltoall d => some (3, d)
  | .irregularAlltoall d => some (4, d)
  | _ => none
/-- The ids of the collectives on memory that a member has in flight (R310). -/
def State.clIds (s : State) (p : Nat × Nat) : List Nat := (s.stream p.1 p.2).issued.filterMap fun y =>
  if y.q = 2 ∧ !y.done then ((decodeCl y.desc).bind clOf).map fun e => e.2.id.toNat else none
/-- The ABORT picots that the gateway of an ending context sends: for each of its collectives, conversions and collective nodes one to every member on
another module (R366, R154, R159, Table 20.6). -/
def State.abortPicots (s : State) (x : Ctx) (cid : Nat) : List Departed :=
  (x.nodes.vals.map CollNode.id ++ x.colls.map CollOp.id ++ (x.places.flatMap s.clIds).eraseDups).flatMap fun id => x.others.map fun m =>
    ⟨cid, m.2, m.1, 0, { kind := 3, lanes := [BitVec.ofNat 32 (id % 2 ^ 24 * 256 + 1)], aux := BitVec.ofNat 16 cid }⟩
/-- Stops one context: what R364 does before the post-mortem engine writes the image. The done objects of its conversions take status
ABORTED with the bytes written (R366). -/
def State.stopCtx (s : State) (cid : Nat) (code detail : Nat) (blk addr : DWord) (idx : Nat) (killed : Bool) : State :=
  match s.ctx? cid with
  | none => s
  | some x =>
    if x.ending.isSome then s
    else
      let stop (s : State) (p : Nat × Nat) : State :=
        let t := s.stopStream p
        if killed then t.modStream p.1 p.2 Stream.killed else t
      let s1 := x.places.foldl stop s
      let abort (s : State) (op : CollOp) : State := (List.range op.places.length).foldl (fun s m => match op.places[m]? with
        | some p => s.signalVa p.1 p.2 op.done (op.bytes.get 0 m) stAborted
        | none => s) s
      let s2 := x.colls.foldl abort s1
      { s2 with sent := s2.sent ++ s.abortPicots x cid }.modCtx cid fun x => { x with
        ending := some (code, detail, blk, addr, idx, killed), running := false, ranges := [], colls := [],
        objs := s.heldObjs cid x }

/-- Fault end of a context (R364), and the kill of the other contexts of its fault domain (R365); an evicted one is a candidate again and stays. -/
def State.faultEnd (s : State) (cid : Nat) (code detail : Nat) (blk addr : DWord) (idx : Nat) : State :=
  match s.ctx? cid with
  | none => s
  | some x =>
    let s1 := s.stopCtx cid code detail blk addr idx false
    let kin := (s.ctxs.filter fun e => decide (e.1 ≠ cid) && decide (e.2.part = x.part) && decide (e.2.fdom = x.fdom) &&
      !(e.2.evicting && e.2.regions.isEmpty)).map Prod.fst
    if code = 0x11 then s1 else kin.foldl (fun s k => s.stopCtx k 0x11 0 0 0 0 true) s1

/-! ### Traps (R232, R233) -/

/-- A trace ring entry (R342): 256 at most, the oldest overwritten. -/
def ringAdd (l : List (DWord × DWord)) (e : DWord × DWord) : List (DWord × DWord) := (l ++ [e]).drop (l.length + 1 - 256)

def ringWord0 (cyc : Nat) (a : DWord) : DWord := BitVec.ofNat 64 (cyc % 2 ^ 16 * 2 ^ 48 + a.toNat % 2 ^ 48)

/-- The branch ring is written (R342). -/
def Regs.branchOn (r : Regs) : Bool := r.trcctl.getLsbD 0 && !(r.trcctl.getLsbD 2)
def Regs.memoryOn (r : Regs) : Bool := r.trcctl.getLsbD 1 && !(r.trcctl.getLsbD 2)

/-- The context is suspended: its streams stop at block boundaries (R230), and its slots, which go on firing, do not age (R330; DEDUCED, log 73). -/
def State.halted (s : State) (c k : Nat) : Bool := match s.ctxAt c k with
  | some x => x.susp
  | none => false

/-- The local cycles of a unit after some steps (R12, log 2): no two units share a clock. -/
def clockAt (u : Nat) : Nat → Nat
  | 0 => 0
  | n + 1 => clockAt u n + Config.elapsed n u
/-- Cycles of the cluster since its reset (R12). -/
def State.cyclesOf (s : State) (c : Nat) : Nat := clockAt c s.tick - (s.cluster c).resetAt
/-- The cycles of a die, and those of a link port. -/
def State.dieCycles (s : State) (d : Nat) : Nat := clockAt (384 + d) s.tick
def State.portCycles (s : State) (p : Nat) : Nat := clockAt (400 + p) s.tick

/-- take_trap of R232: the buffer is discarded, cause, trapblk, trapidx and trapaddr are written, th is set and the stream
goes to trapvec. A trap with th set or trapvec 0 is fatal (R356): the registers show it, and the context ends. -/
def State.takeTrap (s : State) (c k code detail : Nat) (addr : DWord) (idx : Nat) : State :=
  let st := s.stream c k
  let a := { st.arch with
    cause := BitVec.ofNat 16 (detail % 256 * 256 + code % 256), trapblk := st.pc, trapidx := BitVec.ofNat 7 idx,
    trapaddr := addr, th := true }
  if st.arch.th ∨ st.arch.trapvec = 0 then
    ((s.modStream c k fun _ => { st with arch := a, view := a, effs := [], phase := .ready, waiting := false }).count c 4 k).faultEnd
      (s.cidAt c k) code detail st.pc addr idx
  else
    let st1 := { st with
      arch := a, view := a, effs := [], pc := st.arch.trapvec, phase := .ready, waiting := false,
      brRing := if a.branchOn then ringAdd st.brRing (ringWord0 (s.cyclesOf c) st.pc,
        BitVec.ofNat 64 (2 * 2 ^ 62 + a.trapvec.toNat % 2 ^ 48)) else st.brRing,
      brPos := if a.branchOn then (st.brPos + 1) % 256 else st.brPos }
    ((s.modStream c k fun _ => st1).farDrop c k).count c 4 k

/-- The return from a trap handler, when its block has committed (R233). -/
def Regs.leaveTrap (r : Regs) : Regs := { r with th := false }

/-! ### Block headers (R48) -/

/-- The stream's fetch of one word: the word, the trap, or code 0 where it waits. -/
def State.fetchWord (s : State) (c k : Nat) (va : DWord) : State × Except (Nat × Nat) Word :=
  match s.translate c false (s.rootAt c k) va .fetch with
  | (s1, .error e) => (s1, .error e)
  | (s1, .ok key) =>
    if isFar key then match s1.farLoad (farStream c k) key 4 with
      | (s2, .error e) => (s2, .error e)
      | (s2, .ok _) => (s2, .ok (BitVec.ofNat 32 (s2.rd key 4)))
    else match s1.touch key 4 with
    | (s2, 0) => (s2.countHbm key false, .ok (BitVec.ofNat 32 (s2.rd key 4)))
    | (s2, 1) => (s2, .error (9, 1))
    | (s2, _) => (s2, .error (8, 1))

def isHeader (w : Word) : Bool := decide (w.extractLsb' 26 6 = 0x3F)
def headerClean (w : Word) : Bool := decide (w.extractLsb' 16 3 = 0) && decide (w.extractLsb' 0 14 = 0)
def headerLen (w : Word) : Nat := (w.extractLsb' 19 7).toNat + 1

/-- The check of a transfer or fall-through target (R354): none, or the trap code, detail and address. -/
def State.checkTarget (s : State) (c k : Nat) (va : DWord) (fall : Bool) : State × Option (Nat × Nat × DWord) :=
  match s.fetchWord c k va with
  | (s1, .error (code, d)) => (s1, some (code, d, va))
  | (s1, .ok w) =>
    if !(isHeader w) then (s1, some (0x0C, if fall then 3 else 1, va))
    else if !(headerClean w) then (s1, some (0x0C, 2, va))
    else (s1, none)

/-- The same check of an address that a register gives: BLOCKFMT goes before MISALIGN 2, and that before what its fetch meets (R215, R355, R356). -/
def State.checkJump (s : State) (c k : Nat) (va : DWord) : State × Option (Nat × Nat × DWord) :=
  if va.toNat % 4 = 0 then s.checkTarget c k va false
  else match s.checkTarget c k va false with
    | (s1, some (0, d, a)) => (s1, some (0, d, a))
    | (s1, some (0x0C, d, a)) => (s1, some (0x0C, d, a))
    | (s1, _) => (s1, some (2, 2, va))

/-- The fall-through address of the current block (R49). -/
def Stream.fallThrough (st : Stream) : DWord := st.pc + 4#64 + BitVec.ofNat 64 (4 * st.len)

/-- A precise trap of the stream that acts, at the instruction it executes (R353). At the last word of a block a fall-through word that is no good header
is reported first, but for ILLEGAL and TRAP (R354, R355). -/
def State.trapHere (s : State) (code detail : Nat) (addr : DWord) : State :=
  let c := s.cur.cluster
  let k := s.cur.ctx
  let st := s.me
  if st.idx + 1 < st.len ∨ code = 1 ∨ code = 0x0B ∨ code = 0x0C then s.takeTrap c k code detail addr st.idx
  else match s.checkTarget c k st.fallThrough true with
    | (s1, some (0, _, _)) => s1
    | (s1, some (0x0C, d, a)) => s1.takeTrap c k 0x0C d a st.idx
    | (s1, _) => s1.takeTrap c k code detail addr st.idx
/-- A trap of a transfer, which no fall-through word follows. -/
def State.trapJump (s : State) (code detail : Nat) (addr : DWord) : State := s.takeTrap s.cur.cluster s.cur.ctx code detail addr s.me.idx

/-- The instruction is done: the next word, or the end of the block with its fall-through check (R49, R354). Where the header of the next block
cannot be read yet (R25, R334), the stream stands where it stood. -/
def State.retire (s : State) (st : Stream) : State :=
  let c := s.cur.cluster
  let k := s.cur.ctx
  if st.idx + 1 < st.len then s.setMe { st with idx := st.idx + 1, waiting := false }
  else
    match s.checkTarget c k st.fallThrough true with
    | (s1, some (0, _, _)) => s1
    | (s1, some (code, d, a)) => s1.takeTrap c k code d a st.idx
    | (s1, none) => s1.setMe { st with idx := st.idx + 1, waiting := false, next := st.fallThrough, phase := .committing }

/-- A taken transfer to `target` (R49, R354). -/
def State.transfer (s : State) (st : Stream) (target : DWord) : State :=
  let c := s.cur.cluster
  let k := s.cur.ctx
  match s.checkTarget c k target false with
  | (s1, some (0, _, _)) => s1
  | (s1, some (code, d, a)) => s1.takeTrap c k code d a st.idx
  | (s1, none) => s1.setMe { st with waiting := false, next := target, taken := true, phase := .committing }

/-- The stream may execute an instruction of its block. -/
def State.running (s : State) (c k : Nat) : Bool :=
  match s.ctxAt c k with
  | some x => x.running && x.ending.isNone
  | none => false

/-- The context in a slot has come to its fault end: its elements and boxes stop, and its sources inject nothing (R364). -/
def State.ended (s : State) (c k : Nat) : Bool := match s.ctxAt c k with
  | some x => x.ending.isSome
  | none => false

/-- The firing priority of the context in a slot (R327). -/
def State.firingPrio (s : State) (c k : Nat) : Nat := match s.ctxAt c k with
  | some x => x.prio
  | none => 0

/-- A sequencer instruction that only changes the block view (R49): what it does to the stream, then the next word. -/
def State.seqPure (s : State) (f : Stream → Stream) : State := s.retire (f s.me)

end Sys2Proof.Machine
end

