-- ==== Sys2Proof/Machine/Operands.lean ====
section
/-! DEFINITION. The operand forms of the sequencer formats (R170 to R175) and the outcomes its meanings share. -/
namespace Sys2Proof.Machine

abbrev Out := Host.Outcome State Fault Refusal

/-- A sign-extended immediate (R171). -/
def sx {n : Nat} (i : BitVec n) : DWord := i.signExtend 64

/-- Sign- or zero-extension of the low n bits of a value to 64 bits. -/
def extend (signed : Bool) (n : Nat) (v : Nat) : DWord :=
  if signed then BitVec.ofInt 64 (signedOf n v) else BitVec.ofNat 64 (v % 2 ^ n)

/-- s(a) + sext(off)·2^sz (R171). -/
def memAddr {n : Nat} (r : Regs) (a : BitVec 6) (off : BitVec n) (sz : Nat) : DWord := r.rs a + (sx off <<< sz)

/-- A branch target: the address of the word plus 4·sext(off) (R172). -/
def branchTarget {n : Nat} (st : Stream) (off : BitVec n) : DWord :=
  st.pc + 4#64 + BitVec.ofNat 64 (4 * st.idx) + (sx off <<< 2)

/-- The system register number sub[3:0]:a[5:0] (R174). -/
def sysNum (r : BitVec 6) (s : BitVec 4) : Nat := (s ++ r).toNat

/-- The two-operand register form: the result's taint is the OR of the operands' (R137, R199). -/
def seqRRR (s : State) (d a b : BitVec 6) (f : DWord → DWord → DWord) : Out :=
  .next (s.seqPure fun st => st.wr d (f (st.view.rs a) (st.view.rs b)) (st.view.taintOf a || st.view.taintOf b))

/-- The one-operand register form. -/
def seqRR (s : State) (d a : BitVec 6) (f : DWord → DWord) : Out :=
  .next (s.seqPure fun st => st.wr d (f (st.view.rs a)) (st.view.taintOf a))

/-- A predicate result. -/
def seqPred (s : State) (p : BitVec 3) (f : Regs → Bool) : Out :=
  .next (s.seqPure fun st => { st with view := st.view.wp p (f st.view) })

/-- A time-register result. -/
def seqTime (s : State) (d : BitVec 3) (f : Regs → Time) : Out :=
  .next (s.seqPure fun st => { st with view := st.view.wt d (f st.view) })

/-- The access checks of R355 for n bytes at an address: MISALIGN, XLATE, PERM, then RANGE. The home key, or the trap. -/
def State.access (s : State) (va : DWord) (n : Nat) (acc : Access) : State × Except (Nat × Nat) Nat :=
  if va.toNat % n ≠ 0 then (s, .error (2, 1))
  else
    match s.translate s.cur.cluster false (s.rootAt s.cur.cluster s.cur.ctx) va acc with
    | (s1, .error e) => (s1, .error e)
    | (s1, .ok k) =>
      match s1.ctxAt s1.cur.cluster s1.cur.ctx with
      | some x => if x.entered va.toNat n then (s1, .error (5, 1)) else (s1, .ok k)
      | none => (s1, .ok k)

/-- A barrier is armed at its home (R226). -/
def State.arm (s : State) (key : Nat) (expected : DWord) (strict : Bool) : State :=
  let g := s.rd (key + 16) 8
  let gen := (g / 2 ^ 32 + 1) % 2 ^ 32
  ((s.wrKeep key 8 expected.toNat).wrKeep (key + 8) 8 0).wrKeep (key + 16) 8
    (gen * 2 ^ 32 + g % 2 ^ 32 / 4 * 4 + (if strict then 2 else 0))
/-- The doublewords in which an arming travels to another node (R334, log 97). -/
def armWords (expected : DWord) (strict : Bool) : List DWord :=
  Config.accessWords { fn := 17, n := 24, y := expected.toNat, cv := if strict then 1 else 0 }

/-- Memory as a block sees it: the stores, signals and arms that its earlier instructions have buffered overlay memory (R49). -/
def viewMem (effs : List (Nat × Eff)) (s : State) : State :=
  effs.foldl (fun s e => match e.2 with
    | .store _ key n v _ => s.wrKeep key n v.toNat
    | .signal _ key inc status => if key = 0 then s else s.signalled key inc status
    | .bara _ key expected strict => s.arm key expected strict
    | _ => s) s

/-- n bytes at k through the block view. -/
def State.viewRd (s : State) (k n : Nat) : Nat := (viewMem s.me.effs s).rd k n

/-- A load of the stream through the block view: the value, the trap (R205, R383), or code 0 where it waits: for a home that is not ready, or for
the RDATA of a load through aperture 3 or 4 (R25, R334, R392). -/
def State.loadView (s : State) (va : DWord) (n : Nat) (acc : Access) : State × Except (Nat × Nat) Nat :=
  match s.access va n acc with
  | (s1, .error e) => (s1, .error e)
  | (s1, .ok k) =>
    let who := farStream s1.cur.cluster s1.cur.ctx
    if isFar k then match s1.farLoad who k n with
      | (s2, .error e) => (s2, .error e)
      | (s2, .ok _) => (s2, .ok (s2.viewRd k n))
    else match s1.touch k n with
    | (s2, 0) => (s2.countHbm k false, .ok (s2.viewRd k n))
    | (s2, 1) => (s2, .error (9, 1))
    | (s2, _) => (s2, .error (8, 1))

/-- The address and home of an object or barrier that an instruction names (R223, Table 18.1 MISALIGN 3): aligned, not 0,
translated for the given access. -/
def State.objectAt (s : State) (va : DWord) (al : Nat) (acc : Access) : State × Except (Nat × Nat) Nat :=
  if va = 0 ∨ va.toNat % al ≠ 0 then (s, .error (2, 3))
  else
    match s.translate s.cur.cluster false (s.rootAt s.cur.cluster s.cur.ctx) va acc with
    | (s1, .error e) => (s1, .error e)
    | (s1, .ok k) =>
      match s1.ctxAt s1.cur.cluster s1.cur.ctx with
      | some x => if x.entered va.toNat al then (s1, .error (5, 1)) else (s1, .ok k)
      | none => (s1, .ok k)

/-- A read of n bytes of a table in memory at a virtual address of the context in slot k of cluster c, by a waiter's number: the value, its code and
detail, or code 0 where it waits (R25, R334, R388). -/
def State.tableRd (s : State) (c k who : Nat) (va : DWord) (n : Nat) : State × Except (Nat × Nat) Nat :=
  match s.translate c true (s.rootAt c k) va .load with
  | (s1, .error e) => (s1, .error e)
  | (s1, .ok key) =>
    if isFar key then match s1.farLoad who key n with
      | (s2, .error e) => (s2, .error e)
      | (s2, .ok _) => (s2, .ok (s2.rd key n))
    else ((s1.touch key n).1.countHbm key false, .ok ((s1.touch key n).1.rd key n))

/-- An instruction that waits (R48, R51): the stream stays at it. -/
def State.waitHere (s : State) : State := s.modMe fun st => { st with waiting := true }
/-- What an access that is not made leads to: its trap, or with code 0 a wait (R25, R355). -/
def State.stopAt (s : State) (code detail : Nat) (addr : DWord) : State := if code = 0 then s.waitHere else s.trapHere code detail addr

end Sys2Proof.Machine
end

