-- ==== Sys2Proof/Machine/Tokens.lean ====
section
/-! DEFINITION. Token headers (Table 2.2), the lanes of change, header and error tokens, and the edge ports of the fabric. -/
namespace Sys2Proof.Machine

def kDense : BitVec 3 := 0
def kChg : BitVec 3 := 1
def kHdr : BitVec 3 := 2
def kMark : BitVec 3 := 3
def kEos : BitVec 3 := 4
def kErr : BitVec 3 := 5
def kCmd : BitVec 3 := 6

/-- The width of a token in lanes. -/
def Token.width (t : Token) : Nat := t.lanes.length

/-- A token of a header doubleword and its lanes (Table 2.2). -/
def Token.ofHeader (h : DWord) (lanes : List Word) : Token :=
  { kind := h.extractLsb' 61 3, chan := h.extractLsb' 51 5, ctx := h.extractLsb' 49 2, colour := h.extractLsb' 43 6,
    tag := h.extractLsb' 31 12, slot := h.extractLsb' 27 4, port := h.extractLsb' 25 2, poison := h.getLsbD 24,
    last := h.getLsbD 23, aux := h.extractLsb' 0 16, lanes := lanes }

/-- The header doubleword of a token (Table 2.2). -/
def Token.header (t : Token) : DWord :=
  let b (x : Bool) : BitVec 1 := BitVec.ofBool x
  t.kind ++ BitVec.ofNat 5 (t.width - 1) ++ t.chan ++ t.ctx ++ t.colour ++ t.tag ++ t.slot ++ t.port ++ b t.poison ++ b t.last ++
    0#7 ++ t.aux

def Token.lane (t : Token) (i : Nat) : Word := t.lanes.getD i 0

/-- A picot (R33): kind, argument and snapshot id. -/
def picot (kind arg aux k : Nat) (vc : BitVec 5) : Token :=
  { kind := kMark, chan := vc, ctx := BitVec.ofNat 2 k, aux := BitVec.ofNat 16 aux, lanes := [BitVec.ofNat 32 (arg % 2 ^ 24 * 256 + kind)] }
def Token.isPicot (t : Token) (kind : Nat) : Bool := decide (t.kind = kMark) && decide ((t.lane 0).toNat % 256 = kind)

/-- The time of a change token (Table 2.3). -/
def Token.time (t : Token) : Time :=
  ⟨t.lane 1, (t.lane 2).extractLsb' 16 16, (t.lane 2).extractLsb' 0 16, (t.lane 3).extractLsb' 16 16⟩
/-- Lanes 1 to 3 of a change token at a time (Table 2.3). -/
def timeLanes (t : Time) : List Word := [t.c0, t.c1 ++ t.c2, t.c3 ++ 0#16]
/-- The multiplicity of a change token. -/
def Token.diff (t : Token) : Int := (t.lane 0).toInt
/-- The lanes above diff and time, and of them the record, which is kl + vl lanes (Table 2.3). -/
def Token.record (t : Token) : List Word := t.lanes.drop 4
def Token.recordOf (t : Token) (d : ColourDecl) : List Word := t.record.take (d.kl + d.vl)
/-- A change token's lanes. -/
def chgLanes (diff : Int) (t : Time) (rec : List Word) : List Word := BitVec.ofInt 32 diff :: timeLanes t ++ rec

/-- Pads or cuts a list of lanes to w. -/
def fitLanes (w : Nat) (l : List Word) : List Word := l.take w ++ List.replicate (w - l.length) 0

/-- An error token (R370, Table 19.2). -/
def errToken (code count site slot : Nat) (colour : BitVec 6) (tag : BitVec 12) (last : Bool) : Token :=
  { kind := kErr, colour := colour, tag := tag, poison := true, last := last, aux := BitVec.ofNat 16 code,
    lanes := [BitVec.ofNat 32 (Nat.min count 65535 * 2 ^ 16 + site % 64 * 2 ^ 10 + slot % 16 * 2 ^ 6)] }

/-! ### Sites and edge ports (R14 to R17) -/

/-- The types of memory elements (Table 2.8). -/
def typAg : Nat := 2
def typBank : Nat := 3
/-- A CE stands where x + y is even, an ME where it is odd (R15). -/
def isCeSite (site : Nat) : Bool := (site % 8 + site / 8) % 2 == 0
/-- The ME index of a site and the site of an ME index (R108). -/
def meIndex (site : Nat) : Nat := 4 * (site / 8) + (site % 8) / 2
def meSite (m : Nat) : Nat :=
  let y := m / 4
  8 * y + 2 * (m % 4) + (if y % 2 = 0 then 1 else 0)

/-- An edge port of a fabric (Table 1.3). -/
inductive Edge where
  | ti (n : Nat) | to (n : Nat) | d (n : Nat) | mx (n : Nat) | dni (n : Nat) | mem (n : Nat)
  deriving DecidableEq, Repr

/-- What lies across an edge of a site in a direction (0 N, 1 E, 2 S, 3 W). -/
def edgeOf (site dir : Nat) : Option Edge :=
  let x := site % 8
  let y := site / 8
  match dir with
  | 0 => if y ≠ 0 then none else if x < 4 then some (.ti x) else some (.to (x - 4))
  | 1 => if x ≠ 7 then none else some (.dni y)
  | 2 => if y ≠ 7 ∨ x % 2 ≠ 0 then none else some (.mem (x / 2))
  | _ => if x ≠ 0 then none else if y < 4 then some (.d y) else if y < 6 then some (.mx (y - 4)) else none

/-- The neighbour of a site in a direction, inside the fabric. -/
def neighbour (site dir : Nat) : Option Nat :=
  let x := site % 8
  let y := site / 8
  match dir with
  | 0 => if y = 0 then none else some (site - 8)
  | 1 => if x = 7 then none else some (site + 1)
  | 2 => if y = 7 then none else some (site + 8)
  | _ => if x = 0 then none else some (site - 1)

/-- The opposite direction. -/
def opposite (dir : Nat) : Nat := (dir + 2) % 4

/-- The site and input at which an edge port enters the fabric. -/
def Edge.entry : Edge → Nat × Nat
  | .ti n => (n, 0)
  | .to n => (n + 4, 0)
  | .d n => (8 * n, 3)
  | .mx n => (8 * (n + 4), 3)
  | .dni n => (8 * n + 7, 1)
  | .mem n => (56 + 2 * n, 2)

def Cluster.site (c : Cluster) (i : Nat) : Site := c.sites.get {} i
def State.site (s : State) (c i : Nat) : Site := (s.cluster c).site i
def State.modSite (s : State) (c i : Nat) (f : Site → Site) : State :=
  s.modCluster c fun x => { x with sites := x.sites.mod {} i f }
def State.elem? (s : State) (c site k : Nat) : Option Elem := (s.site c site).elems.find? k
def State.modElem (s : State) (c site k : Nat) (f : Elem → Elem) : State :=
  s.modSite c site fun x => match x.elems.find? k with
    | some e => { x with elems := x.elems.set k (f e) }
    | none => x

/-- SNAP has reached a TO or MX port of a context slot: its unit has recorded its state (R328). -/
def Cluster.snapped (x : Cluster) (key : Nat) : Bool := x.snaps.any fun e => decide (e / 32 = key)

/-- The words of a box that take a token at an input on a channel of a context (R39): on the network it arrived on where it comes
from a neighbour, else on whichever network has words for it (R423). -/
def Site.takers (x : Site) (net : Option Nat) (inp ctx vc : Nat) : List SwWord :=
  x.words.filter fun w => decide (w.inp.toNat = inp) && decide (w.ctx.toNat = ctx) && decide (w.vc.toNat = vc) &&
    (match net with
     | some n => decide (w.net.toNat = n)
     | none => true)

/-- A token of more than one lane whose only words lie off the vector network (R38, R423). -/
def badWidth (ws : List SwWord) (t : Token) : Bool := decide (t.width > 1) && ws.all fun w => decide (w.net ≠ 1)

/-- The channels that reach an element: port and virtual channel of each word that leads to it, and Q (R40). -/
def Site.inputs (x : Site) (k : Nat) : List (Nat × BitVec 5) :=
  ((x.words.filter fun w => decide (w.ctx.toNat = k) && decide (w.out.toNat ≥ 4)).map fun w => (w.out.toNat - 4, w.vc)).eraseDups
/-- The channels an element's outputs feed. -/
def Site.outputs (x : Site) (k : Nat) : List (Nat × BitVec 5) :=
  ((x.words.filter fun w => decide (w.ctx.toNat = k) && (decide (w.inp.toNat = 4) || decide (w.inp.toNat = 5))).map fun w =>
    (w.inp.toNat - 4, w.vc)).eraseDups
/-- A word of the running configuration that takes what w takes: the same input, channel and context, and where a neighbour feeds the input, the same
network (R423). -/
def SwWord.twin (w : SwWord) (site : Nat) (v : SwWord) : Bool :=
  !v.fresh && decide (v.inp = w.inp) && decide (v.ctx = w.ctx) && decide (v.vc = w.vc) &&
    (decide (v.net = w.net) || decide (w.inp.toNat ≥ 4) || (neighbour site w.inp.toNat).isNone)
/-- Once every old word of an input and channel has forwarded the SWITCH picot, the staged words of that input and channel take their place, with
the tokens that wait behind it, whatever their positions are (R191, R229). Tokens that no staged word takes wait where they are. -/
def Site.renew (x : Site) (site : Nat) (w : SwWord) : Site :=
  let old := x.words.filter (w.twin site)
  let rest := match old with
    | v :: _ => v.buf
    | [] => []
  let new := (x.next.filter (w.twin site)).map fun v => { v with buf := rest, fresh := true }
  if !(old.all SwWord.switched) || (new.isEmpty && !rest.isEmpty) then x
  else { x with words := x.words.filter (fun v => !(w.twin site v)) ++ new }

/-- Enters a token into the buffers of all the words that take it, all at once (R41, R43); none when a buffer has no room, no
word takes it, or a word that takes it waits for its new value (R229). SNAP needs no room (R328; DEDUCED, log 12). -/
def Site.accept (x : Site) (net : Option Nat) (inp : Nat) (t : Token) : Option Site :=
  let ws := x.takers net inp t.ctx.toNat t.chan.toNat
  let put (w : SwWord) : SwWord :=
    if ws.any (fun v => decide (v.pos = w.pos) && decide (v.ctx = w.ctx)) then { w with buf := w.buf ++ [t] } else w
  if ws.isEmpty || (!(t.isPicot 0) && ws.any fun w => decide (w.buf.length ≥ 4) || w.switched) then none else some { x with words := x.words.map put }

end Sys2Proof.Machine
end

