-- ==== Sys2Proof/Machine/Slots.lean ====
section
/-! DEFINITION. What an instruction slot reads and writes (R44, R236, R246, R285), and the locations of the fabric (R67, R68). -/
namespace Sys2Proof.Machine

/-- The source ports of a CE operation in order (0 A, 1 B, 2 C), and whether it is open (R180), by opcode and function (Tables
11.1 to 11.11). -/
def cePorts (op fn : Nat) : List Nat × Bool :=
  match op with
  | 1 => (if fn = 6 ∨ fn = 7 then [0] else if fn = 8 then [0, 1, 2] else [0, 1], true)
  | 2 => (if fn = 4 ∨ fn = 9 ∨ fn = 10 then [0] else [0, 1], true)
  | 3 => (if fn = 6 ∨ fn = 7 then [0] else if fn = 3 ∨ fn = 8 then [0, 1, 2] else [0, 1], true)
  | 4 => ([0], true)
  | 5 => ([0, 1], true)
  | 6 => ([0, 1, 2], true)
  | 10 => (if fn = 5 then [0, 1] else [0], decide (fn = 0) || decide (fn = 4) || decide (fn = 5))
  | 16 => (if fn = 0 then [0, 2] else [0], false)
  | 17 => ([0, 1], false)
  | 19 => ([0, 1], false)
  | 21 => (if fn = 1 then [0, 1] else [0], decide (fn = 1))
  | 26 => ([0, 1], false)
  | 32 => (if fn = 0 ∨ fn = 3 then [0] else [0, 1], decide (fn ≠ 2) && decide (fn ≠ 3))
  | 33 => (if fn = 3 ∨ fn = 4 then [0, 1] else [0], false)
  | 34 => ([0, 1], false)
  | 36 => ([0, 1], false)
  | 37 => ([0, 1], false)
  | 38 => ([0, 1], false)
  | 50 => (if fn = 0 then [0] else [0, 1], false)
  | 62 => ([], false)
  | _ => ([0], false)

/-- The ports a CE slot reads (R236, R246): an open operation with a constant does not read its last source. A sole source is then not
read either, and the slot never fires; but mov has a firing for each token at A, which emits the constant (R257; DEDUCED, log 8). -/
def ceReads (op fn : Nat) (w : CeW) : List Nat :=
  let (ps, o) := cePorts op fn
  let third := decide (w.pr = 1) && decide (ps.length = 3)
  let mov := decide (op = 10) && decide (fn = 0)
  let r := if (o && decide (w.k ≠ 0) && !mov) || third then ps.dropLast else ps
  if w.pr = 1 ∧ !(r.contains 2) then r ++ [2] else r

/-- The outputs a CE slot writes (R181, R244, R247). -/
def ceOuts (op fn : Nat) (w : CeW) : List Nat :=
  if op = 16 ∨ op = 18 ∨ op = 34 ∨ (op = 35 ∧ fn = 1) ∨ (op = 50 ∧ fn = 1) then [0, 1]
  else if (op = 20 ∧ fn = 0) ∨ (op = 22 ∧ fn = 1) ∨ (op = 27 ∧ fn ≤ 1) ∨ op = 62 then []
  else match w.dm.toNat with
    | 1 => [1]
    | 2 => []
    | _ => [0]

/-- The ports an ME slot reads and whether it writes o0 (Tables 12.2 to 12.4, R292 to R299). -/
def mePorts : Instr → List Nat × Bool
  | .agsWr _ => ([0], false)
  | .agsWrcf _ => ([0], false)
  | .agsFill _ => ([0], false)
  | .agxScat _ => ([0, 1], false)
  | .agxAtomAdd _ => ([0, 1], true)
  | .agxAtomMin _ => ([0, 1], true)
  | .agxAtomMax _ => ([0, 1], true)
  | .agxAtomCas _ => ([0, 1, 2], true)
  | .agxAtomSwp _ => ([0, 1], true)
  | .wavSt _ _ _ _ _ => ([0, 1], false)
  | .wavMnop _ _ _ _ _ => ([0], false)
  | .bar _ => ([0], false)
  | .pst _ => ([0], false)
  | _ => ([0], true)

/-- The stream descriptor that an ME operation names (R286). -/
def descOf : Instr → Option Nat
  | .agsRd w | .agsWr w | .agsRdcf w | .agsWrcf w | .agsFill w | .agsScrub w => some w.desc.toNat
  | .agxGath w | .agxScat w | .agxChase w | .agxAtomAdd w | .agxAtomMin w | .agxAtomMax w | .agxAtomCas w | .agxAtomSwp w =>
    some w.desc.toNat
  | .ttbFill w | .pld w | .pst w => some w.desc.toNat
  | .wavLd _ _ _ _ d | .wavSt _ _ _ _ d | .wavMnop _ _ _ _ d => some d.toNat
  | _ => none

/-- How a configured slot fires (Table 2.6). -/
structure SlotInfo where
  i : Instr
  w : CeW := {}
  op : Nat := 0
  fn : Nat := 0
  reads : List Nat
  latch : Option Nat := none
  pair : List Nat
  headp : List Nat := []
  outs : List Nat
  loc : Option Nat := none
  fire : Nat := 0
  deriving DecidableEq, Repr

/-- A CE slot whose word is configured; a zero word is no operation. In mode latch an operation that reads port A alone has no token to fire it: B is
not read, and A only replaces the latched value (R44, R236; DEDUCED, log 124). -/
def ceSlot (i : Instr) (f : CeForm) (w : CeW) : SlotInfo :=
  let fn := w.fn.toNat
  let r := ceReads f.op fn w
  let fire := w.fire.toNat
  let latch := if fire = 1 ∧ r.contains 1 then some 1 else if fire = 2 ∧ r.contains 0 then some 0 else none
  let heads := decide (f.op = 17) || decide (f.op = 50) || (decide (f.op = 20) && decide (fn = 1))
  let base : SlotInfo :=
    { i := i, w := w, op := f.op, fn := fn, reads := r, pair := r, outs := ceOuts f.op fn w,
      loc := if w.dm.toNat ≥ 2 then some w.dslot.toNat else none, fire := fire }
  if heads then { base with pair := [], headp := r }
  else if fire = 1 ∨ fire = 2 then
    let live := r.filter fun p => decide (some p ≠ latch)
    if r.contains 2 then { base with latch := latch, pair := live }
    else { base with latch := latch, pair := [], headp := live }
  else base

/-- The slot's information from its word (R29, R44). -/
def Elem.slotInfo (e : Elem) (site slot : Nat) : Option SlotInfo :=
  match e.unit with
  | none => none
  | some u =>
    let w := u.words.get 0 slot
    if w = 0 then none
    else if isCeSite site then
      match decodeCe w with
      | some (i, cw) => i.ce?.map fun f => ceSlot i f cw
      | none => none
    else (decodeMe w).map fun i =>
      let (ps, o) := mePorts i
      { i := i, reads := ps, pair := if ps.length > 1 then ps else [], headp := if ps.length > 1 then [] else ps,
        outs := if o then [0] else [] }

def SlotInfo.isSink (x : SlotInfo) : Bool := decide (x.op = 20) && decide (x.fn = 1)
def SlotInfo.isMerge (x : SlotInfo) : Bool := decide (x.op = 17)
def SlotInfo.isCred (x : SlotInfo) : Bool := decide (x.op = 37)

/-- HDR tokens pass through families 0x0A and 0x10 to 0x14 and through kexch, from the ports whose data tokens go on: A, and for merge A
and B (R247). -/
def SlotInfo.forwards (x : SlotInfo) (p : Nat) : Bool :=
  (decide (x.op = 10) || (decide (16 ≤ x.op) && decide (x.op ≤ 20) && !x.isSink) || (decide (x.op = 35) && decide (x.fn = 1))) &&
    (decide (p = 0) || (x.isMerge && decide (p = 1)))

/-- The slot has a window of the matching store for port p (R36): in modes all and sequence, and in the others for the ports that pair
with C. Control tokens pair in arrival order without a tag (R281). -/
def SlotInfo.windowed (x : SlotInfo) (p : Nat) : Bool :=
  x.pair.contains p || ((x.isMerge || x.isSink) && (decide (x.fire = 0) || decide (x.fire = 3)))

/-! ### Locations -/

/-- What a port that is no location holds in the location map (R28). -/
def noLoc : Nat := 0xFFFF

/-- The element of a site has taken the configuration that a switch brings (R229). -/
def State.hasSwitched (s : State) (c k site : Nat) : Bool := match s.elem? c site k with
  | some e => e.switched
  | none => false
/-- The context location of a slot's port, if it is one (R67): by the location map of the staged configuration where the element is to read the
token under it. -/
def State.portLocIn (s : State) (new : Bool) (c k site slot port : Nat) : List Nat :=
  match s.region? c k with
  | none => []
  | some r =>
    let m := match r.staged with
      | some st => if new then st.portLocs else r.portLocs
      | none => r.portLocs
    let l := m.get noLoc (48 * site + 3 * slot + port)
    if l = noLoc then [] else [r.locBase + l]
def State.portLoc (s : State) (c k site slot port : Nat) : List Nat := s.portLocIn (s.hasSwitched c k site) c k site slot port
/-- What enters a region by an edge now is read under the staged configuration: the SWITCH picots have entered (R228). -/
def State.entering (s : State) (c k : Nat) : Bool := match s.region? c k with
  | some r => r.switching.isSome
  | none => false

/-- The context location of TIn (n) or TOn (4 + n). -/
def State.edgeLoc (s : State) (c k n : Nat) : List Nat :=
  match s.region? c k with
  | none => []
  | some r =>
    let l := r.locs.get noLoc n
    if l = noLoc then [] else [r.locBase + l]

/-- The binding of an edge between regions at a die network interface port (R17). -/
def State.binding (s : State) (c k p vc : Nat) : Option EdgeBind := match s.ctxAt c k with
  | none => none
  | some x => x.edges.find? fun e => decide (e.c = c) && decide (e.k = k) && decide (e.p = p) && decide (e.vc = vc)

/-- The outputs of a node that a token of an input goes to: every member's; of an all-to-all that of its stream; of an irregular one that of the
destination j that it names (R158, R160). -/
def CollNode.towards (nd : CollNode) (m j : Nat) : List Nat := match nd.kind with
  | 3 => [m % nd.n * nd.n + m / nd.n]
  | 4 => if j < nd.n then [j] else []
  | _ => List.range nd.n

/-- Interface n has a route into the fabric for a channel of a context slot (R192). -/
def State.sliceIn (s : State) (c k vc n : Nat) : Bool := !((s.site c (56 + 2 * n)).takers none 2 k vc).isEmpty

/-- The locations that a token on a route leads to (R68): following the words from an input of a box, those of the staged configuration where
`new`, by a memory slice interface out and in again (R17), and through collective nodes, where j is what its lane 4 names. -/
def State.destLocs (s : State) (j : Nat) : Nat → Bool → Option Nat → Nat → Nat → Nat → Nat → Nat → Nat → List Nat
  | 0, _, _, _, _, _, _, _, _ => []
  | fuel + 1, new, net, c, k, site, inp, vc, slot =>
    let x := s.site c site
    ((if new then { x with words := x.next } else x).takers net inp k vc).flatMap fun w =>
      if w.out.toNat = 7 then []
      else if w.out.toNat ≥ 4 then s.portLocIn new c k site slot (w.out.toNat - 4)
      else match neighbour site w.out.toNat with
        | some n => s.destLocs j fuel new (some w.net.toNat) c k n (opposite w.out.toNat) vc slot
        | none => match edgeOf site w.out.toNat with
          | some (.to n) => s.edgeLoc c k (4 + n)
          | some (.mem n) => s.destLocs j fuel new none c k (56 + 2 * n) 2 vc slot
          | some (.dni p) => match s.binding c k p vc with
            | none => []
            | some b => match b.node with
              | none =>
                if b.away.isSome then b.locs
                else
                let en := (Edge.dni b.toP).entry
                s.destLocs j fuel (s.entering b.toC b.toK) none b.toC b.toK en.1 en.2 b.toVc slot
              | some n => match (s.ctxAt c k).bind fun x => x.nodes.find? n with
                | none => []
                | some nd => (nd.towards b.member j).flatMap fun o => match nd.dest.find? o with
                  | none => []
                  | some (tc, tk, tp, tvc) =>
                    let en := (Edge.dni tp).entry
                    s.destLocs j fuel (s.entering tc tk) none tc tk en.1 en.2 tvc slot
          | _ => []
/-- The locations that a token which enters by an edge of a region leads to. -/
def State.edgeDest (s : State) (c k site inp vc : Nat) (t : Token) : List Nat :=
  s.destLocs (t.lane 4).toNat 256 (s.entering c k) none c k site inp vc t.slot.toNat

/-- Steps that a route can take inside one module. -/
def routeFuel : Nat := 256

end Sys2Proof.Machine
end

