-- ==== Sys2Proof/Machine/Fabric.lean ====
section
/-! DEFINITION. How tokens reach an element and a firing leaves it: admission (R34 to R37), readiness (R44), emission (R241 to R245),
the boxes (R38 to R43), and what a firing counts at the meridian unit (R68, R69, R270). -/
namespace Sys2Proof.Machine

/-! ### Colours and tags (R35, R243) -/

/-- The allocation of a colour, if it is allocated. -/
def State.alloc? (s : State) (c k col : Nat) : Option ColourAlloc :=
  (s.ctxAt c k).bind fun x => x.allocs.find? col
/-- The range a colour's tags lie in: its allocation, or where it is freed the last one (R373). -/
def State.rangeOf (s : State) (c k col : Nat) : ColourAlloc :=
  match s.alloc? c k col with
  | some a => a
  | none => match (s.ctxAt c k).bind fun x => x.freed.find? col with
    | some a => a
    | none => ⟨0, 4096, 0⟩
def State.declOf (s : State) (c k col : Nat) : ColourDecl := match s.ctxAt c k with
  | some x => x.colours.get {} col
  | none => {}
/-- The tag offset t − base (R36). -/
def State.relTag (s : State) (c k : Nat) (t : Token) : Nat := (t.tag.toNat + 4096 - (s.rangeOf c k t.colour.toNat).base) % 4096

/-! ### Element buffers -/

def Elem.port (e : Elem) (p : Nat) : List Token := match p with
  | 0 => e.inA
  | 1 => e.inB
  | 2 => e.inC
  | _ => e.inQ
def Elem.setPort (e : Elem) (p : Nat) (l : List Token) : Elem := match p with
  | 0 => { e with inA := l }
  | 1 => { e with inB := l }
  | 2 => { e with inC := l }
  | _ => { e with inQ := l }
def Elem.slot (e : Elem) (i : Nat) : SlotSt := e.slots.get {} i
def Elem.setSlot (e : Elem) (i : Nat) (x : SlotSt) : Elem := { e with slots := e.slots.set i x }
def State.setSlot (s : State) (c site k i : Nat) (x : SlotSt) : State := s.modElem c site k fun e => e.setSlot i x

/-- A channel that only the configuration to come has: while the element has not switched, its tokens wait (R229). -/
def Elem.foreign (e : Elem) (p : Nat) (ch : BitVec 5) : Bool := e.holds && !(e.swIns.contains (p, ch))
/-- The first token of each channel of a port (R37, R42). -/
def headsOf : List Token → List (BitVec 5) → List Token
  | [], _ => []
  | t :: r, seen => if seen.contains t.chan then headsOf r seen else t :: headsOf r (t.chan :: seen)
/-- Removes the head of a channel. -/
def dropHead : List Token → BitVec 5 → List Token
  | [], _ => []
  | t :: r, ch => if t.chan = ch then r else t :: dropHead r ch

/-- The tokens in an output register. -/
def Elem.outs (e : Elem) (o : Nat) : List Token := if o = 0 then e.out0 else if o = 1 then e.out1 else []
def Elem.setOuts (e : Elem) (o : Nat) (l : List Token) : Elem := if o = 0 then { e with out0 := l } else if o = 1 then { e with out1 := l } else e
/-- The output register holds the token where a result of the channel waits for place: on a CE the channels of an output share one register of 2
tokens (R244); on an ME, for which the spec states no register, each channel has 2 places of its own (DEDUCED, log 9). -/
def Elem.shares (e : Elem) (ch : BitVec 5) (t : Token) : Bool := decide (e.typ < 2) || decide (t.chan = ch)
/-- An output register has place for a result that leaves the pipeline. -/
def Elem.hasPlace (e : Elem) (o : Nat) (ch : BitVec 5) : Bool := decide (((e.outs o).filter (e.shares ch)).length < 2)
/-- The tokens of an output that may leave next: on a CE the first, in issue order (R284); on an ME the first of each channel (R42). -/
def Elem.leaving (e : Elem) (o : Nat) : List Token := if e.typ < 2 then (e.outs o).take 1 else headsOf (e.outs o) []
/-- The channel of a slot's results on an output. -/
def outChan (o slot : Nat) : BitVec 5 := BitVec.ofNat 5 (16 * o % 32 + slot)
/-- A slot's output has room for one more result, those still in the pipeline counted (R244, DEDUCED, log 9). -/
def Elem.room (e : Elem) (slot o : Nat) : Bool :=
  let mine := e.shares (outChan o slot)
  decide (((e.outs o).filter mine).length + (e.pipe.filter fun x => decide (x.out = o) && mine x.tok).length < 2)

/-- A result enters the pipeline for an output (R241, R244); 2 is a local delivery alone. -/
def Elem.send (e : Elem) (k slot o : Nat) (loc : Option Nat) (t : Token) : Elem :=
  let t1 := { t with chan := outChan o slot, ctx := BitVec.ofNat 2 k, slot := BitVec.ofNat 4 slot, port := 0 }
  { e with pipe := e.pipe ++ [⟨o, t1, loc.map (BitVec.ofNat 4)⟩] }

/-- What an emitted change counts at its destinations (R68). -/
def State.emitUps (s : State) (c site k slot o : Nat) (loc : Option Nat) (t : Token) : List Upd :=
  if t.kind ≠ kChg then []
  else
    let net := if o < 2 then s.destLocs (t.lane 4).toNat routeFuel (s.hasSwitched c k site) none c k site (4 + o) (16 * o + slot) slot else []
    let here := match loc with
      | some d => s.portLoc c k site d 1
      | none => []
    (net ++ here).map fun l => ⟨l, t.time, 1⟩
/-- What a consumed change counts at its port (R68). -/
def State.takeUps (s : State) (c site k slot p : Nat) (t : Token) : List Upd :=
  if t.kind ≠ kChg then [] else (s.portLoc c k site slot p).map fun l => ⟨l, t.time, -1⟩

/-- An ERR token in the form of R359 and R370 on o0 of a slot. -/
def State.answer (s : State) (c site k slot code count : Nat) (t : Token) : State :=
  s.modElem c site k fun e => e.send k slot 0 none (errToken code count site slot t.colour t.tag t.last)

/-! ### Admission (R34 to R37, R247, R371) -/

/-- Earlier tokens of a port and channel still wait in matching entries, so an answer would pass them. -/
def SlotSt.behind (x : SlotSt) (p : Nat) (t : Token) : Bool :=
  x.entries.vals.any fun e =>
    match (match p with
      | 0 => e.a
      | 1 => e.b
      | _ => e.c) with
    | some u => decide (u.chan = t.chan)
    | none => false

/-- A run that a token of a channel of port A started goes on, so an answer or end would pass its results. -/
def Elem.runsFor (e : Elem) (slot : Nat) (p : Nat) (ch : BitVec 5) : Bool := decide (p = 0) && e.runs.any fun r => decide (r.slot = slot) && match r.a with
  | some u => decide (u.chan = ch)
  | none => false

def Entry.at_ (e : Entry) (p : Nat) : Option Token := match p with
  | 0 => e.a
  | 1 => e.b
  | _ => e.c
def Entry.put (e : Entry) (p : Nat) (t : Option Token) : Entry := match p with
  | 0 => { e with a := t }
  | 1 => { e with b := t }
  | _ => { e with c := t }
def Entry.toks (e : Entry) : List (Nat × Token) :=
  [0, 1, 2].filterMap fun p => (e.at_ p).map fun t => (p, t)

/-- Ports that have delivered EOS for a colour. -/
def SlotSt.ended (x : SlotSt) (col : Nat) : List Nat := (x.eos.filter fun e => decide (e.1 = col)).map Prod.snd

/-- The head of a channel of a port is a picot. -/
def Elem.picotAt (e : Elem) (kind : Nat) (q : Nat × BitVec 5) : Bool :=
  (headsOf (e.port q.1) []).any fun t => decide (t.chan = q.2) && t.isPicot kind
/-- A port is held by the SWITCH picots that all its channels have delivered (R229): it ends the old configuration as EOS ends a colour (R372). -/
def Elem.heldPort (e : Elem) (p : Nat) : Bool :=
  let ins := e.swIns.filter fun q => decide (q.1 = p)
  e.holds && !e.switched && !ins.isEmpty && ins.all (e.picotAt 2)
def Elem.heldPorts (e : Elem) : List Nat := [0, 1, 2].filter e.heldPort

/-- A token that can never fire, its partner's port having ended or being held by a switch (R371, R372). -/
def deadToken (info : SlotInfo) (x : SlotSt) (held : List Nat) (p rel col : Nat) : Bool :=
  let ended := x.ended col ++ held
  !(ended.contains p) && !info.isMerge &&
    ((match info.latch with
      | some l => ended.contains l && x.latch.isNone && decide (p ≠ l)
      | none => false) ||
     (info.pair.contains p && ended.any fun q => info.pair.contains q && ((x.entries.get {} rel).at_ q).isNone))

/-- The window of a slot (R36). -/
def Elem.window (e : Elem) (slot : Nat) : Nat := e.win.get 256 slot

/-- The tag offset of a token is not below its slot's window (R36). -/
def State.outside (s : State) (c site k p slot : Nat) (e : Elem) (info : SlotInfo) (t : Token) : Bool :=
  isCeSite site && info.windowed p && (decide (t.kind = kDense) || decide (t.kind = kChg)) && decide (s.relTag c k t ≥ e.window slot)

/-- A data token at the head of its channel is admitted: latched, stored in its matching entry, answered or withdrawn; none where
it stays at the head (R37). -/
def State.admitData (s : State) (c site k p slot : Nat) (e : Elem) (info : SlotInfo) (t : Token) : Option State :=
  let x := e.slot slot
  let rel := s.relTag c k t
  let cid := s.cidAt c k
  if deadToken info x e.heldPorts p rel t.colour.toNat then
    some ((s.setSlot c site k slot { x with unmatched := x.unmatched.mod 0 t.colour.toNat (· + 1) }).muApply cid
      (s.takeUps c site k slot p t))
  else if info.latch = some p then
    let old := match x.latch with
      | some u => s.takeUps c site k slot p u
      | none => []
    some ((s.setSlot c site k slot { x with latch := some t }).muApply cid old)
  else if s.outside c site k p slot e info t then
    if !(e.room slot 0) || x.behind p t then none
    else some ((s.answer c site k slot 0x12 1 t).muApply cid (s.takeUps c site k slot p t))
  else if info.isCred ∧ isCeSite site then
    if ((if p = 0 then x.group else x.groupB).any fun u => u.last && decide (s.relTag c k u = rel)) then none
    else some (s.setSlot c site k slot (if p = 0 then { x with group := x.group ++ [t] } else { x with groupB := x.groupB ++ [t] }))
  else if info.pair.contains p then
    let en := x.entries.get {} rel
    if (en.at_ p).isSome then none
    else some (s.setSlot c site k slot { x with entries := x.entries.set rel (en.put p (some t)) })
  else none

/-- The head of a channel at port p is taken in by the element; none where it stays. -/
def State.takeToken (s : State) (c site k p : Nat) (t0 : Token) : Option State :=
  match s.elem? c site k with
  | none => none
  | some e =>
    if e.unit.isNone || e.snapped then none
    else
      let slot := t0.slot.toNat
      let x := e.slot slot
      let behind := x.behind p t0 || e.runsFor slot p t0.chan
      let gone (s : State) : State := s.modElem c site k fun e => e.setPort p (dropHead (e.port p) t0.chan)
      if t0.kind = kCmd then
        if behind || !(e.room slot 0) then none else some (gone (s.answer c site k slot 0x11 1 t0))
      else match e.slotInfo site slot with
        | none => none
        | some info =>
          if !(info.reads.contains p) || e.foreign p t0.chan then none
          else if t0.kind = kHdr then
            let outs := if isCeSite site && info.forwards p then info.outs else []
            if outs.any (fun o => !(e.room slot o)) || (!outs.isEmpty && behind) then none
            else some (gone (s.modElem c site k fun e =>
              outs.foldl (fun e o => e.send k slot o none t0) { e with hdr := e.hdr.set (32 * p + t0.chan.toNat) t0 }))
          else if t0.kind = kErr ∧ !info.isSink then
            if behind || !(e.room slot 0) then none
            else some (gone (s.modElem c site k fun e => e.send k slot 0 none t0))
          else if t0.kind = kDense ∨ t0.kind = kChg then
            let sc := match e.hdr.find? (32 * p + t0.chan.toNat) with
              | some h => (h.lane 0).extractLsb' 24 8
              | none => 127
            (s.admitData c site k p slot e info { t0 with scale := sc }).map gone
          else none

/-- EOS tokens at the heads of channels are noted at their slots; they are held there (R247). -/
def Elem.noteEos (e : Elem) (site : Nat) : Elem :=
  [0, 1, 2].foldl (fun e p => (headsOf (e.port p) []).foldl (fun e t =>
    let x := e.slot t.slot.toNat
    let reads := match e.slotInfo site t.slot.toNat with
      | some i => i.reads
      | none => []
    if t.kind = kEos ∧ reads.contains p ∧ !(e.foreign p t.chan) ∧ !(x.eos.contains (t.colour.toNat, p)) then
      e.setSlot t.slot.toNat { x with eos := x.eos ++ [(t.colour.toNat, p)] }
    else e) e) e

/-- One admission at an element, if any head can be admitted. -/
def State.admitOne (s : State) (c site k : Nat) : Option State :=
  match s.elem? c site k with
  | none => none
  | some e => ([0, 1, 2].flatMap fun p => (headsOf (e.port p) []).map fun t => (p, t)).findSome? fun q => s.takeToken c site k q.1 q.2

/-- Admits heads until none can be admitted. -/
def State.settleElem (s : State) (c site k : Nat) : Nat → State
  | 0 => s
  | fuel + 1 =>
    let s1 := s.modElem c site k fun e => if e.unit.isSome && !e.snapped then e.noteEos site else e
    match s1.admitOne c site k with
    | some s2 => s2.settleElem c site k fuel
    | none => s1

/-- A token enters the fabric at an edge port (R17): none where a buffer of its route has no room or no route takes it. A token that
its words cannot carry is replaced by ERR WIDTH (R423). -/
def State.enterEdge (s : State) (c : Nat) (ed : Edge) (t : Token) : Option State :=
  let (site, inp) := ed.entry
  let x := s.site c site
  let ws := x.takers none inp t.ctx.toNat t.chan.toNat
  let t1 := if badWidth ws t then
      { errToken 0x02 1 site t.slot.toNat t.colour t.tag t.last with chan := t.chan, ctx := t.ctx, slot := t.slot } else t
  (x.accept none inp t1).map fun y => s.modSite c site fun _ => y

/-! ### The memory slice interfaces (R17, R192) -/

/-- The memory slice interface by which the replies of an AG slot enter the fabric where no route leads from its o0: the first that has one for the
slot's channel (R17, R192; DEDUCED, log 13). -/
def State.memEdge (s : State) (c site k slot : Nat) : Option Nat := match s.elem? c site k with
  | none => none
  | some e =>
    if e.typ ≠ typAg ∨ !((s.site c site).takers none 4 k slot).isEmpty then none
    else [0, 1, 2, 3].find? fun n => s.sliceIn c k slot n

/-! ### The boxes -/

/-- A token that may leave an output register enters the words of its box, or by a memory slice interface the fabric (R17, R41, R423). The +1 of a
change that ERR WIDTH replaces here or at an edge stays counted: the spec does not say what becomes of it (DESIGN CHOICE, log 90). -/
def State.pushOut (s : State) (c site k o : Nat) : Option State :=
  match s.elem? c site k with
  | none => none
  | some e =>
    (e.leaving o).findSome? fun t =>
      let x := s.site c site
      let ws := x.takers none (4 + o) k t.chan.toNat
      let t1 := if badWidth ws t then
          { errToken 0x02 1 site t.slot.toNat t.colour t.tag t.last with chan := t.chan, ctx := t.ctx, slot := t.slot } else t
      let moved := match (if o = 0 then s.memEdge c site k t.chan.toNat else none) with
        | some n => s.enterEdge c (.mem n) t
        | none => (x.accept none (4 + o) t1).map fun y => s.modSite c site fun _ => y
      moved.map fun s => s.modElem c site k fun e => e.setOuts o (dropHead (e.outs o) t.chan)

/-- Output registers drain into the box as far as its buffers have room. -/
def State.settleOuts (s : State) (c site k : Nat) : Nat → State
  | 0 => s
  | fuel + 1 => match s.pushOut c site k 0 with
    | some s1 => s1.settleOuts c site k fuel
    | none => match s.pushOut c site k 1 with
      | some s1 => s1.settleOuts c site k fuel
      | none => s

/-- What a site does by itself once a token has moved: outputs drain and port heads are admitted, for every context slot whose context has not ended (R364). -/
def State.settle (s : State) (c site : Nat) : State :=
  [0, 1, 2, 3].foldl (fun s k => if s.ended c k then s else (s.settleElem c site k 64).settleOuts c site k 64) s

/-- A token arrives at an input of a collective node: none while the input has taken as many tokens in the last 64 cycles as the node declares, so
that back-pressure holds it (R37, R158). -/
def CollNode.takeIn (nd : CollNode) (m now : Nat) (t : Token) : Option CollNode :=
  let lately := (nd.recent.get [] m).filter fun n => decide (now < n + 64)
  if lately.length ≥ nd.rate then none
  else some { nd with ins := nd.ins.mod [] m (· ++ [t]), recent := nd.recent.set m (lately ++ [now]) }

/-- SNAP has reached a TO port (4 · port + slot) or MX port (16 + 4 · port + slot) on a channel. -/
def State.noteSnap (s : State) (c key vc : Nat) : State := s.modCluster c fun x =>
  { x with snaps := if x.snaps.contains (32 * key + vc) then x.snaps else x.snaps ++ [32 * key + vc] }

/-- Tokens of port p that a stalled stream of waves keeps in their places (R389): those of its submitted accesses. -/
def Elem.stalledAt (e : Elem) (p : Nat) : Nat :=
  (e.waves.filter fun w => e.waves.any (fun v => decide (v.desc = w.desc) && v.stalled.isSome) && (decide (p = 0) || (decide (p = 1) && w.data.isSome))).length
/-- The next hop of a word takes a token (R39, R41); none where it has no room. `ctx` is rewritten on an edge between regions
(R32); a picot ends at a TO, MX or die network port, and TO and MX ports note that SNAP has come (R328; DEDUCED, log 12). At a memory slice interface a picot ends, and a token that leaves by one goes in again
where the interface has a route for its channel: the requests of an AG slot leave so, and its replies re-enter (R17, R192; DEDUCED, log 13); where
it has none the token is gone, on which R17 is silent (DESIGN CHOICE, log 91). By an edge to another module it leaves this one (R322, log 119). -/
def State.hop (s : State) (c site : Nat) (w : SwWord) (t : Token) : Option State :=
  let k := w.ctx.toNat
  let dir := w.out.toNat
  if dir ≥ 4 then
    match s.elem? c site k with
    | none => none
    | some e =>
      let p := dir - 4
      if (e.port p).length + e.stalledAt p ≥ 8 ∧ !(t.isPicot 0) then none
      else some (s.modElem c site k fun e =>
        { e with fetching := e.fetching || e.unit.isNone }.setPort p (e.port p ++ [{ t with stamp := s.tick }]))
  else match neighbour site dir with
    | some n => ((s.site c n).accept (some w.net.toNat) (opposite dir) t).map fun y => s.modSite c n fun _ => y
    | none => match edgeOf site dir with
      | some (.to n) =>
        if t.kind = kMark then some (if t.isPicot 0 then s.noteSnap c (4 * n + k) w.vc.toNat else s)
        else
        let q := (s.cluster c).toBuf.get [] (4 * n + k)
        if q.length ≥ 8 then none
        else some (s.modCluster c fun x => { x with toBuf := x.toBuf.set (4 * n + k) (q ++ [{ t with stamp := s.tick }]) })
      | some (.mx n) =>
        if t.kind = kMark then some (if t.isPicot 0 then s.noteSnap c (16 + 4 * n + k) w.vc.toNat else s)
        else
        let q := (s.cluster c).mxBuf.get [] (4 * n + k)
        if q.length ≥ 8 then none
        else some (s.modCluster c fun x => { x with mxBuf := x.mxBuf.set (4 * n + k) (q ++ [{ t with stamp := s.tick }]) })
      | some (.dni p) => if t.kind = kMark then some s else match s.binding c k p w.vc.toNat with
        | none => none
        | some b =>
          let t1 := { t with ctx := BitVec.ofNat 2 b.toK, chan := BitVec.ofNat 5 b.toVc }
          match b.node with
          | none => match b.away with
            | none => s.enterEdge b.toC (.dni b.toP) t1
            | some m => some { s with sent := s.sent ++ [⟨s.cidAt c k, m, b.toP, b.toVc, t1⟩] }
          | some n => match (s.ctxAt c k).bind fun x => x.nodes.find? n with
            | none => none
            | some nd => (nd.takeIn b.member (s.cyclesOf c) t).map fun y => s.modCtx (s.cidAt c k) fun x => { x with nodes := x.nodes.set n y }
      | some (.mem n) => if t.kind = kMark ∨ !(s.sliceIn c k w.vc.toNat n) then some s else s.enterEdge c (.mem n) t
      | _ => none

/-! ### Readiness (R44) -/

/-- A firing: where it is, and the tokens it reads. `ent` is the matching entry it takes them from. -/
structure Firing where
  c : Nat
  k : Nat
  site : Nat
  slot : Nat
  info : SlotInfo
  a : Option Token := none
  b : Option Token := none
  x : Option Token := none
  ent : Option Nat := none
  deriving DecidableEq, Repr

def Firing.at_ (f : Firing) (p : Nat) : Option Token := match p with
  | 0 => f.a
  | 1 => f.b
  | _ => f.x
def Firing.withTok (f : Firing) (p : Nat) (t : Option Token) : Firing := match p with
  | 0 => { f with a := t }
  | 1 => { f with b := t }
  | _ => { f with x := t }

def Entry.full (e : Entry) (info : SlotInfo) : Bool := info.pair.all fun p => (e.at_ p).isSome
/-- The arrival of an entry's last operand. -/
def Entry.stamp (e : Entry) : Nat := (e.toks.map fun t => t.2.stamp).foldl Nat.max 0

/-- The full entry whose operands arrived earliest, in sequence mode only that of the next tag (R44, R45). -/
def SlotSt.bestEntry (x : SlotSt) (info : SlotInfo) : Option (Nat × Entry) :=
  (x.entries.filter fun e => e.2.full info && (decide (info.fire ≠ 3) || decide (e.1 = x.seqNext))).foldl
    (fun b e => match b with
      | none => some e
      | some v => if e.2.stamp < v.2.stamp then some e else some v) none

/-- A firing with the operands given. -/
def Firing.withToks (f : Firing) (ts : List (Nat × Token)) : Firing := ts.foldl (fun (g : Firing) t => g.withTok t.1 (some t.2)) f

/-- The oldest data token that stands at the head of a channel of a port for a slot. -/
def Elem.headFor (e : Elem) (slot p : Nat) (sink : Bool) : Option Token :=
  ((headsOf (e.port p) []).filter fun t => decide (t.slot.toNat = slot) &&
    (decide (t.kind = kDense) || decide (t.kind = kChg) || (sink && decide (t.kind = kErr)))).foldl
    (fun b t => match b with
      | none => some t
      | some v => if t.stamp < v.stamp then some t else some v) none

/-- The scale of a token still at its port: that of the HDR latched on its channel (R34). -/
def Elem.scaled (e : Elem) (p : Nat) (t : Token) : Token :=
  { t with scale := match e.hdr.find? (32 * p + t.chan.toNat) with
      | some h => (h.lane 0).extractLsb' 24 8
      | none => 127 }

/-- merge takes one head (R259): merge.any the older and A on a tie; merge.tag the one whose tag comes first, when both ports hold a
head or one holds EOS or the SWITCH picot (R372). -/
def State.mergePick (s : State) (c k : Nat) (e : Elem) (slot : Nat) (tag : Bool) : Option (Nat × Token) :=
  let a := e.headFor slot 0 false
  let b := e.headFor slot 1 false
  let ended (p : Nat) : Bool := e.heldPort p || (e.slot slot).eos.any fun q => decide (q.2 = p)
  match a, b with
  | some t, some u =>
    if tag then
      let r := s.rangeOf c k t.colour.toNat
      let off (x : Token) : Nat := (x.tag.toNat + 4096 - r.base) % r.n
      if off u < off t then some (1, u) else some (0, t)
    else if u.stamp < t.stamp then some (1, u) else some (0, t)
  | some t, none => if !tag || ended 1 then some (0, t) else none
  | none, some u => if !tag || ended 0 then some (1, u) else none
  | none, none => none

/-- The tokens of a group with the tag of one of its closing tokens (R265, R275). -/
def groupOf (g : List Token) (t : Token) : List Token := g.filter fun u => decide (u.tag = t.tag) && decide (u.colour = t.colour)
/-- The first tag for which both groups of a cred slot have closed (R275): the closing tokens of A and B. -/
def closedPair (rel : Token → Nat) (x : SlotSt) : Option (Token × Token) :=
  (x.group.filter fun t => t.last).findSome? fun t => (x.groupB.find? fun u => u.last && decide (rel u = rel t)).map fun u => (t, u)
/-- The groups that a cred slot closes next: in mode sequence only those of the tag whose turn it is (R44, R275). -/
def SlotSt.credNext (x : SlotSt) (info : SlotInfo) (rel : Token → Nat) : Option (Token × Token) :=
  closedPair rel (if info.fire = 3 then { x with group := x.group.filter fun t => decide (rel t = x.seqNext) } else x)

/-- The firing of a slot whose operands are present, if it is ready (R44). That of a suspended context is too (R230; DEDUCED, log 73). A firing of which results are still to come goes on with the
operands it began with (R244). -/
def State.readyAt (s : State) (c site k slot : Nat) : Option Firing :=
  match s.elem? c site k, s.region? c k with
  | some e, some rg =>
    if !(s.running c k) || rg.frozen || e.snapped || !rg.started then none
    else match e.slotInfo site slot with
      | none => none
      | some info =>
        let x := e.slot slot
        let f : Firing := { c := c, k := k, site := site, slot := slot, info := info }
        let latched := match info.latch with
          | some _ => x.latch.isSome
          | none => true
        if info.reads.isEmpty then none
        else if let some q := x.pinned then some { f.withToks q.2 with ent := q.1 }
        else if !latched || (info.pair.isEmpty && info.headp.isEmpty) then none
        else if info.isCred ∧ isCeSite site then
          (x.credNext info (s.relTag c k)).map fun q => { f with a := some q.1, b := some q.2 }
        else if info.isMerge then
          ((s.mergePick c k e slot (decide (info.fn = 1))).filter fun q => !(s.outside c site k q.1 slot e info q.2)).map fun q =>
            f.withTok q.1 (some (e.scaled q.1 q.2))
        else
          let f1 := match info.latch with
            | some l => f.withTok l x.latch
            | none => f
          if info.pair.isEmpty then
            info.headp.foldl (fun (o : Option Firing) p => match o, (e.headFor slot p info.isSink).filter fun t =>
                !(s.outside c site k p slot e info t) with
              | some g, some t => some (g.withTok p (some (e.scaled p t)))
              | _, _ => none) (some f1)
          else (x.bestEntry info).map fun q => { f1.withToks q.2.toks with ent := some q.1 }
  | _, _ => none

/-! ### Which slot fires (R45, R330, R331) -/

/-- The level of a slot: its context's firing priority and what it rose by, 15 at most. -/
def State.levelOf (s : State) (c site k slot : Nat) : Nat :=
  let up := match s.elem? c site k with
    | some e => (e.slot slot).raised
    | none => 0
  Nat.min 15 (s.firingPrio c k + up)
/-- The arrival of the last operand of a firing. -/
def Firing.stamp (f : Firing) : Nat := ([f.a, f.b, f.x].filterMap id).foldl (fun n t => Nat.max n t.stamp) 0
/-- A slot of a site that competes: level, arrival, slot and context slot. -/
structure Rival where
  level : Nat
  stamp : Nat
  slot : Nat
  k : Nat
  tried : Bool
  deriving DecidableEq, Repr
/-- The order of R45. -/
def Rival.before (x y : Rival) : Bool :=
  decide (x.level > y.level) || (decide (x.level = y.level) && (decide (x.stamp < y.stamp) || (decide (x.stamp = y.stamp) &&
    (decide (x.slot < y.slot) || (decide (x.slot = y.slot) && decide (x.k < y.k))))))
/-- The ready slots of a site, whose outputs have room (R330). -/
def State.rivals (s : State) (c site : Nat) : List Rival :=
  [0, 1, 2, 3].flatMap fun k => match s.elem? c site k with
    | none => []
    | some e => match e.unit with
      | none => []
      | some u => u.words.filterMap fun w => match s.readyAt c site k w.1 with
        | none => none
        | some f =>
          let outs := if f.info.outs.isEmpty && f.info.loc.isSome then [2] else f.info.outs
          if outs.any (fun o => !(e.room w.1 o)) then none
          else some ⟨s.levelOf c site k w.1, f.stamp, w.1, k, (e.slot w.1).tried⟩
/-- The slot that fires when a move names one: the first of those that compete, which are the ready slots but those that were chosen before and
had to wait for something else than operands and room; such a slot is tried again only by a move that names it (log 84). -/
def State.chooseSlot (s : State) (c site k slot : Nat) : Nat × Nat :=
  let rs := s.rivals c site
  let named := rs.find? fun r => decide (r.k = k) && decide (r.slot = slot) && r.tried
  let best := (rs.filter fun r => !r.tried).foldl (fun (b : Option Rival) r => match b with
    | none => some r
    | some v => if r.before v then some r else some v) named
  match best with
  | some r => (r.k, r.slot)
  | none => (k, slot)
/-- A slot has been chosen: it has been tried, and the other ready slots of the site were passed over, but for those of suspended
contexts, which do not age (R330); one that is not ready counts anew (R45). -/
def State.passOver (s : State) (c site k slot : Nat) : State :=
  let rs := s.rivals c site
  let s1 := rs.foldl (fun s r => s.modElem c site r.k fun e =>
    let x := e.slot r.slot
    e.setSlot r.slot (if r.k = k ∧ r.slot = slot then { x with tried := true }
      else if s.halted c r.k then x else { x with passed := x.passed + 1 })) s
  [0, 1, 2, 3].foldl (fun s j => s.modElem c site j fun e => { e with slots := e.slots.map fun q => (q.1,
      if rs.any fun r => decide (r.k = j) && decide (r.slot = q.1) then q.2 else { q.2 with passed := 0, tried := false }) }) s1

/-! ### A firing's result -/

/-- What a firing does besides taking its operands: the state with the operation's own changes, results on outputs (2 is local
alone), ports whose tokens stay, holds it counts, and
whether all results leave in one issue. -/
structure FireOk where
  st : State
  outs : List (Nat × Token) := []
  keep : List Nat := []
  holds : List Upd := []
  all : Bool := false

/-- A firing waits, waits with a change of state (a run or a stream barrier begins and its operands stay at their ports, R389), fails
with an error code and count (Table 18.7), or has a result. -/
inductive Res where
  | wait
  | hold (st : State)
  | err (code count : Nat)
  | ok (r : FireOk)

/-- Operands the firing takes away: those of its entry or of its port heads, less those kept; never a latched value (R68). -/
def Firing.taken (f : Firing) (keep : List Nat) : List (Nat × Token) :=
  [0, 1, 2].filterMap fun p => if keep.contains p ∨ f.info.latch = some p then none else (f.at_ p).map fun t => (p, t)

/-- Takes a firing's operands from the element. -/
def Elem.take (e : Elem) (f : Firing) (ts : List (Nat × Token)) : Elem :=
  match f.ent with
  | some r =>
    let x := e.slot f.slot
    let en := ts.foldl (fun (en : Entry) t => en.put t.1 none) (x.entries.get {} r)
    e.setSlot f.slot { x with entries := if en = {} then x.entries.del r else x.entries.set r en }
  | none => ts.foldl (fun e t => e.setPort t.1 (dropHead (e.port t.1) t.2.chan)) e

/-- The poison of every token a firing reads (R241). -/
def Firing.poison (f : Firing) : Bool := [f.a, f.b, f.x].any fun t => match t with
  | some u => u.poison
  | none => false

/-- A change with a nonzero coordinate above its colour's depth (R58). -/
def State.tooDeep (s : State) (c k : Nat) (t : Token) : Bool :=
  decide (t.kind = kChg) && decide (t.time.depth > (s.declOf c k t.colour.toNat).depth)

/-- The granted width of a colour binds its DENSE and CHG tokens, at every element (R242, R359). -/
def State.widthBad (s : State) (c k : Nat) (t : Token) : Bool :=
  (decide (t.kind = kDense) || decide (t.kind = kChg)) &&
    (match s.alloc? c k t.colour.toNat with
     | some a => decide (a.width ≠ t.width)
     | none => false)

/-- The ERR token of a firing in place of its result (R359); its slot field names the descriptor of an ME stream (Table 19.2). -/
def Firing.error (f : Firing) (code count : Nat) : Token :=
  let t := match f.a with
    | some t => t
    | none => match f.b with
      | some t => t
      | none => { kind := kDense }
  errToken code count f.site ((descOf f.info.i).getD f.slot) t.colour t.tag t.last

/-- The state a slot keeps. -/
def State.slotState (s : State) (f : Firing) : SlotSt := match s.elem? f.c f.site f.k with
  | some e => e.slot f.slot
  | none => {}
/-- Results of the firing are still to come after this issue (R244, R270). -/
def State.moreResults (s : State) (f : Firing) (r : FireOk) : Bool :=
  !r.all && decide ((s.slotState f).count + 1 < r.outs.length)
/-- The operands that a firing of several results goes on with. -/
def Firing.pin (f : Firing) : Option Nat × List (Nat × Token) := (f.ent, [0, 1, 2].filterMap fun p => (f.at_ p).map fun t => (p, t))
/-- The results that leave in this issue. -/
def State.resultsNow (s : State) (f : Firing) (r : FireOk) : List (Nat × Token) :=
  if r.all then r.outs else (r.outs.drop (s.slotState f).count).take 1
/-- The operands taken with this issue: with the last result only. -/
def State.operandsNow (s : State) (f : Firing) (r : FireOk) : List (Nat × Token) :=
  if s.moreResults f r then [] else f.taken r.keep
/-- The local slot that a result also goes to; an ERR token goes to the output alone (R245, R359). -/
def Firing.locFor (f : Firing) (t : Token) : Option Nat := if t.kind = kErr then none else f.info.loc
/-- The batch of a firing: all its results at their destinations, its operands at their ports, its holds, at the first issue (R68, R69, R270,
R278). -/
def State.firingUps (s : State) (f : Firing) (r : FireOk) : List Upd :=
  if (s.slotState f).count ≠ 0 then []
  else (r.outs.flatMap fun o => s.emitUps f.c f.site f.k f.slot o.1 (f.locFor o.2) o.2) ++
    ((f.taken r.keep).flatMap fun t => s.takeUps f.c f.site f.k f.slot t.1 t.2) ++ r.holds
/-- Who waits at the MU: cluster, site and slot. -/
def Firing.who (f : Firing) : Nat := 4096 * f.c + 16 * f.site + f.slot
/-- The number that a sequence-mode slot takes next (R44). -/
def State.seqAfter (s : State) (f : Firing) (y : SlotSt) : Nat :=
  let next (rel : Nat) : Nat := if f.info.fire = 3 then (rel + 1) % (match f.a with
      | some t => (s.rangeOf f.c f.k t.colour.toNat).n
      | none => 4096) else y.seqNext
  match f.ent, f.a with
  | some rel, _ => next rel
  | none, some t => if f.info.isCred && isCeSite f.site then next (s.relTag f.c f.k t) else y.seqNext
  | none, none => y.seqNext

/-- The element of a firing after an issue: results in the pipeline, operands taken, the slot's counts (R244, R270). -/
def State.afterIssue (s : State) (f : Firing) (r : FireOk) (e : Elem) : Elem :=
  let more := s.moreResults f r
  let e1 := (s.resultsNow f r).foldl (fun e o =>
    e.send f.k f.slot o.1 (f.locFor o.2) { o.2 with poison := o.2.poison || f.poison }) e
  let e2 := if more then e1 else e1.take f (s.operandsNow f r)
  let y := e2.slot f.slot
  e2.setSlot f.slot { y with
    count := if more then (s.slotState f).count + 1 else 0, pinned := if more then some f.pin else none, passed := 0, raised := 0, tried := false,
    seqNext := if more then y.seqNext else s.seqAfter f y }

/-- A firing's issue once the MU has room for its batch. -/
def State.fired (s : State) (f : Firing) (r : FireOk) : State :=
  let cid := s.cidAt f.c f.k
  let ups := s.firingUps f r
  let s1 := if s.moreResults f r then s else r.st
  let s2 := s1.modElem f.c f.site f.k (s.afterIssue f r)
  let s3 := (s2.muApply cid ups).muGo cid f.who ups
  (if isCeSite f.site then s3.count f.c 0x010 f.k else s3.countMe f.c f.k).settle f.c f.site

/-- The firing is finished: one result of the list leaves, the last one with the taking of the operands (R244, R270). A batch that
the MU has no room for waits, and nothing of the firing happens (R73). -/
def State.finish (s : State) (f : Firing) (r : FireOk) : State :=
  let cid := s.cidAt f.c f.k
  let ups := s.firingUps f r
  if !(s.muRoom cid ups false) then s.muWait cid f.who ups false else s.fired f r

/-- The outputs a firing needs room on. -/
def SlotInfo.needs (x : SlotInfo) : List Nat := if x.outs.isEmpty && x.loc.isSome then [2] else x.outs

/-- A local delivery needs the matching entry that the result will occupy, by the tag and allocation it leaves with, without a port B operand (R245). -/
def State.locBusy (s : State) (f : Firing) (r : FireOk) : Bool := (s.resultsNow f r).any fun o =>
  match f.locFor o.2, r.st.elem? f.c f.site f.k with
  | some d, some e => match e.slotInfo f.site d with
    | some di => di.pair.contains 1 && (((e.slot d).entries.get {} (r.st.relTag f.c f.k o.2)).at_ 1).isSome
    | none => false
  | _, _ => false

/-- A firing that fails (R359): one ERR token in place of its result, its operands taken. Where the operands are groups they go with it,
and a token with last ends the group of its slot although its own firing failed (R265). -/
def State.failed (s : State) (f : Firing) (code count : Nat) : FireOk :=
  let err := [(0, f.error code count)]
  let x := s.slotState f
  if !(isCeSite f.site) then { st := s, outs := err }
  else if f.info.isCred then match f.a, f.b with
    | some a, some b =>
      let ga := groupOf x.group a
      let gb := groupOf x.groupB b
      { st := s.setSlot f.c f.site f.k f.slot { x with group := x.group.filter fun t => !(ga.contains t), groupB := x.groupB.filter fun t => !(gb.contains t) },
        outs := err, keep := [0, 1],
        holds := (ga.flatMap fun t => s.takeUps f.c f.site f.k f.slot 0 t) ++ (gb.flatMap fun t => s.takeUps f.c f.site f.k f.slot 1 t) }
    | _, _ => { st := s, outs := err }
  else if [0x18, 0x19, 0x27].contains f.info.op && (match f.a with
      | some a => a.last
      | none => false) then
    { st := s.setSlot f.c f.site f.k f.slot { x with vals := [], size := 0, group := [] }, outs := err }
  else { st := s, outs := err }

/-- A change that the firing reads, those of cred's groups included, is deeper than its colour (R58). -/
def State.anyDeep (s : State) (f : Firing) : Bool :=
  let x := s.slotState f
  let groups := match f.a, f.b with
    | some a, some b => if f.info.isCred && isCeSite f.site then groupOf x.group a ++ groupOf x.groupB b else []
    | _, _ => []
  ([f.a, f.b, f.x].filterMap id ++ groups).any fun t => s.tooDeep f.c f.k t

/-- A slot fires (R44, R244, R359): not ready, it does nothing; with no room on an output it waits. -/
def State.fireSlot (s : State) (g : State → Firing → Res) : State :=
  let c := s.cur.cluster
  let k := s.cur.ctx
  let site := s.cur.site
  match s.readyAt c site k s.cur.slot, s.elem? c site k with
  | some f, some e =>
    if f.info.needs.any (fun o => !(e.room f.slot o)) then s.countWait c 0x011 k
    else
      let bad (code count : Nat) : State := if e.room f.slot 0 then s.finish f (s.failed f code count) else s
      if s.anyDeep f then bad 0x05 1
      else match g s f with
        | .wait => s
        | .hold st => st
        | .err code n => bad code n
        | .ok r =>
          if r.outs.any (fun o => r.st.widthBad c k o.2) then bad 0x02 1
          else if s.locBusy f r then s
          else s.finish f r
  | _, _ => s

/-- A firing as an outcome of the step. -/
def fire (s : State) (g : State → Firing → Res) : Out := .next (s.fireSlot g)

end Sys2Proof.Machine
end

