-- ==== Sys2Proof/Machine/Image.lean ====
section
/-! DEFINITION. Reading a pricking in memory (R28, Tables 2.7 to 2.9). -/
namespace Sys2Proof.Machine

/-- n bytes at an offset of an image in local HBM. -/
def State.img (s : State) (image off n : Nat) : Nat := s.rd (hbm (image + off)) n

/-- Bytes of memory as a list. -/
def bytesAt (m : List Host.Cell) (k : Nat) : Nat → List Byte
  | 0 => []
  | n + 1 => readByte m k :: bytesAt m (k + 1) n

/-- Fields of the header (Table 2.7). -/
def State.imgLen (s : State) (im : Nat) : Nat := s.img im 0x08 8
def State.imgGen (s : State) (im : Nat) : Nat := s.img im 0x10 3
def State.imgSite (s : State) (im site : Nat) : Nat := s.img im 0x20 4 + 64 * site
/-- A site's type, share, unit length and offset (Table 2.8). -/
def State.siteType (s : State) (im site : Nat) : Nat := s.img im (s.imgSite im site) 8 / 2 ^ 60
def State.siteShare (s : State) (im site : Nat) : Nat := s.img im (s.imgSite im site) 4
def State.unitLen (s : State) (im site : Nat) : Nat := s.img im (s.imgSite im site + 0x0C) 4
def State.unitOff (s : State) (im site : Nat) : Nat := s.img im (s.imgSite im site + 0x08) 4

/-- A switch word of 16 bits (R39). -/
def swWord (pos k v : Nat) : SwWord :=
  let w : BitVec 16 := BitVec.ofNat 16 v
  { net := w.extractLsb' 14 2, out := w.extractLsb' 11 3, inp := w.extractLsb' 8 3, ctx := BitVec.ofNat 2 k,
    vc := w.extractLsb' 1 5, mc := w.getLsbD 0, pos := pos }
/-- The word at a position: word pos mod 8 of network pos / 8 (Table 2.8). -/
def State.boxWord (s : State) (im site k pos : Nat) : SwWord :=
  swWord pos k (s.img im (s.imgSite im site + 0x10 + 2 * pos) 2)
/-- The words in use of a site, bound to a context slot (R28, R29). -/
def State.boxWords (s : State) (im site k : Nat) : List SwWord :=
  ((List.range 24).map (s.boxWord im site k)).filter fun w => decide (w.inp.toNat < 6)

/-- A table of n values read at a stride. -/
def readTable (f : Nat → Word) (n : Nat) : Map Word := (List.range n).foldl (fun m i => Map.put 0 m i (f i)) []

/-- The element unit of a site (R28). -/
def State.unitAt (s : State) (im site : Nat) : ElemUnit :=
  let u := s.unitOff im site
  let w (o i : Nat) : Word := BitVec.ofNat 32 (s.img im (u + o + 4 * i) 4)
  { words := readTable (w 0) 16, consts := readTable (w 0x40) 32, vcfmt := readTable (w 0xC0) 32,
    descs := if isCeSite site then [] else (List.range 16).map fun n =>
      (n, (List.range 8).map fun j => BitVec.ofNat 64 (s.img im (u + 0x140 + 64 * n + 8 * j) 8)) }

/-- The digest of a site's unit as it stands in memory (R324, R325). -/
def State.unitDigest (s : State) (im site : Nat) : BitVec 256 :=
  Config.sha3 (bytesAt s.mem (hbm (im + s.unitOff im site)) (s.unitLen im site))
/-- The digest of a site's table entry, which holds its switch words (R374). -/
def State.boxDigest (s : State) (im site : Nat) : BitVec 256 :=
  Config.sha3 (bytesAt s.mem (hbm (im + s.imgSite im site)) 64)

/-- The edge ports and channels by which tokens enter a region: TI ports, results of the MX, memory slice and die network interfaces
(DEDUCED, log 12). -/
def State.edgeChannels (s : State) (c k : Nat) : List (Edge × BitVec 5) :=
  let ps := ([0, 1, 2, 3].flatMap fun n => [Edge.ti n, .d n, .mem n]) ++ (List.range 8).map Edge.dni
  ps.flatMap fun ed => ((((s.site c ed.entry.1).words.filter fun w => decide (w.ctx.toNat = k) && decide (w.inp.toNat = ed.entry.2)).map
    fun w => w.vc).eraseDups).map fun v => (ed, v)

/-- Injects a picot on every channel by which tokens enter the region at some edges; none while one of them has no room (R228, R328). -/
def State.injectPicots (s : State) (c k : Nat) (at_ : Edge → Bool) (kind arg aux : Nat) : Option State :=
  ((s.edgeChannels c k).filter fun q => at_ q.1).foldl (fun (o : Option State) q => o.bind fun s => s.enterEdge c q.1 (picot kind arg aux k q.2)) (some s)

end Sys2Proof.Machine
end

