-- ==== Sys2Proof/Machine/Boxes.lean ====
section
/-! DEFINITION. The steps of switch boxes, output registers, element commands and configuration units (R29, R40, R41, R45, R244,
R374). -/
namespace Sys2Proof.Machine

/-- Every site next to a site and the site itself settle. -/
def State.settleAround (s : State) (c site : Nat) : State :=
  ([some site, neighbour site 0, neighbour site 1, neighbour site 2, neighbour site 3].filterMap id).foldl (fun s n => s.settle c n) s

/-- A word moves the token at the head of its buffer to the next hop when that has room (R41); the words of a frozen region move nothing
(R374) or of a context that has ended (R364), nor does one that waits for its new value, which it takes once it has forwarded the SWITCH picot (R229). Where the head has no room SNAP
passes it: a snapshot saves both where they stand (R328; DEDUCED, log 12). -/
def State.forwardWord (s : State) (c site : Nat) (w : SwWord) : Option State :=
  let frozen := match s.region? c w.ctx.toNat with
    | some r => r.frozen
    | none => true
  let head := if w.switched then [] else w.buf.take 1
  let snap := (w.buf.find? fun t => t.isPicot 0).toList
  if frozen || s.ended c w.ctx.toNat then none
  else (head ++ snap).findSome? fun t => (s.hop c site w t).map fun s1 => s1.modSite c site fun x =>
    let turns := t.isPicot 2 && !w.fresh
    let w1 := { w with buf := w.buf.erase t, switched := w.switched || turns }
    let y := { x with words := x.words.map fun v => if v.pos = w.pos ∧ v.ctx = w.ctx then w1 else v }
    if turns then y.renew site w else y

/-- The place of a word in the round of its output: by context slot, network, input and channel, which tell the words of an output apart and are no
positions (R191). R41 names no order of the round, nor says whether the three networks share what leaves in one direction: here one round serves all
(DESIGN CHOICE, log 36). -/
def SwWord.turn (w : SwWord) : Nat := 1024 * w.ctx.toNat + 256 * w.net.toNat + 32 * w.inp.toNat + w.vc.toNat
/-- The first of a list in a round that starts at `at_`: the least place not below it, else the least. -/
def firstAfter (at_ : Nat) (l : List SwWord) : Option SwWord :=
  let least (l : List SwWord) := l.foldl (fun (b : Option SwWord) w => match b with
    | none => some w
    | some v => if w.turn < v.turn then some w else some v) none
  match least (l.filter fun w => decide (w.turn ≥ at_)) with
  | some w => some w
  | none => least l

/-- A switch box forwards one token to the output of the word that the move names: of the words that share it and can move one, the next in
turn does (R41). -/
def execSwitchForward (s : State) : Out :=
  let c := s.cur.cluster
  let site := s.cur.site
  let x := s.site c site
  match x.words.find? fun w => decide (w.pos = s.cur.sel) && decide (w.ctx.toNat = s.cur.ctx) with
  | none => .next s
  | some n =>
    let o := n.out.toNat
    match firstAfter (x.turns.get 0 o) (x.words.filter fun w => decide (w.out = n.out) && (s.forwardWord c site w).isSome) with
    | none => .next s
    | some w => match s.forwardWord c site w with
      | none => .next s
      | some s1 => .next ((s1.modSite c site fun x => { x with turns := x.turns.set o (w.turn + 1) }).settleAround c site)

/-- Puts a token before those of a port that wait, but behind earlier ones of its own channel and slot. -/
def enqueueLocal (l : List Token) (t : Token) : List Token :=
  let mine := l.takeWhile fun u => decide (u.chan = t.chan) && decide (u.slot = t.slot)
  mine ++ t :: l.drop mine.length
/-- A local delivery enters slot d as a port B operand, under the scale of the HDR that is latched on its channel there (R34, R238, R245). A header, and a delivery to an element that has recorded its state (R328), is
taken from port B as the tokens that wait there are (R247). -/
def State.deliverLocal (s : State) (c site k d : Nat) (t : Token) : State :=
  match s.elem? c site k with
  | none => s
  | some e =>
    let t1 := e.scaled 1 { t with slot := BitVec.ofNat 4 d, port := 1, stamp := s.tick }
    let waits := s.modElem c site k fun e => e.setPort 1 (enqueueLocal (e.port 1) t1)
    match (if e.snapped ∨ t.kind = kHdr then none else e.slotInfo site d) with
    | none => waits
    | some info => (s.admitData c site k 1 d e info t1).getD waits

/-- The oldest result of an output that has place leaves the pipeline (R244): into the output register, and to its local slot; not where the context
has ended (R364). -/
def execResultReachesOutput (s : State) : Out :=
  let c := s.cur.cluster
  let k := s.cur.ctx
  let site := s.cur.site
  match (s.elem? c site k).filter fun _ => !(s.ended c k) with
  | none => .next s
  | some e =>
    match e.pipe.find? fun x => decide (x.out = s.cur.sel) && e.hasPlace x.out x.tok.chan with
    | none => .next s
    | some it =>
      let s1 := s.modElem c site k fun _ => { e with pipe := e.pipe.erase it }.setOuts it.out (e.outs it.out ++ [it.tok])
      let s2 := match it.loc with
        | some d => s1.deliverLocal c site k d.toNat it.tok
        | none => s1
      .next (s2.settle c site)

/-- A ready slot passed over for 64 consecutive cycles is raised one level, to 15 at most (R45). A cycle passes it over when another slot of its
element is chosen in it. A slot of a suspended context does not age (R330). -/
def execAgingPromotion (s : State) : Out :=
  let c := s.cur.cluster
  let k := s.cur.ctx
  let site := s.cur.site
  let slot := s.cur.slot
  match s.readyAt c site k slot, s.elem? c site k with
  | some _, some e =>
    if (e.slot slot).passed < 64 || s.halted c k then .next s
    else
      let up := if s.levelOf c site k slot < 15 then 1 else 0
      .next (s.modElem c site k fun e => e.setSlot slot { e.slot slot with raised := (e.slot slot).raised + up, passed := (e.slot slot).passed - 64 })
  | _, _ => .next s

/-! ### Element commands (R40) -/

/-- The CMD token at the head of the command input whose lane 0 names a command; none at an element that has recorded its state (R165, R328). -/
def State.cmdAt (s : State) (c site k code : Nat) : Option Token :=
  match s.elem? c site k with
  | none => none
  | some e => match e.inQ with
    | t :: _ => if e.snapped then none else if t.kind = kCmd ∧ t.width = 1 ∧ (t.lane 0).toNat / 2 ^ 24 = code ∧ (t.lane 0).toNat / 16 % 2 ^ 20 = 0 then some t else none
    | [] => none
def State.dropQ (s : State) (c site k : Nat) : State := s.modElem c site k fun e => { e with inQ := e.inQ.drop 1 }

/-- FETCH: the element unit of the token's context is fetched (R40, R29). -/
def execFetch (s : State) : Out :=
  let c := s.cur.cluster
  let k := s.cur.ctx
  match s.cmdAt c s.cur.site k 1 with
  | none => .next s
  | some _ => .next ((s.dropQ c s.cur.site k).modElem c s.cur.site k fun e => { e with fetching := e.fetching || e.unit.isNone })

/-- UNLATCH: the latched value of a slot is cleared; a change that leaves the latch counts −1 (R40, R68, R165). -/
def execUnlatch (n : BitVec 4) (s : State) : Out :=
  let c := s.cur.cluster
  let k := s.cur.ctx
  let site := s.cur.site
  match s.cmdAt c site k 2, s.elem? c site k with
  | some _, some e =>
    let x := e.slot n.toNat
    let ups := match x.latch, (e.slotInfo site n.toNat).bind fun i => i.latch with
      | some t, some p => s.takeUps c site k n.toNat p t
      | _, _ => []
    .next ((((s.dropQ c site k).setSlot c site k n.toNat { x with latch := none }).muApply (s.cidAt c k) ups).settle c site)
  | _, _ => .next s

/-- ACCCLR: an accumulator is emptied without emitting (R40, R269). -/
def execAccclr (n : BitVec 4) (s : State) : Out :=
  let c := s.cur.cluster
  let k := s.cur.ctx
  match s.cmdAt c s.cur.site k 3 with
  | none => .next s
  | some _ => .next ((s.dropQ c s.cur.site k).modElem c s.cur.site k fun e => { e with accs := e.accs.del n.toNat })

/-! ### Configuration units (R29, R325, R374, R375) -/

/-- The unit of a site as the configuration cache holds it. -/
def Cluster.cached (x : Cluster) (k site image : Nat) : Option ElemUnit :=
  (x.cc.find? fun u => decide (u.k = k) && decide (u.site = site) && decide (u.image = image)).map CacheUnit.unit
def CacheUnit.bytes (u : CacheUnit) : Nat := if isCeSite u.site then 320 else 1344
/-- While the cache of 256 KiB is overfull it gives up the unit that was fetched least recently (R325). -/
def trimCache : Nat → List CacheUnit → List CacheUnit
  | 0, l => l
  | n + 1, l => if (l.map CacheUnit.bytes).foldl (· + ·) 0 > 2 ^ 18 then trimCache n (l.drop 1) else l
/-- A unit has been fetched: it is the last fetched (R325). -/
def Cluster.fetched (x : Cluster) (u : CacheUnit) : Cluster :=
  { x with cc := trimCache 1024 ((x.cc.filter fun v => !(decide (v.k = u.k) && decide (v.site = u.site) && decide (v.image = u.image))) ++ [u]) }

/-- Fetching a unit counts, and so does its absence from the cache (Table 14.6). -/
def State.countFetch (s : State) (c k : Nat) (missed : Bool) : State :=
  if missed then (s.count c 0x030 k).count c 0x031 k else s.count c 0x030 k

/-- A unit arrives from the configuration cache, which reads one that it does not hold from the pricking and compares its digest with the one kept
at load (R325); a mismatch ends the context (R375). Waiting tokens proceed. The box words of a site being fetched again arrive in the same way,
and the region resumes when nothing of it is missing (R374). -/
def execConfigUnitFetch (s : State) : Out :=
  let c := s.cur.cluster
  let k := s.cur.ctx
  let site := s.cur.site
  match s.region? c k with
  | none => .next s
  | some r =>
    let missing := match s.elem? c site k with
      | some e => e.fetching && e.unit.isNone
      | none => false
    let box := (s.site c site).refetch.contains k
    let held := (s.cluster c).cached k site r.image
    let unit := held.getD (s.unitAt r.image site)
    if !missing && !box then .next s
    else if missing && held.isNone && decide (r.digests.find? site ≠ some (s.unitDigest r.image site)) then
      .next (s.faultEnd r.cid 0x0A 1 (s.stream c k).pc (BitVec.ofNat 64 (r.image + s.unitOff r.image site)) 0)
    else if box && decide (r.digests.find? (64 + site) ≠ some (s.boxDigest r.image site)) then
      .next (s.faultEnd r.cid 0x0A 1 (s.stream c k).pc (BitVec.ofNat 64 (r.image + s.imgSite r.image site)) 0)
    else
      let s1 := if missing then (s.countFetch c k held.isNone).modElem c site k fun e => { e with unit := some unit, fetching := false } else s
      let again (v : SwWord) : SwWord :=
        if v.ctx.toNat = k ∧ v.pos < 24 then { s.boxWord r.image site k v.pos with buf := v.buf, switched := v.switched } else v
      let s2 := if box then s1.modSite c site fun x => { x with refetch := x.refetch.filter fun j => decide (j ≠ k), words := x.words.map again } else s1
      let s3 := if missing then s2.modCluster c fun x => x.fetched ⟨k, site, r.image, unit⟩ else s2
      let whole := (s3.cluster c).sites.vals.all fun x => !(x.refetch.contains k)
      .next ((s3.modRegion c k fun r => { r with frozen := r.frozen && !whole }).settle c site)

/-- An uncorrectable configuration word: the region of its context slot is frozen and the unit fetched again (R374). -/
def execConfigUncorrectable (isBox : Bool) (s : State) : Out :=
  let c := s.cur.cluster
  let k := s.cur.ctx
  let site := s.cur.site
  match s.region? c k with
  | none => .next s
  | some _ =>
    let s1 := s.modCluster c fun x => { x with cc := x.cc.filter fun u => !(decide (u.k = k) && decide (u.site = site)) }
    let again (x : Site) : Site := { x with refetch := if x.refetch.contains k then x.refetch else x.refetch ++ [k] }
    let s2 := if isBox then s1.modSite c site again
      else (s1.modElem c site k fun e => { e with unit := none, fetching := true }).modSite c site again
    .next (s2.modRegion c k fun r => { r with frozen := true })

end Sys2Proof.Machine
end

