-- ==== Sys2Proof/Machine/Flags.lean ====
section
/-! DEFINITION. The integer results of Table 10.3, the conditions, and the floating-point results with their sticky flags
(R102 to R104, R209 to R213). -/
namespace Sys2Proof.Machine

/-! ### Integers -/

def i64 : ITy := ⟨64, true⟩

/-- Bits [127:64] of the signed product. -/
def mulHigh (x y : DWord) : DWord := BitVec.ofInt 64 ((x.toInt * y.toInt) / 2 ^ 64)
def mulHighN (x y : DWord) : DWord := BitVec.ofNat 64 (x.toNat * y.toNat / 2 ^ 64)

/-- R103: a zero divisor gives all ones and the dividend as remainder; the most negative value by −1 gives itself and 0. -/
def divS (x y : DWord) : DWord := if y = 0 then BitVec.allOnes 64 else BitVec.ofInt 64 (Int.tdiv x.toInt y.toInt)
def divN (x y : DWord) : DWord := if y = 0 then BitVec.allOnes 64 else BitVec.ofNat 64 (x.toNat / y.toNat)
def remS (x y : DWord) : DWord := if y = 0 then x else BitVec.ofInt 64 (Int.tmod x.toInt y.toInt)
def remN (x y : DWord) : DWord := if y = 0 then x else BitVec.ofNat 64 (x.toNat % y.toNat)

/-- sat(i64, v) (R102). -/
def satI64 (v : Int) : DWord := BitVec.ofInt 64 (i64.sat v)

/-- The number of leading zero bits of an n-bit pattern. -/
def clzBits (n x : Nat) : Nat := if x % 2 ^ n = 0 then n else n - 1 - (x % 2 ^ n).log2
/-- The number of trailing zero bits, or n. -/
def ctzLoop (x : Nat) : Nat → Nat → Nat
  | 0, i => i
  | k + 1, i => if x.testBit i then i else ctzLoop x k (i + 1)
def ctzBits (n x : Nat) : Nat := ctzLoop x n 0
def popBits (n x : Nat) : Nat := (List.range n).foldl (fun a i => if x.testBit i then a + 1 else a) 0
/-- Bit i of the result is bit n−1−i of x. -/
def revBits (n x : Nat) : Nat := (List.range n).foldl (fun a i => 2 * a + (if x.testBit i then 1 else 0)) 0

def smin (x y : DWord) : DWord := if x.toInt < y.toInt then x else y
def smax (x y : DWord) : DWord := if x.toInt < y.toInt then y else x

/-- cond(x, y) of R202. -/
def condInt (c : Nat) (x y : DWord) : Bool := icond c x.toInt y.toInt x.toNat y.toNat

/-! ### Floating point -/

def fmtOf (f64 : BitVec 1) : Fmt := if f64 = 1 then fmtF64 else fmtF32

/-- An operand of a format: the upper bits are ignored (R209). -/
def fOperand (f : Fmt) (ftz : Bool) (x : DWord) : Val := f.decode ftz (x.toNat % 2 ^ f.width)

/-- The exact value rounded, as a register value with its flags (R209). -/
def fRound (f : Fmt) (r : Regs) (v : Val) (base : FFlags) : DWord × FFlags :=
  let (b, fl) := f.round r.rm r.ftz 0 v
  (BitVec.ofNat 64 b, base.or fl)

def fAdd (f : Fmt) (r : Regs) (x y : DWord) : DWord × FFlags :=
  let (v, nv) := (fOperand f r.ftz x).add r.rm (fOperand f r.ftz y)
  fRound f r v { nv := nv }
def fSub (f : Fmt) (r : Regs) (x y : DWord) : DWord × FFlags :=
  let (v, nv) := (fOperand f r.ftz x).add r.rm (fOperand f r.ftz y).neg
  fRound f r v { nv := nv }
def fMul (f : Fmt) (r : Regs) (x y : DWord) : DWord × FFlags :=
  let (v, nv) := (fOperand f r.ftz x).mul (fOperand f r.ftz y)
  fRound f r v { nv := nv }
def fDiv (f : Fmt) (r : Regs) (x y : DWord) : DWord × FFlags :=
  let (v, fl) := (fOperand f r.ftz x).div (fOperand f r.ftz y)
  fRound f r v fl
def fSqrt (f : Fmt) (r : Regs) (x : DWord) : DWord × FFlags :=
  let (v, fl) := (fOperand f r.ftz x).sqrt
  fRound f r v fl
/-- fmin and fmax (Table 10.5): NV on a signalling NaN only. -/
def fMinMax (f : Fmt) (max : Bool) (r : Regs) (x y : DWord) : DWord × FFlags :=
  let u := fOperand f r.ftz x
  let v := fOperand f r.ftz y
  if u.isNan || v.isNan then (BitVec.ofNat 64 f.nanBits, { nv := u.isSnan || v.isSnan })
  else
    let w := if u.below v != max then u else v
    fRound f r w {}
/-- x·y + z, rounded once; an invalid product sets NV even where z is a quiet NaN, which IEEE 754 leaves to the
implementation and the spec does not settle (DESIGN CHOICE, log 106). -/
def fFma (f : Fmt) (r : Regs) (x y z : DWord) : DWord × FFlags :=
  let (p, nv) := (fOperand f r.ftz x).mul (fOperand f r.ftz y)
  let (v, nv') := p.add r.rm (fOperand f r.ftz z)
  fRound f r v { nv := nv || nv' }

/-- A floating-point register result with its flags. -/
def seqFloat (s : State) (d : BitVec 6) (t : Bool) (g : Regs → DWord × FFlags) : Out :=
  .next (s.seqPure fun st =>
    let v := g st.view
    let st1 := st.wr d v.1 t
    { st1 with view := st1.view.flags v.2 })

/-! ### Conversions (R213) -/

def cvtInt : Nat → Option ITy
  | 0 => some ⟨32, true⟩
  | 1 => some ⟨32, false⟩
  | 2 => some ⟨64, true⟩
  | 3 => some ⟨64, false⟩
  | _ => none

def cvtFmt : Nat → Fmt
  | 4 => fmtF32
  | 5 => fmtF64
  | 6 => fmtBf16
  | _ => fmtF16

/-- The source as an exact value. FTZ reads subnormals of f32 and f64 as zero (R85, Table 4.6). -/
def cvtSource (src : Nat) (ftz : Bool) (x : DWord) : Val :=
  match cvtInt src with
  | some t => .ofInt (t.read x.toNat)
  | none => fOperand (cvtFmt src) (ftz && decide (src ≤ 5)) x

/-- The conversion with its flags. -/
def cvtResult (r : Regs) (dst src : Nat) (x : DWord) : DWord × FFlags :=
  let v := cvtSource src r.ftz x
  match cvtInt dst with
  | some t =>
    let i := t.ofVal r.rm 0 v
    let fl : FFlags := match roundInt r.rm 0 v with
      | none => { nv := true }
      | some (j, ch) => if t.sat j = j then { nx := ch } else { nv := true }
    (extend t.signed 64 (patternOf 64 i), fl)
  | none =>
    let f := cvtFmt dst
    let (b, fl) := f.round r.rm (r.ftz && decide (dst ≤ 5)) 0 v
    (BitVec.ofNat 64 b, ({ nv := v.isSnan } : FFlags).or fl)

/-! ### Atomics (R208) -/

/-- The new value of an AMO at its home, and the old value as delivered. -/
def amoNew (fn n old y cv : Nat) (rm : RMode) (ftz : Bool) : Nat :=
  let w := 8 * n
  let so := signedOf w old
  let sy := signedOf w y
  match fn with
  | 0 => (old + y) % 2 ^ w
  | 1 => Nat.land old y
  | 2 => Nat.lor old y
  | 3 => Nat.xor old y
  | 4 => if so ≤ sy then old else y
  | 5 => if so ≤ sy then y else old
  | 6 => Nat.min old y
  | 7 => Nat.max old y
  | 8 => y
  | 9 => if old = cv then y else old
  | _ => (fmtF32.round rm ftz 0 ((fmtF32.decode ftz old).add rm (fmtF32.decode ftz y)).1).1

def amoDelivered (fn n old : Nat) : DWord := extend (!(decide (n = 4) && decide (fn = 6 ∨ fn = 7 ∨ fn = 10))) (8 * n) old

end Sys2Proof.Machine
end

