-- ==== Sys2Proof/Machine/Special.lean ====
section
/-! DEFINITION. The special functions of Table 11.4, each evaluated in fixed point far beyond the precision of the formats
and given back as an exact value with a sticky last bit, so that one rounding gives the correctly rounded result (R251). -/
namespace Sys2Proof.Machine

/-- Fraction bits of the evaluation. DEDUCED (log 7): enough for every decision of f32, bf16 and f16. -/
def spP : Nat := 1150

/-- Σ_{i<fuel} of a series whose term i+1 is term i times x/2^P over `d i`, terms with sign `alt`. -/
def serLoop (p x : Nat) (alt : Bool) (d : Nat → Nat) : Nat → Nat → Nat → Bool → Int → Int
  | 0, _, _, _, acc => acc
  | k + 1, i, t, neg, acc =>
    if t = 0 then acc
    else
      let acc' := if neg then acc - (t : Int) else acc + (t : Int)
      serLoop p x alt d k (i + 1) (((t * x) >>> p) / d i) (alt && !neg || neg && !alt) acc'

/-- e^(x/2^p)·2^p for 0 ≤ x < 2^p. -/
def expFix (p x : Nat) : Nat := (serLoop p x false (fun i => i + 1) 400 0 (2 ^ p) false 0).toNat

/-- Σ t^(2i+1)/(2i+1), alternating or not: artanh or arctan of t/2^p. -/
def atanLoop (p t2 : Nat) (alt : Bool) : Nat → Nat → Nat → Bool → Int → Int
  | 0, _, _, _, acc => acc
  | k + 1, n, t, neg, acc =>
    if t = 0 then acc
    else
      let q : Int := ((t / n : Nat) : Int)
      atanLoop p t2 alt k (n + 2) ((t * t2) >>> p) (alt && !neg || neg && !alt) (if neg then acc - q else acc + q)

def atanhFix (p t : Nat) : Nat := (atanLoop p ((t * t) >>> p) false 1200 1 t false 0).toNat
def atanFix (p t : Nat) : Nat := (atanLoop p ((t * t) >>> p) true 1200 1 t false 0).toNat

/-- ln 2 = 2·artanh(1/3). -/
def ln2Fix (p : Nat) : Nat := 2 * atanhFix p (2 ^ p / 3)

/-- π by 16·arctan(1/5) − 4·arctan(1/239). -/
def piFix (p : Nat) : Nat := 16 * atanFix p (2 ^ p / 5) - 4 * atanFix p (2 ^ p / 239)

/-- m·2^e as fixed point with p fraction bits, truncated. -/
def toFix (p m : Nat) (e : Int) : Nat :=
  let k := e + p
  if k ≥ 0 then m <<< k.toNat else m >>> (-k).toNat

/-- e^(−t)·2^p for t = x/2^p ≥ 0. -/
def expNeg (p x : Nat) : Nat :=
  let l := ln2Fix p
  let n := x / l + 1
  if n > p then 0 else expFix p (n * l - x) >>> n

/-- A positive transcendental value from its fixed point: guard bits dropped, sticky bit set. -/
def fixVal (neg : Bool) (p v : Nat) : Val :=
  let m := v >>> 40
  .fin neg (2 * m + 1) (39 - (p : Int))

/-- The same for a value known to lie strictly below 1. -/
def fixBelowOne (neg : Bool) (p v : Nat) : Val := fixVal neg p (if v ≥ 2 ^ p then 2 ^ p - 1 else v)

/-- 2^x. -/
def spExp2 : Val → Val
  | .nan _ => .nan false
  | .inf neg => if neg then .fin false 0 0 else .inf false
  | .fin neg m e =>
    if m = 0 then .fin false 1 0
    else if e + m.log2 ≥ 10 then (if neg then .fin false 1 (-2000) else .fin false 1 2000)
    else
      let p := spP
      let x := toFix p m e
      let int : Int := if neg then -(((x + 2 ^ p - 1) >>> p : Nat) : Int) else ((x >>> p : Nat) : Int)
      let frac : Nat := if neg then (2 ^ p - x % 2 ^ p) % 2 ^ p else x % 2 ^ p
      if frac = 0 then .fin false 1 int
      else (fixVal false p (expFix p ((frac * ln2Fix p) >>> p))).scale int

/-- log2 x. -/
def spLog2 : Val → Val
  | .nan _ => .nan false
  | .inf neg => if neg then .nan false else .inf false
  | .fin neg m e =>
    if m = 0 then .inf true
    else if neg then .nan false
    else
      let p := spP
      let n : Int := e + m.log2
      let f := toFix p m (-(m.log2 : Int))
      if f = 2 ^ p then .ofInt n
      else
        let z := ((f - 2 ^ p) <<< p) / (f + 2 ^ p)
        let l := ((2 * atanhFix p z) <<< p) / ln2Fix p
        let t : Int := n * (2 ^ p : Nat) + l
        if t < 0 then
          -- the floor of the magnitude lies one below where the truncated fraction was short
          fixVal true p (t.natAbs - 1)
        else fixVal false p t.toNat

/-- tanh x. -/
def spTanh : Val → Val
  | .nan _ => .nan false
  | .inf neg => .fin neg 1 0
  | .fin neg m e =>
    if m = 0 then .fin neg 0 0
    else
      let p := spP
      if e + m.log2 ≥ 9 then fixBelowOne neg p (2 ^ p)
      else
        let u := expNeg p (2 * toFix p m e)
        fixBelowOne neg p (((2 ^ p - u) <<< p) / (2 ^ p + u))

/-- 1/(1 + e^(−x)). -/
def spSigm : Val → Val
  | .nan _ => .nan false
  | .inf neg => if neg then .fin false 0 0 else .fin false 1 0
  | .fin neg m e =>
    if m = 0 then .fin false 1 (-1)
    else
      let p := spP
      if e + m.log2 ≥ 9 then (if neg then .fin false 1 (-2000) else fixBelowOne false p (2 ^ p))
      else
        let u := expNeg p (toFix p m e)
        let num := if neg then u else 2 ^ p
        fixBelowOne false p ((num <<< p) / (2 ^ p + u))

/-- sin or cos of r/2^p for 0 ≤ r ≤ π/2, as non-negative fixed point. -/
def sinFix (p r : Nat) : Nat :=
  (serLoop p ((r * r) >>> p) true (fun i => (2 * i + 2) * (2 * i + 3)) 300 0 r false 0).toNat
def cosFix (p r : Nat) : Nat :=
  (serLoop p ((r * r) >>> p) true (fun i => (2 * i + 1) * (2 * i + 2)) 300 0 (2 ^ p) false 0).toNat

/-- sin (quadrant shift 0) or cos (1) of a finite value, x in radians. -/
def spSinCos (cos : Bool) : Val → Val
  | .nan _ => .nan false
  | .inf _ => .nan false
  | .fin neg m e =>
    if m = 0 then (if cos then .fin false 1 0 else .fin neg 0 0)
    else
      let p := spP
      let p2 := p + 160
      let x := toFix p2 m e
      let h := piFix p2 / 2
      let n := x / h
      let r := (x % h) >>> 160
      let q := (n + (if cos then 1 else 0)) % 4
      let v := if q % 2 = 0 then sinFix p r else cosFix p r
      let s := decide (q ≥ 2)
      fixBelowOne (if cos then s else s != neg) p v

/-- erf x = 2/√π · Σ (−1)^n x^(2n+1)/(n!(2n+1)). -/
def erfLoop (p x2 : Nat) : Nat → Nat → Nat → Bool → Int → Int
  | 0, _, _, _, acc => acc
  | k + 1, n, t, neg, acc =>
    if t = 0 then acc
    else
      let q : Int := ((t / (2 * n + 1) : Nat) : Int)
      erfLoop p x2 k (n + 1) (((t * x2) >>> p) / (n + 1)) (!neg) (if neg then acc - q else acc + q)

def spErf : Val → Val
  | .nan _ => .nan false
  | .inf neg => .fin neg 1 0
  | .fin neg m e =>
    if m = 0 then .fin neg 0 0
    else
      let p := spP
      let x := toFix p m e
      if e + m.log2 ≥ 3 ∨ x ≥ 6 * 2 ^ p then fixBelowOne neg p (2 ^ p)
      else
        let s := (erfLoop p ((x * x) >>> p) 700 0 x false 0).toNat
        let rootPi := isqrt (piFix p <<< p)
        fixBelowOne neg p ((2 * s <<< p) / rootPi)

/-- 1/x and 1/√x (exact quotient bits with sticky). -/
def spRcp (x : Val) : Val :=
  match x with
  | .fin neg 0 _ => .inf neg
  | _ => (Val.div (.fin false 1 0) x).1

def spRsq (x : Val) : Val :=
  match x with
  | .fin neg 0 _ => .inf neg
  | .inf false => .fin false 0 0
  | .fin false m e =>
    -- √(1/x) with enough quotient bits: 1/(m·2^e) = (2^k/m)·2^(−e−k)
    let k := 400 + m.log2
    let k' := if (e + k) % 2 = 0 then k else k + 1
    let q := (2 ^ k') / m
    let st := if (2 ^ k') % m = 0 then 0 else 1
    let r := isqrt q
    let st' := if st = 0 ∧ r * r = q then 0 else 1
    .fin false (2 * r + st') ((-e - k') / 2 - 1)
  | _ => .nan false

/-- Table 11.4 by function code. -/
def special (fn : Nat) (x : Val) : Val :=
  match fn with
  | 0 => spRcp x
  | 1 => spRsq x
  | 2 => x.sqrt.1
  | 3 => spExp2 x
  | 4 => spLog2 x
  | 5 => spTanh x
  | 6 => spSigm x
  | 7 => spSinCos false x
  | 8 => spSinCos true x
  | _ => spErf x

end Sys2Proof.Machine
end

