-- ==== Sys2Proof/Machine/CeOps.lean ====
section
/-! DEFINITION. The elements of an operand, the computation of a CE firing and its result (R236 to R246). -/
namespace Sys2Proof.Machine

/-! ### Elements of lanes (R237) -/

def pairs64 : List Word → List Nat
  | a :: b :: r => (a.toNat + 2 ^ 32 * b.toNat) :: pairs64 r
  | _ => []
def quads128 : List Word → List Nat
  | a :: b :: c :: d :: r => (a.toNat + 2 ^ 32 * b.toNat + 2 ^ 64 * c.toNat + 2 ^ 96 * d.toNat) :: quads128 r
  | _ => []
/-- The elements of b bits in lanes, lowest first. -/
def splitLanes (b : Nat) (l : List Word) : List Nat :=
  if b = 64 then pairs64 l
  else if b = 128 then quads128 l
  else l.flatMap fun w => (List.range (32 / b)).map fun j => w.toNat / 2 ^ (b * j) % 2 ^ b
def joinBits (b : Nat) : List Nat → Nat
  | [] => 0
  | x :: r => x % 2 ^ b + 2 ^ b * joinBits b r
/-- Packs elements of b bits into lanes, the last lane filled with zeros. -/
def packLanes (b : Nat) (es : List Nat) : List Word :=
  let v := joinBits b es
  (List.range ((es.length * b + 31) / 32)).map fun i => BitVec.ofNat 32 (v / 2 ^ (32 * i))
/-- The bits of an element: FP6 has 6 in its byte (R82, R237). -/
def elemBits (ty : Nat) : Nat := if ty = 8 ∨ ty = 9 then 6 else tyBits ty
/-- The elements of a type, FP6 without its upper bits (R82). -/
def elemsOf (ty : Nat) (l : List Word) : List Nat := (splitLanes (tyBits ty) l).map fun x => x % 2 ^ elemBits ty

/-! ### Channel format entries (Table 4.5) -/

def Elem.const (e : Elem) (n : Nat) : Word := match e.unit with
  | some u => u.consts.get 0 n
  | none => 0
def Elem.vcEntry (e : Elem) (t : Token) : Word := match e.unit with
  | some u => u.vcfmt.get 0 t.chan.toNat
  | none => 0
def entFmt (w : Word) : Nat := (w.extractLsb' 20 4).toNat
def entScale (w : Word) (t : Token) : Option (BitVec 8) := match (w.extractLsb' 18 2).toNat with
  | 1 => some t.scale
  | 2 => some (w.extractLsb' 24 8)
  | _ => none
def entRnd (w : Word) : Nat := (w.extractLsb' 15 3).toNat
def entFtz (w : Word) : Bool := w.getLsbD 14
def entSeed (w : Word) : Nat := (w.extractLsb' 12 2).toNat

/-- Flush-to-zero touches f32, bf16 and f16 alone (R85). -/
def flushable (ty : Nat) : Bool := decide (3 ≤ ty) && decide (ty ≤ 5)

/-- A raw element decoded under a channel entry, scale included (R89, R96). -/
def entDecode (w : Word) (t : Token) (x : Nat) : Val :=
  let v := tyDecode (entFmt w) (entFtz w && flushable (entFmt w)) x
  match entScale w t with
  | some sc => scaled sc v
  | none => v

/-! ### The computation of a firing -/

/-- How a firing computes (R237 to R240): type, integer reading, rounding, flush, seed and index of stochastic rounding. -/
structure CeEnv where
  ty : Nat
  t : ITy
  mode : RMode
  ftz : Bool
  seed : Word
  tag : Nat
  sat : Bool
  deriving Repr

/-- An element: its bits and its exact value. -/
structure El where
  raw : Nat
  val : Val
  deriving Repr

def CeEnv.ofFiring (e : Elem) (w : CeW) (a : Token) : CeEnv :=
  let en := e.vcEntry a
  let ty := if w.ty = 15 then entFmt en else w.ty.toNat
  { ty := ty, t := (tyInt ty).getD ⟨tyBits ty, true⟩,
    mode := match w.rnd.toNat with
      | 0 => RMode.ofCode 0
      | 1 => RMode.ofCode 1
      | 2 => RMode.ofCode (entRnd en)
      | _ => RMode.ofCode 4,
    ftz := decide (w.rnd = 2) && entFtz en,
    seed := e.const (28 + (if w.rnd = 2 then entSeed en else 0)),
    tag := a.tag.toNat, sat := decide (w.sat = 1) }

/-- The random bits of element i of the result (R240). -/
def CeEnv.rand (v : CeEnv) (i : Nat) : Nat :=
  let b := tyBits v.ty
  let ix := if b = 64 then 8 * (2 * i) else 8 * (i / (32 / b)) + i % (32 / b)
  srBits v.seed (BitVec.ofNat 32 v.tag) (BitVec.ofNat 32 ix)
/-- An integer result (R240). -/
def CeEnv.int (v : CeEnv) (x : Int) : Nat := v.t.write v.sat x
/-- A floating-point result of element i, rounded once (R240). -/
def CeEnv.flt (v : CeEnv) (i : Nat) (x : Val) : Nat := tyRound v.ty v.mode (v.ftz && flushable v.ty) (v.rand i) x
def El.int (v : CeEnv) (x : El) : Int := v.t.read x.raw

/-- The operand at port p as n elements of the computation type: broadcast from one lane where A is wider (R237). With ty 15 every operand is
split by the type of port A's entry and decoded under its own: how lanes of an entry of another element width split the spec does not say
(DESIGN CHOICE, log 87). -/
def CeEnv.operand (v : CeEnv) (e : Elem) (ch : Bool) (n : Nat) (aw : Nat) (t : Token) : List El :=
  let ls := if t.width = 1 ∧ aw > 1 then List.replicate aw (t.lane 0) else t.lanes.take aw
  ((elemsOf v.ty ls).take n).map fun x =>
    ⟨x, if ch then entDecode (e.vcEntry t) t x else tyDecode v.ty (v.ftz && flushable v.ty) x⟩
/-- A constant as n equal elements (R237). -/
def CeEnv.constant (v : CeEnv) (n : Nat) (k : Word) : List El :=
  let x := if v.ty = 2 then (k.signExtend 64).toNat else k.toNat % 2 ^ elemBits v.ty
  List.replicate n ⟨x, tyDecode v.ty (v.ftz && flushable v.ty) x⟩

/-- The smaller or the larger, −0 below +0, NaN when either is NaN. -/
def valMin (max : Bool) (x y : Val) : Val :=
  if x.isNan || y.isNan then .nan false else if x.below y != max then x else y

/-- Widths that do not agree: two that differ, neither being 1; an odd width of i64 (R237). -/
def badWidths (ty : Nat) (ts : List Token) : Bool :=
  let ws := (ts.map Token.width).filter fun w => decide (w ≠ 1)
  decide (ws.eraseDups.length > 1) || (decide (ty = 2) && ts.any fun t => decide (t.width % 2 = 1))

/-- Replaces the masked-off elements of a result by A's (R246). -/
def maskMix (m : Option (List Nat)) (a r : List Nat) : List Nat :=
  match m with
  | none => r
  | some ms => ((ms.zip a).zip r).map fun q => if q.1.1 ≠ 0 then q.2 else q.1.2

/-- The mask of a predicated firing, split under a type (R246). -/
def Firing.mask (f : Firing) (ty aw : Nat) : Option (List Nat) :=
  if f.info.w.pr = 1 then f.x.map fun t =>
    elemsOf ty (if t.width = 1 ∧ aw > 1 then List.replicate aw (t.lane 0) else t.lanes.take aw)
  else none

/-- The tokens that a firing reads as operands or as its mask. -/
def Firing.toks (f : Firing) : List Token := [f.a, f.b, f.x].filterMap id

def State.elemOf (s : State) (f : Firing) : Elem := (s.elem? f.c f.site f.k).getD { typ := 0 }

/-- The elements that port i of a firing gives: a constant where the slot takes its last operand from one, broadcast, else the
port's token; an absent operand is zeros (R237). -/
def CeEnv.source (v : CeEnv) (e : Elem) (f : Firing) (n aw i : Nat) : List El :=
  let w := f.info.w
  let (ps, o) := cePorts f.info.op f.info.fn
  let const := (o && decide (w.k ≠ 0) && decide (i + 1 = ps.length)) || (decide (w.pr = 1) && decide (i = 2))
  if i ≥ ps.length then []
  else if const then v.constant n (e.const w.k.toNat)
  else match f.at_ i with
    | some t => v.operand e (decide (w.ty = 15)) n aw t
    | none => v.constant n 0

/-- The elements of an element-wise result before packing: g of the sources where the mask is on, A's where it is off (R237, R246). -/
def CeEnv.mapped (v : CeEnv) (g : CeEnv → Nat → El → El → El → Nat) (e : Elem) (f : Firing) (a : Token) : List Nat :=
  let n := (elemsOf v.ty a.lanes).length
  let z : El := ⟨0, .ofInt 0⟩
  maskMix (f.mask v.ty a.width) (elemsOf v.ty a.lanes) ((List.range n).map fun i =>
    g v i ((v.source e f n a.width 0).getD i z) ((v.source e f n a.width 1).getD i z) ((v.source e f n a.width 2).getD i z))

/-- An element-wise operation (R237): element i of the result from element i of each source. -/
def ceMap (g : CeEnv → Nat → El → El → El → Nat) (s : State) (f : Firing) : Res :=
  match f.a with
  | none => .wait
  | some a =>
    let e := s.elemOf f
    let v := CeEnv.ofFiring e f.info.w a
    if badWidths v.ty f.toks then .err 0x02 1
    else .ok { st := s, outs := [(f.info.needs.headD 0, { a with lanes := packLanes (tyBits v.ty) (v.mapped g e f a) })] }

/-- The output a result takes (R181). -/
def Firing.out (f : Firing) : Nat := f.info.needs.headD 0

/-- result_colour of R243: none while the colour is not allocated. -/
def State.recolour (s : State) (f : Firing) (col : Nat) (t : Token) : Option (BitVec 6 × BitVec 12) :=
  match s.alloc? f.c f.k col with
  | none => none
  | some al => some (BitVec.ofNat 6 col, BitVec.ofNat 12 (al.base + s.relTag f.c f.k t % al.n))
/-- The result colour and tag of a recolouring operation with its k field (R243). -/
def State.recolourK (s : State) (f : Firing) (t : Token) : Option (BitVec 6 × BitVec 12) :=
  let k := f.info.w.k.toNat
  if k = 0 then some (t.colour, t.tag) else s.recolour f (((s.elemOf f).const k).toNat % 64) t

/-- One result of a recolouring operation; it waits for its colour (R243). -/
def recoloured (s : State) (f : Firing) (a : Token) (mk : BitVec 6 → BitVec 12 → List Token) : Res :=
  match s.recolourK f a with
  | none => .wait
  | some (c, t) => .ok { st := s, outs := (mk c t).map fun x => (f.out, x) }
/-- One lane and zeros: as many as the result colour's granted width, or A's where k is 0 (R242, R243; DEDUCED, log 108). -/
def State.lane0 (s : State) (f : Firing) (a : Token) (col : BitVec 6) (v : Word) : List Word :=
  fitLanes (if f.info.w.k = 0 then a.width else match s.alloc? f.c f.k col.toNat with
    | some x => x.width
    | none => a.width) [v]

end Sys2Proof.Machine
end

