-- ==== Sys2Proof/Machine/CeArith.lean ====
section
/-! DEFINITION. Integer, logic, float, special, compare, select, convert, quantise and move operations of the CE (R248 to R257). -/
namespace Sys2Proof.Machine

/-! ### Integer arithmetic (Table 11.1) -/

/-- An integer operation on exact values. -/
def ceInt (g : Int → Int → Int → Int) : State → Firing → Res :=
  ceMap fun v _ x y z => v.int (g (x.int v) (y.int v) (z.int v))

def execCeAdd (s : State) : Out := fire s (ceInt fun x y _ => x + y)
def execCeSub (s : State) : Out := fire s (ceInt fun x y _ => x - y)
def execCeMul (s : State) : Out := fire s (ceInt fun x y _ => x * y)
/-- floor(x·y / 2^b). -/
def execCeMulh (s : State) : Out := fire s (ceMap fun v _ x y _ => v.int (x.int v * y.int v / (2 ^ v.t.bits : Nat)))
def execCeMin (s : State) : Out := fire s (ceInt fun x y _ => if x ≤ y then x else y)
def execCeMax (s : State) : Out := fire s (ceInt fun x y _ => if x ≤ y then y else x)
def execCeAbs (s : State) : Out := fire s (ceInt fun x _ _ => (x.natAbs : Int))
def execCeNeg (s : State) : Out := fire s (ceInt fun x _ _ => -x)
def execCeMad (s : State) : Out := fire s (ceInt fun x y z => x * y + z)
def execCeAvg (s : State) : Out := fire s (ceInt fun x y _ => (x + y) / 2)

/-! ### Logic and shifts (Table 11.2) -/

/-- A logic operation on the bits of elements of b bits. -/
def ceBits (g : Nat → Nat → Nat → Nat) : State → Firing → Res :=
  ceMap fun v _ x y _ => g v.t.bits x.raw y.raw % 2 ^ v.t.bits

def execCeAnd (s : State) : Out := fire s (ceBits fun _ x y => Nat.land x y)
def execCeOr (s : State) : Out := fire s (ceBits fun _ x y => Nat.lor x y)
def execCeXor (s : State) : Out := fire s (ceBits fun _ x y => Nat.xor x y)
def execCeAndn (s : State) : Out := fire s (ceBits fun b x y => Nat.land x (2 ^ b - 1 - y))
def execCeNot (s : State) : Out := fire s (ceBits fun b x _ => 2 ^ b - 1 - x)
def execCeShl (s : State) : Out := fire s (ceBits fun b x y => x <<< (y % b))
def execCeShr (s : State) : Out := fire s (ceBits fun b x y => x >>> (y % b))
def execCeSra (s : State) : Out := fire s (ceBits fun b x y => patternOf b (signedOf b x / (2 ^ (y % b) : Nat)))
def execCeRol (s : State) : Out := fire s (ceBits fun b x y => x <<< (y % b) + x >>> (b - y % b))
def execCePopc (s : State) : Out := fire s (ceBits fun b x _ => popBits b x)
def execCeClz (s : State) : Out := fire s (ceBits fun b x _ => clzBits b x)

/-! ### Float arithmetic (Table 11.3) -/

/-- A float operation on exact values, rounded once. -/
def ceFlt (g : RMode → Val → Val → Val → Val) : State → Firing → Res :=
  ceMap fun v i x y z => v.flt i (g v.mode x.val y.val z.val)

def execCeFloatAdd (s : State) : Out := fire s (ceFlt fun m x y _ => (x.add m y).1)
def execCeFloatSub (s : State) : Out := fire s (ceFlt fun m x y _ => (x.add m y.neg).1)
def execCeFloatMul (s : State) : Out := fire s (ceFlt fun _ x y _ => (x.mul y).1)
def execCeFma (s : State) : Out := fire s (ceFlt fun m x y z => ((x.mul y).1.add m z).1)
def execCeFms (s : State) : Out := fire s (ceFlt fun m x y z => ((x.mul y).1.add m z.neg).1)
def execCeFloatMin (s : State) : Out := fire s (ceFlt fun _ x y _ => valMin false x y)
def execCeFloatMax (s : State) : Out := fire s (ceFlt fun _ x y _ => valMin true x y)
/-- A sign operation: on the bits for types 3 to 5, on the exact scaled value for the channel type. -/
def ceSign (bits : Nat → Nat → Nat) (val : Val → Val) (s : State) (f : Firing) : Res :=
  ceMap (fun v i x _ _ => if f.info.w.ty = 15 then v.flt i (val x.val) else bits (tyBits v.ty) x.raw) s f
def execCeFloatAbs (s : State) : Out := fire s (ceSign (fun b x => x % 2 ^ (b - 1)) Val.abs)
def execCeFloatNeg (s : State) : Out := fire s (ceSign (fun b x => Nat.xor x (2 ^ (b - 1))) Val.neg)

/-! ### Special functions (Table 11.4) -/

/-- SR applies to sqrt alone; elsewhere the function rounds RNE (R251). -/
def ceSpecial (fn : Nat) : State → Firing → Res :=
  ceMap fun v i x _ _ =>
    let u := if fn ≠ 2 ∧ v.mode = RMode.ofCode 4 then { v with mode := RMode.ofCode 0 } else v
    u.flt i (special fn x.val)

def execCeRcp (s : State) : Out := fire s (ceSpecial 0)
def execCeRsq (s : State) : Out := fire s (ceSpecial 1)
def execCeSqrt (s : State) : Out := fire s (ceSpecial 2)
def execCeExp2 (s : State) : Out := fire s (ceSpecial 3)
def execCeLog2 (s : State) : Out := fire s (ceSpecial 4)
def execCeTanh (s : State) : Out := fire s (ceSpecial 5)
def execCeSigm (s : State) : Out := fire s (ceSpecial 6)
def execCeSin (s : State) : Out := fire s (ceSpecial 7)
def execCeCos (s : State) : Out := fire s (ceSpecial 8)
def execCeErf (s : State) : Out := fire s (ceSpecial 9)

/-! ### Compare and select (R252, R253) -/

/-- cmp: all ones where the condition fn holds. -/
def ceCompare (s : State) (f : Firing) : Res :=
  let c := f.info.w.fn.toNat
  let flt := f.info.w.ty.toNat = 15 ∨ (3 ≤ f.info.w.ty.toNat ∧ f.info.w.ty.toNat ≤ 5)
  ceMap (fun v _ x y _ =>
    let h := if flt then (fcond c x.val y.val).1 else icond c (x.int v) (y.int v) x.raw y.raw
    if h then 2 ^ elemBits v.ty - 1 else 0) s f
def execCeCmp (s : State) : Out := fire s ceCompare
/-- sel: A where C is nonzero, else B, each element copied as its bits. With ty 15 too: whether B's elements are then decoded under B's entry and rounded
into A's format, as R96 has it of what an instruction computes, or copied, as R253 says of sel, is open (DESIGN CHOICE, log 125). -/
def execCeSel (s : State) : Out := fire s (ceMap fun _ _ x y z => if z.raw ≠ 0 then x.raw else y.raw)

/-! ### Conversion and quantisation (R254 to R256) -/

/-- An element of a source type without scale: a subnormal f32, bf16 or f16 is zero where the slot flushes (R85, R238). -/
def CeEnv.sourceVal (v : CeEnv) (src x : Nat) : Val := tyDecode src (v.ftz && flushable src) x

/-- A conversion of A's elements from a type to ty, packed anew and recoloured. -/
def ceConvert (from_ : Nat) (decode : Elem → CeEnv → Token → Nat → Val) (conv : CeEnv → Nat → Val → Nat) (s : State) (f : Firing) : Res :=
  match f.a with
  | none => .wait
  | some a =>
    let e := s.elemOf f
    let v := { CeEnv.ofFiring e f.info.w a with ty := f.info.w.ty.toNat }
    let v := { v with t := (tyInt v.ty).getD ⟨tyBits v.ty, true⟩ }
    if badWidths from_ f.toks then .err 0x02 1
    else
      let xs := elemsOf from_ a.lanes
      let r := (xs.zip (List.range xs.length)).map fun q => conv v q.2 (decode e v a q.1)
      let r1 := maskMix (f.mask from_ a.width) (xs.map fun x => x % 2 ^ elemBits v.ty) r
      recoloured s f a fun c t => [{ a with colour := c, tag := t, lanes := packLanes (tyBits v.ty) r1 }]

/-- cvt's result: an integer source wraps or saturates into an integer type, a float source clamps (R254). -/
def cvtTo (src : Nat) (v : CeEnv) (i : Nat) (x : Val) : Nat :=
  match tyInt v.ty with
  | none => v.flt i x
  | some t =>
    match tyInt src with
    | some _ => match roundInt v.mode (v.rand i) x with
      | some (j, _) => t.write v.sat j
      | none => 0
    | none => patternOf t.bits (t.ofVal v.mode (v.rand i) x)

/-- cvt from the type fn, 15 taking the type and scale of the port A entry. With an integer entry the value is first rounded to an
integer, for every result type (R254). -/
def ceCvt (s : State) (f : Firing) : Res :=
  match f.a with
  | none => .wait
  | some a =>
    let en := (s.elemOf f).vcEntry a
    let fn := f.info.w.fn.toNat
    let src := if fn = 15 then entFmt en else fn
    ceConvert src
      (fun _ v t x => if fn = 15 then entDecode en t x else v.sourceVal src x)
      (fun v i x =>
        let y := if fn = 15 ∧ (tyInt src).isSome then
            match roundInt v.mode (v.rand i) x with
            | some (j, _) => Val.ofInt j
            | none => x
          else x
        cvtTo src v i y) s f
def execCvt (s : State) : Out := fire s ceCvt

/-- qnt: every element rounded, no scale (R255). -/
def execQnt (s : State) : Out := fire s (ceConvert 3 (fun _ v _ x => v.sourceVal 3 x) fun v i x => v.flt i x)

/-- Lane 0 of an HDR token (Table 2.4). -/
def hdrLane (scale : BitVec 8) (blen : Nat) (lot : Bool) (k emax : Nat) : Word :=
  scale ++ BitVec.ofNat 8 blen ++ BitVec.ofBool lot ++ BitVec.ofNat 2 k ++ BitVec.ofNat 4 emax ++ 0#9

/-- qntb: one block with its scale byte: an HDR token, then the data token (R255, R90). -/
def ceQntb (s : State) (f : Firing) : Res :=
  match f.a with
  | none => .wait
  | some a =>
    let e := s.elemOf f
    let ty := f.info.w.ty.toNat
    let v := { CeEnv.ofFiring e f.info.w a with ty := ty }
    if badWidths 3 f.toks then .err 0x02 1 else
    let raws := elemsOf 3 a.lanes
    let xs := raws.map (v.sourceVal 3)
    let m := f.mask 3 a.width
    let live := match m with
      | some ms => ((ms.zip xs).filter fun q => decide (q.1 ≠ 0)).map Prod.snd
      | none => xs
    let sc := blockScale ty live
    let r := (xs.zip (List.range xs.length)).map fun q => blockElem ty v.mode (v.rand q.2) sc q.1
    let r1 := maskMix m (raws.map fun x => x % 2 ^ elemBits ty) r
    recoloured s f a fun c t =>
      [{ a with kind := kHdr, colour := c, tag := t, last := false, aux := 0, lanes := [hdrLane sc xs.length a.last 0 0] },
       { a with colour := c, tag := t, lanes := packLanes (tyBits ty) r1 }]
def execQntb (s : State) : Out := fire s ceQntb

/-- deq: narrow elements times the scale of the port A entry (R256). -/
def execDeq (s : State) : Out := fire s fun s f =>
  let src := f.info.w.fn.toNat
  ceConvert src
    (fun e _ t x =>
      let v := tyDecode src false x
      match entScale (e.vcEntry t) t with
      | some sc => scaled sc v
      | none => v)
    (fun v i x => v.flt i x) s f

/-! ### Lane moves (Table 11.5) -/

/-- A lane move: lane i of the result, then the mask (R246, R257). An open move with a constant reads it in place of its last source; lrev then
has no port and never fires (log 8). -/
def ceLanes (g : Elem → CeW → Token → Option Token → Nat → Word) (s : State) (f : Firing) : Res :=
  match f.a with
  | none => .wait
  | some a =>
    let e := s.elemOf f
    let ty := f.info.w.ty.toNat
    if badWidths ty f.toks then .err 0x02 1
    else
      let ls := (List.range a.width).map fun i => g e f.info.w a f.b i
      let r := maskMix (f.mask ty a.width) (splitLanes (tyBits ty) a.lanes) (splitLanes (tyBits ty) ls)
      .ok { st := s, outs := [(f.out, { a with lanes := if f.info.w.pr = 1 then packLanes (tyBits ty) r else ls })] }

/-- Lane i of a token, zero outside it. -/
def laneOr0 (t : Token) (i : Nat) : Word := if i < t.width then t.lane i else 0

def execMov (s : State) : Out :=
  fire s (ceLanes fun e w a _ i => if w.k = 0 then a.lane i else e.const w.k.toNat)
def execMovk (s : State) : Out := fire s (ceLanes fun e w _ _ _ => e.const w.k.toNat)
def execBcast (s : State) : Out := fire s (ceLanes fun _ w a _ _ => laneOr0 a w.k.toNat)
def execLshift (s : State) : Out := fire s (ceLanes fun _ w a _ i => if i < w.k.toNat then 0 else a.lane (i - w.k.toNat))
def execLrev (s : State) : Out := fire s (ceLanes fun e w a _ i => if w.k = 0 then a.lane (a.width - 1 - i) else e.const w.k.toNat)
/-- lsel: A lane (B lane i mod w); B is a constant with k ≠ 0, and lane 0 of a B of width 1 serves every lane. -/
def execLsel (s : State) : Out := fire s (ceLanes fun e w a b i =>
  let ix := match b with
    | some t => if t.width = 1 then t.lane 0 else t.lane i
    | none => e.const w.k.toNat
  a.lane (ix.toNat % a.width))

end Sys2Proof.Machine
end

