-- ==== Sys2Proof/Machine/CeToken.lean ====
section
/-! DEFINITION. Steering, merging, tags and colours, packing, reductions, scans, accumulators, counters, matrix command tokens and
control bits of the CE (R258 to R269, R279 to R282). -/
namespace Sys2Proof.Machine

/-- One result on the slot's output. -/
def one (s : State) (f : Firing) (t : Token) : Res := .ok { st := s, outs := [(f.out, t)] }
/-- A firing that needs its A token. -/
def withA (f : Firing) (g : Token → Res) : Res := match f.a with
  | some a => g a
  | none => .wait
/-- A firing that needs its A and B tokens. -/
def withAB (f : Firing) (g : Token → Token → Res) : Res := match f.a, f.b with
  | some a, some b => g a b
  | _, _ => .wait
def State.slotOf (s : State) (f : Firing) : SlotSt := (s.elemOf f).slot f.slot
def State.putSlot (s : State) (f : Firing) (x : SlotSt) : State := s.setSlot f.c f.site f.k f.slot x
def kconst (s : State) (f : Firing) (i : Nat) : Word := (s.elemOf f).const (f.info.w.k.toNat + i)

/-! ### Routing (Table 11.6) -/

/-- A goes to o0 when the test holds and else to o1. -/
def steer (s : State) (a : Token) (test : Bool) : Res := .ok { st := s, outs := [(if test then 0 else 1, a)] }

/-- keyhash (R260). -/
def keyhash (d : ColourDecl) (t : Token) : Word :=
  let ks := if t.kind = kChg then (t.record).take d.kl else [t.lane 0]
  ks.foldl (fun h x => mix (h ^^^ x)) (mix (0x9E3779B9#32 ^^^ BitVec.ofNat 32 ks.length))
def State.hashOf (s : State) (f : Firing) (t : Token) : Word := keyhash (s.declOf f.c f.k t.colour.toNat) t

def execSteerBit (s : State) : Out := fire s fun s f => withA f fun a =>
  steer s a (match f.x with
    | some x => decide (x.lane 0 ≠ 0)
    | none => false)
def execSteerPar (s : State) : Out := fire s fun s f => withA f fun a => steer s a (popBits 32 (s.hashOf f a).toNat % 2 == 0)
/-- The head that merge takes goes to its output (R259). -/
def mergeOut (s : State) (f : Firing) : Res := match f.a, f.b with
  | some t, _ => one s f t
  | none, some t => one s f t
  | none, none => .wait
def execMergeAny (s : State) : Out := fire s mergeOut
def execMergeTag (s : State) : Out := fire s fun s f => mergeOut s f
def execCopy (s : State) : Out := fire s fun s f => withA f fun a => .ok { st := s, outs := [(0, a), (1, a)], all := true }
def execGate (s : State) : Out := fire s fun s f => withA f fun a => one s f a
def execDrop (s : State) : Out := fire s fun s f => withA f fun _ => .ok { st := s }
/-- sink counts data and ERR tokens (R261), and holds which colours it has taken (R326). -/
def execSink (s : State) : Out := fire s fun s f => withA f fun a =>
  let y := s.slotOf f
  let x := { y with taken := if y.taken.contains a.colour.toNat then y.taken else y.taken ++ [a.colour.toNat] }
  .ok { st := s.putSlot f (if a.kind = kErr then
      { x with errs := x.errs + 1, firstErr := if x.errs = 0 then a.aux else x.firstErr }
    else { x with data := x.data + 1 }) }

/-! ### Tags, colours and widths (Table 11.8) -/

/-- A with another tag offset in its colour's range. -/
def retag (s : State) (f : Firing) (a : Token) (off : Nat) : Res :=
  let r := s.rangeOf f.c f.k a.colour.toNat
  one s f { a with tag := BitVec.ofNat 12 (r.base + off % r.n) }
def execTagInc (s : State) : Out := fire s fun s f => withA f fun a => retag s f a (s.relTag f.c f.k a + f.info.w.k.toNat)
def execTagSet (s : State) : Out := fire s fun s f => withA f fun a =>
  retag s f a (match f.b with
    | some b => (b.lane 0).toNat
    | none => (kconst s f 0).toNat)
def execTagGet (s : State) : Out := fire s fun s f => withA f fun a =>
  recoloured s f a fun c t => [{ a with colour := c, tag := t, lanes := s.lane0 f a c (BitVec.ofNat 32 (s.relTag f.c f.k a)) }]
def execTagBase (s : State) : Out := fire s fun s f => withA f fun a =>
  let r := s.rangeOf f.c f.k a.colour.toNat
  recoloured s f a fun c t => [{ a with colour := c, tag := t, lanes := s.lane0 f a c (BitVec.ofNat 32 (r.base + (r.n - 1) * 2 ^ 12)) }]

/-- The granted width of a requested one (R35). -/
def grantWidth (w : Nat) : Nat := if w ≤ 1 then 1 else if w ≤ 2 then 2 else if w ≤ 4 then 4 else if w ≤ 8 then 8 else if w ≤ 16 then 16 else 32
/-- A range is free of every allocation. -/
def rangeFree (al : Map ColourAlloc) (base n : Nat) : Bool :=
  decide (base + n ≤ 4096) && al.vals.all fun x => decide (base + n ≤ x.base) || decide (x.base + x.n ≤ base)
/-- A free range of n tags: the free choice of Config where that is free, else the lowest (R35, log 10). -/
def findRange (al : Map ColourAlloc) (tick n : Nat) : Option Nat :=
  let b := Config.allocBase tick % 4096
  if rangeFree al b n then some b
  else (0 :: al.vals.map fun x => x.base + x.n).foldl (fun (best : Option Nat) b =>
    if rangeFree al b n && (match best with
      | some v => decide (b < v)
      | none => true) then some b else best) none

/-- Operands of a colour that is granted again go to the matching entries of their tags under the new range (R373), but for those of a firing that has
emitted a part of its results. One whose new place is taken keeps its entry, or goes to one apart (DESIGN CHOICE, log 126). -/
def SlotSt.rekey (x : SlotSt) (col : Nat) (rel : Token → Nat) : SlotSt :=
  let fixed (r : Nat) : Bool := match x.pinned with
    | some (some q, _) => decide (q = r)
    | _ => false
  let moved := (x.entries.filter fun en => !(fixed en.1)).flatMap fun en =>
    (en.2.toks.filter fun t => decide (t.2.colour.toNat = col)).map fun t => (en.1, t)
  let set (es : Map Entry) (r : Nat) (en : Entry) : Map Entry := if en = {} then es.del r else es.set r en
  let out (es : Map Entry) (m : Nat × Nat × Token) : Map Entry := set es m.1 ((es.get {} m.1).put m.2.1 none)
  let into (es : Map Entry) (m : Nat × Nat × Token) : Map Entry :=
    let places := [rel m.2.2, m.1] ++ (List.range (es.length + 1)).map fun i => 4096 * (i + 1) + rel m.2.2
    match places.find? fun r => ((es.get {} r).at_ m.2.1).isNone with
    | some r => set es r ((es.get {} r).put m.2.1 (some m.2.2))
    | none => es
  { x with entries := moved.foldl into (moved.foldl out x.entries) }
/-- A colour is granted a range and a width in its context (R35), and the tokens of it that still wait match under the new range (R373). -/
def State.grantColour (s : State) (c k : Nat) (x : Ctx) (col : Nat) (al : ColourAlloc) : State :=
  let s1 := s.modCtx (s.cidAt c k) fun x => { x with allocs := x.allocs.set col al }
  if (x.freed.find? col).isNone then s1
  else x.places.foldl (fun s p => (List.range 64).foldl (fun s site => s.modElem p.1 site p.2 fun e =>
    { e with slots := e.slots.map fun q => (q.1, q.2.rekey col (s.relTag p.1 p.2)) }) s) s1
/-- alc.alloc (R263): ERR ALLOC for an undeclared colour or too many tags; it waits until the colour and a range are free. -/
def execAlcAlloc (s : State) : Out := fire s fun s f => withA f fun a =>
  let q := kconst s f 0
  let col := q.toNat % 64
  let n := (q.extractLsb' 16 8).toNat + 1
  let w := grantWidth ((q.extractLsb' 8 5).toNat + 1)
  match s.ctxAt f.c f.k with
  | none => .wait
  | some x =>
    match x.colours.find? col with
    | none => .err 0x0C 1
    | some d =>
      if n > d.tags then .err 0x0C 1
      else if (x.allocs.find? col).isSome then .wait
      else match findRange x.allocs s.tick n with
        | none => .wait
        | some b =>
          one (s.grantColour f.c f.k x col ⟨b, n, w⟩) f
            { a with
              kind := kDense, colour := BitVec.ofNat 6 col, tag := BitVec.ofNat 12 b,
              lanes := fitLanes w [BitVec.ofNat 32 (b + (n - 1) * 2 ^ 12 + (w - 1) * 2 ^ 20)] }
/-- A freed colour starts its waves anew when it is allocated again (R292). -/
def Region.forgetWaves (r : Region) (col : Nat) : Region :=
  { r with waveAt := r.waveAt.del col, waveDone := r.waveDone.filter fun w => decide (w.1 ≠ col) }
/-- alc.free returns A's colour and its range (R35, R262); a static colour is never freed (R243). -/
def State.freeColour (s : State) (c k col : Nat) : State :=
  match s.ctxAt c k with
  | none => s
  | some x => match x.allocs.find? col with
    | none => s
    | some r =>
      if !(s.declOf c k col).dyn then s
      else (x.places.foldl (fun s p => s.modRegion p.1 p.2 fun r => r.forgetWaves col) s).modCtx (s.cidAt c k) fun x =>
        { x with allocs := x.allocs.del col, freed := x.freed.set col r }
def execAlcFree (s : State) : Out := fire s fun s f => withA f fun a => .ok { st := s.freeColour f.c f.k a.colour.toNat }

/-- A power of two of at least 2 (R264). -/
def packs (g : Nat) : Bool := [2, 4, 8, 16, 32].contains g

/-- The members of a pack's group: of each place the token that came first, where there is one (R264). -/
def packGroup (rel : Token → Nat) (g : Nat) (ts : List Token) : List (Option Token) :=
  (List.range g).map fun i => ts.find? fun t => decide (rel t % g = i)
/-- pack joins g tokens of equal t′ div g, once all of them have come (R264). -/
def execPack (s : State) : Out := fire s fun s f => withA f fun a =>
  let col := (kconst s f 0).toNat % 64
  match s.alloc? f.c f.k col with
  | none => .wait
  | some al =>
    let g := al.width / a.width
    if a.width = 0 ∨ al.width % a.width ≠ 0 ∨ !(packs g) then .err 0x02 1
    else
      let x := s.slotOf f
      let r := s.relTag f.c f.k a
      let mine := (x.group ++ [a]).filter fun t =>
        decide (t.colour = a.colour) && decide (t.width = a.width) && decide (s.relTag f.c f.k t / g = r / g)
      let ms := packGroup (s.relTag f.c f.k) g mine
      let ts := ms.filterMap id
      if ts.length < g then .ok { st := s.putSlot f { x with group := x.group ++ [a] } }
      else one (s.putSlot f { x with group := ts.foldl List.erase (x.group ++ [a]) }) f
        { a with
          colour := BitVec.ofNat 6 col, tag := BitVec.ofNat 12 (al.base + r / g % al.n),
          lanes := fitLanes al.width (ts.flatMap fun t => t.lanes), last := ts.any fun t => t.last,
          poison := ts.any fun t => t.poison }
/-- unpack splits A into g tokens (R264). -/
def execUnpack (s : State) : Out := fire s fun s f => withA f fun a =>
  let col := (kconst s f 0).toNat % 64
  match s.alloc? f.c f.k col with
  | none => .wait
  | some al =>
    let g := a.width / al.width
    if al.width = 0 ∨ a.width % al.width ≠ 0 ∨ !(packs g) then .err 0x02 1
    else
      let r := s.relTag f.c f.k a
      .ok { st := s, outs := (List.range g).map fun i =>
        (f.out, { a with
          colour := BitVec.ofNat 6 col, tag := BitVec.ofNat 12 (al.base + (r * g + i) % al.n),
          lanes := (a.lanes.drop (i * al.width)).take al.width, last := a.last && decide (i + 1 = g) }) }

/-! ### Reductions and scans (R265 to R268) -/

/-- A running value as an element's bits: floats are kept as bits, integers exact. -/
def CeEnv.emitVal (v : CeEnv) (x : Int) : Nat := if (tyFmt v.ty).isSome then x.toNat else v.int x

/-- The identity of a reduction: 0 sum, 1 min, 2 max, 3 and, 4 or, 5 cnt (R266). -/
def CeEnv.identity (v : CeEnv) (fn : Nat) : Int :=
  let flt := (tyFmt v.ty).isSome
  match fn with
  | 1 => if flt then (v.flt 0 (.inf false) : Int) else v.t.hi
  | 2 => if flt then (v.flt 0 (.inf true) : Int) else v.t.lo
  | 3 => if v.t.signed then -1 else v.t.hi
  | _ => 0

/-- One combination of a reduction or scan (R266, R267). Element i indexes the random bits. -/
def CeEnv.combine (v : CeEnv) (fn i : Nat) (r : Int) (x : Nat) : Int :=
  let flt := (tyFmt v.ty).isSome
  let rv := tyDecode v.ty (v.ftz && flushable v.ty) r.toNat
  let xv := tyDecode v.ty (v.ftz && flushable v.ty) x
  let pat (y : Int) : Nat := patternOf v.t.bits y
  match fn with
  | 0 => if flt then (v.flt i (rv.add v.mode xv).1 : Int) else r + v.t.read x
  | 1 => if flt then (v.flt i (valMin false rv xv) : Int) else (if r ≤ v.t.read x then r else v.t.read x)
  | 2 => if flt then (v.flt i (valMin true rv xv) : Int) else (if r ≤ v.t.read x then v.t.read x else r)
  | 3 => v.t.read (Nat.land (pat r) x)
  | 4 => v.t.read (Nat.lor (pat r) x)
  | _ => r + (if x ≠ 0 then 1 else 0)

/-- A group may hold 2^16 tokens (R265). -/
def groupMax : Nat := 65536

/-- The close of a red group: a token with the accumulators, last set (R266). -/
def redClose (v : CeEnv) (a : Token) (vals : List Int) : Token :=
  { a with last := true, lanes := packLanes (tyBits v.ty) (vals.map v.emitVal) }

/-- red: combines A's elements into the slot's accumulators, those of the lanes that A has, and emits at the group's close (R266). What it does on an element typed compute the
spec does not say (R47, R265): it accumulates whatever the type, as scan, acc and the change reductions do (DESIGN CHOICE, log 88). -/
def ceRed (fn : Nat) (s : State) (f : Firing) : Res := withA f fun a =>
  let x := s.slotOf f
  let v := CeEnv.ofFiring (s.elemOf f) f.info.w a
  let xs := elemsOf v.ty a.lanes
  if x.size ≥ groupMax then .err 0x07 1
  else if badWidths v.ty [a] then .err 0x02 1
  else
    let r := ((List.range xs.length).map fun i => v.combine fn i (x.vals.getD i (v.identity fn)) (xs.getD i 0)) ++ x.vals.drop xs.length
    let p := (x.group.any fun t => t.poison) || a.poison
    if a.last then one (s.putSlot f { x with vals := [], size := 0, group := [] }) f { redClose v a r with poison := p }
    else .ok { st := s.putSlot f { x with vals := r, size := x.size + 1, group := [{ a with poison := p }] } }
def execRedSum (s : State) : Out := fire s (ceRed 0)
def execRedMin (s : State) : Out := fire s (ceRed 1)
def execRedMax (s : State) : Out := fire s (ceRed 2)
def execRedAnd (s : State) : Out := fire s (ceRed 3)
def execRedOr (s : State) : Out := fire s (ceRed 4)
def execRedCnt (s : State) : Out := fire s (ceRed 5)

/-- The running values of a scan through the elements of one token: position j of each lane has its own (R267). -/
def scanGo (v : CeEnv) (fn per : Nat) : List Nat → Nat → List Int → List Nat → List Int × List Nat
  | [], _, rs, out => (rs, out.reverse)
  | x :: xs, i, rs, out =>
    let r := v.combine fn i (rs.getD (i % per) (v.identity fn)) x
    scanGo v fn per xs (i + 1) (rs.set (i % per) r) (v.emitVal r :: out)
/-- scan: one token out for each token in (R267). -/
def ceScan (fn : Nat) (s : State) (f : Firing) : Res := withA f fun a =>
  let x := s.slotOf f
  let v := CeEnv.ofFiring (s.elemOf f) f.info.w a
  let per := if tyBits v.ty = 64 then 1 else 32 / tyBits v.ty
  if x.size ≥ groupMax then .err 0x07 1
  else if badWidths v.ty [a] then .err 0x02 1
  else
    let rs := if x.vals.isEmpty then List.replicate per (v.identity fn) else x.vals
    let (rs1, out) := scanGo v fn per (elemsOf v.ty a.lanes) 0 rs []
    let x1 := if a.last then { x with vals := [], size := 0 } else { x with vals := rs1, size := x.size + 1 }
    one (s.putSlot f x1) f { a with lanes := packLanes (tyBits v.ty) out }
def execScanSum (s : State) : Out := fire s (ceScan 0)
def execScanMax (s : State) : Out := fire s (ceScan 2)

/-- lrs: h := round(a·h + b), emitted and carried on; the h of elements that A does not have stand (R268). -/
def execLrs (s : State) : Out := fire s fun s f => withAB f fun a b =>
  let x := s.slotOf f
  let e := s.elemOf f
  let v := CeEnv.ofFiring e f.info.w a
  if badWidths v.ty [a, b] then .err 0x02 1
  else
    let n := (elemsOf v.ty a.lanes).length
    let as := v.operand e false n a.width a
    let bs := v.operand e false n a.width b
    let z : El := ⟨0, .ofInt 0⟩
    let hs := (List.range n).map fun i =>
      let h := tyDecode v.ty (v.ftz && flushable v.ty) (x.vals.getD i 0).toNat
      v.flt i ((((as.getD i z).val.mul h).1.add v.mode (bs.getD i z).val).1)
    one (s.putSlot f { x with vals := hs.map Int.ofNat ++ x.vals.drop n }) f { a with lanes := packLanes (tyBits v.ty) hs }

/-! ### Shared accumulators (R269) -/

/-- acc.add and acc.max: an empty accumulator takes A's lanes; where the widths differ the shorter is filled with zero elements (log 88). -/
def ceAcc (max : Bool) (s : State) (f : Firing) : Res := withA f fun a =>
  let e := s.elemOf f
  let v := CeEnv.ofFiring e f.info.w a
  let xs := elemsOf v.ty a.lanes
  let k := f.info.w.k.toNat
  if badWidths v.ty [a] then .err 0x02 1
  else
    let new := match e.accs.find? k with
      | none => a.lanes
      | some ls =>
        let old := elemsOf v.ty ls
        packLanes (tyBits v.ty) ((List.range (Nat.max old.length xs.length)).map fun i =>
          let o := old.getD i 0
          let y := xs.getD i 0
          if (tyFmt v.ty).isSome then (v.combine (if max then 2 else 0) i (o : Int) y).toNat
          else if max then v.int (if v.t.read o ≤ v.t.read y then v.t.read y else v.t.read o)
          else v.int (v.t.read o + v.t.read y))
    .ok { st := s.modElem f.c f.site f.k fun e => { e with accs := e.accs.set k new } }
def execAccAdd (s : State) : Out := fire s (ceAcc false)
def execAccMax (s : State) : Out := fire s (ceAcc true)
/-- acc.reset emits the accumulator, or zeros of A's width, and empties it. -/
def execAccReset (s : State) : Out := fire s fun s f => withA f fun a =>
  let e := s.elemOf f
  let k := f.info.w.k.toNat
  if badWidths (CeEnv.ofFiring e f.info.w a).ty [a] then .err 0x02 1
  else one (s.modElem f.c f.site f.k fun e => { e with accs := e.accs.del k }) f
    { a with lanes := (e.accs.find? k).getD (List.replicate a.width 0) }

/-! ### Counters, matrix commands, control bits (R279 to R282) -/

/-- cntr: c counted tokens for each A, last on the last of them (DEDUCED, log 109); WIDTH for an A of j + 1 lanes or fewer where the pricking does not fix A's width (R279). -/
def execCntr (s : State) : Out := fire s fun s f => withA f fun a =>
  let st := (kconst s f 0).toInt
  let q := kconst s f 1
  let c := q.toNat % 2 ^ 16
  let j := (q.extractLsb' 16 5).toNat
  let r := s.rangeOf f.c f.k a.colour.toNat
  let t := s.relTag f.c f.k a
  let fixed := (s.elemOf f).fixedA.contains f.slot
  if a.width ≤ j + (if fixed then 0 else 1) then .err 0x02 1
  else .ok { st := s, outs := (List.range c).map fun i =>
    (f.out, { a with
      lanes := a.lanes.set j (BitVec.ofInt 32 ((a.lane j).toInt + i * st)),
      tag := BitVec.ofNat 12 (r.base + (t * c + i) % r.n), last := decide (i + 1 = c) }) }
/-- mxc: a CMD token of two lanes; POISONCMD for a poisoned A (R280). -/
def execMxc (s : State) : Out := fire s fun s f => withA f fun a =>
  if a.poison then .err 0x09 1
  else
    let l1 := if a.width < 2 then 0 else a.lane 1
    one s f { a with kind := kCmd, aux := 0, lanes := [kconst s f 0 ||| a.lane 0, kconst s f 1 ||| l1] }
/-- A control token: its bit in lane 0 [0], and no tag (R281). -/
def ctlToken (a : Token) (b : Bool) : Token := { a with kind := kDense, tag := 0, lanes := [if b then 1 else 0] }
def execCtlSig (s : State) : Out := fire s fun s f => withA f fun a => one s f (ctlToken a (decide (a.lane 0 ≠ 0)))
def execCtlWait (s : State) : Out := fire s fun s f => withAB f fun a b => steer s a ((b.lane 0).getLsbD 0)
def execCtlAnd2 (s : State) : Out := fire s fun s f => withAB f fun a b =>
  one s f (ctlToken a ((a.lane 0).getLsbD 0 && (b.lane 0).getLsbD 0))
/-- A nop slot never fires; tokens bound for it wait (R282). -/
def execCeNop (s : State) : Out := .next s

end Sys2Proof.Machine
end

