-- ==== Sys2Proof/Machine/CeChange.lean ====
section
/-! DEFINITION. Operations on changes and times (R270 to R278). -/
namespace Sys2Proof.Machine

/-- The diffs of the tokens that carry an exact diff D (R80). -/
def splitDiff (d : Int) : List Int :=
  let m : Nat := if d < 0 then 2 ^ 31 else 2 ^ 31 - 1
  let q := d.natAbs / m
  let r := d.natAbs % m
  let sgn (x : Nat) : Int := if d < 0 then -(x : Int) else (x : Int)
  List.replicate q (sgn m) ++ (if r = 0 then [] else [sgn r])
/-- A with a diff, split (R270). -/
def withDiff (a : Token) (d : Int) : List Token := (splitDiff d).map fun x => { a with lanes := BitVec.ofInt 32 x :: a.lanes.drop 1 }
/-- A with a time. -/
def withTime (a : Token) (t : Time) : Token := { a with lanes := a.lanes.take 1 ++ timeLanes t ++ a.lanes.drop 4 }

/-- Key and value lanes of a change (Table 2.3). -/
def keyLanes (d : ColourDecl) (t : Token) : List Word := t.record.take d.kl
def valLanes (d : ColourDecl) (t : Token) : List Word := (t.record.drop d.kl).take d.vl

/-- Several results on the slot's output. -/
def many (s : State) (f : Firing) (ts : List Token) : Res := .ok { st := s, outs := ts.map fun t => (f.out, t) }

/-- cneg: with a constant it reads no port and never fires (R236, log 8). -/
def execCneg (s : State) : Out := fire s fun s f => withA f fun a =>
  many s f (if a.diff = 0 then [a] else withDiff a (-a.diff))

/-- The product of two elements of the computation type under R240; `i` indexes the random bits. -/
def CeEnv.mulEl (v : CeEnv) (i : Nat) (x y : El) : Nat :=
  if (tyFmt v.ty).isSome then v.flt i (x.val.mul y.val).1 else v.int (x.int v * y.int v)

/-- The elements of lanes under the computation type. -/
def CeEnv.els (v : CeEnv) (l : List Word) : List El :=
  (elemsOf v.ty l).map fun x => ⟨x, tyDecode v.ty (v.ftz && flushable v.ty) x⟩

/-- The value lanes of a change, or a whole operand, do not make whole elements of i64 (R237). -/
def oddWidth (ty n : Nat) : Bool := decide (ty = 2) && decide (n % 2 = 1)
/-- cscale (R270): every value element times B's element 0; WIDTH for an odd i64 width of either (R237). -/
def execCscale (s : State) : Out := fire s fun s f => withA f fun a =>
  let d := s.declOf f.c f.k a.colour.toNat
  let v := CeEnv.ofFiring (s.elemOf f) f.info.w a
  let z : El := ⟨0, .ofInt 0⟩
  let y := match f.b with
    | some b => (v.els b.lanes).getD 0 z
    | none => (v.constant 1 (kconst s f 0)).getD 0 z
  let vs := v.els (valLanes d a)
  let r := (List.range vs.length).map fun i => v.mulEl (4 + d.kl + i) (vs.getD i z) y
  if oddWidth v.ty (valLanes d a).length || (f.b.toList.any fun b => oddWidth v.ty b.width) then .err 0x02 1
  else one s f { a with lanes := a.lanes.take (4 + d.kl) ++ packLanes (tyBits v.ty) r ++ a.lanes.drop (4 + d.kl + d.vl) }

/-- mkchg (R270): B's lanes 0 to 3, then A's lanes. -/
def execMkchg (s : State) : Out := fire s fun s f => withAB f fun a b =>
  if a.width + 4 > 32 then .err 0x02 1
  else recoloured s f a fun c t => [{ a with kind := kChg, colour := c, tag := t, lanes := fitLanes 4 b.lanes ++ a.lanes }]

/-- dense (R270): lane i is d · value lane i; WIDTH for an odd i64 width (R237). -/
def execDense (s : State) : Out := fire s fun s f => withA f fun a =>
  let d := s.declOf f.c f.k a.colour.toNat
  let v := CeEnv.ofFiring (s.elemOf f) f.info.w a
  let vs := v.els (valLanes d a)
  let r := (List.range vs.length).map fun i =>
    let x := vs.getD i ⟨0, .ofInt 0⟩
    if (tyFmt v.ty).isSome then v.flt i (x.val.mul (.ofInt a.diff)).1 else v.int (a.diff * x.int v)
  if oddWidth v.ty (valLanes d a).length then .err 0x02 1
  else recoloured s f a fun c t =>
    [{ a with
       kind := kDense, colour := c, tag := t, lanes := packLanes (tyBits v.ty) r,
       aux := if d.kl = 0 then 0 else BitVec.ofNat 16 ((a.lane 4).toNat % 2 ^ 14 * 4) }]

/-- dadd (R270): A lane i + d(B) · B value lane i; WIDTH for an odd i64 width of A or of B's value (R237). With a constant, every lane of B, its diff included, is kN (R237; DEDUCED, log 89). -/
def execDadd (s : State) : Out := fire s fun s f => withA f fun a =>
  let e := s.elemOf f
  let v := CeEnv.ofFiring e f.info.w a
  let xs := v.els a.lanes
  let ys := match f.b with
    | some b => v.els (valLanes (s.declOf f.c f.k b.colour.toNat) b)
    | none => v.constant xs.length (kconst s f 0)
  let d := match f.b with
    | some b => b.diff
    | none => (kconst s f 0).toInt
  let z : El := ⟨0, .ofInt 0⟩
  let bl := match f.b with
    | some b => (valLanes (s.declOf f.c f.k b.colour.toNat) b).length
    | none => 0
  if badWidths v.ty [a] || oddWidth v.ty bl then .err 0x02 1
  else one s f { a with
    kind := kDense,
    lanes := packLanes (tyBits v.ty) ((List.range xs.length).map fun i =>
      let x := xs.getD i z
      let y := ys.getD i z
      if (tyFmt v.ty).isSome then v.flt i (x.val.add v.mode ((y.val.mul (.ofInt d)).1)).1
      else v.int (x.int v + d * y.int v)) }

/-! ### Times (R271, R272) -/

/-- ct.enter: c(d+1) := 0 and the result colour is one deeper; TIME at depth 3. -/
def execCtEnter (s : State) : Out := fire s fun s f => withA f fun a =>
  let d := (s.declOf f.c f.k a.colour.toNat).depth
  if d ≥ 3 then .err 0x04 1
  else recoloured s f a fun c t => [{ withTime a (a.time.setCoord (d + 1) 0) with colour := c, tag := t }]
/-- ct.leave: c(d) := 0; TIME at depth 0. -/
def execCtLeave (s : State) : Out := fire s fun s f => withA f fun a =>
  let d := (s.declOf f.c f.k a.colour.toNat).depth
  if d = 0 then .err 0x04 1
  else recoloured s f a fun c t => [{ withTime a (a.time.setCoord d 0) with colour := c, tag := t }]
/-- ct.step: c(d) + 1; TIME past 0xFFFF and at depth 0. -/
def execCtStep (s : State) : Out := fire s fun s f => withA f fun a =>
  let d := (s.declOf f.c f.k a.colour.toNat).depth
  let v := a.time.coord d + 1
  if d = 0 ∨ v > 0xFFFF then .err 0x04 1 else one s f (withTime a (a.time.setCoord d v))
/-- The value of B lane 0 and the coordinate j of ct.set and ct.adv. -/
def ctJ (f : Firing) : Nat := f.info.w.k.toNat % 4
/-- ct.set: TIME below c(j) or above its width. -/
def execCtSet (s : State) : Out := fire s fun s f => withAB f fun a b =>
  let v := (b.lane 0).toNat
  if v < a.time.coord (ctJ f) ∨ v ≥ 2 ^ coordBits (ctJ f) then .err 0x04 1
  else one s f (withTime a (a.time.setCoord (ctJ f) v))
/-- ct.adv: a larger value advances c(j) and clears the coordinates above; a value past the coordinate's width is TIME
(DEDUCED, log 11). -/
def execCtAdv (s : State) : Out := fire s fun s f => withAB f fun a b =>
  let v := (b.lane 0).toNat
  let j := ctJ f
  if v ≤ a.time.coord j then one s f a
  else if v ≥ 2 ^ coordBits j then .err 0x04 1
  else one s f (withTime a ((List.range 4).foldl (fun t i => if j < i then t.setCoord i 0 else t) (a.time.setCoord j v)))

/-- A time test: A to o0 when it holds, else to o1 (R272). -/
def ctTest (g : Time → Time → Bool) (s : State) (f : Firing) : Res := withAB f fun a b => steer s a (g a.time b.time)
def execCtLe (s : State) : Out := fire s (ctTest fun x y => x.le y)
def execCtLt (s : State) : Out := fire s (ctTest fun x y => x.lt y)
def execCtEq (s : State) : Out := fire s (ctTest fun x y => decide (x = y))
def execCtPar (s : State) : Out := fire s (ctTest fun x y => !(x.le y) && !(y.le x))

/-! ### Keys (R273) -/

def execKhash (s : State) : Out := fire s fun s f => withA f fun a =>
  recoloured s f a fun c t => [{ a with kind := kDense, colour := c, tag := t, lanes := s.lane0 f a c (s.hashOf f a) }]
def execKexch (s : State) : Out := fire s fun s f => withA f fun a => steer s a (!((s.hashOf f a).getLsbD f.info.w.k.toNat))

/-! ### Joins and reductions of changes (R274 to R277) -/

/-- A change built by an operation fills its colour's granted width with zero lanes (R242, Table 2.3). -/
def State.fillChange (s : State) (c k : Nat) (t : Token) : Token := match s.alloc? c k t.colour.toNat with
  | some a => if t.width < a.width then { t with lanes := fitLanes a.width t.lanes } else t
  | none => t

/-- cjoin: A stays until the B token with last; each B gives the joined change (R274). -/
def execCjoin (s : State) : Out := fire s fun s f => withAB f fun a b =>
  let da := s.declOf f.c f.k a.colour.toNat
  let db := s.declOf f.c f.k b.colour.toNat
  let base := { a with
    kind := kChg,
    lanes := chgLanes 0 (a.time.join b.time) (keyLanes da a ++ valLanes da a ++ valLanes db b) }
  match s.recolourK f a with
  | none => .wait
  | some (c, t) =>
    .ok {
      st := s, keep := if b.last then [] else [0],
      outs := (withDiff (s.fillChange f.c f.k { base with colour := c, tag := t }) (a.diff * b.diff)).map fun x => (f.out, x) }

/-- The aggregate of a group A (R275): count, sum, minimum or maximum of value lane 0. It stands in lane 4 + kl of the result, which indexes
its random bits (R240). -/
def credAgg (v : CeEnv) (d : ColourDecl) (fn : Nat) (ga : List Token) : Nat :=
  let flt := (tyFmt v.ty).isSome
  let val (t : Token) : El := (v.els (valLanes d t)).getD 0 ⟨0, .ofInt 0⟩
  let best (max : Bool) : Nat :=
    (ga.filter fun t => decide (t.diff > 0)).foldl (fun (o : Option El) t =>
      let x := val t
      match o with
      | none => some x
      | some y =>
        let less := if flt then x.val.below y.val else decide (x.int v < y.int v)
        let nan : El := ⟨0, .nan false⟩
        if flt && (x.val.isNan || y.val.isNan) then some nan else some (if less != max then x else y)) none
      |>.map (fun x => if flt then v.flt (4 + d.kl) x.val else x.raw) |>.getD 0
  match fn with
  | 0 => patternOf 32 ((⟨32, true⟩ : ITy).sat ((ga.map Token.diff).foldl (· + ·) 0))
  | 1 =>
    if flt then ga.foldl (fun (r : Nat) t =>
      v.flt (4 + d.kl) ((tyDecode v.ty false r).add v.mode (((val t).val.mul (.ofInt t.diff)).1)).1) 0
    else v.int ((ga.map fun t => t.diff * (val t).int v).foldl (· + ·) 0)
  | 2 => best false
  | _ => best true

/-- What cred emits for its two closed groups (R275): records and diffs, at A's time. The first record that is the wanted one satisfies it. -/
def credOut (v : CeEnv) (da db : ColourDecl) (fn : Nat) (ga gb : List Token) (a : Token) : List (List Word × Int) :=
  let any := ga.any fun t => decide (t.diff > 0)
  let agg := packLanes (tyBits v.ty) [credAgg v da fn ga]
  let want := keyLanes da a ++ agg
  let recs := (gb.filter fun t => decide (t.diff ≠ 0)).map fun t => (keyLanes db t ++ valLanes db t, t.diff)
  let hit := any && recs.contains (want, 1)
  ((if any then recs.erase (want, 1) else recs).map fun r => (r.1, -r.2)) ++ (if any && !hit then [(want, 1)] else [])

/-- The changes that cred emits for two groups, with the poison of every token of them (R241, R275); none while the colour is not allocated. -/
def State.credToks (s : State) (f : Firing) (ga gb : List Token) (a b : Token) : Option (List Token) :=
  (s.recolourK f a).map fun ct =>
    (credOut (CeEnv.ofFiring (s.elemOf f) f.info.w a) (s.declOf f.c f.k a.colour.toNat) (s.declOf f.c f.k b.colour.toNat) f.info.fn ga gb a).flatMap fun r =>
      withDiff (s.fillChange f.c f.k
        { a with
          kind := kChg, colour := ct.1, tag := ct.2, lanes := chgLanes 0 a.time r.1,
          poison := (ga ++ gb).any fun t => t.poison }) r.2

/-- cred fires when both groups of a tag have closed (R275). -/
def ceCred (s : State) (f : Firing) : Res := withAB f fun a b =>
  let x := s.slotOf f
  let ga := groupOf x.group a
  let gb := groupOf x.groupB b
  let downs := (ga.flatMap fun t => s.takeUps f.c f.site f.k f.slot 0 t) ++ (gb.flatMap fun t => s.takeUps f.c f.site f.k f.slot 1 t)
  if ga.length > groupMax ∨ gb.length > groupMax then .err 0x07 1
  else match s.credToks f ga gb a b with
    | none => .wait
    | some ts => .ok {
        st := s.putSlot f { x with
          group := x.group.filter fun t => !(ga.contains t), groupB := x.groupB.filter fun t => !(gb.contains t) },
        keep := [0, 1], holds := downs, outs := ts.map fun o => (f.out, o) }
def execCredCount (s : State) : Out := fire s ceCred
def execCredSum (s : State) : Out := fire s ceCred
def execCredMin (s : State) : Out := fire s ceCred
def execCredMax (s : State) : Out := fire s ceCred

/-- cdist: [m > 0] − e where it is not zero; PAIR for different records or times (R276). -/
def execCdist (s : State) : Out := fire s fun s f => withAB f fun a b =>
  if a.recordOf (s.declOf f.c f.k a.colour.toNat) ≠ b.recordOf (s.declOf f.c f.k b.colour.toNat) ∨ a.time ≠ b.time then .err 0x06 1
  else many s f (withDiff a ((if a.diff > 0 then 1 else 0) - b.diff))

/-- A sum of diffs by record and time. -/
abbrev Sums := List (List Word × Time × Int)
/-- Lexicographic order of lanes as unsigned words. -/
def lanesLt : List Word → List Word → Bool
  | [], [] => false
  | [], _ :: _ => true
  | _ :: _, [] => false
  | a :: r, b :: q => decide (a.toNat < b.toNat) || (decide (a = b) && lanesLt r q)
/-- The order of R79: key, value, then time. -/
def sumLt (x y : List Word × Time) : Bool :=
  lanesLt x.1 y.1 || (decide (x.1 = y.1) && decide (x.2.key < y.2.key))
/-- Adds a diff, keeping the order of R79. -/
def addSum (r : List Word) (t : Time) (d : Int) : Sums → Sums
  | [] => [(r, t, d)]
  | (r', t', d') :: l =>
    if r = r' ∧ t = t' then (r', t', d' + d) :: l
    else if sumLt (r, t) (r', t') then (r, t, d) :: (r', t', d') :: l else (r', t', d') :: addSum r t d l
def sumsOf (d : ColourDecl) (ts : List Token) : Sums := ts.foldl (fun l t => addSum (t.recordOf d) t.time t.diff l) []

/-- Marks the last token of a list. -/
def markLast : List Token → List Token
  | [] => []
  | [t] => [{ t with last := true }]
  | t :: r => { t with last := false } :: markLast r

/-- The close of a ccons group (R277): one token of A's width for each nonzero sum, or one of diff 0. -/
def cconsClose (d : ColourDecl) (ts : List Token) (a : Token) : List Token :=
  let of (t : Time) (rec : List Word) : Token := { a with lanes := fitLanes a.width (chgLanes 0 t rec) }
  let outs := ((sumsOf d ts).filter fun x => decide (x.2.2 ≠ 0)).flatMap fun x => withDiff (of x.2.1 x.1) x.2.2
  if outs.isEmpty then [{ of a.time (a.recordOf d) with last := true }] else markLast outs

/-- ccons collects a group and emits its sums at the close; GROUP for more distinct pairs than the slot's window (R277). -/
def execCcons (s : State) : Out := fire s fun s f => withA f fun a =>
  let x := s.slotOf f
  let ts := x.group ++ [a]
  let d := s.declOf f.c f.k a.colour.toNat
  if ts.length > groupMax ∨ (sumsOf d ts).length > (s.elemOf f).window f.slot then .err 0x07 1
  else if a.last then many (s.putSlot f { x with group := [] }) f (cconsClose d ts a)
  else .ok { st := s.putSlot f { x with group := ts } }

/-! ### Holds (R278) -/

def State.holdLoc (s : State) (f : Firing) : Nat :=
  (match s.region? f.c f.k with
   | some r => r.locBase
   | none => 0) + (kconst s f 0).toNat % 2 ^ 16
/-- The holds of a context at a location and time. -/
def Ctx.heldAt (x : Ctx) (cid loc : Nat) (t : Time) : Int :=
  ((x.holds.filter fun p => decide (p.cid = cid) && decide (p.loc = loc) && decide (p.time = t)).map Stamp.count).foldl (· + ·) 0
def State.hold (s : State) (cid loc : Nat) (t : Time) (n : Int) : State :=
  s.modCtx cid fun x => { x with holds := stampAdd x.holds cid ⟨loc, t, n⟩ }
def execCnote (s : State) : Out := fire s fun s f => withA f fun a =>
  let cid := s.cidAt f.c f.k
  let l := s.holdLoc f
  .ok { st := s.hold cid l a.time 1, outs := [(f.out, a)], holds := [⟨l, a.time, 1⟩] }
/-- crel; RELEASE where no hold of its location and time is live. -/
def execCrel (s : State) : Out := fire s fun s f => withA f fun a =>
  let cid := s.cidAt f.c f.k
  let l := s.holdLoc f
  let live := match s.ctx? cid with
    | some x => x.heldAt cid l a.time
    | none => 0
  if live ≤ 0 then .err 0x08 1
  else .ok { st := s.hold cid l a.time (-1), outs := [(f.out, a)], holds := [⟨l, a.time, -1⟩] }

end Sys2Proof.Machine
end

