-- ==== Sys2Proof/Machine/Dtd.lean ====
section
/-! DEFINITION. Reading the placement table, its member map and its descriptors (R145 to R149, Tables 7.1 to 7.3). -/
namespace Sys2Proof.Machine

/-- n bytes of the tables at a virtual address of the context, once they can be read (`State.tablesFail`): those of another node are what its answer
brought (R334). -/
def State.vrd (s : State) (c k : Nat) (va : DWord) (n : Nat) : Nat := match (s.translate c true (s.rootAt c k) va .load).2 with
  | .ok key => s.rd key n
  | .error _ => 0

def State.ptabAt (s : State) (c k : Nat) : DWord := match s.ctxAt c k with
  | some x => x.ptab
  | none => 0
/-- The address of DTD i (R145). -/
def dtdAddr (ptab : DWord) (i : Nat) : DWord := ptab + 64#64 + BitVec.ofNat 64 (64 * i)

/-- A DTD as read from memory (Table 7.3). -/
structure Dtd where
  w0 : DWord
  dims : DWord
  base : DWord
  mstride : DWord
  cap : DWord
  stage : DWord
  done : DWord
  deriving DecidableEq, Repr, Inhabited

def State.dtdAt (s : State) (c k i : Nat) : Dtd :=
  let a := dtdAddr (s.ptabAt c k) i
  let w (o : Nat) : DWord := BitVec.ofNat 64 (s.vrd c k (a + BitVec.ofNat 64 o) 8)
  { w0 := w 0, dims := w 8, base := w 16, mstride := w 24, cap := w 32, stage := w 40, done := w 48 }

/-- State, generation, busy, type, dimensions, rounding, flush and anchor of word 0. -/
def Dtd.st (d : Dtd) : Nat := d.w0.bits 63 48
def Dtd.gen (d : Dtd) : Nat := d.w0.bits 47 34
def Dtd.busy (d : Dtd) : Bool := d.w0.getLsbD 33
def Dtd.ty (d : Dtd) : Nat := d.w0.bits 32 29
def Dtd.nd (d : Dtd) : Nat := d.w0.bits 28 27 + 1
def Dtd.rnd (d : Dtd) : Nat := d.w0.bits 26 24
def Dtd.ftz (d : Dtd) : Bool := d.w0.getLsbD 23
def Dtd.anc (d : Dtd) : Int := signedOf 9 (d.w0.bits 22 14)
def Dtd.dim (d : Dtd) (j : Nat) : Nat := d.dims.toNat / 2 ^ (16 * j) % 65536
/-- The state code of an axis (0 x to 3 w). -/
def stOf (st a : Nat) : Nat := st / 16 ^ a % 16
def Dtd.buf (d : Dtd) (m : Nat) : DWord := d.base + d.mstride * BitVec.ofNat 64 m
def Dtd.stageOf (d : Dtd) (m : Nat) : DWord := d.stage + d.mstride * BitVec.ofNat 64 m

/-- The sizes of the mesh's axes (Table 7.1); an unused axis has size 1. -/
def State.meshAt (s : State) (c k : Nat) : List Nat :=
  let v := s.vrd c k (s.ptabAt c k + 8#64) 8
  (List.range 4).map fun j => Nat.max 1 (v / 2 ^ (16 * j) % 65536)
def meshSize (ns : List Nat) : Nat := ns.foldl (· * ·) 1
/-- The coordinate of a member on an axis, and the linear index with it replaced (R145). -/
def coordOf (ns : List Nat) (m a : Nat) : Nat := m / meshSize (ns.take a) % ns.getD a 1
def withCoord (ns : List Nat) (m a v : Nat) : Nat := m + v * meshSize (ns.take a) - coordOf ns m a * meshSize (ns.take a)
/-- The axis group of a member in coordinate order. -/
def axisGroup (ns : List Nat) (m a : Nat) : List Nat := (List.range (ns.getD a 1)).map fun v => withCoord ns m a v

/-- The entry of the member map for a member (Table 7.2). -/
def State.memberEntry (s : State) (c k m : Nat) : DWord :=
  let mmap := BitVec.ofNat 64 (s.vrd c k (s.ptabAt c k + 16#64) 8)
  BitVec.ofNat 64 (s.vrd c k (mmap + BitVec.ofNat 64 (8 * m)) 8)
/-- The member that the region of a context slot is (R145, R146); one that no entry of the map names acts as member 0, on which the spec is silent (DESIGN
CHOICE, log 137). -/
def State.memberAt (s : State) (c k : Nat) : Nat :=
  let ix := match s.region? c k with
    | some r => r.index
    | none => 0
  ((List.range (meshSize (s.meshAt c k))).find? fun m => decide ((s.memberEntry c k m).bits 63 48 = ix)).getD 0

/-- The bytes of an element of a DTD type: fx128 takes 16; two 4-bit elements share a byte (R82, R298). -/
def dtdBytes (ty : Nat) : Nat := match ty with
  | 13 => 16
  | 2 => 8
  | 4 | 5 => 2
  | 6 | 7 | 8 | 9 | 10 | 11 | 12 => 1
  | _ => 4

/-- The places of the members in linear order (R145, R146): cluster and slot, none for a member with no region here. -/
def State.meshPlaces (s : State) (c k : Nat) : List (Option (Nat × Nat)) := match s.ctxAt c k with
  | none => []
  | some x => (List.range (meshSize (s.meshAt c k))).map fun m => x.places[(s.memberEntry c k m).bits 63 48]?

/-- Writes a doubleword of a table at a virtual address of the context; one that does not translate is not written, and one of another node's
is sent (R334). -/
def State.vwr (s : State) (c k : Nat) (va : DWord) (v : DWord) : State := match s.translate c true (s.rootAt c k) va .store with
  | (s1, .ok key) =>
    if isFar key then (s1.wr64 key v).farTransfer key (dwordsOf 8 v.toNat)
    else (s1.wrAt (s1.rootAt c k) va key 8 v.toNat).countHbm key true
  | (s1, .error _) => s1

/-- Sets or clears busy in the copy of a DTD. -/
def State.setBusy (s : State) (c k i : Nat) (b : Bool) : State :=
  let d := s.dtdAt c k i
  s.vwr c k (dtdAddr (s.ptabAt c k) i) ((d.w0 &&& ~~~(1#64 <<< 33)) ||| (if b then 1#64 <<< 33 else 0))

/-- The owner number of the ranges that a collective, and that a conversion, enters at a member (R154, R310). -/
def clOwner (c k id : Nat) : Nat := (4 * c + k + 1) * 2 ^ 24 + id
def convOwner (p : Nat × Nat) (id : Nat) : Nat := (1537 + 4 * p.1 + p.2) * 2 ^ 24 + id
/-- Entries of the range table that a member holds: R143 gives a context 32 entries, and R154 has each member enter its own; the 32 are taken as each member's
(DESIGN CHOICE, log 134). -/
def Ctx.rangesAt (x : Ctx) (c k : Nat) : Nat := (x.ranges.filter fun r =>
  decide (r.owner / 2 ^ 24 = 4 * c + k + 1) || decide (r.owner / 2 ^ 24 = 1537 + 4 * c + k)).length
def Ctx.release (x : Ctx) (owner : Nat) : Ctx := { x with ranges := x.ranges.filter fun r => decide (r.owner ≠ owner) }
/-- The ranges of a conversion are removed at every member. -/
def Ctx.releaseConv (x : Ctx) (op : CollOp) : Ctx := op.places.foldl (fun x p => x.release (convOwner p op.id)) x

/-- The conversion of a DTD that a context has in flight. -/
def Ctx.conv? (x : Ctx) (i : Nat) : Option CollOp := x.colls.find? fun op => decide (op.dtd = i)

/-- The outstanding demands of a member on a DTD: those of its PL commands, made at their commits, and of its PLD and PST runs (R153, R154). -/
def State.demandsAt (s : State) (p : Nat × Nat) (i : Nat) : List Nat :=
  let st := s.stream p.1 p.2
  ((st.issued ++ st.queues.get [] 7).filterMap fun x => if x.q = 7 ∧ !x.done ∧ x.a.bits 9 0 = i then some (x.c.bits 15 0) else none) ++
  (List.range 32).flatMap fun m => match s.elem? p.1 (meSite m) p.2 with
    | none => []
    | some e => e.runs.filterMap fun r => match r.waitsJoin, r.demand with
      | true, some (j, st) => if j = i then some st else none
      | _, _ => none

/-- A member enters its buffer and staging area for a conversion, if its range table has room (R143, R154). -/
def State.enterConv (s : State) (cid : Nat) (op : CollOp) (d : Dtd) (m : Nat) (p : Nat × Nat) : Option State := match s.ctx? cid with
  | none => none
  | some x =>
    let o := convOwner p op.id
    let one (a : DWord) : Held := ⟨o, a.toNat, a.toNat + d.cap.toNat⟩
    if x.ranges.any fun r => decide (r.owner = o) then some s
    else if x.rangesAt p.1 p.2 + 2 > 32 then none
    else some (s.modCtx cid fun x => { x with ranges := x.ranges ++ [one (d.buf m), one (d.stageOf m)] })

/-- A demand at a member starts a conversion (R154), where busy is clear, none is in flight and the demand differs from the state: busy is set and
the member's buffer and staging area are entered, once the range table has room. The other members enter theirs at the rendezvous. What they
have demanded by now, they have demanded at this generation, and what they demand from now on waits for the join (R155; DEDUCED, log 110). -/
def State.forkConv (s : State) (c k i st : Nat) : State :=
  match s.ctxAt c k with
  | none => s
  | some x =>
    let d := s.dtdAt c k i
    let ps := s.meshPlaces c k
    let qs := ps.filterMap id
    if d.busy ∨ (x.conv? i).isSome ∨ d.st = st then s
    else
      let rival := (qs.filter fun p => decide (p ≠ (c, k))).any fun p =>
        let l := s.demandsAt p i
        !l.isEmpty && !(l.contains st)
      let op : CollOp :=
        { id := i * 2 ^ 14 + d.gen, dtd := i, target := st, done := d.done, places := qs, rival := rival, away := decide (qs.length < ps.length) }
      match s.enterConv (s.cidAt c k) op d (s.memberAt c k) (c, k) with
      | none => s
      | some s1 => (s1.setBusy c k i true).modCtx (s.cidAt c k) fun x => { x with colls := x.colls ++ [op] }

end Sys2Proof.Machine
end

