-- ==== Sys2Proof/Machine/Records.lean ====
section
/-! DEFINITION. The fault queue of a die (R390, Tables 20.3 and 20.4), writes to node addresses, and the refusal of a command
(R357). -/
namespace Sys2Proof.Machine

/-- A write of n bytes at an address of a node (R332, R390): this module's own local HBM, or a flit with ord set to a peer module or a host. -/
def State.nodeWrite (s : State) (node addr n v : Nat) : State :=
  if node = Config.moduleId.toNat then s.wr (hbm addr) n v
  else s.farTransfer (memKey (if node < 2048 then 3 else 4) node addr) (dwordsOf n v) true

/-- What a fault record says (Table 20.4). -/
structure FaultInfo where
  kind : Nat
  code : Nat
  detail : Nat
  cluster : Nat := 0
  site : Nat := 0x3F
  desc : Nat := 0
  slot : Nat := 0
  acc : Nat := 0
  cid : Nat := 0
  va : DWord := 0
  root : DWord := 0
  pos : Nat := 0
  cmd : DWord := 0

/-- The 64 bytes of a record (Table 20.4). -/
def FaultInfo.words (i : FaultInfo) (seq : Nat) : List DWord :=
  [BitVec.ofNat 64 (i.kind * 2 ^ 56 + i.code % 256 * 2 ^ 48 + i.detail % 256 * 2 ^ 40 + i.cluster % 48 * 2 ^ 34 + i.site % 64 * 2 ^ 28 +
      i.desc % 16 * 2 ^ 24 + i.slot % 4 * 2 ^ 22 + i.acc % 4 * 2 ^ 20 + i.cid % 2 ^ 16),
   i.va, i.root, BitVec.ofNat 64 i.pos, BitVec.ofNat 64 (seq % 2 ^ 32 * 2 ^ 32), i.cmd, 0, 0]

/-- Writes doublewords in order from a key. -/
def State.wrWords (s : State) (key : Nat) (ws : List DWord) : State :=
  (ws.foldl (fun (a : State × Nat) w => (a.1.wr64 a.2 w, a.2 + 8)) (s, key)).1

/-- A record enters a die's fault queue and its notify is sent (R390); none where the ring is full. -/
def State.postFault (s : State) (d : Nat) (i : FaultInfo) (l : Locus) : State × Option Nat :=
  let x := s.die d
  if (x.fqtail.toNat + 128 - x.fqhead.toNat) % 128 ≥ 64 then (s, none)
  else
    let seq := x.fseq
    let ws := i.words seq
    let tail := x.fqtail + 1
    let r : FaultRec := { seq := seq, words := ws, locus := l, cid := i.cid, va := i.va, code := i.code, detail := i.detail }
    let s1 := s.wrWords (hbm (x.fqbase.toNat / 4096 * 4096 + 64 * (x.fqtail.toNat % 64))) ws
    let s2 := s1.modDie d fun x => { x with fqtail := tail, fseq := x.fseq + 1, records := x.records ++ [r] }
    let a := x.fqntf.bits 47 0
    (if a = 0 then s2 else s2.nodeWrite (x.fqntf.bits 59 48) a 8 tail.toNat, some seq)

/-- The access code of a record (Table 20.4). -/
def accCode : Access → Nat
  | .store => 1
  | .atomic => 2
  | _ => 0

/-! ### Commands of a stream -/

/-- Changes an issued command of the stream of context slot k. -/
def State.modIssued (s : State) (c k id : Nat) (f : Cmd → Cmd) : State :=
  s.modStream c k fun st => { st with issued := st.issued.map fun x => if x.id = id then f x else x }
/-- The issued command of a stream with an id. -/
def State.issuedCmd? (s : State) (c k id : Nat) : Option Cmd := (s.stream c k).issued.find? fun x => decide (x.id = id)
/-- The effects of a command are done (R55). -/
def State.cmdDone (s : State) (c k id inc status : Nat) : State :=
  if id = 0 then s else s.modIssued c k id fun x => { x with done := true, inc := inc, status := status }

/-- What a refused command reports in trapaddr (R357): the descriptor address, or word 0 of an MX command. -/
def Cmd.reportAddr (x : Cmd) : DWord := if x.q = 0 then (x.a.truncate 32 : Word).zeroExtend 64 else x.a

/-- A command is refused with a reason of Table 18.2 (R357): its object takes status ERROR and the stream an asynchronous trap; for a
stream that has exited the context ends (R367). -/
def State.refuse (s : State) (c k : Nat) (cmd : Cmd) (reason : Nat) : State :=
  let s1 := (s.signalCmd c k cmd 0 stError).modStream c k fun st =>
    { st with issued := st.issued.filter fun x => decide (x.id ≠ cmd.id) }
  let code := if cmd.q = 8 then 0x0A else 0x0D
  let st := s1.stream c k
  if st.phase = .exiting ∨ st.phase = .exited then
    s1.faultEnd (s1.cidAt c k) code (0x80 + reason) st.exitBlk cmd.reportAddr 0
  else s1.modStream c k fun st => { st with asyncs := st.asyncs ++ [⟨code, 0x80 + reason, cmd.reportAddr⟩] }

end Sys2Proof.Machine
end

