-- ==== Sys2Proof/Machine/Scratch.lean ====
section
/-! DEFINITION. Scratchpad, its shares and check bits (R108 to R110, R380, R381), the tile table and operand rings (R111 to R113), and
the tag table (R114 to R116). -/
namespace Sys2Proof.Machine

/-! ### Scratchpad -/

/-- The share of a context in an ME: its base and length (R109). -/
def State.shareOf (s : State) (c k m : Nat) : Nat × Nat := match s.elem? c (meSite m) k with
  | some e => (e.shareBase, e.share)
  | none => (0, 0)
/-- The scratchpad address of n bytes at an offset of a share; none beyond the share (R108, R109, R395). -/
def State.spAddr (s : State) (c k m off n : Nat) : Option Nat :=
  let (b, len) := s.shareOf c k m
  if off + n ≤ len then some (m * 65536 + b + off) else none

/-- What an unwritten scratchpad byte reads as. DESIGN CHOICE (log 4): zero. -/
def spBlank : Byte := 0

/-- The 32-bit words that n bytes at an address meet (R110). -/
def wordsOf (addr n : Nat) : List Nat := if n = 0 then [] else (List.range ((addr + n - 1) / 4 + 1 - addr / 4)).map fun i => addr / 4 + i

/-- A read of n bytes (R380): the value, and whether it met an uncorrectable or poisoned word. An uncorrectable word becomes poisoned. -/
def Cluster.spRead (x : Cluster) (addr n : Nat) : Cluster × Nat × Bool :=
  let ws := wordsOf addr n
  let mark (w : Nat) : Nat := x.spadMark.get 0 w
  ({ x with spadMark := ws.foldl (fun m w => if Map.get 0 m w = 2 then Map.put 0 m w 3 else m) x.spadMark },
    readLe x.spad addr n, ws.any fun w => decide (mark w ≥ 2))

/-- A write of n bytes (R110, R381, R383): a whole word replaces the word and its mark; a part of an uncorrectable or poisoned word is
abandoned, and the answer says so. -/
def Cluster.spWrite (x : Cluster) (addr n v : Nat) (poison : Bool) : Cluster × Bool :=
  (wordsOf addr n).foldl (fun (a : Cluster × Bool) w =>
    let lo := Nat.max addr (4 * w)
    let len := Nat.min (addr + n) (4 * w + 4) - lo
    let m := a.1.spadMark.get 0 w
    if len < 4 ∧ m ≥ 2 then ({ a.1 with spadMark := Map.put 0 a.1.spadMark w 3 }, true)
    else ({ a.1 with
        spad := writeLe a.1.spad lo len (v / 256 ^ (lo - addr)),
        spadMark := Map.put 0 a.1.spadMark w (if poison then 3 else 0) }, a.2)) (x, false)

/-! ### Tile entries (Table 5.1) and rings (Table 5.3) -/

/-- Replaces bits [hi:lo] of a doubleword. -/
def setField (x : DWord) (hi lo v : Nat) : DWord :=
  let m := (2 ^ (hi + 1 - lo) - 1) * 2 ^ lo
  BitVec.ofNat 64 (x.toNat - (x.toNat &&& m) + v % 2 ^ (hi + 1 - lo) * 2 ^ lo)

abbrev TileE := DWord
def tEmpty : Nat := 0
def tFilling : Nat := 1
def tReady : Nat := 2
def tDraining : Nat := 3
def tileState (e : TileE) : Nat := e.bits 63 62
def tileMe (e : TileE) : Nat := e.bits 59 55
/-- Offset of a tile in the share, in bytes. -/
def tileOff (e : TileE) : Nat := 64 * e.bits 54 45
/-- Length of a tile in bytes. -/
def tileLen (e : TileE) : Nat := 64 * (e.bits 44 38 + 1)
def tileInRing (e : TileE) : Bool := e.getLsbD 33
def tileRing (e : TileE) : Nat := e.bits 32 29
def tileNext (e : TileE) : Nat := e.bits 28 21

def Cluster.tile (x : Cluster) (t : Nat) : TileE := x.tiles.get 0 t
def Cluster.setTile (x : Cluster) (t : Nat) (e : TileE) : Cluster := { x with tiles := Map.put 0 x.tiles t e }
def Cluster.tileTo (x : Cluster) (t st : Nat) : Cluster := x.setTile t (setField (x.tile t) 63 62 st)
def Cluster.ring (x : Cluster) (r : Nat) : Word := x.rings.get 0 r
def ringKeep (w : Word) : Bool := w.getLsbD 31
def ringCount (w : Word) : Nat := w.bits 12 4

/-- The members of a ring from head to tail (R113). -/
def Cluster.membersFrom (x : Cluster) : Nat → Nat → List Nat
  | 0, _ => []
  | n + 1, t => t :: x.membersFrom n (tileNext (x.tile t))
def Cluster.members (x : Cluster) (r : Nat) : List Nat := x.membersFrom (ringCount (x.ring r)) ((x.ring r).bits 28 21)

/-- Links the tiles of a list in its order and writes the ring's head, tail and count; old members leave the ring (R113). -/
def Cluster.setMembers (x : Cluster) (r : Nat) (l : List Nat) : Cluster :=
  let x1 := (x.members r).foldl (fun (x : Cluster) t => x.setTile t (setField (x.tile t) 33 21 0)) x
  let link (x : Cluster) (q : Nat × Nat) : Cluster := x.setTile q.1 (setField (x.tile q.1) 33 21 (2 ^ 12 + r * 2 ^ 8 + q.2))
  let x2 := (l.zip (l.drop 1 ++ [0])).foldl link x1
  let w := x2.ring r
  let keep : Nat := w.bits 31 29
  { x2 with rings := Map.put 0 x2.rings r (BitVec.ofNat 32 (keep * 2 ^ 29 + l.headD 0 * 2 ^ 21 + (l.getLast?).getD 0 * 2 ^ 13 + l.length * 2 ^ 4)) }

/-- A tile leaves the ring it is in. -/
def Cluster.leaveRing (x : Cluster) (t : Nat) : Cluster :=
  let e := x.tile t
  if tileInRing e then x.setMembers (tileRing e) ((x.members (tileRing e)).filter fun m => decide (m ≠ t)) else x

def Cluster.useTile (x : Cluster) (t : Nat) : Cluster := { x with tileUse := Map.put 0 x.tileUse t (x.tileUse.get 0 t + 1) }
def Cluster.unuseTile (x : Cluster) (t : Nat) : Cluster := { x with tileUse := Map.put 0 x.tileUse t (x.tileUse.get 0 t - 1) }

/-- The tile becomes EMPTY and leaves its ring (Table 5.2). -/
def Cluster.emptyTile (x : Cluster) (t : Nat) : Cluster := (x.leaveRing t).tileTo t tEmpty

/-- The head of a ring is popped by the retirement of an MMA (Table 5.2): with keep it moves to the tail and stays READY. -/
def Cluster.popHead (x : Cluster) (r : Nat) : Cluster :=
  match x.members r with
  | [] => x
  | t :: rest => if ringKeep (x.ring r) then x.setMembers r (rest ++ [t]) else (x.setMembers r rest).tileTo t tEmpty

/-- A context owns a tile or a ring that its pricking declares (R111, R113). -/
def State.ownsTile (s : State) (c k t : Nat) : Bool := match s.region? c k with
  | some r => r.tiles.contains t
  | none => false
def State.ownsRing (s : State) (c k n : Nat) : Bool := match s.region? c k with
  | some r => r.rings.contains n
  | none => false

/-- The scratchpad address of n bytes at an offset of a tile of the context; none beyond the share (R395). -/
def State.tileAddr (s : State) (c k t off n : Nat) : Option Nat :=
  let e := (s.cluster c).tile t
  s.spAddr c k (tileMe e) (tileOff e + off) n

/-! ### The tag table (Table 5.4) -/

def tagSet (key : Nat) : Nat := (key % 128) ^^^ (key / 128 % 128)
def tagEntry (d ctx slot key : Nat) : DWord := BitVec.ofNat 64 (2 ^ 63 + d % 2 * 2 ^ 62 + ctx % 4 * 2 ^ 60 + slot % 4096 * 2 ^ 48 + key % 2 ^ 48)
/-- The entry of a context and key: its index (R115). -/
def Cluster.tagFind (x : Cluster) (k key : Nat) : Option Nat :=
  ((List.range 8).map fun w => 8 * tagSet key + w).find? fun i =>
    let e : DWord := x.tags.get 0 i
    e.getLsbD 63 && decide (e.bits 61 60 = k) && decide (e.bits 47 0 = key)
/-- A lookup: the slot, or the miss code (R115). -/
def Cluster.tagLook (x : Cluster) (k key : Nat) : Nat := match x.tagFind k key with
  | some i => DWord.bits (x.tags.get 0 i) 59 48
  | none => 0xFFF
/-- Where an insertion places its entry: over the context's entry of the key, else in the lowest invalid way (R115). -/
def Cluster.tagPlace (x : Cluster) (k key : Nat) : Option Nat := match x.tagFind k key with
  | some i => some i
  | none => ((List.range 8).map fun w => 8 * tagSet key + w).find? fun i => !(BitVec.getLsbD (x.tags.get (0 : DWord) i) 63)
/-- An insertion: the table and the slot, or the miss code of a full set (R115). -/
def Cluster.tagInsert (x : Cluster) (k key slot d : Nat) : Cluster × Nat := match x.tagPlace k key with
  | some i => ({ x with tags := x.tags.set i (tagEntry d k slot key) }, slot % 4096)
  | none => (x, 0xFFF)

end Sys2Proof.Machine
end

