-- ==== Sys2Proof/Machine/Streams.lean ====
section
/-! DEFINITION. Stream descriptors and their runs (R286 to R289, R388, R389): one memory access of a run, its replies, and what a run
reads, writes and emits. -/
namespace Sys2Proof.Machine

/-! ### Descriptors (Table 12.1) -/

abbrev DescW := List DWord
def Elem.descAt (e : Elem) (n : Nat) : DescW := match e.unit with
  | some u => u.descs.get [] n
  | none => []
def dw (d : DescW) (i : Nat) : DWord := d.getD i 0
def dBase (d : DescW) : DWord := dw d 0
def dSpan (d : DescW) : Nat := (dw d 1).toNat
def dLevels (d : DescW) : Nat := (dw d 6).bits 53 52 + 1
/-- The count of a level; levels above nlev count 1 (R287). -/
def dCnt (d : DescW) (j : Nat) : Nat := if j < dLevels d then (dw d (2 + j)).bits 63 48 else 1
def dStr (d : DescW) (j : Nat) : Int := signedOf 48 ((dw d (2 + j)).bits 47 0)
def dTile (d : DescW) : Nat := (dw d 6).bits 63 56
def dTdst (d : DescW) : Bool := (dw d 6).getLsbD 55
def dNear (d : DescW) : Bool := (dw d 6).getLsbD 54
def dColour (d : DescW) : Nat := (dw d 6).bits 51 46
def dWid (d : DescW) : Nat := (dw d 6).bits 45 41 + 1
def dArv (d : DescW) : Bool := (dw d 6).getLsbD 40
def dAux (d : DescW) : DWord := dw d 7
/-- Elements of an affine run. -/
def dTotal (d : DescW) : Nat := dCnt d 0 * dCnt d 1 * dCnt d 2 * dCnt d 3
/-- The index of element i on a level, level 0 innermost (R287). -/
def dIndex (d : DescW) (i j : Nat) : Nat := match j with
  | 0 => i % dCnt d 0
  | 1 => i / dCnt d 0 % dCnt d 1
  | 2 => i / (dCnt d 0 * dCnt d 1) % dCnt d 2
  | _ => i / (dCnt d 0 * dCnt d 1 * dCnt d 2)
/-- The offset of element i from base (R287). -/
def dOffset (d : DescW) (i : Nat) : Int :=
  ((List.range 4).map fun j => if j < dLevels d then (dIndex d i j : Int) * dStr d j else 0).foldl (· + ·) 0
/-- The position of element i in a record (Table 20.4). -/
def dPos (d : DescW) (i : Nat) : Nat := ((List.range 4).map fun j => dIndex d i j % 65536 * 65536 ^ j).foldl (· + ·) 0

/-! ### Runs of an element -/

/-- The run of a descriptor that moves: the first that was started (R286). -/
def Elem.active (e : Elem) (desc : Nat) : Option Run := e.runs.find? fun r => decide (r.desc = desc)
def replaceFirst (r : Run) : List Run → List Run
  | [] => []
  | x :: l => if x.desc = r.desc then r :: l else x :: replaceFirst r l
def dropFirst (desc : Nat) : List Run → List Run
  | [] => []
  | x :: l => if x.desc = desc then l else x :: dropFirst desc l
def State.setRun (s : State) (c site k : Nat) (r : Run) : State := s.modElem c site k fun e => { e with runs := replaceFirst r e.runs }

/-- A run with where it is: its element, governing slot and descriptor. -/
structure RunAt where
  c : Nat
  k : Nat
  site : Nat
  e : Elem
  info : SlotInfo
  d : DescW
  deriving Repr

/-- The run of a descriptor, where it may issue: its context runs and is not frozen, and no stream barrier holds it (R299, R364). -/
def State.runAt (s : State) (c site k desc : Nat) : Option (RunAt × Run) :=
  match s.elem? c site k, s.region? c k with
  | some e, some rg =>
    if !(s.running c k) || rg.frozen || e.snapped || e.unit.isNone then none
    else match e.active desc with
      | none => none
      | some r => (e.slotInfo site r.slot).map fun info => ({ c := c, k := k, site := site, e := e, info := info, d := e.descAt desc }, r)
  | _, _ => none

/-- The number by which a run, or a slot of an ME with an access of its own, asks another node. -/
def farRun (c k site desc : Nat) : Nat := 2 ^ 20 + ((64 * c + site) * 4 + k) * 256 + desc

/-- A stream barrier holds a run, except for an access that it issued before: one retried, or one that another node answers (R299, R334, R391). -/
def State.runHeld (s : State) (x : RunAt) (r : Run) : Bool :=
  !r.retried && !(s.farReads.any fun q => decide (q.who = farRun x.c x.k x.site r.desc)) && x.e.held.any fun h => decide (h.1 = r.desc)
/-- A run has issued an access that is not performed: one that stalls or is retried, or whose answer another node owes. -/
def State.runOwes (s : State) (c k site : Nat) (r : Run) : Bool :=
  r.stalled.isSome || r.retried || s.farReads.any fun q => decide (q.who = farRun c k site r.desc)
/-- The firing whose operands a run holds at their ports. -/
def RunAt.firing (x : RunAt) (r : Run) : Firing :=
  { c := x.c, k := x.k, site := x.site, slot := r.slot, info := x.info, a := r.a, b := r.b, x := r.x, ent := r.ent }

/-- The operands that a run still holds at their ports. -/
def RunAt.owed (x : RunAt) (r : Run) : List (Nat × Token) := if r.holds then (x.firing r).taken [] else []

/-! ### Replies (R17, R138, R192, R285) -/

/-- A reply leaves, and operands are taken in the same batch (R69); false where it must wait for room. An AG stream that produces changes is a
source (R68, R73): the change that started its run stands at its port until the last reply, and holds its time there. A data reply of another width than its colour's is the ERR token WIDTH (R242, R359; DEDUCED, log 57). -/
def State.replyOut (s : State) (f : Firing) (t0 : Option Token) (ts : List (Nat × Token)) : State × Bool :=
  let cid := s.cidAt f.c f.k
  let t := t0.map fun t => if s.widthBad f.c f.k t then
      errToken 0x02 1 f.site ((descOf f.info.i).getD f.slot) t.colour t.tag t.last else t
  let edge := s.memEdge f.c f.site f.k f.slot
  let sent := t.map fun t => { t with chan := BitVec.ofNat 5 f.slot, ctx := BitVec.ofNat 2 f.k, slot := BitVec.ofNat 4 f.slot, port := 0 }
  let up := match sent with
    | none => []
    | some t => match edge with
      | some n =>
        if t.kind ≠ kChg then []
        else (s.edgeDest f.c f.k (56 + 2 * n) 2 f.slot { t with slot := BitVec.ofNat 4 f.slot }).map fun l => ⟨l, t.time, 1⟩
      | none => s.emitUps f.c f.site f.k f.slot 0 none t
  let ups := up ++ ts.flatMap fun q => s.takeUps f.c f.site f.k f.slot q.1 q.2
  let who := 4096 * f.c + 16 * f.site + f.slot
  let source := (descOf f.info.i).isSome
  if !(s.muRoom cid ups source) then (s.muWait cid who ups source, false)
  else
    let out : Option State := match sent with
      | none => some s
      | some t => match edge with
        | some n => s.enterEdge f.c (.mem n) t
        | none => match s.elem? f.c f.site f.k with
          | some e => if e.room f.slot 0 then some (s.modElem f.c f.site f.k fun e => e.send f.k f.slot 0 none t) else none
          | none => none
    match out with
    | none => (s, false)
    | some s1 =>
      ((((s1.modElem f.c f.site f.k fun e => e.take f ts).muApply cid ups).muGo cid who ups).settle f.c f.site, true)

/-- The ERR token of a run (R359, R370): A's colour, tag and last, or the run's colour and base where `enq ag` started it. -/
def State.runErr (s : State) (x : RunAt) (r : Run) (code count : Nat) : Token :=
  match r.a with
  | some a => errToken code count x.site (r.desc % 16) a.colour a.tag a.last
  | none =>
    let col := dColour x.d
    errToken code count x.site r.desc (BitVec.ofNat 6 col) (BitVec.ofNat 12 (s.rangeOf x.c x.k col).base) false

/-- A result of fewer than four lanes is no change (Table 2.3; DEDUCED, log 14). -/
def resultKind (a : Option Token) (w : Nat) : BitVec 3 := match a with
  | some t => if w ≥ 4 then t.kind else kDense
  | none => kDense

/-- The next data token of a run (R288). -/
def State.runToken (s : State) (x : RunAt) (r : Run) (lanes : List Word) (poison last : Bool) : Token :=
  let col := dColour x.d
  let al := s.rangeOf x.c x.k col
  let t0 : Int := match r.a with
    | some t => t.tag.toNat
    | none => al.base
  let tag := al.base + ((t0 - al.base + r.emitted) % (al.n : Int)).toNat
  let own := match r.a with
    | some t => t.poison
    | none => false
  { kind := resultKind r.a lanes.length, colour := BitVec.ofNat 6 col, tag := BitVec.ofNat 12 tag, poison := poison || own,
    last := last, lanes := lanes }
/-- The EOS that flag [1] adds (R288). -/
def State.runEos (s : State) (x : RunAt) (r : Run) : Token :=
  { s.runToken x { r with emitted := 0 } [0] false false with kind := kEos, poison := false }

/-- Flags [0] and [1] of an ags word (R288). -/
def flagsOf : Instr → Bool × Bool
  | .agsRd w | .agsWr w | .agsRdcf w | .agsWrcf w => (w.flags.getLsbD 0, w.flags.getLsbD 1)
  | _ => (false, false)

/-! ### One access of a run (R119, R143, R388, R389) -/

/-- What an access does at its home; an atomic names the doublewords in which it travels to another node's (R334). The
update of a barrier is checked as a write (R47, R297). -/
inductive AgAct where
  | read
  | write (v : Nat) (poison : Bool)
  | atomic (f : Nat → Nat) (words : List DWord) (poison : Bool)
  | update (f : Nat → Nat) (words : List DWord)
  | scrub

def AgAct.acc : AgAct → Access
  | .read => .load
  | .write _ _ => .store
  | .atomic _ _ _ => .atomic
  | .update _ _ => .store
  | .scrub => .load

/-- The access as a fault record shows it: a barrier's arrival is atomic (R297, Table 20.4). -/
def AgAct.shown : AgAct → Access
  | .update _ _ => .atomic
  | a => a.acc

/-- A scrub of the line at a key (R313, R386): its bit, and whether it was uncorrectable or marked. -/
def State.scrubLine (s : State) (key : Nat) : State × Nat × Bool :=
  match s.mark key with
  | 0 => (s, 0, false)
  | 1 | 4 => ((if keyAp key = 0 then s.countDie (keyDie key) 0x104 else s).setMark key 0, 1, false)
  | 2 => (s.setMark key 3, 1, true)
  | _ => (s, 1, true)

/-- An access through aperture 3 or 4 (R118, R334): its value and whether it met poison; else the code and detail of its refusal, or code 0 while
its answer is awaited. A refusal for poison delivers poison (R392). A scrub passes no line of another node. -/
def State.farAct (s : State) (who key n : Nat) (act : AgAct) : State × Except (Nat × Nat) (Nat × Bool) :=
  let ask (q : FarReq) : State × Except (Nat × Nat) (Nat × Bool) := match s.farAsk who key n q with
    | (s1, none) => (s1, .error (0, 0))
    | (s1, some .good) => (s1, .ok (if q.isWrite then 0 else s1.rd key n, false))
    | (s1, some (.bad code d)) => if code = 8 then (s1, .ok (0, true)) else (s1.farTake who key, .error (code, d))
  match act with
  | .read => ask .read
  | .write v poison => ask (.write (storeWords n v poison))
  | .atomic _ ws _ => ask (.amo ws)
  | .update _ ws => ask (.write ws)
  | .scrub => (s, .ok (0, false))

/-- The home of an AG access, or the code and detail it meets; RANGE 2 for an entered range (R143, R388). -/
def State.agHome (s : State) (c k : Nat) (va : DWord) (n : Nat) (acc : Access) : State × Except (Nat × Nat) Nat :=
  match s.translate c true (s.rootAt c k) va acc with
  | (s1, .error e) => (s1, .error e)
  | (s1, .ok key) => match s1.ctxAt c k with
    | some x => if x.entered va.toNat n then (s1, .error (5, 2)) else (s1, .ok key)
    | none => (s1, .ok key)

/-- A line receives poisoned data and is marked (R383): a write in progress that began before does not clear that mark. -/
def State.poisonLine (s : State) (k : Nat) : State :=
  let run (r : Run) : Run := if r.cov ≠ 0 ∧ (r.cov - 1) / 64 = k / 64 then { r with cov := 0 } else r
  let elem (e : Elem) : Elem := if e.runs.any fun r => decide (r.cov ≠ 0) then { e with runs := e.runs.map run } else e
  let site (x : Site) : Site := { x with elems := x.elems.map fun e => (e.1, elem e.2) }
  { s.setMark k 3 with clusters := s.clusters.map fun e => (e.1, { e.2 with sites := e.2.sites.map fun q => (q.1, site q.2) }) }

/-- An access at its home: value, poison found, and the end of the contiguous bytes written. Poisoned data marks its lines, and writes
that cover a line from its first byte to its last clear its mark (R383). -/
def State.atHome (s : State) (key n cov : Nat) (act : AgAct) : State × Nat × Bool × Nat :=
  match act with
  | .read =>
    let (s1, bad) := s.touch key n
    (s1.countHbm key false, s1.rd key n, decide (bad ≠ 0), 0)
  | .write v poison =>
    let s1 := (s.wrKeep key n v).countHbm key true
    if poison then
      ((List.range ((key + n - 1) / 64 + 1 - key / 64)).foldl (fun s i => s.poisonLine ((key / 64 + i) * 64)) s1, 0, false, 0)
    else
      let e := if key % 64 = 0 ∨ cov = key then key + n else 0
      (if e ≠ 0 ∧ e % 64 = 0 then s1.setMark (e - 64) 0 else s1, 0, false, e)
  | .atomic f _ poison =>
    let (s1, bad) := s.touch key n
    if bad ≠ 0 then (s1, 0, true, 0)
    else
      let s2 := (s1.wrKeep key n (f (s1.rd key n))).countHbm key true
      (if poison then s2.poisonLine key else s2, s1.rd key n, false, 0)
  | .update f _ =>
    let (s1, bad) := s.touch key n
    if bad ≠ 0 then (s1, 0, true, 0) else ((s1.wrKeep key n (f (s1.rd key n))).countHbm key true, s1.rd key n, false, 0)
  | .scrub =>
    let (s1, v, bad) := s.scrubLine key
    (s1.countHbm key false, v, bad, 0)

/-- A stream stalls on an access (R389, R390): a record of kind 1; where the queue has no room it waits. -/
def State.agStall (s : State) (c k site desc sel : Nat) (code detail : Nat) (va : DWord) (acc : Access) (pos : Nat) : State × Option Nat :=
  s.postFault (dieOf c)
    { kind := 1, code := code, detail := detail, cluster := c, site := site, desc := desc, slot := k, acc := accCode acc,
      cid := s.cidAt c k, va := va, root := s.rootAt c k, pos := pos,
      cmd := BitVec.ofNat 64 (match s.region? c k with
        | some r => r.image
        | none => 0) }
    { cluster := c, ctx := k, site := site, slot := desc, sel := sel }

/-- What a run does at an access that is not made. Code 0 waits. A PLD or PST (`exempt`), and a run retried after a record of RANGE, wait for an entered
range in place of stalling (R143, R391). -/
def State.runStall (s : State) (x : RunAt) (r : Run) (exempt : Bool) (code d : Nat) (va : DWord) (act : AgAct) (pos : Nat) :
    State × Run × Option (Nat × Bool) :=
  if code = 0 ∨ (code = 5 ∧ (exempt ∨ r.ranged)) then (s, r, none)
  else match s.agStall x.c x.k x.site r.desc r.desc code d va act.shown pos with
    | (s1, some q) => (s1, { r with stalled := some q }, none)
    | (s1, none) => (s1, r, none)
/-- One access of a run: none where the run stalls or waits, else the value and whether it met poison. -/
def State.runMem (s : State) (x : RunAt) (r : Run) (exempt : Bool) (va : DWord) (n : Nat) (act : AgAct) (pos : Nat) :
    State × Run × Option (Nat × Bool) :=
  match s.agHome x.c x.k va n act.acc with
  | (s1, .ok key) =>
    if isFar key then match s1.farAct (farRun x.c x.k x.site r.desc) key n act with
      | (s2, .ok v) => (s2, { r with retried := false, ranged := false }, some v)
      | (s2, .error (code, d)) => s2.runStall x r exempt code d va act pos
    else
      let (s2, v, bad, cov) := s1.atHome key n r.cov act
      let s3 := if accWrites act.acc then s2.setProt key n (s2.protAt (s2.rootAt x.c x.k) va) else s2
      (s3, { r with cov := cov, retried := false, ranged := false }, some (v, bad))
  | (s1, .error (code, d)) => s1.runStall x r exempt code d va act pos

/-! ### The elements of tokens -/

/-- The bytes of lanes as one number, lane 0 lowest, and element j of z bytes in it. -/
def lanesNat (l : List Word) : Nat := joinBits 32 (l.map BitVec.toNat)
def elemAt (z : Nat) (l : List Word) (j : Nat) : Nat := lanesNat l / 2 ^ (8 * z * j) % 2 ^ (8 * z)
/-- Packs elements of z bytes into w lanes. -/
def packTo (w z : Nat) (es : List Nat) : List Word := fitLanes w (packLanes (8 * z) es)

/-! ### Affine runs (R287, R288, R298) -/

def isPlaced : Instr → Bool
  | .pld _ | .pst _ => true
  | _ => false

/-- A run's end of the elements (R288): a tile destination is no longer in use and, with flag [0], becomes READY. -/
def State.endElems (s : State) (x : RunAt) (r : Run) (toTile : Bool) : State × Run :=
  let r1 := { r with isOver := true }
  if toTile then
    let t := dTile x.d
    let s1 := s.modCluster x.c fun y => y.unuseTile t
    if (flagsOf x.info.i).1 then
      if tileState ((s1.cluster x.c).tile t) = tFilling then (s1.modCluster x.c fun y => y.tileTo t tReady, r1)
      else (s1, { r1 with ready := r1.ready ++ [s.runErr x r 0x0A 1] })
    else (s1, r1)
  else (s, r1)

/-- Bytes go to the scratchpad (R288, R381, R395): the error code they meet, if any. -/
def State.spPut (s : State) (c : Nat) (addr : Option Nat) (n v : Nat) (poison : Bool) : State × Option Nat :=
  match addr with
  | none => (s, some 0x03)
  | some a =>
    let (y, ue) := (s.cluster c).spWrite a n v poison
    (s.modCluster c fun _ => y, if ue then some 0x10 else none)

/-- A written element's error is sent as an ERR token (R381, R395). -/
def State.noteErr (s : State) (x : RunAt) (r : Run) (e : Option Nat) : Run := match e with
  | none => r
  | some code => { r with ready := r.ready ++ [s.runErr x r code 1], error := true, poisoned := r.poisoned || decide (code = 0x10) }

/-- The elements read so far leave as a token once it is full or the run is over, with its CAP error (R288, R298). -/
def State.tokenUp (s : State) (x : RunAt) (r : Run) (total : Nat) : Run :=
  let w := dWid x.d
  let full := decide (r.part.length ≥ Nat.max 1 (4 * w / r.z))
  let fin := decide (r.pos ≥ total)
  if !(full || fin) then r
  else
    let last := (flagsOf x.info.i).1
    let t := s.runToken x r (packTo w r.z r.part) r.partPoison (last && fin)
    let cap := if r.missed = 0 then [] else [s.runErr x r 0x0D r.missed]
    { r with ready := r.ready ++ [t] ++ cap, part := [], partPoison := false, missed := 0, emitted := r.emitted + 1 }

/-- The virtual address of element i of an affine run. -/
def RunAt.addr (x : RunAt) (r : Run) (i : Nat) : DWord := r.base + BitVec.ofInt 64 (dOffset x.d i)
/-- An element of a pld or pst at or beyond cap is not accessed (R298). -/
def RunAt.beyond (x : RunAt) (r : Run) (i : Nat) : Bool := isPlaced x.info.i && decide ((x.addr r i - r.buf).toNat ≥ r.cap)

/-- The next element of a run that reads memory: to a token, to a tile or (ags.fill) to scratchpad (R288, R298). -/
def State.readElem (s : State) (x : RunAt) (r : Run) : State × Run :=
  let total := dTotal x.d
  let z := r.z
  let i := r.pos
  let fill := match x.info.i with
    | .agsFill _ => true
    | _ => false
  let toTile := dTdst x.d && !fill
  let t := dTile x.d
  if toTile ∧ i = 0 ∧ (tileState ((s.cluster x.c).tile t) ≠ tEmpty ∨ !(s.ownsTile x.c x.k t)) then
    (s, { r with ready := r.ready ++ [s.runErr x r 0x0A 1], error := true, isOver := true })
  else
    if toTile ∧ (i + 1) * z > tileLen ((s.cluster x.c).tile t) then
      s.endElems x { r with ready := r.ready ++ [s.runErr x r 0x0A (total - i)], error := true } true
    else
      let got := if x.beyond r i then (s, { r with missed := r.missed + 1, error := true }, some (0, false))
        else s.runMem x r (isPlaced x.info.i) (x.addr r i) z .read (dPos x.d i)
      match got with
      | (s1, r1, none) => (s1, r1)
      | (s0, r1, some (v, bad)) =>
        let s1 := if toTile ∧ i = 0 then s0.modCluster x.c fun y => (y.useTile t).tileTo t tFilling else s0
        let r2 := { r1 with
          pos := i + 1, moved := r1.moved + (if x.beyond r i then 0 else z), wrote := r1.wrote + (if toTile || fill then z else 0),
          poisoned := r1.poisoned || bad }
        if toTile || fill then
          let a := dAux x.d
          let addr := if fill then s1.spAddr x.c x.k (a.bits 20 16) (a.bits 15 0 + i * z) z else s1.tileAddr x.c x.k t (i * z) z
          let (s2, e) := s1.spPut x.c addr z v bad
          let r3 := s2.noteErr x r2 e
          let r4 := if r3.missed = 0 then r3 else { r3 with ready := r3.ready ++ [s2.runErr x r3 0x0D r3.missed], missed := 0 }
          if r4.pos ≥ total then s2.endElems x r4 toTile else (s2, r4)
        else
          let r3 := s1.tokenUp x { r2 with part := r2.part ++ [v], partPoison := r2.partPoison || bad } total
          (s1, { r3 with isOver := decide (r3.pos ≥ total) })

/-- The next element of a run that writes a tile's bytes to memory (R288, R298); a tile that is FILLING has no readers (R112). -/
def State.tileElem (s : State) (x : RunAt) (r : Run) : State × Run :=
  let total := dTotal x.d
  let z := r.z
  let i := r.pos
  let t := dTile x.d
  let e := (s.cluster x.c).tile t
  if tileState e = tFilling then (s, r)
  else if !(s.ownsTile x.c x.k t) then (s, { r with ready := r.ready ++ [s.runErr x r 0x0A 1], error := true, isOver := true })
  else if (i + 1) * z > tileLen e then
    (s, { r with ready := r.ready ++ [s.runErr x r 0x0A (total - i)], error := true, isOver := true })
  else
    let next (r : Run) : Run := { r with pos := i + 1, isOver := decide (i + 1 ≥ total) }
    if x.beyond r i then (s, next { r with ready := r.ready ++ [s.runErr x r 0x0D 1], error := true })
    else match s.tileAddr x.c x.k t (i * z) z with
      | none => (s, next (s.noteErr x r (some 0x03)))
      | some a =>
        let (y, v, bad) := (s.cluster x.c).spRead a z
        match (s.modCluster x.c fun _ => y).runMem x r (isPlaced x.info.i) (x.addr r i) z (.write v bad) (dPos x.d i) with
        | (s1, r1, none) => (s1, r1)
        | (s1, r1, some _) => (s1, next { r1 with
            moved := r1.moved + z, wrote := r1.wrote + z, wroteBad := r1.wroteBad || bad, poisoned := r1.poisoned || bad })

/-- A change deeper than its colour that a run would take is consumed, with ERR DEPTH in its place (R58, R359); none for any other token. -/
def State.feedDeep (s : State) (f : Firing) (a : Token) : Option State :=
  if s.tooDeep f.c f.k a then some (s.replyOut f (some (f.error 0x05 1)) [(0, a)]).1 else none

/-- The next element of a run that writes the elements of arriving tokens (R288, R298). The position in a token stands in the
slot's `size` and the elements of it not accessed in `data`; elements beyond the run's count stay for the next run. -/
def State.feedElem (s : State) (x : RunAt) (r : Run) : State × Run :=
  match s.readyAt x.c x.site x.k r.slot with
  | none => (s, r)
  | some f => match f.a with
    | none => (s, r)
    | some a => match s.feedDeep f a with
      | some s1 => (s1, r)
      | none =>
        let total := dTotal x.d
        let z := r.z
        let i := r.pos
        let st := x.e.slot r.slot
        let j := st.size
        let n := 4 * a.width / z
        let skip := x.beyond r i
        let missed := if skip then st.data + 1 else st.data
        let got := if skip then (s, { r with error := true }, some (0, false))
          else s.runMem x r (isPlaced x.info.i) (x.addr r i) z (.write (elemAt z a.lanes j) a.poison) (dPos x.d i)
        match got with
        | (s1, r1, none) => (s1, r1)
        | (s1, r1, some _) =>
          let w := if skip then 0 else z
          let r2 := { r1 with
            pos := i + 1, moved := r1.moved + w, wrote := r1.wrote + w, wroteBad := r1.wroteBad || (a.poison && !skip), isOver := decide (i + 1 ≥ total) }
          let put (size data : Nat) (s : State) : State :=
            s.modElem x.c x.site x.k fun e => e.setSlot r.slot { e.slot r.slot with size := size, data := data }
          if j + 1 < n then (put (j + 1) missed s1, r2)
          else
            let cap := if missed = 0 then [] else [{ s1.runErr x { r2 with a := some a } 0x0D missed with last := a.last }]
            match (put 0 0 s1).replyOut f none [(0, a)] with
            | (s2, true) => (s2, { r2 with ready := r2.ready ++ cap })
            | (_, false) => ((s.replyOut f none [(0, a)]).1, r)

end Sys2Proof.Machine
end

