-- ==== Sys2Proof/Machine/Engine.lean ====
section
/-! DEFINITION. The memory accesses of engine operations (R388 to R390): collectives, conversions, scrubs, SEND and TO. -/
namespace Sys2Proof.Machine

/-- Why an access of an engine operation cannot be made: code, detail, address, access and byte offset in its buffer. -/
structure EngFail where
  code : Nat
  detail : Nat
  va : DWord
  acc : Access
  off : Nat

/-- A byte and whether it is poisoned. -/
abbrev PByte := Nat × Bool

/-- The pieces of n bytes at va within 64-byte lines: offset and length. -/
def chunks (va n : Nat) : List (Nat × Nat) :=
  if n = 0 then []
  else (List.range ((va + n - 1) / 64 + 1 - va / 64)).map fun i =>
    let lo := Nat.max va ((va / 64 + i) * 64)
    let hi := Nat.min (va + n) ((va / 64 + i + 1) * 64)
    (lo - va, hi - lo)

/-- The home of an access; a range that the context has entered for another operation is RANGE 2 (R143, R388). -/
def State.engHome (s : State) (c k owner : Nat) (va : DWord) (n : Nat) (acc : Access) : State × Except (Nat × Nat) Nat :=
  match s.translate c true (s.rootAt c k) va acc with
  | (s1, .error e) => (s1, .error e)
  | (s1, .ok key) => match s1.ctxAt c k with
    | some x =>
      if x.enteredBut owner va.toNat n then (s1, .error (5, 2))
      else (s1, .ok key)
    | none => (s1, .ok key)

/-- Bytes of a number with one poison flag. -/
def pbytes (n v : Nat) (bad : Bool) : List PByte := (List.range n).map fun i => (v / 256 ^ i % 256, bad)

/-- The owner number of an operation that enters no range: that of an issued command by its id, or of a queue's head. -/
def engOwner (sel : Nat) : Nat := 2 ^ 40 + sel
/-- The number by which an engine operation asks another node. -/
def farEngine (c k owner : Nat) : Nat := 2 ^ 40 + (owner * 384 + c) * 4 + k
/-- What an engine operation has asked of other nodes has served. -/
def State.engDone (s : State) (c k owner : Nat) : State := s.farDone (farEngine c k owner)

/-- Reads n bytes at va, line by line. Code 0 stands for no fault: the operation waits (R25, R334). The lines of other nodes are all asked for, and
their answers are held until the operation has made its step. -/
def State.engBytes (s : State) (c k owner : Nat) (va : DWord) (n : Nat) : State × Except EngFail (List PByte) :=
  let who := farEngine c k owner
  let r := (chunks va.toNat n).foldl (fun (a : State × Except EngFail (List PByte) × Option EngFail) q => match a.2.1 with
    | .error _ => a
    | .ok l =>
      let at_ := va + BitVec.ofNat 64 q.1
      match a.1.engHome c k owner at_ q.2 .load with
      | (s1, .error (code, d)) => (s1, .error ⟨code, d, at_, .load, q.1⟩, a.2.2)
      | (s1, .ok key) =>
        if isFar key then match s1.farAct who key q.2 .read with
          | (s2, .error (code, d)) =>
            let f : EngFail := ⟨code, d, at_, .load, q.1⟩
            if code = 0 then (s2, .ok l, a.2.2.orElse fun _ => some f) else (s2, .error f, a.2.2)
          | (s2, .ok (v, bad)) => (s2, .ok (l ++ pbytes q.2 v bad), a.2.2)
        else
          let (s2, v, bad, _) := s1.atHome key q.2 0 .read
          (s2, .ok (l ++ pbytes q.2 v bad), a.2.2)) (s, .ok [], none)
  match r.2 with
  | (.error e, _) => (r.1, .error e)
  | (.ok _, some e) => (r.1, .error e)
  | (.ok l, none) => (r.1, .ok l)

/-- The number of a list of bytes, low byte first, and whether one is poisoned. -/
def natOfBytes (l : List PByte) : Nat := l.foldr (fun b a => b.1 % 256 + 256 * a) 0
def anyBad (l : List PByte) : Bool := l.any fun b => b.2

/-- What stops a write of n bytes at va, if anything, at the homes as they translate. -/
def State.engCheck (s : State) (c k owner : Nat) (va : DWord) (n : Nat) : State × Option EngFail :=
  (chunks va.toNat n).foldl (fun (a : State × Option EngFail) q => match a.2 with
    | some e => (a.1, some e)
    | none =>
      let at_ := va + BitVec.ofNat 64 q.1
      match a.1.engHome c k owner at_ q.2 .store with
      | (s1, .error (code, d)) => (s1, some ⟨code, d, at_, .store, q.1⟩)
      | (s1, .ok _) => (s1, none)) (s, none)
/-- The pieces of a write that lie on other nodes are sent there; what stops it: a refusal, or code 0 while one is not performed (R334, R392). -/
def State.engAsk (s : State) (c k owner : Nat) (va : DWord) (l : List PByte) : State × Option EngFail :=
  (chunks va.toNat l.length).foldl (fun (a : State × Option EngFail) q =>
    let at_ := va + BitVec.ofNat 64 q.1
    let piece := (l.drop q.1).take q.2
    match a.1.engHome c k owner at_ q.2 .store with
    | (s1, .error _) => (s1, a.2)
    | (s1, .ok key) =>
      if !(isFar key) then (s1, a.2)
      else match s1.farAct (farEngine c k owner) key q.2 (.write (natOfBytes piece) (anyBad piece)) with
        | (s2, .error (code, d)) => (s2, a.2.orElse fun _ => some ⟨code, d, at_, .store, q.1⟩)
        | (s2, .ok _) => (s2, a.2)) (s, none)
/-- What stops a write of bytes at va; where nothing does, its pieces on other nodes are performed. -/
def State.engReady (s : State) (c k owner : Nat) (va : DWord) (l : List PByte) : State × Option EngFail :=
  match s.engCheck c k owner va l.length with
  | (s1, some e) => (s1, some e)
  | (s1, none) => s1.engAsk c k owner va l

/-- Writes the bytes of a write that is ready at va, line by line; a line that receives a poisoned byte is marked (R383). Its pieces on other nodes
have been performed there. -/
def State.engPut (s : State) (c k owner : Nat) (va : DWord) (l : List PByte) : State :=
  (chunks va.toNat l.length).foldl (fun s q =>
    let piece := (l.drop q.1).take q.2
    match s.engHome c k owner (va + BitVec.ofNat 64 q.1) q.2 .store with
    | (s1, .error _) => s1
    | (s1, .ok key) =>
      if isFar key then s1
      else
        let s2 := (s1.atHome key q.2 0 (.write (natOfBytes piece) (anyBad piece))).1
        s2.setProt key q.2 (s2.protAt (s2.rootAt c k) (va + BitVec.ofNat 64 q.1))) s

/-- Areas of memory can be read, in order; else the access that cannot. -/
def State.areasFail (s : State) (c k owner : Nat) (l : List (DWord × Nat)) : State × Option EngFail :=
  l.foldl (fun (a : State × Option EngFail) q => match a.2 with
    | some e => (a.1, some e)
    | none => match a.1.engBytes c k owner q.1 q.2 with
      | (s1, .error e) => (s1, some e)
      | (s1, .ok _) => (s1, none)) (s, none)
/-- The placement table's header and the member map can be read, after other areas; else the access that cannot (R25, R388). -/
def State.mapFail (s : State) (c k owner : Nat) (l : List (DWord × Nat)) : State × Option EngFail :=
  let p := s.ptabAt c k
  match s.areasFail c k owner ((p, 64) :: l) with
  | (s1, some e) => (s1, some e)
  | (s1, none) =>
    s1.areasFail c k owner [(BitVec.ofNat 64 (s1.vrd c k (p + 16#64) 8), 8 * Nat.min 65536 (meshSize (s1.meshAt c k)))]
/-- The same with DTD i. -/
def State.tablesFail (s : State) (c k owner i : Nat) : State × Option EngFail := s.mapFail c k owner [(dtdAddr (s.ptabAt c k) i, 64)]

/-- The selector of a conversion's record. -/
def convSel (i : Nat) : Nat := 2 ^ 32 + i

/-- An engine operation stalls on an access (R389, R390): a record of kind 2, whose sequence number it keeps; none where the queue is
full, and for code 0, which only waits. `sel` names the command, or the DTD of a conversion. -/
def State.engStall (s : State) (c k sel : Nat) (cmd : DWord) (f : EngFail) : State × Option Nat :=
  if f.code = 0 then (s, none)
  else s.postFault (dieOf c)
    { kind := 2, code := f.code, detail := f.detail, cluster := c, slot := k, acc := accCode f.acc, cid := s.cidAt c k, va := f.va,
      root := s.rootAt c k, pos := f.off, cmd := cmd }
    { cluster := c, ctx := k, site := 63, sel := sel }

/-- An issued command stalls. -/
def State.cmdStall (s : State) (c k : Nat) (cmd : Cmd) (f : EngFail) : State :=
  match s.engStall c k cmd.id cmd.reportAddr f with
  | (s1, some q) => s1.modIssued c k cmd.id fun x => { x with stalled := some q }
  | (s1, none) => s1

end Sys2Proof.Machine
end

