-- ==== Sys2Proof/Machine/Cf8.lean ====
section
/-! DEFINITION. CF8 coding of E4M3 blocks (R91 to R94, R397). -/
namespace Sys2Proof.Machine

/-- The n low bits of a number, most significant first. -/
def bitsMsb (n v : Nat) : List Bool := (List.range n).map fun i => v.testBit (n - 1 - i)
def natOfBits (l : List Bool) : Nat := l.foldl (fun a b => 2 * a + b.toNat) 0

/-- The exponent field of an E4M3 element. -/
def e4Exp (x : Nat) : Nat := x / 8 % 16
/-- The code of an element (R91). -/
def cf8Code (emax k x : Nat) : List Bool :=
  let d := emax - e4Exp x
  bitsMsb 1 (x / 128) ++ bitsMsb 3 x ++ List.replicate (d >>> k) true ++ [false] ++ bitsMsb k d
def cf8Max (es : List Nat) : Nat := (es.map e4Exp).foldl Nat.max 0
def cf8Bits (k : Nat) (es : List Nat) : List Bool := es.flatMap (cf8Code (cf8Max es) k)
/-- The parameter of least coded length, the smaller on a tie (R93). -/
def cf8K (es : List Nat) : Nat :=
  (List.range 4).foldl (fun b k => if (cf8Bits k es).length < (cf8Bits b es).length then k else b) 0
/-- Packs bits into words from bit 31 down, padded with zeros (R91). -/
def packMsb : Nat → List Bool → List Word
  | 0, _ => []
  | n + 1, l => BitVec.ofNat 32 (natOfBits (l.take 32 ++ List.replicate (32 - l.length) false)) :: packMsb n (l.drop 32)
/-- A block in memory: its header word and code words (R92, Table 2.4). -/
def cf8Encode (scale : Nat) (lot : Bool) (es : List Nat) : List Word :=
  let k := cf8K es
  let b := cf8Bits k es
  BitVec.ofNat 32 (scale % 256 * 2 ^ 24 + es.length % 256 * 2 ^ 16 + lot.toNat * 2 ^ 15 + k * 2 ^ 13 + cf8Max es * 2 ^ 9) ::
    packMsb ((b.length + 31) / 32) b

/-- What decoding finds in the bits read so far: more are needed, the block does not decode (R397), or the elements. -/
inductive Cf8 where
  | more
  | bad
  | ok (es : List Nat)
  deriving DecidableEq, Repr

/-- The number of one-bits before the zero, and the bits behind it; none where no zero has come. -/
def leadOnes : List Bool → Option (Nat × List Bool)
  | [] => none
  | false :: r => some (0, r)
  | true :: r => (leadOnes r).map fun x => (x.1 + 1, x.2)
def onesOf : List Bool → Nat
  | true :: r => onesOf r + 1
  | _ => 0
/-- Decodes n elements (R94). -/
def cf8Elems (emax k : Nat) : Nat → List Bool → List Nat → Cf8
  | 0, _, es => .ok es.reverse
  | n + 1, l, es =>
    if l.length < 5 then .more
    else match leadOnes (l.drop 4) with
      | none => if onesOf (l.drop 4) * 2 ^ k > 15 then .bad else .more
      | some (q, r) =>
        if r.length < k then (if q * 2 ^ k > 15 then .bad else .more)
        else
          let d := q * 2 ^ k + natOfBits (r.take k)
          if d > 15 ∨ d > emax then .bad
          else cf8Elems emax k n (r.drop k) ((natOfBits (l.take 1) * 128 + (emax - d) * 8 + natOfBits ((l.drop 1).take 3)) :: es)
/-- Decodes a block's code words under its header (R94, R397). -/
def cf8Decode (h : Word) (ws : List Word) : Cf8 :=
  let blen := h.bits 23 16
  if h.bits 8 0 ≠ 0 ∨ blen = 0 ∨ blen % 4 ≠ 0 ∨ blen > 128 then .bad
  else cf8Elems (h.bits 12 9) (h.bits 14 13) blen (ws.flatMap fun w => bitsMsb 32 w.toNat) []

end Sys2Proof.Machine
end

