-- ==== Sys2Proof/Machine/MeStream.lean ====
section
/-! DEFINITION. The stream operations of memory elements and the steps of their runs (R285 to R292, R297 to R299). -/
namespace Sys2Proof.Machine

/-! ### Starting runs (R286) -/

/-- Bytes of an element of a type code; two 4-bit values share a byte (R287). -/
def tyBytes (ty : BitVec 4) : Nat := Nat.max 1 (tyBits ty.toNat / 8)
/-- Bytes of an element of an indexed stream (R289). -/
def dIndexed (d : DescW) : Nat := 2 ^ (dAux d).bits 2 0

/-- The token numbers of a descriptor advance. -/
def State.noteToken (s : State) (f : Firing) (desc : Nat) : State := s.modElem f.c f.site f.k fun e => { e with ntok := e.ntok.mod 0 desc (· + 1) }
/-- The token numbers of a descriptor advance, and the issue of an ME slot is counted. -/
def State.noteIssue (s : State) (f : Firing) (desc : Nat) : State := (s.noteToken f desc).countMe f.c f.k
def State.addRun (s : State) (f : Firing) (r : Run) : State := s.modElem f.c f.site f.k fun e => { e with runs := e.runs ++ [r] }

/-- A slot whose operands stand at their ports for a run in progress. -/
def Elem.holdsFor (e : Elem) (slot : Nat) : Bool := e.runs.any fun r => decide (r.slot = slot) && r.holds
/-- A token starts a run of its slot's descriptor; its operands stay at their ports until the run's last result leaves (R69, R389). A slot
whose operands already do so waits. -/
def meStart (s : State) (f : Firing) (mk : Elem → DescW → Run → Run) : Res :=
  let e := s.elemOf f
  let desc := (descOf f.info.i).getD 0
  let d := e.descAt desc
  if e.holdsFor f.slot then .wait
  else
    let r : Run := { desc := desc, slot := f.slot, base := dBase d, a := f.a, b := f.b, x := f.x, ent := f.ent, holds := true }
    .hold ((s.noteIssue f desc).addRun f (mk e d r))
/-- A token that only starts a run is taken as the run starts, and a run started while its descriptor is busy waits its turn (R286; DEDUCED, log 111).
A change holds its time, and so its place, until the run's last result leaves. -/
def meTrigger (s : State) (f : Firing) (mk : Elem → DescW → Run → Run) : Res := withA f fun a =>
  if a.kind = kChg then meStart s f mk
  else
    let e := s.elemOf f
    let desc := (descOf f.info.i).getD 0
    let d := e.descAt desc
    .ok { st := (s.noteToken f desc).addRun f (mk e d { desc := desc, slot := f.slot, base := dBase d, a := some a }) }

/-- A token starts a run that takes its data from the tokens that arrive; one in progress takes it (R288). -/
def meFeed (s : State) (f : Firing) (mk : Elem → DescW → Run → Run) : Res :=
  let e := s.elemOf f
  let desc := (descOf f.info.i).getD 0
  let d := e.descAt desc
  if (e.active desc).isSome then .wait
  else .hold ((s.noteIssue f desc).addRun f (mk e d { desc := desc, slot := f.slot, base := dBase d }))

def execAgsRd (w : MeW) (s : State) : Out := fire s fun s f => meTrigger s f fun _ _ r => { r with z := tyBytes w.ty }
def execAgsWr (w : MeW) (s : State) : Out := fire s fun s f =>
  if dTdst ((s.elemOf f).descAt w.desc.toNat) then meTrigger s f fun _ _ r => { r with z := tyBytes w.ty }
  else meFeed s f fun _ _ r => { r with z := tyBytes w.ty }
def execAgsRdcf (_w : MeW) (s : State) : Out := fire s fun s f => meTrigger s f fun _ _ r => r
def execAgsWrcf (_w : MeW) (s : State) : Out := fire s fun s f => meFeed s f fun _ _ r => r
def execAgsFill (_w : MeW) (s : State) : Out := fire s fun s f => meTrigger s f fun _ _ r => { r with z := 4 }
def execAgsScrub (_w : MeW) (s : State) : Out := fire s fun s f => meTrigger s f fun _ _ r => { r with z := 64 }

/-- The number of the token that starts an indexed run, for its fault records (Table 20.4). -/
def indexed (e : Elem) (d : DescW) (r : Run) : Run := { r with z := dIndexed d, emitted := e.ntok.get 0 r.desc }

/-- agx.gath: WIDTH where the result would not have wid + 1 lanes (R289). -/
def execAgxGath (w : MeW) (s : State) : Out := fire s fun s f => withA f fun a =>
  let d := (s.elemOf f).descAt w.desc.toNat
  if a.width * dIndexed d ≠ 4 * dWid d then .err 0x02 1 else meStart s f indexed

/-- An indexed operation with data: WIDTH where B or C does not hold the elements of A's indices (Table 18.7; DEDUCED, log 15). -/
def meIndexed (w : MeW) (s : State) : Out := fire s fun s f => withA f fun a =>
  let d := (s.elemOf f).descAt w.desc.toNat
  let bad (t : Option Token) : Bool := match t with
    | some t => decide (a.width * dIndexed d ≠ 4 * t.width)
    | none => false
  if bad f.b || bad f.x then .err 0x02 1 else meStart s f indexed
def execAgxScat (w : MeW) (s : State) : Out := meIndexed w s
def execAgxAtomAdd (w : MeW) (s : State) : Out := meIndexed w s
def execAgxAtomMin (w : MeW) (s : State) : Out := meIndexed w s
def execAgxAtomMax (w : MeW) (s : State) : Out := meIndexed w s
def execAgxAtomCas (w : MeW) (s : State) : Out := meIndexed w s
def execAgxAtomSwp (w : MeW) (s : State) : Out := meIndexed w s

/-- agx.chase starts at the address in A's lanes 0 and 1 (R290). -/
def execAgxChase (_w : MeW) (s : State) : Out := fire s fun s f => withA f fun a =>
  meStart s f fun e d r => { indexed e d r with z := 8, addr := a.lane 1 ++ a.lane 0 }

/-- The demand of constant kM (R298): DTD and state. A DTD whose index is not below ndtd is read as those below it are, from the bytes that follow the table,
since the spec stops such an index for PL alone (DESIGN CHOICE, log 136). -/
def demandOf (e : Elem) (k : BitVec 5) : Nat × Nat :=
  let v := e.const k.toNat
  (v.bits 9 0, v.bits 31 16)
def placedRun (w : MeW) (e : Elem) (_d : DescW) (r : Run) : Run := { r with demand := some (demandOf e w.k), waitsJoin := true }
/-- A placed run that needs no data tokens: its demand is made when the descriptor is free (R153, R154). -/
def mePlaced (s : State) (f : Firing) (w : MeW) : Res :=
  if ((s.elemOf f).active w.desc.toNat).isSome then .wait else meTrigger s f (placedRun w)
def execPld (w : MeW) (s : State) : Out := fire s fun s f => mePlaced s f w
def execPst (w : MeW) (s : State) : Out := fire s fun s f =>
  if dTdst ((s.elemOf f).descAt w.desc.toNat) then mePlaced s f w else meFeed s f (placedRun w)

/-- A run goes on in the member's buffer once its demand is met (R153, R298). -/
def State.joinRun (s : State) (c k : Nat) (idx : Nat) (r : Run) : Run :=
  let d := s.dtdAt c k idx
  let b := d.buf (s.memberAt c k)
  { r with waitsJoin := false, buf := b, base := b + r.base, cap := d.cap.toNat, z := dtdBytes d.ty }

/-! ### The accesses of a run -/

/-- The words of a CF8 block are read until it decodes (R94, R397): none where the run stalls. -/
def State.cfRead (x : RunAt) (h : Word) : Nat → State → Run → DWord → List Word → Bool → State × Run × Option (Cf8 × Nat × Bool)
  | fuel, s, r, va, ws, bad =>
    match cf8Decode h ws with
    | .more => match fuel with
      | 0 => (s, r, some (.bad, ws.length, bad))
      | fuel + 1 =>
        match s.runMem x r false va 4 .read (dPos x.d r.pos) with
        | (s1, r1, none) => (s1, r1, none)
        | (s1, r1, some (v, b)) => s1.cfRead x h fuel r1 (va + 4#64) (ws ++ [BitVec.ofNat 32 v]) (bad || b)
    | res => (s, r, some (res, ws.length, bad))

/-- The next CF8 block of a read run leaves as an HDR and a data token (R288, R397). `addr` is the offset of the block. -/
def State.cfElem (s : State) (x : RunAt) (r : Run) : State × Run :=
  let total := dCnt x.d 0
  let last := (flagsOf x.info.i).1
  let fail (s : State) (r : Run) : State × Run :=
    (s, { r with
      ready := r.ready ++ [{ s.runErr x r 0x0E (total - r.pos) with last := last }], error := true, isOver := true })
  let off := r.addr.toNat
  if off + 4 > dSpan x.d then fail s r
  else match s.runMem x r false (r.base + r.addr) 4 .read (dPos x.d r.pos) with
    | (s1, r1, none) => (s1, r1)
    | (s1, r1, some (hv, hb)) =>
      let h : Word := BitVec.ofNat 32 hv
      let fit := (dSpan x.d - off - 4) / 4
      let lim := if h.bits 23 16 = 32 then Nat.min fit 9 else Nat.min fit 80
      match s1.cfRead x h lim r1 (r.base + r.addr + 4#64) [] hb with
      | (s2, r2, none) => (s2, r2)
      | (s2, r2, some (.ok es, n, bad)) =>
        let fin := decide (r2.pos + 1 ≥ total)
        let t := s2.runToken x r2 (packLanes 8 es) bad (last && fin)
        let hd : Token := { t with kind := kHdr, lanes := [h], last := false }
        (s2, { r2 with
          ready := r2.ready ++ [hd, t], pos := r2.pos + 1, emitted := r2.emitted + 1,
          addr := r2.addr + BitVec.ofNat 64 (4 + 4 * n), moved := r2.moved + 4 + 4 * n, poisoned := r2.poisoned || bad, isOver := fin })
      | (s2, r2, some _) => fail s2 r2

/-- Words at addresses that follow one another are written in order once all of them translate (R389); the first that another node has not answered
for, or refuses, stops them, and is asked for again with those before it. -/
def State.cfWrite (s : State) (x : RunAt) (r : Run) (ws : List Word) (poison : Bool) : State × Run × Bool :=
  let at_ (i : Nat) : DWord := r.base + r.addr + BitVec.ofNat 64 (4 * i)
  let miss := (List.range ws.length).find? fun i => match (s.agHome x.c x.k (at_ i) 4 .store).2 with
    | .error _ => true
    | .ok _ => false
  match miss with
  | some i =>
    let (s1, r1, _) := s.runMem x r false (at_ i) 4 (.write 0 false) (dPos x.d r.pos)
    (s1, r1, false)
  | none =>
    (List.range ws.length).foldl (fun (a : State × Run × Bool) i =>
      if a.2.2 then
        let (s1, r1, v) := a.1.runMem x a.2.1 false (at_ i) 4 (.write (ws.getD i 0).toNat poison) (dPos x.d r.pos)
        (s1, r1, v.isSome)
      else a) (s, r, true)

/-- The block of an arriving token is encoded under its channel's header and written (R93, R288). -/
def State.cfFeed (s : State) (x : RunAt) (r : Run) : State × Run :=
  match s.readyAt x.c x.site x.k r.slot with
  | none => (s, r)
  | some f => match f.a with
    | none => (s, r)
    | some a => match s.feedDeep f a with
      | some s1 => (s1, r)
      | none =>
      let h := match x.e.hdr.find? a.chan.toNat with
        | some t => t.lane 0
        | none => 0
      let es := (splitLanes 8 a.lanes).take (if h.bits 23 16 = 0 then 4 * a.width else h.bits 23 16)
      let ws := cf8Encode a.scale.toNat (h.getLsbD 15) es
      match s.cfWrite x r ws a.poison with
      | (s1, r1, false) => (s1, r1)
      | (s1, r1, true) =>
        let n := 4 * ws.length
        match s1.replyOut f none [(0, a)] with
        | (s2, true) => (s2, { r1 with
            pos := r1.pos + 1, addr := r1.addr + BitVec.ofNat 64 n, moved := r1.moved + n, wrote := r1.wrote + n,
            wroteBad := r1.wroteBad || a.poison, isOver := decide (r1.pos + 1 ≥ dCnt x.d 0) })
        | (_, false) => ((s.replyOut f none [(0, a)]).1, r)

/-- The next block of a scrub run; 1,024 bits make a token of 32 lanes (R288, R386). -/
def State.scrubElem (s : State) (x : RunAt) (r : Run) : State × Run :=
  match s.runMem x r false (x.addr r r.pos) 64 .scrub (dPos x.d r.pos) with
  | (s1, r1, none) => (s1, r1)
  | (s1, r1, some (bit, bad)) =>
    let total := dTotal x.d
    let p := r1.part ++ [bit]
    let fin := decide (r1.pos + 1 ≥ total)
    let up := fin || decide (p.length ≥ 1024)
    let t := { s1.runToken x r1 (fitLanes 32 (packLanes 1 p)) false false with kind := kDense }
    (s1, { r1 with
      pos := r1.pos + 1, moved := r1.moved + 64, poisoned := r1.poisoned || bad, part := if up then [] else p,
      ready := if up then r1.ready ++ [t] else r1.ready, emitted := if up then r1.emitted + 1 else r1.emitted, isOver := fin })

/-- The new value of an atomic element (R291): 0 add, 1 min, 2 max, 3 cas, 4 swp. -/
def agAtom (fn ty z old y cv : Nat) : Nat :=
  let m := 2 ^ (8 * z)
  let t : ITy := (tyInt ty).getD ⟨8 * z, false⟩
  let f (x : Nat) : Val := tyDecode 3 false x
  let pick (max : Bool) : Nat :=
    if ty = 3 then tyRound 3 (RMode.ofCode 0) false 0 (valMin max (f old) (f y))
    else if decide (t.read y < t.read old) != max then y else old
  match fn with
  | 0 => if ty = 3 then tyRound 3 (RMode.ofCode 0) false 0 ((f old).add (RMode.ofCode 0) (f y)).1 else (old + y) % m
  | 1 => pick false
  | 2 => pick true
  | 3 => if old = cv then y else old
  | _ => y

/-- The function and type of an agx word; none for a gather. -/
def atomOf : Instr → Option (Nat × Nat)
  | .agxAtomAdd w => some (0, w.ty.toNat)
  | .agxAtomMin w => some (1, w.ty.toNat)
  | .agxAtomMax w => some (2, w.ty.toNat)
  | .agxAtomCas w => some (3, w.ty.toNat)
  | .agxAtomSwp w => some (4, w.ty.toNat)
  | _ => none
def signedIndex : Instr → Bool
  | .agxGath w | .agxScat w | .agxAtomAdd w | .agxAtomMin w | .agxAtomMax w | .agxAtomCas w | .agxAtomSwp w => w.flags.getLsbD 0
  | _ => false
def isScat : Instr → Bool
  | .agxScat _ => true
  | _ => false

/-- The next element of an indexed run (R289, R291): elements outside the span are not accessed and are counted; when the lanes of A are
done, the result leaves and then the RANGE error. -/
def State.indexElem (s : State) (x : RunAt) (r : Run) : State × Run :=
  match r.a with
  | none => (s, { r with isOver := true })
  | some a =>
    let i := x.info.i
    let z := r.z
    let j := r.pos
    let l := a.lane j
    let off : Int := (if signedIndex i then l.toInt else (l.toNat : Int)) * dStr x.d 0
    let inside := decide (0 ≤ off) && decide (off + z ≤ dSpan x.d)
    let y := match r.b with
      | some b => elemAt z b.lanes j
      | none => 0
    let cv := match r.x with
      | some t => elemAt z t.lanes j
      | none => 0
    let bp := match r.b with
      | some b => b.poison
      | none => false
    let act := match atomOf i with
      | some (fn, ty) => AgAct.atomic (fun old => agAtom fn ty z old y cv)
          (Config.accessWords { fn := 32 + 16 * fn + ty, n := z, y := y, cv := cv, poison := bp }) bp
      | none => if isScat i then .write y bp else .read
    let got := if inside then s.runMem x r false (r.base + BitVec.ofInt 64 off) z act (r.emitted % 2 ^ 32 * 2 ^ 32 + j)
      else (s, { r with missed := r.missed + 1 }, some (0, false))
    match got with
    | (s1, r1, none) => (s1, r1)
    | (s1, r1, some (v, bad)) =>
      let r2 := { r1 with
        pos := j + 1, part := r1.part ++ [v], partPoison := r1.partPoison || bad, moved := r1.moved + (if inside then z else 0),
        wrote := r1.wrote + (if inside && isScat i then z else 0), wroteBad := r1.wroteBad || (bp && isScat i) }
      if j + 1 < a.width then (s1, r2)
      else
        let w := match atomOf i, r.b with
          | some _, some b => b.width
          | _, _ => dWid x.d
        let own := (x.firing r).poison
        let t := { a with kind := resultKind (some a) w, lanes := packTo w z r2.part, poison := own || r2.partPoison }
        let res := if isScat i then [] else [t]
        let err := if r2.missed = 0 then [] else [s1.runErr x r2 0x03 r2.missed]
        (s1, { r2 with ready := r2.ready ++ res ++ err, isOver := true })

/-- The colour and tag of a result of w lanes: those of constant kN where the result is narrower than A (R285, R243); none while the
colour is not allocated. -/
def State.meColour (s : State) (f : Firing) (a : Token) (k w : Nat) : Option (BitVec 6 × BitVec 12) :=
  if w < a.width then s.recolour f (((s.elemOf f).const k).toNat % 64) a else some (a.colour, a.tag)

/-- The next line of a tile that drains (R294). -/
def State.drainLine (s : State) (x : RunAt) (r : Run) : State × Run :=
  match r.a with
  | none => (s, { r with isOver := true })
  | some a =>
    let t := r.desc - 16
    let n := tileLen ((s.cluster x.c).tile t) / 64
    let fin := decide (r.pos + 1 ≥ n)
    let next (rs : List Token) (bad : Bool) : Run :=
      { r with pos := r.pos + 1, ready := r.ready ++ rs, isOver := fin, poisoned := r.poisoned || bad }
    let k := match x.info.i with
      | .tilDrain w => w.k.toNat
      | _ => 0
    match s.tileAddr x.c x.k t (64 * r.pos) 64, s.meColour (x.firing r) a k 16 with
    | none, _ => (s, next [errToken 0x03 1 x.site r.slot a.colour a.tag a.last] false)
    | some _, none => (s, r)
    | some ad, some ct =>
      let (y, v, bad) := (s.cluster x.c).spRead ad 64
      (s.modCluster x.c fun _ => y, next [{ a with
        kind := kDense, colour := ct.1, tag := ct.2, lanes := packLanes 512 [v], aux := BitVec.ofNat 16 (4 * r.pos), last := fin, poison := a.poison || bad }] bad)

/-- The key of A: lane 0 and lane 1 [15:0]. -/
def keyOf (a : Token) : Nat := (a.lane 0).toNat + 2 ^ 32 * ((a.lane 1).toNat % 2 ^ 16)

/-- Bytes of a ttb.fill line, and its share offset (R293). -/
def fillBytes (d : DescW) : Nat := 64 * ((dAux d).bits 31 16 + 1)
def fillDest (d : DescW) (slot : Nat) : Nat := 64 * (dAux d).bits 15 0 + slot * fillBytes d

/-- The next line of a ttb.fill; after the last one the entry is inserted and the slot leaves (R293). -/
def State.fillLine (s : State) (x : RunAt) (r : Run) (k : BitVec 5) : State × Run :=
  match r.a with
  | none => (s, { r with isOver := true })
  | some a =>
    let z := fillBytes x.d
    let slot := (a.lane 2).toNat % 4096
    if 64 * r.pos < z then
      match s.runMem x r false (r.base + BitVec.ofNat 64 (keyOf a * z + 64 * r.pos)) 64 .read (r.emitted * 2 ^ 32) with
      | (s1, r1, none) => (s1, r1)
      | (s1, r1, some (v, bad)) =>
        let ad := s1.spAddr x.c x.k (meIndex x.site) (fillDest x.d slot + 64 * r.pos) 64
        let (s2, e) := s1.spPut x.c ad 64 v bad
        (s2, s2.noteErr x { r1 with pos := r1.pos + 1, moved := r1.moved + 64, poisoned := r1.poisoned || bad } e)
    else match s.meColour (x.firing r) a k.toNat 1 with
      | none => (s, r)
      | some (c, t) =>
        let (y, v) := (s.cluster x.c).tagInsert x.k (keyOf a) slot 0
        (s.modCluster x.c fun _ => y, { r with
          ready := r.ready ++ [{ a with kind := kDense, colour := c, tag := t, lanes := [BitVec.ofNat 32 v] }], isOver := true })

/-- The owner number by which a run reads the placement tables. -/
def runOwner (site desc : Nat) : Nat := 2 ^ 50 + 32 * site + desc
/-- A run stalls on a table that its conversion needs (R388). -/
def State.tableStall (s : State) (x : RunAt) (r : Run) (f : EngFail) : State × Run :=
  let q := s.runStall x r true f.code f.detail f.va .read 0
  (q.1, q.2.1)
/-- Whether a run waits on its DTD: it looks at it, and joins, or demands its state (R153). -/
def State.joinElem (s : State) (x : RunAt) (r : Run) (idx st : Nat) : State × Run :=
  match s.runMem x r true (dtdAddr (s.ptabAt x.c x.k) idx) 8 .read 0 with
  | (s1, r1, none) => (s1, r1)
  | (s1, r1, some (v, _)) =>
    let w : DWord := BitVec.ofNat 64 v
    if w.getLsbD 33 then (s1.farDone (farRun x.c x.k x.site r.desc), r1)
    else
      let owner := runOwner x.site r.desc
      match s1.tablesFail x.c x.k owner idx with
      | (s2, some f) => s2.tableStall x r1 f
      | (s2, none) =>
        let s3 := (s2.engDone x.c x.k owner).farDone (farRun x.c x.k x.site r.desc)
        if w.bits 63 48 = st then (s3, s3.joinRun x.c x.k idx r1) else (s3.forkConv x.c x.k idx st, r1)

/-- The next element of a run (R287). A run that waits for its demanded state looks at the DTD instead (R153). Flag [1] adds an EOS when the run
is over (R288). -/
def State.agStep (s : State) (c site k desc : Nat) : State :=
  match s.runAt c site k desc with
  | none => s
  | some (x, r) =>
    if s.runHeld x r || r.isOver || r.stalled.isSome then s
    else
      let res := if desc ≥ 16 then s.drainLine x r
        else match r.waitsJoin, r.demand with
          | true, some (idx, st) => s.joinElem x r idx st
          | _, _ => match x.info.i with
            | .agsRd _ | .agsFill _ | .pld _ => s.readElem x r
            | .agsWr _ | .pst _ => if dTdst x.d then s.tileElem x r else s.feedElem x r
            | .agsRdcf _ => s.cfElem x r
            | .agsWrcf _ => s.cfFeed x r
            | .agsScrub _ => s.scrubElem x r
            | .ttbFill w => s.fillLine x r w.k
            | .agxGath _ | .agxScat _ | .agxAtomAdd _ | .agxAtomMin _ | .agxAtomMax _ | .agxAtomCas _ | .agxAtomSwp _ => s.indexElem x r
            | _ => (s, r)
      let s1 := if res.2.pos ≠ r.pos ∨ res.2.isOver then res.1.farDone (farRun c k site desc) else res.1
      let eos := if res.2.isOver && (flagsOf x.info.i).2 then [s.runEos x r] else []
      s1.setRun c site k { res.2 with ready := res.2.ready ++ eos }

/-- A chase makes its next load (R290): after the previous reply has returned, inside the span. -/
def State.chaseElem (s : State) (x : RunAt) (r : Run) (a : Token) : State × Run :=
  if r.addr.toNat < r.base.toNat ∨ r.base.toNat + dSpan x.d < r.addr.toNat + 8 then
    (s, { r with ready := [{ s.runErr x r 0x03 1 with last := true }], isOver := true })
  else match s.runMem x r false r.addr 8 .read (r.emitted % 2 ^ 32 * 2 ^ 32 + r.pos) with
    | (s1, r1, none) => (s1, r1)
    | (s0, r1, some (v, bad)) =>
      let s1 := s0.farDone (farRun x.c x.k x.site r.desc)
      let w : DWord := BitVec.ofNat 64 v
      let fin := bad || decide (w = 0) || decide (r1.pos + 1 ≥ dCnt x.d 0)
      let ls := [r.addr.extractLsb' 0 32, r.addr.extractLsb' 32 32, w.extractLsb' 0 32, w.extractLsb' 32 32]
      let t := { a with lanes := ls, last := fin, poison := a.poison || bad }
      (s1, { r1 with
        pos := r1.pos + 1, moved := r1.moved + 8, ready := [t], isOver := fin, poisoned := r1.poisoned || bad, addr := w + dAux x.d })
def State.chaseStep (s : State) (c site k desc : Nat) : State :=
  match s.runAt c site k desc with
  | none => s
  | some (x, r) =>
    let chase := match x.info.i with
      | .agxChase _ => true
      | _ => false
    match r.a with
    | none => s
    | some a =>
      if !chase || s.runHeld x r || r.isOver || r.stalled.isSome || !r.ready.isEmpty then s
      else
        let q := s.chaseElem x r a
        q.1.setRun c site k q.2

/-- A reply re-enters the fabric in order; the last one of a run takes the operands that started it (R69, R138). -/
def State.replyStep (s : State) (c site k desc : Nat) : State :=
  match s.runAt c site k desc with
  | none => s
  | some (x, r) => match r.ready with
    | [] => s
    | t :: rest =>
      let fin := r.isOver && rest.isEmpty
      match s.replyOut (x.firing r) (some t) (if fin then x.owed r else []) with
      | (s1, false) => s1
      | (s1, true) =>
        s1.setRun c site k (if fin then { r with ready := [], a := none, b := none, x := none, ent := none, holds := false } else { r with ready := rest })

/-! ### Which stream an ME serves (R45) -/

/-- A step changes a run, or sends an access of its to another node: the stream is ready for it. -/
def State.runMoves (s : State) (step : State → Nat → Nat → Nat → Nat → State) (c site k desc : Nat) : Bool :=
  let t := step s c site k desc
  let run (s : State) : Option Run := (s.elem? c site k).bind fun e => e.active desc
  decide (run t ≠ run s) || decide (t.farReads.length ≠ s.farReads.length)
/-- The arrival of a stream's operands: of the tokens that started its run, or of the one that it takes its data from; a run of `enq ag` has none, and
counts as arrived before any token (R45; DESIGN CHOICE, log 114). -/
def State.runStamp (s : State) (c site k : Nat) (r : Run) : Nat :=
  match [r.a, r.b, r.x].filterMap id with
  | [] => match s.readyAt c site k r.slot with
    | some f => f.stamp
    | none => 0
  | ts => ts.foldl (fun n t => Nat.max n t.stamp) 0
/-- The streams of an ME that are ready for a step, with their descriptors. -/
def State.runRivals (s : State) (step : State → Nat → Nat → Nat → Nat → State) (c site : Nat) : List (Rival × Nat) :=
  [0, 1, 2, 3].flatMap fun k => match s.elem? c site k with
    | none => []
    | some e => ((e.runs.map Run.desc).eraseDups.filterMap e.active).filterMap fun r =>
      if s.runMoves step c site k r.desc
      then some (⟨Nat.min 15 (s.firingPrio c k + r.raised), s.runStamp c site k r, r.slot, k, false⟩, r.desc) else none
/-- The stream that an ME serves when a move names one: the first of those that are ready, else the one named. -/
def State.chooseRun (s : State) (step : State → Nat → Nat → Nat → Nat → State) (c site k desc : Nat) : Nat × Nat :=
  match (s.runRivals step c site).foldl (fun (b : Option (Rival × Nat)) q => match b with
      | none => some q
      | some v => if q.1.before v.1 then some q else some v) none with
  | some q => (q.1.k, q.2)
  | none => (k, desc)
/-- A stream is served: the others that are ready were passed over, and those that are not count anew (R45). -/
def State.passRuns (s : State) (l : List (Rival × Nat)) (c site k desc : Nat) : State :=
  let count (j : Nat) (r : Run) : Run :=
    if j = k ∧ r.desc = desc then { r with passed := 0, raised := 0 }
    else { r with passed := if l.any fun q => decide (q.1.k = j) && decide (q.2 = r.desc) then r.passed + 1 else 0 }
  [0, 1, 2, 3].foldl (fun s j => s.modElem c site j fun e => { e with runs := e.runs.map (count j) }) s
/-- An ME serves a stream by a step. -/
def State.serveRun (s : State) (step : State → Nat → Nat → Nat → Nat → State) : State :=
  let c := s.cur.cluster
  let site := s.cur.site
  let w := s.chooseRun step c site s.cur.ctx s.cur.sel
  step (s.passRuns (s.runRivals step c site) c site w.1 w.2) c site w.1 w.2

/-- An AG stream issues the access of its next element (R287): the one that `sel` names by its descriptor, or one that goes before it (R45). -/
def execAgAccess (s : State) : Out := .next (s.serveRun State.agStep)
/-- A chase makes its next load (R290). -/
def execChaseStep (s : State) : Out := .next (s.serveRun State.chaseStep)
/-- A reply re-enters the fabric (R138). -/
def execAgReply (s : State) : Out := .next (s.serveRun State.replyStep)

/-- A stack gather engine performs a batch of up to 64 elements of a near stream (R127, R128). -/
def execGatherEngineBatch (s : State) : Out :=
  let c := s.cur.cluster
  let site := s.cur.site
  let k := s.cur.ctx
  let near := match s.runAt c site k s.cur.sel with
    | some (x, _) => dNear x.d && (match x.info.i with
      | .agxGath _ | .agxScat _ => true
      | _ => false)
    | none => false
  if near then .next ((List.range 64).foldl (fun t _ => t.agStep c site k s.cur.sel) s) else .next s

/-! ### Barriers (R297) -/

/-- An arrival of n bytes at the 32 bytes of a barrier (Table 10.11). -/
def arrival (n : Nat) (poison : Bool) (v : Nat) : Nat :=
  let a := v / 2 ^ 64 % 2 ^ 64
  v - a * 2 ^ 64 + (a + n) % 2 ^ 64 * 2 ^ 64 + (if poison && !(v.testBit 128) then 2 ^ 128 else 0)

/-- The doublewords in which an arrival travels to a barrier of another node (R334, log 97). -/
def arrivalWords (n : Nat) (poison : Bool) : List DWord := Config.accessWords { fn := 18, n := 32, y := n, poison := poison }

/-- A run ends (R55, R297): with arv it arrives at its barrier once its last write is visible; its command is done. -/
def execAgRunEnd (s : State) : Out :=
  let c := s.cur.cluster
  let site := s.cur.site
  let k := s.cur.ctx
  match s.runAt c site k s.cur.sel with
  | none => .next s
  | some (x, r) =>
    if !r.isOver || !r.ready.isEmpty || r.stalled.isSome || s.runHeld x r then .next s
    else
      let drain := decide (r.desc ≥ 16)
      let got := if dArv x.d && !drain then
          s.runMem x r false (dAux x.d) 32 (.update (arrival r.wrote r.wroteBad) (arrivalWords r.wrote r.wroteBad)) 0
        else (s, r, some (0, false))
      match got with
      | (s1, r1, none) => .next (s1.setRun c site k r1)
      | (s1, r1, some (_, bad)) =>
        match (s1.farDone (farRun c k site r.desc)).replyOut (x.firing r1) none (x.owed r1) with
        | (_, false) => .next s
        | (s2, true) =>
          let s3 := s2.modElem c site k fun e => { e with runs := dropFirst r.desc e.runs }
          let s4 := if drain then s3.modCluster c fun y => (y.unuseTile (r.desc - 16)).emptyTile (r.desc - 16) else s3
          let st := if r1.poisoned || r1.wroteBad || bad then stPoisoned else if r1.error then stError else stOk
          .next (s4.cmdDone c k r1.cmdId r1.moved st)

/-- A write that a stream of an ME and context has issued is not performed yet: a submitted wave store, or a run that writes and owes an access
(R140, R297). -/
def State.owesWrite (s : State) (c k site : Nat) : Bool := match s.elem? c site k with
  | none => false
  | some e =>
    let writes (slot : Nat) : Bool := match e.slotInfo site slot with
      | some x => (match x.i with
        | .agsWr _ | .agsWrcf _ | .pst _ | .agxScat _ | .wavSt _ _ _ _ _ => true
        | i => (atomOf i).isSome)
      | none => false
    (e.waves.any fun w => writes w.slot) || e.runs.any fun r => writes r.slot && s.runOwes c k site r

/-- bar: A lane 0 is added to the barrier at kN | k(N+1) shifted left by 32, once every write issued before it is visible (R297). -/
def execBar (w : MeW) (s : State) : Out := fire s fun s f => withA f fun a =>
  let e := s.elemOf f
  let va : DWord := e.const (w.k.toNat + 1) ++ e.const w.k.toNat
  let mine := e.stallSlot.find? fun q => decide (q.1 = f.slot)
  let others := e.stallSlot.filter fun q => decide (q.1 ≠ f.slot)
  let stalled := match mine with
    | some q => decide (q.2 ≠ 0)
    | none => false
  if stalled || s.owesWrite f.c f.k f.site then .wait
  else
    let key := f.slot + 64
    let fail (s1 : State) (code d : Nat) : Res :=
      if code = 0 ∨ (code = 5 ∧ mine.isSome) then .hold s1
      else match s1.agStall f.c f.k f.site f.slot key code d va .atomic 0 with
        | (s2, none) => .hold s2
        | (s2, some q) => .hold (s2.modElem f.c f.site f.k fun e => { e with stallSlot := others ++ [(f.slot, q + 1)] })
    let n := (a.lane 0).toNat
    let act := AgAct.update (arrival n a.poison) (arrivalWords n a.poison)
    let done (s2 : State) (bad : Bool) : Res :=
      if bad then .err 0x10 1 else .ok { st := s2.modElem f.c f.site f.k fun e => { e with stallSlot := others } }
    match s.agHome f.c f.k va 32 .store with
    | (s1, .error (code, d)) => fail s1 code d
    | (s1, .ok home) =>
      let who := farRun f.c f.k f.site key
      if isFar home then match s1.farAct who home 32 act with
        | (s2, .error (code, d)) => fail s2 code d
        | (s2, .ok (_, bad)) => done (s2.farDone who) bad
      else
        let (t, _, bad, _) := s1.atHome home 32 0 act
        done (t.setProt home 32 (t.protAt (t.rootAt f.c f.k) va)) bad

/-! ### Stream barriers (R138, R299) -/

/-- The streams that an sbr names: ME indices of kN and descriptors of k(N+1). -/
def sbrNames (e : Elem) (k : Nat) : List (Nat × Nat) :=
  ((List.range 32).filter fun m => (e.const k).getLsbD m).flatMap fun m =>
    ((List.range 16).filter fun n => (e.const (k + 1)).getLsbD n).map fun n => (m, n)
/-- Holds or frees the streams named by an sbr, identified by its site and slot. -/
def State.sbrHold (s : State) (c k who : Nat) (names : List (Nat × Nat)) (on : Bool) : State :=
  names.foldl (fun s q => s.modElem c (meSite q.1) k fun e =>
    { e with held := if on then e.held ++ [(q.2, who)] else e.held.filter fun h => decide (h ≠ (q.2, who)) }) s

/-- sbr issues: each named stream stops issuing (R299). -/
def execSbr (w : MeW) (s : State) : Out := fire s fun s f => withA f fun a =>
  let e := s.elemOf f
  if e.sbr.any fun q => decide (q.1 = f.slot) then .wait
  else
    let names := sbrNames e w.k.toNat
    let s1 := (s.modElem f.c f.site f.k fun e => { e with sbr := e.sbr ++ [(f.slot, a, names)] }).countMe f.c f.k
    .hold (s1.sbrHold f.c f.k (16 * f.site + f.slot) names true)

/-- A stream of a context has issued an access that is not performed yet: a submitted wave access, or one that its run owes. -/
def State.streamOwes (s : State) (c k site desc : Nat) : Bool := match s.elem? c site k with
  | none => false
  | some e => (e.waves.any fun w => decide (w.desc = desc)) || match e.active desc with
    | some r => s.runOwes c k site r
    | none => false

/-- Once every access that a named stream issued earlier is visible or performed, the named streams resume and A passes to o0 unchanged (R138,
R299). -/
def execSbrRelease (s : State) : Out :=
  let c := s.cur.cluster
  let site := s.cur.site
  let k := s.cur.ctx
  let slot := s.cur.slot
  match s.elem? c site k with
  | none => .next s
  | some e => match e.sbr.find? fun q => decide (q.1 = slot), e.slotInfo site slot with
    | some (_, a, names), some info =>
      if !(s.running c k) || names.any (fun q => s.streamOwes c k (meSite q.1) q.2) then .next s
      else
        let f : Firing := { c := c, k := k, site := site, slot := slot, info := info, a := some a }
        match s.replyOut f (some a) [(0, a)] with
        | (s1, false) => .next s1
        | (s1, true) =>
          .next ((s1.sbrHold c k (16 * site + slot) names false).modElem c site k fun e =>
            { e with sbr := e.sbr.filter fun q => decide (q.1 ≠ slot) })
    | _, _ => .next s

/-! ### Wave-ordered accesses (R292) -/

/-- A wave access is submitted, unless a stream barrier holds its stream (R299) or the stream stalls (R389): its tokens go to the memory interface and
count when it is performed. -/
def submitWave (s : State) (f : Firing) (own pred succ : BitVec 6) (d : BitVec 3) : Res := withA f fun a =>
  let e := s.elemOf f
  let num := e.ntok.get 0 d.toNat
  if (e.held.any fun h => decide (h.1 = d.toNat)) || e.waves.any (fun w => decide (w.desc = d.toNat) && w.stalled.isSome) then .wait
  else
  let acc : WaveAcc :=
    { slot := f.slot, desc := d.toNat, own := own.toNat, pred := pred.toNat, succ := succ.toNat, tok := a, data := f.b, num := num }
  let s1 := (s.noteIssue f d.toNat).modElem f.c f.site f.k fun e => { e with waves := e.waves ++ [acc] }.take f (f.taken [])
  .hold (s1.settle f.c f.site)
def execWavLd (o p n : BitVec 6) (_z : BitVec 2) (d : BitVec 3) (s : State) : Out := fire s fun s f => submitWave s f o p n d
def execWavSt (o p n : BitVec 6) (_z : BitVec 2) (d : BitVec 3) (s : State) : Out := fire s fun s f => submitWave s f o p n d
def execWavMnop (o p n : BitVec 6) (_z : BitVec 2) (d : BitVec 3) (s : State) : Out := fire s fun s f => submitWave s f o p n d

/-- A submitted access may be performed: its wave's turn has come and its predecessor on the path has been performed (R292). The first
wave of a colour is the one at its base (DEDUCED, log 16). -/
def State.waveReady (s : State) (c k : Nat) (rg : Region) (e : Elem) (w : WaveAcc) : Bool :=
  let col := w.tok.colour.toNat
  let done := rg.waveDone.filter fun q => decide (q.1 = col)
  let turn := decide (s.relTag c k w.tok % (s.rangeOf c k col).n = rg.waveAt.get 0 col)
  let before := if w.pred = w.own then done.isEmpty
    else if w.pred < w.own then done.any fun q => decide (q.2.1 = w.pred)
    else done.any fun q => decide (q.2.2 = w.own)
  turn && before && w.stalled.isNone && !(e.waves.any fun v => decide (v.desc = w.desc) && v.stalled.isSome)

/-- Kind (0 LD, 1 ST, 2 MNOP) and size of a wave word. -/
def waveKind : Instr → Nat × Nat
  | .wavLd _ _ _ z _ => (0, z.toNat)
  | .wavSt _ _ _ z _ => (1, z.toNat)
  | _ => (2, 0)

/-- An access of the wave is noted; the last one gives the turn to the next wave of the colour (R292). -/
def State.waveNote (s : State) (c k : Nat) (w : WaveAcc) : State :=
  let col := w.tok.colour.toNat
  s.modRegion c k fun rg =>
    if w.succ = w.own then { rg with
      waveDone := rg.waveDone.filter fun q => decide (q.1 ≠ col),
      waveAt := rg.waveAt.set col ((rg.waveAt.get 0 col + 1) % (s.rangeOf c k col).n) }
    else { rg with waveDone := rg.waveDone ++ [(col, w.own, w.succ)] }

/-- The memory interface performs the next access of a wav slot whose turn it is (R292). -/
def execWaveAccessPerform (s : State) : Out :=
  let c := s.cur.cluster
  let site := s.cur.site
  let k := s.cur.ctx
  let slot := s.cur.slot
  match s.elem? c site k, s.region? c k with
  | some e, some rg =>
    if !(s.running c k) || rg.frozen || e.snapped then .next s
    else match e.waves.find? fun w => decide (w.slot = slot) && s.waveReady c k rg e w, e.slotInfo site slot with
      | some w, some info =>
        let (kind, size) := waveKind info.i
        let d := e.descAt w.desc
        let z := 2 ^ size
        let a := w.tok
        let off := (a.lane 0).toNat
        let inside := decide (off + z ≤ dSpan d)
        let va := dBase d + BitVec.ofNat 64 off
        let f : Firing := { c := c, k := k, site := site, slot := slot, info := info, a := some a, b := w.data, ent := some 4096 }
        let v := match w.data with
          | some b => lanesNat b.lanes % 2 ^ (8 * z)
          | none => 0
        let bp := match w.data with
          | some b => b.poison
          | none => false
        let act := if kind = 1 then AgAct.write v bp else .read
        let drop (s : State) : State := (s.modElem c site k fun e => { e with waves := e.waves.filter fun q => decide (q ≠ w) }).waveNote c k w
        let set (s : State) (w' : WaveAcc) : State :=
          s.modElem c site k fun e => { e with waves := e.waves.map fun q => if q = w then w' else q }
        let finish (s1 : State) (v : Nat) (bad : Bool) : State :=
          let w2 := if size = 3 then 2 else 1
          let t := { a with kind := kDense, lanes := packTo w2 z [v], poison := a.poison || bad }
          let err := if inside || decide (kind = 2) then [] else [errToken 0x03 1 site w.desc a.colour a.tag a.last]
          let outs := (if kind = 0 then [t] else []) ++ err
          match outs with
          | [] => match s1.replyOut f none (f.taken []) with
            | (s2, true) => drop s2
            | (_, false) => s
          | [t] => match s1.replyOut f (some t) (f.taken []) with
            | (s2, true) => drop s2
            | (_, false) => s
          | t :: u :: _ => match s1.replyOut f (some t) [] with
            | (s2, true) => match s2.replyOut f (some u) (f.taken []) with
              | (s3, true) => drop s3
              | (_, false) => s
            | (_, false) => s
        let fail (s1 : State) (code dt : Nat) : State :=
          if code = 0 ∨ (code = 5 ∧ w.ranged) then s1
          else match s1.agStall c k site w.desc (96 + slot) code dt va act.acc (w.num % 2 ^ 32 * 2 ^ 32) with
            | (s2, some q) => set s2 { w with stalled := some q }
            | (s2, none) => s2
        if kind = 2 ∨ !inside then .next (finish s 0 false)
        else match s.agHome c k va z act.acc with
          | (s1, .ok key) =>
            let who := farRun c k site (96 + slot)
            if isFar key then match s1.farAct who key z act with
              | (s2, .error (code, dt)) => .next (fail s2 code dt)
              | (s2, .ok (v, bad)) => .next (finish (s2.farDone who) v bad)
            else
              let (s2, v, bad, _) := s1.atHome key z 0 act
              .next (finish (if kind = 1 then s2.setProt key z (s2.protAt (s2.rootAt c k) va) else s2) v bad)
          | (s1, .error (code, dt)) => .next (fail s1 code dt)
      | _, _ => .next s
  | _, _ => .next s

end Sys2Proof.Machine
end

