-- ==== Sys2Proof/Machine/Placement.lean ====
section
/-! DEFINITION. Placement conversions (R149 to R157, R398, R399). -/
namespace Sys2Proof.Machine

/-! ### Combination (R152) -/

/-- An element of a DTD type and whether it is poisoned. -/
abbrev PEl := Nat × Bool

/-- The rounding of a combination: codes 4 to 7 of rnd are given no meaning and no fate, so they round by an open mode (DESIGN CHOICE, log 129). -/
def combineMode (rnd : Nat) : RMode := RMode.ofCode (if rnd ≤ 3 then rnd else Config.reservedRnd rnd % 4)
/-- op of R152 on two elements: 0 sum, 1 max, 2 min. -/
def combine (op ty rnd : Nat) (ftz : Bool) (x y : Nat) : Nat :=
  if ty = 13 then (x + y) % 2 ^ 128
  else match tyInt ty with
    | some t => match op with
      | 0 => patternOf t.bits (t.read x + t.read y)
      | 1 => if t.read x < t.read y then y else x
      | _ => if t.read y < t.read x then y else x
    | none =>
      let a := tyDecode ty ftz x
      let b := tyDecode ty ftz y
      let m := combineMode rnd
      match op with
      | 0 => tyRound ty m ftz 0 (a.add m b).1
      | 1 => tyRound ty m ftz 0 (valMin true a b)
      | _ => tyRound ty m ftz 0 (valMin false a b)
def combineP (op ty rnd : Nat) (ftz : Bool) (x y : PEl) : PEl := (combine op ty rnd ftz x.1 y.1, x.2 || y.2)
/-- ((p0 ⊕ p1) ⊕ p2) ⊕ … in the order of a list. -/
def combineAll (op ty rnd : Nat) (ftz : Bool) : List PEl → PEl
  | [] => (0, false)
  | x :: r => r.foldl (combineP op ty rnd ftz) x

/-- Bits of an element of a DTD type. -/
def dtdBits (ty : Nat) : Nat := if ty = 13 then 128 else tyBits ty
/-- The elements packed in bytes (R82), each poisoned where one of its bytes is, and back. -/
def eltsOf (b : Nat) (l : List PByte) : List PEl :=
  let v := natOfBytes l
  (List.range (8 * l.length / b)).map fun i =>
    (v / 2 ^ (b * i) % 2 ^ b, anyBad ((l.drop (b * i / 8)).take ((b + 7) / 8)))
def bytesOf (b : Nat) (es : List PEl) : List PByte :=
  let v := joinBits b (es.map Prod.fst)
  (List.range ((es.length * b + 7) / 8)).map fun i =>
    (v / 256 ^ i % 256, anyBad ((es.drop (8 * i / b)).take (Nat.max 1 (8 / b))))

/-! ### Local shapes (R149) -/

/-- The part that a coordinate keeps of a range cut by an axis of n. -/
def cutRange (r : Nat × Nat) (n c : Nat) : Nat × Nat :=
  let b := (r.2 - r.1 + n - 1) / n
  (Nat.min r.2 (r.1 + c * b), Nat.min r.2 (r.1 + (c + 1) * b))
/-- The ranges of the dimensions that member m holds in a state. -/
def localShape (d : Dtd) (ns : List Nat) (st m : Nat) : List (Nat × Nat) :=
  [0, 1, 2, 3].foldl (fun l a =>
    let code := stOf st a
    if code / 4 = 1 then (List.range l.length).map fun j =>
        let r := l.getD j (0, 0)
        if j = code % 4 then cutRange r (ns.getD a 1) (coordOf ns m a) else r
    else l) ((List.range d.nd).map fun j => (0, d.dim j))
/-- The points of a shape in row-major order, the highest dimension innermost. -/
def pointsOf : List (Nat × Nat) → List (List Nat)
  | [] => [[]]
  | (lo, hi) :: r => (List.range (hi - lo)).flatMap fun i => (pointsOf r).map fun p => (lo + i) :: p
/-- The index of a point in a shape; none outside it. -/
def indexIn : List (Nat × Nat) → List Nat → Option Nat
  | (lo, hi) :: r, x :: xs =>
    if lo ≤ x ∧ x < hi then (indexIn r xs).map fun i => (x - lo) * (r.map fun q => q.2 - q.1).foldl (· * ·) 1 + i else none
  | _, _ => some 0

/-- What a member holds: a shape and its elements in order. -/
structure Part where
  shape : List (Nat × Nat)
  data : List PEl
  deriving Inhabited
def Part.at_ (p : Part) (x : List Nat) : Option PEl := (indexIn p.shape x).map fun i => p.data.getD i (0, false)

/-! ### Plans (R150, R151, R398) -/

/-- The code of one axis is not reserved (Table 7.4). -/
def codeOk (nd code : Nat) : Bool := decide (code = 0) || (decide (code / 4 = 1) && decide (code % 4 < nd)) || (decide (8 ≤ code) && decide (code ≤ 10))
/-- Why one axis cannot go from f to t: detail 1 a target that Table 7.5 excludes, 2 a combination that R152 excludes, or any of a reserved type,
which the spec gives no fate (DESIGN CHOICE, log 129). -/
def axisBad (nd ty f t : Nat) : Option Nat :=
  if f = t then none
  else if !(codeOk nd f) ∨ !(codeOk nd t) ∨ (f / 4 = 2 ∧ t / 4 = 2) ∨ (f / 4 = 1 ∧ (t = 9 ∨ t = 10)) then some 1
  else if ty > 13 ∨ (f / 4 = 2 ∧ ((6 ≤ ty ∧ ty ≤ 12) ∨ (ty = 13 ∧ f ≠ 8))) ∨ (ty = 13 ∧ (t = 9 ∨ t = 10)) then some 2
  else none
def planBad (nd ty st target : Nat) : Option Nat := [0, 1, 2, 3].findSome? fun a => axisBad nd ty (stOf st a) (stOf target a)
/-- The phase in which an axis that changes is converted (R151). -/
def phaseOf (f t : Nat) : Nat := if f / 4 = 2 then 0 else if f / 4 = 1 ∧ t / 4 = 1 then 1 else if f / 4 = 1 then 2 else 3
/-- The axes in the order of R151. -/
def planAxes (st target : Nat) : List Nat := [0, 1, 2, 3].flatMap fun ph => [0, 1, 2, 3].filter fun a =>
  decide (stOf st a ≠ stOf target a) && decide (phaseOf (stOf st a) (stOf target a) = ph)
/-- A state with the code of one axis replaced. -/
def setSt (st a t : Nat) : Nat := st - stOf st a * 16 ^ a + t * 16 ^ a

/-- The members that hold what member g holds, but for the axes other than a that cut one of the dimensions ds too, g first. -/
def sameCut (ns : List Nat) (st a : Nat) (ds : List Nat) (g : Nat) : List Nat :=
  g :: (List.range (meshSize ns)).filter fun h => [0, 1, 2, 3].all fun b =>
    decide (coordOf ns h b = coordOf ns g b) || (decide (b ≠ a) && decide (stOf st b / 4 = 1) && ds.contains (stOf st b % 4))
/-- Conversion along one axis (Table 7.5). Where another axis cuts the dimension too, an element of the new local shape (R149) can lie outside the
axis group: it comes from the member along that other axis that holds it (DESIGN CHOICE, log 130). -/
def convertAxis (d : Dtd) (ns : List Nat) (st a t : Nat) (ps : List Part) : List Part :=
  let f := stOf st a
  let ds := ([f, t].filter fun c => decide (c / 4 = 1)).map fun c => c % 4
  let held (x : List Nat) (g : Nat) : Option PEl := (sameCut ns st a ds g).findSome? fun h => (ps.getD h default).at_ x
  (List.range ps.length).map fun m =>
    let grp := axisGroup ns m a
    let shape := localShape d ns (setSt st a t) m
    let el (x : List Nat) : PEl :=
      if f / 4 = 2 then combineAll (f % 4) d.ty d.rnd d.ftz (grp.map fun g => (held x g).getD (0, false))
      else if f / 4 = 1 ∧ t ≠ 8 then (grp.findSome? (held x)).getD (0, false)
      else if f = 0 ∧ t = 8 ∧ coordOf ns m a ≠ 0 then (0, false)
      else (held x m).getD (0, false)
    { shape := shape, data := (pointsOf shape).map el }

/-- The whole sequence of R151. -/
def convertAll (d : Dtd) (ns : List Nat) (target : Nat) (ps : List Part) : List Part :=
  ((planAxes d.st target).foldl (fun (q : Nat × List Part) a =>
    (setSt q.1 a (stOf target a), convertAxis d ns q.1 a (stOf target a) q.2)) (d.st, ps)).2

/-! ### Demands -/

/-- Every PL command of a member that demands a state of a DTD is done, one that still stands in its queue too; its runs that wait for it go on
(R153, R222). -/
def State.joinAt (s : State) (p : Nat × Nat) (i st n status : Nat) : State :=
  let cmd (x : Cmd) : Cmd :=
    if x.q = 7 ∧ !x.done ∧ x.a.bits 9 0 = i ∧ x.c.bits 15 0 = st then { x with done := true, inc := n, status := status } else x
  let run (s : State) (r : Run) : Run :=
    if r.waitsJoin && decide (r.demand = some (i, st)) then s.joinRun p.1 p.2 i r else r
  (List.range 32).foldl (fun s m => s.modElem p.1 (meSite m) p.2 fun e => { e with runs := e.runs.map (run s) })
    (s.modStream p.1 p.2 fun t => { t with issued := t.issued.map cmd, queues := t.queues.map fun q => (q.1, q.2.map cmd) })

/-- Changes the conversion of a DTD that a context has in flight. -/
def State.modConv (s : State) (cid i : Nat) (f : CollOp → CollOp) : State :=
  s.modCtx cid fun x => { x with colls := x.colls.map fun op => if op.dtd = i then f op else op }

/-- The elements of a buffer; the unused bits of an FP6 element read as zero (R82). -/
def dtdEls (ty : Nat) (bs : List PByte) : List PEl :=
  (eltsOf (dtdBits ty) bs).map fun e => (if ty = 8 ∨ ty = 9 then e.1 % 2 ^ 6 else e.1, e.2)
/-- The members' parts as they stand in their buffers. -/
def State.readParts (s : State) (op : CollOp) (d : Dtd) (ns : List Nat) : State × Except (Nat × EngFail) (List Part) :=
  (List.range op.places.length).foldl (fun (a : State × Except (Nat × EngFail) (List Part)) m => match a.2, op.places[m]? with
    | .error e, _ => (a.1, .error e)
    | .ok l, none => (a.1, .ok l)
    | .ok l, some p =>
      let shape := localShape d ns d.st m
      let b := dtdBits d.ty
      let n := Nat.min (((pointsOf shape).length * b + 7) / 8) d.cap.toNat
      match a.1.engBytes p.1 p.2 (convOwner p op.id) (d.buf m) n with
      | (s1, .error e) => (s1, .error (m, e))
      | (s1, .ok bs) => (s1, .ok (l ++ [⟨shape, dtdEls d.ty bs⟩]))) (s, .ok [])

/-- What member m's buffer receives. -/
def partBytes (d : Dtd) (p : Part) : List PByte := (bytesOf (dtdBits d.ty) p.data).take d.cap.toNat

/-- Every member's range-table entries; none where a table has no room (R143, R154). -/
def State.enterAll (s : State) (cid : Nat) (op : CollOp) (d : Dtd) : Option State :=
  (List.range op.places.length).foldl (fun o m => o.bind fun (s : State) => match op.places[m]? with
    | some p => s.enterConv cid op d m p
    | none => some s) (some s)
/-- Two copies of a DTD agree in what the rendezvous compares (R147). -/
def sameDtd (d e : Dtd) : Bool :=
  decide (d.ty = e.ty) && decide (d.nd = e.nd) && decide (d.dims = e.dims) && decide (d.mstride = e.mstride) && decide (d.cap = e.cap) &&
    decide (d.gen = e.gen)

/-- The first write of a conversion that its place cannot take; those on other nodes' pages are sent (R334, R388). -/
def State.convFail (s : State) (l : List ((Nat × Nat) × Nat × DWord × List PByte)) : State × Option ((Nat × Nat) × EngFail) :=
  l.foldl (fun (a : State × Option ((Nat × Nat) × EngFail)) w =>
    if (a.2.any fun f => decide (f.2.code ≠ 0)) then a
    else match a.1.engReady w.1.1 w.1.2 w.2.1 w.2.2.1 w.2.2.2 with
      | (s1, some f) => (s1, if f.code ≠ 0 then some (w.1, f) else a.2.orElse fun _ => some (w.1, f))
      | (s1, none) => (s1, a.2)) (s, none)

/-- The rendezvous of a conversion (R154): demands that cannot be met end the context (R398); else the members enter their ranges, and every
member's share is converted in the staging areas and copied into the buffers. Where several details of R398 hold, the first axis with one decides, then detail
3, then 4 (DESIGN CHOICE, log 135). A conversion that moves no data is written and counted as another (DESIGN CHOICE, log 131). -/
def State.rendezvous (s : State) (cid i : Nat) (x : Ctx) (op : CollOp) : State :=
  match op.places.head? with
  | none => s
  | some (c, k) =>
    let d := s.dtdAt c k i
    let ns := s.meshAt c k
    let bad := match planBad d.nd d.ty d.st op.target with
      | some n => some n
      | none => if op.rival then some 3 else if op.places.any fun p => !(sameDtd d (s.dtdAt p.1 p.2 i)) then some 4 else none
    match bad with
    | some n => (s.setBusy c k i false).faultEnd cid 0x0E n (s.stream c k).pc (dtdAddr x.ptab i) 0
    | none => match s.enterAll cid op d with
    | none => s
    | some s0 => match s0.readParts op d ns with
      | (s1, .error (m, f)) =>
        let p := op.places.getD m (c, k)
        match s1.engStall p.1 p.2 (convSel i) (dtdAddr x.ptab i) f with
        | (s2, some q) => s2.modConv cid i fun op => { op with stalled := some q }
        | (s2, none) => s2
      | (s1, .ok ps) =>
        let out := (convertAll d ns op.target ps).map (partBytes d)
        let writes := (List.range out.length).flatMap fun m => [(m, d.stageOf m, out.getD m []), (m, d.buf m, out.getD m [])]
        let place (m : Nat) : Nat × Nat := op.places.getD m (c, k)
        match s1.convFail (writes.map fun w => (place w.1, convOwner (place w.1) op.id, w.2)) with
        | (s2, some (p, f)) => match s2.engStall p.1 p.2 (convSel i) (dtdAddr x.ptab i) f with
          | (s3, some q) => s3.modConv cid i fun op => { op with stalled := some q }
          | (s3, none) => s3
        | (s2, none) =>
          let put (s : State) (w : Nat × DWord × List PByte) : State :=
            s.engPut (place w.1).1 (place w.1).2 (convOwner (place w.1) op.id) w.2.1 w.2.2
          let done (s : State) (p : Nat × Nat) : State := s.engDone p.1 p.2 (convOwner p op.id)
          (op.places.foldl done (writes.foldl put s2)).modConv cid i fun op => { op with
            started := true, poisoned := out.any anyBad, bytes := (List.range out.length).map fun m => (m, (out.getD m []).length) }

/-- CONVERSION_RENDEZVOUS (R154): the members meet on the conversion in flight; where none is, a PL command that waits demands anew. A
conversion with members on other modules waits for them: how modules meet is not in the manual (log 99). -/
def execConversionRendezvous (cid i : Nat) (s : State) : Out :=
  match s.ctx? cid with
  | none => .next s
  | some x =>
    if !x.running then .next s
    else match x.conv? i with
      | some op =>
        if op.started || op.away || op.stalled.isSome || !op.left.isEmpty then .next s
        else match op.places.head? with
          | none => .next s
          | some (c, k) => match s.tablesFail c k (convOwner (c, k) op.id) i with
            | (s1, some f) => match s1.engStall c k (convSel i) (dtdAddr x.ptab i) f with
              | (s2, some q) => .next (s2.modConv cid i fun op => { op with stalled := some q })
              | (s2, none) => .next s2
            | (s1, none) => .next (s1.rendezvous cid i x op)
      | none =>
        let waits := x.places.filterMap fun p => ((s.stream p.1 p.2).issued.find? fun y =>
          decide (y.q = 7) && !y.done && decide (y.a.bits 9 0 = i)).map fun y => (p, y)
        match waits with
        | [] => .next s
        | (p, y) :: _ =>
          if y.stalled.isSome then .next s
          else match s.tablesFail p.1 p.2 (engOwner y.id) i with
            | (s1, some f) => .next (s1.cmdStall p.1 p.2 y f)
            | (s1, none) =>
              let s2 := s1.engDone p.1 p.2 (engOwner y.id)
              if (s2.dtdAt p.1 p.2 i).st = y.c.bits 15 0 then .next (s2.joinAt p i (y.c.bits 15 0) 0 stOk)
              else .next (s2.forkConv p.1 p.2 i (y.c.bits 15 0))

/-- CONVERSION_COMPLETE (R154): st, gen and busy change, the range entries are removed, done is signalled at every member that has not left it (R399), and
the demands for the target are met. -/
def execConversionComplete (cid i : Nat) (s : State) : Out :=
  match (s.ctx? cid).bind fun x => (x.conv? i).map fun op => (x, op) with
  | none => .next s
  | some (x, op) => match op.places.head? with
    | none => .next s
    | some (c, k) =>
      if !op.started || op.stalled.isSome then .next s
      else
        let d := s.dtdAt c k i
        let low := d.w0.bits 32 0
        let w0 := BitVec.ofNat 64 (op.target % 65536 * 2 ^ 48 + (d.gen + 1) % 2 ^ 14 * 2 ^ 34 + low)
        let own := convOwner (c, k) op.id
        let at_ := dtdAddr x.ptab i
        match s.engReady c k own at_ (pbytes 8 w0.toNat false) with
        | (s1, some f) => match s1.engStall c k (convSel i) at_ f with
          | (s2, some q) => .next (s2.modConv cid i fun op => { op with stalled := some q })
          | (s2, none) => .next s2
        | (s0, none) =>
          let s1 := ((s0.engPut c k own at_ (pbytes 8 w0.toNat false)).engDone c k own).modCtx cid fun x =>
            { x.releaseConv op with colls := x.colls.filter fun o => decide (o.dtd ≠ i) }
          let status := if op.poisoned then stPoisoned else stOk
          .next (((List.range op.places.length).filter fun m => !(op.left.contains m)).foldl (fun s m =>
            let p := op.places.getD m (c, k)
            let n := op.bytes.get 0 m
            (s.signalVa p.1 p.2 d.done n status).joinAt p i op.target n status) s1)

end Sys2Proof.Machine
end

