-- ==== Sys2Proof/Machine/Coll.lean ====
section
/-! DEFINITION. Collectives on memory (R310), collective graph nodes (R158 to R160) and ABORT (R399). -/
namespace Sys2Proof.Machine

/-! ### The irregular all-to-all (R160) -/

/-- Where a token of a round goes: source, its position there, destination, and whether it was rerouted. -/
structure Assigned where
  src : Nat
  pos : Nat
  dst : Nat
  moved : Bool
  deriving DecidableEq, Repr

/-- The assignment of a round: `want` lists each source's destinations in order, `cap` the capacity of each destination. First choices are
placed before any reroute. -/
def assignRound (n : Nat) (cap : Nat → Nat) (reroute : Nat → Bool) (want : List (List Nat)) : List Assigned :=
  let all := (List.range want.length).flatMap fun i => (List.range (want.getD i []).length).map fun p => (i, p, (want.getD i []).getD p 0)
  let count (l : List Assigned) (j : Nat) : Nat := (l.filter fun a => decide (a.dst = j)).length
  let first := all.foldl (fun l q => if q.2.2 < n ∧ count l q.2.2 < cap q.2.2 then l ++ [⟨q.1, q.2.1, q.2.2, false⟩] else l) []
  let placed (l : List Assigned) (q : Nat × Nat × Nat) : Bool := l.any fun a => decide (a.src = q.1) && decide (a.pos = q.2.1)
  all.foldl (fun l q =>
    if placed l q || !(reroute q.1) || decide (q.2.2 ≥ n) then l
    else match ((List.range (n - 1)).map fun i => (q.2.2 + 1 + i) % n).find? fun j => decide (count l j < cap j) with
      | some j => l ++ [⟨q.1, q.2.1, j, true⟩]
      | none => l) first

/-! ### Collectives on memory (R310) -/

/-- A descriptor that the engine takes (Table 18.2, reason 2). -/
def clOk (kind : Nat) (d : ClDesc) : Bool :=
  let ty := d.ty.toNat
  !((decide (d.op ≠ 0) && decide (ty = 13)) || (decide (6 ≤ ty) && decide (ty ≤ 12) && decide (kind ≠ 2) && decide (kind ≠ 3)) ||
    decide (d.len = 0) || (decide (d.group = 4) && decide (d.nmem = 0)) ||
    (decide (kind = 4) && (decide (d.len.toNat % 4 ≠ 0) || decide (d.len.toNat > 128) || decide (d.cap = 0))))

/-- What names the members can be read: the tables, and the list of a group of its own; else the access that cannot (R388). -/
def State.clTables (s : State) (c k owner : Nat) (d : ClDesc) : State × Option EngFail :=
  s.mapFail c k owner (if d.group.toNat < 4 then [] else [(d.list, 2 * d.nmem.toNat)])
/-- The members of the group in coordinate order, or in the order of the list (R145, R310). -/
def State.clGroup (s : State) (c k : Nat) (d : ClDesc) : List (Option (Nat × Nat)) :=
  let ms := if d.group.toNat < 4 then axisGroup (s.meshAt c k) (s.memberAt c k) d.group.toNat
    else (List.range d.nmem.toNat).map fun i => s.vrd c k (d.list + BitVec.ofNat 64 (2 * i)) 2
  let ps := s.meshPlaces c k
  ms.map fun m => (ps[m]?).join

/-- The fields that every member's descriptor must share. -/
def sameCl (d e : ClDesc) : Bool :=
  decide (d.op = e.op) && decide (d.ty = e.ty) && decide (d.rnd = e.rnd) && decide (d.ftz = e.ftz) && decide (d.anc = e.anc) &&
    decide (d.group = e.group) && decide (d.id = e.id) && decide (d.len = e.len)

/-- The issued command of a member that joins a collective. -/
def State.clCmd (s : State) (p : Nat × Nat) (kind : Nat) (d : ClDesc) : Option (Cmd × ClDesc) :=
  (s.stream p.1 p.2).issued.findSome? fun x =>
    if x.q ≠ 2 ∨ x.done then none
    else match (decodeCl x.desc).bind clOf with
      | some (k, e) => if k = kind ∧ sameCl d e then some (x, e) else none
      | none => none

/-- Bytes of the send and receive buffers (Table 7.8, Table 12.10): len is each member's part, so a reduce-scatter sends n parts and receives its
own (DEDUCED, log 21). -/
def clSend (kind n : Nat) (d : ClDesc) : Nat := match kind with
  | 1 => n * d.len.toNat
  | 3 => n * d.len.toNat
  | 4 => d.nrec.toNat * d.len.toNat
  | _ => d.len.toNat
def clRecv (kind n : Nat) (d : ClDesc) : Nat := match kind with
  | 2 => n * d.len.toNat
  | 3 => n * d.len.toNat
  | 4 => d.cap.toNat * d.len.toNat
  | _ => d.len.toNat

/-- Records of a send buffer, and the destination in the first 4 bytes of each. -/
def recordsOf (z : Nat) (l : List PByte) : List (List PByte) := (List.range (l.length / z)).map fun i => (l.drop (z * i)).take z
def recordDst (r : List PByte) : Nat := natOfBytes (r.take 4)

/-- What each member receives (Table 7.8). -/
def clResult (kind : Nat) (d : ClDesc) (sends : List (List PByte)) (as_ : List Assigned) : List (List PByte) :=
  let n := sends.length
  let len := d.len.toNat
  let b := dtdBits d.ty.toNat
  let els := sends.map (eltsOf b)
  let count := (if kind = 1 then n * len else len) * 8 / b
  let sum := (List.range count).map fun i => combineAll d.op.toNat d.ty.toNat d.rnd.toNat (decide (d.ftz = 1)) (els.map fun l => l.getD i (0, false))
  (List.range n).map fun p => match kind with
    | 0 => bytesOf b sum
    | 1 =>
      let r := cutRange (0, count) n p
      bytesOf b ((sum.drop r.1).take (r.2 - r.1))
    | 2 => sends.flatten
    | 3 => sends.flatMap fun l => (l.drop (p * len)).take len
    | _ => (as_.filter fun a => decide (a.dst = p)).flatMap fun a => (recordsOf len (sends.getD a.src [])).getD a.pos []

/-- A member that has joined: its place, its issued command and its descriptor. -/
abbrev ClMember := (Nat × Nat) × Cmd × ClDesc
def ClMember.owner (d : ClDesc) (m : ClMember) : Nat := clOwner m.1.1 m.1.2 d.id.toNat

/-- The members of a collective that have joined it. -/
def State.clJoined (s : State) (kind : Nat) (d : ClDesc) : List ClMember :=
  (s.clGroup s.cur.cluster s.cur.ctx d).filterMap fun p => p.bind fun p => (s.clCmd p kind d).map fun x => (p, x.1, x.2)
/-- Every member has joined and none is stalled; the issued command that `cur.sel` names is not complete. -/
def State.clReady (s : State) (kind : Nat) (d : ClDesc) : Bool :=
  let ms := s.clJoined kind d
  (match s.issuedCmd? s.cur.cluster s.cur.ctx s.cur.sel with
    | some x => decide (x.q = 2) && !x.done
    | none => false) &&
    !(decide (ms.length < (s.clGroup s.cur.cluster s.cur.ctx d).length)) && !(ms.any fun m => m.2.1.stalled.isSome) &&
    s.running s.cur.cluster s.cur.ctx

/-- The members' send buffers are read, in order; the first access that cannot be made stops it. -/
def clReads (kind : Nat) (d : ClDesc) (ms : List ClMember) (s : State) : State × Except (ClMember × EngFail) (List (List PByte)) :=
  ms.foldl (fun a m => match a.2 with
    | .error e => (a.1, .error e)
    | .ok l => match a.1.engBytes m.1.1 m.1.2 (ClMember.owner d m) m.2.2.send (clSend kind ms.length m.2.2) with
      | (s1, .error e) => (s1, .error (m, e))
      | (s1, .ok bs) => (s1, .ok (l ++ [bs]))) (s, .ok [])

/-- The destinations of an irregular round, and its assignment (R160). -/
def clWant (kind : Nat) (d : ClDesc) (sends : List (List PByte)) : List (List Nat) :=
  if kind = 4 then sends.map fun l => (recordsOf d.len.toNat l).map recordDst else []
def clAssign (kind : Nat) (d : ClDesc) (ms : List ClMember) (sends : List (List PByte)) : List Assigned :=
  assignRound ms.length (fun j => match ms[j]? with
    | some m => m.2.2.cap.toNat
    | none => 0) (fun i => match ms[i]? with
    | some m => decide (m.2.2.reroute = 1)
    | none => false) (clWant kind d sends)

/-- What member i receives: its bytes at their address, and of an irregular all-to-all their count. -/
def clWrites (kind : Nat) (m : ClMember) (l : List PByte) : List (DWord × List PByte) :=
  (m.2.2.recv, l) :: (if kind = 4 then [(m.2.2.rbytes, pbytes 8 l.length false)] else [])
/-- The first member that cannot take what it receives; those on other nodes' pages are sent their bytes (R334). -/
def clFail (ms : List (ClMember × Nat × List (DWord × List PByte))) (s : State) : State × Option (ClMember × EngFail) :=
  ms.foldl (fun a m => m.2.2.foldl (fun (a : State × Option (ClMember × EngFail)) w =>
    if (a.2.any fun f => decide (f.2.code ≠ 0)) then a
    else match a.1.engReady m.1.1.1 m.1.1.2 m.2.1 w.1 w.2 with
      | (s1, some f) => (s1, if f.code ≠ 0 then some (m.1, f) else a.2.orElse fun _ => some (m.1, f))
      | (s1, none) => (s1, a.2)) a) (s, none)

/-- What member i receives is written, and its command is done: the byte count, or for an irregular all-to-all the tokens dropped and
rerouted. -/
def clPut (kind : Nat) (d : ClDesc) (ms : List ClMember) (want : List (List Nat)) (as_ : List Assigned) (out : List (List PByte)) (s : State) (i : Nat) :
    State := match ms[i]? with
  | none => s
  | some m =>
    let l := out.getD i []
    let owner := ClMember.owner d m
    let s3 := ((clWrites kind m l).foldl (fun s w => s.engPut m.1.1 m.1.2 owner w.1 w.2) s).engDone m.1.1 m.1.2 owner
    let mine := as_.filter fun a => decide (a.src = i)
    let dropped := (want.getD i []).length - mine.length
    let sat (n : Nat) : Nat := Nat.min n (2 ^ 24 - 1)
    let inc := if kind = 4 then sat dropped * 2 ^ 24 + sat (mine.filter fun a => a.moved).length else l.length
    let status := if kind = 4 ∧ dropped > 0 then 4 else if anyBad l then stPoisoned else stOk
    s3.cmdDone m.1.1 m.1.2 m.2.1.id inc status
/-- All members receive. -/
def clDeliver (kind : Nat) (d : ClDesc) (ms : List ClMember) (sends out : List (List PByte)) (s : State) : State :=
  (List.range ms.length).foldl (clPut kind d ms (clWant kind d sends) (clAssign kind d ms sends) out) s

/-- A collective runs when every member has enqueued it; until then the step only reads its tables. `cur.sel` is the issued command. -/
def clRun (kind : Nat) (d : ClDesc) (s : State) : Out :=
  let c := s.cur.cluster
  let k := s.cur.ctx
  match (s.issuedCmd? c k s.cur.sel).filter fun x => decide (x.q = 2) && !x.done && x.stalled.isNone && s.running c k with
  | none => .next s
  | some x => match s.clTables c k (engOwner x.id) d with
    | (s0, some f) => .next (s0.cmdStall c k x f)
    | (s0, none) =>
      let ms := s0.clJoined kind d
      if !(s0.clReady kind d) then .next (s0.engDone c k (engOwner x.id))
      else match clReads kind d ms s0 with
        | (s1, .error (m, e)) => .next (s1.cmdStall m.1.1 m.1.2 m.2.1 e)
        | (s1, .ok sends) =>
          let out := clResult kind d sends (clAssign kind d ms sends)
          match clFail ((List.range ms.length).filterMap fun i => ms[i]?.map fun m => (m, ClMember.owner d m, clWrites kind m (out.getD i []))) s1 with
          | (s2, some (m, e)) => .next (s2.cmdStall m.1.1 m.1.2 m.2.1 e)
          | (s2, none) => .next ((clDeliver kind d ms sends out s2).engDone c k (engOwner x.id))

/-- All-reduce (R310). -/
def execAllreduce (d : ClDesc) (s : State) : Out := clRun 0 d s
/-- Reduce-scatter (R310). -/
def execReduceScatter (d : ClDesc) (s : State) : Out := clRun 1 d s
/-- All-gather (R310). -/
def execAllgather (d : ClDesc) (s : State) : Out := clRun 2 d s
/-- All-to-all (R310). -/
def execAlltoall (d : ClDesc) (s : State) : Out := clRun 3 d s
/-- Irregular all-to-all (R160, R310). -/
def execIrregularAlltoall (d : ClDesc) (s : State) : Out := clRun 4 d s

/-! ### Collective nodes (R158, R159) -/

def State.modNode (s : State) (c k n : Nat) (f : CollNode → CollNode) : State :=
  s.modCtx (s.cidAt c k) fun x => match x.nodes.find? n with
    | some nd => { x with nodes := x.nodes.set n (f nd) }
    | none => x

/-- What the changes inside a node count (R68): each at the locations of the outputs that it goes to, from its emission on. -/
def State.nodeHolds (s : State) (nd : CollNode) : List Upd :=
  let at_ (o : Nat) (t : Token) : List Upd := match nd.dest.find? o with
    | some (tc, tk, tp, tvc) => (s.edgeDest tc tk (Edge.dni tp).entry.1 (Edge.dni tp).entry.2 tvc t).map fun l => ⟨l, t.time, 1⟩
    | none => []
  let chg (l : List Token) : List Token := l.filter fun t => decide (t.kind = kChg)
  (nd.ins.flatMap fun e => (chg e.2).flatMap fun t => (nd.towards e.1 (t.lane 4).toNat).flatMap fun o => at_ o t) ++
    nd.outs.flatMap fun e => (chg e.2).flatMap fun t => at_ e.1 t
/-- A node goes from one state to another: its changes are counted anew where they differ (R68, R400). -/
def State.nodeBecomes (s : State) (c k n : Nat) (nd nd1 : CollNode) : State :=
  let a := s.nodeHolds nd
  let b := s.nodeHolds nd1
  let more := a.foldl (fun l u => l.erase u) b
  let less := b.foldl (fun l u => l.erase u) a
  (s.modNode c k n fun _ => nd1).muApply (s.cidAt c k) (more ++ less.map fun u => { u with n := -1 })

/-- A result at the head of an output enters its region, if one can. -/
def State.nodeDeliver (s : State) (c k n : Nat) (nd : CollNode) : Option State :=
  nd.outs.findSome? fun o => match o.2, nd.dest.find? o.1 with
    | t :: rest, some (tc, tk, tp, tvc) =>
      (s.enterEdge tc (.dni tp) { t with ctx := BitVec.ofNat 2 tk, chan := BitVec.ofNat 5 tvc }).map fun s1 =>
        s1.modNode c k n fun nd => { nd with outs := nd.outs.set o.1 rest }
    | _, _ => none

def CollNode.head (nd : CollNode) (m : Nat) : Option Token := (nd.ins.get [] m).head?
def CollNode.pop (nd : CollNode) (m : Nat) : CollNode := { nd with ins := nd.ins.mod [] m (·.drop 1) }
def CollNode.put (nd : CollNode) (m : Nat) (t : Token) : CollNode := { nd with outs := nd.outs.mod [] m (· ++ [t]) }
def CollNode.putAll (nd : CollNode) (t : Token) : CollNode := (List.range nd.n).foldl (fun nd m => nd.put m t) nd
def CollNode.members (nd : CollNode) : List Nat := List.range nd.n
/-- The stream of a member has ended. -/
def CollNode.ended (nd : CollNode) (m : Nat) : Bool := (nd.ins.get [] m).any fun t => decide (t.kind = kEos)

/-- Every member's stream stands at an EOS: it leaves on every output. -/
def CollNode.endAll (nd : CollNode) : Option CollNode :=
  let atEos (m : Nat) : Bool := match nd.head m with
    | some t => decide (t.kind = kEos)
    | none => false
  if nd.n ≠ 0 ∧ nd.members.all atEos then
    (nd.head 0).map fun t => (nd.members.foldl (fun nd m => nd.pop m) nd).putAll t
  else none

/-- The tokens of a stream up to its first EOS. -/
def untilEos (l : List Token) : List Token := l.takeWhile fun t => decide (t.kind ≠ kEos)
def isData (t : Token) : Bool := decide (t.kind = kDense) || decide (t.kind = kChg)

/-- A reducing node takes a token at the head of a stream that it cannot combine: an ERR goes on to every output, another is consumed, since only
nodes that do not reduce forward an HDR (R159; DESIGN CHOICE for ERR, log 105). -/
def CollNode.sweep (nd : CollNode) : Option CollNode := nd.members.findSome? fun m => match nd.head m with
  | some t => if isData t ∨ t.kind = kEos then none else some (if t.kind = kErr then (nd.pop m).putAll t else nd.pop m)
  | none => none
/-- The token of a tag leaves each input that has one. -/
def CollNode.takeTag (nd : CollNode) (tag : Nat) : CollNode := nd.members.foldl (fun nd m =>
  { nd with ins := nd.ins.mod [] m fun l => match l.find? fun t => isData t && decide (t.tag.toNat = tag) with
    | some t => l.erase t
    | none => l }) nd
/-- A reducing node combines the tokens of its lowest tag, once every member has one (R152, R159). A tag that the stream of a member has ended
without is unmatched (R371; DESIGN CHOICE, log 105). -/
def CollNode.reduce (nd : CollNode) : Option CollNode :=
  let ls := nd.members.map fun m => (m, (untilEos (nd.ins.get [] m)).filter isData)
  match (ls.flatMap fun l => l.2.map fun t => t.tag.toNat) with
  | [] => none
  | x :: r =>
    let tag := r.foldl Nat.min x
    let has (l : List Token) : Option Token := l.find? fun t => decide (t.tag.toNat = tag)
    let ts := ls.filterMap fun l => has l.2
    match ts with
    | [] => none
    | t0 :: _ =>
      if ts.length < nd.n then
        (if ls.any fun l => (has l.2).isNone && nd.ended l.1 then
          some ((nd.takeTag tag).putAll (errToken 0x01 ts.length 0x3F 0 t0.colour t0.tag t0.last))
        else none)
      else
        let b := dtdBits nd.ty
        let els := ts.map fun t => splitLanes b t.lanes
        let sum := (List.range (els.headD []).length).map fun i =>
          (combineAll nd.op nd.ty nd.rnd nd.ftz (els.map fun l => (l.getD i 0, false))).1
        let res := { t0 with poison := ts.any fun t => t.poison }
        let nd1 := nd.takeTag tag
        some (if nd.kind = 0 then nd1.putAll { res with lanes := packLanes b sum }
          else nd.members.foldl (fun nd m =>
            let q := cutRange (0, sum.length) nd.n m
            nd.put m { res with lanes := packLanes b ((sum.drop q.1).take (q.2 - q.1)) }) nd1)

/-- The tokens of a source in a round: up to a token with last, or up to the end of its stream. What ends a source's round the spec does not say (DESIGN
CHOICE, log 138). -/
def roundPart (l : List Token) : Option (List Token) :=
  let d := untilEos l
  match d.findIdx? fun t => isData t && t.last with
  | some i => some (d.take (i + 1))
  | none => if d.length < l.length then some d else none
/-- The data tokens of a part with their places in it, in tag order, as a round takes them (R160). -/
def byTag (l : List Token) : List (Nat × Token) := (((List.range l.length).zip l).filter fun q => isData q.2).foldl (fun r q =>
  let upTo (u : Nat × Token) : Bool := decide (u.2.tag.toNat ≤ q.2.tag.toNat)
  r.takeWhile upTo ++ q :: r.dropWhile upTo) []
/-- An irregular node's round (R160): every token goes where the assignment puts it, unchanged and in its source's order; HDR and ERR go in their
place to every output (R159; DESIGN CHOICE for ERR, log 105). A token of fewer than five lanes goes to destination 0 (DESIGN CHOICE, log 139). With it, what the completion object of each source takes: count and status. -/
def CollNode.round (nd : CollNode) : Option (CollNode × List (Nat × Nat × Nat)) :=
  let ps := nd.members.map fun m => roundPart (nd.ins.get [] m)
  if nd.n = 0 ∨ ps.any Option.isNone then none
  else
    let rs := ps.map fun p => p.getD []
    let want := rs.map byTag
    let as_ := assignRound nd.n (fun _ => nd.cap) (fun _ => nd.reroute) (want.map fun l => l.map fun q => (q.2.lane 4).toNat)
    let nd1 := { nd with ins := nd.members.foldl (fun i m => i.mod [] m fun l => l.drop (rs.getD m []).length) nd.ins }
    let goes (m : Nat) (nd : CollNode) (q : Nat × Token) : CollNode :=
      if isData q.2 then (as_.filter fun a => decide (a.src = m) && decide ((want.getD m [])[a.pos]? = some q)).foldl (fun nd a => nd.put a.dst q.2) nd
      else nd.putAll q.2
    let sat (n : Nat) : Nat := Nat.min n (2 ^ 24 - 1)
    let tell (m : Nat) : Nat × Nat × Nat :=
      let mine := as_.filter fun a => decide (a.src = m)
      let dropped := (want.getD m []).length - mine.length
      (m, sat dropped * 2 ^ 24 + sat (mine.filter fun a => a.moved).length, if dropped > 0 then 4 else stOk)
    some (nd.members.foldl (fun nd m => ((List.range (rs.getD m []).length).zip (rs.getD m [])).foldl (goes m) nd) nd1, nd.members.map tell)

/-- One firing of a node on the streams that have arrived, with what it signals to its members' completion objects. -/
def CollNode.fire (nd : CollNode) : Option (CollNode × List (Nat × Nat × Nat)) :=
  let quiet (o : Option CollNode) : Option (CollNode × List (Nat × Nat × Nat)) := o.map fun x => (x, [])
  match nd.kind with
  | 0 | 1 => quiet (nd.endAll.orElse fun _ => nd.sweep.orElse fun _ => nd.reduce)
  | 2 => quiet (nd.endAll.orElse fun _ => (nd.head nd.turn).map fun t =>
      let next := (nd.turn + 1) % (Nat.max 1 nd.n)
      if t.kind = kEos then { nd with turn := next } else { (nd.pop nd.turn).putAll t with turn := if t.last then next else nd.turn })
  | 3 => quiet ((List.range (nd.n * nd.n)).findSome? fun q => (nd.head q).map fun t => (nd.pop q).put (q % nd.n * nd.n + q / nd.n) t)
  | _ => (quiet nd.endAll).orElse fun _ => nd.round

/-- The completion objects of a round are signalled at their members (R160). -/
def State.tellMembers (s : State) (nd : CollNode) (l : List (Nat × Nat × Nat)) : State := l.foldl (fun s q =>
  match nd.group[q.1]?, nd.objs.find? q.1 with
  | some p, some obj => s.signalVa p.1 p.2 obj q.2.1 q.2.2
  | _, _ => s) s

/-- COLLECTIVE_NODE_FIRE (R159): a node delivers a result that waits, or combines or forwards tokens. -/
def execCollectiveNodeFire (n : Nat) (s : State) : Out :=
  let c := s.cur.cluster
  let k := s.cur.ctx
  match (s.ctxAt c k).bind fun x => x.nodes.find? n with
  | none => .next s
  | some nd =>
    if !(s.running c k) then .next s
    else match s.nodeDeliver c k n nd with
      | some s1 => .next s1
      | none => match nd.fire with
        | some (x, l) => .next ((s.nodeBecomes c k n nd x).tellMembers nd l)
        | none => .next s

/-! ### ABORT (R399, Table 20.5) -/

/-- A node ends: the results already formed, an UNMATCHED ERR for the inputs left, and EOS on each output. -/
def CollNode.abort (nd : CollNode) : CollNode :=
  let left := (nd.ins.vals.flatten.filter fun t => decide (t.kind ≠ kEos))
  let like := left.headD { kind := kDense }
  let err := errToken 0x01 left.length 0x3F 0 like.colour like.tag like.last
  let eos : Token := { kind := kEos, colour := like.colour, tag := like.tag, lanes := [0] }
  let outs := nd.outs.map Prod.fst ++ (nd.dest.map Prod.fst).filter fun o => (nd.outs.find? o).isNone
  outs.foldl (fun (nd : CollNode) o => (if left.isEmpty then nd else nd.put o err).put o eos) { nd with ins := [] }

/-- What a member has received of `total` bytes from other modules as an ABORT reaches it: an open number of open bytes, as how the modules' parts come
together is not said, and none where its buffer is not to be written here and now (R399; DESIGN CHOICE, log 99). They stand in its buffer, and a line of
which only some have come is marked. -/
def State.received (s : State) (c k owner : Nat) (at_ : DWord) (total : Nat) : State × Nat :=
  let n := Nat.min (Config.abortedAfter s.tick) total
  let near (a : DWord) : Bool := match (s.translate c true (s.rootAt c k) a .store).2 with
    | .ok key => !(isFar key)
    | .error _ => false
  if (s.engCheck c k owner at_ n).2.isSome || !((chunks at_.toNat n).all fun q => near (at_ + BitVec.ofNat 64 q.1)) then (s, 0)
  else
    let s1 := s.engPut c k owner at_ ((List.range n).map fun i => ((Config.receivedByte s.tick i).toNat, false))
    let stop := at_ + BitVec.ofNat 64 n
    match (s1.translate c true (s1.rootAt c k) (stop - 1) .store).2 with
    | .ok key => (if 0 < n ∧ n < total ∧ stop.toNat % 64 ≠ 0 then s1.poisonLine (key / 64 * 64) else s1, n)
    | .error _ => (s1, n)

/-- The collective of an id at a member ends: the bytes received so far are counted, and its ranges are released. -/
def State.abortCl (s : State) (c k : Nat) (id : BitVec 24) : State := (s.stream c k).issued.foldl (fun s x =>
  match (decodeCl x.desc).bind clOf with
  | some (kind, d) =>
    if x.q ≠ 2 ∨ x.done ∨ d.id ≠ id then s
    else
      let owner := clOwner c k id.toNat
      let r := s.received c k owner d.recv (clRecv kind (s.clGroup c k d).length d)
      (r.1.modIssued c k x.id fun x => { x with done := true, inc := r.2, status := stAborted, stalled := none }).modCtx (s.cidAt c k) fun y => y.release owner
  | none => s) s
/-- A conversion ends at member p, once: busy is clear, the member's ranges are released, and done is signalled with the bytes copied into its buffer. Of a
conversion with members on other modules these are what has come from there. It is gone when every member here has left it. -/
def State.abortConv (s : State) (p : Nat × Nat) (op : CollOp) : State :=
  let (c, k) := p
  let cid := s.cidAt c k
  let m := op.places.findIdx fun q => decide (q = p)
  if op.left.contains m ∨ op.places.length ≤ m then s
  else
    let d := s.dtdAt c k op.dtd
    let own := convOwner p op.id
    let me := s.memberAt c k
    let total := ((pointsOf (localShape d (s.meshAt c k) op.target me)).length * dtdBits d.ty + 7) / 8
    let r := if op.away then s.received c k own (d.buf me) (Nat.min total d.cap.toNat) else (s, op.bytes.get 0 m)
    let left := m :: op.left
    let go (o : CollOp) : CollOp := if o.id = op.id then { o with left := left } else o
    let s1 := (r.1.setBusy c k op.dtd false).modCtx cid fun x =>
      { x.release own with colls := if left.length < op.places.length then x.colls.map go else x.colls.filter fun o => decide (o.id ≠ op.id) }
    s1.signalVa c k op.done r.2 stAborted

/-- ABORT (R399): a collective, conversion or node with the id that is in flight at the member ends, once. -/
def execAbort (id : BitVec 24) (s : State) : Out :=
  let c := s.cur.cluster
  let k := s.cur.ctx
  let s1 := s.abortCl c k id
  match s.ctxAt c k with
  | none => .next s1
  | some x => match x.colls.find? fun op => decide (op.id = id.toNat) with
    | some op => .next (s1.abortConv (c, k) op)
    | none => .next ((x.nodes.filter fun e => decide (e.2.id = id.toNat)).foldl (fun s e => s.nodeBecomes c k e.1 e.2 e.2.abort) s1)

end Sys2Proof.Machine
end

