-- ==== Sys2Proof/Machine/SeqEnq.lean ====
section
/-! DEFINITION. Engine enqueues, completion objects and barriers, configuration and context commands of the sequencer (R218 to
R230). -/
namespace Sys2Proof.Machine

/-- A command as captured at its ENQ's position (R105, R218). -/
def Stream.capture (st : Stream) (q : Nat) (i : Instr) (a b c : BitVec 6) (flg : BitVec 4) : Cmd :=
  { q := q, a := st.view.rs a, obj := st.view.rs b, c := st.view.rs c, flg := flg,
    rm := BitVec.ofNat 2 (st.view.fpcr.toNat % 4), ftz := st.view.ftz, word := (encodeSeq i).getD 0, idx := st.idx }

/-- An ENQ (R218): the alignment of s(a) and of the object (Table 18.1 MISALIGN 3), the ENGINE condition of its queue, then the
command is held in the buffer. -/
def seqEnq (s : State) (al : Nat) (cmd : Cmd) (bad : Option (Nat × DWord)) : Out :=
  if cmd.a.toNat % al ≠ 0 then .next (s.trapHere 2 3 cmd.a)
  else if cmd.obj.toNat % 16 ≠ 0 then .next (s.trapHere 2 3 cmd.obj)
  else match bad with
    | some (d, v) => .next (s.trapHere 0x0D d v)
    | none => .next (s.seqPure fun st => st.addEff (.enq cmd))

/-- An MX command: words 0 and 1 (R219). -/
def execEnqMx (a b c : BitVec 6) (s : State) : Out := seqEnq s 1 (s.me.capture 0 (.enqMx a b c) a b c 0) none

/-- The ME with an index is typed AG for the acting stream's context (R219). -/
def State.agTyped (s : State) (c k m : Nat) : Bool := match s.elem? c (meSite m) k with
  | some e => decide (e.typ = typAg)
  | none => false

/-- An AG run (R219); ENGINE 2 where s(a)[63:9] is not zero or the ME is not typed AG. -/
def execEnqAg (a b c : BitVec 6) (f : BitVec 1) (s : State) : Out :=
  let x := s.me.view.rs a
  seqEnq s 1 (s.me.capture 1 (.enqAg a b c f) a b c (f.zeroExtend 4))
    (if x.toNat ≥ 2 ^ 9 ∨ !(s.agTyped s.cur.cluster s.cur.ctx (x.toNat % 32)) then some (2, x) else none)

/-- A collective named by a descriptor (R310). -/
def execEnqCl (a b : BitVec 6) (s : State) : Out := seqEnq s 64 (s.me.capture 2 (.enqCl a b) a b 0 0) none
/-- A link command named by a descriptor (R311). -/
def execEnqLk (a b : BitVec 6) (s : State) : Out := seqEnq s 64 (s.me.capture 3 (.enqLk a b) a b 0 0) none
/-- A scrub named by a descriptor (R312). -/
def execEnqSc (a b : BitVec 6) (s : State) : Out := seqEnq s 64 (s.me.capture 4 (.enqSc a b) a b 0 0) none

/-- The lanes of a TI command (R220): two for each register from c on, the last odd one ignored. -/
def tiLanes (r : Regs) (c : BitVec 6) (w : Nat) : List Word :=
  ((List.range ((w + 1) / 2)).flatMap fun i =>
    let v := r.rs (c + BitVec.ofNat 6 i)
    [v.extractLsb' 0 32, v.extractLsb' 32 32]).take w

/-- Why a TI header is refused (Table 18.1, ENGINE 3 and 4). -/
def State.tiBad (s : State) (c k p : Nat) (h : DWord) (reg : Nat) : Option (Nat × DWord) :=
  let t := Token.ofHeader h []
  let w := h.bits 60 56 + 1
  let ws := (s.site c p).takers none 0 k t.chan.toNat
  if t.kind = 7 ∨ h.bits 22 16 ≠ 0 ∨ ws.isEmpty ∨ badWidth ws { t with lanes := List.replicate w 0 } then some (3, h)
  else if reg + (w + 1) / 2 > 64 then some (4, h)
  else none

/-- Injection of a token at a TI port (R220). -/
def execEnqTi (a b c : BitVec 6) (p : BitVec 2) (s : State) : Out :=
  let h := s.me.view.rs a
  let cmd := s.me.capture 5 (.enqTi a b c p) a b c (p.zeroExtend 4)
  seqEnq s 1 { cmd with lanes := tiLanes s.me.view c (h.bits 60 56 + 1) }
    (s.tiBad s.cur.cluster s.cur.ctx p.toNat h c.toNat)

/-- The next token of a TO port goes to memory (R221). -/
def execEnqTo (a b : BitVec 6) (p : BitVec 2) (s : State) : Out :=
  seqEnq s 8 (s.me.capture 6 (.enqTo a b p) a b 0 (p.zeroExtend 4)) none

/-- A demanded placement state holds no reserved code (Table 7.4, R148). -/
def stateOk (nd : Nat) (st : Nat) : Bool :=
  (List.range 4).all fun i =>
    let c := st / 16 ^ i % 16
    decide (c = 0) || (decide (4 ≤ c) && decide (c ≤ 7) && decide (c - 4 ≤ nd)) || (decide (8 ≤ c) && decide (c ≤ 10))

/-- Whether the DTD index and demanded state of a PL command are good (Table 18.1, ENGINE 5); none while the words that say so cannot be read yet (R25,
R334). Where they do not translate nothing can be judged: the command is taken, and its conversion stalls on them (R388). -/
def State.plGood (s : State) (c k : Nat) (idx st : Nat) : State × Option Bool :=
  match s.ctxAt c k with
  | none => (s, some false)
  | some x =>
    let who := farStream c k
    match s.tableRd c k who x.ptab 8 with
    | (s1, .error (code, _)) => (s1, if code = 0 then none else some true)
    | (s1, .ok h) =>
      if idx ≥ h % 2 ^ 16 then (s1, some false)
      else match s1.tableRd c k who (x.ptab + 64 + BitVec.ofNat 64 (64 * idx)) 8 with
        | (s2, .error (code, _)) => (s2, if code = 0 then none else some true)
        | (s2, .ok d) => (s2, some (stateOk (d / 2 ^ 27 % 4) st))

/-- A demand for a placement state (R222); ENGINE 5 for an index or a state the placement table does not allow. -/
def execEnqPl (a b c : BitVec 6) (s : State) : Out :=
  let r := s.me.view
  match s.plGood s.cur.cluster s.cur.ctx ((r.rs a).bits 9 0) ((r.rs c).bits 15 0) with
  | (s1, none) => .next s1.waitHere
  | (s1, some good) => seqEnq s1 1 (s1.me.capture 7 (.enqPl a b c) a b c 0) (if good then none else some (5, r.rs c))

/-! ### Completion objects and barriers -/

/-- The read of a waiting instruction (R224, R227): BLOCKFMT 4 where W is clear, then the checks of the object, then its
16 or 32 bytes through the block view; of another node's object each look is a READ of its own (R334). -/
def State.waitRead (s : State) (va : DWord) (al : Nat) : State × Except (Nat × Nat × DWord) Nat :=
  if !s.me.wflag then (s, .error (0x0C, 4, s.me.pc))
  else match s.objectAt va al .load with
    | (s1, .error (code, d)) => (s1, .error (code, d, va))
    | (s1, .ok key) =>
      let who := farStream s1.cur.cluster s1.cur.ctx
      if isFar key then match s1.farLoad who key al with
        | (s2, .error (code, d)) => (s2, .error (code, d, va))
        | (s2, .ok _) => (s2, .ok key)
      else match s1.touch key al with
      | (s2, 0) => (s2, .ok key)
      | (s2, 1) => (s2, .error (9, 1, va))
      | (s2, _) => (s2, .error (8, 1, va))

/-- WAITC: waits until the object's count is at least s(b)[47:0] (R224). -/
def execWaitc (a b : BitVec 6) (s : State) : Out :=
  let va := s.me.view.rs a
  let n := (s.me.view.rs b).bits 47 0
  match s.waitRead va 16 with
  | (s1, .error (code, d, x)) => .next (s1.stopAt code d x)
  | (s1, .ok key) =>
    if n ≤ s1.viewRd key 8 % 2 ^ 48 then .next (s1.seqPure fun st => st) else .next s1.waitHere

/-- SIGC: a signal of the object at the block's commit (R225). -/
def execSigc (a b : BitVec 6) (x : BitVec 3) (s : State) : Out :=
  let va := s.me.view.rs a
  let inc := (s.me.view.rs b).bits 47 0
  match s.objectAt va 16 .store with
  | (s1, .error (code, d)) => .next (s1.stopAt code d va)
  | (s1, .ok key) => .next (s1.seqPure fun st => st.addEff (.signal va key inc x.toNat))

/-- WAITB: waits until arrived ≥ expected, then writes the poison flag (R227); POISON 2 for a strict poisoned barrier (R384). -/
def execWaitb (p : BitVec 3) (a : BitVec 6) (s : State) : Out :=
  let va := s.me.view.rs a
  match s.waitRead va 32 with
  | (s1, .error (code, d, x)) => .next (s1.stopAt code d x)
  | (s1, .ok key) =>
    let flags := s1.viewRd (key + 16) 8
    if s1.viewRd key 8 ≤ s1.viewRd (key + 8) 8 then
      if flags % 4 = 3 then .next (s1.trapHere 8 2 va)
      else .next (s1.seqPure fun st => { st with view := st.view.wp p (decide (flags % 2 = 1)) })
    else .next s1.waitHere

/-- BARA: arms the barrier at the block's commit (R226). -/
def execBara (a b : BitVec 6) (x : BitVec 1) (s : State) : Out :=
  let va := s.me.view.rs a
  let e := s.me.view.rs b
  match s.objectAt va 32 .store with
  | (s1, .error (code, d)) => .next (s1.stopAt code d va)
  | (s1, .ok key) => .next (s1.seqPure fun st => st.addEff (.bara va key e (decide (x = 1))))

/-! ### Configuration and context commands -/

/-- The queue number under which the model keeps the configuration queue (R228). -/
def qCfg : Nat := 8

/-- A CFG command (R228): MISALIGN 3 for its object, ENGINE 7 for the fifth of a block. -/
def seqCfg (s : State) (cmd : Cmd) : Out :=
  if cmd.obj.toNat % 16 ≠ 0 then .next (s.trapHere 2 3 cmd.obj)
  else if (s.me.effs.filter fun e => match e.2 with
      | .cfg _ => true
      | _ => false).length ≥ 4 then .next (s.trapHere 0x0D 7 (cmd.word.zeroExtend 64))
  else .next (s.seqPure fun st => st.addEff (.cfg cmd))

/-- cfg.load (Table 10.12). -/
def execCfgLoad (a b c : BitVec 6) (s : State) : Out := seqCfg s (s.me.capture qCfg (.cfgLoad a b c) a b c 0)
/-- cfg.switch (Table 10.12). -/
def execCfgSwitch (b c : BitVec 6) (s : State) : Out := seqCfg s (s.me.capture qCfg (.cfgSwitch b c) 0 b c 1)
/-- cfg.page (Table 10.12). -/
def execCfgPage (a b : BitVec 6) (s : State) : Out := seqCfg s (s.me.capture qCfg (.cfgPage a b) a b 0 2)

/-- The node at a physical address is a context RCB of a partition (R230, Table 2.1). -/
def State.isContextOf (s : State) (pa part : Nat) : Bool :=
  decide (pa % 256 = 0) && decide (s.rd (hbm pa) 8 / 2 ^ 62 = 2) &&
    decide (s.rd (hbm (s.rd (hbm (pa + 8)) 8 + 8)) 8 = part)

/-- A CTX command (R230): s(a) is translated as a load of 8 bytes; PERM 4 where it lies outside local HBM or names no context
RCB of the issuer's partition; ENGINE 6 for the launch of a node that is neither idle nor retired. -/
def seqCtx (s : State) (fn : Nat) (a : BitVec 6) (n : Nat) : Out :=
  let va := s.me.view.rs a
  match s.translate s.cur.cluster false (s.rootAt s.cur.cluster s.cur.ctx) va .load with
  | (s1, .error (code, d)) => .next (s1.stopAt code d va)
  | (s1, .ok key) =>
    let part := match s1.ctxAt s1.cur.cluster s1.cur.ctx with
      | some x => x.part
      | none => 0
    let st := s1.rd (key + 4) 1
    if keyAp key ≠ 0 ∨ !(s1.isContextOf (keyPa key) part) then .next (s1.trapHere 4 4 va)
    else if fn = 0 ∧ st ≠ 0 ∧ st ≠ 4 then .next (s1.trapHere 0x0D 6 va)
    else .next (s1.seqPure fun st => st.addEff (.ctx fn (keyPa key) n))

/-- ctx.launch (Table 10.13). -/
def execCtxLaunch (a : BitVec 6) (s : State) : Out := seqCtx s 0 a 0
/-- ctx.prio (Table 10.13). -/
def execCtxPrio (a : BitVec 6) (n : BitVec 4) (s : State) : Out := seqCtx s 1 a n.toNat
/-- ctx.susp (Table 10.13). -/
def execCtxSusp (a : BitVec 6) (s : State) : Out := seqCtx s 2 a 0
/-- ctx.resume (Table 10.13). -/
def execCtxResume (a : BitVec 6) (s : State) : Out := seqCtx s 3 a 0
/-- ctx.evict (Table 10.13). -/
def execCtxEvict (a : BitVec 6) (s : State) : Out := seqCtx s 4 a 0

end Sys2Proof.Machine
end

