-- ==== Sys2Proof/Machine/Pricking.lean ====
section
/-! DEFINITION. What the loader reads in a pricking and checks of it (R27, R28, R358, Table 18.4, R424). -/
namespace Sys2Proof.Machine

/-! ### Reading -/

/-- A tile declaration (R28): tile, ME, offset and length in bytes, format. -/
structure TileDecl where
  tile : Nat
  me : Nat
  off : Nat
  len : Nat
  fmt : Nat
  deriving DecidableEq, Repr, Inhabited

/-- A pricking as the loader reads it for context slot k: types, shares, units and switch words (used or not) of the 64 sites, colour
table entries and tile declarations, and with it the field nd of each DTD of the context it is loaded for (R148). -/
structure Prick where
  types : List Nat
  shares : List Nat
  units : List ElemUnit
  words : List (List SwWord)
  colours : List DWord
  tiles : List TileDecl
  nd : Nat → Nat := fun _ => 3
  deriving Inhabited

/-- A tile declaration from its doubleword (R28). -/
def tileDecl (d : DWord) : TileDecl :=
  { tile := d.bits 63 56, me := d.bits 55 51, off := 64 * d.bits 50 41, len := 64 * (d.bits 40 34 + 1), fmt := d.bits 33 30 }
/-- A colour declaration from its table entry (Table 2.9). -/
def colourDecl (d : DWord) : ColourDecl :=
  { dyn := d.getLsbD 62, wid := d.bits 61 57 + 1, tags := d.bits 56 49 + 1, depth := d.bits 48 47, kl := d.bits 46 42, vl := d.bits 41 37 }
def State.imgColour (s : State) (im c : Nat) : DWord := BitVec.ofNat 64 (s.img im (s.img im 0x24 4 + 8 * c) 8)

def State.prick (s : State) (im k : Nat) : Prick :=
  let sites := List.range 64
  { types := sites.map (s.siteType im), shares := sites.map (s.siteShare im), units := sites.map (s.unitAt im),
    words := sites.map fun x => (List.range 24).map (s.boxWord im x k),
    colours := (List.range 64).map (s.imgColour im),
    tiles := (List.range (s.img im 0x2C 4)).map fun i => tileDecl (BitVec.ofNat 64 (s.img im (s.img im 0x28 4 + 8 * i) 8)) }

def Prick.typ (p : Prick) (site : Nat) : Nat := p.types.getD site 0
def Prick.share (p : Prick) (site : Nat) : Nat := p.shares.getD site 0
def Prick.unit (p : Prick) (site : Nat) : ElemUnit := p.units.getD site {}
/-- The words of a box in use. -/
def Prick.used (p : Prick) (site : Nat) : List SwWord := (p.words.getD site []).filter fun w => decide (w.inp ≠ 6)
def Prick.elem (p : Prick) (site : Nat) : Elem := { typ := p.typ site, share := p.share site, unit := some (p.unit site) }
def Prick.info (p : Prick) (site slot : Nat) : Option SlotInfo := (p.elem site).slotInfo site slot
def Prick.konst (p : Prick) (site i : Nat) : Word := (p.unit site).consts.get 0 i
def Prick.desc (p : Prick) (site n : Nat) : DescW := (p.unit site).descs.get [] n
/-- A declared colour. -/
def Prick.colour? (p : Prick) (c : Nat) : Option ColourDecl :=
  let d := p.colours.getD c 0
  if d.getLsbD 63 then some (colourDecl d) else none
/-- The configured slots: site, slot, information. -/
def Prick.slots (p : Prick) : List (Nat × Nat × SlotInfo) := (List.range 64).flatMap fun x => (List.range 16).filterMap fun i =>
  (p.info x i).map fun s => (x, i, s)

/-! ### Routes and fixed colours (R241, R424) -/

/-- The element inputs that a route leads to: site and port (3 for the command input). -/
def Prick.reach (p : Prick) : Nat → Option Nat → Nat → Nat → Nat → List (Nat × Nat)
  | 0, _, _, _, _ => []
  | fuel + 1, net, site, inp, vc =>
    ((p.used site).filter fun w => decide (w.inp.toNat = inp) && decide (w.vc.toNat = vc) && (match net with
      | some n => decide (w.net.toNat = n)
      | none => true)).flatMap fun w =>
        if w.out.toNat ≥ 4 then [(site, w.out.toNat - 4)]
        else match neighbour site w.out.toNat with
          | some n => p.reach fuel (some w.net.toNat) n (opposite w.out.toNat) vc
          | none => []

/-- What a route into an element input carries. -/
inductive Src where
  | slot (site slot : Nat)
  | mem (slot : Nat)
  | edge
  deriving DecidableEq, Repr

/-- A feed of a port: site, port, the slot it is bound for (none where the token names it), its source and its channel. -/
structure Feed where
  site : Nat
  port : Nat
  slot : Option Nat
  src : Src
  vc : Nat := 0
  deriving DecidableEq, Repr

/-- The channels that the words of a box take from an input. -/
def Prick.vcs (p : Prick) (site inp : Nat) : List Nat := (((p.used site).filter fun w => decide (w.inp.toNat = inp)).map fun w => w.vc.toNat).eraseDups

/-- Edge inputs of the fabric: site, input, and whether it is a memory slice interface. -/
def edgeInputs : List (Nat × Nat × Bool) :=
  [0, 1, 2, 3].map (fun n => (n, 0, false)) ++ [0, 8, 16, 24].map (fun n => (n, 3, false)) ++
    (List.range 8).map (fun y => (8 * y + 7, 1, false)) ++ [56, 58, 60, 62].map (fun n => (n, 2, true))

def Prick.feeds (p : Prick) : List Feed :=
  let out := p.slots.flatMap fun (x, i, _) => [0, 1].flatMap fun o =>
    (p.reach routeFuel none x (4 + o) (16 * o + i)).map fun q => (⟨q.1, q.2, some i, .slot x i, 16 * o + i⟩ : Feed)
  let loc := p.slots.filterMap fun (x, i, info) => info.loc.map fun d => (⟨x, 1, some d, .slot x i, i⟩ : Feed)
  let edge := edgeInputs.flatMap fun (x, inp, mem) => (p.vcs x inp).flatMap fun vc =>
    (p.reach routeFuel none x inp vc).map fun q => if mem then (⟨q.1, q.2, some (vc % 16), .mem (vc % 16), vc⟩ : Feed) else ⟨q.1, q.2, none, .edge, vc⟩
  out ++ loc ++ edge

/-- The edges of the fabric at which a route leaves it. -/
def Prick.leaves (p : Prick) : Nat → Option Nat → Nat → Nat → Nat → List Edge
  | 0, _, _, _, _ => []
  | fuel + 1, net, site, inp, vc =>
    ((p.used site).filter fun w => decide (w.inp.toNat = inp) && decide (w.vc.toNat = vc) && (match net with
      | some n => decide (w.net.toNat = n)
      | none => true)).flatMap fun w =>
        if w.out.toNat ≥ 4 then []
        else match neighbour site w.out.toNat with
          | some n => p.leaves fuel (some w.net.toNat) n (opposite w.out.toNat) vc
          | none => (edgeOf site w.out.toNat).toList
def Edge.isMem : Edge → Bool
  | .mem _ => true
  | _ => false
def Edge.isDni : Edge → Bool
  | .dni _ => true
  | _ => false
/-- The AG slots of a number whose replies enter the fabric by a memory slice interface (R17, R192): they write o0, and its route, if there is
one, is one of requests (log 13). -/
def Prick.bySlice (p : Prick) (i : Nat) : List (Nat × SlotInfo) :=
  (p.slots.filter fun q => decide (q.2.1 = i) && decide (p.typ q.1 = 2) && !(isCeSite q.1) && q.2.2.outs.contains 0 &&
    (!(p.vcs q.1 4).contains i || (p.leaves routeFuel none q.1 4 i).any Edge.isMem)).map fun q => (q.1, q.2.2)

/-- The feeds of a slot's port. -/
def feedsOf (fs : List Feed) (site slot port : Nat) : List Feed := fs.filter fun f =>
  decide (f.site = site) && decide (f.port = port) && (match f.slot with
    | some i => decide (i = slot)
    | none => true)

/-- The colour that a slot's own word fixes (R424): that of a recolouring with k ≠ 0, a result colour constant that the row names (pack, unpack
and alc.alloc read kN for every k, k0 included), or the colour of its stream descriptor. -/
def Prick.own (p : Prick) (site slot : Nat) (info : SlotInfo) : Option Nat :=
  let k := info.w.k.toNat
  let at_ (i : Nat) : Option Nat := some ((p.konst site i).toNat % 64)
  let named := decide (info.op = 23) || (decide (info.op = 22) && decide (info.fn = 0))
  let recol := decide (k ≠ 0) && ([7, 8, 9, 36, 37].contains info.op || (decide (info.op = 21) && decide (info.fn ≥ 2)) ||
    (decide (info.op = 20) && decide (info.fn = 1)) || (decide (info.op = 32) && (decide (info.fn = 2) || decide (info.fn = 3))) ||
    (decide (info.op = 33) && decide (info.fn ≤ 1)) || (decide (info.op = 35) && decide (info.fn = 0)))
  if isCeSite site then (if named || recol then at_ k else none)
  else match info.i with
    | .agsRd w | .agsRdcf w | .agsScrub w | .agxChase w | .pld w => some (dColour (p.desc site w.desc.toNat))
    | .ttbLook w | .ttbIns w | .ttbEvict w | .ttbFill w | .tilSetf w | .tilReady w | .tilDrain w | .tilEmpty w | .tilPush w
    | .tilPop w | .tilQuery w => at_ w.k.toNat
    | .arrIns w | .arrSeek w | .arrCmpt w | .arrMrg w => at_ (w.k.toNat + 1)
    | _ => let _ := slot; none

/-- One colour that all of a nonempty list share. -/
def sameColour (l : List (Option Nat)) : Option Nat := match l with
  | some c :: r => if r.all fun x => decide (x = some c) then some c else none
  | _ => none

/-- The fixed colour of a port, given those of the slot outputs found so far (key 16 · site + slot); what enters by a memory slice interface has that
of the slots whose replies it carries. -/
def Prick.fixIn (p : Prick) (fs : List Feed) (t : Map Nat) (site slot port : Nat) : Option Nat :=
  sameColour ((feedsOf fs site slot port).map fun f => match f.src with
    | .slot x i => t.find? (16 * x + i)
    | .mem i => sameColour ((p.bySlice i).map fun q => t.find? (16 * q.1 + i))
    | .edge => none)

/-- The fixed colours of slot outputs: those that rule R424 derives in finitely many steps (DEDUCED, log 23). -/
def Prick.fixOuts (p : Prick) (fs : List Feed) : Nat → Map Nat → Map Nat
  | 0, t => t
  | n + 1, t =>
    let t1 := p.slots.foldl (fun (t : Map Nat) q =>
      match p.own q.1 q.2.1 q.2.2 with
      | some c => t.set (16 * q.1 + q.2.1) c
      | none => if !(q.2.2.reads.contains 0) then t else match p.fixIn fs t q.1 q.2.1 0 with
        | some c => t.set (16 * q.1 + q.2.1) c
        | none => t) t
    if t1 = t then t else p.fixOuts fs n t1

/-- What the loader derives once of a pricking: its feeds and fixed colours. -/
structure Fixed where
  feeds : List Feed
  outs : Map Nat
def Prick.fixed (p : Prick) : Fixed :=
  let fs := p.feeds
  ⟨fs, p.fixOuts fs 1024 []⟩
def Fixed.inCol (x : Fixed) (p : Prick) (site slot port : Nat) : Option Nat := p.fixIn x.feeds x.outs site slot port
/-- The width that a static fixed colour fixes. -/
def Prick.fixWidth (p : Prick) (c : Option Nat) : Option Nat := match c.bind p.colour? with
  | some d => if d.dyn then none else some d.wid
  | none => none

/-! ### Windows and sources (R36, R67, R68) -/

/-- A CE slot takes a window in modes all and sequence, and in the others when it reads port C. -/
def SlotInfo.hasWindow (info : SlotInfo) : Bool :=
  !info.reads.isEmpty && (decide (info.w.fire = 0) || decide (info.w.fire = 3) || info.reads.contains 2)
/-- The window of a slot (R36). -/
def Prick.window (p : Prick) (x : Fixed) (site slot : Nat) (info : SlotInfo) : Nat :=
  match (x.inCol p site slot (if info.w.fire = 2 then 1 else 0)).bind p.colour? with
  | some d => d.tags
  | none => ((List.range 64).filterMap p.colour?).foldl (fun m d => Nat.max m d.tags) 1
def Prick.windows (p : Prick) (x : Fixed) (site : Nat) : Map Nat :=
  (List.range 16).filterMap fun i => (p.info site i).bind fun info => if info.hasWindow then some (i, p.window x site i info) else none

/-- The slots of a site whose port A width the pricking fixes (R279, R424). -/
def Prick.fixedAs (p : Prick) (x : Fixed) (site : Nat) : List Nat :=
  (List.range 16).filter fun i => (p.fixWidth (x.inCol p site i 0)).isSome

/-- A slot that consumes changes (R68): a CE family 0x20 to 0x28 or an arr slot. -/
def SlotInfo.changes (info : SlotInfo) (site : Nat) : Bool :=
  if isCeSite site then decide (32 ≤ info.op) && decide (info.op ≤ 40)
  else match info.i with
    | .arrIns _ | .arrSeek _ | .arrCmpt _ | .arrMrg _ => true
    | _ => false

/-- The slots reached from a list of slots through the feeds. -/
def spread (fs : List Feed) (p : Prick) : Nat → List (Nat × Nat) → List (Nat × Nat)
  | 0, l => l
  | n + 1, l =>
    let more := (p.slots.filter fun q => !(l.contains (q.1, q.2.1)) && q.2.2.reads.any fun port =>
      (feedsOf fs q.1 q.2.1 port).any fun f => match f.src with
        | .slot x i => l.contains (x, i)
        | .mem i => (p.bySlice i).any fun a => l.contains (a.1, i)
        | .edge => false).map fun q => (q.1, q.2.1)
    if more.isEmpty then l else spread fs p n (l ++ more)
/-- TI port n is a source (R68): its routes lead, through any slots, to a port of a slot that consumes changes. A slot reads what reaches
its element's port, whatever slot number a header names (DEDUCED, log 24). No AG stream is one (DESIGN CHOICE, log 107). -/
def Prick.isSource (p : Prick) (x : Fixed) (n : Nat) : Bool :=
  let ends := (p.vcs n 0).flatMap fun vc => p.reach routeFuel none n 0 vc
  let first := (p.slots.filter fun q => q.2.2.reads.any fun port => ends.contains (q.1, port)).map fun q => (q.1, q.2.1)
  (spread x.feeds p 1024 first).any fun q => match p.info q.1 q.2 with
    | some info => info.changes q.1
    | none => false

/-! ### Checks (Table 18.4) -/

/-- A failing check: reason, site, slot or descriptor, and what failed (Table 18.6). -/
structure LoadBad where
  reason : Nat
  site : Nat := 0x3F
  slot : Nat := 0
  at_ : Nat := 0
  deriving DecidableEq, Repr

def failIf (c : Bool) (b : LoadBad) : Option LoadBad := if c then some b else none
/-- The first failing check of a list. -/
def firstOf {α : Type} (l : List α) (f : α → Option LoadBad) : Option LoadBad := l.findSome? f

/-- A word's operation and type are permitted (reason 2). -/
def ceTyped (w : Word) : Bool := match cePick (w.extractLsb' 26 6).toNat (w.extractLsb' 22 4) with
  | none => false
  | some i => match i.ce? with
    | none => false
    | some f =>
      let cw := ceFields w
      f.tys.contains cw.ty.toNat && (match i with
        | .ceCmp => decide (cw.fn.toNat ≤ 7) || (decide (cw.fn.toNat ≤ 9) && intTys.contains cw.ty.toNat)
        | .cvt => (decide (cw.fn.toNat ≤ 12) || decide (cw.fn.toNat = 15)) && decide (cw.fn ≠ cw.ty)
        | .deq => decide (6 ≤ cw.fn.toNat) && decide (cw.fn.toNat ≤ 12)
        | _ => true)
def bankOp : Instr → Bool
  | .ttbLook _ | .ttbIns _ | .ttbEvict _ | .tilSetf _ | .tilReady _ | .tilDrain _ | .tilEmpty _ | .tilPush _ | .tilPop _ | .tilQuery _
  | .arrIns _ | .arrSeek _ | .arrCmpt _ | .arrMrg _ | .bar _ => true
  | _ => false
def arrOp : Instr → Bool
  | .arrIns _ | .arrSeek _ | .arrCmpt _ | .arrMrg _ => true
  | _ => false
def meTyped (typ : Nat) (w : Word) : Bool :=
  if (w.extractLsb' 26 6).toNat = 3 then decide ((w.extractLsb' 5 3).toNat ≤ 2) && decide (typ ≠ 3)
  else match mePick (w.extractLsb' 26 6).toNat (w.extractLsb' 22 4) (meFields w) with
    | none => false
    | some i => (match i.me? with
        | some (f, mw) => f.tys.contains mw.ty.toNat
        | none => false) && (decide (typ ≠ 3) || bankOp i) && (decide (typ ≠ 2) || !(arrOp i))

/-- The fields of a typed word that reason 3 rejects, with the index of the constant that failed, else 0 (Table 18.6). A pld or pst constant
demands no state code that is reserved for its DTD (R148, Table 18.8). -/
def Prick.fieldBad (p : Prick) (x : Fixed) (site slot : Nat) (w : Word) : Option Nat :=
  let bad (b : Bool) (at_ : Nat) : Option Nat := if b then some at_ else none
  if isCeSite site then match decodeCe w with
    | none => some 0
    | some (i, cw) =>
      let k := cw.k.toNat
      match i with
      | .ceMad | .ceFma | .ceFms => bad (decide (cw.pr = 1) && decide (k = 0)) 0
      | .ctEnter | .ctLeave => bad (decide (k = 0)) 0
      | .mxc => bad (decide (k > 30)) 0
      | .cntr => (bad (decide (k > 30)) 0).orElse fun _ => bad (decide ((p.konst site (k + 1)).toNat % 2 ^ 16 = 0) ||
          (match p.fixWidth (x.inCol p site slot 0) with
           | some n => decide ((p.konst site (k + 1)).bits 20 16 ≥ n)
           | none => false)) (k + 1)
      | _ => none
  else match decodeMe w with
    | none => some 0
    | some i =>
      let share := p.share site
      match i with
      | .arrIns mw | .arrSeek mw | .arrCmpt mw | .arrMrg mw =>
        let v := p.konst site mw.k.toNat
        (bad (decide (mw.k.toNat > 30)) 0).orElse fun _ => bad (decide (64 * (v.bits 9 0 + v.bits 19 10 + 1) > share)) mw.k.toNat
      | .ttbFill mw => let d := p.desc site mw.desc.toNat; bad (decide (fillDest d 0 + fillBytes d > share)) 0
      | .pld mw | .pst mw => let v := p.konst site mw.k.toNat; bad (!(stateOk (p.nd (v.bits 9 0)) (v.bits 31 16))) mw.k.toNat
      | _ => none

def Prick.check23 (p : Prick) (x : Fixed) (two : Bool) : Option LoadBad :=
  firstOf (List.range 64) fun site => firstOf (List.range 16) fun slot =>
    let w : Word := (p.unit site).words.get 0 slot
    if w = 0 then none
    else
      let typed := if isCeSite site then ceTyped w else meTyped (p.typ site) w
      if two then failIf (!typed) { reason := 2, site := site, slot := slot }
      else (p.fieldBad x site slot w).map fun k => { reason := 3, site := site, slot := slot, at_ := k }

/-- A slot writes an output; o0 also carries every slot's ERR tokens (R359). -/
def Prick.writes (p : Prick) (site slot o : Nat) : Bool := match p.info site slot with
  | some info => decide (o = 0) || info.outs.contains o
  | none => false

/-- A channel that an input of a box allows (R192, R241). -/
def Prick.vcOk (p : Prick) (site : Nat) (w : SwWord) : Bool :=
  let vc := w.vc.toNat
  match w.inp.toNat with
  | 4 => decide (vc < 16) && p.writes site vc 0
  | 5 => decide (16 ≤ vc) && p.writes site (vc - 16) 1
  | 3 => decide (site % 8 ≠ 0) || decide (site ≥ 32) || decide (vc = 0)
  | 2 => decide (site < 56) || decide (site % 2 = 1) || (decide (vc < 16) && p.slots.any fun q =>
      decide (p.typ q.1 = 2) && !(isCeSite q.1) && decide (q.2.1 = vc) && q.2.2.outs.contains 0)
  | _ => true

/-- A word's output leads to a box that takes it on or to a port (R17). -/
def Prick.outOk (p : Prick) (site : Nat) (w : SwWord) : Bool :=
  if w.out.toNat ≥ 4 then true
  else match neighbour site w.out.toNat with
    | some n => (p.used n).any fun v => decide (v.net = w.net) && decide (v.vc = w.vc) && decide (v.inp.toNat = opposite w.out.toNat)
    | none => match edgeOf site w.out.toNat with
      | some (.to _) | some (.mx _) | some (.dni _) | some (.mem _) => true
      | _ => false

/-- An input that no neighbour's words feed: o0, o1 or an edge port (R423). -/
def ownNet (site inp : Nat) : Bool := decide (inp = 4) || decide (inp = 5) || (decide (inp < 4) && (neighbour site inp).isNone)

def Prick.wordBad (p : Prick) (x : Fixed) (site : Nat) (w : SwWord) : Bool :=
  let all := p.used site
  let twins := all.filter fun v => decide (v.net = w.net) && decide (v.inp = w.inp) && decide (v.vc = w.vc)
  let slot := w.vc.toNat % 16
  let ctl := match p.info site slot with
    | some info => decide (info.op = 50) && isCeSite site
    | none => false
  let wide (c : Option Nat) : Bool := match p.fixWidth c with
    | some n => decide (n > 1)
    | none => false
  let atSlice := decide (w.inp.toNat = 2) && decide (site ≥ 56) && decide (site % 2 = 0)
  decide (w.inp = 7) || (decide (twins.length > 1) && !(twins.all fun v => v.mc)) ||
    (ownNet site w.inp.toNat && all.any fun v => decide (v.inp = w.inp) && decide (v.vc = w.vc) && decide (v.net ≠ w.net)) ||
    !(p.outOk site w) || !(p.vcOk site w) ||
    (decide (w.net = 0) && decide (w.inp.toNat = 4 ∨ w.inp.toNat = 5) && wide (x.outs.find? (16 * site + slot))) ||
    (decide (w.net = 0) && atSlice && wide (sameColour ((p.bySlice slot).map fun q => x.outs.find? (16 * q.1 + slot)))) ||
    (decide (w.inp.toNat = 4 ∨ w.inp.toNat = 5) && ctl && decide (w.net ≠ 2))

/-- The context drives the MX through the fabric. -/
def Prick.drivesMx (p : Prick) : Bool :=
  p.slots.any (fun q => decide (q.2.2.op = 48) && isCeSite q.1) || [32, 40].any fun site => (p.used site).any fun w => decide (w.out = 3)

def Prick.check4 (p : Prick) (x : Fixed) : Option LoadBad :=
  (firstOf (List.range 64) fun site => firstOf (p.words.getD site []) fun w =>
    failIf (decide (w.net = 3) || (decide (w.inp ≠ 6) && p.wordBad x site w)) { reason := 4, site := site, at_ := w.pos }).orElse fun _ =>
  failIf (p.drivesMx && !((p.used 0).any fun w => decide (w.inp = 3) && decide (w.vc = 0))) { reason := 4, site := 0 }

def Prick.check5 (p : Prick) (x : Fixed) : Option LoadBad :=
  firstOf (List.range 64) fun site => failIf
    (isCeSite site && decide (((p.windows x site).map Prod.snd).foldl (· + ·) 0 > 256)) { reason := 5, site := site }

/-- A CE slot whose result is a change. -/
def SlotInfo.makesChange (info : SlotInfo) : Bool :=
  [33, 34, 36, 37, 38, 39, 40].contains info.op || (decide (info.op = 32) && decide (info.fn ≤ 2)) ||
    (decide (info.op = 35) && decide (info.fn = 1))
/-- The fixed colours that carry changes: those declared with key or value lanes or a depth, those that a change operation emits, and those at
port A of one that consumes changes. A change's record may be empty (Table 2.3). -/
def Prick.changeCols (p : Prick) (x : Fixed) : List Nat :=
  let decl := (List.range 64).filter fun c => match p.colour? c with
    | some d => decide (d.kl + d.vl + d.depth > 0)
    | none => false
  (decl ++ p.slots.flatMap fun q =>
    let out := if isCeSite q.1 && q.2.2.makesChange then (x.outs.find? (16 * q.1 + q.2.1)).toList else []
    let in_ := if q.2.2.changes q.1 && !(decide (q.2.2.op = 32) && decide (q.2.2.fn = 2)) then (x.inCol p q.1 q.2.1 0).toList else []
    out ++ in_).eraseDups
/-- A slot passes on what its port A brings, and a merge what its port B brings too, kind and colour with it. -/
def SlotInfo.passes (info : SlotInfo) (site : Nat) : List Nat :=
  if isCeSite site then
    (if info.isMerge then [0, 1]
    else if info.op = 10 ∨ info.op = 16 ∨ info.op = 18 ∨ info.op = 19 ∨ (info.op = 21 ∧ info.fn ≤ 1) ∨ (info.op = 35 ∧ info.fn = 1) then [0] else [])
  else match info.i with
    | .sbr _ => [0]
    | _ => []
/-- The slots of no fixed colour that pass changes on, from those that emit them. -/
def Prick.carriers (p : Prick) (x : Fixed) : Nat → List (Nat × Nat) → List (Nat × Nat)
  | 0, l => l
  | n + 1, l =>
    let more := (p.slots.filter fun q => !(l.contains (q.1, q.2.1)) && (x.outs.find? (16 * q.1 + q.2.1)).isNone &&
      (q.2.2.passes q.1).any fun port => (feedsOf x.feeds q.1 q.2.1 port).any fun f => match f.src with
        | .slot a b => l.contains (a, b)
        | _ => false).map fun q => (q.1, q.2.1)
    if more.isEmpty then l else p.carriers x n (l ++ more)
/-- The change edges (R166): feeds from a slot that emits changes, by its operation or by its fixed colour, or that passes on those of another. -/
def Prick.changeEdges (p : Prick) (x : Fixed) : List ((Nat × Nat) × (Nat × Nat)) :=
  let cols := p.changeCols x
  let emits (a b : Nat) (info : SlotInfo) : Bool := (isCeSite a && info.makesChange) || match x.outs.find? (16 * a + b) with
    | some c => cols.contains c
    | none => false
  let from_ := p.carriers x 1024 ((p.slots.filter fun q => emits q.1 q.2.1 q.2.2).map fun q => (q.1, q.2.1))
  p.slots.flatMap fun q => q.2.2.reads.flatMap fun port => (feedsOf x.feeds q.1 q.2.1 port).filterMap fun f => match f.src with
    | .slot a b => if from_.contains (a, b) then some ((a, b), (q.1, q.2.1)) else none
    | _ => none
/-- What a slot does to the depth of a change that passes it. -/
def SlotInfo.deeper (info : SlotInfo) : Int := if info.op ≠ 33 then 0 else if info.fn = 0 then 1 else if info.fn = 1 then -1 else 0
def Prick.deeper (p : Prick) (a : Nat × Nat) : Int := match p.info a.1 a.2 with
  | some i => if isCeSite a.1 then i.deeper else 0
  | none => 0
/-- Removes the slots that no remaining edge leads to; what is left lies on or behind a cycle. -/
def prune (es : List ((Nat × Nat) × (Nat × Nat))) : Nat → List ((Nat × Nat) × (Nat × Nat))
  | 0 => es
  | n + 1 =>
    let es1 := prune es n
    es1.filter fun e => es1.any fun d => decide (d.2 = e.1)
/-- The slots that paths of change edges reach from a list. -/
def reached (es : List ((Nat × Nat) × (Nat × Nat))) : Nat → List (Nat × Nat) → List (Nat × Nat)
  | 0, l => l
  | n + 1, l =>
    let more := ((es.filter fun e => l.contains e.1 && !(l.contains e.2)).map Prod.snd).eraseDups
    if more.isEmpty then l else reached es n (l ++ more)

/-- A path of change edges, by what its enters and leaves come to: the slot it has come to, the enters less the leaves so far, whether a leave
came before its enter, and whether a slot of a loop lies on it. -/
structure Walk where
  at_ : Nat × Nat
  dep : Int
  low : Bool
  loop : Bool
  deriving DecidableEq, Repr
def Prick.walk (p : Prick) (loops : List (Nat × Nat)) (w : Walk) (b : Nat × Nat) : Walk :=
  let d := w.dep + p.deeper b
  ⟨b, d, w.low || decide (d < 0), w.loop || loops.contains b⟩
def Prick.walks (p : Prick) (es : List ((Nat × Nat) × (Nat × Nat))) (loops : List (Nat × Nat)) : Nat → List Walk → List Walk
  | 0, l => l
  | n + 1, l =>
    let more := ((l.flatMap fun a => (es.filter fun e => decide (e.1 = a.at_)).map fun e => p.walk loops a e.2).filter fun a =>
      !(l.contains a) && decide (-4 ≤ a.dep) && decide (a.dep ≤ 4)).eraseDups
    if more.isEmpty then l else p.walks es loops n (l ++ more)
/-- A route from a die network interface port, hence from another region, leads to the element. -/
def Prick.fromDni (p : Prick) (site : Nat) : Bool := (List.range 8).any fun y => (p.vcs (8 * y + 7) 1).any fun vc =>
  (p.reach routeFuel none (8 * y + 7) 1 vc).any fun q => decide (q.1 = site)

/-- Tokens of a TI port can only be meant for the slot: a route from there leads to a port that it alone reads at its element. Where other slots read
the port too, the header of a token says for which it is (DEDUCED, log 127). -/
def Prick.fromTi (p : Prick) (a : Nat × Nat) : Bool := [0, 1, 2, 3].any fun n => (p.vcs n 0).any fun vc =>
  (p.reach routeFuel none n 0 vc).any fun q => decide (q.1 = a.1) &&
    decide ((p.slots.filter fun r => decide (r.1 = a.1) && r.2.2.reads.contains q.2).map (fun r => r.2.1) = [a.2])
/-- The loop structure (R166): every cycle of change edges has a step, no path nests more than three deep, and on every path that comes from
outside a loop into it and out again the enters and leaves pair up. A path out of the region by its die network ports is not judged here, nor is
one that comes from them, since its other part lies in another region (DEDUCED, log 98). -/
def Prick.check6 (p : Prick) (x : Fixed) : Option LoadBad :=
  let es := p.changeEdges x
  let isStep (a : Nat × Nat) : Bool := match p.info a.1 a.2 with
    | some i => isCeSite a.1 && decide (i.op = 33) && decide (i.fn = 2)
    | none => false
  let free := es.filter fun e => !(isStep e.1) && !(isStep e.2)
  match prune free (free.length + 1) with
  | e :: _ => some { reason := 6, site := e.1.1, slot := e.1.2 }
  | [] =>
    let starts := (es.map Prod.fst).eraseDups
    let next (a : Nat × Nat) : List (Nat × Nat) := (es.filter fun e => decide (e.1 = a)).map Prod.snd
    let loops := starts.filter fun a => (reached es 1024 (next a)).contains a
    firstOf starts fun a =>
      let first : Walk := p.walk loops ⟨a, 0, false, false⟩ a
      let ws := p.walks es loops 4096 [first]
      let root := (!(es.any fun e => decide (e.2 = a)) || p.fromTi a) && !(p.fromDni a.1)
      let out (b : Nat × Nat) : Bool :=
        let edges := [0, 1].flatMap fun o => p.leaves routeFuel none b.1 (4 + o) (16 * o + b.2)
        edges.any (fun e => !e.isDni) || ((next b).isEmpty && !(edges.any Edge.isDni))
      failIf (ws.any fun w => decide (w.dep > 3) || (decide (w.at_ = a) && decide (w.dep ≠ first.dep)) ||
        (root && w.loop && out w.at_ && (w.low || decide (w.dep ≠ 0)))) { reason := 6, site := a.1, slot := a.2 }

/-- The type that a cvt or deq converts from where the pricking fixes it: fn, or for 15 the format that the entries of all channels of port A name. -/
def Prick.srcType (p : Prick) (x : Fixed) (site slot : Nat) (info : SlotInfo) : Option Nat :=
  if info.fn ≤ 12 then some info.fn
  else sameColour ((feedsOf x.feeds site slot 0).map fun f => some (((p.unit site).vcfmt.get 0 f.vc).bits 23 20))
/-- The lanes that the changes of a cjoin or cred hold at least, where the pricking fixes their colours: those of the record, to which the result is
filled up (R242, R274, R275; log 64). -/
def minWidth (info : SlotInfo) (a b : Option ColourDecl) : Option Nat := match info.op, a, b with
  | 36, some d, some e => some (4 + d.kl + d.vl + e.vl)
  | 37, some d, _ => some (4 + d.kl + (if info.w.ty = 2 ∧ info.fn ≠ 0 then 2 else 1))
  | _, _, _ => none
/-- The width that a slot's result takes where the pricking fixes it (R242): `a` is the fixed width of port A, `d` its fixed colour, and `src` the
type a conversion takes. -/
def resultWidth (p : Prick) (site : Nat) (info : SlotInfo) (a : Option Nat) (d : Option ColourDecl) (src : Option Nat) : Option Nat :=
  let packed (n bits : Nat) : Nat := Nat.max 1 ((n * bits + 31) / 32)
  if isCeSite site then match info.op with
    | 7 | 9 => src.bind fun from_ => a.map fun w => packed (w * 32 / tyBits from_) (tyBits info.w.ty.toNat)
    | 8 => a.map fun w => packed w (tyBits info.w.ty.toNat)
    | 22 => if info.fn = 0 then some (grantWidth ((p.konst site info.w.k.toNat).bits 12 8 + 1)) else none
    | 20 | 23 => none
    | 21 => if info.fn ≥ 2 then none else a
    | 35 => if info.fn = 0 then none else a
    | 32 => if info.fn = 2 then a.map (· + 4) else if info.fn = 3 then d.map ColourDecl.vl else a
    | 36 | 37 | 48 => none
    | 50 => if info.fn = 1 then a else some 1
    | _ => if info.outs.isEmpty && info.loc.isNone then none else a
  else match info.i with
    | .agsRd w | .pld w => let d := p.desc site w.desc.toNat; if dTdst d then none else some (dWid d)
    | .ttbLook _ | .ttbIns _ | .ttbEvict _ | .ttbFill _ | .tilSetf _ | .tilReady _ | .tilEmpty _ | .tilPush _ | .tilPop _ => some 1
    | .arrIns _ | .arrCmpt _ | .arrMrg _ => some 1
    | _ => none

def Prick.check7 (p : Prick) (x : Fixed) : Option LoadBad :=
  let decl := (List.range 64).filterMap fun c => (p.colour? c).map fun d => (c, d)
  let tags := ((decl.filter fun d => !d.2.dyn).map fun d => d.2.tags).foldl (· + ·) 0
  (firstOf decl fun d => failIf (decide (d.2.kl + d.2.vl > 28)) { reason := 7, at_ := d.1 }).orElse fun _ =>
  (failIf (decide (tags > 4096)) { reason := 7 }).orElse fun _ =>
  firstOf p.slots fun q =>
    let info := q.2.2
    let a := x.inCol p q.1 q.2.1 0
    let out := x.outs.find? (16 * q.1 + q.2.1)
    let da := a.bind p.colour?
    let dr := out.bind p.colour?
    let depthBad := isCeSite q.1 && decide (info.op = 33) && (match da with
      | none => false
      | some d => (decide (info.fn = 1 ∨ info.fn = 2) && decide (d.depth = 0)) || (decide (info.fn = 0) && decide (d.depth = 3)) ||
          (match dr with
           | some r => decide (info.fn ≤ 1) && decide ((r.depth : Int) ≠ (d.depth : Int) + info.deeper)
           | none => false))
    let db := (x.inCol p q.1 q.2.1 1).bind p.colour?
    let widthBad := match p.fixWidth out with
      | none => false
      | some g => (match resultWidth p q.1 info (p.fixWidth a |>.map grantWidth) da (p.srcType x q.1 q.2.1 info) with
          | some n => decide (n ≠ grantWidth g)
          | none => false) || (isCeSite q.1 && match minWidth info da db with
          | some n => decide (n > grantWidth g)
          | none => false)
    failIf (depthBad || widthBad) { reason := 7, site := q.1, slot := q.2.1, at_ := out.getD 0 }

/-- An affine run stays in its range (R287). -/
def affineOk (d : DescW) (z : Nat) : Bool :=
  let js := List.range (dLevels d)
  let hop (j : Nat) : Int := ((dCnt d j : Int) - 1) * dStr d j
  let lo := (js.map fun j => min 0 (hop j)).foldl (· + ·) 0
  let hi := (js.map fun j => max 0 (hop j)).foldl (· + ·) 0
  decide ((dBase d).toNat % z = 0) && js.all (fun j => decide (dStr d j % (z : Int) = 0)) && decide (lo = 0) && decide (hi + (z : Int) ≤ (dSpan d : Int))
/-- A stream descriptor that the loader rejects (reason 8), the fixed destination of an ags.fill with it (R395; DEDUCED, log 128). -/
def Prick.descBad (p : Prick) (site n : Nat) (i : Instr) : Bool :=
  let d := p.desc site n
  let counts := (List.range (dLevels d)).any fun j => decide (dCnt d j = 0)
  let high := (List.range 4).any fun j => decide (j ≥ dLevels d) && decide (dw d (2 + j) ≠ 0)
  let tile := dTdst d && !(p.tiles.any fun t => decide (t.tile = dTile d))
  let span := decide (dSpan d = 0) || decide (dSpan d > 2 ^ 48)
  let idx (ty : Nat) : Bool :=
    let z := dIndexed d
    decide (z > 64) || (if z ≤ 8 then decide (z ≠ Nat.max 1 (tyBits ty / 8)) else decide (ty ≠ 0))
  high || tile || span || (match i with
    | .agsRd w | .agsWr w => counts || !(affineOk d (tyBytes w.ty))
    | .agsFill _ => counts || !(affineOk d 4) ||
        decide ((dAux d).bits 15 0 + 4 * ((List.range (dLevels d)).map (dCnt d)).foldl (· * ·) 1 > p.share (meSite ((dAux d).bits 20 16)))
    | .agsScrub _ => counts || !(affineOk d 64)
    | .agsRdcf _ | .agsWrcf _ | .pld _ | .pst _ | .agxChase _ => counts
    | .agxGath w | .agxScat w | .agxAtomAdd w | .agxAtomMin w | .agxAtomMax w | .agxAtomCas w | .agxAtomSwp w => idx w.ty.toNat
    | _ => false)
def Prick.check8 (p : Prick) : Option LoadBad := firstOf p.slots fun q =>
  if isCeSite q.1 then none else match descOf q.2.2.i with
    | some n => failIf (p.descBad q.1 n q.2.2.i) { reason := 8, site := q.1, slot := n }
    | none => none

def Prick.check9 (p : Prick) : Option LoadBad :=
  let ts := (List.range p.tiles.length).map fun i => (i, p.tiles.getD i default)
  firstOf ts fun t =>
    let isOver := ts.any fun u => decide (u.1 < t.1) && (decide (u.2.tile = t.2.tile) ||
      (decide (u.2.me = t.2.me) && decide (u.2.off < t.2.off + t.2.len) && decide (t.2.off < u.2.off + u.2.len)))
    failIf (isOver || decide (t.2.len > 8192) || decide (t.2.off + t.2.len > p.share (meSite t.2.me)))
      { reason := 9, site := meSite t.2.me }

def Prick.check10 (p : Prick) : Option LoadBad := firstOf (List.range 64) fun site => firstOf (List.range 32) fun vc =>
  let e : Word := (p.unit site).vcfmt.get 0 vc
  failIf (decide (e.bits 23 20 ≥ 13) || decide (e.bits 19 18 = 3) || decide (e.bits 17 15 ≥ 5)) { reason := 10, site := site }

def Prick.check11 (p : Prick) : Option LoadBad := firstOf (List.range 64) fun site =>
  let t := p.typ site
  failIf (if isCeSite site then decide (t > 1) else !(decide (t = 2) || decide (t = 3)) || decide (p.share site > 49152)) { reason := 11, site := site }
/-- The shares of the contexts that stay resident beside the slot pass 48 KiB at an ME with that of the pricking (Table 18.4, reason 11). -/
def Prick.sharesOver (p : Prick) (s : State) (c k : Nat) : Bool := (List.range 32).any fun m =>
  decide ((([0, 1, 2, 3].filter fun j => decide (j ≠ k)).map fun j => (s.shareOf c j m).2).foldl (· + ·) 0 + p.share (meSite m) > 49152)
/-- A channel of a region's die network port has a binding: an edge from another region, or an output of a collective node. -/
def Ctx.bound (x : Ctx) (c k p vc : Nat) : Bool :=
  (x.edges.any fun e => e.node.isNone && decide ((e.toC, e.toK, e.toP, e.toVc) = (c, k, p, vc))) ||
    x.nodes.any fun n => n.2.dest.any fun d => decide (d.2 = (c, k, p, vc))
/-- A word takes a channel from a die network port that no edge of the context is bound to (R192, Table 18.4, reason 4). -/
def Prick.dniBad (p : Prick) (bound : Nat → Nat → Bool) : Option LoadBad := firstOf (List.range 8) fun y => firstOf (p.used (8 * y + 7)) fun w =>
  failIf (decide (w.inp = 1) && !(bound y w.vc.toNat)) { reason := 4, site := 8 * y + 7, at_ := w.pos }

/-- The signature of an image under the key of its partition (R27): SHA3-256 of the bytes before it, ML-DSA-44 over the digest. -/
def State.signed (s : State) (keyPa im : Nat) : Bool :=
  let n := s.imgLen im
  Config.mldsaVerify (bytesAt s.mem (hbm keyPa) 1312) (Config.sha3 (bytesAt s.mem (hbm im) n)) (bytesAt s.mem (hbm (im + n)) 2420)

/-- The field nd of DTD i of a placement table, 3 where no DTD can be read (R148). -/
def State.dtdNd (s : State) (c : Nat) (root ptab : DWord) (i : Nat) : Nat :=
  if ptab = 0 then 3
  else match s.translate c true root ptab .load, s.translate c true root (dtdAddr ptab i) .load with
    | (_, .ok h), (_, .ok key) => if i < s.rd h 2 then s.rd key 8 / 2 ^ 27 % 4 else 3
    | _, _ => 3
/-- The first failing check of a pricking (R358, Table 18.4) for a context with these DTDs and edges. -/
def State.loadCheck (s : State) (keyPa im k : Nat) (nd : Nat → Nat) (bound : Nat → Nat → Bool) : Option LoadBad :=
  if !(s.signed keyPa im) then some { reason := 1 }
  else
    let p := { s.prick im k with nd := nd }
    let x := p.fixed
    (p.check23 x true).orElse fun _ => (p.check23 x false).orElse fun _ => (p.check4 x).orElse fun _ => (p.dniBad bound).orElse fun _ => (p.check5 x).orElse fun _ =>
    (p.check6 x).orElse fun _ => (p.check7 x).orElse fun _ => p.check8.orElse fun _ => p.check9.orElse fun _ => p.check10.orElse fun _ =>
    p.check11

end Sys2Proof.Machine
end

