-- ==== Sys2Proof/Machine/Ends.lean ====
section
/-! DEFINITION. The end of a colour (R247, R371) and the picots SWITCH (R229, R372) and SNAP (R328). -/
namespace Sys2Proof.Machine

/-- The first token of each tag of a list. -/
def tagHeads : List Token → List Token
  | [] => []
  | t :: r => t :: (tagHeads r).filter fun u => decide (u.tag ≠ t.tag)

/-- What a slot emits when its open group closes, the operands its partial pack leaves unmatched, the changes that leave with it, and its state
after; none while a result colour is not allocated (R247, R261, R264, R265, R275). The groups of cred close tag by tag, and only those of the
colour that ends, where one does. -/
def State.closeSlot (s : State) (f : Firing) (x : SlotSt) (eos : Token) (col : Option Nat) : Option (List Token × Nat × List Upd × SlotSt) :=
  let e := s.elemOf f
  let fin := x.group.getLast?
  match f.info.op with
  | 0x18 => match fin with
    | some a => some ([{ redClose (CeEnv.ofFiring e f.info.w a) a x.vals with poison := a.poison }], 0, [],
        { x with vals := [], size := 0, group := [] })
    | none => some ([], 0, [], x)
  | 0x19 => some ([], 0, [], { x with vals := [], size := 0 })
  | 0x1A => some ([], 0, [], { x with vals := [] })
  | 0x27 => match fin with
    | some a => some (cconsClose (s.declOf f.c f.k a.colour.toNat) x.group a, 0, [], { x with group := [] })
    | none => some ([], 0, [], x)
  | 0x25 =>
    let mine (t : Token) : Bool := match col with
      | some n => decide (t.colour.toNat = n)
      | none => true
    let ga := x.group.filter mine
    let gb := x.groupB.filter mine
    let one (h : Token) : Option (List Token) :=
      let la := groupOf ga h
      let lb := groupOf gb h
      let a := la.getLast?.getD h
      (s.credToks f la lb a (lb.getLast?.getD a)).map markLast
    let downs := (ga.flatMap fun t => s.takeUps f.c f.site f.k f.slot 0 t) ++ (gb.flatMap fun t => s.takeUps f.c f.site f.k f.slot 1 t)
    let tss := (tagHeads (ga ++ gb)).map one
    if tss.any (fun o => o.isNone) then none
    else some ((tss.filterMap id).flatten, 0, downs,
      { x with group := x.group.filter fun t => !(mine t), groupB := x.groupB.filter fun t => !(mine t) })
  | 0x17 =>
    let (gone, stay) := x.group.partition fun t => match col with
      | some n => decide (t.colour.toNat = n)
      | none => true
    if f.info.fn = 0 then some ([], gone.length, [], { x with group := stay }) else some ([], 0, [], x)
  | 0x14 =>
    if f.info.fn ≠ 1 then some ([], 0, [], x)
    else (s.recolourK f eos).map fun ct =>
      let w := match s.alloc? f.c f.k ct.1.toNat with
        | some a => a.width
        | none => 3
      let ls := fitLanes w [BitVec.ofNat 32 x.data, BitVec.ofNat 32 x.errs, x.firstErr.zeroExtend 32]
      ([{ kind := kDense, colour := ct.1, tag := ct.2, lanes := ls }], 0, [],
        { x with data := 0, errs := 0, firstErr := 0, taken := x.taken.filter fun u => decide (u ≠ eos.colour.toNat) })
  | _ => some ([], 0, [], x)

/-- A closing result of another width than its colour's is the ERR token WIDTH (R242). -/
def State.closed (s : State) (f : Firing) (t : Token) : Token :=
  if s.widthBad f.c f.k t then errToken 0x02 1 f.site f.slot t.colour t.tag t.last else t

/-- The tokens that a slot emits at an end: its UNMATCHED ERR token, then its closing results (R371, R372). -/
def endOuts (f : Firing) (lost : Nat) (ts : List Token) (like : Token) : List (Nat × Token) :=
  (if lost = 0 then [] else [(0, errToken 0x01 lost f.site f.slot like.colour like.tag like.last)]) ++ ts.map fun t => (f.out, t)

/-- Operands of a slot among some of its entries can fire yet: a firing has emitted a part of its results, an entry is complete and, in mode sequence,
its turn has come and, where the slot latches a value, one is there; or both groups of cred have closed (R44, R371). -/
def SlotSt.canFire (x : SlotSt) (info : SlotInfo) (rel : Token → Nat) (mine : Map Entry) : Bool :=
  decide (x.count ≠ 0) || (x.credNext info rel).isSome ||
    ((info.latch.isNone || x.latch.isSome) && mine.any fun en => en.2.full info && (decide (info.fire ≠ 3) || decide (en.1 = x.seqNext)))

def Elem.sendAll (e : Elem) (f : Firing) (outs : List (Nat × Token)) : Elem :=
  outs.foldl (fun e o => e.send f.k f.slot o.1 (if o.2.kind = kErr ∨ o.2.kind = kEos then none else f.info.loc) o.2) e

/-- EOS leaves a slot once every port it reads has delivered it and no entry of the colour can fire (R247); nothing leaves where the context has ended
(R364). Unmatched operands are
counted and reported (R371), open groups close, and EOS goes to each output. `sel` is the colour. -/
def execEos (s : State) : Out :=
  let c := s.cur.cluster
  let k := s.cur.ctx
  let site := s.cur.site
  let slot := s.cur.slot
  let col := s.cur.sel
  match s.elem? c site k with
  | none => .next s
  | some e => match e.slotInfo site slot with
    | none => .next s
    | some info =>
      let x := e.slot slot
      let f : Firing := { c := c, k := k, site := site, slot := slot, info := info }
      let ended := x.ended col
      let mine := x.entries.filter fun en => en.2.toks.any fun t => decide (t.2.colour.toNat = col)
      let isEos (t : Token) : Bool := decide (t.kind = kEos) && decide (t.slot.toNat = slot) && decide (t.colour.toNat = col)
      let heads := info.reads.flatMap fun p => ((headsOf (e.port p) []).filter isEos).map fun t => (p, t)
      let busy := s.ended c k || x.canFire info (s.relTag c k) mine || heads.any fun q => e.runsFor slot q.1 q.2.chan
      match heads with
      | [] => .next s
      | (_, eos) :: _ =>
        if info.reads.isEmpty || !(info.reads.all fun p => ended.contains p) || busy || info.outs.any (fun o => !(e.room slot o)) then .next s
        else match s.closeSlot f x eos (some col) with
          | none => .next s
          | some (ts, more, downs, x1) =>
            let dead := mine.flatMap fun en => en.2.toks
            let lost := dead.length + x.unmatched.get 0 col + more
            let outs := endOuts f lost (ts.map (s.closed f)) eos ++ info.outs.map fun o => (o, eos)
            let ups := downs ++ (dead.flatMap fun t => s.takeUps c site k slot t.1 t.2) ++
              outs.flatMap fun o => s.emitUps c site k slot o.1 info.loc o.2
            if !(s.muRoom (s.cidAt c k) ups false) then .next (s.muWait (s.cidAt c k) (4096 * c + 16 * site + slot) ups false)
            else
              let x2 := { x1 with
                entries := x1.entries.filter fun en => !(mine.any fun m => decide (m.1 = en.1)),
                unmatched := x1.unmatched.del col, eos := x1.eos.filter fun q => decide (q.1 ≠ col),
                sawEos := if x1.sawEos.contains col then x1.sawEos else x1.sawEos ++ [col] }
              .next ((((s.modElem c site k fun e =>
                  (heads.foldl (fun e q => e.setPort q.1 (dropHead (e.port q.1) q.2.chan)) (e.setSlot slot x2)).sendAll f outs).muApply
                (s.cidAt c k) ups).muGo (s.cidAt c k) (4096 * c + 16 * site + slot) ups).settle c site)

/-! ### Picots -/

/-- The inputs that a route from an input of a box leads to: site, port and channel (R372). -/
def State.reach (s : State) : Nat → Option Nat → Nat → Nat → Nat → Nat → Nat → List (Nat × Nat × Nat)
  | 0, _, _, _, _, _, _ => []
  | fuel + 1, net, c, k, site, inp, vc =>
    ((s.site c site).takers net inp k vc).flatMap fun w =>
      if w.fresh then []
      else if w.out.toNat ≥ 4 then [(site, w.out.toNat - 4, vc)]
      else match neighbour site w.out.toNat with
        | some n => s.reach fuel (some w.net.toNat) c k n (opposite w.out.toNat) vc
        | none => []
/-- The feedback inputs of an element: those a route reaches from its own outputs (R372). -/
def State.feedback (s : State) (c k site : Nat) : List (Nat × Nat) :=
  (((s.site c site).outputs k).flatMap fun q => s.reach routeFuel none c k site (4 + q.1) q.2.toNat).filterMap fun r =>
    if r.1 = site then some r.2 else none

/-- Takes the picots at the heads of channels. -/
def Elem.dropPicots (e : Elem) (kind : Nat) (qs : List (Nat × BitVec 5)) : Elem :=
  qs.foldl (fun e q => if e.picotAt kind q then e.setPort q.1 (dropHead (e.port q.1) q.2) else e) e
/-- Forwards a picot on channels that the element's outputs feed. -/
def Elem.forward (e : Elem) (outs : List (Nat × BitVec 5)) (k kind arg aux : Nat) : Elem :=
  { e with pipe := e.pipe ++ outs.map fun q => ⟨q.1, picot kind arg aux k q.2, none⟩ }
/-- What an element keeps under a staged configuration: the buffers, and nothing of its slots (R229, R372). -/
def Elem.renewed (e : Elem) (u : NextUnit) : Elem :=
  { e with slots := [], accs := [], hdr := [], typ := u.typ, unit := some u.unit, fetching := false, win := u.win, fixedA := u.fixedA,
           next := none, holds := false, switched := true }

/-- The token whose header the tokens take that a slot emits as the old configuration ends: one that waits, else the last of its group. -/
def SlotSt.like (x : SlotSt) : Token := match (x.entries.vals.flatMap fun en => en.toks).head? with
  | some t => t.2
  | none => x.group.getLast?.getD { kind := kDense }
/-- A slot can close: the result colours of its open group are allocated (R243), or it is a sink, which emits nothing at a switch. -/
def State.canClose (s : State) (c k site slot : Nat) : Bool := match s.elem? c site k with
  | none => true
  | some e => match e.slotInfo site slot with
    | none => true
    | some info => info.isSink ||
      (s.closeSlot { c := c, k := k, site := site, slot := slot, info := info } (e.slot slot) (e.slot slot).like none).isSome
/-- A slot of an element has operands that fire under the old configuration yet, or a run that one of its tokens started goes on (R229). -/
def State.busySlot (s : State) (c k site slot : Nat) : Bool := match s.elem? c site k with
  | none => false
  | some e => (e.runs.any fun r => decide (r.slot = slot) && r.a.isSome) || match e.slotInfo site slot with
    | none => false
    | some info => (e.slot slot).canFire info (s.relTag c k) (e.slot slot).entries
/-- What a slot does as the old configuration ends (R372): its ERR token and closing results, and the state it leaves. -/
def State.retireSlot (s : State) (c k site slot : Nat) : State :=
  match s.elem? c site k with
  | none => s
  | some e => match e.slotInfo site slot with
    | none => s
    | some info =>
      let x := e.slot slot
      let f : Firing := { c := c, k := k, site := site, slot := slot, info := info }
      let dead := x.entries.vals.flatMap fun en => en.toks
      let like := x.like
      let (ts, more, downs) := if info.isSink then ([], 0, []) else match s.closeSlot f x like none with
        | some (ts, n, us, _) => (ts.map (s.closed f), n, us)
        | none => ([], 0, [])
      let lost := dead.length + (x.unmatched.map Prod.snd).foldl (· + ·) 0 + more
      let latched := match x.latch, info.latch with
        | some t, some p => s.takeUps c site k slot p t
        | _, _ => []
      let outs := endOuts f lost ts like
      let ups := downs ++ (dead.flatMap fun t => s.takeUps c site k slot t.1 t.2) ++ latched ++
        outs.flatMap fun o => s.emitUps c site k slot o.1 info.loc o.2
      (s.modElem c site k fun e => (e.setSlot slot {}).sendAll f outs).muApply (s.cidAt c k) ups

/-- SWITCH arrives (R229, R372): once every input that is not feedback has delivered it and what came before it has fired, the element ends the old configuration,
takes its new words and forwards the picot on the channels its outputs had when the switch began; on a feedback input it is consumed when it comes
back. An element that nothing feeds is a
source of its own (DEDUCED, log 12). -/
def execSwitch (gen : BitVec 24) (s : State) : Out :=
  let c := s.cur.cluster
  let k := s.cur.ctx
  let site := s.cur.site
  match s.region? c k, s.elem? c site k with
  | some r, some e =>
    if r.switching ≠ some gen.toNat || s.ended c k then .next s
    else if e.switched then .next ((s.modElem c site k fun e => e.dropPicots 2 e.swIns).settle c site)
    else
      let front := e.swIns.filter fun q => !(e.swBack.contains (q.1, q.2.toNat))
      match e.next with
      | none => .next s
      | some u =>
        if !e.holds ∨ !(front.all fun q => e.picotAt 2 q) ∨ !((List.range 16).all fun i => s.canClose c k site i && !(s.busySlot c k site i)) then .next s
        else
          let s1 := (List.range 16).foldl (fun s i => s.retireSlot c k site i) s
          .next ((s1.modElem c site k fun e => ((e.renewed u).dropPicots 2 front).forward e.swOuts k 2 gen.toNat 0).settle c site)
  | _, _ => .next s

/-- SNAP leaves an element by every channel that its outputs feed; the results that wait before it are saved where they stand (R328). -/
def Site.forwardSnap (x : Site) (k id : Nat) : Site :=
  (x.outputs k).foldl (fun x q => (x.accept none (4 + q.1) (picot 0 0 id k q.2)).getD x) x
/-- SNAP arrives (R328): the unit records its state and forwards SNAP at the first one; tokens that come before an input's own SNAP
stay in place as channel state. The channels whose SNAP has come are noted. -/
def execSnap (id : BitVec 16) (s : State) : Out :=
  let c := s.cur.cluster
  let k := s.cur.ctx
  let site := s.cur.site
  match s.elem? c site k, s.region? c k with
  | some e, some r =>
    let isSnap (t : Token) : Bool := t.isPicot 0 && decide (t.aux = id)
    let seen := [0, 1, 2, 3].flatMap fun p => ((e.port p).filter isSnap).map fun t => 32 * p + t.chan.toNat
    let fb := s.feedback c k site
    let own := ((s.site c site).inputs k).all fun q => fb.contains (q.1, q.2.toNat)
    if seen.isEmpty ∧ !(r.snapSent && own && !e.snapped && decide (id.toNat = r.cid % 65536)) then .next s
    else
      let e1 := [0, 1, 2, 3].foldl (fun e p => e.setPort p ((e.port p).filter fun t => !(isSnap t))) e
      let s1 := s.modElem c site k fun _ => { e1 with snapped := true, picots := e1.picots ++ seen }
      .next ((if e.snapped then s1 else s1.modSite c site fun x => x.forwardSnap k id.toNat).settle c site)
  | _, _ => .next s

/-- The record of a unit is complete: SNAP has come on every input (R328). -/
def State.recorded (s : State) (c k site : Nat) : Bool :=
  match s.elem? c site k with
  | none => true
  | some e =>
    let x := s.site c site
    ((x.inputs k).isEmpty && (x.outputs k).isEmpty) ||
      (e.snapped && (x.inputs k).all fun q => e.picots.contains (32 * q.1 + q.2.toNat))

end Sys2Proof.Machine
end

