-- ==== Sys2Proof/Machine/Mx.lean ====
section
/-! DEFINITION. The matrix unit: acceptance of commands (R300), MMA and gangs (R301, R302, R361), loads and drains (R303, R304), and the
coverage accumulator (R305 to R309, R362). -/
namespace Sys2Proof

/-! ### Fields -/

/-- The element type code of an MX type (Table 9.14). -/
def MxW.tyCode (w : MxW) : Nat := w.ty.toNat + 3
/-- Accumulator slots of a command (R187). -/
def MxW.slots (w : MxW) : Nat := Nat.max 1 (w.m * w.n / 2048)
/-- The cell (i, j) of a command. -/
def MxW.cell (w : MxW) (i j : Nat) : Nat := 2048 * w.accsel.toNat + i * w.n + j
/-- Block scales go with the types from E4M3 on (R301). -/
def MxW.scaled (w : MxW) : Bool := decide (3 ≤ w.ty.toNat)
/-- The token colour in word 0 [13:8]. -/
def MxW.colour (w : MxW) : Nat := w.ringA.toNat % 4 * 16 + w.ringB.toNat
def MxW.gang (w : MxW) : Nat := w.w1.toNat / 2 ^ 29
def MxW.gpos (w : MxW) : Nat := w.w1.toNat / 2 ^ 26 % 8
def MxW.ksteps (w : MxW) : Nat := w.w1.toNat % 2 ^ 17
def MxW.f (w : MxW) (hi lo : Nat) : Nat := w.w1.toNat / 2 ^ lo % 2 ^ (hi + 1 - lo)

/-- Elements a token of a drain carries, and tokens of a row. -/
def MxW.perToken (w : MxW) : Nat := if w.w1.getLsbD 17 then Nat.min w.n 32 else Nat.min w.n (1024 / Machine.tyBits w.tyCode)
def MxW.perRow (w : MxW) : Nat := (w.n + w.perToken - 1) / w.perToken * (if w.w1.getLsbD 17 then 2 else 1)

end Sys2Proof

namespace Sys2Proof.Machine

/-! ### The command buffer -/

def State.mxOf (s : State) (c : Nat) : Mx := (s.cluster c).mx
def State.modMx (s : State) (c : Nat) (f : Mx → Mx) : State := s.modCluster c fun x => { x with mx := f x.mx }
/-- A context's work at the MX goes on: it runs, and its snapshot has not begun (R328, R364). -/
def State.mxRuns (s : State) (c k : Nat) : Bool := s.running c k && (match s.region? c k with
  | some r => !r.snapSent
  | none => false)
/-- The command the MX executes: the oldest of a context whose work goes on (R300). -/
def State.mxHead (s : State) (c : Nat) : Option MxCmd := (s.mxOf c).buf.find? fun h => s.mxRuns c h.ctx
def replaceCmd (h g : MxCmd) : List MxCmd → List MxCmd
  | [] => []
  | x :: r => if x = h then g :: r else x :: replaceCmd h g r
def State.setHead (s : State) (c : Nat) (h g : MxCmd) : State := s.modMx c fun m => { m with buf := replaceCmd h g m.buf }
def State.popMx (s : State) (c : Nat) (h : MxCmd) : State := s.modMx c fun m => { m with buf := m.buf.erase h }

/-- A command is complete (R300): one from a queue counts 1 and a status; one from the fabric signals nothing. -/
def State.mxDone (s : State) (c : Nat) (h : MxCmd) (status : Nat) : State :=
  let s1 := s.popMx c h
  match h.stream with
  | some (k, id) => s1.cmdDone c k id 1 status
  | none => s1

/-- A refused command (R360): from a queue it is refused for reason 1 (R357); from the fabric ERR MXCMD leaves by D0, and waits there
while it has no room. -/
def State.mxRefuse (s : State) (c : Nat) (h : MxCmd) : State :=
  match h.stream with
  | some (k, id) => match s.issuedCmd? c k id with
    | some cmd => (s.popMx c h).refuse c k cmd 1
    | none => s.popMx c h
  | none =>
    let t := { errToken 0x0F 1 0x3F 0 h.colour h.tag false with ctx := BitVec.ofNat 2 h.ctx }
    match s.enterEdge c (.d 0) t with
    | some s1 => s1.popMx c h
    | none => s

/-- The token that an MX port offers: over the contexts that run and whose record there has not begun (R328), the one of the highest firing
priority, the oldest among equals (R327). -/
def State.mxPortHead (s : State) (c p : Nat) : Option (Nat × Token) :=
  let first (x y : Nat × Token) : Bool := decide (s.firingPrio c x.1 > s.firingPrio c y.1) ||
    (decide (s.firingPrio c x.1 = s.firingPrio c y.1) && decide (x.2.stamp < y.2.stamp))
  ([0, 1, 2, 3].filterMap fun k => match (s.cluster c).mxBuf.get [] (4 * p + k) with
    | t :: _ => if s.mxRuns c k && !((s.cluster c).snapped (16 + 4 * p + k)) then some (k, t) else none
    | [] => none).foldl (fun b q => match b with
      | none => some q
      | some v => if first q v then some q else some v) none

/-- The queue of a stream may issue (R230, R328, R364). -/
def State.mayIssue (s : State) (c k : Nat) : Bool := match s.ctxAt c k with
  | some x => s.running c k && !x.susp && !x.evicting
  | none => false

/-- What a source offers: ports 0 and 1, then the MX queues of streams 0 to 3. -/
def State.mxOffer (s : State) (c src : Nat) : Option (State × MxCmd) :=
  if src < 2 then (s.mxPortHead c src).map fun q =>
    let t := q.2
    let cmd := decide (t.kind = kCmd) && decide (t.width = 2)
    (s.modCluster c fun x => { x with mxBuf := x.mxBuf.mod [] (4 * src + q.1) (·.drop 1) },
      { w0 := if cmd then t.lane 0 else 0, w1 := if cmd then t.lane 1 else 0, ctx := q.1, colour := t.colour, tag := t.tag })
  else
    let k := src - 2
    if !(s.mayIssue c k) then none
    else match (s.stream c k).queues.get [] 0 with
      | [] => none
      | cmd :: rest =>
        let id := s.cmdId + 1
        some ({ s with cmdId := id }.modStream c k fun st => { st with
            queues := st.queues.set 0 rest, issued := st.issued ++ [{ cmd with id := id }] },
          { w0 := cmd.a.truncate 32, w1 := cmd.c.truncate 32, ctx := k, stream := some (k, id), rm := cmd.rm, ftz := cmd.ftz })

/-- What the command of a context takes for itself: its accumulator slots, or the coverage state (16). -/
def mxTakes (w0 w1 : Word) : List Nat := match decodeMx w0 w1 with
  | some (.mma w) | some (.mmz w) | some (.mload w) | some (.mdrain w) => (List.range w.slots).map fun i => w.accsel.toNat + i
  | some (.cvprobe w) | some (.cvcommit w) => 16 :: (List.range w.slots).map fun i => w.accsel.toNat + i
  | some (.cvreset _) | some (.cvresetRelease _) | some (.cvloadEnt _) | some (.cvloadGain _) | some (.cvreadArg _) | some (.cvreadGain _) => [16]
  | _ => []
/-- The MX accepts a command while its buffer of 16 has room: of the sources that offer one, those of the highest firing priority are served
round-robin (R54, R300, R327). -/
def execMxAccept (s : State) : Out :=
  let c := s.cur.cluster
  let m := s.mxOf c
  let offers := ((List.range 6).map fun i => (m.turn + i) % 6).filterMap fun src => (s.mxOffer c src).map fun o => (src, o)
  let top := (offers.map fun o => s.firingPrio c o.2.2.ctx).foldl Nat.max 0
  if m.buf.length ≥ 16 then .next s
  else match offers.find? fun o => decide (s.firingPrio c o.2.2.ctx = top) with
    | none => .next s
    | some (src, s1, h) => .next (s1.modMx c fun m => { m with
        buf := m.buf ++ [h], turn := (src + 1) % 6, owner := (mxTakes h.w0 h.w1).foldl (fun l a => l.set a h.ctx) m.owner })

/-- Slots of the coverage state (R305). -/
def Mx.covSlots (m : Mx) : Nat := match m.cov with
  | some v => (v.e + 4095) / 4096
  | none => 0
/-- The slots lie below the coverage slots and within the store (R187). -/
def Mx.slotsOk (m : Mx) (w : MxW) : Bool := decide (w.accsel.toNat + w.slots + m.covSlots ≤ 16)

def Mx.cellAt (m : Mx) (i : Nat) : BitVec 128 := m.cells.get 0 i
def Mx.setCell (m : Mx) (i : Nat) (v : BitVec 128) : Mx := { m with cells := Map.put 0 m.cells i v }
def Mx.bad (m : Mx) (i : Nat) : Bool := m.invalid.contains i
def Mx.setBad (m : Mx) (i : Nat) : Mx := { m with invalid := if m.invalid.contains i then m.invalid else m.invalid ++ [i] }
/-- A cell is zeroed: its mark goes too. -/
def Mx.zeroCell (m : Mx) (i : Nat) : Mx := { m with cells := m.cells.del i, invalid := m.invalid.filter fun x => decide (x ≠ i) }
def Mx.clearOvr (m : Mx) (a n : Nat) : Mx := (List.range n).foldl (fun (m : Mx) i =>
  { m with ovr := m.ovr &&& ~~~(1#16 <<< (a + i)) }) m
def Mx.setOvr (m : Mx) (a : Nat) : Mx := { m with ovr := m.ovr ||| (1#16 <<< a) }
/-- Zeroes n cells from cell lo on, and the OVR bits of a command's slots. -/
def Mx.zero (m : Mx) (w : MxW) (n : Nat) : Mx :=
  let lo := 2048 * w.accsel.toNat
  ({ m with
     cells := m.cells.filter fun e => decide (e.1 < lo) || decide (lo + n ≤ e.1),
     invalid := m.invalid.filter fun i => decide (i < lo) || decide (lo + n ≤ i) }).clearOvr w.accsel.toNat w.slots

/-- One term is added to a cell (R98): none for a NaN or infinite product, which makes the cell invalid. -/
def Mx.addTerm (m : Mx) (anchor : Int) (i : Nat) (p : Val) : Mx := match p with
  | .fin neg mant e =>
    let m1 := m.setCell i (m.cellAt i + BitVec.ofInt 128 (fxTerm anchor neg mant e))
    if fxOver anchor mant e then m1.setOvr (i / 2048) else m1
  | _ => m.setBad i

/-! ### Tiles as operands (R301) -/

/-- A byte of a tile; past its end, zero. -/
def State.tileByte (s : State) (c k t o : Nat) : Nat :=
  if o < tileLen ((s.cluster c).tile t) then match s.tileAddr c k t o 1 with
    | some a => (readByte (s.cluster c).spad a).toNat
    | none => 0
  else 0
/-- n bytes of a tile, little-endian. -/
def State.tileLe (s : State) (c k t o n : Nat) : Nat := ((List.range n).map fun i => s.tileByte c k t (o + i) * 256 ^ i).foldl (· + ·) 0
/-- Element i of b bits, and whether it lies in an uncorrectable or poisoned word (R82, R383). -/
def State.tileElt (s : State) (c k t b i : Nat) : Nat := s.tileLe c k t (b * i / 8) ((b + 7) / 8) / 2 ^ (b * i % 8) % 2 ^ b
def State.tileBad (s : State) (c k t o : Nat) : Bool :=
  decide (o < tileLen ((s.cluster c).tile t)) && (match s.tileAddr c k t o 1 with
    | some a => decide ((s.cluster c).spadMark.get 0 (a / 4) ≥ 2)
    | none => false)
/-- The command reads n bytes of a tile: whether it passes the tile's end, and whether a word of them is bad; uncorrectable words become
poisoned (R301, R380, R383). -/
def State.tileScan (s : State) (c k t n : Nat) : State × Bool × Bool :=
  let len := Nat.min n (tileLen ((s.cluster c).tile t))
  match s.tileAddr c k t 0 len with
  | none => (s, true, false)
  | some a =>
    let (x, _, bad) := (s.cluster c).spRead a len
    (s.modCluster c fun _ => x, decide (n > tileLen ((s.cluster c).tile t)), bad)

/-- An operand of an mma: where its tiles are, and its scale and diff tiles. -/
structure MxOp where
  c : Nat
  k : Nat
  ring : Nat
  tiles : List Nat
  deriving Repr

/-- Element (r, kk) of an operand of R rows along K, as an exact value (R89, R301): stored K-major when `tr`. -/
def State.mxVal (s : State) (w : MxW) (o : MxOp) (rows r kk : Nat) (tr : Bool) : Val :=
  let b := tyBits w.tyCode
  let i := if tr then kk * rows + r else r * w.kk + kk
  let t := o.tiles.getD 0 0
  if s.tileBad o.c o.k t (b * i / 8) then .nan false
  else
    let v := tyDecode w.tyCode false (s.tileElt o.c o.k t b i)
    if w.scaled then
      let p := r * (w.kk / 32) + kk / 32
      let st := o.tiles.getD 1 0
      if s.tileBad o.c o.k st p then .nan false else Machine.scaled (BitVec.ofNat 8 (s.tileByte o.c o.k st p)) v
    else v
/-- The diff of row i (R301); none in a bad word. -/
def State.mxDiff (s : State) (w : MxW) (o : MxOp) (i : Nat) : Val :=
  let t := o.tiles.getD (if w.scaled then 2 else 1) 0
  if s.tileBad o.c o.k t (4 * i) then .nan false else .ofInt (signedOf 32 (s.tileLe o.c o.k t (4 * i) 4))

/-- The exact product of two values; a NaN or infinite operand gives a NaN (R98). -/
def exactMul (x y : Val) : Val := match x, y with
  | .fin a m e, .fin b n f => .fin (a != b) (m * n) (e + f)
  | _, _ => .nan false

/-! ### MMA (R302, R361) -/

/-- The shared frame of the meanings of MX commands: the head of the buffer, refused where it meets a condition of Table 18.5. -/
def mxRun (s : State) (ok : MxCmd → Bool) (body : MxCmd → State) : Out :=
  match s.mxHead s.cur.cluster with
  | none => .next s
  | some h => if h.refused || !(ok h) then .next (s.mxRefuse s.cur.cluster h) else .next (body h)

/-- The places of a gang's members: consecutive siblings of the context (R323). -/
def State.gangOf (s : State) (c k n : Nat) : List (Nat × Nat) := match s.ctxAt c k, s.region? c k with
  | some x, some r => if n ≤ 1 then [(c, k)] else ((x.places.drop (r.index - r.gpos)).take n)
  | _, _ => [(c, k)]

/-- The rings that a member supplies belong to its context (Table 18.5), and the gang that the command names is the one its region was placed in,
which lies on adjacent clusters (R14); the spec names no handling of another code (DESIGN CHOICE, log 103), nor of a gpos that is not the position at which
the region was placed: where the positions of a gang's commands are distinct, the command's own counts (DESIGN CHOICE, log 133). -/
def State.mmaOk (s : State) (c : Nat) (w : MxW) (h : MxCmd) : Bool :=
  let placed := match s.region? c h.ctx with
    | some r => decide (w.gang = 0) || decide (w.gang = r.gang)
    | none => true
  let a := match gangDims w.gang with
    | some d => d.1
    | none => 1
  placed && (s.mxOf c).slotsOk w && (decide (w.gpos / a ≠ 0) || s.ownsRing c h.ctx w.ringA.toNat) &&
    (decide (w.gpos % a ≠ 0) || s.ownsRing c h.ctx w.ringB.toNat)

/-- The mma that a member has at its head, with its fields. -/
def State.mmaHead (s : State) (q : Nat × Nat) : Option (MxCmd × MxW) :=
  match s.mxHead q.1 with
  | none => none
  | some h => if h.ctx ≠ q.2 then none else match decodeMx h.w0 h.w1 with
    | some (.mma w) => if s.mmaOk q.1 w h then some (h, w) else none
    | _ => none

/-- An mma at the head that has not started. -/
def State.mmaAccepted (s : State) (q : Nat × Nat) : Option (MxCmd × MxW) := (s.mmaHead q).filter fun x => !x.1.started
def gangSizeOf (g : Nat) : Nat := match gangDims g with
  | some d => d.1 * d.2
  | none => 1
/-- The members with which a command meets: those of the gang it names; and a command of code 0 in a gang of which another member has accepted an mma of
another code differs from that one (R361). -/
def State.mmaParty (s : State) (c k : Nat) (w : MxW) : List (Nat × Nat) :=
  let whole := match s.region? c k with
    | some r => s.gangOf c k (gangSizeOf r.gang)
    | none => [(c, k)]
  if w.gang = 0 ∧ whole.any (fun q => match s.mmaAccepted q with
    | some x => decide (x.2.gang ≠ 0)
    | none => false) then whole
  else s.gangOf c k (gangSizeOf w.gang)
/-- mma: its gang meets; commands that differ are refused by every member (R361), else the cells are zeroed where acc is 0. -/
def execMma (w : MxW) (s : State) : Out :=
  let c := s.cur.cluster
  mxRun s (s.mmaOk c w) fun h =>
    let qs := s.mmaParty c h.ctx w
    let n := qs.length
    let hs := qs.filterMap fun q => (s.mmaAccepted q).map fun x => (q.1, x)
    if h.started ∨ hs.length < n then s
    else
      let key (x : MxCmd) : Nat × Nat := (x.w0.toNat, x.w1.toNat - x.w1.toNat / 2 ^ 26 % 8 * 2 ^ 26)
      let same := hs.all fun x => decide (key x.2.1 = key h)
      let apart := decide ((hs.map fun x => x.2.2.gpos).eraseDups.length = n)
      hs.foldl (fun s x =>
        let s1 := s.setHead x.1 x.2.1 { x.2.1 with refused := !(same && apart), started := same && apart }
        if same && apart && decide (w.acc = 0) then s1.modMx x.1 fun m => m.zero x.2.2 (2048 * w.slots) else s1) s

/-- The head tiles of a ring that an operand takes; none until all are READY (R112). -/
def State.takeTiles (s : State) (c ring n : Nat) : Option (List Nat) :=
  let l := ((s.cluster c).members ring).take n
  if l.length = n ∧ l.all (fun t => decide (tileState ((s.cluster c).tile t) = tReady)) then some l else none

/-- The operand of a side of a gang: from the member at a position. -/
def mmaOperand (s : State) (hs : List ((Nat × Nat) × MxCmd × MxW)) (pos ring n : Nat) : Option MxOp :=
  match hs.find? fun x => decide (x.2.2.gpos = pos) with
  | none => none
  | some x => (s.takeTiles x.1.1 ring n).map fun l => ⟨x.1.1, x.1.2, ring, l⟩

/-- The terms of one K-step for a member (R98). -/
def mmaTerms (s : State) (w : MxW) (a b : MxOp) (m : Mx) : Mx :=
  (List.range w.m).foldl (fun m i =>
    let d := if w.sd = 1 then s.mxDiff w a i else .ofInt 1
    (List.range w.n).foldl (fun m j => (List.range w.kk).foldl (fun m kk =>
      m.addTerm (w.anchorAt 17) (w.cell i j)
        (exactMul (exactMul (s.mxVal w a w.m i kk (w.tr.getLsbD 0)) (s.mxVal w b w.n j kk (!(w.tr.getLsbD 1)))) d)) m) m) m

/-- Reads what an operand takes: past the end, and bad words. -/
def scanOperand (s : State) (w : MxW) (rows : Nat) (diff : Bool) (o : MxOp) : State × Bool × Bool :=
  let ns := [rows * w.kk * tyBits w.tyCode / 8] ++ (if w.scaled then [rows * w.kk / 32] else []) ++ (if diff then [4 * w.m] else [])
  (o.tiles.zip ns).foldl (fun (a : State × Bool × Bool) q =>
    let (s1, sh, bad) := a.1.tileScan o.c o.k q.1 q.2
    (s1, a.2.1 || sh, a.2.2 || bad)) (s, false, false)

/-- One K-step of a gang that has met (R302): when every operand tile is READY, every member adds its terms and the tiles are popped
from their rings; after the last one the commands are complete. A tile that a step has read is in use until its command retires (R112), and what a
member's own operands lack or hold poisoned is that member's alone (R301, R383). -/
def execMmaKstep (w : MxW) (s : State) : Out :=
  let c := s.cur.cluster
  match s.mxHead c, gangDims w.gang with
  | some h, some (a, b) =>
    let hs := (s.gangOf c h.ctx (a * b)).filterMap fun q => (s.mmaHead q).map fun x => (q, x)
    if !h.started ∨ hs.length < a * b ∨ !(hs.all fun x => x.2.1.started) then .next s
    else
      let sc := if w.scaled then 1 else 0
      let sd := decide (w.sd = 1)
      let as_ := (List.range a).map fun i => mmaOperand s hs i w.ringA.toNat (1 + sc + w.sd.toNat)
      let bs := (List.range b).map fun j => mmaOperand s hs (a * j) w.ringB.toNat (1 + sc)
      let al := as_.filterMap id
      let bl := bs.filterMap id
      if al.length < a ∨ bl.length < b then .next (s.countWait c 0x021 h.ctx)
      else
        let look (rows : Nat) (diff : Bool) (acc : State × List (Bool × Bool)) (o : MxOp) : State × List (Bool × Bool) :=
          let (s1, sh, bad) := scanOperand acc.1 w rows diff o
          (s1, acc.2 ++ [(sh, bad)])
        let (sa, ra) := al.foldl (look w.m sd) (s, [])
        let (s1, rb) := bl.foldl (look w.n false) (sa, [])
        let met (l : List (Bool × Bool)) (i : Nat) : Bool × Bool := l.getD i (false, false)
        let add (s0 : State) (x : (Nat × Nat) × MxCmd × MxW) : State :=
          let g := x.2.2.gpos
          match al[g % a]?, bl[g / a]? with
          | some oa, some ob => (s0.modMx x.1.1 (mmaTerms s x.2.2 oa ob)).count x.1.1 0x020 x.1.2
          | _, _ => s0
        let s2 := hs.foldl add s1
        let pop (s : State) (o : MxOp) : State := s.modCluster o.c fun x => o.tiles.foldl (fun x _ => x.popHead o.ring) x
        let s3 := bl.foldl pop (al.foldl pop s2)
        let fin (s : State) (x : (Nat × Nat) × MxCmd × MxW) : State :=
          let q := x.2.2.gpos
          let ma := met ra (q % a)
          let mb := met rb (q / a)
          let mine := ((al ++ bl).filter fun o => decide ((o.c, o.k) = x.1)).flatMap MxOp.tiles
          let g := { x.2.1 with
            pos := x.2.1.pos + 1, error := x.2.1.error || ma.1 || mb.1, poisoned := x.2.1.poisoned || ma.2 || mb.2, used := x.2.1.used ++ mine }
          if g.pos ≥ w.ksteps then
            (s.modCluster x.1.1 fun y => x.2.1.used.foldl Cluster.unuseTile y).mxDone x.1.1 x.2.1
              (if g.poisoned then stPoisoned else if g.error then stError else stOk)
          else (s.modCluster x.1.1 fun y => mine.foldl Cluster.useTile y).setHead x.1.1 x.2.1 g
        .next (hs.foldl fin s3)
  | _, _ => .next s

/-! ### Zero, load, drain (R303, R304) -/

/-- mmz zeroes M·N cells with their marks and the slots' OVR bits. -/
def execMmz (w : MxW) (s : State) : Out :=
  let c := s.cur.cluster
  mxRun s (fun _ => (s.mxOf c).slotsOk w) fun h => (s.modMx c fun m => m.zero w (w.m * w.n)).mxDone c h stOk

/-- mload: a READY tile's elements are added to cells or replace them, one term each; the tile drains and becomes EMPTY. -/
def execMload (w : MxW) (s : State) : Out :=
  let c := s.cur.cluster
  let t := w.f 31 24
  mxRun s (fun h => (s.mxOf c).slotsOk w && s.ownsTile c h.ctx t) fun h =>
    if tileState ((s.cluster c).tile t) ≠ tReady then s.countWait c 0x021 h.ctx
    else
      let rows := w.f 7 1 + 1
      let b := tyBits w.tyCode
      let (s1, short, bad) := s.tileScan c h.ctx t (rows * w.n * b / 8)
      let put (m : Mx) (i : Nat) : Mx :=
        let cell := w.cell (w.f 14 8) 0 + i
        let v := if s.tileBad c h.ctx t (b * i / 8) then Val.nan false else tyDecode w.tyCode false (s.tileElt c h.ctx t b i)
        (if w.acc = 0 then m.zeroCell cell else m).addTerm (w.anchorAt 15) cell v
      let s2 := (s1.modMx c fun m => (List.range (rows * w.n)).foldl put m).modCluster c fun x => x.emptyTile t
      s2.mxDone c h (if bad then stPoisoned else if short then stError else stOk)

/-- A token that a command sends (R304): colour, tag base + i mod n, vc 0 and the issuer's slot. -/
def State.mxToken (s : State) (c : Nat) (h : MxCmd) (w : MxW) (i : Nat) : Token :=
  let r := s.rangeOf c h.ctx w.colour
  { kind := kDense, colour := BitVec.ofNat 6 w.colour, tag := BitVec.ofNat 12 (r.base + i % (Nat.max 1 r.n)), ctx := BitVec.ofNat 2 h.ctx }

/-- The member's place in its gang (R302, R304). -/
def State.gangRow (s : State) (c k : Nat) : Nat := match s.region? c k with
  | some r => match gangDims r.gang with
    | some d => r.gpos % d.1
    | none => 0
  | none => 0

/-- Token `pos` of a drain (R100, R304). -/
def State.drainToken (s : State) (c : Nat) (h : MxCmd) (w : MxW) (pos : Nat) : Token :=
  let m := s.mxOf c
  let bs := w.w1.getLsbD 17
  let i := pos / w.perRow
  let q := pos % w.perRow
  let seg := if bs then q / 2 else q
  let j0 := seg * w.perToken
  let js := (List.range (Nat.min w.perToken (w.n - j0))).map fun j => j0 + j
  let rnd := w.f 20 18
  let mode := RMode.ofCode (if rnd = 5 then h.rm.toNat else rnd)
  let ftz := if rnd = 5 then h.ftz else w.w1.getLsbD 0
  let val (j : Nat) : Val := if m.bad (w.cell i j) then .nan false else fxVal (w.anchorAt 21) (m.cellAt (w.cell i j))
  let sr (j : Nat) : Nat := srBits (BitVec.ofNat 32 (w.f 16 1)) (BitVec.ofNat 32 i) (BitVec.ofNat 32 j)
  let scale := blockScale w.tyCode (js.map val)
  let base := s.mxToken c h w i
  let aux := BitVec.ofNat 16 ((s.gangRow c h.ctx * w.m + i) * 4 + seg)
  let poison := js.any fun j => m.bad (w.cell i j)
  if bs && decide (q % 2 = 0) then
    let lot := decide (j0 + w.perToken ≥ w.n)
    { base with
      kind := kHdr, poison := poison,
      lanes := [BitVec.ofNat 32 (scale.toNat * 2 ^ 24 + js.length * 2 ^ 16 + lot.toNat * 2 ^ 15)] }
  else
    let es := js.map fun j => if bs then blockElem w.tyCode mode (sr j) scale (val j) else tyRound w.tyCode mode ftz (sr j) (val j)
    { base with
      aux := aux, poison := poison, last := decide (pos + 1 = w.m * w.perRow), lanes := packLanes (tyBits w.tyCode) es }

/-- mdrain: the next token enters its drain port, or waits there; a row whose last token has entered is zeroed with acc 0. -/
def execMdrain (w : MxW) (s : State) : Out :=
  let c := s.cur.cluster
  mxRun s (fun _ => (s.mxOf c).slotsOk w) fun h =>
    let t := s.drainToken c h w h.pos
    match s.enterEdge c (.d (w.f 31 30)) t with
    | none => s.countWait c 0x022 h.ctx
    | some s1 =>
      let i := h.pos / w.perRow
      let ovr := (List.range w.slots).any fun a => (s.mxOf c).ovr.getLsbD (w.accsel.toNat + a)
      let g := { h with pos := h.pos + 1, error := h.error || ovr, poisoned := h.poisoned || t.poison }
      let s2 := if w.acc = 0 ∧ g.pos % w.perRow = 0 then
          s1.modMx c fun m => (List.range w.n).foldl (fun m j => m.zeroCell (w.cell i j)) m
        else s1
      if g.pos < w.m * w.perRow then s2.setHead c h g
      else
        let s3 := if w.acc = 0 then s2.modMx c fun m => m.clearOvr w.accsel.toNat w.slots else s2
        s3.mxDone c h (if g.poisoned then stPoisoned else if g.error then stError else stOk)

/-! ### Coverage (R305 to R309, R362) -/

def Mx.hasCov (m : Mx) : Bool := m.cov.isSome
def State.covOf (s : State) (c : Nat) : Coverage := (s.mxOf c).cov.getD { e := 0 }
def State.setCov (s : State) (c : Nat) (v : Coverage) : State := s.modMx c fun m => { m with cov := some v }

/-- cvreset: every best +0.0, every weight 1.0, the gain file cleared. -/
def execCvreset (w : MxW) (s : State) : Out :=
  let c := s.cur.cluster
  mxRun s (fun _ => !(s.mxOf c).hasCov) fun h => (s.setCov c { e := w.f 31 17 + 1 }).mxDone c h stOk

/-- cvreset with release: the slots return to mma; what their cells then hold is free (log 18). -/
def execCvresetRelease (_w : MxW) (s : State) : Out :=
  let c := s.cur.cluster
  mxRun s (fun _ => (s.mxOf c).hasCov) fun h =>
    let n := (s.mxOf c).covSlots
    (s.modMx c fun m => (List.range (2048 * n)).foldl (fun m i =>
      m.setCell (2048 * (16 - n) + i) (Config.releasedCell (32768 * s.tick + 2048 * (16 - n) + i))) { m with cov := none }).mxDone c h stOk

/-- The head tile of a ring, when it is READY. -/
def State.readyHead (s : State) (c r : Nat) : Option Nat := ((s.takeTiles c r 1).getD []).head?

def covBest (v : Coverage) (i : Nat) : Word := v.best.get 0 i
def covWeight (v : Coverage) (i : Nat) : Half := v.weight.get 0x3F80 i

/-- cvload of entries from the head tile of ring A; an entry in a bad word is NaN (R383). -/
def execCvloadEnt (w : MxW) (s : State) : Out :=
  let c := s.cur.cluster
  let first := w.f 30 16
  let n := w.f 15 6 + 1
  mxRun s (fun h => (s.mxOf c).hasCov && s.ownsRing c h.ctx w.ringA.toNat && decide (first + n ≤ (s.covOf c).e)) fun h =>
    match s.readyHead c w.ringA.toNat with
    | none => s.countWait c 0x021 h.ctx
    | some t =>
      let (s1, short, bad) := s.tileScan c h.ctx t (8 * n)
      let put (v : Coverage) (i : Nat) : Coverage :=
        let b := if s.tileBad c h.ctx t (8 * i) then 0x7FC00000 else s.tileLe c h.ctx t (8 * i) 4
        let g := if s.tileBad c h.ctx t (8 * i + 4) then 0x7FC0 else s.tileLe c h.ctx t (8 * i + 4) 2
        { v with best := Map.put 0 v.best (first + i) (BitVec.ofNat 32 b), weight := Map.put 0x3F80 v.weight (first + i) (BitVec.ofNat 16 g) }
      let s2 := (s1.setCov c ((List.range n).foldl put (s.covOf c))).modCluster c fun x => x.popHead w.ringA.toNat
      s2.mxDone c h (if bad then stPoisoned else if short then stError else stOk)

/-- Tie keys and global indices of gains from the head tile of ring B (R306). -/
def State.takeKeys (s : State) (c k t first n : Nat) (v : Coverage) : Coverage :=
  (List.range n).foldl (fun (v : Coverage) i =>
    { v with
      keys := Map.put 0 v.keys (first + i) (BitVec.ofNat 32 (s.tileLe c k t (8 * (first + i)) 4)),
      index := Map.put 0 v.index (first + i) (BitVec.ofNat 32 (s.tileLe c k t (8 * (first + i) + 4) 4)) }) v

/-- cvload of gains: 16-byte FX128 values from ring A, keys from ring B; a gain in a bad word is not valid. -/
def execCvloadGain (w : MxW) (s : State) : Out :=
  let c := s.cur.cluster
  let first := w.f 30 23
  let n := w.f 22 15 + 1
  mxRun s (fun h => (s.mxOf c).hasCov && s.ownsRing c h.ctx w.ringA.toNat && s.ownsRing c h.ctx w.ringB.toNat &&
      decide (first + n ≤ 256)) fun h =>
    match s.readyHead c w.ringA.toNat, s.readyHead c w.ringB.toNat with
    | some ta, some tb =>
      let (s1, sha, ba) := s.tileScan c h.ctx ta (16 * n)
      let (s2, shb, bb) := s1.tileScan c h.ctx tb (8 * (first + n))
      let put (v : Coverage) (i : Nat) : Coverage :=
        let bad := [0, 4, 8, 12].any fun o => s.tileBad c h.ctx ta (16 * i + o)
        let rest := v.valid.filter fun g => decide (g ≠ first + i)
        { v with
          gains := Map.put 0 v.gains (first + i) (BitVec.ofNat 128 (s.tileLe c h.ctx ta (16 * i) 16)),
          valid := if bad then rest else rest ++ [first + i] }
      let v := s.takeKeys c h.ctx tb first n ((List.range n).foldl put { s.covOf c with anchor := w.anchorAt 6 })
      ((s2.setCov c v).modCluster c fun x => x.popHead w.ringA.toNat).mxDone c h
        (if ba || bb then stPoisoned else if sha || shb then stError else stOk)
    | _, _ => s.countWait c 0x021 h.ctx

/-- The similarity of a cell read with anchor G (R307); an invalid cell is a NaN. -/
def State.similarity (s : State) (c : Nat) (w : MxW) (i j : Nat) : Val :=
  if (s.mxOf c).bad (w.cell i j) then .nan false else fxVal (w.anchorAt 8) ((s.mxOf c).cellAt (w.cell i j))

/-- w · max(0, s − best), exact (R307). -/
def covTerm (v : Coverage) (e : Nat) (sim : Val) : Val :=
  let b := fmtF32.decode false (covBest v e).toNat
  let d := (sim.add .rne b.neg).1
  let z := match d.cmp (.ofInt 0) with
    | some x => if x > 0 then d else .ofInt 0
    | none => d
  ((fmtBf16.decode false (covWeight v e).toNat).mul z).1

/-- A column of a probe: its terms are added; `nan` tells that a term of R362 was met. -/
def probeColumn (s : State) (c : Nat) (w : MxW) (v : Coverage) (j : Nat) : Coverage × Bool :=
  let g := w.f 7 0 + j
  let anchor := w.anchorAt 8
  let rb := w.f 31 17
  let rows := (List.range w.m).filter fun i => decide (rb + i < v.e)
  let nan (i : Nat) : Bool := (s.similarity c w i j).isNan || (fmtF32.decode false (covBest v (rb + i)).toNat).isNan ||
    (fmtBf16.decode false (covWeight v (rb + i)).toNat).isNan
  let add (a : Coverage) (i : Nat) : Coverage := match covTerm v (rb + i) (s.similarity c w i j) with
    | .fin neg m e =>
      { a with
        gains := Map.put 0 a.gains g (a.gains.get 0 g + BitVec.ofInt 128 (fxTerm anchor neg m e)),
        ovr := a.ovr || (!neg && fxOver anchor m e) }
    | .inf neg => { a with gains := Map.put 0 a.gains g (Config.openGain (256 * s.tick + g)), ovr := a.ovr || !neg }
    | .nan _ => { a with gains := Map.put 0 a.gains g (Config.openGain (256 * s.tick + g)), ovr := a.ovr || Config.openOvr (256 * s.tick + g) }
  let bad := rows.any nan
  let a := (rows.filter fun i => !(nan i)).foldl add v
  let rest := a.valid.filter fun x => decide (x ≠ g)
  ({ a with valid := if bad then rest else rest ++ [g] }, bad)

/-- cvprobe: the gains of N columns from the cells, with tie keys from ring B (R307, R362). -/
def execCvprobe (w : MxW) (s : State) : Out :=
  let c := s.cur.cluster
  mxRun s (fun h => (s.mxOf c).hasCov && s.ownsRing c h.ctx w.ringB.toNat && (s.mxOf c).slotsOk w &&
      decide (w.f 31 17 < (s.covOf c).e)) fun h =>
    match s.readyHead c w.ringB.toNat with
    | none => s.countWait c 0x021 h.ctx
    | some t =>
      let gb := w.f 7 0
      let (s1, short, bad) := s.tileScan c h.ctx t (8 * (gb + w.n))
      let v0 := { s.covOf c with anchor := w.anchorAt 8 }
      let v1 := if w.acc = 0 then (List.range w.n).foldl (fun (v : Coverage) j => { v with gains := v.gains.del (gb + j) }) v0 else v0
      let (v2, nan) := (List.range w.n).foldl (fun (a : Coverage × Bool) j =>
        let (v, b) := probeColumn s c w a.1 j
        (v, a.2 || b)) (s.takeKeys c h.ctx t gb w.n v1, false)
      (s1.setCov c v2).mxDone c h (if bad then stPoisoned else if nan || short then stError else stOk)

/-- cvcommit: each best becomes the greater of itself and the committed similarity rounded up (R307, R362). -/
def execCvcommit (w : MxW) (s : State) : Out :=
  let c := s.cur.cluster
  mxRun s (fun _ => (s.mxOf c).hasCov && (s.mxOf c).slotsOk w && decide (w.f 31 17 < (s.covOf c).e)) fun h =>
    let j := w.f 7 0
    let go (a : Coverage × Bool) (i : Nat) : Coverage × Bool :=
      let e := w.f 31 17 + i
      let sim := s.similarity c w i j
      let b := fmtF32.decode false (covBest a.1 e).toNat
      let r := (fmtF32.round .rup false 0 sim).1
      let set : Coverage := { a.1 with best := Map.put 0 a.1.best e (BitVec.ofNat 32 r) }
      if e ≥ a.1.e then a
      else if sim.isNan then (a.1, true)
      else if b.isNan then (set, true)
      else if b.below (fmtF32.decode false r) then (set, a.2) else a
    let (v, nan) := (List.range w.m).foldl go (s.covOf c, false)
    (s.setCov c v).mxDone c h (if nan then stError else stOk)

/-- A gain is better than another (R308): greater, then smaller key, then smaller global index. -/
def gainBetter (v : Coverage) (x y : Nat) : Bool :=
  let g (i : Nat) : Int := (v.gains.get (0 : BitVec 128) i).toInt
  let k (i : Nat) : Nat := (v.keys.get (0 : Word) i).toNat
  let n (i : Nat) : Nat := (v.index.get (0 : Word) i).toNat
  decide (g x > g y) || (decide (g x = g y) && (decide (k x < k y) || (decide (k x = k y) && decide (n x < n y))))
def gainLanes (v : Coverage) (g : Nat) : List Word :=
  let x : BitVec 128 := v.gains.get 0 g
  [x.extractLsb' 0 32, x.extractLsb' 32 32, x.extractLsb' 64 32, x.extractLsb' 96 32]

/-- The conditions of a cvread (Table 18.5). -/
def State.readOk (s : State) (c : Nat) (w : MxW) : Bool := (s.mxOf c).hasCov && decide (w.f 28 21 + w.f 20 13 + 1 ≤ 256)

/-- cvread of the argmax: one token of 8 lanes (R308). -/
def execCvreadArg (w : MxW) (s : State) : Out :=
  let c := s.cur.cluster
  mxRun s (fun _ => s.readOk c w) fun h =>
    let v := s.covOf c
    let best := ((List.range (w.f 20 13 + 1)).map fun i => w.f 28 21 + i).filter (fun g => v.valid.contains g) |>.foldl
      (fun (b : Option Nat) g => match b with
        | none => some g
        | some y => if gainBetter v g y then some g else some y) none
    let lanes := match best with
      | some g => [BitVec.ofNat 32 g, v.index.get 0 g, v.keys.get 0 g] ++ gainLanes v g ++ [BitVec.ofNat 32 v.ovr.toNat]
      | none => (List.range 7).map (Config.openLane s.tick) ++ [BitVec.ofNat 32 (2 + v.ovr.toNat)]
    match s.enterEdge c (.d (w.f 30 29)) { s.mxToken c h w 0 with lanes := lanes, last := true } with
    | none => s.countWait c 0x022 h.ctx
    | some s1 => s1.mxDone c h stOk

/-- cvread of gains: eight to a token (R308). -/
def execCvreadGain (w : MxW) (s : State) : Out :=
  let c := s.cur.cluster
  mxRun s (fun _ => s.readOk c w) fun h =>
    let v := s.covOf c
    let n := w.f 20 13 + 1
    let gs := (List.range (Nat.min 8 (n - 8 * h.pos))).map fun i => w.f 28 21 + 8 * h.pos + i
    let fin := decide (8 * (h.pos + 1) ≥ n)
    let t := { s.mxToken c h w 0 with lanes := fitLanes 32 (gs.flatMap (gainLanes v)), last := fin }
    match s.enterEdge c (.d (w.f 30 29)) t with
    | none => s.countWait c 0x022 h.ctx
    | some s1 => if fin then s1.mxDone c h stOk else s1.setHead c h { h with pos := h.pos + 1 }

end Sys2Proof.Machine
end

