-- ==== Sys2Proof/Machine/Issue.lean ====
section
/-! DEFINITION. The issue of queued commands to their engines (R53 to R55, R219 to R222, R228, R286, R357), their completion, and the
scrub engine (R312 to R314, R386). -/
namespace Sys2Proof.Machine

/-! ### The head of a queue -/

/-- The selector of the record on which a queue's head stalls. -/
def headSel (q : Nat) : Nat := 2 ^ 33 + q
def State.setQueue (s : State) (c k q : Nat) (l : List Cmd) : State := s.modStream c k fun st => { st with queues := st.queues.set q l }
def State.queue (s : State) (c k q : Nat) : List Cmd := (s.stream c k).queues.get [] q
def State.modHead (s : State) (c k q : Nat) (f : Cmd → Cmd) : State := match s.queue c k q with
  | [] => s
  | x :: r => s.setQueue c k q (f x :: r)

/-- The head issues: it leaves its queue and is known by a new id. -/
def State.takeHead (s : State) (c k q : Nat) : State := match s.queue c k q with
  | [] => s
  | x :: r =>
    let id := s.cmdId + 1
    { s with cmdId := id }.modStream c k fun st => { st with queues := st.queues.set q r, issued := st.issued ++ [{ x with id := id }] }
/-- The head is complete as it issues. -/
def State.headDone (s : State) (c k q inc status : Nat) : State := (s.takeHead c k q).cmdDone c k (s.cmdId + 1) inc status
/-- The head is refused (R357). -/
def State.headRefused (s : State) (c k q reason : Nat) : State := match s.queue c k q with
  | [] => s
  | x :: r => (s.setQueue c k q r).refuse c k x reason
/-- The head stalls on an access (R388 to R390). -/
def State.headStall (s : State) (c k q : Nat) (f : EngFail) : State := match s.queue c k q with
  | [] => s
  | x :: _ => match s.engStall c k (headSel q) x.reportAddr f with
    | (s1, some n) => s1.modHead c k q fun x => { x with stalled := some n }
    | (s1, none) => s1

/-- The eight doublewords of a descriptor. -/
def wordsOfBytes (bs : List PByte) : List DWord := (List.range (bs.length / 8)).map fun i => BitVec.ofNat 64 (natOfBytes ((bs.drop (8 * i)).take 8))
/-- The descriptor of a queue's head, read through the context's tables; none where the head stalls. -/
def State.headDesc (s : State) (c k q : Nat) (x : Cmd) : State × Option (List DWord) :=
  if !x.desc.isEmpty then (s, some x.desc)
  else match s.engBytes c k (engOwner (headSel q)) x.a 64 with
    | (s1, .error e) => (s1.headStall c k q e, none)
    | (s1, .ok bs) => (s1.engDone c k (engOwner (headSel q)), some (wordsOfBytes bs))

/-! ### AG (R219, R286) -/

/-- A slot operation that `enq ag` may start, and the size of its elements. -/
def enqRun (w : Elem) (d : DescW) (i : Instr) (r : Run) : Option Run := match i with
  | .agsRd m | .agsWr m => some { r with z := tyBytes m.ty }
  | .agsRdcf _ | .agsWrcf _ | .agsFill _ => some r
  | .agsScrub _ => some { r with z := 64 }
  | .pld m | .pst m => some (placedRun m w d r)
  | _ => none

def State.issueAg (s : State) (c k : Nat) (x : Cmd) : State :=
  let site := meSite (x.a.bits 4 0)
  let n := x.a.bits 8 5
  match s.elem? c site k with
  | none => s.headRefused c k 1 5
  | some e =>
    if e.typ ≠ typAg then s.headRefused c k 1 5
    else if e.unit.isNone then s.modElem c site k fun e => { e with fetching := true }
    else
      let d := e.descAt n
      let named := (List.range 16).findSome? fun i => (e.slotInfo site i).bind fun f => if descOf f.i = some n then some (i, f) else none
      match named with
      | none => s.headRefused c k 1 5
      | some (i, f) =>
        let base := if x.flg.getLsbD 0 then x.c else dBase d
        let r : Run := { desc := n, slot := i, base := base, cmdId := s.cmdId + 1 }
        match enqRun e d f.i r with
        | none => s.headRefused c k 1 5
        | some r1 =>
          if (List.range (dLevels d)).any fun j => decide (dCnt d j = 0) then s.headRefused c k 1 5
          else (s.takeHead c k 1).modElem c site k fun e => { e with runs := e.runs ++ [r1] }

/-! ### CL, LK and SC (R310 to R312) -/

/-- The buffers of a collective at a member (R143, R310). -/
def clRanges (owner kind n : Nat) (d : ClDesc) : List Held :=
  [⟨owner, d.send.toNat, d.send.toNat + clSend kind n d⟩, ⟨owner, d.recv.toNat, d.recv.toNat + clRecv kind n d⟩]
/-- The buffers of a collective are entered already. -/
def State.clEntered (s : State) (c k : Nat) (d : ClDesc) : Bool := match s.ctxAt c k with
  | some x => x.ranges.any fun r => decide (r.owner = clOwner c k d.id.toNat)
  | none => true
/-- The member's range table has room for n more entries (R143). -/
def State.rangeRoom (s : State) (c k n : Nat) : Bool := match s.ctxAt c k with
  | some x => decide (x.rangesAt c k + n ≤ 32)
  | none => true
/-- The buffers are entered once. -/
def State.enterCl (s : State) (c k kind : Nat) (d : ClDesc) : State :=
  let owner := clOwner c k d.id.toNat
  let n := (s.clGroup c k d).length
  s.modCtx (s.cidAt c k) fun x =>
    if x.ranges.any fun r => decide (r.owner = owner) then x else { x with ranges := x.ranges ++ clRanges owner kind n d }

def State.issueCl (s : State) (c k : Nat) (x : Cmd) : State := match s.headDesc c k 2 x with
  | (s1, none) => s1
  | (s1, some ws) => match (decodeCl ws).bind clOf with
    | none => s1.headRefused c k 2 2
    | some (kind, d) =>
      if !(clOk kind d) then s1.headRefused c k 2 2
      else match (s1.modHead c k 2 fun x => { x with desc := ws }).clTables c k (engOwner (headSel 2)) d with
        | (s2, some f) => s2.headStall c k 2 f
        | (s2, none) =>
          if !(s2.clEntered c k d) && !(s2.rangeRoom c k 2) then s2
          else ((s2.engDone c k (engOwner (headSel 2))).takeHead c k 2).enterCl c k kind d

/-- The fields of a link command, and its op. -/
def lkOf : Instr → Option (Nat × LkDesc)
  | .send d => some (0, d)
  | .keyld d => some (1, d)
  | .keysw d => some (2, d)
  | .stat d => some (3, d)
  | _ => none
def cmdLk (x : Cmd) : Option (Nat × LkDesc) := (decodeLk x.desc).bind lkOf

/-- The enrolment bit of a node (R344, Table 14.8). -/
def State.enrolled (s : State) (node : Nat) : Bool := BitVec.getLsbD ((s.iod 0).boundary.get (0 : DWord) (0x200 + 8 * (node / 64))) (node % 64)
/-- An earlier link command of the stream that names the port is not complete. -/
def State.earlierLk (s : State) (c k id port : Nat) : Bool := (s.stream c k).issued.any fun y =>
  decide (y.q = 3) && !y.done && decide (y.id < id) && (match cmdLk y with
    | some (_, d) => decide (d.port.toNat = port)
    | none => false)

def State.issueLk (s : State) (c k : Nat) (x : Cmd) : State := match s.headDesc c k 3 x with
  | (s1, none) => s1
  | (s1, some ws) => match (decodeLk ws).bind lkOf with
    | none => s1.headRefused c k 3 3
    | some (op, d) =>
      if (op ≠ 0 ∧ d.nflit ≠ 0) ∨ (op = 0 ∧ !(s1.enrolled d.node.toNat)) then s1.headRefused c k 3 3
      else if op = 3 ∧ s1.earlierLk c k (s1.cmdId + 1) d.port.toNat then s1
      else (s1.modHead c k 3 fun x => { x with desc := ws }).takeHead c k 3

/-- A scrub descriptor is taken, or refused (Table 18.2, reason 4). -/
def State.issueSc (s : State) (c k : Nat) (x : Cmd) : State := match s.headDesc c k 4 x with
  | (s1, none) => s1
  | (s1, some ws) => match decodeSc ws with
    | some _ => (s1.modHead c k 4 fun x => { x with desc := ws }).takeHead c k 4
    | none => s1.headRefused c k 4 4

/-! ### TI and TO (R220, R221) -/

/-- A change that enters by a TI port is counted at its destinations (R68); its source waits under the source rule of R73. -/
def State.issueTi (s : State) (c k : Nat) (x : Cmd) : State :=
  let p := x.flg.toNat % 4
  let t := { Token.ofHeader x.a x.lanes with ctx := BitVec.ofNat 2 k }
  let cid := s.cidAt c k
  match s.region? c k with
  | none => s
  | some r =>
    let ups := if t.kind = kChg then (s.edgeDest c k p 0 t.chan.toNat t).map fun l => (⟨l, t.time, 1⟩ : Upd) else []
    let src := r.tiSource.contains (r.locs.get noLoc p)
    if r.frozen then s
    else if !(s.muRoom cid ups src) then s.muWait cid (4096 * c + 2048 + 4 * k + p) ups src
    else match s.enterEdge c (.ti p) t with
      | none => s
      | some s1 => ((s1.muApply cid ups).muGo cid (4096 * c + 2048 + 4 * k + p) ups).headDone c k 5 1 stOk

/-- The bytes of a token that a TO command writes. -/
def Token.bytes (t : Token) : List PByte :=
  pbytes 8 t.header.toNat false ++ t.lanes.flatMap fun l => pbytes 4 l.toNat (t.poison && decide (t.kind ≠ kErr))
def State.issueTo (s : State) (c k : Nat) (x : Cmd) : State :=
  let p := x.flg.toNat % 4
  match (s.cluster c).toBuf.get [] (4 * p + k), s.region? c k with
  | t :: rest, some r =>
    if r.frozen || (s.cluster c).snapped (4 * p + k) then s
    else match s.engReady c k (engOwner (headSel 6)) x.a t.bytes with
      | (s1, some e) => s1.headStall c k 6 e
      | (s1, none) =>
        let ups := if t.kind = kChg then (s1.edgeLoc c k (4 + p)).map fun l => (⟨l, t.time, -1⟩ : Upd) else []
        let s2 := ((s1.engPut c k (engOwner (headSel 6)) x.a t.bytes).engDone c k (engOwner (headSel 6))).modCluster c fun y => { y with toBuf := y.toBuf.set (4 * p + k) rest }
        ((s2.muApply (s2.cidAt c k) ups).headDone c k 6 1 (if t.poison && decide (t.kind ≠ kErr) then stPoisoned else stOk)).settle c (4 + p)
  | _, _ => s

/-! ### PL (R153, R222) -/

/-- A demand that has been joined while it stood in its queue, or that the DTD already meets, is complete; another waits for the conversion it
starts or joins. -/
def State.issuePl (s : State) (c k : Nat) (x : Cmd) : State :=
  let i := x.a.bits 9 0
  if x.done then s.headDone c k 7 x.inc x.status
  else match s.tablesFail c k (engOwner (headSel 7)) i with
    | (s1, some f) => s1.headStall c k 7 f
    | (s1, none) =>
      let d := s1.dtdAt c k i
      let s2 := s1.engDone c k (engOwner (headSel 7))
      if !d.busy && decide (d.st = x.c.bits 15 0) then s2.headDone c k 7 0 stOk
      else (s2.takeHead c k 7).forkConv c k i (x.c.bits 15 0)

/-! ### Configuration (R228) -/

/-- The key of the partition of a context slot: its physical address (Table 2.1). -/
def State.partKey (s : State) (c k : Nat) : Nat := match s.ctxAt c k with
  | some x => s.rd (hbm (x.part + 0x40)) 8
  | none => 0

/-- The values of a pricking that a region keeps: location map, digests of units and of site entries (R28, R324). -/
def State.staging (s : State) (im : Nat) : Staged :=
  let o := s.img im 0x40 4
  let loc (n : Nat) : Nat := s.img im (o + n) 2
  { image := im, gen := s.imgGen im,
    locs := (List.range 8).map fun n => (n, loc (6144 + 2 * n)),
    portLocs := ((List.range 3072).map fun n => (n, loc (96 * (n / 48) + 2 * (n % 48)))).filter fun e => decide (e.2 ≠ noLoc),
    digests := (List.range 64).map (fun x => (x, s.unitDigest im x)) ++ (List.range 64).map fun x => (64 + x, s.boxDigest im x) }
def Region.under (r : Region) (st : Staged) : Region :=
  { r with image := st.image, gen := st.gen, locs := st.locs, portLocs := st.portLocs, digests := st.digests }
/-- The box words of a context slot, and those staged for it, beside those of the others. -/
def Site.stage (x : Site) (k : Nat) (l : List SwWord) : Site := { x with next := x.next.filter (fun w => decide (w.ctx.toNat ≠ k)) ++ l }
/-- A verified pricking is staged as a whole (R228): every site's words and unit as they were verified. Staged words have positions from 24 on. -/
def State.stage (s : State) (c k im : Nat) : State :=
  let p := s.prick im k
  let x := p.fixed
  let site (s0 : State) (n : Nat) : State :=
    (s0.modSite c n fun y => y.stage k ((s.boxWords im n k).map fun w => { w with pos := 24 + w.pos })).modElem c n k fun e =>
      { e with next := some ⟨s.siteType im n, s.unitAt im n, p.windows x n, p.fixedAs x n⟩ }
  ((List.range 64).foldl site s).modRegion c k fun r => { r with staged := some (s.staging im) }

/-- A pricking that lies at a physical address is checked, and staged or refused. -/
def State.loadAt (s : State) (c k im : Nat) : State :=
  let nd := s.dtdNd c (s.rootAt c k) (s.ptabAt c k)
  let bound (y vc : Nat) : Bool := match s.ctxAt c k with
    | some x => x.bound c k y vc
    | none => true
  if (s.loadCheck (s.partKey c k) im k nd bound).isSome || (s.prick im k).sharesOver s c k then s.headRefused c k qCfg 7
  else (s.stage c k im).headDone c k qCfg 1 stOk
/-- The number of DTDs of a context's placement table that can be there (R145). -/
def dtdCount (n : Nat) : Nat := Nat.min 1024 n
/-- A pricking is staged once it passes the checks of the loader (R358), among them that no ME's shares pass 48 KiB with those of the contexts that
stay resident; one that does not is refused for reason 7, and so is an address at which none can be read. Its generation is that of its header (Table 2.7;
DEDUCED, log 25). -/
def State.issueLoad (s : State) (c k : Nat) (x : Cmd) : State :=
  match s.region? c k with
  | none => s
  | some r =>
    if r.switching.isSome then s
    else
      let owner := engOwner (headSel qCfg)
      let ptab := s.ptabAt c k
      match s.translate c true (s.rootAt c k) x.a .load with
      | (s1, .error (code, _)) => if code = 0 then s1 else s1.headRefused c k qCfg 7
      | (s1, .ok key) =>
        if keyAp key ≠ 0 then s1.headRefused c k qCfg 7
        else match (if ptab = 0 then (s1, none) else s1.areasFail c k owner [(ptab, 64), (ptab, 64 + 64 * dtdCount (s1.vrd c k ptab 2))]) with
          | (s2, some f) =>
            if f.code = 0 then s2
            else s2.loadAt c k (keyPa key)
          | (s2, none) => (s2.loadAt c k (keyPa key)).engDone c k owner

/-- A switch begins at every site: the element keeps what its channels are, and words for inputs and channels that no running word has are in force
from now on (R191, R229; DESIGN CHOICE, log 104). -/
def State.beginSwitch (s : State) (c k : Nat) : State :=
  let site (s0 : State) (n : Nat) : State :=
    let x := s.site c n
    let new := x.next.filter fun w => decide (w.ctx.toNat = k) && !(x.words.any (w.twin n))
    (s0.modSite c n fun y => { y with words := y.words ++ new.map fun w => { w with fresh := true } }).modElem c n k fun e =>
      { e with holds := true, swIns := x.inputs k, swOuts := x.outputs k, swBack := s.feedback c k n }
  (List.range 64).foldl site s
/-- SWITCH picots enter on every channel by which tokens enter the region (R228). -/
def State.issueSwitch (s : State) (c k : Nat) (x : Cmd) : State :=
  let g := x.c.bits 23 0
  match s.region? c k with
  | none => s
  | some r =>
    if r.switching.isSome then s
    else match r.staged with
      | none => s.headRefused c k qCfg 6
      | some st =>
        if st.gen ≠ g then s.headRefused c k qCfg 6
        else match s.injectPicots c k (fun _ => true) 2 g 0 with
          | none => s
          | some s1 => ((s1.beginSwitch c k).modRegion c k fun r => { r with switching := some g }).takeHead c k qCfg

/-- The unit of a site is fetched ahead of its first token. -/
def State.issuePage (s : State) (c k : Nat) (x : Cmd) : State :=
  (s.takeHead c k qCfg).modElem c (x.a.bits 5 0) k fun e => { e with fetching := e.fetching || e.unit.isNone }

def State.issueCfg (s : State) (c k : Nat) (x : Cmd) : State := match x.flg.toNat with
  | 0 => s.issueLoad c k x
  | 1 => s.issueSwitch c k x
  | _ => s.issuePage c k x

/-- COMMAND_ISSUE (R53): the head of queue `cur.sel` of a stream goes to its engine, if it can now; queue 0 is served by the MX (R54).
The configuration queue is number 8. -/
def execCommandIssue (s : State) : Out :=
  let c := s.cur.cluster
  let k := s.cur.ctx
  if !(s.mayIssue c k) then .next s
  else match s.queue c k s.cur.sel with
    | [] => .next s
    | x :: _ =>
      if x.stalled.isSome then .next s
      else .next (match s.cur.sel with
        | 1 => s.issueAg c k x
        | 2 => s.issueCl c k x
        | 3 => s.issueLk c k x
        | 4 => s.issueSc c k x
        | 5 => s.issueTi c k x
        | 6 => s.issueTo c k x
        | 7 => s.issuePl c k x
        | 8 => s.issueCfg c k x
        | _ => s)

/-! ### Completion (R55, R225) -/

/-- No SWITCH picot is left in the words, ports, pipelines and output registers of a context slot at a site. -/
def Site.picotFree (x : Site) (k kind : Nat) : Bool :=
  let free (l : List Token) : Bool := l.all fun t => !(t.isPicot kind)
  (x.words.all fun w => decide (w.ctx.toNat ≠ k) || free w.buf) && (match x.elems.find? k with
    | none => true
    | some e => free e.inA && free e.inB && free e.inC && free e.inQ && free e.out0 && free e.out1 && free (e.pipe.map PipeItem.tok))
/-- Every site has switched (R228, R229, R372): every element that had channels, and every word that a picot reached, since none is left on its
way. -/
def State.allSwitched (s : State) (c k : Nat) : Bool := (List.range 64).all fun n => (s.site c n).picotFree k 2 && (match s.elem? c n k with
  | none => true
  | some e => e.switched || (e.swIns.isEmpty && e.swOuts.isEmpty))

/-- The words of a context slot at the end of a switch: those in force stay; those that no picot reached take their staged values, with the tokens
that wait there; a token that no staged word takes waits on. -/
def Site.endWords (x : Site) (site k : Nat) : List SwWord :=
  let mine := x.words.filter fun w => decide (w.ctx.toNat = k)
  let old := mine.filter fun w => !w.fresh
  let new := (x.next.filter fun w => decide (w.ctx.toNat = k) && !(mine.any fun v => v.fresh && decide (v.pos = w.pos))).map fun w =>
    { w with buf := match old.find? (w.twin site) with
      | some v => v.buf
      | none => [] }
  let stuck := old.filter fun w => !w.buf.isEmpty && !(new.any fun v => v.twin site w)
  (mine.filter SwWord.fresh ++ new).map (fun w => { w with fresh := false, pos := w.pos % 24 }) ++
    stuck.map fun w => { w with switched := true, pos := 48 + w.pos % 24 }
/-- The switch is complete: the words and elements that no picot reached take the staged values too (R228, R229). -/
def State.endSwitch (s : State) (c k : Nat) : State := match s.region? c k with
  | none => s
  | some r => match r.staged with
    | none => s
    | some st =>
      let elem (e : Elem) : Elem :=
        let e1 := match e.next with
          | some u => { e.renewed u with unit := if e.unit.isSome then some u.unit else none }
          | none => e
        { e1 with holds := false, switched := false, swIns := [], swOuts := [], swBack := [] }
      let site (s : State) (n : Nat) : State :=
        (s.modSite c n fun x => { x.stage k [] with words := x.words.filter (fun w => decide (w.ctx.toNat ≠ k)) ++ x.endWords n k }).modElem c n k elem
      ((List.range 64).foldl site s).modRegion c k fun r => { r.under st with staged := none, switching := none }

/-- What the completion of a command adds and its status; none where it is not complete. -/
def State.finished (s : State) (c k : Nat) (x : Cmd) : Option (Nat × Nat) :=
  if x.done then some (x.inc, x.status)
  else if x.q = qCfg ∧ x.flg = 1 then
    (if s.allSwitched c k then some (1, stOk) else none)
  else if x.q = qCfg ∧ x.flg = 2 then
    (match s.elem? c (x.a.bits 5 0) k with
     | some e => if e.unit.isSome then some (1, stOk) else none
     | none => some (1, stOk))
  else none

/-- COMMAND_COMPLETE (R55): a command whose effects are done leaves the range table and signals its object (R143, R225). `cur.sel` is
its id. -/
def execCommandComplete (s : State) : Out :=
  let c := s.cur.cluster
  let k := s.cur.ctx
  match s.issuedCmd? c k s.cur.sel with
  | none => .next s
  | some x => match s.finished c k x with
    | none => .next s
    | some (inc, status) =>
      let s1 := if x.q = qCfg ∧ x.flg = 1 then s.endSwitch c k else s
      let s2 := match (decodeCl x.desc).bind clOf with
        | some (_, d) => if x.q = 2 then s1.modCtx (s1.cidAt c k) fun y => y.release (clOwner c k d.id.toNat) else s1
        | none => s1
      .next ((s2.signalCmd c k x inc status).modStream c k fun st => { st with
        issued := st.issued.filter fun y => decide (y.id ≠ x.id) })

/-! ### Scrub (R312 to R314, R386) -/

/-- The next block of a scrub command: read, corrected or marked, and its bit written; the first of 64 blocks writes the whole doubleword
(R387's example; DEDUCED, log 26). The command ends with its last block. -/
def execScrub (d : ScDesc) (s : State) : Out :=
  let c := s.cur.cluster
  let k := s.cur.ctx
  match s.issuedCmd? c k s.cur.sel with
  | none => .next s
  | some x =>
    if x.q ≠ 4 ∨ x.done ∨ x.stalled.isSome ∨ !(s.running c k) then .next s
    else
      let j := x.pos
      let va := d.base + BitVec.ofNat 64 (64 * j)
      let bm := d.bitmap + BitVec.ofNat 64 (8 * (j / 64))
      match s.engHome c k 0 va 64 .load with
      | (s1, .error (code, e)) => .next (s1.cmdStall c k x ⟨code, e, va, .load, 64 * j⟩)
      | (s1, .ok key) => match s1.engHome c k 0 bm 8 .store with
        | (s2, .error (code, e)) => .next (s2.cmdStall c k x ⟨code, e, bm, .store, 8 * (j / 64)⟩)
        | (s2, .ok bkey) =>
          let owner := engOwner x.id
          match (if isFar bkey ∧ j % 64 ≠ 0 then s2.engBytes c k owner bm 8 else (s2, .ok (pbytes 8 (s2.rd bkey 8) false))) with
          | (s3, .error f) => .next (s3.cmdStall c k x f)
          | (s3, .ok bs) =>
            let (_, bit, bad, _) := s3.atHome key 64 0 .scrub
            let old := if j % 64 = 0 then 0 else natOfBytes bs
            let v := old - (if old.testBit (j % 64) then 2 ^ (j % 64) else 0) + bit * 2 ^ (j % 64)
            match (if isFar bkey then s3.engReady c k owner bm (pbytes 8 v false) else (s3, none)) with
            | (s4, some f) => .next (s4.cmdStall c k x f)
            | (s4, none) =>
              let s5 := ((s4.atHome key 64 0 .scrub).1.wrAt (s.rootAt c k) bm bkey 8 v).engDone c k owner
              let status := if bad then stPoisoned else x.status
              let s6 := s5.modIssued c k x.id fun x => { x with pos := j + 1, status := status }
              if j + 1 < d.nblk.toNat then .next s6 else .next (s6.cmdDone c k x.id d.nblk.toNat status)

end Sys2Proof.Machine
end

