-- ==== Sys2Proof/Machine/SeqMem.lean ====
section
/-! DEFINITION. Sequencer loads, stores, atomics and fences (R205 to R208, R134 to R137). -/
namespace Sys2Proof.Machine

/-- Kinds of memory-ring entries (R342). -/
def ringLd : Nat := 0
def ringLdc : Nat := 3
def ringLda : Nat := 4

/-- A load (R205): the value through the block view, the taint `t` of the destination, and the ring entry of its kind. -/
def seqLoad (s : State) (d : BitVec 6) (va : DWord) (sz : Nat) (signed : Bool) (t : Bool) (kind : Nat) : Out :=
  match s.loadView va (2 ^ sz) .load with
  | (s1, .error (code, det)) => .next (s1.stopAt code det va)
  | (s1, .ok v) =>
    .next (s1.seqPure fun st => (st.wr d (extend signed (8 * 2 ^ sz) v) t).addEff (.load va kind (2 ^ sz)))

/-- A store is entered in the buffer (R205); `rel` for a release. -/
def seqStore (s : State) (d : BitVec 6) (va : DWord) (sz : Nat) (rel : Bool) : Out :=
  match s.access va (2 ^ sz) .store with
  | (s1, .error (code, det)) => .next (s1.stopAt code det va)
  | (s1, .ok k) => .next (s1.seqPure fun st => st.addEff (.store va k (2 ^ sz) (st.view.rs d) rel))

/-- Loads 2^sz bytes, sign-extended (R205). -/
def execLd (d a : BitVec 6) (sz : BitVec 2) (o : BitVec 12) (s : State) : Out :=
  seqLoad s d (memAddr s.me.view a o sz.toNat) sz.toNat true (s.me.view.taintOf a) ringLd
/-- Loads 2^sz bytes, zero-extended (R205). -/
def execLdn (d a : BitVec 6) (sz : BitVec 2) (o : BitVec 12) (s : State) : Out :=
  seqLoad s d (memAddr s.me.view a o sz.toNat) sz.toNat false (s.me.view.taintOf a) ringLd
/-- Buffers a store of 2^sz bytes (R205). -/
def execSt (d a : BitVec 6) (sz : BitVec 2) (o : BitVec 12) (s : State) : Out :=
  seqStore s d (memAddr s.me.view a o sz.toNat) sz.toNat false
/-- The consume: a load of a word or doubleword that taints its destination (R206). -/
def execLdc (d a : BitVec 6) (sz : BitVec 1) (o : BitVec 12) (s : State) : Out :=
  seqLoad s d (memAddr s.me.view a o (2 + sz.toNat)) (2 + sz.toNat) true true ringLdc
/-- A load that is an acquire; its scope orders nothing further here: a load is performed in its own step, and every store of an earlier block was
performed or accepted at its home by the block's commit (R132, R207, log 5). -/
def execLda (d a : BitVec 6) (sz c : BitVec 2) (o : BitVec 10) (s : State) : Out :=
  let _ := c
  seqLoad s d (memAddr s.me.view a o sz.toNat) sz.toNat true (s.me.view.taintOf a) ringLda
/-- A store that is a release (R207, log 5). -/
def execStl (d a : BitVec 6) (sz c : BitVec 2) (o : BitVec 10) (s : State) : Out :=
  let _ := c
  seqStore s d (memAddr s.me.view a o sz.toNat) sz.toNat true

/-- An AMO is entered in the buffer and performed at the block's commit, when its destination takes the old value and its taint
(R133, R208). A poisoned or uncorrectable line traps
as a load does (Table 20.1); that of another node answers at the commit (R392). -/
def seqAmo (s : State) (fn : Nat) (d a b : BitVec 6) (n : Nat) : Out :=
  let r := s.me.view
  let va := r.rs a
  match s.access va n .atomic with
  | (s1, .error (code, det)) => .next (s1.stopAt code det va)
  | (s1, .ok k) =>
    match (if isFar k then (s1, 0) else s1.touch k n) with
    | (s2, 0) =>
      let y := (r.rs b).toNat % 2 ^ (8 * n)
      let cv := (r.rs d).toNat % 2 ^ (8 * n)
      let t := r.taintOf a || r.taintOf b || (decide (fn = 9) && r.taintOf d)
      .next (s2.seqPure fun st => st.addEff
        (.amo fn va k n d (BitVec.ofNat 64 y) (BitVec.ofNat 64 cv) (BitVec.ofNat 2 (r.fpcr.toNat % 4)) r.ftz t))
    | (s2, 1) => .next (s2.trapHere 9 1 va)
    | (s2, _) => .next (s2.trapHere 8 1 va)

/-- AMO fn 0 of R208; the scope and ord bits order nothing further here (log 5). -/
def execAmoAdd (d a b : BitVec 6) (c : BitVec 2) (sz o : BitVec 1) (s : State) : Out :=
  let _ := (c, o)
  seqAmo s 0 d a b (4 + 4 * sz.toNat)
/-- AMO fn 1 of R208; the scope and ord bits order nothing further here (log 5). -/
def execAmoAnd (d a b : BitVec 6) (c : BitVec 2) (sz o : BitVec 1) (s : State) : Out :=
  let _ := (c, o)
  seqAmo s 1 d a b (4 + 4 * sz.toNat)
/-- AMO fn 2 of R208; the scope and ord bits order nothing further here (log 5). -/
def execAmoOr (d a b : BitVec 6) (c : BitVec 2) (sz o : BitVec 1) (s : State) : Out :=
  let _ := (c, o)
  seqAmo s 2 d a b (4 + 4 * sz.toNat)
/-- AMO fn 3 of R208; the scope and ord bits order nothing further here (log 5). -/
def execAmoXor (d a b : BitVec 6) (c : BitVec 2) (sz o : BitVec 1) (s : State) : Out :=
  let _ := (c, o)
  seqAmo s 3 d a b (4 + 4 * sz.toNat)
/-- AMO fn 4 of R208; the scope and ord bits order nothing further here (log 5). -/
def execAmoMin (d a b : BitVec 6) (c : BitVec 2) (sz o : BitVec 1) (s : State) : Out :=
  let _ := (c, o)
  seqAmo s 4 d a b (4 + 4 * sz.toNat)
/-- AMO fn 5 of R208; the scope and ord bits order nothing further here (log 5). -/
def execAmoMax (d a b : BitVec 6) (c : BitVec 2) (sz o : BitVec 1) (s : State) : Out :=
  let _ := (c, o)
  seqAmo s 5 d a b (4 + 4 * sz.toNat)
/-- AMO fn 6 of R208; the scope and ord bits order nothing further here (log 5). -/
def execAmoMinn (d a b : BitVec 6) (c : BitVec 2) (sz o : BitVec 1) (s : State) : Out :=
  let _ := (c, o)
  seqAmo s 6 d a b (4 + 4 * sz.toNat)
/-- AMO fn 7 of R208; the scope and ord bits order nothing further here (log 5). -/
def execAmoMaxn (d a b : BitVec 6) (c : BitVec 2) (sz o : BitVec 1) (s : State) : Out :=
  let _ := (c, o)
  seqAmo s 7 d a b (4 + 4 * sz.toNat)
/-- AMO fn 8 of R208; the scope and ord bits order nothing further here (log 5). -/
def execAmoSwap (d a b : BitVec 6) (c : BitVec 2) (sz o : BitVec 1) (s : State) : Out :=
  let _ := (c, o)
  seqAmo s 8 d a b (4 + 4 * sz.toNat)
/-- AMO fn 9 of R208; the scope and ord bits order nothing further here (log 5). -/
def execAmoCas (d a b : BitVec 6) (c : BitVec 2) (sz o : BitVec 1) (s : State) : Out :=
  let _ := (c, o)
  seqAmo s 9 d a b (4 + 4 * sz.toNat)
/-- AMO FADD: an f32 sum under the captured rm and ftz (R208). -/
def execAmoFadd (d a b : BitVec 6) (c : BitVec 2) (o : BitVec 1) (s : State) : Out :=
  let _ := (c, o)
  seqAmo s 10 d a b 4

/-- FENCE: every earlier access has been performed when it executes, those of other nodes' memory too, since a block commits only when their homes have
answered (`State.farPhase`); so its guarantee holds and it does not wait (R134, log 5, log 113). -/
def execFence (w x y z : BitVec 1) (c : BitVec 2) (s : State) : Out :=
  let _ := (w, x, y, z, c)
  .next (s.seqPure fun st => st)

end Sys2Proof.Machine
end

