-- ==== Sys2Proof/Machine/SeqTime.lean ====
section
/-! DEFINITION. Time and frontier instructions (R216, R217). -/
namespace Sys2Proof.Machine

/-- A coordinate after an addition, or the WATCH trap of Table 18.1 (R216). -/
def timeCoord (s : State) (d : BitVec 3) (base : Time) (j v : Nat) (clear : Bool) : Out :=
  if v ≥ 2 ^ coordBits j then .next (s.trapHere 0x10 1 (BitVec.ofNat 64 v))
  else seqTime s d fun _ =>
    let t := base.setCoord j v
    if clear then (List.range 4).foldl (fun t i => if j < i then t.setCoord i 0 else t) t else t

/-- td := ta (R216). -/
def execTmov (d a : BitVec 3) (s : State) : Out := seqTime s d fun r => r.rt a
/-- td.cN := s(x) low bits (R216). -/
def execTset (d : BitVec 3) (c : BitVec 2) (x : BitVec 6) (s : State) : Out :=
  seqTime s d fun r => (r.rt d).setCoord c.toNat (r.rs x).toNat
/-- s(x) := ta.cN, untainted (R216). -/
def execTget (a : BitVec 3) (c : BitVec 2) (x : BitVec 6) (s : State) : Out :=
  .next (s.seqPure fun st => st.wr x (BitVec.ofNat 64 ((st.view.rt a).coord c.toNat)) false)
/-- td := ta with cN + s(x); WATCH 1 past the coordinate's width (R216). -/
def execTinc (d a : BitVec 3) (c : BitVec 2) (x : BitVec 6) (s : State) : Out :=
  let r := s.me.view
  timeCoord s d (r.rt a) c.toNat ((r.rt a).coord c.toNat + (r.rs x).toNat) false
/-- As tinc with an immediate (R216). -/
def execTinci (d a : BitVec 3) (c : BitVec 2) (n : BitVec 6) (s : State) : Out :=
  let r := s.me.view
  timeCoord s d (r.rt a) c.toNat ((r.rt a).coord c.toNat + n.toNat) false
/-- td := ta ∨ tb (R60, R216). -/
def execTjoin (d a b : BitVec 3) (s : State) : Out := seqTime s d fun r => (r.rt a).join (r.rt b)
/-- td := ta ∧ tb (R60, R216). -/
def execTmeet (d a b : BitVec 3) (s : State) : Out := seqTime s d fun r => (r.rt a).meet (r.rt b)
/-- p := ta ≤ tb in the product order (R60, R216). -/
def execTle (a b p : BitVec 3) (s : State) : Out := seqPred s p fun r => (r.rt a).le (r.rt b)
/-- p := ta < tb (R60, R216). -/
def execTlt (a b p : BitVec 3) (s : State) : Out := seqPred s p fun r => (r.rt a).lt (r.rt b)
/-- p := ta = tb (R216). -/
def execTeq (a b p : BitVec 3) (s : State) : Out := seqPred s p fun r => decide (r.rt a = r.rt b)
/-- ta when s(x) ≤ ta.cN, else ta with cN := s(x) and the coordinates above N zero (R216). -/
def execTadv (d a : BitVec 3) (c : BitVec 2) (x : BitVec 6) (s : State) : Out :=
  let r := s.me.view
  if (r.rs x).toNat ≤ (r.rt a).coord c.toNat then seqTime s d fun r => r.rt a
  else timeCoord s d (r.rt a) c.toNat (r.rs x).toNat true

/-! ### Frontiers -/

/-- The location base of the acting stream's region (R67). -/
def State.locBaseHere (s : State) : Nat := match s.region? s.cur.cluster s.cur.ctx with
  | some r => r.locBase
  | none => 0
/-- The frontier of the acting stream's context at a local location (R71). -/
def State.frontierHere (s : State) (loc : BitVec 16) : List Time :=
  s.frontier (s.cidAt s.cur.cluster s.cur.ctx) (s.locBaseHere + loc.toNat)

/-- A frontier register's elements and binding are written (Table 10.1). -/
def Stream.bindHz (st : Stream) (h : BitVec 3) (els : List Time) (src : Bool) (loc : BitVec 16) : Stream :=
  { st with view := st.view.wh h ⟨els, true, src, loc⟩ }

/-- hz := the frontier of location s(x), and its binding (R217). -/
def execHzld (h : BitVec 3) (x : BitVec 6) (s : State) : Out :=
  let loc := (s.me.view.rs x).truncate 16
  .next (s.seqPure fun st => st.bindHz h (s.frontierHere loc) false loc)

/-- Waits until the time is complete under the bound location's frontier, then reads that frontier (R217); BLOCKFMT 4 where W
is clear, WATCH 2 on an unbound register. -/
def execHzwait (a h : BitVec 3) (s : State) : Out :=
  let st := s.me
  let z := st.view.rh h
  if !st.wflag then .next (s.trapHere 0x0C 4 st.pc)
  else if !z.bound then .next (s.trapHere 0x10 2 (h.zeroExtend 64))
  else
    let f := s.frontierHere z.loc
    if complete f (st.view.rt a) then
      .next (s.seqPure fun st => { st with view := st.view.wh h { z with els := f } })
    else .next s.waitHere

/-- The sources fed by the stream's TI ports (R68, R217): local TI locations whose port is a source. -/
def State.isTiSource (s : State) (loc : Nat) : Bool := match s.region? s.cur.cluster s.cur.ctx with
  | some r => r.tiSource.contains loc
  | none => false

/-- The frontier a source stands at in the block view: what an earlier HZPUB of the block publishes, else its input frontier. -/
def State.sourceFrontier (s : State) (loc : Nat) : List Time :=
  let pubs := s.me.effs.filterMap fun e => match e.2 with
    | .hzpub l els => if l = loc then some els else none
    | _ => none
  match pubs.getLast? with
  | some els => els
  | none => match s.ctxAt s.cur.cluster s.cur.ctx with
    | some x => x.sources.get [Time.zero] loc
    | none => [Time.zero]

/-- Publishes hz as the source's input frontier at commit (R75, R217); WATCH 3 where the location is no TI source, WATCH 4 where
an element lies above no element of the current frontier. -/
def execHzpub (h : BitVec 3) (x : BitVec 6) (s : State) : Out :=
  let st := s.me
  let loc := (st.view.rs x).truncate 16
  let els := (st.view.rh h).els
  if !(s.isTiSource loc.toNat) then .next (s.trapHere 0x10 3 (loc.zeroExtend 64))
  else
    let g := s.locBaseHere + loc.toNat
    if els.all fun f => (s.sourceFrontier g).any fun e => e.le f then
      .next (s.seqPure fun st => (st.addEff (.hzpub g els)).bindHz h els true loc)
    else .next (s.trapHere 0x10 4 (loc.zeroExtend 64))

/-- p := the time is not yet complete under hz (R217). -/
def execHzle (a h p : BitVec 3) (s : State) : Out := seqPred s p fun r => !(complete (r.rh h).els (r.rt a))
/-- s(x) := the element count, untainted (R217). -/
def execHzget (h : BitVec 3) (x : BitVec 6) (s : State) : Out :=
  .next (s.seqPure fun st => st.wr x (BitVec.ofNat 64 (st.view.rh h).els.length) false)
/-- td := an element of hz, or the zero time (R217). -/
def execHztime (d h e : BitVec 3) (s : State) : Out :=
  seqTime s d fun r => (r.rh h).els.getD e.toNat Time.zero

end Sys2Proof.Machine
end

