-- ==== Sys2Proof/Machine/Commit.lean ====
section
/-! DEFINITION. The commit of a block (R49 to R53, R132, R133, R215, R217, R230, R342, R377), asynchronous traps (R357) and the end of a
stream (R234). -/
namespace Sys2Proof.Machine

/-! ### What stops a commit (R355) -/

/-- A trap that a commit meets, with the index of its instruction. -/
structure CommitBad where
  idx : Nat
  code : Nat
  detail : Nat
  addr : DWord

/-- A change that a TI command injects is complete under its source's frontier as the block leaves it (R75, WATCH 5). -/
def State.tiLate (s : State) (x : Cmd) : Option DWord :=
  let t := Token.ofHeader x.a x.lanes
  if x.q ≠ 5 ∨ t.kind ≠ kChg then none
  else match s.region? s.cur.cluster s.cur.ctx with
    | none => none
    | some r =>
      let l := r.locs.get noLoc (x.flg.toNat % 4)
      if r.tiSource.contains l && complete (s.sourceFrontier (r.locBase + l)) t.time then some (t.time.c0.zeroExtend 64) else none

/-- The first trap of a block's commit: the 65th ENQ of a queue, a late change, an AMO whose line became poisoned, a push past the spill
area or whose store does not translate. -/
def State.commitCheck (s : State) : State × Option CommitBad :=
  let go (a : State × Map Nat × Option CommitBad) (e : Nat × Eff) : State × Map Nat × Option CommitBad := match a.2.2 with
    | some _ => a
    | none => match e.2 with
      | .enq x =>
        let n := a.2.1.get 0 x.q
        if n ≥ 64 then (a.1, a.2.1, some ⟨e.1, 0x0D, 1, x.word.zeroExtend 64⟩)
        else match a.1.tiLate x with
          | some v => (a.1, a.2.1, some ⟨e.1, 0x10, 5, v⟩)
          | none => (a.1, a.2.1.set x.q (n + 1), none)
      | .amo _ va key n _ _ _ _ _ _ => match (if isFar key then (a.1, 0) else a.1.touch key n) with
        | (s1, 0) => (s1, a.2.1, none)
        | (s1, 1) => (s1, a.2.1, some ⟨e.1, 9, 1, va⟩)
        | (s1, _) => (s1, a.2.1, some ⟨e.1, 8, 1, va⟩)
      | .push _ =>
        let r := a.1.me.view
        if r.rstk.length < 16 then a
        else match a.1.access r.spillbase 8 .store with
          | (s1, .ok _) =>
            if r.spillbase.toNat + 8 > r.spilllim.toNat then (s1, a.2.1, some ⟨e.1, 6, 1, r.spillbase⟩) else (s1, a.2.1, none)
          | (s1, .error (code, d)) => (s1, a.2.1, some ⟨e.1, code, d, r.spillbase⟩)
      | _ => a
  let r := s.me.effs.foldl go (s, [], none)
  (r.1, r.2.2)

/-- The engine commands of a block, with their indices. -/
def enqsOf (l : List (Nat × Eff)) : List (Nat × Cmd) := l.filterMap fun e => match e.2 with
  | .enq x => some (e.1, x)
  | _ => none
def cfgsOf (l : List (Nat × Eff)) : List Cmd := l.filterMap fun e => match e.2 with
  | .cfg x => some x
  | _ => none
/-- All commands of a block, those for the configuration queue too. -/
def cmdsOf (l : List (Nat × Eff)) : List (Nat × Cmd) := l.filterMap fun e => match e.2 with
  | .enq x => some (e.1, x)
  | .cfg x => some (e.1, x)
  | _ => none
def launchesOf (l : List (Nat × Eff)) : Nat := (l.filter fun e => match e.2 with
  | .ctx 0 _ _ => true
  | _ => false).length
def pubsOf (l : List (Nat × Eff)) : List (Nat × List Time) := l.filterMap fun e => match e.2 with
  | .hzpub g els => some (g, els)
  | _ => none

/-- The owner number by which a commit reads for the fork at an index of its block. -/
def forkOwner (i : Nat) : Nat := 2 ^ 52 + i

/-- Objects that a block's commands name and that hold no completion-file entry yet: index, key, object (R377). A CFG command that names one counts
(R228; DEDUCED, log 50). -/
def State.newObjects (s : State) : List (Nat × Nat × DWord) :=
  let c := s.cur.cluster
  let cid := s.cidAt c s.cur.ctx
  (cmdsOf s.me.effs).foldl (fun (l : List (Nat × Nat × DWord)) e =>
    let key := cfKey cid e.2.obj
    if e.2.obj = 0 ∨ (s.cluster c).cf.any (fun q => decide (q.1 = key)) ∨ l.any (fun q => decide (q.2.1 = key)) then l
    else l ++ [(e.1, key, e.2.obj)]) []
/-- QUOTA 1: the entries of the context on its cluster would exceed its budget (R377). -/
def State.quotaBad (s : State) : Option CommitBad :=
  let c := s.cur.cluster
  let cid := s.cidAt c s.cur.ctx
  let held := ((s.cluster c).cf.filter fun q => decide (q.1 / 2 ^ 64 = cid)).length
  let limit := match s.ctx? cid with
    | some x => x.bcobj
    | none => 0
  ((s.newObjects)[limit - held]?).map fun q => ⟨q.1, 0x0F, 1, q.2.2⟩

/-- The block's publications as one batch (R69, R75): the last one of each source, in place of what it stands at. -/
def State.pubBatch (s : State) : List (Nat × List Time) × List Upd :=
  let x := match s.ctxAt s.cur.cluster s.cur.ctx with
    | some x => x.sources
    | none => []
  let last := (pubsOf s.me.effs).foldl (fun (m : Map (List Time)) p => m.set p.1 p.2) []
  (last, last.flatMap fun p => (p.2.map fun t => ⟨p.1, t, 1⟩) ++ (x.get [Time.zero] p.1).map fun t => ⟨p.1, t, -1⟩)

/-- Memory as it stands once the block has committed: its stores, signals, arms and AMOs to homes of this module, in order, and its stores to others (R50). -/
def commitMem (effs : List (Nat × Eff)) (s : State) : State :=
  effs.foldl (fun s e => match e.2 with
    | .store _ key n v _ => s.wrKeep key n v.toNat
    | .signal _ key inc status => if key = 0 ∨ isFar key then s else s.signalled key inc status
    | .bara _ key expected strict => if isFar key then s else s.arm key expected strict
    | .amo fn _ key n _ y cv rm ftz _ =>
      if isFar key then s else s.wrKeep key n (amoNew fn n (s.rd key n) y.toNat cv.toNat (RMode.ofCode rm.toNat) ftz)
    | _ => s) s

/-- A collective that the engine will take. -/
def goodCl (ws : List DWord) : Option (Nat × ClDesc) := match (decodeCl ws).bind clOf with
  | some (kind, d) => if clOk kind d then some (kind, d) else none
  | none => none

/-- What the forks of a block read, behind every effect of the commit (R139, R310): the descriptors of its collectives, and the tables of its demands (no
words). A fork whose reads do not translate is made when its command issues; the flag says that one must wait for its reads (R25, R334). -/
def State.readForks (s : State) : State × List (Nat × List DWord) × Bool :=
  let c := s.cur.cluster
  let k := s.cur.ctx
  (enqsOf s.me.effs).foldl (fun (a : State × List (Nat × List DWord) × Bool) e =>
    let owner := forkOwner e.1
    if e.2.q = 2 then (match a.1.engBytes c k owner e.2.a 64 with
      | (s1, .ok _) => match ((commitMem s.me.effs s1).engBytes c k owner e.2.a 64).2 with
        | .ok bs =>
          let ws := wordsOfBytes bs
          match (match goodCl ws with
            | some (_, d) => s1.clTables c k owner d
            | none => (s1, none)) with
          | (s2, none) => (s2, a.2.1 ++ [(e.1, ws)], a.2.2)
          | (s2, some f) => (s2, a.2.1, a.2.2 || decide (f.code = 0))
        | .error _ => (s1, a.2)
      | (s1, .error f) => (s1, a.2.1, a.2.2 || decide (f.code = 0)))
    else if e.2.q = 7 then (match a.1.tablesFail c k owner (e.2.a.bits 9 0) with
      | (s1, none) => (s1, a.2.1 ++ [(e.1, [])], a.2.2)
      | (s1, some f) => (s1, a.2.1, a.2.2 || decide (f.code = 0)))
    else a) (s, [], false)

/-- Range-table entries that the block's collectives and conversions take at its member (R143, R154). -/
def State.rangeNeed (s : State) (cls : List (Nat × List DWord)) : Nat :=
  let c := s.cur.cluster
  let k := s.cur.ctx
  let pls := ((enqsOf s.me.effs).filterMap fun e =>
    if !(cls.any fun q => decide (q.1 = e.1)) then none else
    let i := e.2.a.bits 9 0
    let d := s.dtdAt c k i
    let flight := d.busy || match s.ctxAt c k with
      | some x => (x.conv? i).isSome
      | none => true
    if e.2.q = 7 ∧ !flight ∧ d.st ≠ e.2.c.bits 15 0 then some i else none).eraseDups
  2 * (cls.filterMap fun q => goodCl q.2).length + 2 * pls.length

/-- The commit waits for room in a queue (R53, R228), the completion file (R377) or launch queue 15 (R317). -/
def State.commitFull (s : State) : Bool :=
  let c := s.cur.cluster
  let k := s.cur.ctx
  let st := s.me
  let es := enqsOf st.effs
  let full := (List.range 8).any fun q =>
    let n := (es.filter fun e => decide (e.2.q = q)).length
    decide (n > 0) && decide (n + (s.queue c k q).length > 64)
  let cfgs := (cfgsOf st.effs).length
  let d := s.die (dieOf c)
  let waiting := (d.lqntf.get 0 15).toNat + 512 - (d.lqhead.get 0 15).toNat
  let objs := s.newObjects.length
  full || (decide (cfgs > 0) && decide (cfgs + (s.queue c k qCfg).length > 4)) ||
    (decide (objs > 0) && decide ((s.cluster c).cf.length + objs > 512)) ||
    (decide (launchesOf st.effs > 0) && decide (waiting % 512 + launchesOf st.effs > 256))

/-- The commit waits for the range table of its member (R143). -/
def State.rangesFull (s : State) (cls : List (Nat × List DWord)) : Bool :=
  let need := s.rangeNeed cls
  decide (need > 0) && !(s.rangeRoom s.cur.cluster s.cur.ctx need)

/-! ### The effects (R50, R133, R215) -/

/-- Enters a context RCB at the tail of queue 15 of a die (R317, R328). -/
def State.launch15 (s : State) (d pa : Nat) : State :=
  let x := s.die d
  let tail := x.lqntf.get 0 15
  let at_ := (x.lqbase.get 0 15).toNat / 2048 * 2048 + 8 * (tail.toNat % 256)
  (s.wr64 (hbm at_) (BitVec.ofNat 64 pa)).modDie d fun x => { x with lqntf := x.lqntf.set 15 (tail + 1) }

/-- Table 10.13, at commit. -/
def State.ctxCommand (s : State) (fn pa n : Nat) : State :=
  if fn = 0 then s.launch15 (dieOf s.cur.cluster) pa
  else match List.find? (fun (e : Nat × Ctx) => decide (e.2.rcb = pa)) s.ctxs with
    | none => s
    | some e => s.modCtx e.1 fun x => match fn with
      | 1 => { x with prio := Nat.min n x.parentPrio }
      | 2 => { x with susp := true }
      | 3 => { x with susp := false }
      | _ => { x with evicting := true }

/-- One more command names an object of the completion file (R377). -/
def cfAdd (l : List (Nat × Nat)) (key : Nat) : List (Nat × Nat) :=
  if l.any fun q => decide (q.1 = key) then l.map fun q => if q.1 = key then (q.1, q.2 + 1) else q else l ++ [(key, 1)]
/-- A command enters its queue; its object takes a completion-file entry (R377). -/
def State.enterCmd (s : State) (x : Cmd) : State :=
  let c := s.cur.cluster
  let k := s.cur.ctx
  let key := cfKey (s.cidAt c k) x.obj
  let s1 := s.setQueue c k x.q (s.queue c k x.q ++ [x])
  if x.obj = 0 then s1
  else s1.modCluster c fun y => { y with cf := cfAdd y.cf key }

/-- A command forks (R139): a collective or a demand enters its ranges; `read` that what the fork needs has been read. -/
def State.forkCmd (s : State) (x : Cmd) (read : Bool) : State :=
  let c := s.cur.cluster
  let k := s.cur.ctx
  if x.q = 2 then (match goodCl x.desc with
    | some (kind, d) => s.enterCl c k kind d
    | none => s)
  else if x.q = 7 ∧ read then s.forkConv c k (x.a.bits 9 0) (x.c.bits 15 0)
  else s

/-- The push of a return address (R215). -/
def State.pushStack (s : State) (ra : DWord) : State :=
  let r := s.me.view
  let (s1, r1) := if r.rstk.length < 16 then (s, r)
    else match s.access r.spillbase 8 .store with
      | (s1, .ok key) => (s1.wrAt (s.rootAt s.cur.cluster s.cur.ctx) r.spillbase key 8 (r.rstk.getLastD 0).toNat,
        { r with rstk := r.rstk.dropLast, spillbase := r.spillbase + 8, nspill := r.nspill + 1 })
      | (s1, .error _) => (s1, r)
  s1.modMe fun st => { st with view := { r1 with rstk := ra :: r1.rstk } }

/-- One buffered effect becomes visible. Those of other nodes' memory have been accepted there, and the old value of an AMO has come back (R118, R132). -/
def State.applyEff (cls : List (Nat × List DWord)) (s : State) (e : Nat × Eff) : State :=
  let c := s.cur.cluster
  let root := s.rootAt c s.cur.ctx
  match e.2 with
  | .store va key n v _ => (s.wrAt root va key n v.toNat).countHbm key true
  | .amo fn va key n d y cv rm ftz t =>
    let old := s.rd key n
    let s1 := if isFar key then s
      else (s.wrAt root va key n (amoNew fn n old y.toNat cv.toNat (RMode.ofCode rm.toNat) ftz)).countHbm key true
    s1.modMe fun st => { st with view := st.view.ws d (amoDelivered fn n old) t }
  | .load _ _ _ => s
  | .signal va key inc status => if isFar key then s else s.signal root va key inc status
  | .bara va key expected strict => (if isFar key then s
      else ((s.arm key expected strict).setProt key 24 (s.protAt root va)).countHbm key true).modMe fun st => { st with
      armed := (st.armed ++ [va.toNat]).drop (st.armed.length + 1 - 16) }
  | .enq x =>
    let read := List.find? (fun (q : Nat × List DWord) => decide (q.1 = e.1)) cls
    let y := match read with
      | some q => { x with desc := if x.q = 2 then q.2 else [] }
      | none => x
    (s.enterCmd y).forkCmd y read.isSome
  | .cfg x => s.enterCmd x
  | .ctx fn pa n => s.ctxCommand fn pa n
  | .hzpub _ _ => s
  | .trace _ => s
  | .push ra => s.pushStack ra
  | .evsel n v => s.modCluster c fun x => { x with evsel := x.evsel.set n v }
  | .evcnt n v => s.modCluster c fun x => { x with evcnt := x.evcnt.set n v }

/-! ### Trace rings (R342) -/

def log2Size (n : Nat) : Nat := n.log2
/-- The memory-ring entries of a block: its accesses in index order, then its TRACE entries. -/
def memEntries (cyc : Nat) (spill : DWord) (deep : Bool) (l : List (Nat × Eff)) : List (DWord × DWord) :=
  let e (va : DWord) (kind n idx : Nat) : DWord × DWord :=
    (ringWord0 cyc va, BitVec.ofNat 64 (kind * 2 ^ 60 + log2Size n * 2 ^ 56 + idx % 128 * 2 ^ 48))
  (l.filterMap fun q => match q.2 with
    | .load va kind n => some (e va kind n q.1)
    | .store va _ n _ rel => some (e va (if rel then 5 else 1) n q.1)
    | .amo _ va _ n _ _ _ _ _ _ => some (e va 2 n q.1)
    | .push _ => if deep then some (e spill 6 8 q.1) else none
    | _ => none) ++
  l.filterMap fun q => match q.2 with
    | .trace v => some (ringWord0 cyc v, BitVec.ofNat 64 (7 * 2 ^ 60 + v.toNat / 2 ^ 48))
    | _ => none

/-- The rings at a commit. -/
def Stream.traced (st : Stream) (r : Regs) (cyc : Nat) (es : List (DWord × DWord)) : Stream :=
  let ms := if r.memoryOn then es else []
  let br := r.branchOn && !st.tflag
  let w1 : DWord := BitVec.ofNat 64 ((if st.taken then 2 ^ 62 else 0) + st.next.toNat % 2 ^ 48)
  { st with
    memRing := ms.foldl ringAdd st.memRing, memPos := (st.memPos + ms.length) % 256,
    brRing := if br then ringAdd st.brRing (ringWord0 cyc st.pc, w1) else st.brRing, brPos := if br then (st.brPos + 1) % 256 else st.brPos }

/-- The stream after its commit: the view becomes its state, and it stands at the next block (R49, R233, R234). -/
def Stream.committed (st : Stream) : Stream :=
  let r := if st.isReti then st.view.leaveTrap else st.view
  { st with
    arch := r, view := r, effs := [], waiting := false, pc := if st.isExit then st.pc else st.next,
    phase := if st.isExit then .exiting else .ready, exitBlk := if st.isExit then st.pc else st.exitBlk }

/-- The effects of a block on other nodes' memory: index, address, key, bytes and what is asked (R118, R132, R334). A return address that overflows the
stack goes to the spill area, whose home `spill` gives (R215). -/
def farEffs (r : Regs) (spill : Option Nat) (l : List (Nat × Eff)) : List (Nat × DWord × Nat × Nat × FarReq) :=
  (l.filterMap fun e => match e.2 with
    | .store va key n v _ => some (e.1, va, key, n, FarReq.write (storeWords n v.toNat false))
    | .amo fn va key n _ y cv rm ftz _ =>
      some (e.1, va, key, n, FarReq.amo (Config.accessWords { fn := fn, n := n, y := y.toNat, cv := cv.toNat, rm := rm.toNat, ftz := ftz }))
    | .signal va key inc status => some (e.1, va, key, 8, FarReq.write (signalWords inc status))
    | .bara va key expected strict => some (e.1, va, key, 24, FarReq.write (armWords expected strict))
    | .push _ => spill.map fun key => (e.1, r.spillbase, key, 8, FarReq.write (dwordsOf 8 (r.rstk.getLastD 0).toNat))
    | _ => none).filter fun q => isFar q.2.2.1
/-- The home of the spill slot that a full return stack takes. -/
def State.spillHome (s : State) : Option Nat :=
  let r := s.me.view
  if r.rstk.length < 16 then none
  else match (s.access r.spillbase 8 .store).2 with
    | .ok key => some key
    | .error _ => none
/-- The first phase of a commit (R132): every home on another node is sent its writes and AMOs, and answers. Whether one has not answered yet, and the
refused one of the lowest index: a home that has accepted holds its write until the commit, which the model does not show as a flit of its own
(DEDUCED, log 113). -/
def State.farPhase (s : State) (c k : Nat) : State × Bool × Option CommitBad :=
  (farEffs s.me.view s.spillHome s.me.effs).foldl (fun (a : State × Bool × Option CommitBad) q =>
    match a.1.farAsk (farEff c k q.1) q.2.2.1 q.2.2.2.1 q.2.2.2.2 with
    | (s1, none) => (s1, true, a.2.2)
    | (s1, some .good) => (s1, a.2)
    | (s1, some (.bad code d)) => (s1, a.2.1, a.2.2.orElse fun _ => some ⟨q.1, code, d, q.2.1⟩)) (s, false, none)
/-- What the forks of the block have asked of other nodes is no longer held. -/
def State.forksDone (s : State) (c k : Nat) : State :=
  (enqsOf s.me.effs).foldl (fun s e => s.engDone c k (forkOwner e.1)) s

/-- The effects of a block that commits (R50, R75): its buffered effects in order, its batch, and the stream at its next block. -/
def commitEffects (s : State) (cls : List (Nat × List DWord)) (c k : Nat) : State :=
  let (pubs, ups) := s.pubBatch
  let cid := s.cidAt c k
  let st := s.me
  let es := memEntries (s.cyclesOf c) st.view.spillbase (decide (st.view.rstk.length ≥ 16)) st.effs
  let s1 := (st.effs.foldl (State.applyEff cls) s).muApply cid ups
  let s2 := (s1.muGo cid (4096 * c + 3072 + k) ups).modCtx cid fun x => { x with sources := pubs.foldl (fun m p => m.set p.1 p.2) x.sources }
  (s2.modMe fun st => (st.traced st.view (s.cyclesOf c) es).committed).modCluster c fun x =>
    if st.isYield then { x with turn := (k + 1) % 4 } else x

/-- What stops a commit: its traps, then its quota. Code 0 stands for a wait (R25). -/
def State.commitStop (s : State) : State × Option CommitBad := match s.commitCheck with
  | (s1, some b) => (s1, some b)
  | (s1, none) => (s1, s1.quotaBad)

/-- The commit waits: the block may be abandoned meanwhile (R51). -/
def State.commitWait (s : State) : Out := .next s.waitHere
/-- commit_block (R50): checks; waits for room, for the homes on other nodes (R132), and for the MU; then every effect at once. Its event is counted
before the counters it writes take their values (R198). -/
def execBlockCommit (s : State) : Out :=
  let c := s.cur.cluster
  let k := s.cur.ctx
  if s.me.phase ≠ .committing then .next s
  else match s.commitStop with
    | (s1, some b) => if b.code = 0 then s1.commitWait else .next (s1.takeTrap c k b.code b.detail b.addr b.idx)
    | (s1, none) =>
      if s1.commitFull then s1.commitWait
      else match s1.farPhase c k with
        | (s2, true, _) => s2.commitWait
        | (s2, false, some b) => .next (s2.takeTrap c k b.code b.detail b.addr b.idx)
        | (s2, false, none) => match s2.readForks with
          | (s3, _, true) => s3.commitWait
          | (s3, cls, false) =>
            let ups := s3.pubBatch.2
            let cid := s3.cidAt c k
            if s3.rangesFull cls then s3.commitWait
            else if !(s3.muRoom cid ups false) then (s3.muWait cid (4096 * c + 3072 + k) ups false).commitWait
            else .next ((commitEffects ((s3.forksDone c k).count c 2 k) cls c k).farDrop c k)

/-- A stream waits in its block or at its commit, so that its block may be abandoned (R51): a commit that has not yet asked other nodes for anything. -/
def State.mayAbandon (s : State) (c k : Nat) : Bool :=
  let st := s.stream c k
  st.waiting && (decide (st.phase = .inBlock) || (decide (st.phase = .committing) &&
    !(s.farReads.any fun q => decide (2 ^ 12 ≤ q.who) && decide (q.who < 2 ^ 20) && decide ((q.who - 2 ^ 12) / 128 = farStream c k))))
/-- An asynchronous trap is taken at a block boundary, or where the stream waits, whose block is abandoned (R51, R357; for a wait at commit DEDUCED,
log 123). -/
def execAsyncTrap (s : State) : Out :=
  let c := s.cur.cluster
  let k := s.cur.ctx
  let st := s.me
  let waits := s.mayAbandon c k
  if !(decide (st.phase = .ready) || waits) || st.arch.th then .next s
  else match st.asyncs with
    | [] => .next s
    | a :: rest =>
      let s1 := s.modMe fun st => { st with asyncs := rest }
      .next ((if waits then (s1.muForget (s.cidAt c k) (4096 * c + 3072 + k)).count c 3 k else s1).takeTrap c k a.code a.detail a.addr 0)

/-- An exiting stream is exited once its commands have issued and completed (R234). -/
def execStreamExited (s : State) : Out :=
  let st := s.me
  if st.phase = .exiting ∧ st.queues.vals.all List.isEmpty ∧ st.issued.isEmpty then .next (s.modMe fun st => { st with phase := .exited })
  else .next s

end Sys2Proof.Machine
end

