-- ==== Sys2Proof/Machine/Windows.lean ====
section
/-! DEFINITION. The register windows (Tables 5.9, 13.1, 14.1, 14.3, 14.5, 14.7 to 14.9, 20.3) and the service actions that their writes
start (R125, R316, R343 to R347, R391). -/
namespace Sys2Proof.Machine

/-! ### Fields -/

/-- Bits [hi:lo] of a register replaced by those of a value. -/
def mixField (old new : DWord) (hi lo : Nat) : DWord := setField old hi lo (new.bits hi lo)
def setBit (x : DWord) (i : Nat) (b : Bool) : DWord := if b then x ||| 1#64 <<< i else x &&& ~~~(1#64 <<< i)

/-- Port p of the module: its I/O die and local number. -/
def portIod (p : Nat) : Nat := p / 24
def State.portBit (s : State) (p : Nat) : Bool := (s.iod (portIod p)).irdy.getLsbD (p % 24)
def State.setPortBit (s : State) (p : Nat) (b : Bool) : State :=
  s.modIod (portIod p) fun x => { x with irdy := setBit x.irdy (p % 24) b }
/-- A port sends new flits: enabled, trained and ready. -/
def State.portReady (s : State) (p : Nat) : Bool :=
  decide (p < 48) && (s.port p).pctl.getLsbD 0 && !((s.port p).pctl.getLsbD 1) && s.portBit p
/-- A port carries flits: it is ready, or its replay buffer drains before it trains (R25, R343). -/
def State.portLive (s : State) (p : Nat) : Bool :=
  s.portReady p || (decide (p < 48) && (s.port p).pctl.getLsbD 0 && (s.port p).pctl.getLsbD 1 && !(s.port p).replay.isEmpty)

/-! ### Launch queues (R316, R317) -/

/-- A write of LQNTF: ignored for queue 15, and where the count would exceed 256. -/
def State.notify (s : State) (d q : Nat) (tail : BitVec 9) : State :=
  let n := (tail - (s.die d).lqhead.get 0 q).toNat
  if q = 15 ∨ n > 256 then s else s.modDie d fun x => { x with lqntf := x.lqntf.set q tail }

/-! ### Translation invalidation (R125) -/

/-- A cached leaf falls under the invalidation that XINV and XINVR name. Kind 3 is reserved and the spec gives it no effect: it removes nothing
(DESIGN CHOICE, log 100). -/
def Die.invalidates (x : Die) (t : Tlb) : Bool :=
  let kind := x.xinv.bits 62 61
  let n := psBytes (x.xinv.bits 60 59)
  let va := x.xinv.bits 47 16 * 2 ^ 16
  let low (v : Nat) : Nat := v % 2 ^ 48
  match kind with
  | 0 =>
    let a := va / n * n
    let b := low t.va
    decide (t.root = x.xinvr) && decide (a < b + psBytes t.ps) && decide (b < a + n)
  | 1 => decide (t.root = x.xinvr)
  | 2 => true
  | _ => false
/-- An effect that a block of the die has buffered was translated, or may have been, through a matching entry (its page taken as the largest). -/
def Die.mayHold (x : Die) (root : DWord) (e : Eff) : Bool :=
  let hit (va : DWord) : Bool := x.invalidates { root := root, va := va.toNat / 2 ^ 30 * 2 ^ 30, ps := 2, leaf := 0 }
  match e with
  | .store va _ _ _ _ => hit va
  | .amo _ va _ _ _ _ _ _ _ _ => hit va
  | .bara va _ _ _ => hit va
  | .signal va _ _ _ => hit va
  | _ => false
/-- An access of this module's own has been sent to another node and is not acknowledged: a READ, or the DATA flit of a store or AMO (R334). -/
def Port.owesFar (x : Port) : Bool :=
  let own (h : FlitHdr) (cmd : Option (Nat × Nat × Nat)) : Bool := cmd.isNone && (decide (h.type = 1) || decide (h.type = 2))
  (x.outq.any fun e => own e.1 e.2.2) || x.replay.any fun f => own f.hdr f.cmd
/-- No access of the die that was translated through a matching entry is still to be performed: none is buffered in a block, and none has been
sent to another node without its answer (R125). -/
def State.quiet (s : State) (d : Nat) : Bool :=
  s.clusters.all (fun e => decide (dieOf e.1 ≠ d) || e.2.streams.all fun q =>
    q.2.effs.all fun f => !((s.die d).mayHold (s.rootAt e.1 q.1) f.2)) && !(s.farReads.any fun r => r.answer.isNone) &&
    !(s.ports.any fun e => e.2.owesFar)
/-- Every cache of the die loses its matching entries. -/
def State.invalidate (s : State) (d : Nat) : State :=
  let x := s.die d
  let keep (l : List Tlb) : List Tlb := l.filter fun t => !(x.invalidates t)
  let sweep (c : Cluster) : Cluster := { c with seqTlb := keep c.seqTlb, agTlb := keep c.agTlb }
  { s with clusters := s.clusters.map fun e => if dieOf e.1 = d then (e.1, sweep e.2) else e }
/-- An invalidation step of one kind acts while go reads 1. -/
def xinvStep (kind : Nat) (s : State) : Out :=
  let d := dieOf s.cur.cluster
  let x := (s.die d).xinv
  if x.getLsbD 63 && decide (x.bits 62 61 = kind) then .next (s.invalidate d) else .next s
/-- XINV_PAGE (R125). -/
def execXinvPage (s : State) : Out := xinvStep 0 s
/-- XINV_ROOT (R125). -/
def execXinvRoot (s : State) : Out := xinvStep 1 s
/-- XINV_DIE (R125). -/
def execXinvDie (s : State) : Out := xinvStep 2 s
/-- XINV_DONE (R125): no cache of the die holds a matching entry, every access translated through one has been performed, and go reads 0. -/
def execXinvDone (s : State) : Out :=
  let d := dieOf s.cur.cluster
  if (s.die d).xinv.getLsbD 63 && s.quiet d then .next ((s.invalidate d).modDie d fun x => { x with xinv := setBit x.xinv 63 false }) else .next s

/-! ### Fencing and microcode (R343) -/

/-- Cluster c of die d is fenced. -/
def State.fenced (s : State) (c : Nat) : Bool := (s.die (dieOf c)).cfence.getLsbD (c % 48)
/-- A fenced cluster without regions gives up its ready bit. -/
def State.settleFence (s : State) (c : Nat) : State :=
  if s.fenced c && (s.cluster c).regions.isEmpty then s.modDie (dieOf c) fun x => { x with drdy := setBit x.drdy (c % 48) false } else s
/-- The contexts of a cluster begin their eviction (R328). -/
def State.evictFrom (s : State) (c : Nat) : State :=
  { s with ctxs := s.ctxs.map fun e => if e.2.places.any (fun p => decide (p.1 = c)) && e.2.ending.isNone then (e.1, { e.2 with evicting := true }) else e }
/-- Sets or clears a CFENCE bit. -/
def State.setFence (s : State) (d c : Nat) (b : Bool) : State :=
  let was := (s.die d).cfence.getLsbD c
  let s1 := s.modDie d fun x => { x with cfence := setBit x.cfence c b }
  if b && !was then (s1.evictFrom (48 * d + c)).settleFence (48 * d + c) else s1

/-- A write of CMCODE: with go, which reads 1 until it is done, it asks for a replacement (R343). -/
def State.microcodeWrite (s : State) (d : Nat) (v : DWord) : State :=
  if (s.die d).cmcode.getLsbD 0 then s else s.modDie d fun x => { x with cmcode := v &&& 0xFFFFFFFFFFFF03F1#64 }
/-- A replacement that CMCODE asks for is done: the image is verified and runs on the fenced cluster; go reads 0 again (log 6). A cluster field of
48 or more names no cluster. -/
def State.microcodeDone (s : State) (d : Nat) : State :=
  let v := (s.die d).cmcode
  let c := 48 * d + v.bits 9 4
  let s1 := s.modDie d fun x => { x with cmcode := setBit v 0 false }
  if v.bits 9 4 < 48 && s.fenced c then match Config.signedImage s.mem (hbm (v.bits 63 16 * 2 ^ 16)) with
    | some h => s1.modCluster c fun x => { x with microcode := some h }
    | none => s1
  else s1

/-- FWSTAGE with go: an image inside the firmware window is verified and staged; go reads 1 until the core switches (R343, R344). -/
def State.firmwareWrite (s : State) (v : DWord) : State :=
  let a := v.bits 63 16 * 2 ^ 16
  let b (o : Nat) : DWord := (s.iod 0).boundary.get (0 : DWord) o
  let inside := decide ((b 0x468).bits 63 16 * 2 ^ 16 ≤ a) && decide (a < (b 0x470).bits 63 16 * 2 ^ 16)
  let base : DWord := v &&& 0xFFFFFFFFFFFF0000#64
  if !(v.getLsbD 0) then s.modIod 0 fun x => { x with fwstage := mixField x.fwstage v 63 16 }
  else match (if inside then Config.signedImage s.mem (memKey 1 0 a) else none) with
    | some h => { s.modIod 0 (fun x => { x with fwstage := base ||| 1#64 }) with stagedFw := some h }
    | none => s.modIod 0 fun x => { x with fwstage := base }

/-! ### Keys (R345, R346) -/

def State.key (s : State) (i : Nat) : KeyEntry := s.keys.get {} i
/-- A handle names a valid entry of its generation (R345). -/
def State.handleEntry (s : State) (h : Nat) : Option KeyEntry :=
  let e := s.key (h % 4096)
  if e.valid ∧ h / 4096 % 256 = 0 ∧ e.gen.toNat = h / 2 ^ 20 % 4096 then some e else none
/-- The key of a handle that is enrolled for a root, of a type; no partition holds root 0, which the keys of the policy have (R345). -/
def State.enrolledKey (s : State) (h : Nat) (root : DWord) (typ : Nat) : Option KeyEntry :=
  (s.handleEntry h).bind fun e => if root ≠ 0 ∧ e.root = root ∧ e.typ = typ then some e else none

/-- The key store's answer to a request. -/
def State.keyStatus (s : State) (st : Nat) (handle : Option Nat) : State := s.modIod 0 fun x => { x with
  kimp := setBit x.kimp 0 false
  kimpst := BitVec.ofNat 64 (st * 2 ^ 56 + (handle.getD (x.kimpst.bits 31 0)) % 2 ^ 32) }
/-- Bytes from a to b of an import record are zero. -/
def State.zeroBytes (s : State) (k n : Nat) : Bool := (bytesAt s.mem k n).all fun b => decide (b = 0)
/-- The op of an import record. -/
def State.recordOp (s : State) (a : Nat) : Nat := s.rd (hbm a + 7) 1

/-- An import (R346): decapsulate, unwrap, and place the key in the lowest free entry. -/
def State.importKey (s : State) (a : Nat) : State :=
  let k := hbm a
  let typ := s.rd (k + 6) 1
  if typ > 1 ∨ s.rd k 6 ≠ 0 ∨ s.rd (k + 0x478) 8 ≠ 0 then s.keyStatus 4 none
  else match Config.keyUnwrap (Config.mlkemDecap (bytesAt s.mem (k + 0x10) 1088)) (bytesAt s.mem (k + 0x450) 40) with
    | none => s.keyStatus 2 none
    | some key => match (List.range 4096).find? fun i => !(s.key i).valid with
      | none => s.keyStatus 3 none
      | some i =>
        let g := (s.key i).gen + 1
        let e : KeyEntry := { valid := true, typ := typ, root := s.rd64 (k + 8), gen := g, key := key }
        { s with keys := s.keys.set i e }.keyStatus 0 (some (g.toNat * 2 ^ 20 + i))
/-- A remove (R346). -/
def State.removeKey (s : State) (a : Nat) : State :=
  let k := hbm a
  let h := s.rd (k + 0x450) 4
  if s.rd (k + 6) 1 > 1 ∨ s.rd k 6 ≠ 0 ∨ s.rd (k + 8) 8 ≠ 0 ∨ !(s.zeroBytes (k + 0x10) 1088) ∨ !(s.zeroBytes (k + 0x454) 36) ∨ s.rd (k + 0x478) 8 ≠ 0 then
    s.keyStatus 4 none
  else match s.handleEntry h with
    | none => s.keyStatus 5 none
    | some e => { s with keys := s.keys.set (h % 4096) { valid := false, gen := e.gen + 1 } }.keyStatus 0 none
/-- A write of KIMP: with go, which reads 1 until it is done, it asks for the request of the record at the address, and KIMPST reads busy (Table 14.11). -/
def State.keyWrite (s : State) (v : DWord) : State :=
  if (s.iod 0).kimp.getLsbD 0 then s
  else s.modIod 0 fun x => { x with
    kimp := v &&& 0xFFFFFFFFFFFFFFC1#64
    kimpst := if v.getLsbD 0 then mixField x.kimpst (1#64 <<< 56) 63 56 else x.kimpst }
/-- The key store performs the request that KIMP asks for; go reads 0 again (R346). -/
def State.keyDone (s : State) : State :=
  let a := (s.iod 0).kimp.bits 63 6 * 64
  if a + 1152 > 2 ^ 40 then s.keyStatus 4 none
  else match s.recordOp a with
    | 0 => s.importKey a
    | 1 => s.removeKey a
    | _ => s.keyStatus 4 none
/-- The request that KIMP asks for is a removal. -/
def State.asksRemove (s : State) : Bool := decide (s.recordOp ((s.iod 0).kimp.bits 63 6 * 64) = 1)

/-! ### Attestation (R347) -/

/-- n bytes of a number, low byte first. -/
def leBytes (n v : Nat) : List Byte := (List.range n).map fun i => BitVec.ofNat 8 (v / 256 ^ i)
/-- The report body (Table 14.13), 0xA68 bytes; the count takes this report in (DEDUCED, log 29). -/
def State.reportBody (s : State) : List Byte :=
  let fw := (s.firmware.getD Config.bootFirmwareDigest).toNat
  let staged := match s.stagedFw with
    | some h => h.toNat
    | none => 0
  let micro := (List.range 384).flatMap fun c => leBytes 32 ((s.cluster c).microcode.getD (Config.bootMicrocodeDigest c)).toNat
  ((List.range 4).flatMap fun i => leBytes 8 ((s.iod 0).attch.get (0 : DWord) i).toNat) ++
    leBytes 8 (Config.moduleId.toNat * 2 ^ 52 + (s.reports + 1).toNat) ++ leBytes 32 Config.policyDigest.toNat ++ leBytes 32 fw ++
    leBytes 32 staged ++ leBytes 32 (Config.sha3 micro).toNat ++ (List.ofFn Config.identityPub) ++ (List.ofFn Config.importPub)
/-- Writes bytes in order from a key. -/
def State.putBytes (s : State) (k : Nat) (l : List Byte) : State :=
  { s with mem := (l.foldl (fun (a : List Host.Cell × Nat) b => (writeByte a.1 a.2 b, a.2 + 1)) (s.mem, k)).1 }
/-- A write of ATTGO: with go, which reads 1 until it is done, it asks for a report (R347). -/
def State.attestWrite (s : State) (v : DWord) : State :=
  if (s.iod 0).attgo.getLsbD 0 then s else s.modIod 0 fun x => { x with attgo := v &&& 0xFFFFFFFFFFFFE001#64 }
/-- The signed report that ATTGO asks for is written and go reads 0. -/
def State.attest (s : State) : State :=
  let a := (s.iod 0).attgo.bits 63 13 * 8192
  let s1 := s.modIod 0 fun x => { x with attgo := setBit x.attgo 0 false }
  if a + 8192 > 2 ^ 40 then s1
  else
    let body := s.reportBody
    { s1.putBytes (hbm a) (body ++ List.ofFn (Config.mldsaSign (Config.sha3 body))) with reports := s.reports + 1 }

/-! ### Power and ports -/

/-- A cap written on either I/O die applies to the module (Table 14.9). -/
def State.setCap (s : State) (cap : BitVec 13) : State :=
  (s.modIod 0 fun x => { x with mcap := cap }).modIod 1 fun x => { x with mcap := cap }
/-- PCTL.train: the port leaves service until it is ready again; slots, counters and replay buffer stay (R343, R402). -/
def State.retrain (s : State) (p : Nat) : State :=
  (s.modPort p fun x => { x with pctl := x.pctl ||| 2#2, fails := 0 }).setPortBit p false
/-- PCTL.en. -/
def State.enablePort (s : State) (p : Nat) (b : Bool) : State :=
  s.modPort p fun x => { x with pctl := if b then x.pctl ||| 1#2 else x.pctl &&& 2#2 }

/-! ### Fault records (R391, R394, R379) -/

def FaultRec.kind (r : FaultRec) : Nat := (r.words.headD 0).bits 63 56
/-- A stalled stream or operation goes on from where it stopped. -/
def State.resume (s : State) (r : FaultRec) : State :=
  let l := r.locus
  let mine (o : Option Nat) : Bool := decide (o = some r.seq)
  let run (x : Run) : Run := if mine x.stalled then { x with stalled := none, retried := true, ranged := decide (r.code = 5) } else x
  let wave (x : WaveAcc) : WaveAcc := if mine x.stalled then { x with stalled := none, ranged := decide (r.code = 5) } else x
  let bar (q : Nat × Nat) : Option (Nat × Nat) := if q.2 = r.seq + 1 then (if r.code = 5 then some (q.1, 0) else none) else some q
  let cmd (x : Cmd) : Cmd := if mine x.stalled then { x with stalled := none } else x
  let op (x : CollOp) : CollOp := if convSel x.dtd = l.sel ∧ mine x.stalled then { x with stalled := none } else x
  if r.kind = 1 then s.modElem l.cluster l.site l.ctx fun e => { e with
    runs := e.runs.map run, waves := e.waves.map wave, stallSlot := e.stallSlot.filterMap bar }
  else if r.kind = 2 then
    (s.modStream l.cluster l.ctx fun st => { st with
      issued := st.issued.map cmd, queues := st.queues.map fun q => (q.1, q.2.map cmd) }).modCtx r.cid fun x =>
        { x with colls := x.colls.map op }
  else s
/-- An engine operation whose access still meets an entry of another operation waits for its removal (R391). -/
def State.retryWaits (s : State) (r : FaultRec) : Bool :=
  let l := r.locus
  let owner := match s.issuedCmd? l.cluster l.ctx l.sel with
    | some x => (match (decodeCl x.desc).bind clOf with
        | some (_, d) => clOwner l.cluster l.ctx d.id.toNat
        | none => 0)
    | none => match (s.ctx? r.cid).bind fun x => x.colls.find? fun o => decide (convSel o.dtd = l.sel) with
      | some o => convOwner (l.cluster, l.ctx) o.id
      | none => 0
  decide (r.kind = 2) && decide (r.code = 5) && (match s.ctx? r.cid with
    | some x => x.enteredBut owner r.va.toNat (64 - r.va.toNat % 64)
    | none => false)
def State.dropRec (s : State) (d seq : Nat) : State := s.modDie d fun x => { x with
  records := x.records.filter fun r => decide (r.seq % 2 ^ 32 ≠ seq), fqres := setBit x.fqres 63 false }
def State.recAt (s : State) (d seq : Nat) : Option FaultRec := (s.die d).records.find? fun r => decide (r.seq % 2 ^ 32 = seq)

/-- Service of a record (R391): act 0 retry, 1 end; of one that is not outstanding it is ignored. A kind 4 record is freed whatever the action (R379), a kind 3 record by a retry
(R394). -/
def State.service (s : State) (d seq act : Nat) : State :=
  let s0 := s.modDie d fun x => { x with fqres := BitVec.ofNat 64 (act % 4 * 2 ^ 32 + seq % 2 ^ 32) }
  match s.recAt d seq with
  | none => s
  | some r =>
    if r.kind = 4 then s0.dropRec d seq
    else if act = 0 then
      (if s.retryWaits r then s0.modDie d fun x => { x with fqres := setBit x.fqres 63 true } else (s0.resume r).dropRec d seq)
    else if act = 1 then
      (s0.dropRec d seq).faultEnd r.cid r.code r.detail (s.stream r.locus.cluster r.locus.ctx).pc r.va 0
    else s0
/-! ### Reading and writing windows (R332, R7) -/

/-- A write of the writable fields of a die register. -/
def State.dieWrite (s : State) (d off : Nat) (v : DWord) : State :=
  if 0x100 ≤ off ∧ off < 0x180 then s.modDie d fun x => { x with devsel := x.devsel.set ((off - 0x100) / 8) (eventCode (v.truncate 16)) }
  else if 0x180 ≤ off ∧ off < 0x200 then s.modDie d fun x => { x with devcnt := x.devcnt.set ((off - 0x180) / 8) (v.truncate 48) }
  else if 0x1000 ≤ off ∧ off < 0x1200 then
    let q := (off - 0x1000) / 32
    match off % 32 with
    | 0 => s.modDie d fun x => { x with lqbase := x.lqbase.set q (v &&& 0xFFFFFFFFFFFFF801#64) }
    | 8 => s.notify d q (v.truncate 9)
    | _ => s
  else match off with
    | 0x400 => s.modDie d fun x => { x with xinvr := v }
    | 0x408 => if (s.die d).xinv.getLsbD 63 then s else s.modDie d fun x => { x with xinv := v &&& 0xF800FFFFFFFF0000#64 }
    | 0x800 => (List.range 48).foldl (fun s c => s.setFence d c (v.getLsbD c)) s
    | 0x808 => s.microcodeWrite d v
    | 0xC00 => s.modDie d fun x => { x with fqbase := v &&& 0xFFFFFFFFFFFFF000#64 }
    | 0xC10 => s.modDie d fun x => { x with fqhead := v.truncate 7 }
    | 0xC18 => s.modDie d fun x => { x with fqntf := v &&& 0x0FFFFFFFFFFFFFFF#64 }
    | 0xC20 => if v.getLsbD 63 then s.service d (v.bits 31 0) (v.bits 33 32)
      else s.modDie d fun x => { x with fqres := mixField x.fqres v 33 0 }
    | _ => s

/-- A write of the writable fields of an I/O die register; boundary registers keep what boot ROM wrote (R344). -/
def State.iodWrite (s : State) (i off : Nat) (v : DWord) : State :=
  if 0x2000 ≤ off ∧ off < 0x2600 then
    let p := 24 * i + (off - 0x2000) / 64
    match off % 64 with
    | 0 =>
      let s1 := s.enablePort p (v.getLsbD 0)
      if v.getLsbD 1 then s1.retrain p else s1
    | 8 => s.modPort p fun x => { x with plim := v }
    | _ => s
  else if off = 0x108 then s.setCap (v.truncate 13)
  else if i ≠ 0 then s
  else match off with
    | 0x3000 => s.firmwareWrite v
    | 0x3100 | 0x3108 | 0x3110 | 0x3118 => s.modIod 0 fun x => { x with attch := x.attch.set ((off - 0x3100) / 8) v }
    | 0x3120 => s.attestWrite v
    | 0x3200 => s.keyWrite v
    | _ => s

/-- A write of an aligned doubleword of a window; windows above 9 and other offsets hold nothing. -/
def State.windowWrite (s : State) (w off : Nat) (v : DWord) : State :=
  if off % 8 ≠ 0 then s else if w < 8 then s.dieWrite w off v else if w < 10 then s.iodWrite (w - 8) off v else s

/-- The four doublewords of link status (Table 12.12). -/
def State.linkStat (s : State) (p : Nat) : List DWord :=
  let x := s.port p
  let cur := if x.txOnB then x.txB else x.txA
  let b (c : Bool) (n : Nat) : Nat := if c then 2 ^ n else 0
  [cur.ctr, x.plim, BitVec.ofNat 64 (b x.rxOnB 3 + b x.txOnB 2 + b x.txB.loaded 1 + b x.txA.loaded 0), BitVec.ofNat 64 (x.naks.toNat * 2 ^ 32)]

def State.dieRead (s : State) (d off : Nat) : DWord :=
  let x := s.die d
  if 0x100 ≤ off ∧ off < 0x180 then BitVec.zeroExtend 64 (x.devsel.get (0 : BitVec 16) ((off - 0x100) / 8))
  else if 0x180 ≤ off ∧ off < 0x200 then BitVec.zeroExtend 64 (x.devcnt.get (0 : BitVec 48) ((off - 0x180) / 8))
  else if 0x1000 ≤ off ∧ off < 0x1200 then
    let q := (off - 0x1000) / 32
    match off % 32 with
    | 0 => x.lqbase.get (0 : DWord) q
    | 8 => BitVec.zeroExtend 64 (x.lqntf.get (0 : BitVec 9) q)
    | 16 => BitVec.zeroExtend 64 (x.lqhead.get (0 : BitVec 9) q)
    | _ => 0
  else match off with
    | 0 => x.drdy
    | 0x400 => x.xinvr
    | 0x408 => x.xinv
    | 0x800 => x.cfence
    | 0x808 => x.cmcode
    | 0xC00 => x.fqbase
    | 0xC08 => x.fqtail.zeroExtend 64
    | 0xC10 => x.fqhead.zeroExtend 64
    | 0xC18 => x.fqntf
    | 0xC20 => x.fqres
    | _ => 0
def State.iodRead (s : State) (i off : Nat) : DWord :=
  let x := s.iod i
  if 0x2000 ≤ off ∧ off < 0x2600 then
    let p := 24 * i + (off - 0x2000) / 64
    match off % 64 with
    | 0 => (s.port p).pctl.zeroExtend 64
    | 8 => (s.port p).plim
    | 16 | 24 | 32 | 40 => (s.linkStat p).getD ((off % 64 - 16) / 8) 0
    | _ => 0
  else if off = 0 then x.irdy
  else if off = 0x100 then s.temp.zeroExtend 64 <<< 32 ||| s.power.zeroExtend 64
  else if off = 0x108 then x.mcap.zeroExtend 64
  else if i ≠ 0 then 0
  else if 0x200 ≤ off ∧ off < 0x480 then x.boundary.get (0 : DWord) off
  else match off with
    | 0x3000 => x.fwstage
    | 0x3100 | 0x3108 | 0x3110 | 0x3118 => x.attch.get (0 : DWord) ((off - 0x3100) / 8)
    | 0x3120 => x.attgo
    | 0x3200 => x.kimp
    | 0x3208 => x.kimpst
    | _ => 0
/-- A read of an aligned doubleword of a window. -/
def State.windowRead (s : State) (w off : Nat) : DWord :=
  if off % 8 ≠ 0 then 0 else if w < 8 then s.dieRead w off else if w < 10 then s.iodRead (w - 8) off else 0

/-! ### The steps of Table 14.7 and of chapter 14 -/

/-- LAUNCH_NOTIFY (R316). -/
def execLaunchNotify (q : BitVec 4) (tail : BitVec 9) (s : State) : Out := .next (s.notify (dieOf s.cur.cluster) q.toNat tail)
/-- FENCE_CLUSTER (R343). -/
def execFenceCluster (c : BitVec 6) (s : State) : Out :=
  if c.toNat < 48 then .next (s.setFence (dieOf s.cur.cluster) c.toNat true) else .next s
/-- UNFENCE_CLUSTER (R343). -/
def execUnfenceCluster (c : BitVec 6) (s : State) : Out :=
  if c.toNat < 48 then .next (s.setFence (dieOf s.cur.cluster) c.toNat false) else .next s
/-- REPLACE_CLUSTER_MICROCODE (R343): the replacement that CMCODE asks for is done; where it asks for none, the register is written. -/
def execReplaceClusterMicrocode (v : DWord) (s : State) : Out :=
  let d := dieOf s.cur.cluster
  .next (if (s.die d).cmcode.getLsbD 0 then s.microcodeDone d else s.microcodeWrite d v)
/-- UPDATE_FIRMWARE (R343). -/
def execUpdateFirmware (v : DWord) (s : State) : Out := .next (s.firmwareWrite v)
/-- FIRMWARE_SWITCH (R343): the verified image runs and go clears. -/
def execFirmwareSwitch (s : State) : Out := match s.stagedFw with
  | none => .next s
  | some h => .next { s.modIod 0 (fun x => { x with fwstage := setBit x.fwstage 0 false }) with firmware := some h, stagedFw := none }
/-- RETRAIN_PORT (R343). -/
def execRetrainPort (port : BitVec 6) (s : State) : Out := if port.toNat < 48 then .next (s.retrain port.toNat) else .next s
/-- PORT_ENABLE (Table 14.3). -/
def execPortEnable (port : BitVec 6) (en : Bool) (s : State) : Out :=
  if port.toNat < 48 then .next (s.enablePort port.toNat en) else .next s
/-- KEY_IMPORT (R346): the request that KIMP asks for is performed, where it is no removal; where KIMP asks for none, the record is written to it
with go. -/
def execKeyImport (rec : DWord) (s : State) : Out :=
  .next (if (s.iod 0).kimp.getLsbD 0 then (if s.asksRemove then s else s.keyDone) else s.keyWrite (rec ||| 1#64))
/-- KEY_REMOVE (R346): as KEY_IMPORT, for a removal. -/
def execKeyRemove (rec : DWord) (s : State) : Out :=
  .next (if (s.iod 0).kimp.getLsbD 0 then (if s.asksRemove then s.keyDone else s) else s.keyWrite (rec ||| 1#64))
/-- ATTESTATION_REPORT (R347): the report that ATTGO asks for is written; where it asks for none, the register is written. -/
def execAttestationReport (v : DWord) (s : State) : Out :=
  .next (if (s.iod 0).attgo.getLsbD 0 then s.attest else s.attestWrite v)
/-- POWER_CAP (Table 14.9). -/
def execPowerCap (cap : BitVec 13) (s : State) : Out := .next (s.setCap cap)


/-- What reset leaves with the ports, keys and policy (R337, R340, R345): link keys of the signed policy in the key store under root 0. -/
def policyKeys : Map KeyEntry := (List.range 4096).filterMap fun i => (Config.policyKey i).map fun k => (i, { valid := true, key := k })
/-- The first key of a direction of a port: that of the handle which the policy names, with its salt and counter 0, in slot A (R337, log 102). -/
def firstSlot (p : Nat) (rx : Bool) : KeySlot := match Config.firstHandle p rx with
  | some (h, salt) => match Config.policyKey (h.toNat % 4096) with
    | some k => if h.toNat / 4096 = 0 then { loaded := true, handle := h, salt := salt, key := k } else {}
    | none => {}
  | none => {}
def firstPorts : Map Port := (List.range 48).map fun p => (p, { txA := firstSlot p false, rxA := firstSlot p true })
/-- What boot ROM writes into a boundary register: the policy's value, its reserved bits 0 and BPWR at most 5,200 W (R6, R23, Table 14.8). -/
def bootValue (off : Nat) : DWord :=
  let v := Config.policyBoundary off
  if off = 0x460 then BitVec.ofNat 64 (Nat.min 5200 (v.bits 12 0)) else if off > 0x460 then v &&& 0xFFFFFFFFFFFF0000#64 else v
/-- COLD_RESET (R24, R340, R343 to R345, R418): every register takes its reset value, boot ROM writes the boundary registers from the
signed policy, BPWR at most 5,200 W (R23), firmware installs the first keys of every port (R337), and a new nonce is drawn. Memory keeps no value that the manual states; it stands as it was
(DESIGN CHOICE, log 30). -/
def execColdReset (s : State) : Out :=
  let iod : Iod := { boundary := (List.range 79).map fun i => (0x200 + 8 * i, bootValue (0x200 + 8 * i)) }
  .next { State.reset with
    mem := s.mem, marks := s.marks, prot := s.prot, keys := policyKeys, ports := firstPorts, resets := s.resets + 1, iods := [(0, iod), (1, {})],
    cur := s.cur, agenda := s.agenda, tick := s.tick }

/-- ACTIVATION_ALERT (R385): with fewer than 8 refreshes of the bank postponed the mitigation goes first and they stay owed; with 8 they are
issued first, and the mitigation behind them counts event 0x105. -/
def execActivationAlert (stack bank postponed : Nat) (s : State) : Out :=
  let d := stack / 2
  let key := stack * 65536 + bank
  if postponed < 8 then .next (s.modDie d fun x => { x with owed := Map.put 0 x.owed key postponed })
  else .next ((s.modDie d fun x => { x with owed := x.owed.del key }).countDie d 0x105)

/-- WALK (R119 to R121, R124): a walker of the die completes a walk for a cluster, setting a and d. -/
def execWalk (root va : DWord) (ag : Bool) (acc : Access) (s : State) : Out :=
  if canonical va then .next (s.walk s.cur.cluster ag root va acc).1 else .next s

end Sys2Proof.Machine
end

