-- ==== Sys2Proof/Machine/Link.lean ====
section
/-! DEFINITION. The link engine and the ports (R311, R333 to R339, R394, R401 to R404, R411 to R413). A flit is kept with its plaintext,
key, salt and counter; `Flit.bytes` is what it is on the wire, with AES-256-GCM as a function that is not evaluated (log 6). -/
namespace Sys2Proof.Machine

/-! ### The flit on the wire (R333, R337) -/

/-- The header word (Table 14.2); its reserved bits are zero. -/
def hdrWord (h : FlitHdr) : DWord := h.type ++ h.dst ++ h.src ++ h.index ++ h.xfer ++ h.nq ++ h.ord ++ 0#6
/-- The GCM IV: the salt, then the counter, most significant byte first (R337). -/
def Flit.iv (f : Flit) : BitVec 96 := f.salt ++ f.ctr
def Flit.header (f : Flit) : List Byte := leBytes 8 (hdrWord f.hdr).toNat
/-- The plaintext, 232 bytes; what the units used do not fill is zero. -/
def Flit.plain (f : Flit) : List Byte := (List.range 29).flatMap fun i => leBytes 8 (f.pay.getD i 0).toNat
/-- The 256 bytes of a flit: header, ciphertext and tag; the header is the additional data (R333). -/
def Flit.bytes (f : Flit) : List Byte :=
  f.header ++ (List.range 232).map (Config.gcmCipher f.key f.iv f.header f.plain) ++
    leBytes 16 (Config.gcmTag f.key f.iv f.header f.plain).toNat

/-! ### Slots of a port -/

/-- The slot by which a port sends, and by which it receives. -/
def Port.tx (x : Port) : KeySlot := if x.txOnB then x.txB else x.txA
def Port.rx (x : Port) : KeySlot := if x.rxOnB then x.rxB else x.rxA
def Port.otherTx (x : Port) : KeySlot := if x.txOnB then x.txA else x.txB
def Port.setTx (x : Port) (k : KeySlot) : Port := if x.txOnB then { x with txB := k } else { x with txA := k }
def Port.setRx (x : Port) (k : KeySlot) : Port := if x.rxOnB then { x with rxB := k } else { x with rxA := k }
/-- The transmit slot stands at limit − 1 or at the limit (R404, R412). -/
def Port.txEnds (x : Port) : Bool := decide (x.tx.ctr.toNat + 1 ≥ x.plim.toNat)
/-- The slot into which a KEYLD goes (Table 12.11): direction receive or transmit, slot B or A. -/
def Port.setSlot (x : Port) (rx b : Bool) (k : KeySlot) : Port := match rx, b with
  | false, false => { x with txA := k }
  | false, true => { x with txB := k }
  | true, false => { x with rxA := k }
  | true, true => { x with rxB := k }
/-- That slot is the one its direction uses. -/
def Port.inUse (x : Port) (rx b : Bool) : Bool := if rx then decide (x.rxOnB = b) else decide (x.txOnB = b)

/-! ### Link commands (R311, R411, R412) -/

/-- The SEND in progress on a port: one that holds the port, is not complete, and whose transmit slot does not end (R412). -/
def State.sendBusy (s : State) (p : Nat) : Option (Nat × Nat × Nat) :=
  if (s.port p).txEnds then none
  else (s.port p).sending.filter fun w => match s.issuedCmd? w.1 w.2.1 w.2.2 with
    | some y => !y.done
    | none => false
/-- The SEND that has the port (R311). -/
def State.sendHolder (s : State) (p : Nat) : Option (Nat × Nat × Nat) :=
  (s.port p).sending.filter fun w => match s.issuedCmd? w.1 w.2.1 w.2.2 with
    | some y => !y.done
    | none => false
/-- An earlier KEYSW or KEYLD of the stream on the port is not complete. -/
def State.earlierKey (s : State) (c k id port : Nat) : Bool := (s.stream c k).issued.any fun y =>
  decide (y.q = 3) && !y.done && decide (y.id < id) && (match cmdLk y with
    | some (op, d) => decide (d.port.toNat = port) && (decide (op = 1) || decide (op = 2))
    | none => false)

/-- The command on which the LK engine acts: the one that `cur.sel` names, while its context runs and its port is ready. -/
def State.linkCmd (s : State) (port : Nat) : Option Cmd :=
  (s.issuedCmd? s.cur.cluster s.cur.ctx s.cur.sel).filter fun x =>
    decide (x.q = 3) && !x.done && x.stalled.isNone && s.running s.cur.cluster s.cur.ctx && s.portReady port
/-- An earlier SEND of the stream on the port is not complete. -/
def State.earlierSend (s : State) (c k id port : Nat) : Bool := (s.stream c k).issued.any fun y =>
  decide (y.q = 3) && !y.done && decide (y.id < id) && (match cmdLk y with
    | some (op, d) => decide (d.port.toNat = port) && decide (op = 0)
    | none => false)
/-- The key slots are judged when the port is free of a SEND and the earlier key commands and SENDs of the queue are complete; SENDs whose
transmit slot ends let a key command pass (R311, R412). -/
def State.keyTurn (s : State) (x : Cmd) (port : Nat) : Bool :=
  (s.sendBusy port).isNone && !(s.earlierKey s.cur.cluster s.cur.ctx x.id port) &&
    ((s.port port).txEnds || !(s.earlierSend s.cur.cluster s.cur.ctx x.id port))

/-- Doublewords of a list of bytes, the last one filled with zeros. -/
def payOf (bs : List PByte) : List DWord :=
  (List.range ((bs.length + 7) / 8)).map fun i => BitVec.ofNat 64 (natOfBytes ((bs.drop (8 * i)).take 8))

/-- SEND (R311): its next flit waits at the port, the OPEN first. Flit i carries the 232 bytes at src + 232·i. -/
def execSend (d : LkDesc) (s : State) : Out :=
  let c := s.cur.cluster
  let k := s.cur.ctx
  let p := d.port.toNat
  match s.linkCmd p with
  | none => .next s
  | some x =>
    let me := (c, k, x.id)
    let holder := s.sendHolder p
    let n := d.nflit.toNat + 1
    let waits := (s.port p).outq.any fun e => e.2.2.isSome
    if (s.port p).txEnds || waits || s.earlierKey c k x.id p || s.earlierSend c k x.id p || decide (x.pos > n) || !(holder.isNone || decide (holder = some me)) then .next s
    else
      let s1 := s.modPort p fun y => { y with sending := some me }
      let xfer := BitVec.ofNat 16 x.id
      let step (s : State) (st : Nat) : State := s.modIssued c k x.id fun y => { y with pos := y.pos + 1, status := Nat.max y.status st }
      if x.pos = 0 then
        let mode : DWord := if d.node.toNat < 2048 then 1 else 0
        let pt := match s.ctxAt c k with
          | some y => y.ptab
          | none => 0
        .next (step (s1.sendLater p 0 d.node.toNat 0 xfer [d.dst, mode, pt, d.nflit.zeroExtend 64] (some me)) 0)
      else
        let i := x.pos - 1
        match s1.engBytes c k (engOwner x.id) (d.src + BitVec.ofNat 64 (232 * i)) 232 with
        | (s2, .error e) => .next (s2.cmdStall c k x ⟨e.code, e.detail, e.va, e.acc, 232 * i + e.off⟩)
        | (s2, .ok bs) =>
          .next (step ((s2.engDone c k (engOwner x.id)).sendLater p 1 d.node.toNat i xfer (payOf bs) (some me)) (if anyBad bs then stPoisoned else 0))

/-- KEYLD (R311, R337, R404): the key enters its slot with its salt and counter 0. -/
def execKeyld (d : LkDesc) (s : State) : Out :=
  let c := s.cur.cluster
  let k := s.cur.ctx
  let p := d.port.toNat
  match s.linkCmd p with
  | none => .next s
  | some x =>
    let rx := decide (d.dir = 1)
    let b := decide (d.kslot = 1)
    if !(s.keyTurn x p) then .next s
    else match s.enrolledKey d.handle.toNat (s.rootAt c k) 0 with
      | none => .next (s.refuse c k x 3)
      | some e =>
        if (s.port p).inUse rx b then .next (s.refuse c k x 3)
        else
          let slot : KeySlot := { loaded := true, handle := d.handle, salt := d.salt, ctr := 0, key := e.key }
          .next ((s.modPort p fun y => y.setSlot rx b slot).cmdDone c k x.id 1 stOk)

/-- KEYSW (R311, R337, R404): its MARK waits at the port, ahead of what the old slot may no longer send. -/
def execKeysw (d : LkDesc) (s : State) : Out :=
  let c := s.cur.cluster
  let k := s.cur.ctx
  let p := d.port.toNat
  match s.linkCmd p with
  | none => .next s
  | some x =>
    let o := (s.port p).otherTx
    let marking := (s.port p).outq.any fun e => decide (e.1.type = 4)
    if x.pos ≠ 0 ∨ !(s.keyTurn x p) ∨ marking then .next s
    else if !o.loaded ∨ o.ctr.toNat + 1 ≥ (s.port p).plim.toNat then .next (s.refuse c k x 3)
    else
      .next ((s.sendLater p 4 (Config.portNode p).toNat 0 0 [0] (some (c, k, x.id))).modIssued c k x.id fun y => { y with pos := 1 })

/-- STAT (R311): the 32 bytes of Table 12.12. -/
def execStat (d : LkDesc) (s : State) : Out :=
  let c := s.cur.cluster
  let k := s.cur.ctx
  let p := d.port.toNat
  match s.linkCmd p with
  | none => .next s
  | some x =>
    let bs := (s.linkStat p).flatMap fun w => pbytes 8 w.toNat false
    let owner := engOwner x.id
    match s.engReady c k owner d.src bs with
    | (s1, some e) => .next (s1.cmdStall c k x e)
    | (s1, none) => .next (((s1.engPut c k owner d.src bs).engDone c k owner).cmdDone c k x.id 1 stOk)

/-! ### Sending (R336, R337, R344, R401) -/

/-- The injection ceiling of a port (Table 14.8), flits in any 1,024 port cycles. -/
def State.ceiling (s : State) (p : Nat) : Nat := DWord.bits ((s.iod 0).boundary.get (0 : DWord) (0x400 + 8 * (p / 4))) (16 * (p % 4) + 15) (16 * (p % 4))
/-- The flits that have left in the last 1,024 cycles. -/
def State.recentOf (s : State) (p : Nat) : List Nat := (s.port p).injected.filter fun t => decide (s.portCycles p < t + 1024)
/-- A waiting flit may be sent now (R336, R337, R344, R404). -/
def State.sendable (s : State) (p : Nat) (h : FlitHdr) : Bool :=
  let x := s.port p
  let free := decide (h.type = 6) || decide (h.type = 7)
  let c := x.tx.ctr.toNat
  x.tx.loaded && decide (c < x.plim.toNat) && (decide (c + 1 < x.plim.toNat) || decide (h.type = 4)) &&
    (free || decide (x.replay.length < 64)) && s.enrolled h.dst.toNat
/-- The first waiting flit that may be sent, and the others. -/
def State.pickFlit (s : State) (p : Nat) : List (FlitHdr × List DWord × Option (Nat × Nat × Nat)) →
    Option ((FlitHdr × List DWord × Option (Nat × Nat × Nat)) × List (FlitHdr × List DWord × Option (Nat × Nat × Nat)))
  | [] => none
  | e :: r => if s.sendable p e.1 then some (e, r) else (s.pickFlit p r).map fun q => (q.1, e :: q.2)

/-- FLIT_TRANSMIT (R336, R337, R401): a flit to be sent again goes first, with its counter; else the next flit, under the current slot, whose
counter advances. A MARK moves the port to its other slot. -/
def execFlitTransmit (port : BitVec 6) (s : State) : Out :=
  let p := port.toNat
  let x := s.port p
  let recent := s.recentOf p
  if !(s.portLive p) ∨ recent.length ≥ s.ceiling p then .next s
  else if x.resend > 0 then match x.replay[x.replay.length - x.resend]? with
    | none => .next (s.modPort p fun x => { x with resend := 0 })
    | some f => .next (s.modPort p fun x => { x with wire := x.wire ++ [f], resend := x.resend - 1, injected := recent ++ [s.portCycles p] })
  else if !(s.portReady p) then .next s
  else match s.pickFlit p x.outq with
    | none => .next s
    | some ((h, pay, cmd), rest) =>
      let f : Flit := { hdr := h, pay := pay, slotB := x.txOnB, ctr := x.tx.ctr, key := x.tx.key, salt := x.tx.salt, cmd := cmd }
      let keep := !(decide (h.type = 6) || decide (h.type = 7))
      let slot := { x.tx with ctr := x.tx.ctr + 1 }
      .next (s.modPort p fun x =>
        let y := x.setTx slot
        { y with
          outq := rest, wire := y.wire ++ [f], replay := if keep then y.replay ++ [f] else y.replay,
          due := if keep && x.replay.isEmpty then s.portCycles p + 4096 else y.due,
          txOnB := if h.type = 4 then !y.txOnB else y.txOnB, injected := recent ++ [s.portCycles p] })

/-! ### Acceptance (R336, R337, R401, R404) -/

/-- A flit that authenticates is accepted: its port carries flits (R25), its slot is loaded and below the limit, and its source is enrolled. -/
def State.accepts (s : State) (p : Nat) (src : Nat) : Bool :=
  let x := s.port p
  s.portLive p && x.rx.loaded && decide (x.rx.ctr.toNat < x.plim.toNat) && s.enrolled src
/-- The counter advances; an accepted flit that is held in a replay buffer is acknowledged with its counter. -/
def State.accept (s : State) (p : Nat) : State :=
  s.modPort p fun x => { x.setRx { x.rx with ctr := x.rx.ctr + 1 } with fails := 0 }
def State.ackFlit (s : State) (p src : Nat) (ctr : DWord) : State := s.sendLater p 6 src 0 0 [ctr] none

/-! ### Inbound transfers (R334, R335, R394) -/

/-- A node address as a register window and offset, if it is one (R332). -/
def windowOf (a : Nat) : Option (Nat × Nat) :=
  if 2 ^ 48 ≤ a ∧ a < 2 ^ 48 + 10 * 2 ^ 16 then some ((a - 2 ^ 48) / 2 ^ 16, a % 2 ^ 16) else none
/-- Doublewords at a node address; false where the node has no such address. A write that names no page leaves a line's protection as it stands
(DESIGN CHOICE, log 115). -/
def State.nodeStore (s : State) (a : Nat) (pay : List DWord) : State × Bool :=
  (List.range pay.length).foldl (fun (q : State × Bool) i =>
    let at_ := a + 8 * i
    let v := pay.getD i 0
    if !q.2 then q
    else match windowOf at_ with
      | some (w, o) => if o % 8 = 0 then (q.1.windowWrite w o v, true) else (q.1, false)
      | none => if at_ + 8 ≤ 2 ^ 40 then ((q.1.atHome (hbm at_) 8 0 (.write v.toNat false)).1, true) else (q.1, false)) (s, true)
/-- An access of this node's memory by another node that is no plain store: none where it cannot be performed, else the old value, if one returns
(R118, R133, R334, R392; log 97). -/
def State.nodeOp (s : State) (a : Nat) (op : Config.FarOp) : State × Option (Option Nat) :=
  let key := hbm a
  let rmw (f : Nat → Nat) (poison back : Bool) : State × Option (Option Nat) :=
    let (s1, v, bad, _) := s.atHome key op.n 0 (.atomic f [] poison)
    (s1, if bad then none else some (if back then some v else none))
  if op.n = 0 ∨ a + op.n > 2 ^ 40 then (s, none)
  else if op.fn < 16 then rmw (fun old => amoNew op.fn op.n old op.y op.cv (RMode.ofCode op.rm) op.ftz) false true
  else if op.fn = 16 then ((s.signalled key op.y op.cv).countHbm key true, some none)
  else if op.fn = 17 then ((s.arm key (BitVec.ofNat 64 op.y) (decide (op.cv = 1))).countHbm key true, some none)
  else if op.fn = 18 then rmw (arrival op.y op.poison) false false
  else if op.fn = 19 then ((s.atHome key op.n 0 (.write op.y op.poison)).1, some none)
  else rmw (fun old => agAtom (op.fn / 16 - 2) (op.fn % 16) op.n old op.y op.cv) op.poison true
/-- The memory that an access of a node address needs is ready; a register window always is (R25). -/
def State.nodeReady (s : State) (a n : Nat) : Bool :=
  (windowOf a).isSome || decide (a + n > 2 ^ 40) || (s.homeReady (hbm a) && s.homeReady (hbm (a + n - 1)))
/-- The context whose placement table a transfer names (R146). -/
def State.ptabCtx (s : State) (ptab : DWord) : Option (Nat × Ctx) :=
  List.find? (fun (e : Nat × Ctx) => decide (e.2.ptab = ptab) && e.2.ending.isNone) s.ctxs
/-- Bytes stored through the tables of a context (mode 1): the first failing address, if one fails. -/
def State.virtualStore (s : State) (x : Ctx) (va : DWord) (bs : List PByte) : State × Option (Nat × Nat × DWord) :=
  let c := (x.places.headD (0, 0)).1
  let r := (chunks va.toNat bs.length).foldl (fun (a : State × List (Nat × Nat × Nat) × Option (Nat × Nat × DWord)) q => match a.2.2 with
    | some _ => a
    | none =>
      let at_ := va + BitVec.ofNat 64 q.1
      match a.1.translate c true x.root at_ .store with
      | (s1, .error (code, d)) => (s1, a.2.1, some (code, d, at_))
      | (s1, .ok key) => (s1, a.2.1 ++ [(key, q.1, q.2)], none)) (s, [], none)
  match r.2.2 with
  | some e => (r.1, some e)
  | none => (r.2.1.foldl (fun s q =>
      ((s.atHome q.1 q.2.2 0 (.write (natOfBytes ((bs.drop q.2.1).take q.2.2)) false)).1).setProt q.1 q.2.2
        (s.protAt x.root (va + BitVec.ofNat 64 q.2.1))) r.1, none)

def State.modXfer (s : State) (p : Nat) (t : Transfer) (f : Transfer → Transfer) : State :=
  s.modPort p fun x => { x with xfers := x.xfers.map fun y => if y.src = t.src ∧ y.xfer = t.xfer then f y else y }
/-- The answer to a transfer that failed (R394): flits performed and status FAULTED. -/
def State.failAnswer (s : State) (p : Nat) (t : Transfer) : State :=
  s.sendLater p 3 t.src.toNat 0 t.xfer [BitVec.ofNat 64 (stFaulted * 2 ^ 48 + t.got % 2 ^ 48)] none
/-- What a mode-0 transfer does with the doublewords of a flit: none while its memory is not ready (R25); else whether it was performed, and an old
value that returns. A transfer of one flit may ask for more than a plain store (log 97). -/
def State.performNode (s : State) (a n : Nat) (pay : List DWord) : Option (State × Bool × List DWord) :=
  match (if n = 1 then Config.accessOf pay else none) with
  | some op =>
    if !(s.nodeReady a op.n) then none
    else match s.nodeOp a op with
      | (s1, none) => some (s1, false, [])
      | (s1, some none) => some (s1, true, [])
      | (s1, some (some old)) => some (s1, true, dwordsOf op.n old)
  | none =>
    if !(s.nodeReady a (8 * pay.length)) then none
    else match s.nodeStore a pay with
      | (s1, ok) => some (s1, ok, [])
/-- The next flit of a transfer is performed; none where its memory is not ready (R25), and where its record finds no room (R390). A mode-0 flit
that cannot be performed is answered by an RDATA without doublewords (R392, log 97). The pos of the record is the byte offset of the access in the
transfer (DEDUCED, log 112). -/
def State.performFlit (s : State) (p : Nat) (t : Transfer) (pay : List DWord) : Option State :=
  let next (s : State) (bad : Bool) : State :=
    let s1 := s.modXfer p t fun y => { y with got := y.got + 1, failed := y.failed || bad, held := y.held.del t.got }
    s1.modPort p fun x => { x with xfers := x.xfers.filter fun y => decide (y.got < y.n) }
  if t.failed then some (next s false)
  else
    let va := t.addr + BitVec.ofNat 64 (232 * t.got)
    if t.mode = 0 then
      (s.performNode va.toNat t.n pay).map fun r =>
        next (if r.2.1 && r.2.2.isEmpty then r.1 else r.1.sendLater p 3 t.src.toNat 0 t.xfer r.2.2 none) !r.2.1
    else match (if t.mode = 1 then s.ptabCtx t.ptab else none) with
      | none => some (next (s.failAnswer p t) true)
      | some (cid, x) => match s.virtualStore x va (pay.flatMap fun w => pbytes 8 w.toNat false) with
        | (s1, none) => some (next s1 false)
        | (s1, some (code, d, at_)) =>
          if code = 0 then none
          else
          let info : FaultInfo :=
            { kind := 3, code := code, detail := d, acc := 1, cid := cid, va := at_, root := x.root, pos := (at_ - t.addr).toNat,
              cmd := BitVec.ofNat 64 (t.src.toNat * 2 ^ 48 + t.xfer.toNat) }
          match s1.postFault 0 info {} with
          | (s2, some _) => some (next (s2.failAnswer p t) true)
          | (_, none) => none

/-- The transfer of a source on a port that stands first (R335). -/
def State.firstXfer (s : State) (p : Nat) (src : BitVec 12) : Option Transfer := (s.port p).xfers.find? fun t => decide (t.src = src)
/-- A transfer holds back an ordered flit that came at `at_` on another port or in a later transfer: its next flit came earlier, or is still to come
though a later one of its flits came earlier, or it was opened before `open_` and its next flit is not an ordered one that came later. What was
sent earlier is told by what has come and by the OPENs alone (DEDUCED, log 101). -/
def Transfer.precedes (y : Transfer) (open_ at_ : Nat) : Bool := match y.held.find? y.got with
  | some f => decide (f.at_ < at_) || (decide (y.at_ < open_) && !f.ord)
  | none => decide (y.at_ < open_) || y.held.any fun f => decide (f.2.at_ < at_)
/-- A flit of a source that came earlier is not performed yet, on some port (R335). -/
def State.earlierThan (s : State) (src : BitVec 12) (open_ at_ : Nat) : Bool :=
  s.ports.any fun e => (e.2.xfers.any fun y => decide (y.src = src) && y.precedes open_ at_) ||
    e.2.reads.any fun y => decide (y.src = src) && decide (y.at_ < at_)
/-- The same for an ordered flit of a transfer on a port; the transfers of the source that were opened later there come after it. -/
def State.earlierXfer (s : State) (p : Nat) (t : Transfer) (at_ : Nat) : Bool :=
  (s.modPort p fun x => { x with xfers := x.xfers.filter fun y => !(decide (y.src = t.src) && decide (t.at_ ≤ y.at_)) }).earlierThan t.src t.at_ at_
/-- The bytes that a READ asks for: 1 to 232 bytes of local HBM, or one aligned doubleword of a window; none where it cannot be performed. -/
def State.nodeRead (s : State) (a n : Nat) : State × Option (List DWord) :=
  if n = 0 ∨ n > 232 then (s, none)
  else match windowOf a with
    | some (w, o) => (s, if o % 8 = 0 ∧ n = 8 then some [s.windowRead w o] else none)
    | none =>
      if a + n > 2 ^ 40 then (s, none)
      else
        let (s1, v, bad, _) := s.atHome (hbm a) n 0 .read
        (s1, if bad then none else some (payOf (pbytes n v false)))
/-- A READ is performed and answered with one RDATA; where it cannot be performed the answer carries no data (R392). -/
def State.answerRead (s : State) (p : Nat) (r : HeldRead) : State :=
  let (s1, d) := s.nodeRead r.addr.toNat r.len.toNat
  s1.sendLater p 3 r.src.toNat 0 r.rxfer (d.getD []) none
/-- Performs one flit of a source that is due: the next of the first transfer of a port, or a READ that was held; one with ord set only after
every earlier one. -/
def State.performNext (s : State) (src : BitVec 12) : Option State :=
  ((List.range 48).findSome? fun p => (s.firstXfer p src).bind fun t => (t.held.find? t.got).bind fun f =>
    if f.ord && s.earlierXfer p t f.at_ then none else s.performFlit p t f.pay).orElse fun _ =>
  (List.range 48).findSome? fun p => ((s.port p).reads.find? fun r =>
      decide (r.src = src) && !(r.ord && s.earlierThan src r.at_ r.at_) && s.nodeReady r.addr.toNat r.len.toNat).map fun r =>
    (s.modPort p fun x => { x with reads := x.reads.filter fun q => decide (q ≠ r) }).answerRead p r
/-- Performs every flit of a source that is due. -/
def State.drainXfers : Nat → BitVec 12 → State → State
  | 0, _, s => s
  | n + 1, src, s => match s.performNext src with
    | some s1 => State.drainXfers n src s1
    | none => s
/-- Flits held for a source. -/
def State.heldFlits (s : State) (src : BitVec 12) : Nat :=
  ((s.ports.flatMap fun e => e.2.xfers).map fun t => if t.src = src then t.held.length else 0).foldl (· + ·) 0 +
    (s.ports.flatMap fun e => e.2.reads.filter fun r => decide (r.src = src)).length
def State.settleXfers (s : State) (src : BitVec 12) : State := State.drainXfers (s.heldFlits src) src s
/-- The sources of flits that are held. -/
def State.heldSources (s : State) : List (BitVec 12) :=
  (s.ports.flatMap fun e => e.2.xfers.map Transfer.src ++ e.2.reads.map HeldRead.src).eraseDups
/-- Performs every flit that is due, as memory becomes ready or a fault record finds room. -/
def State.settleAll (s : State) : State := s.heldSources.foldl State.settleXfers s

/-- OPEN (R334): a transfer begins. -/
def execFlitOpen (port : BitVec 6) (h : FlitHdr) (addr mode ptab n : DWord) (s : State) : Out :=
  let p := port.toNat
  if !(s.accepts p h.src.toNat) then .next s
  else
    let ctr := (s.port p).rx.ctr
    let t : Transfer :=
      { src := h.src, xfer := h.xfer, addr := addr, mode := mode, ptab := ptab, n := n.toNat % 256 + 1, at_ := s.tick }
    let s1 := (s.accept p).modPort p fun x =>
      { x with xfers := (x.xfers.filter fun y => !(decide (y.src = h.src) && decide (y.xfer = h.xfer))) ++ [t] }
    .next ((s1.settleXfers h.src).ackFlit p h.src.toNat ctr)

/-- DATA (R334, R335): its doublewords are written when it is due; a DATA flit without an OPEN is accepted and performs nothing. -/
def execFlitData (port : BitVec 6) (h : FlitHdr) (pay : List DWord) (s : State) : Out :=
  let p := port.toNat
  if !(s.accepts p h.src.toNat) then .next s
  else
    let ctr := (s.port p).rx.ctr
    let words := pay.take (Nat.min 29 (h.nq.toNat + 1))
    let s1 := (s.accept p).modPort p fun x => { x with xfers := x.xfers.map fun y =>
      if y.src = h.src ∧ y.xfer = h.xfer then { y with held := y.held.set h.index.toNat { ord := decide (h.ord = 1), at_ := s.tick, pay := words } } else y }
    .next ((s1.settleXfers h.src).ackFlit p h.src.toNat ctr)

/-- READ (R334): answered with one RDATA, once its memory is ready (R25); with ord set, after every earlier flit of its source (R335). -/
def execFlitRead (port : BitVec 6) (h : FlitHdr) (addr len rxfer : DWord) (s : State) : Out :=
  let p := port.toNat
  if !(s.accepts p h.src.toNat) then .next s
  else
    let ctr := (s.port p).rx.ctr
    let r : HeldRead := { src := h.src, addr := addr, len := len, rxfer := rxfer.truncate 16, at_ := s.tick, ord := decide (h.ord = 1) }
    let s1 := (s.accept p).modPort p fun x => { x with reads := x.reads ++ [r] }
    .next ((s1.settleXfers h.src).ackFlit p h.src.toNat ctr)

/-- The SEND that a port carries, or has carried and has not yet signalled, under an xfer tag. -/
def State.sendOf (s : State) (p : Nat) (xfer : BitVec 16) : Option (Nat × Nat × Cmd) :=
  s.clusters.findSome? fun e => e.2.streams.findSome? fun q => (q.2.issued.find? fun x =>
    decide (x.q = 3) && decide (BitVec.ofNat 16 x.id = xfer) && (match cmdLk x with
      | some (op, d) => decide (op = 0) && decide (d.port.toNat = p)
      | none => false)).map fun x => (e.1, q.1, x)
/-- An access of this module's own takes its answer. -/
def State.answer1 (s : State) (r : FarRead) (a : FarAns) : State :=
  { s with farReads := s.farReads.map fun q => if q = r then { q with answer := some a } else q }
/-- What an RDATA says of an access that it refuses (R392, log 97). -/
def refusal (h : FlitHdr) : FarAns := if Config.refusedXlate h then .bad 3 4 else .bad 8 1
/-- The RDATA to an access of this module's own: its bytes are held where it reads them; no bytes, and any RDATA to a write, are a refusal (R334,
R392, log 97). -/
def State.answered (s : State) (r : FarRead) (h : FlitHdr) (pay : List DWord) : State :=
  if r.write ∨ pay.isEmpty then s.answer1 r (refusal h)
  else (s.wr r.key r.n (pay.foldr (fun w n => w.toNat + 2 ^ 64 * n) 0 % 2 ^ (8 * r.n))).answer1 r .good
/-- The access of this module's own that an xfer tag on a port names and that is not answered. -/
def State.farAsked (s : State) (p : Nat) (xfer : BitVec 16) : Option FarRead :=
  s.farReads.find? fun r => decide (r.port = p) && decide (r.xfer = xfer) && r.answer.isNone
/-- A SEND whose transfer failed ends with status FAULTED and the count of flits performed (R394): what its object has counted beyond that is taken back
(DEDUCED, log 116). -/
def State.sendFailed (s : State) (c k : Nat) (x : Cmd) (n : Nat) : State :=
  (if x.inc = n then s else s.signalVa c k x.obj ((n + 2 ^ 48 - x.inc) % 2 ^ 48) stOk).modIssued c k x.id fun y =>
    { y with status := stFaulted, inc := n }
/-- RDATA (R334, R394): for an access through aperture 3 or 4, what it reads; for a SEND, the flits performed and the status FAULTED. -/
def execFlitRdata (port : BitVec 6) (h : FlitHdr) (pay : List DWord) (s : State) : Out :=
  let p := port.toNat
  if !(s.accepts p h.src.toNat) then .next s
  else
    let ctr := (s.port p).rx.ctr
    let s1 := (s.accept p).ackFlit p h.src.toNat ctr
    let w := pay.headD 0
    .next (match s1.farAsked p h.xfer with
      | some r => s1.answered r h (pay.take (Nat.min 29 (h.nq.toNat + 1)))
      | none => match s1.sendOf p h.xfer with
      | some (c, k, x) => if w.bits 55 48 = stFaulted then s1.sendFailed c k x (w.bits 47 0) else s1
      | none => s1)

/-- MARK (R337): the receive direction uses its other slot from now on. -/
def execFlitMark (port : BitVec 6) (h : FlitHdr) (s : State) : Out :=
  let p := port.toNat
  if !(s.accepts p h.src.toNat) then .next s
  else
    let ctr := (s.port p).rx.ctr
    .next (((s.accept p).modPort p fun x => { x with rxOnB := !x.rxOnB }).ackFlit p h.src.toNat ctr)

/-! ### Answers (R336, R401) -/

/-- An acknowledged flit: a DATA flit counts for its SEND, whose last flit ends it; a MARK ends its KEYSW (R311). The DATA flit of a write through
aperture 3 or 4 has then been taken by its home (log 97). -/
def State.flitAcked (s : State) (p : Nat) (f : Flit) : State := match f.cmd with
  | none => match (if f.hdr.type = 1 then s.farAsked p f.hdr.xfer else none) with
    | some r => if r.write then s.answer1 r .good else s
    | none => s
  | some (c, k, id) => match s.issuedCmd? c k id with
    | none => s
    | some x =>
      if f.hdr.type = 4 then s.cmdDone c k id 1 stOk
      else if f.hdr.type ≠ 1 then s
      else
        let s1 := if x.status = stFaulted then s else (s.signalVa c k x.obj 1 stOk).modIssued c k id fun y => { y with inc := y.inc + 1 }
        let last := match cmdLk x with
          | some (_, d) => decide (f.hdr.index.toNat = d.nflit.toNat)
          | none => false
        if last then (s1.cmdDone c k id 0 x.status).modPort p fun y => { y with sending := none } else s1
/-- The flits of a replay buffer up to the one sent under a counter; none where it holds no such flit. -/
def ackedPart : List Flit → DWord → Option (List Flit × List Flit)
  | [], _ => none
  | f :: r, c => if f.ctr = c then some ([f], r) else (ackedPart r c).map fun q => (f :: q.1, q.2)
/-- ACK (R336): the flit with the counter is freed, and those before it, which were accepted before it (DEDUCED, log 31). -/
def execFlitAck (port : BitVec 6) (ctr : DWord) (s : State) : Out :=
  let p := port.toNat
  if !(s.accepts p (s.cur.sel % 4096)) then .next s
  else
    let s1 := s.accept p
    match ackedPart (s1.port p).replay ctr with
    | none => .next s1
    | some (gone, rest) =>
      let s2 := s1.modPort p fun x => { x with replay := rest, resend := Nat.min x.resend rest.length, due := s.portCycles p + 4096 }
      .next (gone.foldl (fun s f => s.flitAcked p f) s2)
/-- The flits of a replay buffer from the one sent under a counter on. -/
def fromCtr : List Flit → DWord → List Flit
  | [], _ => []
  | f :: r, c => if f.ctr = c then f :: r else fromCtr r c
/-- NAK (R401): the named flit and those after it are sent again, with their counters. -/
def execFlitNak (port : BitVec 6) (ctr : DWord) (s : State) : Out :=
  let p := port.toNat
  if !(s.accepts p (s.cur.sel % 4096)) then .next s
  else .next ((s.accept p).modPort p fun x =>
    let n := (fromCtr x.replay ctr).length
    { x with resend := if n = 0 then x.resend else n, naks := if n = 0 then x.naks else x.naks + 1 })
/-- FLIT_AUTH_FAILURE (R401, R402): the flit is discarded and one NAK carries the expected counter; the sixteenth in succession retrains the
port. The source is in `cur.sel`. -/
def execFlitAuthFailure (port : BitVec 6) (s : State) : Out :=
  let p := port.toNat
  let src := s.cur.sel % 4096
  if !(s.accepts p src) then .next s
  else
    let s1 := (s.sendLater p 7 src 0 0 [(s.port p).rx.ctr] none).modPort p fun x => { x with fails := x.fails + 1 }
    .next (if (s.port p).fails + 1 ≥ 16 then s1.retrain p else s1)
/-- RESEND_TIMEOUT (R401): when no ACK has come for 4,096 port cycles the oldest unacknowledged flit is sent again. -/
def execResendTimeout (port : BitVec 6) (s : State) : Out :=
  let p := port.toNat
  let x := s.port p
  match x.replay with
  | [] => .next s
  | f :: _ =>
    if !(s.portLive p) ∨ x.resend > 0 ∨ s.portCycles p < x.due ∨ (s.recentOf p).length ≥ s.ceiling p then .next s
    else .next (s.modPort p fun x =>
      { x with wire := x.wire ++ [f], due := s.portCycles p + 4096, injected := s.recentOf p ++ [s.portCycles p] })

/-! ### Gateways (R339) -/

/-- GATEWAY_MESSAGE (R339): a batch is applied whole, in the order of its sender's batches for the context. `cur.sel` names the sender: an
aggregate number, plus 65,536 · (port + 1) where the batch came as GATE flits of 9 updates each, which are accepted with it; `cur.slot` is 1 where they
have ord set (R335). A batch that finds no entries is applied later (R73). -/
def execGatewayMessage (ptab : DWord) (seq : Word) (ups : List StampUpdate) (s : State) : Out :=
  let from_ := s.cur.sel
  let n := (ups.length + 8) / 9
  let p := from_ / 65536 - 1
  let src := from_ % 4096
  let x := s.port p
  let flits := decide (from_ / 65536 > 0)
  let ord := decide (s.cur.slot = 1) && s.earlierThan (BitVec.ofNat 12 src) s.tick s.tick
  if flits && (ord || !(s.accepts p src) || decide (x.rx.ctr.toNat + n > x.plim.toNat)) then .next s
  else match s.ptabCtx ptab with
    | none => .next s
    | some (cid, cx) =>
      let us := ups.map fun u => (⟨u.loc, u.time, u.count⟩ : Upd)
      let due := cx.gseq.get 0 from_
      if due ≠ seq.toNat ∨ !(s.muRoom cid us false) then .next s
      else
        let s1 := (s.muLocal cid us).modCtx cid fun y => { y with gseq := y.gseq.set from_ ((due + 1) % 2 ^ 32) }
        .next (if flits then (List.range n).foldl (fun s _ => (s.accept p).ackFlit p src (s.port p).rx.ctr) s1 else s1)

/-! ### What becomes possible again -/

/-- A function sets its bit as it becomes usable, and clears it as it leaves service (R340). A port that reports ready has
trained, and sends again what is not acknowledged, from the oldest flit on (R402). -/
def State.functionReady (s : State) (fn : ReadyFn) (up : Bool) : State := match fn with
  | .cluster d c => if d < 8 ∧ c < 48 ∧ !(up && (s.die d).cfence.getLsbD c) then s.modDie d fun x => { x with drdy := setBit x.drdy c up } else s
  | .die d => if d < 8 then s.modDie d fun x => { x with drdy := setBit x.drdy 48 up } else s
  | .hbm st => if st < 16 then s.modDie (st / 2) fun x => { x with drdy := setBit x.drdy (49 + st % 2) up } else s
  | .port p =>
    if p < 48 then
      let s1 := if up then s.modPort p fun x => { x with
        pctl := x.pctl &&& 1#2, naks := if x.pctl.getLsbD 1 then 0 else x.naks,
        resend := if x.pctl.getLsbD 1 then x.replay.length else x.resend } else s
      s1.setPortBit p up
    else s
  | .lpddr i => if i < 2 then s.modIod i fun x => { x with irdy := setBit x.irdy 25 up } else s
  | .cxl i => if i < 2 then s.modIod i fun x => { x with irdy := setBit x.irdy 26 up } else s
  | .mc => s.modIod 0 fun x => { x with irdy := setBit x.irdy 24 up }
  | .iod i => if i < 2 then s.modIod i fun x => { x with irdy := setBit x.irdy 27 up } else s
/-- FUNCTION_READY (R340): what waited for memory that is ready now is performed, the owed signals first (R25). -/
def execFunctionReady (fn : ReadyFn) (up : Bool) (s : State) : Out :=
  let s1 := s.functionReady fn up
  .next (if up then s1.sendSignals.settleAll else s1)
/-- FAULT_RETRY (R391). -/
def execFaultRetry (seq : Word) (s : State) : Out := .next (s.service (dieOf s.cur.cluster) seq.toNat 0).settleAll
/-- FQRES_END (R391). -/
def execFqresEnd (seq : Word) (s : State) : Out := .next (s.service (dieOf s.cur.cluster) seq.toNat 1).settleAll
/-- REGISTER_WRITE (R7, R332). -/
def execRegisterWrite (window : BitVec 4) (off : BitVec 16) (v : DWord) (s : State) : Out :=
  .next (s.windowWrite window.toNat off.toNat v).settleAll

end Sys2Proof.Machine
end

