-- ==== Sys2Proof/Machine/MeTable.lean ====
section
/-! DEFINITION. The tag table, tile and arrangement operations of memory elements (R293 to R296). -/
namespace Sys2Proof.Machine

/-- One lane as the result (R293, R294). -/
def meLane (s : State) (f : Firing) (a : Token) (k : Nat) (st : State) (v : Nat) : Res :=
  match s.meColour f a k 1 with
  | none => .wait
  | some (c, t) => .ok { st := st, outs := [(0, { a with kind := kDense, colour := c, tag := t, lanes := [BitVec.ofNat 32 v] })] }

/-! ### The tag table (R293) -/

/-- A lookup counts, and so does a miss (Table 14.6). -/
def State.countLookup (s : State) (c k : Nat) (missed : Bool) : State :=
  if missed then (s.count c 0x034 k).count c 0x035 k else s.count c 0x034 k

/-- ttb.look: the hit slot or 0xFFF (R115). -/
def execTtbLook (w : MeW) (s : State) : Out := fire s fun s f => withA f fun a =>
  meLane s f a w.k.toNat (s.countLookup f.c f.k ((s.cluster f.c).tagFind f.k (keyOf a)).isNone) ((s.cluster f.c).tagLook f.k (keyOf a))
/-- ttb.ins: slot A lane 2 [11:0] and d [12] (R115). -/
def execTtbIns (w : MeW) (s : State) : Out := fire s fun s f => withA f fun a =>
  let v := (a.lane 2).toNat
  let (x, r) := (s.cluster f.c).tagInsert f.k (keyOf a) (v % 4096) (v / 4096 % 2)
  meLane s f a w.k.toNat (s.modCluster f.c fun _ => x) r
/-- ttb.evict: the entry's slot and d, or 0xFFF (R293). -/
def execTtbEvict (w : MeW) (s : State) : Out := fire s fun s f => withA f fun a =>
  let x := s.cluster f.c
  match x.tagFind f.k (keyOf a) with
  | none => meLane s f a w.k.toNat s 0xFFF
  | some i =>
    let e : DWord := x.tags.get 0 i
    meLane s f a w.k.toNat (s.modCluster f.c fun x => { x with tags := x.tags.del i })
      (e.bits 59 48 + 4096 * e.bits 62 62)

/-- ttb.fill begins: 0xFFF where the insertion would fail, RANGE where the line passes the share (R395), else the copy starts. -/
def execTtbFill (w : MeW) (s : State) : Out := fire s fun s f => withA f fun a =>
  let d := (s.elemOf f).descAt w.desc.toNat
  if ((s.cluster f.c).tagPlace f.k (keyOf a)).isNone then meLane s f a w.k.toNat s 0xFFF
  else if (s.spAddr f.c f.k (meIndex f.site) (fillDest d ((a.lane 2).toNat % 4096)) (fillBytes d)).isNone then .err 0x03 1
  else meStart s f fun _ _ r => { r with z := 64 }

/-! ### Tiles (R294) -/

/-- The operand of a til operation: tile, ring, wk and keep. -/
def tilTile (a : Token) : Nat := (a.lane 0).toNat % 256
def tilRing (a : Token) : Nat := (a.lane 0).toNat / 256 % 16

/-- A change of a tile's entry with its result; ERR TILE where the use is illegal (R112, R294). -/
def tilDone (s : State) (f : Firing) (a : Token) (k t : Nat) (x : Option Cluster) : Res := match x with
  | none => .err 0x0A 1
  | some x => meLane s f a k (s.modCluster f.c fun _ => x) ((x.tile t).bits 63 32)

/-- til.setf: EMPTY to FILLING, lane 1 written first into bits [59:34]; RANGE for a place beyond the share (R395). -/
def execTilSetf (w : MeW) (s : State) : Out := fire s fun s f => withA f fun a =>
  let t := tilTile a
  let x := s.cluster f.c
  let e := x.tile t
  if !(s.ownsTile f.c f.k t) || decide (tileState e ≠ tEmpty) then .err 0x0A 1
  else
    let e1 := if a.width ≥ 2 then setField e 59 34 ((a.lane 1).toNat % 2 ^ 26) else e
    if a.width ≥ 2 ∧ (s.spAddr f.c f.k (tileMe e1) (tileOff e1) (tileLen e1)).isNone then .err 0x03 1
    else tilDone s f a w.k.toNat t (some (x.setTile t (setField e1 63 62 tFilling)))

/-- til.ready: FILLING to READY. -/
def execTilReady (w : MeW) (s : State) : Out := fire s fun s f => withA f fun a =>
  let t := tilTile a
  let x := s.cluster f.c
  tilDone s f a w.k.toNat t (if s.ownsTile f.c f.k t && decide (tileState (x.tile t) = tFilling) then some (x.tileTo t tReady) else none)

/-- til.drain: READY to DRAINING; the tile's lines leave as tokens of 16 lanes. -/
def execTilDrain (_w : MeW) (s : State) : Out := fire s fun s f => withA f fun a =>
  let t := tilTile a
  let e := s.elemOf f
  if e.holdsFor f.slot then .wait
  else if !(s.ownsTile f.c f.k t) || decide (tileState ((s.cluster f.c).tile t) ≠ tReady) then .err 0x0A 1
  else
    let s1 := (s.modCluster f.c fun x => (x.useTile t).tileTo t tDraining).countMe f.c f.k
    .hold (s1.addRun f { desc := 16 + t, slot := f.slot, base := 0, a := f.a, ent := f.ent, holds := true, z := 64 })

/-- til.empty: any state to EMPTY, with no MMA or stream using the tile (R112). -/
def execTilEmpty (w : MeW) (s : State) : Out := fire s fun s f => withA f fun a =>
  let t := tilTile a
  let x := s.cluster f.c
  tilDone s f a w.k.toNat t (if s.ownsTile f.c f.k t && decide (x.tileUse.get 0 t = 0) then some (x.emptyTile t) else none)

/-- til.push: appends a READY or FILLING tile in no ring at the ring's tail; with wk the ring's keep is written (R113). -/
def execTilPush (w : MeW) (s : State) : Out := fire s fun s f => withA f fun a =>
  let t := tilTile a
  let r := tilRing a
  let x := s.cluster f.c
  let e := x.tile t
  let ok := s.ownsTile f.c f.k t && s.ownsRing f.c f.k r && (decide (tileState e = tReady) || decide (tileState e = tFilling)) &&
    !(tileInRing e)
  let x1 := x.setMembers r (x.members r ++ [t])
  let x2 := if (a.lane 0).getLsbD 12 then
      { x1 with rings := Map.put 0 x1.rings r ((x1.ring r &&& 0x7FFFFFFF#32) ||| (if (a.lane 0).getLsbD 13 then 0x80000000#32 else 0)) }
    else x1
  tilDone s f a w.k.toNat t (if ok then some x2 else none)

/-- til.pop: removes the ring's head, whose state is unchanged; the result is the popped tile's entry. -/
def execTilPop (w : MeW) (s : State) : Out := fire s fun s f => withA f fun a =>
  let r := tilRing a
  let x := s.cluster f.c
  match x.members r with
  | [] => .err 0x0A 1
  | t :: rest => tilDone s f a w.k.toNat t (if s.ownsRing f.c f.k r then some (x.setMembers r rest) else none)

/-- til.query: the tile entry's two halves and the ring entry (R294). -/
def execTilQuery (w : MeW) (s : State) : Out := fire s fun s f => withA f fun a =>
  let t := tilTile a
  let r := tilRing a
  let x := s.cluster f.c
  let e := x.tile t
  if !(s.ownsTile f.c f.k t) || !(s.ownsRing f.c f.k r) then .err 0x0A 1
  else match s.meColour f a w.k.toNat 3 with
    | none => .wait
    | some ct => .ok { st := s, outs := [(0, { a with
        kind := kDense, colour := ct.1, tag := ct.2, lanes := [e.extractLsb' 0 32, e.extractLsb' 32 32, x.ring r] })] }

/-! ### Arrangements (R78, R79, R295, R296) -/

/-- The area of constant kN: start and length in bytes, key and value lanes. -/
structure Area where
  start : Nat
  len : Nat
  kl : Nat
  vl : Nat
def areaOf (w : Word) : Area := ⟨64 * w.bits 9 0, 64 * (w.bits 19 10 + 1), w.bits 24 20, w.bits 29 25⟩
/-- Bytes of a record and of a batch (Table 3.7). -/
def Area.rsize (a : Area) : Nat := (20 + 4 * (a.kl + a.vl) + 7) / 8 * 8
def Area.bytes (a : Area) (n : Nat) : Nat := 128 + n * a.rsize

/-- A time in 12 bytes of memory (R63), and back. -/
def timeNat (t : Time) : Nat := t.c0.toNat + 2 ^ 32 * t.c1.toNat + 2 ^ 48 * t.c2.toNat + 2 ^ 64 * t.c3.toNat
def timeOfNat (v : Nat) : Time :=
  ⟨BitVec.ofNat 32 v, BitVec.ofNat 16 (v / 2 ^ 32), BitVec.ofNat 16 (v / 2 ^ 48), BitVec.ofNat 16 (v / 2 ^ 64)⟩

/-- A batch: its records in the order of R79, its compaction frontier and its cmp bit. -/
structure Batch where
  recs : Sums
  since : List Time := []
  cmp : Bool := false
  bad : Bool := false

/-- Bytes of the share of the ME itself, read or written. -/
def State.ownRead (s : State) (f : Firing) (off n : Nat) : State × Nat × Bool := match s.spAddr f.c f.k (meIndex f.site) off n with
  | none => (s, 0, false)
  | some a =>
    let (x, v, bad) := (s.cluster f.c).spRead a n
    (s.modCluster f.c fun _ => x, v, bad)
def State.ownWrite (s : State) (f : Firing) (off n v : Nat) (poison : Bool) : State := match s.spAddr f.c f.k (meIndex f.site) off n with
  | none => s
  | some a => s.modCluster f.c fun x => (x.spWrite a n v poison).1

/-- The batch at an offset of the share (Tables 3.6 and 3.7). -/
def State.readBatch (s : State) (f : Firing) (off : Nat) : State × Batch :=
  let (s1, h, hb) := s.ownRead f off 128
  let n := h / 2 ^ 32 % 2 ^ 32
  let rs := h / 2 ^ 16 % 2 ^ 16
  let lanes := h / 2 ^ 11 % 32 + h / 2 ^ 6 % 32
  let since := (List.range (h / 4 % 16)).map fun i => timeOfNat (h / 2 ^ (128 + 96 * i))
  (List.range n).foldl (fun (a : State × Batch) i =>
    let (s2, v, bad) := a.1.ownRead f (off + 128 + rs * i) rs
    let rec_ := (List.range lanes).map fun j => BitVec.ofNat 32 (v / 2 ^ (160 + 32 * j))
    (s2, { a.2 with recs := a.2.recs ++ [(rec_, timeOfNat (v / 2 ^ 64), signedOf 64 v)], bad := a.2.bad || bad }))
    (s1, { recs := [], since := since, cmp := h.testBit 1, bad := hb })

/-- Writes a batch with the address of the next one in its header. -/
def State.writeBatch (s : State) (f : Firing) (ar : Area) (off next : Nat) (b : Batch) (poison : List Word × Time → Bool) : State :=
  let h := b.recs.length * 2 ^ 32 + ar.rsize * 2 ^ 16 + ar.kl * 2 ^ 11 + ar.vl * 2 ^ 6 + b.since.length * 4 + b.cmp.toNat * 2
  let sv := ((List.range b.since.length).map fun i => timeNat (b.since.getD i Time.zero) * 2 ^ (96 * i)).foldl (· + ·) 0
  let s1 := s.ownWrite f off 128 (h + next * 2 ^ 64 + sv * 2 ^ 128) false
  (List.range b.recs.length).foldl (fun s i => match b.recs[i]? with
    | none => s
    | some (r, t, d) => s.ownWrite f (off + 128 + ar.rsize * i) ar.rsize
        (patternOf 64 d + timeNat t * 2 ^ 64 + lanesNat r * 2 ^ 160) (poison (r, t))) s1

/-- Consolidated records (R79): equal record and time summed, zero sums dropped; none where a sum leaves i64 (R396). -/
def consolidate (l : Sums) : Option Sums :=
  let t := l.foldl (fun a x => addSum x.1 x.2.1 x.2.2 a) []
  if t.any fun x => decide (x.2.2 < -(2 ^ 63 : Int)) || decide (x.2.2 ≥ (2 ^ 63 : Int)) then none
  else some (t.filter fun x => decide (x.2.2 ≠ 0))

def State.arrOf (s : State) (f : Firing) (n : Nat) : Arr := (s.elemOf f).arrs.get {} n
def State.setArr (s : State) (f : Firing) (n : Nat) (a : Arr) : State := s.modElem f.c f.site f.k fun e => { e with arrs := e.arrs.set n a }
/-- The scratchpad address (R108) of a share offset of the ME itself, or 0. -/
def State.ownAddr (s : State) (f : Firing) (off : Option Nat) : Nat := match off with
  | none => 0
  | some o => (s.spAddr f.c f.k (meIndex f.site) o 0).getD 0

/-- A result of an arr operation takes the colour k(N+1) (R295). -/
def arrResult (s : State) (f : Firing) (w : MeW) (a : Token) (st : State) (mk : BitVec 6 → BitVec 12 → List Token) : Res :=
  match s.recolour f (((s.elemOf f).const (w.k.toNat + 1)).toNat % 64) a with
  | none => .wait
  | some (c, t) => .ok { st := st, outs := (mk c t).map fun x => (0, x) }
def arrCount (s : State) (f : Firing) (w : MeW) (a : Token) (st : State) (n : Nat) (poison : Bool) : Res :=
  arrResult s f w a st fun c t =>
    [{ a with kind := kDense, colour := c, tag := t, poison := a.poison || poison, lanes := [BitVec.ofNat 32 n] }]

/-- arr.ins: the group's changes as a new batch at the head; AREA where it has no room, GROUP for a sum outside i64 (R295, R396). -/
def execArrIns (w : MeW) (s : State) : Out := fire s fun s f => withA f fun a =>
  let e := s.elemOf f
  let x := e.slot f.slot
  let ts := x.group ++ [a]
  let put (s : State) (g : List Token) : State := s.setSlot f.c f.site f.k f.slot { x with group := g }
  if !a.last then .ok { st := put s ts }
  else
    let ar := areaOf (e.const w.k.toNat)
    let n := w.dslot.toNat
    let arr := s.arrOf f n
    let rec_ (t : Token) : List Word := fitLanes (ar.kl + ar.vl) t.record
    let fail (code cnt : Nat) : Res := .ok { st := put s [], outs := [(0, f.error code cnt)] }
    match consolidate (ts.map fun t => (rec_ t, t.time, t.diff)) with
    | none => fail 0x07 ts.length
    | some [] => arrCount s f w a (put s []) 0 (ts.any Token.poison)
    | some recs =>
      if arr.free + ar.bytes recs.length > ar.len then fail 0x0B 1
      else
        let off := ar.start + arr.free
        let s1 := s.writeBatch f ar off (s.ownAddr f arr.batches.head?) { recs := recs } fun q =>
          ts.any fun t => t.poison && decide ((rec_ t, t.time) = q)
        let s2 := s1.setArr f n { batches := off :: arr.batches, free := arr.free + ar.bytes recs.length }
        arrCount s f w a (put s2 []) recs.length (ts.any Token.poison)

/-- The batches of an arrangement, newest first. -/
def State.readBatches (s : State) (f : Firing) (n : Nat) : State × List (Nat × Batch) :=
  (s.arrOf f n).batches.foldl (fun (a : State × List (Nat × Batch)) o =>
    let (s1, b) := a.1.readBatch f o
    (s1, a.2 ++ [(o, b)])) (s, [])
def recCount (bs : List (Nat × Batch)) : Nat := (bs.map fun b => b.2.recs.length).foldl (· + ·) 0
def batchesBad (bs : List (Nat × Batch)) : Bool := bs.any fun b => b.2.bad

/-- arr.seek and arr.seek.at (R296). -/
def execArrSeek (w : MeW) (s : State) : Out := fire s fun s f => withA f fun a =>
  let ar := areaOf ((s.elemOf f).const w.k.toNat)
  let key := fitLanes ar.kl a.record
  let (s1, bs) := s.readBatches f w.dslot.toNat
  let mine := (bs.flatMap fun b => b.2.recs).filter fun r => decide (r.1.take ar.kl = key)
  let rows := if w.flags.getLsbD 0 then (mine.filter fun r => r.2.1.le a.time).map fun r => (r.1, a.time, r.2.2) else mine
  match consolidate rows with
  | none => .err 0x07 (recCount bs)
  | some recs => arrResult s f w a s1 fun c t =>
      let base (lanes : List Word) : Token :=
        s.fillChange f.c f.k { a with kind := kChg, colour := c, tag := t, poison := a.poison || batchesBad bs, lanes := lanes }
      let outs := recs.flatMap fun r => withDiff (base (chgLanes 0 r.2.1 r.1)) r.2.2
      if outs.isEmpty then [{ base (chgLanes 0 Time.zero (key ++ List.replicate ar.vl 0)) with last := true }] else markLast outs

/-- The representative of a time under a frontier (R76). -/
def repUnder (fr : List Time) (t : Time) : Time := match fr.map fun f => t.join f with
  | [] => t
  | x :: r => r.foldl Time.meet x

/-- arr.cmpt: every batch is compacted in place under the n times of A (R76, R295). -/
def execArrCmpt (w : MeW) (s : State) : Out := fire s fun s f => withA f fun a =>
  let n := (a.lane 0).toNat % 16
  let ar := areaOf ((s.elemOf f).const w.k.toNat)
  let fr := minimal ((List.range n).map fun i =>
    ⟨a.lane (1 + 3 * i), (a.lane (2 + 3 * i)).extractLsb' 16 16, (a.lane (2 + 3 * i)).extractLsb' 0 16,
      (a.lane (3 + 3 * i)).extractLsb' 16 16⟩)
  if n = 0 ∨ n > 8 then .err 0x0B 1
  else
    let (s1, bs) := s.readBatches f w.dslot.toNat
    let new := bs.map fun b => (b.1, b.2, consolidate (b.2.recs.map fun r => (r.1, repUnder fr r.2.1, r.2.2)))
    if new.any fun b => b.2.2.isNone then .err 0x07 (recCount bs)
    else
      let offs := new.map Prod.fst
      let s2 := (new.zip (offs.drop 1 |>.map some |>.append [none])).foldl (fun s q =>
        s.writeBatch f ar q.1.1 (s.ownAddr f q.2) { recs := q.1.2.2.getD [], since := fr, cmp := true } fun _ => q.1.2.1.bad) s1
      arrCount s f w a s2 ((new.map fun b => (b.2.2.getD []).length).foldl (· + ·) 0) (batchesBad bs)

/-- arr.mrg: every batch as one consolidated batch at the start of the area (R295). -/
def execArrMrg (w : MeW) (s : State) : Out := fire s fun s f => withA f fun a =>
  let ar := areaOf ((s.elemOf f).const w.k.toNat)
  let n := w.dslot.toNat
  let (s1, bs) := s.readBatches f n
  match consolidate (bs.flatMap fun b => b.2.recs) with
  | none => .err 0x07 (recCount bs)
  | some [] => arrCount s f w a (s1.setArr f n {}) 0 (batchesBad bs)
  | some recs =>
    if ar.bytes recs.length > ar.len then .err 0x0B 1
    else
      let same := decide (((bs.map fun b => b.2.since).eraseDups).length = 1)
      let since := if same then (bs.map fun b => b.2.since).headD [] else []
      let cmp := same && bs.all fun b => b.2.cmp
      let s2 := s1.writeBatch f ar ar.start 0 { recs := recs, since := since, cmp := cmp } fun _ => batchesBad bs
      arrCount s f w a (s2.setArr f n { batches := [ar.start], free := ar.bytes recs.length }) recs.length (batchesBad bs)

end Sys2Proof.Machine
end

