-- ==== Sys2Proof/Machine/Bind.lean ====
section
/-! DEFINITION. What the loader binds at an admission (R17, R28, R158, R192, R322): edges between regions, collective nodes, and the summaries of
the paths that cross regions (R67, R71). -/
namespace Sys2Proof.Machine

/-! ### Edges and nodes -/

/-- The box of a die network port has a word of a context slot that leaves by it, or that takes what enters, on a channel. -/
def State.leavesBy (s : State) (c k p vc : Nat) : Bool := (s.site c (8 * p + 7)).words.any fun w =>
  decide (w.ctx.toNat = k) && decide (w.out.toNat = 1) && decide (w.vc.toNat = vc)
def State.entersBy (s : State) (c k p vc : Nat) : Bool := !((s.site c (8 * p + 7)).takers none 1 k vc).isEmpty

/-- Types and operators that a node of a kind combines (R152); a node that does not reduce has none. -/
def nodeOk (kind op ty : Nat) : Bool := decide (kind ≤ 4) &&
  (decide (kind > 1) || decide (ty ≤ 5) && decide (op ≤ 2) || decide (ty = 13) && decide (op = 0))
/-- A collective node as the loader binds it to the places of the regions: one that combines what cannot be combined is not bound (R152, R159), and
an output goes where its region takes it in. -/
def State.nodeOf (s : State) (ps : List Placed) (x : Config.NodeSpec) : Option CollNode :=
  let at_ (r : Nat) : Option (Nat × Nat) := ps[r]?.map fun p => (p.cluster, p.slot)
  let dest := x.dest.filterMap fun d => (at_ d.2.1).bind fun q =>
    let p := d.2.2.1 % 8
    let vc := d.2.2.2 % 32
    if s.entersBy q.1 q.2 p vc then some (d.1, q.1, q.2, p, vc) else none
  let group := x.group.filterMap at_
  if nodeOk x.kind x.op x.ty ∧ group ≠ [] then some
    { id := x.id.toNat, kind := x.kind, op := x.op, ty := x.ty, rnd := x.rnd, ftz := x.ftz, n := group.length, cap := x.cap, reroute := x.reroute,
      rate := Nat.max 1 x.rate, group := group, objs := x.objs.foldl (fun m e => m.set e.1 e.2) [],
      dest := dest.foldl (fun m e => m.set e.1 e.2) [] }
  else none
/-- An edge as the loader binds it: a token keeps its producer's channel in the region that it enters (R192). One end may lie on another module (R322). -/
def State.edgeOfSpec (s : State) (ps : List Placed) (nodes : Map CollNode) (x : Config.EdgeSpec) : Option EdgeBind :=
  let p := x.port % 8
  let vc := x.vc % 32
  if x.from_.isSome then ps[x.dst]?.bind fun b =>
    let q := x.dstPort % 8
    if s.entersBy b.cluster b.slot q vc then
      some { c := 384, k := 0, p := p, vc := vc, toC := b.cluster, toK := b.slot, toP := q, toVc := vc, away := x.from_ } else none
  else match ps[x.src]? with
  | none => none
  | some a =>
    if !(s.leavesBy a.cluster a.slot p vc) then none
    else match x.node with
      | some n => (nodes.find? n).map fun _ => { c := a.cluster, k := a.slot, p := p, vc := vc, node := some n, member := x.member }
      | none =>
        if x.to_.isSome then some { c := a.cluster, k := a.slot, p := p, vc := vc, toC := 384, toP := x.dstPort % 8, toVc := vc, away := x.to_, locs := x.locs }
        else ps[x.dst]?.bind fun b =>
        let q := x.dstPort % 8
        if s.entersBy b.cluster b.slot q vc then
          some { c := a.cluster, k := a.slot, p := p, vc := vc, toC := b.cluster, toK := b.slot, toP := q, toVc := vc }
        else none
/-- The first route from a die network port whose channel no binding gives (R192, reason 4 of Table 18.4), with its region. -/
def State.unbound (s : State) (cid : Nat) (ps : List Placed) : Option (Placed × LoadBad) := match s.ctx? cid with
  | none => none
  | some x => ps.findSome? fun a => (List.range 8).findSome? fun p =>
      ((s.site a.cluster (8 * p + 7)).words.find? fun w =>
        decide (w.ctx.toNat = a.slot) && decide (w.inp.toNat = 1) && !(x.bound a.cluster a.slot p w.vc.toNat)).map fun w =>
          (a, { reason := 4, site := 8 * p + 7, at_ := w.pos })

/-! ### Compositions by rank (R71) -/

/-- The rank of an action on a coordinate: set to zero lies below keep, which is add 0, and add a below a greater one. A composition is its four
ranks; it lies below another when each of its ranks does. -/
def actRank : Nat × Nat → Nat
  | (0, _) => 1
  | (1, _) => 0
  | (_, a) => a + 1
def rankAct : Nat → Nat × Nat
  | 0 => (1, 0)
  | 1 => (0, 0)
  | n + 1 => (2, n)
abbrev Ranks := List Nat
def Compo.ranks (c : Compo) : Ranks := (List.range 4).map fun j => actRank (c.act.getD j (0, 0))
def Ranks.compo (r : Ranks) : Compo := ⟨r.map rankAct⟩
def keepAll : Ranks := [1, 1, 1, 1]
/-- One composition after another. What is set to zero and then counted up is taken as zero, which lies below (DEDUCED, log 49). -/
def Ranks.after (b a : Ranks) : Ranks := (a.zip b).map fun q => if q.1 = 0 ∨ q.2 = 0 then 0 else Nat.min (q.1 + q.2 - 1) 65536
def Ranks.below (a b : Ranks) : Bool := (a.zip b).all fun q => decide (q.1 ≤ q.2)
def Ranks.meet (a b : Ranks) : Ranks := (a.zip b).map fun q => Nat.min q.1 q.2
/-- The order of reduction: by the image of the zero time, then by the encoded bytes. -/
def Ranks.key (r : Ranks) : Nat :=
  let image := r.foldl (fun n x => n * 2 ^ 17 + (x - 1)) 0
  (r.map rankAct).foldl (fun n a => n * 2 ^ 24 + a.1 * 2 ^ 16 + a.2 % 256 * 2 ^ 8 + a.2 / 256) image
def insRanks (r : Ranks) : List Ranks → List Ranks
  | [] => [r]
  | x :: l => if x = r then x :: l else if r.key < x.key then r :: x :: l else x :: insRanks r l
/-- A set of compositions in order, without dominated members. -/
def minimalRanks (l : List Ranks) : List Ranks :=
  let m := l.foldl (fun a r => insRanks r a) []
  m.filter fun r => !(m.any fun x => x.below r && decide (x ≠ r))
/-- While more than 4 remain, the last two are replaced by their meet. -/
def reduce4 : Nat → List Ranks → List Ranks
  | 0, l => l
  | n + 1, l => if l.length ≤ 4 then l else match l.reverse with
    | a :: b :: r => reduce4 n (minimalRanks (a.meet b :: r))
    | _ => l
def reduceRanks (l : List Ranks) : List Ranks := let m := minimalRanks l; reduce4 m.length m

/-! ### Summaries across regions (R67, R71) -/

/-- What a slot does to the time of a change that passes it (R61). Where the depth is not fixed, every coordinate that it could set is taken as
set, which lies below. -/
def Prick.slotRanks (p : Prick) (x : Fixed) (site slot : Nat) (info : SlotInfo) : Ranks :=
  let depth := ((x.inCol p site slot 0).bind p.colour?).map ColourDecl.depth
  let put (v : Nat) (which : Nat → Bool) : Ranks := (List.range 4).map fun j => if which j then v else 1
  if !(isCeSite site) ∨ info.op ≠ 33 then keepAll
  else match info.fn, depth with
    | 0, some d => put 0 fun j => decide (j = d + 1)
    | 1, some d => put 0 fun j => decide (j = d)
    | 2, some d => put 2 fun j => decide (j = d)
    | 0, none | 1, none => put 0 fun j => decide (j ≠ 0)
    | 4, _ => put 0 fun j => decide (j > info.w.k.toNat % 4)
    | _, _ => keepAll

/-- A step of a path from one region into another: its locations, and what it does to a time. -/
structure Cross where
  src : Nat
  dst : Nat
  ranks : Ranks
/-- A list without the elements of another, each taken out once. -/
def without (l m : List Nat) : List Nat := m.foldl List.erase l
/-- The crossings of a region: from the ports that its slots read, and from TI0 to TI3, to the locations that their routes lead to over the bound edges
and nodes. A route that stays in the region is the summary table's (R28). -/
def State.crossings (s : State) (a : Placed) : List Cross := match s.region? a.cluster a.slot with
  | none => []
  | some r =>
    let c := a.cluster
    let k := a.slot
    let p := s.prick a.image k
    let x := p.fixed
    let most := match s.ctxAt c k with
      | some y => y.nodes.foldl (fun m n => Nat.max m n.2.n) 1
      | none => 1
    let bare := s.modCtx r.cid fun y => { y with edges := [] }
    let ends (site inp vc slot : Nat) : List Nat :=
      ((List.range most).flatMap fun j => without (s.destLocs j routeFuel false none c k site inp vc slot)
        (bare.destLocs j routeFuel false none c k site inp vc slot)).eraseDups
    let slots := p.slots.flatMap fun q =>
      let dests := q.2.2.outs.flatMap fun o => match (if o = 0 then s.memEdge c q.1 k q.2.1 else none) with
        | some n => ends (56 + 2 * n) 2 q.2.1 q.2.1
        | none => ends q.1 (4 + o) (16 * o + q.2.1) q.2.1
      (q.2.2.reads.flatMap fun port => s.portLoc c k q.1 q.2.1 port).flatMap fun l => dests.map fun m =>
        (⟨l, m, p.slotRanks x q.1 q.2.1 q.2.2⟩ : Cross)
    let tis := [0, 1, 2, 3].flatMap fun n => (s.edgeLoc c k n).flatMap fun l =>
      ((p.vcs n 0).flatMap fun vc => (List.range 16).flatMap fun i => ends n 0 vc i).eraseDups.map fun m => (⟨l, m, keepAll⟩ : Cross)
    slots ++ tis

/-- Summaries by their pair of locations. -/
abbrev SumMap := Map (List Ranks)
def pairKey (l m : Nat) : Nat := 65536 * l + m
def SumMap.add (t : SumMap) (l m : Nat) (rs : List Ranks) : SumMap := t.set (pairKey l m) (reduceRanks (t.get [] (pairKey l m) ++ rs))
/-- Paths are prolonged by one crossing, and by what the region it enters has from there. -/
def SumMap.step (t0 : SumMap) (xs : List Cross) (t : SumMap) : SumMap := t.foldl (fun t1 e =>
  let l := e.1 / 65536
  (xs.filter fun x => decide (x.src = e.1 % 65536)).foldl (fun t1 x =>
    let rs := e.2.map fun r => x.ranks.after r
    t0.foldl (fun t2 f => if f.1 / 65536 = x.dst then t2.add l (f.1 % 65536) (rs.flatMap fun r => f.2.map fun b => b.after r) else t2)
      (t1.add l x.dst rs)) t1) t
def SumMap.close (t0 : SumMap) (xs : List Cross) : Nat → SumMap → SumMap
  | 0, t => t
  | n + 1, t =>
    let t1 := t0.step xs t
    if t1 = t then t else SumMap.close t0 xs n t1
/-- The summaries of a context: those of its regions' tables, and with the crossings those that the loader composes (R67, R71). -/
def composed (tables : List Summary) (xs : List Cross) : List Summary :=
  let t0 : SumMap := tables.foldl (fun t q => SumMap.add t q.src q.dst (q.comps.map Compo.ranks)) []
  if xs.isEmpty then tables
  else
    let start := xs.foldl (fun t x => SumMap.add t x.src x.src [keepAll]) t0
    (SumMap.close t0 xs (xs.length + 1) start).map fun e =>
      { src := e.1 / 65536, dst := e.1 % 65536, comps := e.2.map Ranks.compo }

/-- The members without a region here, each with the module that the member map names for it (R146, R339). -/
def State.othersOf (s : State) (q : Nat × Nat) (ps : List Placed) : List (Nat × Nat) :=
  let (c, k) := q
  if s.ptabAt c k = 0 then []
  else (List.range (meshSize (s.meshAt c k))).filterMap fun m =>
    let e := s.memberEntry c k m
    if (ps[e.bits 63 48]?).isSome ∨ e.bits 47 36 = Config.moduleId.toNat then none else some (m, e.bits 47 36)

/-- The loader binds a context whose regions are loaded: nodes, edges, the summaries across them, and the modules of its other members. -/
def State.bindCtx (s : State) (cid : Nat) (ps : List Placed) : State :=
  let nodes := ((List.range (Config.nodes s.tick).length).zip (Config.nodes s.tick)).filterMap fun q => (s.nodeOf ps q.2).map fun n => (q.1, n)
  let edges := (Config.edges s.tick).filterMap (s.edgeOfSpec ps nodes)
  let s1 := s.modCtx cid fun x => { x with nodes := nodes, edges := edges }
  let xs := ps.flatMap s1.crossings
  let others := match ps with
    | p :: _ => s1.othersOf (p.cluster, p.slot) ps
    | [] => []
  s1.modCtx cid fun x => { x with summaries := composed x.summaries xs, others := others }

end Sys2Proof.Machine
end

