-- ==== Sys2Proof/Machine/Sched.lean ====
section
/-! DEFINITION. The die scheduler: launch queues and candidates (R315 to R321, R378, R379), placement (R322, R323), loading and start (R324,
R356, R358), retirement (R326), and what releases a context's resources. -/
namespace Sys2Proof.Machine

/-! ### Region control blocks (Table 2.1) and effective values (R30) -/

/-- A doubleword of an RCB, and its fields. -/
def State.rcb (s : State) (a off : Nat) : DWord := s.rd64 (hbm (a + off))
def State.rcbLevel (s : State) (a : Nat) : Nat := (s.rcb a 0).bits 63 62
def State.rcbState (s : State) (a : Nat) : Nat := (s.rcb a 0).bits 39 32
def State.setRcbState (s : State) (a v : Nat) : State := s.wr (hbm (a + 4)) 1 v
/-- An address of an RCB: 256-byte aligned, in populated local HBM. -/
def rcbOk (a : Nat) : Bool := decide (a % 256 = 0) && decide (a + 256 ≤ 2 ^ 40)

/-- A node's own values. -/
def State.ownValues (s : State) (a : Nat) : Effective :=
  let w := s.rcb a 0
  let b := s.rcb a 0x20
  let d := s.rcb a 0x30
  { bclus := b.bits 63 48, bcobj := b.bits 47 32, bmem := b.bits 31 0, prio := w.bits 61 58, fdom := w.bits 57 50, dump := s.rcb a 0x28,
    dumplen := d.bits 63 32, dumpkey := BitVec.ofNat 32 (d.bits 31 0), trapvec := s.rcb a 0x38 &&& ~~~3#64 }
/-- A child's effective values from its parent's: own where its override bit is set, clamped to the parent's. -/
def State.inherit (s : State) (p : Effective) (a : Nat) : Effective :=
  let w := s.rcb a 0
  let o := s.ownValues a
  let budget := w.getLsbD 49
  let dump := w.getLsbD 46
  { bclus := if budget then Nat.min o.bclus p.bclus else p.bclus,
    bcobj := if budget then Nat.min o.bcobj p.bcobj else p.bcobj,
    bmem := if budget then Nat.min o.bmem p.bmem else p.bmem,
    prio := if w.getLsbD 48 then Nat.min o.prio p.prio else p.prio,
    fdom := if w.getLsbD 47 then o.fdom else p.fdom,
    dump := if dump then o.dump else p.dump,
    dumplen := if dump then o.dumplen else p.dumplen,
    dumpkey := if dump then o.dumpkey else p.dumpkey,
    trapvec := if w.getLsbD 45 then o.trapvec else p.trapvec }
/-- The effective values of the last node of a chain that begins at a partition. -/
def State.effective (s : State) (part : Nat) (rest : List Nat) : Effective := rest.foldl s.inherit (s.ownValues part)

/-! ### Entries and candidates (R316, R320, R379) -/

/-- What hangs together beneath a context RCB: job, partition, its translation root, and the region children. -/
structure Tree where
  job : Nat
  part : Nat
  root : DWord
  regions : List Nat
  deriving DecidableEq, Repr

/-- The region children in child-list order; none where the list is malformed (R379, reason 4). -/
def State.childList (s : State) : Nat → Nat → List Nat → Option (List Nat)
  | 0, _, l => some l
  | n + 1, a, l =>
    if a = 0 then some l
    else if !(rcbOk a) || l.contains a || decide (s.rcbLevel a ≠ 3) then none
    else s.childList n (s.rcb a 0x18).toNat (l ++ [a])
/-- The tree beneath a context RCB, or the reason of R379 with the partition root where it was reached. -/
def State.treeOf (s : State) (a : Nat) : Except (Nat × DWord) Tree :=
  let job := (s.rcb a 8).toNat
  let part := (s.rcb job 8).toNat
  if !(rcbOk job) ∨ s.rcbLevel job ≠ 1 ∨ !(rcbOk part) ∨ s.rcbLevel part ≠ 0 then .error (4, 0)
  else
    let root := s.rcb part 0x88
    match s.childList 65537 (s.rcb a 0x10).toNat [] with
    | none => .error (4, root)
    | some [] => .error (4, root)
    | some rs => if rs.any fun r => decide (s.rcb r 0x40 = 0) then .error (5, root) else .ok ⟨job, part, root, rs⟩

/-- An evicted context: it keeps its number and demand, and has no place (R328). -/
def Ctx.evicted (x : Ctx) : Bool := x.evicting && x.regions.isEmpty
/-- The evicted context of an RCB. -/
def State.evictedAt (s : State) (a : Nat) : Option Nat := (List.find? (fun (e : Nat × Ctx) => decide (e.2.rcb = a) && e.2.evicted) s.ctxs).map Prod.fst
/-- The checks of R379 on an entry: a candidate's tree, or the reason. -/
def State.checkEntry (s : State) (e : Nat) : Except (Nat × DWord) Tree :=
  if !(rcbOk e) then .error (1, 0)
  else if s.rcbLevel e ≠ 2 then .error (2, 0)
  else if s.rcbState e ≠ 0 ∧ s.rcbState e ≠ 4 ∧ (s.evictedAt e).isNone then .error (3, 0)
  else s.treeOf e

/-- A rejected entry is reported (R379); none where the fault queue has no room. -/
def State.rejectEntry (s : State) (d q e reason : Nat) (root : DWord) : Option State :=
  let info : FaultInfo := { kind := 4, code := reason, detail := 0, va := BitVec.ofNat 64 e, root := root, cmd := BitVec.ofNat 64 q }
  match s.postFault d info { cluster := 48 * d } with
  | (_, none) => none
  | (s1, some _) =>
    if rcbOk e && decide (s.rcbLevel e = 2) then some (((s1.takeNodes [e]).setRcbState e 5).signalPa (s.rcb e 0x70).toNat 1 stError)
    else some s1

/-- The partition of a candidate. -/
def State.candPart (s : State) (x : Candidate) : Nat := (s.rcb (s.rcb x.rcb 8).toNat 8).toNat
/-- The candidates of a die, by the queue they stand for; 16 is the head of the return chain, which stands ahead of queue 15 while the chain holds
a context (R328). -/
def State.candsOf (s : State) (d : Nat) : List (Nat × Candidate) :=
  let x := s.die d
  if x.chainHead ≠ 0 then x.cands.filter fun e => decide (e.1 ≠ 15) else x.cands
/-- A partition that had no candidate before takes the larger of its pass value and the smallest among partitions with candidates (R320). The
candidate it gains is that of queue q. -/
def State.gainPass (s : State) (d q part : Nat) : State :=
  let others := ((s.candsOf d).filter fun e => decide (e.1 ≠ q)).map fun e => s.candPart e.2
  if others.isEmpty || others.contains part then s
  else
    let vals := others.map fun p => (s.die d).pass.get 0 p
    let least := vals.foldl Nat.min (vals.headD 0)
    s.modDie d fun x => { x with pass := x.pass.set part (Nat.max (x.pass.get 0 part) least) }

/-- The scheduler of a die works: its HBM is ready (R25). -/
def State.schedReady (s : State) (d : Nat) : Bool := (s.die d).drdy.getLsbD 48
/-- The entry at the head of a queue is read (R316): it becomes the queue's candidate, or it is rejected and consumed (R379). `kept` is a
partition that has had a candidate all along. Queue 15 waits while the return chain holds a context (R328). -/
def State.readEntry (s : State) (d q : Nat) (kept : Option Nat) : State :=
  let x := s.die d
  let base := x.lqbase.get (0 : DWord) q
  let head := x.lqhead.get (0 : BitVec 9) q
  let tail := x.lqntf.get (0 : BitVec 9) q
  if !(s.schedReady d) || !(base.getLsbD 0) || decide (head = tail) || (x.cands.find? q).isSome || (decide (q = 15) && decide (x.chainHead ≠ 0)) then s
  else
    let e := s.rd (hbm (base.bits 63 11 * 2 ^ 11 + 8 * (head.toNat % 256))) 8
    let took (s : State) : State := s.modDie d fun x => { x with lqhead := x.lqhead.set q (head + 1) }
    match s.checkEntry e with
    | .error (reason, root) => match s.rejectEntry d q e reason root with
      | some s1 => took s1
      | none => s
    | .ok t =>
      let s1 := if kept = some t.part then s else s.gainPass d q t.part
      let c : Candidate := { rcb := e, readAt := s.dieCycles d, reentry := s.evictedAt e }
      (took ((s1.takeNodes (e :: t.job :: t.part :: t.regions)).setRcbState e 1)).modDie d fun x => { x with cands := x.cands.set q c }
/-- Reads entries until the queue has a candidate or is empty. -/
def State.refill (d q : Nat) (kept : Option Nat) : Nat → State → State
  | 0, s => s
  | n + 1, s => if ((s.die d).cands.find? q).isSome then s else State.refill d q kept n (s.readEntry d q kept)
/-- The head of the return chain becomes a candidate (R328). `kept` is a partition that has had a candidate all along. -/
def State.readChain (s : State) (d : Nat) (kept : Option Nat) : State :=
  let x := s.die d
  if x.chainHead = 0 ∨ (x.cands.find? 16).isSome ∨ !(s.schedReady d) then s
  else
    let c : Candidate := { rcb := x.chainHead, readAt := s.dieCycles d, reentry := s.evictedAt x.chainHead }
    (if kept = some (s.candPart c) then s else s.gainPass d 16 (s.candPart c)).modDie d fun x => { x with cands := x.cands.set 16 c }
/-- LAUNCH_ENTRY_READ (R316, R379). -/
def execLaunchEntryRead (q : BitVec 4) (s : State) : Out :=
  let d := dieOf s.cur.cluster
  .next (if q = 15 ∧ (s.die d).chainHead ≠ 0 then s.readChain d none else s.readEntry d q.toNat none)

/-- Queue 15's own candidate counts again once the chain is empty; where it has none its head is read (R328). -/
def State.afterChain (s : State) (d part : Nat) : State := match (s.die d).cands.find? 15 with
  | some x => if s.candPart x = part then s else s.gainPass d 15 (s.candPart x)
  | none => State.refill d 15 (some part) 256 s
/-- A candidate leaves; its place is taken by the next of its queue, and the chain moves on. -/
def State.dropCand (s : State) (d q part : Nat) : State :=
  let out (x : Die) : Die := { x with cands := x.cands.del q, heldQ := if x.heldQ = some q then none else x.heldQ }
  if q = 16 then
    let x := s.die d
    let nxt := (s.rcb x.chainHead 0xA0).toNat
    let move (x : Die) : Die := { out x with chainHead := nxt, chainTail := if nxt = 0 then 0 else x.chainTail }
    let s1 := s.modDie d move
    if nxt = 0 then s1.afterChain d part else s1.readChain d (some part)
  else State.refill d q (some part) 256 (s.modDie d out)

/-! ### Candidates that can never become ready (R378) -/

/-- The i-th dependence object of a context RCB. -/
def State.depOf (s : State) (a i : Nat) : Nat := (s.rcb a (0x50 + 8 * i)).toNat
def State.depCount (s : State) (pa : Nat) : Nat := (s.rd64 (hbm pa)).bits 47 0
def State.depStatus (s : State) (pa : Nat) : Nat := (s.rd64 (hbm pa)).bits 55 48
/-- Every dependence is met with status OK (R318). -/
def State.depsMet (s : State) (a : Nat) : Bool := [0, 1, 2, 3].all fun i =>
  decide (s.depOf a i = 0) || (decide (s.depCount (s.depOf a i) ≠ 0) && decide (s.depStatus (s.depOf a i) = stOk))

/-- n bytes at a virtual address under a root, read by the scheduler of a die; zero where it does not translate, on which the spec is silent
(DESIGN CHOICE, log 120). -/
def State.rootRead (s : State) (d : Nat) (root va : DWord) (n : Nat) : Nat := match s.translate (48 * d) true root va .load with
  | (s1, .ok key) => s1.rd key n
  | (_, .error _) => 0
/-- The number by which a scheduler asks other nodes for a candidate's RCB. -/
def farSched (rcb : Nat) : Nat := 2 ^ 100 + rcb
/-- Areas of memory under a root stand ready for the scheduler of a die: none waits for its tables or its home (R25), and those of other nodes have been
asked for and are answered (R334). -/
def State.areasReady (s : State) (d who : Nat) (root : DWord) (l : List (DWord × Nat)) : State × Bool :=
  (l.flatMap fun q => (chunks q.1.toNat q.2).map fun x => (q.1 + BitVec.ofNat 64 x.1, x.2)).foldl (fun (a : State × Bool) q =>
    match a.1.translate (48 * d) true root q.1 .load with
    | (s1, .error (code, _)) => (s1, a.2 && decide (code ≠ 0))
    | (s1, .ok key) =>
      if !(isFar key) then (s1, a.2)
      else match s1.farAsk who key q.2 .read with
        | (s2, none) => (s2, false)
        | (s2, some _) => (s2, a.2)) (s, true)
/-- Locations of a pricking (Table 2.7). -/
def State.imgLocs (s : State) (im : Nat) : Nat := s.img im 0 2 + 1

/-- A scheduler fault (Table 19.4): kind, reason, where and the status of the done object. -/
structure SchedFault where
  kind : Nat
  reason : Nat
  at_ : Nat
  status : Nat
  deriving DecidableEq, Repr

/-- Axis sizes of a placement table, and the bytes of its member map (R145). -/
def State.rootAxes (s : State) (d : Nat) (root ptab : DWord) : List Nat :=
  let v := s.rootRead d root (ptab + 8) 8
  (List.range 4).map fun j => v / 2 ^ (16 * j) % 65536
/-- What the scheduler and the loader read and write of a candidate's memory stands ready: the start of its dump area, the header of its placement table,
its DTDs and its member map. -/
def State.candReady (s : State) (d : Nat) (x : Candidate) (root dump : DWord) : State × Bool :=
  let who := farSched x.rcb
  let ptab := s.rcb x.rcb 0x48
  match s.areasReady d who root ((dump, 32) :: if ptab = 0 then [] else [(ptab, 64)]) with
    | (s1, false) => (s1, false)
    | (s1, true) =>
      if ptab = 0 then (s1, true)
      else
        let n := (s1.rootAxes d root ptab).foldl (· * ·) 1
        s1.areasReady d who root [(ptab, 64 + 64 * dtdCount (s1.rootRead d root ptab 2)),
          (BitVec.ofNat 64 (s1.rootRead d root (ptab + 16) 8), 8 * Nat.min 65536 n)]
/-- The limits of a placement table (R145), the product of its axes held to the entries of its member map; one at address 0 is not used (DEDUCED,
log 33). -/
def State.tableFault (s : State) (d : Nat) (root ptab : DWord) : Option SchedFault :=
  if ptab = 0 then none
  else
    let n := s.rootRead d root ptab 2
    let ax := s.rootAxes d root ptab
    let size := ax.foldl (· * ·) 1
    if n < 1 ∨ n > 1024 then some ⟨4, 2, n, stError⟩
    else match ax.find? fun a => decide (a < 1) || decide (a > 2048) with
      | some a => some ⟨4, 3, a, stError⟩
      | none =>
        let map := Config.mapEntries s.tick (BitVec.ofNat 64 (s.rootRead d root (ptab + 16) 8))
        if size > 65536 ∨ size ≠ map then some ⟨4, 1, size, stError⟩ else none
/-- What makes a candidate impossible (R378): quota, a failed dependence, its description. A context admitted before is not judged again. -/
def State.candBad (s : State) (d : Nat) (x : Candidate) : Option SchedFault :=
  if x.reentry.isSome then none
  else match s.treeOf x.rcb with
    | .error _ => none
    | .ok t =>
      let job := s.effective t.part [t.job]
      let part := s.effective t.part []
      let me := s.effective t.part [t.job, x.rcb]
      let n := t.regions.length
      let isOver (v a b : Nat) : Bool := decide (v > Nat.min a b)
      if n > 384 then some ⟨2, 4, n, stError⟩
      else if isOver n job.bclus part.bclus then some ⟨2, 1, n, stError⟩
      else if isOver me.bcobj job.bcobj part.bcobj then some ⟨2, 2, me.bcobj, stError⟩
      else if isOver me.bmem job.bmem part.bmem then some ⟨2, 3, me.bmem, stError⟩
      else match [0, 1, 2, 3].find? fun i =>
          decide (s.depOf x.rcb i ≠ 0) && decide (s.depCount (s.depOf x.rcb i) ≠ 0) && decide (s.depStatus (s.depOf x.rcb i) ≠ stOk) with
        | some i => some ⟨3, i, s.depStatus (s.depOf x.rcb i), stAborted⟩
        | none => match s.tableFault d t.root (s.rcb x.rcb 0x48) with
          | some f => some f
          | none =>
            let locs := (t.regions.map fun r => s.imgLocs (s.rcb r 0x40).toNat).foldl (· + ·) 0
            if locs > 65536 then some ⟨4, 4, locs, stError⟩ else none

/-- What `candReady` says of a candidate with a good tree. -/
def State.treeReady (s : State) (d : Nat) (x : Candidate) : State × Bool := match s.treeOf x.rcb with
  | .error _ => (s, true)
  | .ok t => s.candReady d x t.root (s.effective t.part [t.job, x.rcb]).dump
/-- A record of 32 bytes at the start of a dump area (Table 18.6); not written where the area does not translate. -/
def State.dumpRecord (s : State) (d : Nat) (root dump : DWord) (kind reason site slot at_ : Nat) (image rcb : Nat) : State :=
  match s.translate (48 * d) true root dump .store with
  | (s1, .error _) => s1
  | (s1, .ok key) =>
    let ws : List DWord :=
      [BitVec.ofNat 64 (kind * 2 ^ 56 + reason % 256 * 2 ^ 48 + site % 64 * 2 ^ 42 + slot % 16 * 2 ^ 38 + at_ % 2 ^ 32),
       BitVec.ofNat 64 image, BitVec.ofNat 64 rcb, 0]
    if isFar key then s1.farTransfer key ws
    else ((s1.wrWords key ws).setProt key 32 (s1.protAt root dump)).countHbm key true

/-- CANDIDATE_FAULT (R378): the candidate of a queue is ended with its record, once what the scheduler needs of its memory is ready (R25). -/
def execCandidateFault (q : BitVec 4) (s : State) : Out :=
  let d := dieOf s.cur.cluster
  match (s.die d).cands.find? q.toNat with
  | none => .next s
  | some x => if !((s.treeReady d x).2) then .next (s.treeReady d x).1 else match s.candBad d x, s.treeOf x.rcb with
    | some f, .ok t =>
      let e := s.effective t.part [t.job, x.rcb]
      let s1 := ((s.farDone (farSched x.rcb)).setRcbState x.rcb 5).dumpRecord d t.root e.dump f.kind f.reason 0x3F 0 f.at_ 0 x.rcb
      .next ((s1.signalPa (s.rcb x.rcb 0x70).toNat 1 f.status).dropCand d q.toNat t.part)
    | _, _ => .next s

/-! ### Order of admission (R320, R321) -/

/-- The levels a candidate has risen by (R320). -/
def State.agedBy (s : State) (d : Nat) (x : Candidate) : Nat := (s.dieCycles d - x.readAt) / 2 ^ 20
/-- Every candidate of a die is brought to the level of its age. -/
def State.age (s : State) (d : Nat) : State := s.modDie d fun x => { x with cands := x.cands.map fun e => (e.1, { e.2 with level := s.agedBy d e.2 }) }
/-- WAITING_PRIORITY_AGING (R320): a candidate rises one level for each 2^20 die cycles since its entry was read. -/
def execWaitingPriorityAging (q : BitVec 4) (s : State) : Out :=
  let d := dieOf s.cur.cluster
  match (s.die d).cands.find? q.toNat with
  | none => .next s
  | some x => if x.level < s.agedBy d x then
      .next (s.modDie d fun y => { y with cands := y.cands.set q.toNat { x with level := x.level + 1 } })
    else .next s
/-- The effective priority of a candidate: that of its RCB, or for a context admitted before the one it holds. -/
def State.candPrio (s : State) (x : Candidate) : Nat := match x.reentry.bind s.ctx? with
  | some c => c.prio
  | none => match s.treeOf x.rcb with
    | .ok t => (s.effective t.part [t.job, x.rcb]).prio
    | .error _ => 0
def State.waitPrio (s : State) (x : Candidate) : Nat := Nat.min 15 (s.candPrio x + x.level)
/-- Candidates ready in their dependences (R318) and in what the scheduler reads of their memory (R25). Those of a context admitted before are not judged by their status again (R378). -/
def State.depReady (s : State) (d : Nat) : List (Nat × Candidate) :=
  (s.candsOf d).filter fun e =>
    (s.treeReady d e.2).2 && if e.2.reentry.isSome then [0, 1, 2, 3].all fun i => decide (s.depOf e.2.rcb i = 0) || decide (s.depCount (s.depOf e.2.rcb i) ≠ 0)
    else (s.candBad d e.2).isNone && s.depsMet e.2.rcb
/-- One candidate goes before another: higher waiting priority, smaller pass value, lower queue number. -/
def State.goesBefore (s : State) (d : Nat) (x y : Nat × Candidate) : Bool :=
  let px := s.waitPrio x.2
  let py := s.waitPrio y.2
  let ax := (s.die d).pass.get 0 (s.candPart x.2)
  let ay := (s.die d).pass.get 0 (s.candPart y.2)
  decide (px > py) || (decide (px = py) && (decide (ax < ay) || (decide (ax = ay) && decide (x.1 < y.1))))
def State.firstCand (s : State) (d : Nat) (l : List (Nat × Candidate)) : Option (Nat × Candidate) :=
  l.foldl (fun (b : Option (Nat × Candidate)) x => match b with
    | none => some x
    | some y => if s.goesBefore d x y then some x else b) none
/-- The candidate that the scheduler chooses: while one is held, that one or one of higher waiting priority (R321). -/
def State.chosen (s : State) (d : Nat) : Option (Nat × Candidate) :=
  let l := s.depReady d
  match (s.die d).heldQ.bind fun q => List.find? (fun (e : Nat × Candidate) => decide (e.1 = q)) l with
  | some h => s.firstCand d (l.filter fun e => decide (e.1 = h.1) || decide (s.waitPrio e.2 > s.waitPrio h.2))
  | none => s.firstCand d l

/-- A demand fits the budgets of its job and partition with those already admitted beneath them (R319). -/
def State.budgetFits (s : State) (t : Tree) (n : Nat) (me : Effective) : Bool :=
  let fits (node : Ctx → Bool) (e : Effective) : Bool :=
    let l := (s.ctxs.map Prod.snd).filter node
    let sum (f : Ctx → Nat) : Nat := (l.map f).foldl (· + ·) 0
    decide (n + sum Ctx.bclus ≤ e.bclus) && decide (me.bcobj + sum Ctx.bcobj ≤ e.bcobj) && decide (me.bmem + sum Ctx.bmem ≤ e.bmem)
  fits (fun x => decide (x.job = t.job)) (s.effective t.part [t.job]) && fits (fun x => decide (x.part = t.part)) (s.effective t.part [])

/-! ### Placement (R322, R323) -/

/-- The base of a share in an ME: the lowest that clears the shares of the resident contexts, if one does (R109; DESIGN CHOICE, log 34). -/
def State.shareFor (s : State) (c site len : Nat) : Option Nat :=
  let used := ((s.site c site).elems.map fun (e : Nat × Elem) => (e.2.shareBase, e.2.shareBase + e.2.share)).filter fun r => decide (r.1 < r.2)
  let ok (b : Nat) : Bool := decide (b + len ≤ 49152) && used.all fun r => decide (b + len ≤ r.1) || decide (r.2 ≤ b)
  (0 :: used.map Prod.snd).foldl (fun (best : Option Nat) b => if ok b then (match best with
    | some v => some (Nat.min v b)
    | none => some b) else best) none

/-- A region to be placed: its index, RCB, image, gang code and position, the locations before it, what was recorded of it (R329), and its effective
values (R322). -/
structure ToPlace where
  index : Nat
  rcb : Nat
  image : Nat
  gang : Nat
  gpos : Nat
  locBase : Nat
  nloc : Nat
  saved : Option Saved := none
  eff : Effective := {}
  deriving DecidableEq, Repr

/-- The rings a pricking declares. -/
def State.imgRings (s : State) (im : Nat) : List Nat := (List.range 16).filter fun n => (s.img im 0x30 2).testBit n
/-- A cluster has room for everything a snapshot recorded (R329): free ways for its tag entries, and accumulator slots and a coverage state that no
resident context has taken (DEDUCED, logs 27 and 76). -/
def Cluster.holdsAll (x : Cluster) (v : Saved) : Bool :=
  let free (n : Nat) : Nat := ((List.range 8).filter fun w => !(DWord.bits (x.tags.get (0 : DWord) (8 * n + w)) 63 63 = 1)).length
  let sets := v.tags.vals.map fun e => tagSet (e.bits 47 0)
  (sets.eraseDups.all fun n => decide (sets.count n ≤ free n)) &&
    v.mx.owner.all fun e => match x.mx.owner.find? e.1 with
      | some k => (x.regions.find? k).isNone
      | none => true
/-- The slot a region takes on a cluster, if the cluster and its die's scheduler are ready, it is not fenced, and it is free for the region and what
was recorded of it. -/
def State.freeSlot (s : State) (c : Nat) (p : Prick) (rings : List Nat) (saved : Option Saved) : Option Nat :=
  let x := s.cluster c
  let taken (f : Region → List Nat) (l : List Nat) : Bool := x.regions.any fun r => (f r.2).any fun t => l.contains t
  let cramped := match saved with
    | some v => !(x.holdsAll v)
    | none => false
  if !((s.die (dieOf c)).drdy.getLsbD (c % 48)) || !(s.schedReady (dieOf c)) || s.fenced c || taken Region.tiles (p.tiles.map TileDecl.tile) ||
    taken Region.rings rings || cramped then none
  else if (List.range 64).any fun site => decide (p.share site > 0) && (s.shareFor c site (p.share site)).isNone then none
  else [0, 1, 2, 3].find? fun k => (x.regions.find? k).isNone
/-- A region takes a slot: its tiles, rings and shares are reserved. -/
def State.reserve (s : State) (cid c k : Nat) (p : Prick) (rings : List Nat) (r : ToPlace) : State :=
  let rg : Region :=
    { cid := cid, index := r.index, rcb := r.rcb, image := r.image, locBase := r.locBase, nloc := r.nloc, gpos := r.gpos, gang := r.gang,
      tiles := p.tiles.map TileDecl.tile, rings := rings, eff := r.eff }
  let put (s : State) (site : Nat) : State :=
    let e : Elem := { typ := p.typ site, share := p.share site, shareBase := (s.shareFor c site (p.share site)).getD 0 }
    s.modSite c site fun x => { x with elems := x.elems.set k e }
  ((List.range 64).foldl put s).modCluster c fun x => { x with regions := x.regions.set k rg }
/-- A region is placed on cluster c, if it can. -/
def State.placeOn (s : State) (cid c : Nat) (r : ToPlace) : Option (State × Placed) :=
  let p := s.prick r.image 0
  let rings := s.imgRings r.image
  (s.freeSlot c p rings r.saved).map fun k => (s.reserve cid c k p rings r, ⟨c, k, r.rcb, r.image⟩)

/-- Rows and columns of a gang code (R323, Table 9.16). -/
def gangSize (g : Nat) : Option (Nat × Nat) := [(1, 1), (2, 1), (1, 2), (2, 2), (4, 1), (4, 2)][g]?
/-- The clusters of a rectangle whose first is c; none where it leaves the die. -/
def rectangle (c a b : Nat) : Option (List Nat) :=
  let n := c % 48
  if n / 8 + a > 6 ∨ n % 8 + b > 8 then none else some ((List.range (a * b)).map fun i => c + 8 * (i % a) + i / a)
/-- A gang is placed at cluster c as a whole. -/
def State.placeGang (s : State) (cid : Nat) (cs : List Nat) (rs : List ToPlace) : Option (State × List Placed) :=
  (cs.zip rs).foldl (fun (o : Option (State × List Placed)) q => o.bind fun a => (a.1.placeOn cid q.1 q.2).map fun b => (b.1, a.2 ++ [b.2])) (some (s, []))
/-- Places regions in order, gang by gang, on the dies of a list: where a die has no room the remaining regions go to the next. -/
def State.placeAll (cid : Nat) : Nat → State → List Nat → List ToPlace → List Placed → Option (State × List Placed)
  | 0, s, _, rs, l => if rs.isEmpty then some (s, l) else none
  | n + 1, s, ds, rs, l => match rs, ds with
    | [], _ => some (s, l)
    | _ :: _, [] => none
    | r :: _, d :: more => match gangSize r.gang with
      | none => none
      | some (a, b) =>
        let mine := rs.take (a * b)
        if mine.length < a * b ∨ mine.any (fun x => decide (x.gang ≠ r.gang)) then none
        else
          let try_ (i : Nat) : Option (State × List Placed) := (rectangle (48 * d + i) a b).bind fun cs => s.placeGang cid cs mine
          match (List.range 48).findSome? try_ with
          | some (s1, ps) => State.placeAll cid n s1 ds (rs.drop (a * b)) (l ++ ps)
          | none => State.placeAll cid n s more rs l

/-- Position of each region in its gang: gangs are consecutive siblings of one code. -/
def gangPositions : List Nat → Nat → List Nat
  | [], _ => []
  | g :: r, i =>
    let n := match gangSize g with
      | some (a, b) => a * b
      | none => 1
    i :: gangPositions r (if i + 1 < n ∧ r.head? = some g then i + 1 else 0)
/-- The regions of a list of RCBs, with the images they load. -/
def State.toPlace (s : State) (rs : List (Nat × Nat)) (saved : List Saved) (parent : Effective) : List ToPlace :=
  let gangs := rs.map fun r => (s.rcb r.1 0x90).bits 63 61
  let pos := gangPositions gangs 0
  let locs := rs.map fun r => s.imgLocs r.2
  (List.range rs.length).map fun i =>
    let r := rs.getD i (0, 0)
    { index := i, rcb := r.1, image := r.2, gang := gangs.getD i 0, gpos := pos.getD i 0, locBase := (locs.take i).foldl (· + ·) 0,
      nloc := locs.getD i 1, saved := saved[i]?, eff := s.inherit parent r.1 }
/-- The dies in the order in which a die's scheduler takes them (R322). -/
def dieOrder (d : Nat) : List Nat := (List.range 8).map fun i => (d + i) % 8
def State.place (s : State) (d cid : Nat) (rs : List ToPlace) : Option (State × List Placed) :=
  State.placeAll cid (rs.length + 8) s (dieOrder d) rs []

/-! ### Release (R326) -/

/-- A slot of a cluster gives up everything its context held there. -/
def State.releaseSlot (s : State) (cid : Nat) (q : Nat × Nat) : State :=
  let (c, k) := q
  let region := s.region? c k
  let mine (f : Region → List Nat) (t : Nat) : Bool := match region with
    | some r => (f r).contains t
    | none => false
  let site (x : Site) : Site :=
    { x with
      words := x.words.filter (fun w => decide (w.ctx.toNat ≠ k)), next := x.next.filter (fun w => decide (w.ctx.toNat ≠ k)), elems := x.elems.del k }
  let ours (i : Nat) : Bool := decide (i % 4 = k)
  (s.modCluster c fun x => { x with
    streams := x.streams.del k, regions := x.regions.del k, sites := x.sites.map fun e => (e.1, site e.2),
    tiles := x.tiles.filter fun e => !(mine Region.tiles e.1), tileUse := x.tileUse.filter fun e => !(mine Region.tiles e.1),
    rings := x.rings.filter fun e => !(mine Region.rings e.1),
    tags := x.tags.filter fun e => decide (DWord.bits e.2 61 60 ≠ k),
    toBuf := x.toBuf.filter fun e => !(ours e.1), mxBuf := x.mxBuf.filter fun e => !(ours e.1),
    snaps := x.snaps.filter fun e => !(ours (e / 32)),
    cc := x.cc.filter fun u => decide (u.k ≠ k), cf := x.cf.filter fun e => decide (e.1 / 2 ^ 64 ≠ cid),
    muStall := x.muStall.filter fun e => decide (e.1 ≠ cid),
    mx := { x.mx with
      buf := x.mx.buf.filter (fun h => decide (h.ctx ≠ k)), owner := x.mx.owner.filter fun e => decide (e.2 ≠ k) } }).settleFence c
/-- Every slot of a context is released, with its MU entries; an MU or aggregate that gets entries back is watched anew (R376). -/
def State.releaseCtx (s : State) (cid : Nat) : State := match s.ctx? cid with
  | none => s
  | some x =>
    let s1 := x.places.foldl (fun s q => s.releaseSlot cid q) s
    let clear (y : Cluster) : Cluster :=
      let l := y.stamps.filter fun p => decide (p.cid ≠ cid)
      if l.length < y.stamps.length then { y with stamps := l, muWait := 0, muReported := false } else y
    let held (d : Nat) : Bool := s.clusters.any fun e => decide (dieOf e.1 = d) && e.2.stamps.any fun p => decide (p.cid = cid)
    let calm (d : Nat) (y : Die) : Die :=
      let z := { y with aggStall := y.aggStall.filter fun e => decide (e.1 ≠ cid) }
      if held d then { z with aggWait := 0, aggReported := false } else z
    { s1 with clusters := s1.clusters.map fun e => (e.1, clear e.2), dies := s1.dies.map fun e => (e.1, calm e.1 e.2) }
/-- A context is gone: its demand returns to its job and partition. -/
def State.dropCtx (s : State) (cid : Nat) : State := { s with ctxs := s.ctxs.del cid }

/-! ### Loading (R324, R358) -/

/-- A tile entry as declared (Table 5.1). -/
def tileEntryOf (k : Nat) (t : TileDecl) : DWord :=
  BitVec.ofNat 64 (k % 4 * 2 ^ 60 + t.me % 32 * 2 ^ 55 + t.off / 64 % 1024 * 2 ^ 45 + (t.len / 64 - 1) % 128 * 2 ^ 38 + t.fmt % 16 * 2 ^ 34)
/-- A pricking that passed its checks is loaded in its slot: switch words, tile and ring entries, windows, location map, and digests. Its effective
values are those of its admission, which is the same step (R31). -/
def State.loadRegion (s : State) (q : Nat × Nat) : State :=
  let (c, k) := q
  match s.region? c k with
  | none => s
  | some r =>
    let im := r.image
    let p := s.prick im k
    let x := p.fixed
    let site (s : State) (n : Nat) : State :=
      (s.modSite c n fun y => { y with words := y.words ++ s.boxWords im n k }).modElem c n k fun e =>
        { e with win := p.windows x n, fixedA := p.fixedAs x n }
    let s1 := (List.range 64).foldl site s
    let keep (n : Nat) : Nat := if (s.img im 0x32 2).testBit n then 2 ^ 31 else 0
    let tiles (m : Map DWord) : Map DWord := p.tiles.foldl (fun m t => m.set t.tile (tileEntryOf k t)) m
    let rings (m : Map Word) : Map Word := r.rings.foldl (fun m n => m.set n (BitVec.ofNat 32 (keep n + k % 4 * 2 ^ 29))) m
    let r1 := r.under (s.staging im)
    let ti := ((List.range 4).filter fun n => p.isSource x n).map fun n => r1.locs.get noLoc n
    (s1.modCluster c fun y => { y with tiles := tiles y.tiles, rings := rings y.rings }).modRegion c k fun _ =>
      { r1 with entry := s.rd64 (hbm (im + 0x18)), tiSource := ti }
/-- The colours that the prickings of a context declare, and the ranges of the static ones from tag 0 in their order (R349). -/
def State.coloursOf (s : State) (images : List Nat) : Map ColourDecl :=
  images.foldl (fun m im => (List.range 64).foldl (fun (m : Map ColourDecl) c =>
    let d := s.imgColour im c
    if d.getLsbD 63 && (m.find? c).isNone then m.set c (colourDecl d) else m) m) []
def staticRanges (m : Map ColourDecl) : Map ColourAlloc :=
  (m.foldl (fun (a : Map ColourAlloc × Nat) e => if e.2.dyn then a
    else (a.1.set e.1 ⟨a.2, e.2.tags, grantWidth e.2.wid⟩, a.2 + e.2.tags)) ([], 0)).1
/-- The summaries of a pricking with context numbers (R28, R67, R71). -/
def State.summariesOf (s : State) (im base : Nat) : List Summary :=
  (List.range (s.img im 0x3C 4)).map fun i =>
    let o := s.img im 0x38 4 + 64 * i
    let w := s.img im o 8
    let comp (j : Nat) : Compo := ⟨(List.range 4).map fun n =>
      let v := s.img im (o + 8 + 12 * j + 3 * n) 3
      (v % 256, v / 256)⟩
    { src := base + w % 65536, dst := base + w / 65536 % 65536, comps := (List.range (w / 2 ^ 32 % 8)).map comp }
/-- The location fields of the member map (R146, Table 7.2). -/
def State.writeMembers (s : State) (q : Nat × Nat) (ps : List Placed) : State :=
  let (c, k) := q
  if s.ptabAt c k = 0 then s
  else
    let mmap := BitVec.ofNat 64 (s.vrd c k (s.ptabAt c k + 16#64) 8)
    (List.range (meshSize (s.meshAt c k))).foldl (fun s m =>
      let e := s.memberEntry c k m
      match ps[e.bits 63 48]? with
      | none => s
      | some p =>
        let v := e.bits 63 48 * 2 ^ 48 + Config.moduleId.toNat * 2 ^ 36 + dieOf p.cluster * 2 ^ 33 + p.cluster % 48 * 2 ^ 27 + p.slot * 2 ^ 25 + e.bits 24 0
        s.vwr c k (mmap + BitVec.ofNat 64 (8 * m)) (BitVec.ofNat 64 v)) s

/-- The first pricking of a context that the loader rejects (R358); its edges are bound only then (`State.unbound`). -/
def State.rejected (s : State) (d cid part : Nat) (ps : List Placed) : Option (Placed × LoadBad) :=
  let nd : Nat → Nat := match s.ctx? cid with
    | some x => s.dtdNd (48 * d) x.root x.ptab
    | none => fun _ => 3
  ps.findSome? fun p => (s.loadCheck (s.rcb part 0x40).toNat p.image p.slot nd fun _ _ => true).map fun b => (p, b)
/-- What a rejection at admission leaves (R358): reservations released, state 5, the record and the done object. -/
def State.reject (s : State) (d cid : Nat) (p : Placed) (b : LoadBad) : State := match s.ctx? cid with
  | none => s
  | some x =>
    let s1 := (((s.releaseCtx cid).dropCtx cid).setRcbState x.rcb 5).setRcbState p.rcb 5
    (s1.dumpRecord d x.root x.dump 1 b.reason b.site b.slot b.at_ p.image p.rcb).signalPa x.done 1 stError

/-! ### Admission (R319 to R324) -/

/-- The number of a new context: the next that no live context has (Table 10.2). -/
def State.newCid (s : State) : Nat :=
  ((List.range (s.ctxs.length + 1)).map fun i => (s.nextCid + i) % 65536).find? (fun n => (s.ctx? n).isNone) |>.getD s.nextCid
/-- The regions of a candidate: their RCBs and the images they load. -/
def State.candRegions (s : State) (x : Candidate) : List (Nat × Nat) := match x.reentry.bind s.ctx? with
  | some c => c.saved.map fun v => (v.region.rcb, v.region.image)
  | none => match s.treeOf x.rcb with
    | .ok t => t.regions.map fun r => (r, (s.rcb r 0x40).toNat)
    | .error _ => []
/-- A context as its RCBs describe it at admission. -/
def State.newCtx (s : State) (d a : Nat) (t : Tree) : Ctx :=
  let e := s.effective t.part [t.job, a]
  { rcb := a, job := t.job, part := t.part, root := t.root, prio := e.prio, parentPrio := (s.effective t.part [t.job]).prio, fdom := e.fdom,
    dump := e.dump, dumplen := e.dumplen, dumpkey := e.dumpkey, trapvec := e.trapvec, bclus := t.regions.length, bcobj := e.bcobj,
    bmem := e.bmem, ptab := s.rcb a 0x48, done := (s.rcb a 0x70).toNat, die := d }
/-- The bindings of a context follow its regions to their new places (R329). -/
def Ctx.rebind (x : Ctx) (f : Nat × Nat → Nat × Nat) : Ctx :=
  let edge (b : EdgeBind) : EdgeBind :=
    { b with c := (f (b.c, b.k)).1, k := (f (b.c, b.k)).2, toC := (f (b.toC, b.toK)).1, toK := (f (b.toC, b.toK)).2 }
  let dest (d : Nat × Nat × Nat × Nat) : Nat × Nat × Nat × Nat := ((f (d.1, d.2.1)).1, (f (d.1, d.2.1)).2, d.2.2)
  let node (n : CollNode) : CollNode := { n with dest := n.dest.map fun q => (q.1, dest q.2), group := n.group.map f }
  { x with edges := x.edges.map edge, nodes := x.nodes.map fun e => (e.1, node e.2) }
/-- The context of a candidate on its places: a new one with its colours, or the evicted one, whose bindings follow its regions (R329). -/
def State.ctxOf (s : State) (d : Nat) (t : Tree) (x : Candidate) (places : List ToPlace) (ps : List Placed) : Ctx :=
  match x.reentry.bind s.ctx? with
  | some c =>
    let moved (q : Nat × Nat) : Nat × Nat := match List.find? (fun (e : Saved × Placed) => decide (e.1.at_ = q)) (c.saved.zip ps) with
      | some e => (e.2.cluster, e.2.slot)
      | none => q
    Ctx.rebind { c with regions := ps, evicting := false } moved
  | none =>
    let colours := s.coloursOf (ps.map Placed.image)
    { s.newCtx d x.rcb t with
      regions := ps, colours := colours, allocs := staticRanges colours,
      summaries := places.flatMap fun r => s.summariesOf r.image r.locBase }
/-- The placed regions of a context are loaded and bound; the first that the loader rejects ends it (R358). -/
def State.loadCtx (s : State) (d cid : Nat) (again : Bool) (part : Nat) (ps : List Placed) : State := match s.rejected d cid part ps with
  | some (p, b) => s.reject d cid p b
  | none =>
    let qs := ps.map fun p => (p.cluster, p.slot)
    let s1 := qs.foldl State.loadRegion s
    let s2 := match qs with
      | q :: _ => s1.writeMembers q ps
      | [] => s1
    let s3 := if again then s2 else s2.bindCtx cid ps
    match s3.unbound cid ps with
    | some (p, b) => s3.reject d cid p b
    | none => s3
/-- A candidate is admitted where its demand fits: the state with its regions placed and loaded; none where it does not fit. -/
def State.admitCand (s : State) (d q : Nat) (x : Candidate) : Option State := match s.treeOf x.rcb with
  | .error _ => none
  | .ok t =>
    let again := x.reentry
    let cid := again.getD s.newCid
    let me := s.effective t.part [t.job, x.rcb]
    let saved := match again.bind s.ctx? with
      | some c => c.saved
      | none => []
    let places := s.toPlace (s.candRegions x) saved me
    if again.isNone && !(s.budgetFits t places.length me) then none
    else (s.place d cid places).map fun (s1, ps) =>
      let s2 := { s1 with ctxs := s1.ctxs.set cid (s.ctxOf d t x places ps), nextCid := if again.isSome then s1.nextCid else (cid + 1) % 65536 }
      let s3 := (x.rcb :: ps.map Placed.rcb).foldl (fun s a => s.setRcbState a 2) ((s2.farDone (farSched x.rcb)).takeNodes (x.rcb :: t.job :: t.part :: ps.map Placed.rcb))
      let weight := Nat.max 1 (s.effective t.part []).bclus
      let s4 := (s3.modDie d fun y => { y with pass := y.pass.set t.part (y.pass.get 0 t.part + 2 ^ 24 / weight) }).dropCand d q t.part
      (s4.countDie d 0x106).loadCtx d cid again.isSome t.part ps

/-- What the scheduler reads of its candidates' memory on other nodes is asked for (R334). -/
def State.askCands (s : State) (d : Nat) : State := (s.candsOf d).foldl (fun s e => (s.treeReady d e.2).1) s
/-- ADMIT (R320, R321): the candidate of a queue is admitted where the scheduler chooses it and it fits; chosen without room it is held. -/
def execAdmission (q : BitVec 4) (s : State) : Out :=
  let d := dieOf s.cur.cluster
  let s1 := (s.age d).askCands d
  match (if s.schedReady d then s1.chosen d else none) with
  | none => .next s1
  | some (n, x) =>
    if n ≠ q.toNat ∧ !(n = 16 ∧ q = 15) then .next s1
    else match s1.admitCand d n x with
      | some s2 => .next s2
      | none => .next (s1.modDie d fun y => { y with heldQ := some n })

/-! ### Restore of an evicted context (R329, R422) -/

/-- A token is bound to the slot its region has now. -/
def Token.rebind (k : Nat) (t : Token) : Token := { t with ctx := BitVec.ofNat 2 k }
def Entry.rebind (k : Nat) (e : Entry) : Entry := { a := e.a.map (Token.rebind k), b := e.b.map (Token.rebind k), c := e.c.map (Token.rebind k) }
def SlotSt.rebind (k : Nat) (x : SlotSt) : SlotSt :=
  { x with
    entries := x.entries.map fun e => (e.1, e.2.rebind k), latch := x.latch.map (Token.rebind k), group := x.group.map (Token.rebind k),
    groupB := x.groupB.map (Token.rebind k) }
def Run.rebind (k : Nat) (r : Run) : Run :=
  { r with
    a := r.a.map (Token.rebind k), b := r.b.map (Token.rebind k), x := r.x.map (Token.rebind k), ready := r.ready.map (Token.rebind k),
    stalled := none, retried := r.retried || r.stalled.isSome }
/-- The recorded state of an element in its new slot: it fetches its unit again (R29, R325), and stalled accesses are tried again. -/
def Elem.rebind (k : Nat) (now e : Elem) : Elem :=
  { e with
    shareBase := now.shareBase, unit := none, fetching := e.fetching || e.unit.isSome, inA := e.inA.map (Token.rebind k),
    inB := e.inB.map (Token.rebind k), inC := e.inC.map (Token.rebind k), inQ := e.inQ.map (Token.rebind k),
    slots := e.slots.map fun x => (x.1, x.2.rebind k), hdr := e.hdr.map fun x => (x.1, x.2.rebind k),
    pipe := e.pipe.map fun x => { x with tok := x.tok.rebind k }, out0 := e.out0.map (Token.rebind k), out1 := e.out1.map (Token.rebind k),
    runs := e.runs.map (Run.rebind k), waves := e.waves.map fun w => { w with tok := w.tok.rebind k, data := w.data.map (Token.rebind k), stalled := none },
    sbr := e.sbr.map fun b => (b.1, b.2.1.rebind k, b.2.2), stallSlot := e.stallSlot.map fun b => (b.1, 0),
    snapped := false, picots := [] }
def SwWord.rebind (k : Nat) (w : SwWord) : SwWord := { w with ctx := BitVec.ofNat 2 k, buf := w.buf.map (Token.rebind k) }
/-- What was recorded of the matrix unit is written back: the accumulator slots and the coverage state that the context had taken, and its commands
(R329, log 27). -/
def Mx.restore (now old : Mx) (k : Nat) : Mx :=
  let mine (n : Nat) : Bool := (old.owner.find? n).isSome
  let bit (n : Nat) : Nat := if (if mine n then old.ovr else now.ovr).getLsbD n then 2 ^ n else 0
  { now with
    cells := old.cells.foldl (fun (m : Map (BitVec 128)) e => m.set e.1 e.2) (now.cells.filter fun e => !(mine (e.1 / 2048))),
    invalid := (now.invalid.filter fun n => !(mine (n / 2048))) ++ old.invalid,
    ovr := BitVec.ofNat 16 ((List.range 16).foldl (fun a n => a + bit n) 0),
    cov := if mine 16 then old.cov else now.cov,
    buf := now.buf ++ old.buf.map fun h => { h with ctx := k, stream := h.stream.map fun x => (k, x.2) },
    owner := old.owner.foldl (fun m e => m.set e.1 k) now.owner }
/-- A field of two bits of a doubleword or a ring entry names the slot. -/
def tileSlot (k : Nat) (e : DWord) : DWord := setField e 61 60 k
def ringSlot (k : Nat) (w : Word) : Word := (w &&& 0x9FFFFFFF#32) ||| BitVec.ofNat 32 (k % 4 * 2 ^ 29)
/-- The objects of the commands that stand recorded in a stream's queues. -/
def Saved.objs (v : Saved) : List DWord := ((v.stream.queues.vals.flatten).map Cmd.obj).filter fun o => decide (o ≠ 0)
/-- What was recorded of a region finds room where the region is now: tag entries, the matrix unit and the completion file may have filled since it was
placed. -/
def State.restoreFits (s : State) (v : Saved) (q : Nat × Nat) : Bool :=
  let x := s.cluster q.1
  x.holdsAll v && decide ((v.objs.foldl (fun l o => cfAdd l (cfKey v.region.cid o)) x.cf).length ≤ 512)
/-- The recorded state of one region is written back where the region is now, its commands' completion-file entries with it (R377). -/
def State.restoreRegion (s : State) (v : Saved) (q : Nat × Nat) : State :=
  let (c, k) := q
  match s.region? c k with
  | none => s
  | some _ =>
    let site (s : State) (e : Nat × Site) : State :=
      let s1 := s.modSite c e.1 fun x => { x with
        words := x.words.filter (fun w => decide (w.ctx.toNat ≠ k)) ++ e.2.words.map (SwWord.rebind k),
        next := x.next ++ e.2.next.map (SwWord.rebind k), refetch := e.2.refetch }
      match e.2.elems.vals.head? with
      | none => s1
      | some o => s1.modElem c e.1 k fun x => Elem.rebind k x o
    let s1 := v.sites.foldl site s
    let at_ (m : Nat) : Nat := m / 65536 * 65536 + (s1.shareOf c k (m / 65536)).1 + m % 65536
    let spad (l : List Host.Cell) : List Host.Cell := v.spad.foldl (fun l e => writeByte l (at_ e.1) e.2) l
    let marks (l : Map Nat) : Map Nat := v.marks.foldl (fun l e => Map.put 0 l (at_ (4 * e.1) / 4) e.2) l
    let tag (x : Cluster) (e : DWord) : Cluster := match ((List.range 8).map fun w => 8 * tagSet (e.bits 47 0) + w).find? fun i =>
        !(DWord.bits (x.tags.get (0 : DWord) i) 63 63 = 1) with
      | some i => { x with tags := x.tags.set i (tileSlot k e) }
      | none => x
    let bufs (now old : Map (List Token)) : Map (List Token) :=
      old.foldl (fun m e => m.set (e.1 / 4 * 4 + k) (e.2.map (Token.rebind k))) now
    let cluster (x : Cluster) : Cluster :=
      let y := v.tags.foldl (fun x e => tag x e.2) x
      { y with
        spad := spad y.spad, spadMark := marks y.spadMark,
        tiles := v.tiles.foldl (fun m e => m.set e.1 (tileSlot k e.2)) y.tiles, tileUse := v.tileUse.foldl (fun m e => m.set e.1 e.2) y.tileUse,
        rings := v.rings.foldl (fun m e => m.set e.1 (ringSlot k e.2)) y.rings,
        toBuf := bufs y.toBuf v.toBuf, mxBuf := bufs y.mxBuf v.mxBuf, mx := y.mx.restore v.mx k,
        streams := y.streams.set k v.stream,
        cf := v.objs.foldl (fun l o => cfAdd l (cfKey v.region.cid o)) y.cf }
    (s1.modCluster c cluster).modRegion c k fun r =>
      { v.region with image := r.image, digests := r.digests, rcb := r.rcb, eff := r.eff, snapSent := false }

/-- The part of a region's dump area (R415): its address and length. -/
def Ctx.part? (x : Ctx) (n r : Nat) : DWord × Nat :=
  let q := x.dumplen / n * 65536
  (x.dump + BitVec.ofNat 64 (r * q), q)
/-- Bytes at virtual addresses of a partition, page by page. -/
def State.virtualBytes (s : State) (c : Nat) (root va : DWord) (n : Nat) : List Byte :=
  (chunks va.toNat n).flatMap fun q => match (s.translate c true root (va + BitVec.ofNat 64 q.1) .load).2 with
    | .ok key => bytesAt s.mem key q.2
    | .error _ => List.replicate q.2 0
/-- The seal of an eviction image verifies (R419, R422): signature, then tag. -/
def State.sealOk (s : State) (c : Nat) (x : Ctx) (at_ : DWord) : Bool :=
  let head := s.virtualBytes c x.root at_ 256
  let num (o n : Nat) : Nat := ((head.drop o).take n).foldr (fun b a => b.toNat + 256 * a) 0
  let len := num 8 8
  let all := s.virtualBytes c x.root at_ len
  let body := all.take (len - 2432)
  let cipher := (body.drop 256).take (body.length - 272)
  let tag := (body.drop (body.length - 16)).foldr (fun (b : Byte) a => b.toNat + 256 * a) 0
  let iv : BitVec 96 := BitVec.ofNat 32 (num 0x50 4) ++ BitVec.ofNat 64 (num 0x58 8)
  match s.enrolledKey x.dumpkey.toNat x.root 1 with
  | none => false
  | some e =>
    let plain := (List.range cipher.length).map fun i => Config.gcmPlain e.key iv head cipher i
    decide (len ≥ 2704) && decide (num 4 4 = 0x4C39504D) &&
      Config.mldsaVerify (List.ofFn Config.identityPub) (Config.sha3 body) ((all.drop (len - 2432)).take 2420) &&
      decide (BitVec.ofNat 128 tag = Config.gcmTag e.key iv head plain)

/-! ### Start (R197, R324, R329, R356) -/

/-- The initial frontiers of a region's sources (R197): their entries, under context numbers. -/
def Region.sourceUps (r : Region) : List Upd := r.tiSource.map fun l => ⟨r.locBase + l, Time.zero, 1⟩
/-- A stream as a region starts it (R197). -/
def startStream (entry trapvec spillbase spilllim : DWord) : Stream :=
  let r : Regs := { trapvec := trapvec, spillbase := spillbase &&& ~~~7#64, spilllim := spilllim &&& ~~~7#64 }
  { arch := r, view := r, pc := entry, phase := .ready }
/-- One region is set up, if its MU has the entries its sources need (element rule, R73); an entry block that fails ends the context (R356). -/
def State.setUpRegion (s : State) (cid : Nat) (q : Nat × Nat) : State :=
  let (c, k) := q
  match s.region? c k, s.ctx? cid with
  | some r, some x =>
    if r.setUp ∨ x.ending.isSome then s
    else
      let ups := r.sourceUps
      let who := 4096 * c + 3584 + k
      if !(s.muRoom cid ups false) then s.muWait cid who ups false
      else
        let entry := if r.entry = 0 then s.rcb x.rcb 0x40 else r.entry
        let st := { startStream entry r.eff.trapvec (s.rcb x.rcb 0x78) (s.rcb x.rcb 0x80) with phase := .idle }
        match s.checkJump c k entry with
        | (s1, some (code, d, a)) => if code = 0 then s1 else s1.faultEnd cid code d entry a 0
        | (s1, none) =>
          let s2 := (((s1.muApply cid ups).muGo cid who ups).modStream c k fun _ => st).modRegion c k fun r => { r with setUp := true }
          s2.modCtx cid fun y => { y with sources := ups.foldl (fun m u => m.set u.loc [u.time]) y.sources }
  | _, _ => s
/-- Every region is set up: the context and region RCBs show state 3, and the streams start at their entry blocks (R324). -/
def State.startAll (s : State) (cid : Nat) (x : Ctx) : State :=
  let s1 := (x.rcb :: x.regions.map Placed.rcb).foldl (fun s a => s.setRcbState a 3) s
  let go (s : State) (q : Nat × Nat) : State :=
    (s.modStream q.1 q.2 fun st => { st with phase := .ready }).modRegion q.1 q.2 fun r => { r with started := true }
  (x.places.foldl go s1).modCtx cid fun y => { y with running := true }

/-- The images of an evicted context stand ready to be read (R25). -/
def State.imagesReady (s : State) (x : Ctx) : State × Bool :=
  (List.range x.saved.length).foldl (fun (a : State × Bool) i =>
    let c := (x.places.getD i (0, 0)).1
    let at_ := (x.part? x.saved.length i).1
    match a.1.areasReady (dieOf c) (farSched x.rcb) x.root [(at_, 256)] with
    | (s1, false) => (s1, false)
    | (s1, true) =>
      let len := ((s1.virtualBytes c x.root at_ 256).drop 8 |>.take 8).foldr (fun b a => b.toNat + 256 * a) 0
      let (s2, ok) := s1.areasReady (dieOf c) (farSched x.rcb) x.root [(at_, Nat.min len (x.part? x.saved.length i).2)]
      (s2, a.2 && ok)) (s, true)
/-- An evicted context goes on where its pointstamps find entries: seals are checked first (R422), then every recorded state is written back. One that was
evicted before it had started is set up and started as any other. -/
def State.restoreCtx (s : State) (cid : Nat) (x : Ctx) : State :=
  let n := x.saved.length
  let begun := x.saved.all fun v => v.region.started
  if !((s.imagesReady x).2) then (s.imagesReady x).1
  else match (List.range n).find? fun i => !(s.sealOk ((x.places.getD i (0, 0)).1) x (x.part? n i).1) with
  | some i => s.faultEnd cid 0x0A 2 0 (x.part? n i).1 0
  | none =>
    let ups := x.savedStamps.map fun p => (⟨p.loc, p.time, p.count⟩ : Upd)
    if !(s.muRoom cid ups false) then s.muWait cid (4096 * (x.places.headD (0, 0)).1 + 3588) ups false
    else if !((x.saved.zip x.places).all fun e => s.restoreFits e.1 e.2) then s
    else
      let s1 := ((s.muApply cid ups).muGo cid (4096 * (x.places.headD (0, 0)).1 + 3588) ups)
      let s2 := (x.saved.zip x.places).foldl (fun s e => s.restoreRegion e.1 e.2) s1
      let s3 := if begun then (x.rcb :: x.regions.map Placed.rcb).foldl (fun s a => s.setRcbState a 3) s2 else s2
      (s3.farDone (farSched x.rcb)).modCtx cid fun y => { y with running := begun, saved := [], savedStamps := [] }

/-- CONTEXT_START (R324, R329): regions are set up, and once all are, they start. -/
def execContextStart (cid : Nat) (s : State) : Out := match s.ctx? cid with
  | none => .next s
  | some x =>
    if x.regions.isEmpty ∨ x.ending.isSome ∨ x.running then .next s
    else if !x.saved.isEmpty then .next (s.restoreCtx cid x)
    else
      let s1 := x.places.foldl (fun s q => s.setUpRegion cid q) s
      let all := x.places.all fun q => match s1.region? q.1 q.2 with
        | some r => r.setUp
        | none => false
      let fine := match s1.ctx? cid with
        | some y => y.ending.isNone
        | none => false
      .next (if all && fine then s1.startAll cid x else s1)

/-! ### Retirement (R326) -/

/-- A sink has seen EOS on every colour it consumes: on its fixed colour, else on every colour it has taken a token of (DEDUCED, log 35). -/
def State.sinkEnded (s : State) (c k site slot : Nat) (fixed : Option Nat) : Bool := match s.elem? c site k with
  | none => true
  | some e =>
    let x := e.slot slot
    (match fixed with
     | some col => x.sawEos.contains col
     | none => true) && x.taken.isEmpty && ([0, 1, 2].all fun p => (e.port p).all fun t => decide (t.slot.toNat ≠ slot))
def State.sinksEnded (s : State) (q : Nat × Nat) : Bool := match s.region? q.1 q.2 with
  | none => true
  | some r =>
    let p := s.prick r.image q.2
    let x := p.fixed
    p.slots.all fun e => !(e.2.2.isSink) || s.sinkEnded q.1 q.2 e.1 e.2.1 (x.inCol p e.1 e.2.1 0)
/-- A context may retire. -/
def State.mayRetire (s : State) (cid : Nat) (x : Ctx) : Bool :=
  x.ending.isNone && !x.regions.isEmpty && x.saved.isEmpty &&
    (x.places.all fun q => decide ((s.stream q.1 q.2).phase = .exited) && s.sinksEnded q) && (s.stampsOf cid).isEmpty
/-- A queue of a die holds an entry for a job: a candidate, or an entry not yet read. -/
def State.queuesHold (s : State) (job : Nat) : Bool := (List.range 8).any fun d =>
  let x := s.die d
  x.cands.any (fun e => decide ((s.rcb e.2.rcb 8).toNat = job)) || (List.range 16).any fun q =>
    let base := x.lqbase.get (0 : DWord) q
    let head := x.lqhead.get (0 : BitVec 9) q
    let n := (x.lqntf.get (0 : BitVec 9) q - head).toNat
    (List.range n).any fun i =>
      let e := s.rd (hbm (base.bits 63 11 * 2 ^ 11 + 8 * ((head.toNat + i) % 256))) 8
      rcbOk e && decide (s.rcbLevel e = 2) && decide ((s.rcb e 8).toNat = job)
/-- Every context child of a job has retired. -/
def State.childrenRetired (s : State) : Nat → Nat → Bool
  | 0, _ => true
  | n + 1, a => decide (a = 0) || !(rcbOk a) || (decide (s.rcbState a = 4) && s.childrenRetired n (s.rcb a 0x18).toNat)
/-- A job is done after its last context child (R326). -/
def State.jobDone (s : State) (job : Nat) : State :=
  if s.childrenRetired 65536 (s.rcb job 0x10).toNat && !(s.queuesHold job) then s.signalPa (s.rcb job 0x70).toNat 1 stOk else s
/-- RETIRE (R326): resources, demand, state 4, the done object, and the job's. -/
def execRetire (cid : Nat) (s : State) : Out := match s.ctx? cid with
  | none => .next s
  | some x =>
    if !(s.mayRetire cid x) then .next s
    else
      let s1 := (s.releaseCtx cid).dropCtx cid
      let s2 := (x.rcb :: x.regions.map Placed.rcb).foldl (fun s a => s.setRcbState a 4) s1
      .next ((s2.signalPa x.done 1 stOk).jobDone x.job)

end Sys2Proof.Machine
end

