-- ==== Sys2Proof/Machine/SeqControl.lean ====
section
/-! DEFINITION. Control transfer, traps, exit and the system instructions (R172, R198, R214, R215, R231 to R235). -/
namespace Sys2Proof.Machine

/-- Taken when p is set, or clear when neg is 1 (R172); otherwise the block goes on. -/
def execBr (p : BitVec 3) (n : BitVec 1) (o : BitVec 22) (s : State) : Out :=
  let st := s.me
  if st.view.rp p != decide (n = 1) then .next (s.transfer st (branchTarget st o)) else .next (s.seqPure fun st => st)

/-- Jump (R214). -/
def execJ (o : BitVec 26) (s : State) : Out := .next (s.transfer s.me (branchTarget s.me o))

/-- The push of the fall-through address is buffered and takes effect at commit (R214, R215). -/
def Stream.pushRa (st : Stream) : Stream := st.addEff (.push st.fallThrough)

/-- Call (R214). -/
def execCall (o : BitVec 26) (s : State) : Out := .next (s.transfer s.me.pushRa (branchTarget s.me o))

/-- A taken transfer to a register's value, which must be a multiple of 4 (Table 18.1, MISALIGN 2, R355). -/
def jumpReg (s : State) (st : Stream) (target : DWord) : Out :=
  if target.toNat % 4 = 0 then .next (s.transfer st target)
  else match s.checkJump s.cur.cluster s.cur.ctx target with
    | (s1, some (0, _, _)) => .next s1
    | (s1, some (code, d, a)) => .next (s1.trapJump code d a)
    | (s1, none) => .next s1

/-- Jump to s(a) (R172). -/
def execJr (a : BitVec 6) (s : State) : Out := jumpReg s s.me (s.me.view.rs a)
/-- Call to s(a) (R172). -/
def execCallr (a : BitVec 6) (s : State) : Out := jumpReg s s.me.pushRa (s.me.view.rs a)

/-- Pops the return stack; with none on chip the newest spilled entry is loaded (R215). SPILL 2 with nothing to return to. -/
def execRet (s : State) : Out :=
  let st := s.me
  match st.view.rstk with
  | ra :: rest => jumpReg s { st with view := { st.view with rstk := rest }, isRet := true } ra
  | [] =>
    if st.view.nspill = 0 then .next (s.trapJump 6 2 st.view.spillbase)
    else
      let va := st.view.spillbase - 8
      match s.loadView va 8 .load with
      | (s1, .error (code, det)) => .next (if code = 0 then s1.waitHere else s1.trapJump code det va)
      | (s1, .ok ra) =>
        let st1 := s1.me
        jumpReg s1 { st1 with view := { st1.view with spillbase := va, nspill := st1.view.nspill - 1 }, isRet := true }
          (BitVec.ofNat 64 ra)

/-- TRAP: code 0x0B, detail 0, the argument s(a) read through the block view (R232). -/
def execTrap (a : BitVec 6) (s : State) : Out := .next (s.trapHere 0x0B 0 (s.me.view.rs a))

/-- RETI: a transfer to trapblk whose commit clears th (R233); ILLEGAL 4 with th = 0. -/
def execReti (s : State) : Out :=
  let st := s.me
  if !st.arch.th then .next (s.trapHere 1 4 0xF0000030)
  else .next (s.transfer { st with isReti := true } st.view.trapblk)

/-- EXIT: a taken transfer whose block commits; then the stream fetches nothing more (R234). -/
def execExit (s : State) : Out :=
  .next (s.modMe fun st => { st with isExit := true, taken := true, waiting := false, phase := .committing, next := st.pc })

/-- TRACE: a user entry at commit (R235). -/
def execTrace (a : BitVec 6) (s : State) : Out := .next (s.seqPure fun st => st.addEff (.trace (st.view.rs a)))
/-- NOP (R235). -/
def execNop (s : State) : Out := .next (s.seqPure fun st => st)
/-- YIELD: a transfer to the fall-through block; at its commit the stream goes behind the others of its priority (R235, R52). -/
def execYield (s : State) : Out :=
  .next (s.transfer { s.me with isYield := true, yields := s.me.yields + 1 } s.me.fallThrough)

/-! ### System registers (Table 10.2) -/

/-- The stream register (0x00B). -/
def streamReg (s : State) (r : Regs) : DWord :=
  let c := s.cur.cluster
  r.nspill ++ BitVec.ofNat 5 r.rstk.length ++ BitVec.ofBool r.th ++ Config.moduleId ++ BitVec.ofNat 3 (dieOf c) ++
    BitVec.ofNat 6 (c % 48) ++ 0#3 ++ BitVec.ofNat 2 s.cur.ctx

/-- The ready register (0x020, R340). -/
def readyReg (s : State) : DWord :=
  let cd := (List.range 8).foldl (fun a d => a + (if (s.die d).drdy.getLsbD 48 then 2 ^ d else 0)) 0
  let iod := (List.range 2).foldl (fun a i => a + (if (s.iod i).irdy.getLsbD 27 then 2 ^ i else 0)) 0
  BitVec.ofNat 64 (iod * 2 ^ 56 + cd * 2 ^ 48 + (s.die (dieOf s.cur.cluster)).drdy.bits 47 0)

/-- The latest buffered write of evsel n or evcnt n in the block. -/
def bufferedSel (effs : List (Nat × Eff)) (n : Nat) : Option (BitVec 16) :=
  (effs.filterMap fun e => match e.2 with
    | .evsel m v => if m = n then some v else none
    | _ => none).getLast?
def bufferedCnt (effs : List (Nat × Eff)) (n : Nat) : Option (BitVec 48) :=
  (effs.filterMap fun e => match e.2 with
    | .evcnt m v => if m = n then some v else none
    | _ => none).getLast?

/-- The value of a system register through the block view; an unassigned number reads zero (R198). -/
def sysRead (s : State) (st : Stream) (n : Nat) : DWord :=
  let r := st.view
  let c := s.cur.cluster
  if 0x010 ≤ n ∧ n ≤ 0x017 then
    (((bufferedSel st.effs (n - 0x010)).getD ((s.cluster c).evsel.get 0 (n - 0x010))).zeroExtend 64)
  else if 0x018 ≤ n ∧ n ≤ 0x01F then
    (((bufferedCnt st.effs (n - 0x018)).getD ((s.cluster c).evcnt.get 0 (n - 0x018))).zeroExtend 64)
  else match n with
    | 0x000 => match s.ctxAt c s.cur.ctx with
      | some x => BitVec.ofNat 64 (x.fdom % 256 * 2 ^ 16 + s.cidAt c s.cur.ctx % 2 ^ 16)
      | none => 0
    | 0x001 => match s.region? c s.cur.ctx with
      | some g => BitVec.ofNat 64 g.rcb
      | none => 0
    | 0x002 => r.fpcr &&& 0xFF#64
    | 0x003 => r.trapvec
    | 0x004 => r.cause.zeroExtend 64
    | 0x005 => r.trapblk
    | 0x006 => r.trapidx.zeroExtend 64
    | 0x007 => r.trapaddr
    | 0x008 => r.spillbase
    | 0x009 => r.spilllim
    | 0x00A => BitVec.ofNat 64 (s.cyclesOf c)
    | 0x00B => streamReg s r
    | 0x00C => r.trcctl.zeroExtend 64
    | 0x020 => readyReg s
    | _ => 0

/-- The write of the writable fields of a system register; a read-only or unassigned number ignores it (R7, R198). -/
def sysWrite (st : Stream) (n : Nat) (v : DWord) : Stream :=
  if 0x010 ≤ n ∧ n ≤ 0x017 then st.addEff (.evsel (n - 0x010) (eventCode (v.truncate 16)))
  else if 0x018 ≤ n ∧ n ≤ 0x01F then st.addEff (.evcnt (n - 0x018) (v.truncate 48))
  else match n with
    | 0x002 => { st with view := { st.view with fpcr := v &&& 0xFF#64 } }
    | 0x003 => { st with view := { st.view with trapvec := v &&& ~~~3#64 } }
    | 0x004 => { st with view := { st.view with cause := v.truncate 16 } }
    | 0x005 => { st with view := { st.view with trapblk := v } }
    | 0x006 => { st with view := { st.view with trapidx := v.truncate 7 } }
    | 0x007 => { st with view := { st.view with trapaddr := v } }
    | 0x008 => { st with view := { st.view with spillbase := v &&& ~~~7#64 } }
    | 0x009 => { st with view := { st.view with spilllim := v &&& ~~~7#64 } }
    | 0x00C => { st with view := { st.view with trcctl := v.truncate 3 } }
    | _ => st

/-- MFS: the register's value to s(d), untainted (R198). -/
def execMfs (d r : BitVec 6) (sz : BitVec 4) (s : State) : Out :=
  .next (s.seqPure fun st => st.wr d (sysRead s st (sysNum r sz)) false)
/-- MTS: s(d) to the register's writable fields (R198). -/
def execMts (d r : BitVec 6) (sz : BitVec 4) (s : State) : Out :=
  .next (s.seqPure fun st => sysWrite st (sysNum r sz) (st.view.rs d))

end Sys2Proof.Machine
end

