-- ==== Sys2Proof/Machine/PostMortem.lean ====
section
/-! DEFINITION. Post-mortem and eviction images (R415 to R422), the end of a faulted context (R364), eviction (R328), and the watchdogs of
the meridian unit (R376). -/
namespace Sys2Proof.Machine

/-! ### Bytes of the sections (R417, Tables 24.3 and 24.4) -/

def wordBytes (v : DWord) : List Byte := leBytes 8 v.toNat
/-- A list filled with zero bytes to a length. -/
def padTo (n : Nat) (l : List Byte) : List Byte := l ++ List.replicate (n - l.length) 0
/-- A time in 12 bytes (R63). -/
def timeBytes (t : Time) : List Byte := leBytes 4 t.c0.toNat ++ leBytes 2 t.c1.toNat ++ leBytes 2 t.c2.toNat ++ leBytes 4 t.c3.toNat
/-- A token in header-then-lanes form. -/
def Token.image (t : Token) : List Byte := wordBytes t.header ++ t.lanes.flatMap fun l => leBytes 4 l.toNat

/-- Section 0: the stream record (Table 24.4). -/
def State.streamRecord (s : State) (c k : Nat) : List Byte :=
  let st := s.stream c k
  let r := st.arch
  let here : State := { s with cur := { s.cur with cluster := c, ctx := k } }
  let plain : Stream := { st with view := r, effs := [] }
  let taint := (List.range 64).foldl (fun a i => a + (if r.taintOf (BitVec.ofNat 6 i) then 2 ^ i else 0)) 0
  let base : Nat := match s.region? c k with
    | some g => g.locBase
    | none => 0
  let hz (i : Nat) : List Byte :=
    let h := r.rh (BitVec.ofNat 3 i)
    let bind : Nat := (if h.bound then (base + h.loc.toNat) % 2 ^ 16 else h.loc.toNat) + (if h.src then 2 ^ 16 else 0) + (if h.bound then 2 ^ 17 else 0)
    leBytes 8 (h.els.length % 16 + bind * 2 ^ 32) ++ padTo 96 (h.els.flatMap timeBytes)
  let state : Nat := if st.phase = .exited then 2 else if r.th then 3 else if st.waiting || st.waited then 1 else 0
  padTo 2048 (
    (List.range 64).flatMap (fun i => wordBytes (r.rs (BitVec.ofNat 6 i))) ++ leBytes 8 taint ++ leBytes 8 r.p.toNat ++ wordBytes st.pc ++
    (List.range 33).flatMap (fun n => wordBytes (sysRead here plain n)) ++
    (List.range 8).flatMap (fun i => timeBytes (r.rt (BitVec.ofNat 3 i))) ++ (List.range 8).flatMap hz ++
    padTo 128 (r.rstk.flatMap wordBytes) ++ leBytes 8 state)

/-- Section 1: write positions and rings, oldest entry first. -/
def Stream.ringBytes (st : Stream) : List Byte :=
  let ring (l : List (DWord × DWord)) : List Byte := padTo 4096 (l.flatMap fun e => wordBytes e.1 ++ wordBytes e.2)
  leBytes 8 st.brPos ++ leBytes 8 st.memPos ++ ring st.brRing ++ ring st.memRing

/-- What the matrix unit holds of a context slot: the accumulator slots and the coverage state that it took, and its commands (R328, log 27). -/
def Mx.ofCtx (m : Mx) (k : Nat) : Mx :=
  let mine (n : Nat) : Bool := decide (m.owner.find? n = some k)
  { m with
    cells := m.cells.filter (fun e => mine (e.1 / 2048)), invalid := m.invalid.filter (fun n => mine (n / 2048)),
    cov := if mine 16 then m.cov else none, buf := m.buf.filter (fun h => decide (h.ctx = k)), owner := m.owner.filter fun e => decide (e.2 = k) }

/-- Numbers as a token of two lanes each, low lane first. -/
def numbersToken (l : List Nat) : Token := { kind := kDense, lanes := l.flatMap fun n => [BitVec.ofNat 32 n, BitVec.ofNat 32 (n / 2 ^ 32)] }
/-- The tokens that an element records: matching entries, latched values, groups with their running values, accumulators, output registers, and of its runs
the counter levels (R328) and the tokens not yet sent. How values that are no tokens stand there is not said (DESIGN CHOICE, log 132). -/
def Elem.recordTokens (e : Elem) : List Token :=
  let slot (x : SlotSt) : List Token :=
    x.entries.vals.flatMap (fun n => n.toks.map Prod.snd) ++ x.latch.toList ++ x.group ++ x.groupB ++
      (if x.vals.isEmpty then [] else [numbersToken (x.vals.map fun v => (v % 2 ^ 64).toNat)])
  let acc (a : List Word) : Token := { kind := kDense, lanes := a }
  let run (r : Run) : List Token := numbersToken [r.desc, r.base.toNat, r.pos, r.emitted, r.moved, r.wrote] :: r.ready
  e.slots.vals.flatMap slot ++ e.accs.vals.map acc ++ e.pipe.map PipeItem.tok ++ e.out0 ++ e.out1 ++ e.runs.flatMap run
/-- What the matrix unit records of a context slot: cells with their numbers, invalid cells, OVR, the coverage state, and the commands (log 132). -/
def Mx.recordBytes (m : Mx) (k : Nat) : List Byte :=
  let x := m.ofCtx k
  let table (l : List (Nat × Nat)) : List Byte := leBytes 8 l.length ++ l.flatMap fun e => leBytes 8 e.1 ++ leBytes 16 e.2
  let nums {w : Nat} (t : Map (BitVec w)) : List (Nat × Nat) := t.map fun e => (e.1, e.2.toNat)
  let cov : List Byte := match x.cov with
    | none => []
    | some v => leBytes 8 v.e ++ table (nums v.best) ++ table (nums v.weight) ++ table (nums v.gains) ++ table (v.valid.map fun n => (n, 1)) ++
        table (nums v.keys) ++ table (nums v.index) ++ leBytes 4 (v.anchor % 2 ^ 32).toNat ++ leBytes 4 (if v.ovr then 1 else 0)
  table (nums x.cells) ++ table (x.invalid.map fun n => (n, 1)) ++ leBytes 8 x.ovr.toNat ++ cov ++
    x.buf.flatMap fun h => leBytes 4 h.w0.toNat ++ leBytes 4 h.w1.toNat
/-- A unit record: its index, kind and length, then its content. Kinds are the types of elements, and 4 for a box, 5 for the MX and 6 for a TO port
(DESIGN CHOICE, log 132). -/
def unitRecord (unit kind : Nat) (l : List Byte) : List Byte := leBytes 8 (unit * 2 ^ 56 + kind * 2 ^ 48 + (l.length + 8) % 2 ^ 32) ++ l
/-- Channel-state tokens of a buffer: site, port or switch word, and position, then the token. -/
def channelState (site chan : Nat) (l : List Token) : List Byte :=
  (List.range l.length).flatMap fun i => leBytes 8 (site * 2 ^ 56 + chan * 2 ^ 32 + i) ++ (l.getD i default).image
/-- Section 2: the fabric snapshot. -/
def State.fabricBytes (s : State) (c k : Nat) : List Byte :=
  let x := s.cluster c
  let elems := (List.range 64).flatMap fun n => match s.elem? c n k with
    | some e => unitRecord n e.typ (e.recordTokens.flatMap Token.image)
    | none => []
  let boxes := (List.range 64).flatMap fun n => unitRecord n 4 []
  let tos := (List.range 4).flatMap fun n => unitRecord (0x41 + n) 6 ((x.toBuf.get [] (4 * n + k)).flatMap Token.image)
  let cmds := [0, 1].flatMap fun n => channelState 0x40 n (x.mxBuf.get [] (4 * n + k))
  let chans := (List.range 64).flatMap fun n =>
    ((s.site c n).words.filter fun w => decide (w.ctx.toNat = k)).flatMap (fun w => channelState n (4 + w.pos % 24) w.buf) ++
      (match s.elem? c n k with
       | some e => [0, 1, 2, 3].flatMap fun p => channelState n p (e.port p)
       | none => [])
  elems ++ boxes ++ unitRecord 0x40 5 (x.mx.recordBytes k) ++ tos ++ chans ++ cmds
/-- Section 3: the scratchpad shares. -/
def State.shareBytes (s : State) (c k : Nat) : List Byte := (List.range 32).flatMap fun m =>
  let (b, n) := s.shareOf c k m
  leBytes 8 n ++ bytesAt (s.cluster c).spad (m * 65536 + b) n
/-- A pointstamp in 24 bytes (Table 14.10). -/
def stampBytes (p : Stamp) : List Byte := leBytes 2 p.loc ++ leBytes 2 0 ++ timeBytes p.time ++ leBytes 4 (p.count % 2 ^ 32).toNat ++ leBytes 4 0
/-- Section 4: tile, ring and tag entries, then pointstamps. -/
def State.tableBytes (s : State) (c k cid : Nat) : List Byte := match s.region? c k with
  | none => []
  | some r =>
    let x := s.cluster c
    r.tiles.flatMap (fun t => wordBytes (x.tile t)) ++ r.rings.flatMap (fun n => leBytes 8 (x.ring n).toNat) ++
      (x.tags.vals.filter fun e => decide (DWord.bits e 61 60 = k)).flatMap wordBytes ++
      (x.stamps.filter fun p => decide (p.cid = cid)).flatMap stampBytes
/-- The objects of section 5, with their lengths: completion objects with an entry of the context, as it stood when its fault end began, then the last
16 barriers armed. -/
def State.objectsOf (s : State) (c k cid : Nat) : List (Nat × Nat) :=
  let was := match s.ctx? cid with
    | some x => (x.objs.filter fun o => decide (o.1 = c)).map Prod.snd
    | none => []
  let held := (was ++ (((s.cluster c).cf.map Prod.fst).filter fun o => decide (o / 2 ^ 64 = cid))).eraseDups
  held.map (fun o => (o % 2 ^ 64, 16)) ++ (s.stream c k).armed.map fun a => (a, 32)
/-- Section 5. -/
def State.objectBytes (s : State) (c k cid : Nat) : List Byte := (s.objectsOf c k cid).flatMap fun o =>
  leBytes 8 o.1 ++ s.virtualBytes c (s.rootAt c k) (BitVec.ofNat 64 o.1) o.2
/-- Section 6: engine commands not issued, those that a fault end has discarded too, each as queue, word count and words. -/
def Stream.queueBytes (st : Stream) : List Byte := (((List.range 9).flatMap fun q => st.queues.get [] q) ++ st.dropped).flatMap fun x =>
  let ws := [x.a, x.obj, x.c].flatMap (fun w => leBytes 8 w.toNat) ++ x.lanes.flatMap fun l => leBytes 4 l.toNat
  leBytes 4 x.q ++ leBytes 4 ((ws.length + 3) / 4) ++ ws
/-- Section 7: fault records of the context still outstanding. -/
def State.recordBytes (s : State) (d cid : Nat) : List Byte :=
  ((s.die d).records.filter fun r => decide (r.cid = cid)).flatMap fun r => r.words.flatMap wordBytes

/-! ### The image (R415 to R418) -/

/-- Sections laid out from an offset on 64-byte boundaries; one that does not fit before the limit is omitted (R417): offset and bytes. -/
def layOut (limit : Nat) : Nat → List (List Byte) → List (Option (Nat × List Byte))
  | _, [] => []
  | at_, l :: r =>
    let o := (at_ + 63) / 64 * 64
    if l.isEmpty ∨ o + l.length > limit then none :: layOut limit at_ r else some (o, l) :: layOut limit (o + l.length) r
def up64 (n : Nat) : Nat := (n + 63) / 64 * 64

/-- What an image is made of: its kind, cause and where the context stood. -/
structure ImageInfo where
  kind : Nat
  cause : Nat := 0
  blk : DWord := 0
  idx : Nat := 0
  addr : DWord := 0

/-- The pieces of a part within 64 KiB pages: address and length. A part begins where its dump address puts it, which need not be a page's start. -/
def pagesOf (at_ : DWord) (q : Nat) : List (DWord × Nat) :=
  let a := at_.toNat
  if q = 0 then []
  else (List.range ((a + q - 1) / 65536 + 1 - a / 65536)).map fun i =>
    let lo := Nat.max a ((a / 65536 + i) * 65536)
    (BitVec.ofNat 64 lo, Nat.min (a + q) ((a / 65536 + i + 1) * 65536) - lo)
/-- The pages of a part must be readable and writable, with aperture 0 or 1 (R416): their homes with the bytes of the part there, or none. A page that
may not be written so keeps its a and d. -/
def State.checkPart (s : State) (c : Nat) (root at_ : DWord) (q : Nat) : State × Option (List (Nat × Nat)) :=
  (pagesOf at_ q).foldl (fun (a : State × Option (List (Nat × Nat))) e => match a.2 with
    | none => a
    | some l =>
      if !(canonical e.1) then (a.1, none)
      else match a.1.walk c true root e.1 .atomic with
        | (s1, .ok key) => if keyAp key ≤ 1 then (s1, some (l ++ [(key, e.2)])) else (a.1, none)
        | (s1, .error _) => (s1, none)) (s, some [])
/-- The tables of a context and the homes of its parts are ready for the post-mortem engine (R25). -/
def State.partsReady (s : State) (x : Ctx) : Bool := s.homeReady (hbm x.root.toNat) && (List.range x.regions.length).all fun r =>
  match x.regions[r]? with
  | some p => (pagesOf (x.part? x.regions.length r).1 (x.part? x.regions.length r).2).all fun e =>
      !(canonical e.1) || (match (s.walk p.cluster true x.root e.1 .atomic).2 with
        | .ok key => decide (keyAp key > 1) || s.homeReady key
        | .error _ => true)
  | none => true

/-- The post-mortem result of a region (Table 24.1). -/
def State.setPmres (s : State) (rcb res kind len : Nat) : State :=
  s.wr64 (hbm (rcb + 0x98)) (BitVec.ofNat 64 (res * 2 ^ 56 + kind * 2 ^ 48 + len % 2 ^ 32))

/-- The header (Table 24.2). -/
def imageHeader (x : Ctx) (cid : Nat) (p : Placed) (r : Nat) (i : ImageInfo) (len ivc stamp : Nat) (nonce : BitVec 32)
    (secs : List (Option (Nat × List Byte))) : List Byte :=
  let sect := (List.range 8).foldl (fun a n => a + (if ((secs.getD n none).isSome : Bool) then 2 ^ n else 0)) 0
  let dir (n : Nat) : Nat := match secs.getD n none with
    | some (o, l) => o * 2 ^ 32 + l.length
    | none => 0
  padTo 256 (
    leBytes 8 (0x4C39504D * 2 ^ 32 + 2 ^ 24 + i.kind % 256 * 2 ^ 16 + cid % 2 ^ 16) ++ leBytes 8 len ++
    leBytes 8 (Config.moduleId.toNat * 2 ^ 52 + dieOf p.cluster * 2 ^ 49 + p.cluster % 48 * 2 ^ 43 + p.slot * 2 ^ 41 + r % 2 ^ 16 * 2 ^ 25 + i.cause % 2 ^ 16) ++
    wordBytes i.blk ++ leBytes 8 (i.idx % 128) ++ wordBytes i.addr ++ leBytes 8 x.rcb ++ leBytes 8 p.rcb ++ leBytes 8 p.image ++
    leBytes 8 x.dumpkey.toNat ++ leBytes 8 nonce.toNat ++ leBytes 8 ivc ++ leBytes 8 stamp ++ leBytes 8 sect ++ leBytes 8 0 ++
    (List.range 8).flatMap fun n => leBytes 8 (dir n))

/-- The sections of a region. -/
def State.sections (s : State) (cid : Nat) (p : Placed) : List (List Byte) :=
  let c := p.cluster
  let k := p.slot
  [s.streamRecord c k, (s.stream c k).ringBytes, s.fabricBytes c k, s.shareBytes c k, s.tableBytes c k cid, s.objectBytes c k cid,
   (s.stream c k).queueBytes, s.recordBytes (dieOf c) cid]

/-- The bytes of an image whose part has q bytes, sealed under a key (R417, R418), and whether a section was omitted. -/
def State.imageBytes (s : State) (x : Ctx) (cid r : Nat) (p : Placed) (i : ImageInfo) (q : Nat) (key : BitVec 256) : List Byte × Bool :=
  let raw := s.sections cid p
  let secs := layOut (q - 2448) 256 raw
  let end_ := secs.foldl (fun a o => match o with
    | some (o, l) => Nat.max a (o + l.length)
    | none => a) 256
  let tagAt := Nat.min (up64 end_) (q - 2448)
  let nonce := Config.nonce s.resets
  let ivc := s.ivc.toNat
  let head := imageHeader x cid p r i (tagAt + 2448) ivc (s.cyclesOf p.cluster) nonce secs
  let plain := (secs.filterMap id).foldl (fun l o => padTo (o.1 - 256) l ++ o.2) []
  let text := padTo (tagAt - 256) plain
  let iv : BitVec 96 := nonce ++ s.ivc
  let cipher := (List.range text.length).map fun n => Config.gcmCipher key iv head text n
  let body := head ++ cipher ++ leBytes 16 (Config.gcmTag key iv head text).toNat
  let sig := padTo 2432 (List.ofFn (Config.mldsaSign (Config.sha3 body)))
  (body ++ sig, (raw.zip secs).any fun e => !e.1.isEmpty && e.2.isNone)

/-- Writes bytes over the pages of a part: what lies on each of them. -/
def State.putPages (s : State) : List (Nat × Nat) → List Byte → State
  | [], _ => s
  | e :: r, l => if l.isEmpty then s else (s.putBytes e.1 (l.take e.2)).putPages r (l.drop e.2)

/-- The image of one region: checked, written, and its result recorded (R416 to R418, R420). -/
def State.writeImage (s : State) (cid : Nat) (x : Ctx) (r : Nat) (p : Placed) (i : ImageInfo) : State :=
  let (at_, q) := x.part? x.regions.length r
  match s.checkPart p.cluster x.root at_ q with
  | (s1, none) => s1.setPmres p.rcb 2 i.kind 0
  | (s1, some pages) => match s1.enrolledKey x.dumpkey.toNat x.root 1 with
    | none => s1.setPmres p.rcb 3 i.kind 0
    | some e =>
      if q < 2704 then s1.setPmres p.rcb 4 i.kind 0
      else
        let (bytes, cut) := s1.imageBytes x cid r p i q e.key
        { s1.putPages pages bytes with ivc := s1.ivc + 1 }.setPmres p.rcb (if cut then 1 else 0) i.kind bytes.length
/-- What the post-mortem engine reads and writes of a context stands ready: its parts, and the objects of section 5 (R25, R334). -/
def State.imageReady (s : State) (cid : Nat) (x : Ctx) : State × Bool :=
  let r := s.areasReady x.die (farSched x.rcb) x.root (x.places.flatMap fun q => (s.objectsOf q.1 q.2 cid).map fun o => (BitVec.ofNat 64 o.1, o.2))
  (r.1, r.2 && s.partsReady x)
/-- The images of every region of a context. -/
def State.writeImages (s : State) (cid : Nat) (x : Ctx) (i : ImageInfo) : State :=
  (List.range x.regions.length).foldl (fun s r => match x.regions[r]? with
    | some p => s.writeImage cid x r p i
    | none => s) s

/-- Fault records of a context are no longer outstanding once it is off its clusters. -/
def State.dropRecords (s : State) (cid : Nat) : State :=
  { s with dies := s.dies.map fun e => (e.1, { e.2 with records := e.2.records.filter fun r => decide (r.cid ≠ cid) || decide (r.kind = 4) }) }

/-! ### The end of a fault end (R364, R420, R421) -/

/-- POST_MORTEM_COMPLETE: images and results are written, resources released, state 5 recorded, and the done object signalled last. -/
def execPostMortemComplete (cid : Nat) (s : State) : Out := match s.ctx? cid with
  | none => .next s
  | some x => match x.ending with
    | none => .next s
    | some (code, detail, blk, addr, idx, killed) => if !((s.imageReady cid x).2) then .next (s.imageReady cid x).1 else
      let i : ImageInfo :=
        { kind := if killed then 2 else 1, cause := detail % 256 * 256 + code % 256, blk := if killed then 0 else blk,
          idx := if killed then 0 else idx, addr := if killed then 0 else addr }
      let s1 := ((((s.imageReady cid x).1.writeImages cid x i).farDone (farSched x.rcb)).dropRecords cid).releaseCtx cid
      let rcbs := x.rcb :: x.regions.map Placed.rcb
      let s2 := rcbs.foldl (fun s a => s.setRcbState a 5) (s1.dropCtx cid)
      .next (s2.signalPa x.done 1 (if killed then stAborted else stFaulted))

/-! ### Eviction (R328) -/

/-- A stream stands at a block boundary, or its block can be abandoned where it waits (R51). -/
def State.canStop (s : State) (c k : Nat) : Bool := match (s.stream c k).phase with
  | .inBlock | .committing => s.mayAbandon c k
  | _ => true
/-- A block that waits is abandoned (R51). -/
def Stream.stopped (st : Stream) : Stream := match st.phase with
  | .inBlock => { st with view := st.arch, effs := [], waiting := false, waited := st.waiting, phase := .ready }
  | .committing => { st with view := st.arch, effs := [], waiting := false, phase := .ready }
  | _ => st
/-- Commands that have issued are complete, but for the runs of AG commands and MX commands that have not started, which are recorded. -/
def State.issuedDone (s : State) (c k : Nat) : Bool :=
  (s.stream c k).issued.all (fun x => decide (x.q = 0) || decide (x.q = 1)) &&
    !((s.cluster c).mx.buf.any fun h => decide (h.ctx = k) && h.started)
/-- The TO and MX ports of a context slot: what SNAP's arrival is noted under, and the box and direction that lead there. -/
def snapPorts (k : Nat) : List (Nat × Nat × Nat) :=
  (List.range 4).map (fun n => (4 * n + k, 4 + n, 0)) ++ [0, 1].map fun n => (16 + 4 * n + k, 32 + 8 * n, 3)
/-- The channels of a context slot that leave by a direction of a box. -/
def State.leaving (s : State) (c k site out : Nat) : List Nat :=
  (((s.site c site).words.filter fun w => decide (w.ctx.toNat = k) && decide (w.out.toNat = out)).map fun w => w.vc.toNat).eraseDups
/-- Every channel that leads to a TO or MX port has brought SNAP there. -/
def State.portsRecorded (s : State) (c k : Nat) : Bool := (snapPorts k).all fun q =>
  (s.leaving c k q.2.1 q.2.2).all fun vc => (s.cluster c).snaps.contains (32 * q.1 + vc)
/-- A region drives the MX by its command ports: then the MX forwards SNAP on its drain ports, once one has come (R328). -/
def State.mxFed (s : State) (c k : Nat) : Bool := [0, 1].any fun n => !((s.leaving c k (32 + 8 * n) 3).isEmpty)
def State.mxSnapped (s : State) (c k : Nat) : Bool := [0, 1].any fun n => (s.cluster c).snapped (16 + 4 * n + k)
def State.mxForwarded (s : State) (c k : Nat) : Bool := !(s.mxFed c k) || (s.cluster c).snapped (24 + k)
def Edge.isDrain : Edge → Bool
  | .d _ => true
  | _ => false
/-- The sources of every region inject SNAP (R328): the drain ports too, where no command port feeds the MX (DEDUCED, log 12). -/
def State.injectSnaps (s : State) (cid : Nat) (x : Ctx) : Option State := x.places.foldl (fun (o : Option State) q => o.bind fun s =>
  match s.region? q.1 q.2 with
  | none => some s
  | some r => if r.snapSent then some s
    else (s.injectPicots q.1 q.2 (fun e => !(s.mxFed q.1 q.2) || !e.isDrain) 0 0 (cid % 65536)).map fun s =>
      s.modRegion q.1 q.2 fun r => { r with snapSent := true }) (some s)
/-- The MX of a region that SNAP has reached forwards it. -/
def State.forwardMx (s : State) (cid : Nat) (q : Nat × Nat) : State :=
  if s.mxForwarded q.1 q.2 || !(s.mxSnapped q.1 q.2) then s
  else match s.injectPicots q.1 q.2 Edge.isDrain 0 0 (cid % 65536) with
    | some s1 => s1.noteSnap q.1 (24 + q.2) 0
    | none => s
/-- Every unit of a region has a complete record: elements, TO and MX ports, and no SNAP is on its way. -/
def State.regionRecorded (s : State) (q : Nat × Nat) : Bool :=
  s.portsRecorded q.1 q.2 && s.mxForwarded q.1 q.2 &&
    (List.range 64).all fun site => s.recorded q.1 q.2 site && (s.site q.1 site).picotFree q.2 0
/-- What is recorded of a region. -/
def State.saveRegion (s : State) (q : Nat × Nat) (r : Region) : Saved :=
  let (c, k) := q
  let x := s.cluster c
  let site (y : Site) : Site :=
    { y with
      words := y.words.filter (fun w => decide (w.ctx.toNat = k)), next := y.next.filter (fun w => decide (w.ctx.toNat = k)),
      elems := y.elems.filter fun e => decide (e.1 = k) }
  let share (a : Nat) : Option Nat :=
    let (b, n) := s.shareOf c k (a / 65536)
    if b ≤ a % 65536 ∧ a % 65536 < b + n then some (a / 65536 * 65536 + (a % 65536 - b)) else none
  let ours (i : Nat) : Bool := decide (i % 4 = k)
  { at_ := q, region := r, stream := (s.stream c k).stopped, sites := x.sites.map fun e => (e.1, site e.2),
    spad := x.spad.filterMap (fun e => (share e.1).map fun a => (a, e.2)),
    marks := x.spadMark.filterMap (fun e => (share (4 * e.1)).map fun a => (a / 4, e.2)),
    tiles := x.tiles.filter (fun e => r.tiles.contains e.1), tileUse := x.tileUse.filter (fun e => r.tiles.contains e.1), rings := x.rings.filter (fun e => r.rings.contains e.1),
    tags := x.tags.filter (fun e => decide (DWord.bits e.2 61 60 = k)),
    mx := x.mx.ofCtx k,
    toBuf := x.toBuf.filter (fun e => ours e.1), mxBuf := x.mxBuf.filter fun e => ours e.1 }
/-- A context RCB enters queue 15 of its die, or its return chain where the queue is full (R328). -/
def State.requeue (s : State) (d pa : Nat) : State :=
  let x := s.die d
  let held := (x.lqntf.get (0 : BitVec 9) 15 - x.lqhead.get (0 : BitVec 9) 15).toNat
  if held < 256 then s.launch15 d pa
  else
    let s1 := s.wr64 (hbm (pa + 0xA0)) 0
    if x.chainHead = 0 then s1.modDie d fun x => { x with chainHead := pa, chainTail := pa }
    else (s1.wr64 (hbm (x.chainTail + 0xA0)) (BitVec.ofNat 64 pa)).modDie d fun x => { x with chainTail := pa }

/-- EVICTION_COMPLETE (R328, R422): streams stop and SNAP is injected once commands and conversions are done; when every unit has recorded,
the image is written, the slots are released, and the context waits to be admitted again. -/
def execEvictionComplete (cid : Nat) (s : State) : Out := match s.ctx? cid with
  | none => .next s
  | some x =>
    if !x.evicting ∨ x.regions.isEmpty ∨ x.ending.isSome ∨ !x.saved.isEmpty then .next s
    else
      let regions := x.places.filterMap fun q => (s.region? q.1 q.2).map fun r => (q, r)
      if regions.any fun e => !e.2.snapSent then
        (if x.places.all (fun q => s.canStop q.1 q.2 && s.issuedDone q.1 q.2) && x.colls.isEmpty then
          match s.injectSnaps cid x with
          | none => .next s
          | some s1 =>
            let stop (s : State) (q : Nat × Nat) : State :=
              let st := s.stream q.1 q.2
              let s1 := if st.phase = .inBlock ∨ st.phase = .committing then s.count q.1 3 q.2 else s
              (s1.farDrop q.1 q.2).modStream q.1 q.2 Stream.stopped
            .next (x.places.foldl stop s1)
        else .next s)
      else if !(x.places.all s.regionRecorded) then .next (x.places.foldl (fun s q => s.forwardMx cid q) s)
      else if !((s.imageReady cid x).2) then .next (s.imageReady cid x).1
      else
        let saved := regions.map fun e => s.saveRegion e.1 e.2
        let stamps := s.stampsOf cid
        let s1 := (((s.imageReady cid x).1.writeImages cid x { kind := 3 }).farDone (farSched x.rcb)).dropRecords cid
        let s2 := (s1.releaseCtx cid).modCtx cid fun y =>
          { y with regions := [], running := false, saved := saved, savedStamps := stamps, ranges := [] }
        let s3 := (x.rcb :: x.regions.map Placed.rcb).foldl (fun s a => s.setRcbState a 1) s2
        .next ((s3.requeue x.die x.rcb).countDie x.die 0x107)

/-! ### Watchdogs (R376) -/

/-- The report of a stall reaches every stream of a context. -/
def State.reportStall (s : State) (cid detail : Nat) (addr : DWord) : State := match s.ctx? cid with
  | none => s
  | some x => x.places.foldl (fun s q => s.modStream q.1 q.2 fun st =>
      match st.phase with
      | .idle | .exited => st
      | _ => { st with asyncs := st.asyncs ++ [⟨0x10, detail, addr⟩] }) s
/-- MU_WATCHDOG: a waiter has waited 2^20 cycles in which no entry became free. -/
def execMuWatchdog (s : State) : Out :=
  let c := s.cur.cluster
  let x := s.cluster c
  if x.muStall.isEmpty ∨ x.muWait < 2 ^ 20 ∨ x.muReported then .next s
  else
    let cids := (x.muStall.map Prod.fst).eraseDups
    let report (s : State) (cid : Nat) : State :=
      let live := (x.stamps.filter fun p => decide (p.cid = cid)).length
      let wait := (x.muStall.filter fun e => decide (e.1 = cid)).length
      s.reportStall cid 0x81 (BitVec.ofNat 64 (wait % 2 ^ 16 * 2 ^ 16 + live % 2 ^ 16))
    .next ((cids.foldl report s).modCluster c fun x => { x with muReported := true })
/-- AGGREGATE_WATCHDOG: a batch has waited in the same way at the aggregate of a die (R74). -/
def execAggregateWatchdog (s : State) : Out :=
  let d := dieOf s.cur.cluster
  let x := s.die d
  if x.aggStall.isEmpty ∨ x.aggWait < 2 ^ 20 ∨ x.aggReported then .next s
  else
    let report (s : State) (cid : Nat) : State :=
      let live := (s.clusters.map fun e => if dieOf e.1 = d then (e.2.stamps.filter fun p => decide (p.cid = cid)).length else 0).foldl (· + ·) 0
      let wait := (x.aggStall.filter fun z => decide (z.1 = cid)).length
      s.reportStall cid 0x82 (BitVec.ofNat 64 (2 ^ 63 + wait % 2 ^ 16 * 2 ^ 16 + live % 2 ^ 16))
    .next (((x.aggStall.map Prod.fst).eraseDups.foldl report s).modDie d fun x => { x with aggReported := true })

end Sys2Proof.Machine
end

