-- ==== Sys2Proof/Machine/SeqAlu.lean ====
section
/-! DEFINITION. Sequencer integer, immediate, comparison, selection and predicate instructions (R199 to R204). -/
namespace Sys2Proof.Machine

/-- wrap(i64, x + y) (R199). -/
def execAdd (d a b : BitVec 6) (s : State) : Out := seqRRR s d a b fun x y => x + y
/-- wrap(i64, x − y) (R199). -/
def execSub (d a b : BitVec 6) (s : State) : Out := seqRRR s d a b fun x y => x - y
/-- wrap(i64, x · y) (R199). -/
def execMul (d a b : BitVec 6) (s : State) : Out := seqRRR s d a b fun x y => x * y
/-- The high half of the signed product (R199). -/
def execMulh (d a b : BitVec 6) (s : State) : Out := seqRRR s d a b fun x y => mulHigh x y
/-- The high half of the natural product (R199). -/
def execMulhn (d a b : BitVec 6) (s : State) : Out := seqRRR s d a b fun x y => mulHighN x y
/-- The signed quotient, truncating (R103). -/
def execDiv (d a b : BitVec 6) (s : State) : Out := seqRRR s d a b fun x y => divS x y
/-- The natural quotient (R103). -/
def execDivn (d a b : BitVec 6) (s : State) : Out := seqRRR s d a b fun x y => divN x y
/-- The signed remainder (R103). -/
def execRem (d a b : BitVec 6) (s : State) : Out := seqRRR s d a b fun x y => remS x y
/-- The natural remainder (R103). -/
def execRemn (d a b : BitVec 6) (s : State) : Out := seqRRR s d a b fun x y => remN x y
/-- sat(i64, x + y) (R102). -/
def execAdds (d a b : BitVec 6) (s : State) : Out := seqRRR s d a b fun x y => satI64 (x.toInt + y.toInt)
/-- sat(i64, x − y) (R102). -/
def execSubs (d a b : BitVec 6) (s : State) : Out := seqRRR s d a b fun x y => satI64 (x.toInt - y.toInt)
/-- x and y (R199). -/
def execAnd (d a b : BitVec 6) (s : State) : Out := seqRRR s d a b fun x y => x &&& y
/-- x or y (R199). -/
def execOr (d a b : BitVec 6) (s : State) : Out := seqRRR s d a b fun x y => x ||| y
/-- x xor y (R199). -/
def execXor (d a b : BitVec 6) (s : State) : Out := seqRRR s d a b fun x y => x ^^^ y
/-- x and not y (R199). -/
def execAndn (d a b : BitVec 6) (s : State) : Out := seqRRR s d a b fun x y => x &&& ~~~y
/-- x or not y (R199). -/
def execOrn (d a b : BitVec 6) (s : State) : Out := seqRRR s d a b fun x y => x ||| ~~~y
/-- x shifted left by y[5:0] (R199). -/
def execShl (d a b : BitVec 6) (s : State) : Out := seqRRR s d a b fun x y => x <<< (y.toNat % 64)
/-- x shifted right, logically, by y[5:0] (R199). -/
def execShr (d a b : BitVec 6) (s : State) : Out := seqRRR s d a b fun x y => x >>> (y.toNat % 64)
/-- x shifted right, arithmetically, by y[5:0] (R199). -/
def execSra (d a b : BitVec 6) (s : State) : Out := seqRRR s d a b fun x y => x.sshiftRight (y.toNat % 64)
/-- x rotated left by y[5:0] (R199). -/
def execRol (d a b : BitVec 6) (s : State) : Out := seqRRR s d a b fun x y => x.rotateLeft (y.toNat % 64)
/-- The signed minimum (R199). -/
def execMin (d a b : BitVec 6) (s : State) : Out := seqRRR s d a b fun x y => smin x y
/-- The signed maximum (R199). -/
def execMax (d a b : BitVec 6) (s : State) : Out := seqRRR s d a b fun x y => smax x y
/-- The natural minimum (R199). -/
def execMinn (d a b : BitVec 6) (s : State) : Out := seqRRR s d a b fun x y => bmin x y
/-- The natural maximum (R199). -/
def execMaxn (d a b : BitVec 6) (s : State) : Out := seqRRR s d a b fun x y => bmax x y
/-- Leading zero bits, 64 for zero (R199). -/
def execClz (d a : BitVec 6) (s : State) : Out := seqRR s d a fun x => BitVec.ofNat 64 (clzBits 64 x.toNat)
/-- Trailing zero bits, 64 for zero (R199). -/
def execCtz (d a : BitVec 6) (s : State) : Out := seqRR s d a fun x => BitVec.ofNat 64 (ctzBits 64 x.toNat)
/-- One bits (R199). -/
def execPopc (d a : BitVec 6) (s : State) : Out := seqRR s d a fun x => BitVec.ofNat 64 (popBits 64 x.toNat)
/-- Bit i of the result is bit 63 − i (R199). -/
def execBrev (d a : BitVec 6) (s : State) : Out := seqRR s d a fun x => BitVec.ofNat 64 (revBits 64 x.toNat)
/-- s(a) + sext(imm14) (R200). -/
def execAddi (d a : BitVec 6) (i : BitVec 14) (s : State) : Out := seqRR s d a fun x => x + sx i
/-- s(a) and sext(imm14) (R200). -/
def execAndi (d a : BitVec 6) (i : BitVec 14) (s : State) : Out := seqRR s d a fun x => x &&& sx i
/-- s(a) or sext(imm14) (R200). -/
def execOri (d a : BitVec 6) (i : BitVec 14) (s : State) : Out := seqRR s d a fun x => x ||| sx i
/-- s(a) xor sext(imm14) (R200). -/
def execXori (d a : BitVec 6) (i : BitVec 14) (s : State) : Out := seqRR s d a fun x => x ^^^ sx i
/-- Left shift by an immediate (R200). -/
def execShli (d a n : BitVec 6) (s : State) : Out := seqRR s d a fun x => x <<< n.toNat
/-- Logical right shift by an immediate (R200). -/
def execShri (d a n : BitVec 6) (s : State) : Out := seqRR s d a fun x => x >>> n.toNat
/-- Arithmetic right shift by an immediate (R200). -/
def execSrai (d a n : BitVec 6) (s : State) : Out := seqRR s d a fun x => x.sshiftRight n.toNat
/-- Left rotation by an immediate (R200). -/
def execRoli (d a n : BitVec 6) (s : State) : Out := seqRR s d a fun x => x.rotateLeft n.toNat
/-- sext(imm20), untainted (R201). -/
def execLi (d : BitVec 6) (i : BitVec 20) (s : State) : Out := .next (s.seqPure fun st => st.wr d (sx i) false)
/-- Bits [39:20] replaced, the rest and the taint of d kept (R201). -/
def execLui (d : BitVec 6) (i : BitVec 20) (s : State) : Out :=
  seqRR s d d fun x => x.extractLsb' 40 24 ++ i ++ x.extractLsb' 0 20
/-- Bits [63:40] replaced by imm20 sign-extended to 24 bits (R201). -/
def execLuh (d : BitVec 6) (i : BitVec 20) (s : State) : Out :=
  seqRR s d d fun x => i.signExtend 24 ++ x.extractLsb' 0 40
/-- pd := cond(s(a), s(b)) (R202). -/
def execCmp (p : BitVec 3) (c : BitVec 4) (a b : BitVec 6) (s : State) : Out :=
  seqPred s p fun r => condInt c.toNat (r.rs a) (r.rs b)
/-- pd := cond(s(a), sext(imm13)) (R202). -/
def execCmpi (p : BitVec 3) (c : BitVec 4) (a : BitVec 6) (i : BitVec 13) (s : State) : Out :=
  seqPred s p fun r => condInt c.toNat (r.rs a) (sx i)
/-- s(a) when the predicate, negated when n is 1, holds, else s(b); the taint is the OR of both (R203). -/
def execSel (d a b : BitVec 6) (n : BitVec 1) (p : BitVec 3) (s : State) : Out :=
  .next (s.seqPure fun st => st.wr d (if st.view.rp p != decide (n = 1) then st.view.rs a else st.view.rs b)
    (st.view.taintOf a || st.view.taintOf b))
/-- The AND of two predicates (R204). -/
def execPand (d a b : BitVec 3) (s : State) : Out := seqPred s d fun r => r.rp a && r.rp b
/-- The OR of two predicates (R204). -/
def execPor (d a b : BitVec 3) (s : State) : Out := seqPred s d fun r => r.rp a || r.rp b
/-- The XOR of two predicates (R204). -/
def execPxor (d a b : BitVec 3) (s : State) : Out := seqPred s d fun r => r.rp a != r.rp b
/-- The inverse of a predicate (R204). -/
def execPnot (d a : BitVec 3) (s : State) : Out := seqPred s d fun r => !(r.rp a)
/-- A copy of a predicate (R204). -/
def execPmov (d a : BitVec 3) (s : State) : Out := seqPred s d fun r => r.rp a
/-- Writes 1 (R204). -/
def execPset (d : BitVec 3) (s : State) : Out := seqPred s d fun _ => true
/-- Writes 0 (R204). -/
def execPclr (d : BitVec 3) (s : State) : Out := seqPred s d fun _ => false

end Sys2Proof.Machine
end

