-- ==== Sys2Proof/Machine/SeqFloat.lean ====
section
/-! DEFINITION. Sequencer floating-point instructions (R209 to R213). -/
namespace Sys2Proof.Machine

/-- fadd of Table 10.5 (R210). -/
def execFadd (d a b : BitVec 6) (f : BitVec 1) (s : State) : Out :=
  seqFloat s d (s.me.view.taintOf a || s.me.view.taintOf b) fun r => fAdd (fmtOf f) r (r.rs a) (r.rs b)
/-- fsub of Table 10.5 (R210). -/
def execFsub (d a b : BitVec 6) (f : BitVec 1) (s : State) : Out :=
  seqFloat s d (s.me.view.taintOf a || s.me.view.taintOf b) fun r => fSub (fmtOf f) r (r.rs a) (r.rs b)
/-- fmul of Table 10.5 (R210). -/
def execFmul (d a b : BitVec 6) (f : BitVec 1) (s : State) : Out :=
  seqFloat s d (s.me.view.taintOf a || s.me.view.taintOf b) fun r => fMul (fmtOf f) r (r.rs a) (r.rs b)
/-- fdiv of Table 10.5 (R210). -/
def execFdiv (d a b : BitVec 6) (f : BitVec 1) (s : State) : Out :=
  seqFloat s d (s.me.view.taintOf a || s.me.view.taintOf b) fun r => fDiv (fmtOf f) r (r.rs a) (r.rs b)
/-- fmin of Table 10.5 (R210). -/
def execFmin (d a b : BitVec 6) (f : BitVec 1) (s : State) : Out :=
  seqFloat s d (s.me.view.taintOf a || s.me.view.taintOf b) fun r => fMinMax (fmtOf f) false r (r.rs a) (r.rs b)
/-- fmax of Table 10.5 (R210). -/
def execFmax (d a b : BitVec 6) (f : BitVec 1) (s : State) : Out :=
  seqFloat s d (s.me.view.taintOf a || s.me.view.taintOf b) fun r => fMinMax (fmtOf f) true r (r.rs a) (r.rs b)
/-- The square root (R210). -/
def execFsqrt (d a : BitVec 6) (f : BitVec 1) (s : State) : Out :=
  seqFloat s d (s.me.view.taintOf a) fun r => fSqrt (fmtOf f) r (r.rs a)
/-- The sign bit cleared; a narrower result has zero upper bits (R209, R210). -/
def execFabs (d a : BitVec 6) (f : BitVec 1) (s : State) : Out :=
  seqRR s d a fun x => if f = 1 then x &&& 0x7FFFFFFFFFFFFFFF#64 else x &&& 0x7FFFFFFF#64
/-- The sign bit inverted (R210). -/
def execFneg (d a : BitVec 6) (f : BitVec 1) (s : State) : Out :=
  seqRR s d a fun x => if f = 1 then x ^^^ 0x8000000000000000#64 else (x &&& 0xFFFFFFFF#64) ^^^ 0x80000000#64
/-- x·y + z rounded once (R211). -/
def execFfma (d a b c : BitVec 6) (f : BitVec 1) (s : State) : Out :=
  seqFloat s d (s.me.view.taintOf a || s.me.view.taintOf b || s.me.view.taintOf c) fun r =>
    fFma (fmtOf f) r (r.rs a) (r.rs b) (r.rs c)
/-- pd := cond(x, y) with the NaN rules of R212. -/
def execFcmp (p : BitVec 3) (c : BitVec 4) (a b : BitVec 6) (f : BitVec 1) (s : State) : Out :=
  .next (s.seqPure fun st =>
    let r := st.view
    let v := fcond c.toNat (fOperand (fmtOf f) r.ftz (r.rs a)) (fOperand (fmtOf f) r.ftz (r.rs b))
    { st with view := (r.wp p v.1).flags { nv := v.2 } })
/-- The conversion of R213 from type s to type t. -/
def execFcvt (d a : BitVec 6) (t sz : BitVec 4) (s : State) : Out :=
  seqFloat s d (s.me.view.taintOf a) fun r => cvtResult r t.toNat sz.toNat (r.rs a)

end Sys2Proof.Machine
end

