-- ==== Sys2Proof/Machine/Dispatch.lean ====
section
/-! DEFINITION. The meaning of every instruction and step, one arm per constructor. -/
namespace Sys2Proof.Machine

def exec (i : Instr) (s : State) : Host.Outcome State Fault Refusal :=
  match i with
  | .add d a b => Sys2Proof.Machine.execAdd d a b s
  | .sub d a b => Sys2Proof.Machine.execSub d a b s
  | .mul d a b => Sys2Proof.Machine.execMul d a b s
  | .mulh d a b => Sys2Proof.Machine.execMulh d a b s
  | .mulhn d a b => Sys2Proof.Machine.execMulhn d a b s
  | .div d a b => Sys2Proof.Machine.execDiv d a b s
  | .divn d a b => Sys2Proof.Machine.execDivn d a b s
  | .rem d a b => Sys2Proof.Machine.execRem d a b s
  | .remn d a b => Sys2Proof.Machine.execRemn d a b s
  | .adds d a b => Sys2Proof.Machine.execAdds d a b s
  | .subs d a b => Sys2Proof.Machine.execSubs d a b s
  | .and d a b => Sys2Proof.Machine.execAnd d a b s
  | .or d a b => Sys2Proof.Machine.execOr d a b s
  | .xor d a b => Sys2Proof.Machine.execXor d a b s
  | .andn d a b => Sys2Proof.Machine.execAndn d a b s
  | .orn d a b => Sys2Proof.Machine.execOrn d a b s
  | .shl d a b => Sys2Proof.Machine.execShl d a b s
  | .shr d a b => Sys2Proof.Machine.execShr d a b s
  | .sra d a b => Sys2Proof.Machine.execSra d a b s
  | .rol d a b => Sys2Proof.Machine.execRol d a b s
  | .min d a b => Sys2Proof.Machine.execMin d a b s
  | .max d a b => Sys2Proof.Machine.execMax d a b s
  | .minn d a b => Sys2Proof.Machine.execMinn d a b s
  | .maxn d a b => Sys2Proof.Machine.execMaxn d a b s
  | .clz d a => Sys2Proof.Machine.execClz d a s
  | .ctz d a => Sys2Proof.Machine.execCtz d a s
  | .popc d a => Sys2Proof.Machine.execPopc d a s
  | .brev d a => Sys2Proof.Machine.execBrev d a s
  | .addi d a im => Sys2Proof.Machine.execAddi d a im s
  | .andi d a im => Sys2Proof.Machine.execAndi d a im s
  | .ori d a im => Sys2Proof.Machine.execOri d a im s
  | .xori d a im => Sys2Proof.Machine.execXori d a im s
  | .shli d a n => Sys2Proof.Machine.execShli d a n s
  | .shri d a n => Sys2Proof.Machine.execShri d a n s
  | .srai d a n => Sys2Proof.Machine.execSrai d a n s
  | .roli d a n => Sys2Proof.Machine.execRoli d a n s
  | .li d im => Sys2Proof.Machine.execLi d im s
  | .lui d im => Sys2Proof.Machine.execLui d im s
  | .luh d im => Sys2Proof.Machine.execLuh d im s
  | .cmp p c a b => Sys2Proof.Machine.execCmp p c a b s
  | .cmpi p c a im => Sys2Proof.Machine.execCmpi p c a im s
  | .sel d a b n p => Sys2Proof.Machine.execSel d a b n p s
  | .pand d a b => Sys2Proof.Machine.execPand d a b s
  | .por d a b => Sys2Proof.Machine.execPor d a b s
  | .pxor d a b => Sys2Proof.Machine.execPxor d a b s
  | .pnot d a => Sys2Proof.Machine.execPnot d a s
  | .pmov d a => Sys2Proof.Machine.execPmov d a s
  | .pset d => Sys2Proof.Machine.execPset d s
  | .pclr d => Sys2Proof.Machine.execPclr d s
  | .ld d a sz o => Sys2Proof.Machine.execLd d a sz o s
  | .ldn d a sz o => Sys2Proof.Machine.execLdn d a sz o s
  | .st d a sz o => Sys2Proof.Machine.execSt d a sz o s
  | .ldc d a sz o => Sys2Proof.Machine.execLdc d a sz o s
  | .lda d a sz c o => Sys2Proof.Machine.execLda d a sz c o s
  | .stl d a sz c o => Sys2Proof.Machine.execStl d a sz c o s
  | .amoAdd d a b c sz o => Sys2Proof.Machine.execAmoAdd d a b c sz o s
  | .amoAnd d a b c sz o => Sys2Proof.Machine.execAmoAnd d a b c sz o s
  | .amoOr d a b c sz o => Sys2Proof.Machine.execAmoOr d a b c sz o s
  | .amoXor d a b c sz o => Sys2Proof.Machine.execAmoXor d a b c sz o s
  | .amoMin d a b c sz o => Sys2Proof.Machine.execAmoMin d a b c sz o s
  | .amoMax d a b c sz o => Sys2Proof.Machine.execAmoMax d a b c sz o s
  | .amoMinn d a b c sz o => Sys2Proof.Machine.execAmoMinn d a b c sz o s
  | .amoMaxn d a b c sz o => Sys2Proof.Machine.execAmoMaxn d a b c sz o s
  | .amoSwap d a b c sz o => Sys2Proof.Machine.execAmoSwap d a b c sz o s
  | .amoCas d a b c sz o => Sys2Proof.Machine.execAmoCas d a b c sz o s
  | .amoFadd d a b c o => Sys2Proof.Machine.execAmoFadd d a b c o s
  | .fence w x y z c => Sys2Proof.Machine.execFence w x y z c s
  | .fadd d a b f => Sys2Proof.Machine.execFadd d a b f s
  | .fsub d a b f => Sys2Proof.Machine.execFsub d a b f s
  | .fmul d a b f => Sys2Proof.Machine.execFmul d a b f s
  | .fdiv d a b f => Sys2Proof.Machine.execFdiv d a b f s
  | .fsqrt d a f => Sys2Proof.Machine.execFsqrt d a f s
  | .fmin d a b f => Sys2Proof.Machine.execFmin d a b f s
  | .fmax d a b f => Sys2Proof.Machine.execFmax d a b f s
  | .fabs d a f => Sys2Proof.Machine.execFabs d a f s
  | .fneg d a f => Sys2Proof.Machine.execFneg d a f s
  | .ffma d a b c f => Sys2Proof.Machine.execFfma d a b c f s
  | .fcmp p c a b f => Sys2Proof.Machine.execFcmp p c a b f s
  | .fcvt d a t sz => Sys2Proof.Machine.execFcvt d a t sz s
  | .br p n o => Sys2Proof.Machine.execBr p n o s
  | .j o => Sys2Proof.Machine.execJ o s
  | .call o => Sys2Proof.Machine.execCall o s
  | .jr a => Sys2Proof.Machine.execJr a s
  | .callr a => Sys2Proof.Machine.execCallr a s
  | .ret => Sys2Proof.Machine.execRet s
  | .tmov d a => Sys2Proof.Machine.execTmov d a s
  | .tset d c x => Sys2Proof.Machine.execTset d c x s
  | .tget a c x => Sys2Proof.Machine.execTget a c x s
  | .tinc d a c x => Sys2Proof.Machine.execTinc d a c x s
  | .tjoin d a b => Sys2Proof.Machine.execTjoin d a b s
  | .tmeet d a b => Sys2Proof.Machine.execTmeet d a b s
  | .tle a b p => Sys2Proof.Machine.execTle a b p s
  | .tlt a b p => Sys2Proof.Machine.execTlt a b p s
  | .teq a b p => Sys2Proof.Machine.execTeq a b p s
  | .tadv d a c x => Sys2Proof.Machine.execTadv d a c x s
  | .tinci d a c n => Sys2Proof.Machine.execTinci d a c n s
  | .hzld h x => Sys2Proof.Machine.execHzld h x s
  | .hzwait a h => Sys2Proof.Machine.execHzwait a h s
  | .hzpub h x => Sys2Proof.Machine.execHzpub h x s
  | .hzle a h p => Sys2Proof.Machine.execHzle a h p s
  | .hzget h x => Sys2Proof.Machine.execHzget h x s
  | .hztime d h e => Sys2Proof.Machine.execHztime d h e s
  | .enqMx a b c => Sys2Proof.Machine.execEnqMx a b c s
  | .enqAg a b c f => Sys2Proof.Machine.execEnqAg a b c f s
  | .enqCl a b => Sys2Proof.Machine.execEnqCl a b s
  | .enqLk a b => Sys2Proof.Machine.execEnqLk a b s
  | .enqSc a b => Sys2Proof.Machine.execEnqSc a b s
  | .enqTi a b c p => Sys2Proof.Machine.execEnqTi a b c p s
  | .enqTo a b p => Sys2Proof.Machine.execEnqTo a b p s
  | .enqPl a b c => Sys2Proof.Machine.execEnqPl a b c s
  | .waitc a b => Sys2Proof.Machine.execWaitc a b s
  | .sigc a b sz => Sys2Proof.Machine.execSigc a b sz s
  | .waitb p a => Sys2Proof.Machine.execWaitb p a s
  | .bara a b sz => Sys2Proof.Machine.execBara a b sz s
  | .cfgLoad a b c => Sys2Proof.Machine.execCfgLoad a b c s
  | .cfgSwitch b c => Sys2Proof.Machine.execCfgSwitch b c s
  | .cfgPage a b => Sys2Proof.Machine.execCfgPage a b s
  | .ctxLaunch a => Sys2Proof.Machine.execCtxLaunch a s
  | .ctxPrio a n => Sys2Proof.Machine.execCtxPrio a n s
  | .ctxSusp a => Sys2Proof.Machine.execCtxSusp a s
  | .ctxResume a => Sys2Proof.Machine.execCtxResume a s
  | .ctxEvict a => Sys2Proof.Machine.execCtxEvict a s
  | .mfs d r sz => Sys2Proof.Machine.execMfs d r sz s
  | .mts d r sz => Sys2Proof.Machine.execMts d r sz s
  | .trap a => Sys2Proof.Machine.execTrap a s
  | .reti => Sys2Proof.Machine.execReti s
  | .exit => Sys2Proof.Machine.execExit s
  | .trace a => Sys2Proof.Machine.execTrace a s
  | .nop => Sys2Proof.Machine.execNop s
  | .yield => Sys2Proof.Machine.execYield s
  | .blockCommit => Sys2Proof.Machine.execBlockCommit s
  | .asyncTrap => Sys2Proof.Machine.execAsyncTrap s
  | .streamExited => Sys2Proof.Machine.execStreamExited s
  | .ceAdd => Sys2Proof.Machine.execCeAdd s
  | .ceSub => Sys2Proof.Machine.execCeSub s
  | .ceMul => Sys2Proof.Machine.execCeMul s
  | .ceMulh => Sys2Proof.Machine.execCeMulh s
  | .ceMin => Sys2Proof.Machine.execCeMin s
  | .ceMax => Sys2Proof.Machine.execCeMax s
  | .ceAbs => Sys2Proof.Machine.execCeAbs s
  | .ceNeg => Sys2Proof.Machine.execCeNeg s
  | .ceMad => Sys2Proof.Machine.execCeMad s
  | .ceAvg => Sys2Proof.Machine.execCeAvg s
  | .ceAnd => Sys2Proof.Machine.execCeAnd s
  | .ceOr => Sys2Proof.Machine.execCeOr s
  | .ceXor => Sys2Proof.Machine.execCeXor s
  | .ceAndn => Sys2Proof.Machine.execCeAndn s
  | .ceNot => Sys2Proof.Machine.execCeNot s
  | .ceShl => Sys2Proof.Machine.execCeShl s
  | .ceShr => Sys2Proof.Machine.execCeShr s
  | .ceSra => Sys2Proof.Machine.execCeSra s
  | .ceRol => Sys2Proof.Machine.execCeRol s
  | .cePopc => Sys2Proof.Machine.execCePopc s
  | .ceClz => Sys2Proof.Machine.execCeClz s
  | .ceFloatAdd => Sys2Proof.Machine.execCeFloatAdd s
  | .ceFloatSub => Sys2Proof.Machine.execCeFloatSub s
  | .ceFloatMul => Sys2Proof.Machine.execCeFloatMul s
  | .ceFma => Sys2Proof.Machine.execCeFma s
  | .ceFloatMin => Sys2Proof.Machine.execCeFloatMin s
  | .ceFloatMax => Sys2Proof.Machine.execCeFloatMax s
  | .ceFloatAbs => Sys2Proof.Machine.execCeFloatAbs s
  | .ceFloatNeg => Sys2Proof.Machine.execCeFloatNeg s
  | .ceFms => Sys2Proof.Machine.execCeFms s
  | .ceRcp => Sys2Proof.Machine.execCeRcp s
  | .ceRsq => Sys2Proof.Machine.execCeRsq s
  | .ceSqrt => Sys2Proof.Machine.execCeSqrt s
  | .ceExp2 => Sys2Proof.Machine.execCeExp2 s
  | .ceLog2 => Sys2Proof.Machine.execCeLog2 s
  | .ceTanh => Sys2Proof.Machine.execCeTanh s
  | .ceSigm => Sys2Proof.Machine.execCeSigm s
  | .ceSin => Sys2Proof.Machine.execCeSin s
  | .ceCos => Sys2Proof.Machine.execCeCos s
  | .ceErf => Sys2Proof.Machine.execCeErf s
  | .ceCmp => Sys2Proof.Machine.execCeCmp s
  | .ceSel => Sys2Proof.Machine.execCeSel s
  | .cvt => Sys2Proof.Machine.execCvt s
  | .qntb => Sys2Proof.Machine.execQntb s
  | .qnt => Sys2Proof.Machine.execQnt s
  | .deq => Sys2Proof.Machine.execDeq s
  | .mov => Sys2Proof.Machine.execMov s
  | .movk => Sys2Proof.Machine.execMovk s
  | .bcast => Sys2Proof.Machine.execBcast s
  | .lshift => Sys2Proof.Machine.execLshift s
  | .lrev => Sys2Proof.Machine.execLrev s
  | .lsel => Sys2Proof.Machine.execLsel s
  | .steerBit => Sys2Proof.Machine.execSteerBit s
  | .steerPar => Sys2Proof.Machine.execSteerPar s
  | .mergeAny => Sys2Proof.Machine.execMergeAny s
  | .mergeTag => Sys2Proof.Machine.execMergeTag s
  | .copy => Sys2Proof.Machine.execCopy s
  | .gate => Sys2Proof.Machine.execGate s
  | .drop => Sys2Proof.Machine.execDrop s
  | .sink => Sys2Proof.Machine.execSink s
  | .tagInc => Sys2Proof.Machine.execTagInc s
  | .tagSet => Sys2Proof.Machine.execTagSet s
  | .tagGet => Sys2Proof.Machine.execTagGet s
  | .tagBase => Sys2Proof.Machine.execTagBase s
  | .alcAlloc => Sys2Proof.Machine.execAlcAlloc s
  | .alcFree => Sys2Proof.Machine.execAlcFree s
  | .pack => Sys2Proof.Machine.execPack s
  | .unpack => Sys2Proof.Machine.execUnpack s
  | .redSum => Sys2Proof.Machine.execRedSum s
  | .redMin => Sys2Proof.Machine.execRedMin s
  | .redMax => Sys2Proof.Machine.execRedMax s
  | .redAnd => Sys2Proof.Machine.execRedAnd s
  | .redOr => Sys2Proof.Machine.execRedOr s
  | .redCnt => Sys2Proof.Machine.execRedCnt s
  | .scanSum => Sys2Proof.Machine.execScanSum s
  | .scanMax => Sys2Proof.Machine.execScanMax s
  | .lrs => Sys2Proof.Machine.execLrs s
  | .accAdd => Sys2Proof.Machine.execAccAdd s
  | .accMax => Sys2Proof.Machine.execAccMax s
  | .accReset => Sys2Proof.Machine.execAccReset s
  | .cneg => Sys2Proof.Machine.execCneg s
  | .cscale => Sys2Proof.Machine.execCscale s
  | .mkchg => Sys2Proof.Machine.execMkchg s
  | .dense => Sys2Proof.Machine.execDense s
  | .dadd => Sys2Proof.Machine.execDadd s
  | .ctEnter => Sys2Proof.Machine.execCtEnter s
  | .ctLeave => Sys2Proof.Machine.execCtLeave s
  | .ctStep => Sys2Proof.Machine.execCtStep s
  | .ctSet => Sys2Proof.Machine.execCtSet s
  | .ctAdv => Sys2Proof.Machine.execCtAdv s
  | .ctLe => Sys2Proof.Machine.execCtLe s
  | .ctLt => Sys2Proof.Machine.execCtLt s
  | .ctEq => Sys2Proof.Machine.execCtEq s
  | .ctPar => Sys2Proof.Machine.execCtPar s
  | .khash => Sys2Proof.Machine.execKhash s
  | .kexch => Sys2Proof.Machine.execKexch s
  | .cjoin => Sys2Proof.Machine.execCjoin s
  | .credCount => Sys2Proof.Machine.execCredCount s
  | .credSum => Sys2Proof.Machine.execCredSum s
  | .credMin => Sys2Proof.Machine.execCredMin s
  | .credMax => Sys2Proof.Machine.execCredMax s
  | .cdist => Sys2Proof.Machine.execCdist s
  | .ccons => Sys2Proof.Machine.execCcons s
  | .cnote => Sys2Proof.Machine.execCnote s
  | .crel => Sys2Proof.Machine.execCrel s
  | .mxc => Sys2Proof.Machine.execMxc s
  | .cntr => Sys2Proof.Machine.execCntr s
  | .ctlSig => Sys2Proof.Machine.execCtlSig s
  | .ctlWait => Sys2Proof.Machine.execCtlWait s
  | .ctlAnd2 => Sys2Proof.Machine.execCtlAnd2 s
  | .ceNop => Sys2Proof.Machine.execCeNop s
  | .agsRd w => Sys2Proof.Machine.execAgsRd w s
  | .agsWr w => Sys2Proof.Machine.execAgsWr w s
  | .agsRdcf w => Sys2Proof.Machine.execAgsRdcf w s
  | .agsWrcf w => Sys2Proof.Machine.execAgsWrcf w s
  | .agsFill w => Sys2Proof.Machine.execAgsFill w s
  | .agsScrub w => Sys2Proof.Machine.execAgsScrub w s
  | .agxGath w => Sys2Proof.Machine.execAgxGath w s
  | .agxScat w => Sys2Proof.Machine.execAgxScat w s
  | .agxChase w => Sys2Proof.Machine.execAgxChase w s
  | .agxAtomAdd w => Sys2Proof.Machine.execAgxAtomAdd w s
  | .agxAtomMin w => Sys2Proof.Machine.execAgxAtomMin w s
  | .agxAtomMax w => Sys2Proof.Machine.execAgxAtomMax w s
  | .agxAtomCas w => Sys2Proof.Machine.execAgxAtomCas w s
  | .agxAtomSwp w => Sys2Proof.Machine.execAgxAtomSwp w s
  | .wavLd o p sz z d => Sys2Proof.Machine.execWavLd o p sz z d s
  | .wavSt o p sz z d => Sys2Proof.Machine.execWavSt o p sz z d s
  | .wavMnop o p sz z d => Sys2Proof.Machine.execWavMnop o p sz z d s
  | .waveAccessPerform => Sys2Proof.Machine.execWaveAccessPerform s
  | .ttbLook w => Sys2Proof.Machine.execTtbLook w s
  | .ttbIns w => Sys2Proof.Machine.execTtbIns w s
  | .ttbEvict w => Sys2Proof.Machine.execTtbEvict w s
  | .ttbFill w => Sys2Proof.Machine.execTtbFill w s
  | .tilSetf w => Sys2Proof.Machine.execTilSetf w s
  | .tilReady w => Sys2Proof.Machine.execTilReady w s
  | .tilDrain w => Sys2Proof.Machine.execTilDrain w s
  | .tilEmpty w => Sys2Proof.Machine.execTilEmpty w s
  | .tilPush w => Sys2Proof.Machine.execTilPush w s
  | .tilPop w => Sys2Proof.Machine.execTilPop w s
  | .tilQuery w => Sys2Proof.Machine.execTilQuery w s
  | .arrIns w => Sys2Proof.Machine.execArrIns w s
  | .arrSeek w => Sys2Proof.Machine.execArrSeek w s
  | .arrCmpt w => Sys2Proof.Machine.execArrCmpt w s
  | .arrMrg w => Sys2Proof.Machine.execArrMrg w s
  | .bar w => Sys2Proof.Machine.execBar w s
  | .pld w => Sys2Proof.Machine.execPld w s
  | .pst w => Sys2Proof.Machine.execPst w s
  | .sbr w => Sys2Proof.Machine.execSbr w s
  | .sbrRelease => Sys2Proof.Machine.execSbrRelease s
  | .mma w => Sys2Proof.Machine.execMma w s
  | .mmaKstep w => Sys2Proof.Machine.execMmaKstep w s
  | .mmz w => Sys2Proof.Machine.execMmz w s
  | .mload w => Sys2Proof.Machine.execMload w s
  | .mdrain w => Sys2Proof.Machine.execMdrain w s
  | .cvreset w => Sys2Proof.Machine.execCvreset w s
  | .cvresetRelease w => Sys2Proof.Machine.execCvresetRelease w s
  | .cvloadEnt w => Sys2Proof.Machine.execCvloadEnt w s
  | .cvloadGain w => Sys2Proof.Machine.execCvloadGain w s
  | .cvprobe w => Sys2Proof.Machine.execCvprobe w s
  | .cvcommit w => Sys2Proof.Machine.execCvcommit w s
  | .cvreadArg w => Sys2Proof.Machine.execCvreadArg w s
  | .cvreadGain w => Sys2Proof.Machine.execCvreadGain w s
  | .mxAccept => Sys2Proof.Machine.execMxAccept s
  | .allreduce d => Sys2Proof.Machine.execAllreduce d s
  | .reduceScatter d => Sys2Proof.Machine.execReduceScatter d s
  | .allgather d => Sys2Proof.Machine.execAllgather d s
  | .alltoall d => Sys2Proof.Machine.execAlltoall d s
  | .irregularAlltoall d => Sys2Proof.Machine.execIrregularAlltoall d s
  | .collectiveNodeFire node => Sys2Proof.Machine.execCollectiveNodeFire node s
  | .send d => Sys2Proof.Machine.execSend d s
  | .keyld d => Sys2Proof.Machine.execKeyld d s
  | .keysw d => Sys2Proof.Machine.execKeysw d s
  | .stat d => Sys2Proof.Machine.execStat d s
  | .scrub d => Sys2Proof.Machine.execScrub d s
  | .commandIssue => Sys2Proof.Machine.execCommandIssue s
  | .commandComplete => Sys2Proof.Machine.execCommandComplete s
  | .fetch => Sys2Proof.Machine.execFetch s
  | .unlatch n => Sys2Proof.Machine.execUnlatch n s
  | .accclr n => Sys2Proof.Machine.execAccclr n s
  | .switchForward => Sys2Proof.Machine.execSwitchForward s
  | .eos => Sys2Proof.Machine.execEos s
  | .switch gen => Sys2Proof.Machine.execSwitch gen s
  | .snap id => Sys2Proof.Machine.execSnap id s
  | .abort id => Sys2Proof.Machine.execAbort id s
  | .agingPromotion => Sys2Proof.Machine.execAgingPromotion s
  | .configUnitFetch => Sys2Proof.Machine.execConfigUnitFetch s
  | .configUncorrectable isBox => Sys2Proof.Machine.execConfigUncorrectable isBox s
  | .agAccess => Sys2Proof.Machine.execAgAccess s
  | .agReply => Sys2Proof.Machine.execAgReply s
  | .agRunEnd => Sys2Proof.Machine.execAgRunEnd s
  | .chaseStep => Sys2Proof.Machine.execChaseStep s
  | .gatherEngineBatch => Sys2Proof.Machine.execGatherEngineBatch s
  | .walk root va ag acc => Sys2Proof.Machine.execWalk root va ag acc s
  | .activationAlert stack bank postponed => Sys2Proof.Machine.execActivationAlert stack bank postponed s
  | .muWatchdog => Sys2Proof.Machine.execMuWatchdog s
  | .aggregateWatchdog => Sys2Proof.Machine.execAggregateWatchdog s
  | .gatewayMessage ptab seq ups => Sys2Proof.Machine.execGatewayMessage ptab seq ups s
  | .conversionRendezvous cid dtd => Sys2Proof.Machine.execConversionRendezvous cid dtd s
  | .conversionComplete cid dtd => Sys2Proof.Machine.execConversionComplete cid dtd s
  | .launchNotify q tail => Sys2Proof.Machine.execLaunchNotify q tail s
  | .launchEntryRead q => Sys2Proof.Machine.execLaunchEntryRead q s
  | .candidateFault q => Sys2Proof.Machine.execCandidateFault q s
  | .waitingPriorityAging q => Sys2Proof.Machine.execWaitingPriorityAging q s
  | .admission q => Sys2Proof.Machine.execAdmission q s
  | .contextStart cid => Sys2Proof.Machine.execContextStart cid s
  | .retire cid => Sys2Proof.Machine.execRetire cid s
  | .evictionComplete cid => Sys2Proof.Machine.execEvictionComplete cid s
  | .postMortemComplete cid => Sys2Proof.Machine.execPostMortemComplete cid s
  | .xinvPage => Sys2Proof.Machine.execXinvPage s
  | .xinvRoot => Sys2Proof.Machine.execXinvRoot s
  | .xinvDie => Sys2Proof.Machine.execXinvDie s
  | .xinvDone => Sys2Proof.Machine.execXinvDone s
  | .fenceCluster c => Sys2Proof.Machine.execFenceCluster c s
  | .unfenceCluster c => Sys2Proof.Machine.execUnfenceCluster c s
  | .replaceClusterMicrocode v => Sys2Proof.Machine.execReplaceClusterMicrocode v s
  | .updateFirmware v => Sys2Proof.Machine.execUpdateFirmware v s
  | .firmwareSwitch => Sys2Proof.Machine.execFirmwareSwitch s
  | .retrainPort port => Sys2Proof.Machine.execRetrainPort port s
  | .portEnable port en => Sys2Proof.Machine.execPortEnable port en s
  | .faultRetry seq => Sys2Proof.Machine.execFaultRetry seq s
  | .fqresEnd seq => Sys2Proof.Machine.execFqresEnd seq s
  | .keyImport rec => Sys2Proof.Machine.execKeyImport rec s
  | .keyRemove rec => Sys2Proof.Machine.execKeyRemove rec s
  | .attestationReport v => Sys2Proof.Machine.execAttestationReport v s
  | .powerCap cap => Sys2Proof.Machine.execPowerCap cap s
  | .registerWrite window off v => Sys2Proof.Machine.execRegisterWrite window off v s
  | .coldReset => Sys2Proof.Machine.execColdReset s
  | .functionReady fn up => Sys2Proof.Machine.execFunctionReady fn up s
  | .flitTransmit port => Sys2Proof.Machine.execFlitTransmit port s
  | .flitOpen port h addr mode ptab n => Sys2Proof.Machine.execFlitOpen port h addr mode ptab n s
  | .flitData port h pay => Sys2Proof.Machine.execFlitData port h pay s
  | .flitRead port h addr len rxfer => Sys2Proof.Machine.execFlitRead port h addr len rxfer s
  | .flitRdata port h pay => Sys2Proof.Machine.execFlitRdata port h pay s
  | .flitMark port h => Sys2Proof.Machine.execFlitMark port h s
  | .flitAck port ctr => Sys2Proof.Machine.execFlitAck port ctr s
  | .flitNak port ctr => Sys2Proof.Machine.execFlitNak port ctr s
  | .flitAuthFailure port => Sys2Proof.Machine.execFlitAuthFailure port s
  | .resendTimeout port => Sys2Proof.Machine.execResendTimeout port s
  | .resultReachesOutput => Sys2Proof.Machine.execResultReachesOutput s

end Sys2Proof.Machine
end

