-- ==== Sys2Proof/Machine/Fetch.lean ====
section
/-! DEFINITION. Which agent moves next and which instruction it executes: fetching the words of a block, the operation word of
a slot, the command at the head of a queue. -/
namespace Sys2Proof.Machine

/-- A token waits at a multicast: more than one word takes it, and one of them has no room (R43). -/
def Site.holds (x : Site) (net : Option Nat) (inp k : Nat) (t : Token) : Bool :=
  let ws := x.takers net inp k t.chan.toNat
  decide (ws.length ≥ 2) && ws.any fun w => decide (w.buf.length ≥ 4)
/-- A multicast input of a context slot is held: by a token of a word, or of an output register. -/
def Cluster.held (x : Cluster) (k : Nat) : Bool := x.sites.any fun e =>
  (e.2.words.any fun w => decide (w.ctx.toNat = k) && match w.buf.head?, neighbour e.1 w.out.toNat with
    | some t, some n => decide (w.out.toNat < 4) && (x.site n).holds (some w.net.toNat) (opposite w.out.toNat) k t
    | _, _ => false) ||
  (match e.2.elems.find? k with
    | some m => (m.leaving 0).any (e.2.holds none 4 k) || (m.leaving 1).any (e.2.holds none 5 k)
    | none => false)
/-- Cycles pass at a cluster: counters of cycles, of the cycles that a multicast input is held (R43) and that each source or firing waits at its MU
(R341), and the time its MU has had waiters (R376). A miss never waits for a walker, since a walk is one step (R124, log 92). -/
def Cluster.pass (x : Cluster) (n : Nat) : Cluster :=
  let slotOf (cid : Nat) : Nat := match List.find? (fun (r : Nat × Region) => decide (r.2.cid = cid)) x.regions with
    | some r => r.1
    | none => 4
  let y := x.muStall.foldl (fun x w => x.count 0x040 (slotOf w.1) n) ([0, 1, 2, 3].foldl (fun y k => if x.held k then y.count 0x014 k n else y) (x.count 1 4 n))
  { y with muWait := if y.muStall.isEmpty then 0 else y.muWait + n }
def Die.elapse (x : Die) (n : Nat) : Die := { x with aggWait := if x.aggStall.isEmpty then 0 else x.aggWait + n }

/-- What the module may draw: at most the cap asked for, BPWR and 5,200 W (R23, R344, Table 14.9). -/
def State.powerLimit (s : State) : Nat :=
  Nat.min 5200 (Nat.min (s.iod 0).mcap.toNat (DWord.bits ((s.iod 0).boundary.get 0 0x460) 12 0))
/-- The next move: the head of the agenda, or the free choice of Config (log 1); time passes by a free amount (log 2). The sensors measure: the
module draws at most its ceiling and its cap (R23, R344, Table 14.9, log 81). -/
def nextMove (s : State) : State × What :=
  let mv := match s.agenda with
    | m :: _ => m
    | [] => Config.nextMove s.tick
  let n := Config.elapsed s.tick
  ({ s with
      agenda := s.agenda.drop 1, tick := s.tick + 1, cur := mv.at_,
      temp := Config.temperature s.tick, power := BitVec.ofNat 16 (Nat.min (Config.power s.tick).toNat s.powerLimit),
      clusters := s.clusters.map fun e => (e.1, e.2.pass (n e.1)), dies := s.dies.map fun e => (e.1, e.2.elapse (n (384 + e.1))) }, mv.what)

/-- The place a move names exists (R13, R15, R16): clusters 0 to 383, slots and streams 0 to 3, sites 0 to 63. -/
def agentOk (l : Locus) : Bool := decide (l.cluster < 384) && decide (l.ctx < 4) && decide (l.site < 64) && decide (l.slot < 16)

/-- The instruction at the stream's index, or the trap of an undecodable word (R353). -/
def fetchInstr (s : State) : State × Option Instr :=
  let c := s.cur.cluster
  let k := s.cur.ctx
  let st := s.stream c k
  match s.fetchWord c k (st.pc + 4#64 + BitVec.ofNat 64 (4 * st.idx)) with
  | (s1, .error (0, _)) => (s1, none)
  | (s1, .error (code, d)) => (s1.takeTrap c k code d (st.pc + 4#64 + BitVec.ofNat 64 (4 * st.idx)) st.idx, none)
  | (s1, .ok w) =>
    match decodeSeq w with
    | .ok i => (s1, some i)
    | .bad d => (s1.takeTrap c k 1 d (w.zeroExtend 64) st.idx, none)

/-- The stream stands at the first word of a block with this header: its view is the architectural state (R48, R49, R51). -/
def State.beginBlock (s : State) (w : Word) : State :=
  let c := s.cur.cluster
  let k := s.cur.ctx
  s.modStream c k fun st => { st with
    prio := s.firingPrio c k, view := st.arch, effs := [], idx := 0, len := headerLen w, wflag := w.getLsbD 15, tflag := w.getLsbD 14,
    phase := .inBlock, taken := false, isRet := false, isReti := false, isExit := false, isYield := false, waiting := false, waited := false }

/-- A block starts: its header is read and checked (R354), and its first word is fetched. -/
def startBlock (s : State) : State × Option Instr :=
  let c := s.cur.cluster
  let k := s.cur.ctx
  let st := s.stream c k
  match s.fetchWord c k st.pc with
  | (s1, .error (0, _)) => (s1, none)
  | (s1, .error (code, d)) => (s1.takeTrap c k code d st.pc 0, none)
  | (s1, .ok w) =>
    if !(isHeader w) then (s1.takeTrap c k 0x0C 1 st.pc 0, none)
    else if !(headerClean w) then (s1.takeTrap c k 0x0C 2 st.pc 0, none)
    else fetchInstr (s1.beginBlock w)

/-- A stream that issues (R52): it runs, and stands in a block or at one it may enter. One that waits in a block may issue again too. -/
def State.issues (s : State) (c k : Nat) : Bool :=
  let st := s.stream c k
  s.running c k && (decide (st.phase = .inBlock) || (decide (st.phase = .ready) && !(s.halted c k) && !(match s.ctxAt c k with
    | some x => x.evicting
    | none => false)))
/-- The firing priority of a stream: that of its context between blocks, in a block the one it began with (R51, R327). -/
def State.streamPrio (s : State) (c k : Nat) : Nat := if (s.stream c k).phase = .inBlock then (s.stream c k).prio else s.firingPrio c k
/-- The stream that issues when a move names one (R52): of those that are ready the one of the highest priority, the next in turn among equals.
One that waits is tried only by a move that names it, and not while a ready one has a higher priority; a stream at its commit or exit issues
nothing (log 84). -/
def State.chooseStream (s : State) (c k : Nat) : Nat :=
  let ready := [0, 1, 2, 3].filter fun j => s.issues c j && !(s.stream c j).waiting
  let turn := (s.cluster c).turn
  let before (i j : Nat) : Bool := decide (s.streamPrio c i > s.streamPrio c j) ||
    (decide (s.streamPrio c i = s.streamPrio c j) && decide ((i + 4 - turn) % 4 < (j + 4 - turn) % 4))
  match ready.foldl (fun (b : Option Nat) j => match b with
      | none => some j
      | some i => if before j i then some j else some i) none with
  | none => k
  | some w =>
    if !(s.issues c k) then k
    else if (s.stream c k).waiting && decide (s.streamPrio c w ≤ s.streamPrio c k) then k
    else w

/-- What a stream does next (R49 to R52, R234, R357). A stream of a context that does not run, or that is suspended at a block
boundary, does nothing. -/
def streamMove (s : State) : State × Option Instr :=
  let c := s.cur.cluster
  let k := s.cur.ctx
  let st := s.stream c k
  if !(s.running c k) then (s, none)
  else
    let boundary := decide (st.phase = .ready) || s.mayAbandon c k
    if boundary && !st.asyncs.isEmpty && !st.arch.th then (s, some .asyncTrap)
    else match st.phase with
      | .idle => (s, none)
      | .exited => (s, none)
      | .exiting => (s, some .streamExited)
      | .committing => (s, some .blockCommit)
      | .inBlock => fetchInstr s
      | .ready => match s.ctxAt c k with
        | some x => if x.susp || x.evicting then (s, none) else startBlock s
        | none => (s, none)

/-- The sequencer's turn when a move names a stream: the chosen stream acts, and where it issues, the turn goes on (R52). -/
def State.streamTurn (s : State) : State :=
  let c := s.cur.cluster
  let k := s.chooseStream c s.cur.ctx
  let s1 := if s.issues c k then s.modCluster c fun x => { x with turn := (k + 1) % 4 } else s
  { s1 with cur := { s1.cur with ctx := k } }
def pickStream (s : State) : State × Option Instr := streamMove s.streamTurn

/-- The operation word of a slot of an element, if its unit is present and its region runs (R27, R44). -/
def State.slotWord (s : State) (l : Locus) : Option Word := match s.elem? l.cluster l.site l.ctx, s.region? l.cluster l.ctx with
  | some e, some r =>
    if !(s.running l.cluster l.ctx) || !r.started || r.frozen || e.snapped then none
    else e.unit.map fun u => u.words.get 0 l.slot
  | _, _ => none
/-- The slot that is chosen fires: the operation of its word; the operand fields of a CE word go with it. -/
def fireMove (s : State) : State × Option Instr := match s.slotWord s.cur with
  | none => (s, none)
  | some w =>
    if isCeSite s.cur.site then match decodeCe w with
      | some (i, cw) => ({ s with cew := cw }, some i)
      | none => (s, none)
    else (s, decodeMe w)

/-- An element's issue when a move names a slot (R45): the first of the ready ones fires, and the others are passed over. -/
def State.slotTurn (s : State) : State :=
  let c := s.cur.cluster
  let site := s.cur.site
  let w := s.chooseSlot c site s.cur.ctx s.cur.slot
  let s1 := s.passOver c site w.1 w.2
  { s1 with cur := { s1.cur with ctx := w.1, slot := w.2 } }
def pickFire (s : State) : State × Option Instr := fireMove s.slotTurn

/-- What an element does with the token at the head of its command input (R40): a picot, or a command; any other token is consumed and
answered with ERR QCMD, which waits for room on o0; a MARK of another kind than the three is no picot. An element that has recorded its state takes picots
alone (R165, R328). An ABORT on Q is taken as having come to the member of the element's region (DEDUCED, log 93). -/
def pickCommand (s : State) : State × Option Instr :=
  let c := s.cur.cluster
  let k := s.cur.ctx
  let site := s.cur.site
  match s.elem? c site k, s.running c k with
  | some e, true => match e.inQ with
    | [] => (s, none)
    | t :: _ =>
      let v := (t.lane 0).toNat
      let picot := decide (t.kind = kMark) && decide (v % 256 ≤ 2)
      if e.snapped && !picot then (s, none)
      else if picot then match v % 256 with
        | 0 => (s, some (.snap t.aux))
        | 1 => ((s.dropQ c site k).settle c site, some (.abort (BitVec.ofNat 24 (v / 256))))
        | _ => (s, some (.switch (BitVec.ofNat 24 (v / 256))))
      else
        let plain := decide (t.kind = kCmd) && decide (t.width = 1) && decide (v / 16 % 2 ^ 20 = 0)
        let n := BitVec.ofNat 4 v
        match (if !plain then none
          else match v / 2 ^ 24 with
            | 1 => some Instr.fetch
            | 2 => if isCeSite site then some (.unlatch n) else none
            | 3 => if isCeSite site && decide (e.typ = 1) then some (.accclr n) else none
            | _ => none) with
        | some i => (s, some i)
        | none =>
          if !(e.room t.slot.toNat 0) then (s, none)
          else (((s.answer c site k t.slot.toNat 0x11 1 t).dropQ c site k).settle c site, none)
  | _, _ => (s, none)

/-- The MX goes on with its oldest command (R300); words that are no command are refused (R360). -/
def pickMx (s : State) : State × Option Instr :=
  let c := s.cur.cluster
  match s.mxHead c with
  | none => (s, none)
  | some h => match decodeMx h.w0 h.w1 with
    | none => (s.mxRefuse c h, none)
    | some (.mma w) => (s, some (if h.started then .mmaKstep w else .mma w))
    | some i => (s, some i)

/-- An engine goes on with the issued command that `sel` names (R310 to R313). -/
def pickEngine (s : State) : State × Option Instr := match s.issuedCmd? s.cur.cluster s.cur.ctx s.cur.sel with
  | none => (s, none)
  | some x => (s, match x.q with
    | 2 => decodeCl x.desc
    | 3 => decodeLk x.desc
    | 4 => decodeSc x.desc
    | _ => none)

/-- An upset of so many more symbols of a line of memory, the first at a bit of it (R123, R382). Bits that the line's protection does not cover change
unseen; of those covered, one symbol in error is correctable, and two are on a line written under a tolerant page's tag. -/
def State.upsetLine (s : State) (line symbols bit : Nat) : State :=
  let ft := s.prot.get 0 line
  let b := bit % 512
  let k := 64 * line
  if symbols = 0 then s
  else if keyAp k = 0 ∧ !(coveredBit ft b) then s.wr (k + b / 8) 1 (s.rd (k + b / 8) 1 ^^^ 2 ^ (b % 8))
  else match s.mark k with
    | 2 | 3 => s
    | m =>
      let n := symbols + if m = 0 then 0 else if m = 1 then 1 else 2
      s.setMark k (if n = 1 then 1 else if n = 2 ∧ keyAp k = 0 ∧ ft ≠ 0 then 4 else 2)
/-- Bits are upset in a word of scratchpad: a correctable or uncorrectable error, or worse where it was worse (R380). -/
def upset (old kind : Nat) : Nat := if kind = 1 ∨ kind = 2 then Nat.max old kind else old

/-- A token with its poison bit set. -/
def Token.spoilt (t : Token) : Token := { t with poison := true }
/-- The i-th element of a list is changed. -/
def modAt {α : Type} (l : List α) (i : Nat) (f : α → α) : List α := (List.range l.length).zip l |>.map fun e => if e.1 = i then f e.2 else e.2
/-- An uncorrectable error in a matching entry, latched value or output register poisons the token it holds (R374). -/
def Elem.upset (e : Elem) (slot part i : Nat) : Elem :=
  let x := e.slot slot
  let entry (f : Entry → Entry) : Elem := { e with slots := e.slots.set slot { x with entries := modAt x.entries i fun q => (q.1, f q.2) } }
  match part with
  | 0 => entry fun q => { q with a := q.a.map Token.spoilt }
  | 1 => entry fun q => { q with b := q.b.map Token.spoilt }
  | 2 => entry fun q => { q with c := q.c.map Token.spoilt }
  | 3 => { e with slots := e.slots.set slot { x with latch := x.latch.map Token.spoilt } }
  | 4 => { e with out0 := modAt e.out0 i Token.spoilt }
  | 5 => { e with out1 := modAt e.out1 i Token.spoilt }
  | _ => e

/-- The instruction of a move, in the state after its fetch; none where the move ends with the fetch. -/
def pick (s : State) (w : What) : State × Option Instr := match w with
  | .stream => pickStream s
  | .fire => pickFire s
  | .command => pickCommand s
  | .mx => pickMx s
  | .engine => pickEngine s
  | .event i => (s, some i)
  | .upsetMemory line symbols bit => (s.upsetLine line symbols bit, none)
  | .upsetScratchpad word kind => (s.modCluster s.cur.cluster fun x => { x with spadMark := Map.put 0 x.spadMark word (upset (x.spadMark.get 0 word) kind) }, none)
  | .upsetToken part i => (s.modElem s.cur.cluster s.cur.site s.cur.ctx fun e => e.upset s.cur.slot part i, none)

/-! ### Placing one word where the next step finds it -/

/-- The page of the placed block: a 64 KiB page of local HBM, readable and writable, mapped one to one. -/
def placedLeaf : DWord := 0x3F#64

/-- The context, region and stream that fetch a placed sequencer word, and the die ready (R25): header at 0x4000 with W set, the word at 0x4004, a
second header after it. -/
def placeSeq (s : State) (w : Word) : State :=
  let hdr : Nat := 0xFC008000
  let s1 := ((s.wr (hbm 0x4000) 4 hdr).wr (hbm 0x4004) 4 w.toNat).wr (hbm 0x4008) 4 hdr
  let rg : Region := { cid := 1, started := true }
  let cx : Ctx := { rcb := 0, running := true, regions := [⟨0, 0, 0, 0⟩] }
  let leaf : Tlb := { root := 0, va := 0, ps := 0, leaf := placedLeaf }
  let s2 := s1.modCluster 0 fun c => { c with
    regions := c.regions.set 0 rg, seqTlb := [leaf], agTlb := [leaf],
    streams := c.streams.set 0 { c.streams.get {} 0 with pc := 0x4000, phase := .ready } }
  { s2.modDie 0 fun d => { d with drdy := 0x7FFFFFFFFFFFF } with ctxs := s2.ctxs.set 1 cx, agenda := [⟨{}, .stream⟩] }

/-- The region and element that fire a placed operation word: slot 0 of the element at a site of cluster 0. -/
def placeSlot (s : State) (site : Nat) (w : Word) : State :=
  let unit : ElemUnit := { words := [(0, w)] }
  let e : Elem := { typ := if site = 0 then 0 else 2, unit := some unit }
  let rg : Region := { cid := 1, started := true }
  let cx : Ctx := { rcb := 0, running := true, regions := [⟨0, 0, 0, 0⟩] }
  let s1 := s.modCluster 0 fun c => { c with
    regions := c.regions.set 0 rg, sites := c.sites.set site { c.sites.get {} site with elems := [(0, e)] } }
  { s1 with ctxs := s1.ctxs.set 1 cx, agenda := [⟨{ site := site }, .fire⟩] }

/-- `State.withFetchWord`'s work: a sequencer word is placed in a block of stream 0 of cluster 0; a word that only an element's decoder
reads, in slot 0 of CE (0,0) or of the ME beside it. -/
def placeWord (s : State) (nbits w : Nat) : State :=
  let x : Word := BitVec.ofNat 32 w
  if nbits > 32 then s
  else match decodeSeq x with
    | .ok _ => placeSeq s x
    | .bad _ => match decodeCe x with
      | some _ => placeSlot s 0 x
      | none => placeSlot s 1 x

end Sys2Proof.Machine
end

