-- ==== Sys2Proof/Machine/Step.lean ====
section
/-! DEFINITION. One step: the next move is taken, its instruction fetched and executed. -/
namespace Sys2Proof.Machine

/-- The step function (three outcomes). -/
def step (s : State) : Host.Outcome State Fault Refusal :=
  let m := nextMove s
  if agentOk m.1.cur then
    match pick m.1 m.2 with
    | (t, some i) => exec i t
    | (t, none) => .next t
  else .fault .noSuchAgent

/-- See Fetch.lean: the state in which the very next step runs the instruction of a table word. -/
def State.withFetchWord (s : State) (nbits w : Nat) : State := placeWord s nbits w

end Sys2Proof.Machine
end

