-- ==== Sys2Proof/Safety.lean ====
section
/-! DEFINITION. The terms in which claims about the machine are stated: when an instruction runs to its own effect, and the state it
then leaves. -/
namespace Sys2Proof.Machine

/-! ### Sequencer streams -/

/-- The state after a stream's instruction whose effect on the stream is `st` (R49): the next word, or at the end of the block the
fall-through block, whose header has been checked (R354). -/
def State.advance (s : State) (st : Stream) : State :=
  if st.idx + 1 < st.len then s.setMe { st with idx := st.idx + 1, waiting := false }
  else (s.checkTarget s.cur.cluster s.cur.ctx st.fallThrough true).1.setMe
    { st with idx := st.idx + 1, waiting := false, next := st.fallThrough, phase := .committing }

/-- The stream's instruction is not the last of its block, or a block header follows the block (R354). -/
def State.CanAdvance (s : State) : Prop :=
  s.me.idx + 1 < s.me.len ∨ (s.checkTarget s.cur.cluster s.cur.ctx s.me.fallThrough true).2 = none

/-- The state after a taken transfer to `target` by a stream that has become `st` (R49). -/
def State.branch (s : State) (st : Stream) (target : DWord) : State :=
  (s.checkTarget s.cur.cluster s.cur.ctx target false).1.setMe
    { st with waiting := false, next := target, taken := true, phase := .committing }

/-- The state in which an instruction's end is recorded: at the end of a block, the state after its fall-through header was read. -/
def State.moved (s : State) : State :=
  if s.me.idx + 1 < s.me.len then s else (s.checkTarget s.cur.cluster s.cur.ctx s.me.fallThrough true).1

/-- The instruction traps at its index, in a state `s1` in which its accesses have been checked (R353); at the last word of its block what the
fall-through word gives goes before (R355). -/
def Traps (s1 s : State) (i : Instr) (code detail : Nat) (addr : DWord) : Prop := exec i s = .next (s1.trapHere code detail addr)

/-- A transfer, which no fall-through word follows, traps at its index. -/
def TrapsJump (s1 s : State) (i : Instr) (code detail : Nat) (addr : DWord) : Prop :=
  exec i s = .next (s1.takeTrap s1.cur.cluster s1.cur.ctx code detail addr s1.me.idx)

/-- A block header lies at the target (R354). -/
def State.CanBranch (s : State) (target : DWord) : Prop :=
  (s.checkTarget s.cur.cluster s.cur.ctx target false).2 = none

/-- An outcome is that the stream becomes `st` and goes on, from a state `s` in which the instruction's accesses have been made. -/
def GoesOn (s : State) (o : Out) (st : Stream) : Prop := o = .next (s.advance st)

/-- The instruction leaves the stream as `st` and goes on. -/
def Runs (s : State) (i : Instr) (st : Stream) : Prop := GoesOn s (exec i s) st

/-- The s register d takes v and taint t (R137, R170). -/
def Writes (s : State) (i : Instr) (d : BitVec 6) (v : DWord) (t : Bool) : Prop := Runs s i (s.me.wr d v t)

/-- The predicate p takes v. -/
def WritesP (s : State) (i : Instr) (p : BitVec 3) (v : Bool) : Prop := Runs s i { s.me with view := s.me.view.wp p v }

/-- The time register d takes t. -/
def WritesT (s : State) (i : Instr) (d : BitVec 3) (t : Time) : Prop := Runs s i { s.me with view := s.me.view.wt d t }

/-- An exact value rounded in a format under a stream's rm and ftz, with its flags (R209). -/
def roundIn (f : Fmt) (r : Regs) (v : Val) (fl : FFlags) : DWord × FFlags :=
  (BitVec.ofNat 64 (f.round r.rm r.ftz 0 v).1, fl.or (f.round r.rm r.ftz 0 v).2)

/-- The s register d takes a floating-point result with taint t, and its flags stick. -/
def WritesF (s : State) (i : Instr) (d : BitVec 6) (r : DWord × FFlags) (t : Bool) : Prop :=
  Runs s i { s.me.wr d r.1 t with view := (s.me.wr d r.1 t).view.flags r.2 }

/-- The ten conditions of R202. -/
def condHolds (c : Nat) (x y : DWord) : Bool :=
  [x == y, x != y, x.slt y, y.sle x, x.ult y, y.ule x, x.sle y, y.slt x, x.ule y, y.ult x].getD c false

/-- A buffered effect is entered (R49). -/
def Buffers (s : State) (i : Instr) (e : Eff) : Prop := Runs s i (s.me.addEff e)

/-! ### Firings of elements -/

/-- The slot that acts fires f at element e: its operands are present, every output it needs has room, and no change that it reads is deeper than its
colour (R44, R58, R244). -/
structure State.CanFire (s : State) (f : Firing) (e : Elem) : Prop where
  elem : s.elem? s.cur.cluster s.cur.site s.cur.ctx = some e
  ready : s.readyAt s.cur.cluster s.cur.site s.cur.ctx s.cur.slot = some f
  room : f.info.needs.all (e.room f.slot) = true
  shallow : s.anyDeep f = false

/-- The slot's firing ends with the results and changes of `r`: its results have the width granted (R242), a local delivery finds its entry free
(R245), and the MU has room for its batch (R73). -/
def Fires (s : State) (i : Instr) (f : Firing) (r : FireOk) : Prop :=
  (∀ o ∈ r.outs, r.st.widthBad s.cur.cluster s.cur.ctx o.2 = false) →
  s.locBusy f r = false → s.muRoom (s.cidAt f.c f.k) (s.firingUps f r) false = true → exec i s = .next (s.fired f r)

/-- The firing gives one result on the slot's output and changes nothing else. -/
def Emits (s : State) (i : Instr) (f : Firing) (t : Token) : Prop := Fires s i f { st := s, outs := [(f.out, t)] }

/-- An element-wise operation (R237, R246): element i of the result is g of element i of each source, where the mask is off A's. -/
def Maps (s : State) (i : Instr) (f : Firing) (e : Elem) (g : CeEnv → Nat → El → El → El → Nat) : Prop :=
  ∀ a, f.a = some a → badWidths (CeEnv.ofFiring e f.info.w a).ty f.toks = false →
    Emits s i f { a with lanes := packLanes (tyBits (CeEnv.ofFiring e f.info.w a).ty) ((CeEnv.ofFiring e f.info.w a).mapped g e f a) }

/-- The slot's firing fails with one ERR token on o0 in place of its result, its operands taken, and what their group loses with it (R265, R359), where o0 has room and the MU too. -/
def Fails (s : State) (i : Instr) (f : Firing) (e : Elem) (code count : Nat) : Prop :=
  let r := s.failed f code count
  e.room f.slot 0 = true → s.muRoom (s.cidAt f.c f.k) (s.firingUps f r) false = true → exec i s = .next (s.fired f r)

/-- A steering operation: A on o0 where the test holds, else on o1. -/
def Steers (s : State) (i : Instr) (f : Firing) (a : Token) (test : Bool) : Prop :=
  Fires s i f { st := s, outs := [(if test then 0 else 1, a)] }

/-- A firing that begins a run, a fill or a barrier, its operands staying where they are (R69, R389). -/
def Begins (s : State) (i : Instr) (t : State) : Prop := exec i s = .next t

/-! ### Runs of memory elements -/

/-- The stream that an ME serves by a step when a move names one: its run, in the state in which the others were passed over (R45). -/
structure State.Serves (s : State) (step : State → Nat → Nat → Nat → Nat → State) (p : State) (x : RunAt) (r : Run) : Prop where
  passed : p = s.passRuns (s.runRivals step s.cur.cluster s.cur.site) s.cur.cluster s.cur.site
    (s.chooseRun step s.cur.cluster s.cur.site s.cur.ctx s.cur.sel).1 (s.chooseRun step s.cur.cluster s.cur.site s.cur.ctx s.cur.sel).2
  run : p.runAt s.cur.cluster s.cur.site (s.chooseRun step s.cur.cluster s.cur.site s.cur.ctx s.cur.sel).1
    (s.chooseRun step s.cur.cluster s.cur.site s.cur.ctx s.cur.sel).2 = some (x, r)

/-- A run that may make its next access: not held, over or stalled. -/
def State.MayAccess (p : State) (x : RunAt) (r : Run) : Prop := p.runHeld x r = false ∧ r.isOver = false ∧ r.stalled = none

/-- The step of the stream served leaves `t`, and its run as `r2`, with the EOS of flag [1] after its last element (R288). -/
def AgDoes (s p : State) (x : RunAt) (r : Run) (t : State) (r2 : Run) : Prop :=
  exec .agAccess s = .next ((if r2.pos ≠ r.pos ∨ r2.isOver = true then t.farDone (farRun x.c x.k x.site r.desc) else t).setRun x.c x.site x.k
    { r2 with ready := r2.ready ++ (if r2.isOver && (flagsOf x.info.i).2 then [p.runEos x r] else []) })

/-- An access of n bytes at va is made at a home of this module: the state and the run after it, its value, and whether it met poison (R119, R123, R383). -/
def State.NearAccess (p : State) (x : RunAt) (r : Run) (va : DWord) (n : Nat) (act : AgAct) (t : State) (r1 : Run) (v : Nat) (bad : Bool) : Prop :=
  ∃ s1 key, p.agHome x.c x.k va n act.acc = (s1, .ok key) ∧ isFar key = false ∧
    (let g := s1.atHome key n r.cov act
     t = (if accWrites act.acc then g.1.setProt key n (g.1.protAt (g.1.rootAt x.c x.k) va) else g.1) ∧ v = g.2.1 ∧ bad = g.2.2.1 ∧
       r1 = { r with cov := g.2.2.2, retried := false, ranged := false })

/-! ### The invariant of every step -/

/-- A list of pointstamps holds one entry at most for a context, location and time, and every entry is live (R70). -/
def Keyed (l : List Stamp) : Prop := (l.map fun p => (p.cid, p.loc, p.time)).Nodup ∧ ∀ p ∈ l, p.count ≠ 0

/-- Memory is in canonical form, contexts are listed once each by their ids, and every cluster's pointstamps are keyed. -/
def State.Canonical (s : State) : Prop :=
  Memory.wf s.mem = true ∧ Map.sorted s.ctxs = true ∧ ∀ c, Keyed (s.cluster c).stamps

/-- The sum of a context's counts at a location and time. -/
def countAt (l : List Stamp) (cid loc : Nat) (t : Time) : Int :=
  ((l.filter fun p => decide (p.cid = cid) && decide (p.loc = loc) && decide (p.time = t)).map Stamp.count).foldl (· + ·) 0

end Sys2Proof.Machine
end

