-- ==== Sys2Proof/Certificates/Slice0/Obligations.lean ====
section
/-! DEFINITION. What is claimed of the machine: one statement per definition, each listed in OBLIGATIONS.json. A statement of what an
instruction does gives its next state whole, so it is its frame too. -/
section
open Sys2Proof Sys2Proof.Machine

/-- R49, R44, R45, R52, R300, R310 to R313, R353: a step is the execution of the instruction that the next move names, in the state after its fetch: the word at the
index of the stream that has the turn, the first word of its next block, an exit or commit it stands at, a slot's operation word with its operand fields, an
element's picot or command, the MX's oldest command, an engine's command; an undecodable word traps. No ready stream has a higher firing priority than the one that has the
turn, and no ready slot that was not tried already goes before the one that fires. Around its instruction a step only counts itself and time, and reads the sensors (log 81). The
move and the time that passes are the model's free choice (logs 1, 2, 84); an ABORT on a command input is taken as having come to the element's member (log 93). -/
def Obligations.StepRunsDecoded : Prop :=
  ∀ (s : State),
    let t := (nextMove s).1
    let m := (nextMove s).2
    agentOk t.cur = true →
    (t.tick = s.tick + 1 ∧ t.mem = s.mem ∧ t.marks = s.marks ∧ t.ctxs = s.ctxs ∧ t.ports = s.ports ∧ t.agenda = s.agenda.drop 1 ∧ t.power.toNat ≤ 5200 ∧ t.power.toNat ≤ (s.iod 0).mcap.toNat) ∧
    (∀ i, m = .event i → step s = exec i t) ∧
    (let u := t.streamTurn
     let c := u.cur.cluster
     let k := u.cur.ctx
     let st := u.me
     let at_ : DWord := st.pc + 4#64 + BitVec.ofNat 64 (4 * st.idx)
     (c = t.cur.cluster ∧ u.mem = t.mem ∧ u.ctxs = t.ctxs ∧ ∀ l j, u.stream l j = t.stream l j) ∧
     (t.issues c t.cur.ctx = true → ∀ j, j < 4 → t.issues c j = true → (t.stream c j).waiting = false → t.streamPrio c j ≤ t.streamPrio c k) ∧
     (m = .stream → u.running c k = true →
       (∀ v w, st.phase = .inBlock → (st.waiting = false ∨ st.asyncs = [] ∨ st.arch.th = true) → u.fetchWord c k at_ = (v, .ok w) →
         (∀ i, decodeSeq w = .ok i → step s = exec i v) ∧
         (∀ d, decodeSeq w = .bad d → step s = .next (v.takeTrap c k 1 d (w.zeroExtend 64) st.idx))) ∧
       (∀ v h v1 w x i, st.phase = .ready → (st.asyncs = [] ∨ st.arch.th = true) → u.ctxAt c k = some x → x.susp = false → x.evicting = false →
         u.fetchWord c k st.pc = (v, .ok h) → isHeader h = true → headerClean h = true →
         (v.beginBlock h).fetchWord c k (st.pc + 4#64) = (v1, .ok w) → decodeSeq w = .ok i → step s = exec i v1) ∧
       ((st.phase = .ready ∨ st.phase = .inBlock ∧ st.waiting = true) → st.asyncs ≠ [] → st.arch.th = false → step s = exec .asyncTrap u) ∧
       (st.phase = .committing → (st.waiting = false ∨ st.asyncs = [] ∨ st.arch.th = true) → step s = exec .blockCommit u) ∧
       (st.phase = .exiting → step s = exec .streamExited u))) ∧
    (let u := t.slotTurn
     (∀ r ∈ t.rivals t.cur.cluster t.cur.site, r.tried = false →
       ∃ b ∈ t.rivals t.cur.cluster t.cur.site, (b.k, b.slot) = (u.cur.ctx, u.cur.slot) ∧ r.before b = false) ∧
     (∀ w, m = .fire → u.slotWord u.cur = some w →
       (∀ i cw, isCeSite u.cur.site = true → decodeCe w = some (i, cw) → step s = exec i { u with cew := cw }) ∧
       (∀ i, isCeSite u.cur.site = false → decodeMe w = some i → step s = exec i u))) ∧
    (∀ e x r, m = .command → t.elem? t.cur.cluster t.cur.site t.cur.ctx = some e → t.running t.cur.cluster t.cur.ctx = true → e.inQ = x :: r →
      let v := (x.lane 0).toNat
      (x.kind = kMark →
        (v % 256 = 0 → step s = exec (.snap x.aux) t) ∧
        (v % 256 = 1 → step s = exec (.abort (BitVec.ofNat 24 (v / 256))) ((t.dropQ t.cur.cluster t.cur.site t.cur.ctx).settle t.cur.cluster t.cur.site)) ∧
        (v % 256 = 2 → step s = exec (.switch (BitVec.ofNat 24 (v / 256))) t) ∧
        (2 < v % 256 → e.snapped = false → e.room x.slot.toNat 0 = true →
          step s = .next (((t.answer t.cur.cluster t.cur.site t.cur.ctx x.slot.toNat 0x11 1 x).dropQ t.cur.cluster t.cur.site t.cur.ctx).settle t.cur.cluster t.cur.site))) ∧
      (x.kind = kCmd → x.width = 1 → v / 16 % 2 ^ 20 = 0 → e.snapped = false →
        (v / 2 ^ 24 = 1 → step s = exec .fetch t) ∧
        (v / 2 ^ 24 = 2 → isCeSite t.cur.site = true → step s = exec (.unlatch (BitVec.ofNat 4 v)) t) ∧
        (v / 2 ^ 24 = 3 → isCeSite t.cur.site = true → e.typ = 1 → step s = exec (.accclr (BitVec.ofNat 4 v)) t))) ∧
    (∀ h i, m = .mx → t.mxHead t.cur.cluster = some h → decodeMx h.w0 h.w1 = some i →
      (∀ w, i = .mma w → h.started = true → step s = exec (.mmaKstep w) t) ∧
      ((∀ w, i ≠ .mma w) ∨ h.started = false → step s = exec i t)) ∧
    (∀ x i, m = .engine → t.issuedCmd? t.cur.cluster t.cur.ctx t.cur.sel = some x →
      (x.q = 2 ∧ decodeCl x.desc = some i ∨ x.q = 3 ∧ decodeLk x.desc = some i ∨ x.q = 4 ∧ decodeSc x.desc = some i) → step s = exec i t)

/-- Words worked out in the manual (R199, R202, R205, R208, R209, R225, R226) decode to their instructions. -/
def Obligations.WordsOfTheManual : Prop :=
  decodeSeq 0x04104209 = .ok (.adds 1 1 2) ∧ decodeSeq 0x0470C028 = .ok (.clz 7 3) ∧ decodeSeq 0x29908280 = .ok (.cmp 3 2 4 5) ∧
  decodeSeq 0x2C98FFFF = .ok (.cmpi 1 3 7 0x1FFF) ∧ decodeSeq 0x5830849B = .ok (.amoCas 3 2 4 2 1 1) ∧
  decodeSeq 0x60518780 = .ok (.fadd 5 6 7 1) ∧ decodeSeq 0xC8010600 = .ok (.sigc 4 6 0) ∧ decodeSeq 0xD0010501 = .ok (.bara 4 5 1) ∧
  decodeSeq 0xFC100000 = .bad 1 ∧ decodeSeq 0 = .bad 1 ∧ decodeMx 0x0D420500 0x01000000 ≠ none

/-- Every well-formed sequencer instruction decodes from its encoding: no bit of an operand is lost. -/
def Obligations.SequencerRoundTrip : Prop :=
  ∀ (i : Instr) (w : Word), i.wf = true → encodeSeq i = some w → decodeSeq w = .ok i

/-- Every well-formed operation of a CE with its operand fields, of an ME and of the MX decodes from its encoding. -/
def Obligations.OperationRoundTrip : Prop :=
  ∀ i : Instr, i.wf = true →
    (∀ (c : CeW) (w : Word), i.ceOk c = true → encodeCe i c = some w → decodeCe w = some (i, c)) ∧
    (∀ w : Word, encodeMe i = some w → decodeMe w = some i) ∧
    (∀ w : Word × Word, encodeMx i = some w → decodeMx w.1 w.2 = some i)

/-- Every step that goes on, whatever moved, keeps memory in its canonical form, every context listed once, and every pointstamp listed once with a live count (R70). -/
def Obligations.EveryStepKeepsCanonical : Prop :=
  ∀ s t : State, s.Canonical → step s = .next t → t.Canonical

/-- R418, R340, R317: after reset no context is resident, no cluster, die or port is ready or enabled, no launch queue is valid, and no key is loaded. That memory lists nothing, so
that every byte reads 0, is the model's choice (log 4), with no line marked, and so is the value 0 of the general registers (log 3). -/
def Obligations.ResetLeavesNothingRunning : Prop :=
  let s := State.reset
  s.Canonical ∧ s.mem = [] ∧ s.marks = [] ∧ s.ctxs = [] ∧
  (∀ c k, s.region? c k = none ∧ s.running c k = false ∧ (s.stream c k).phase = .idle ∧ (s.stream c k).arch = {} ∧ s.mxHead c = none) ∧
  (∀ c, (s.cluster c).stamps = [] ∧ (s.cluster c).seqTlb = [] ∧ (s.cluster c).agTlb = [] ∧ (s.cluster c).tiles = [] ∧ (s.cluster c).tags = []) ∧
  (∀ d q, (s.die d).drdy = 0 ∧ (s.die d).lqbase.get 0 q = 0 ∧ (s.die d).cands = [] ∧ (s.die d).records = []) ∧
  (∀ p, s.portReady p = false ∧ (s.port p).tx.loaded = false ∧ (s.port p).rx.loaded = false)

/-- R3, R107: what has been written at a home is read there, little-endian, whatever its size; every other byte reads as before; and the canonical form is kept. -/
def Obligations.MemoryReadsAndWrites : Prop :=
  ∀ (m : List Host.Cell) (a n v : Nat),
    readLe (writeLe m a n v) a n = v % 2 ^ (8 * n) ∧
    (∀ i, i < n → readByte (writeLe m a n v) (a + i) = BitVec.ofNat 8 (v / 2 ^ (8 * i))) ∧
    (∀ k, k < a ∨ a + n ≤ k → readByte (writeLe m a n v) k = readByte m k) ∧
    (Memory.wf m = true → Memory.wf (writeLe m a n v) = true)

/-- The frame of the register instructions (R49, R170, R199 to R204, R209): one that goes on writes only its destination in the block view, which s0 discards, and, where it is
floating point, sets flags; the buffer stands, but that an atomic of the block which was to deliver into that destination no longer does (R133); the architectural registers, every other stream, the elements, memory and every other part stand. Fetching the fall-through header
may walk tables. -/
def Obligations.RegisterFormsFrame : Prop :=
  ∀ (s t : State) (d a b c n : BitVec 6) (p : BitVec 3) (i : BitVec 14) (u : BitVec 20) (f g : BitVec 1) (x y : BitVec 4) (j : Instr),
    s.CanAdvance → exec j s = .next t →
    let ints : List Instr :=
      [.add d a b, .sub d a b, .mul d a b, .mulh d a b, .mulhn d a b, .div d a b, .divn d a b, .rem d a b, .remn d a b, .adds d a b, .subs d a b,
       .and d a b, .or d a b, .xor d a b, .andn d a b, .orn d a b, .shl d a b, .shr d a b, .sra d a b, .rol d a b, .min d a b, .max d a b,
       .minn d a b, .maxn d a b, .clz d a, .ctz d a, .popc d a, .brev d a, .addi d a i, .andi d a i, .ori d a i, .xori d a i, .shli d a n,
       .shri d a n, .srai d a n, .roli d a n, .li d u, .lui d u, .luh d u, .sel d a b g p, .mfs d a x, .fabs d a f, .fneg d a f]
    let floats : List Instr :=
      [.fadd d a b f, .fsub d a b f, .fmul d a b f, .fdiv d a b f, .fsqrt d a f, .fmin d a b f, .fmax d a b f, .ffma d a b c f, .fcvt d a x y]
    let w := s.me.view
    let v := t.me.view
    j ∈ ints ∨ j ∈ floats →
    ((∀ e, e ≠ d → v.rs e = w.rs e ∧ v.taintOf e = w.taintOf e) ∧ v.rs 0 = 0 ∧ v.taintOf 0 = false ∧
      v = { w with s := v.s, taint := v.taint, fpcr := v.fpcr } ∧ (j ∈ ints → v.fpcr = w.fpcr) ∧
      v.fpcr &&& 0xFFFFFFFFFFFFFF07#64 = w.fpcr &&& 0xFFFFFFFFFFFFFF07#64 ∧ v.fpcr ||| w.fpcr = v.fpcr) ∧
    (t.me.arch = s.me.arch ∧ t.me.effs = s.me.effs.map (fun e => match e with
        | (m, .amo fn va key w d2 o cv rm z q) => (m, .amo fn va key w (if d2 = d then 0 else d2) o cv rm z q)
        | e => e) ∧
      ((∀ m fn va key w o cv rm z q, (m, Eff.amo fn va key w d o cv rm z q) ∉ s.me.effs) → t.me.effs = s.me.effs) ∧ t.me.queues = s.me.queues ∧ t.me.issued = s.me.issued) ∧
    (∀ l k, (l, k) ≠ (s.cur.cluster, s.cur.ctx) → t.stream l k = s.stream l k) ∧
    (∀ l, { t.cluster l with streams := [], seqTlb := [], evcnt := [] } = { s.cluster l with streams := [], seqTlb := [], evcnt := [] }) ∧
    (∀ l, { t.die l with devcnt := [] } = { s.die l with devcnt := [] }) ∧
    t.mem = s.moved.mem ∧ t.marks = s.moved.marks ∧ t.ctxs = s.ctxs ∧ t.ports = s.ports ∧ t.iods = s.iods ∧ t.keys = s.keys

/-- The frame of a firing (R44, R359): beside what its operation does, only its element, the box beside it (of an ME that of a memory slice interface too, R17), the pointstamps, the
meridian unit's waiters and event counters change, and for a context with members on other modules its gateway messages (R339): memory, scratchpads, streams, tables and
every other site stand, and every context and port of a module on its own. -/
def Obligations.FiringFrame : Prop :=
  ∀ (s : State) (f : Firing) (r : FireOk),
    let u := if s.moreResults f r then s else r.st
    let t := s.fired f r
    t.mem = u.mem ∧ t.marks = u.marks ∧ t.prot = u.prot ∧ t.iods = u.iods ∧ t.keys = u.keys ∧ t.farReads = u.farReads ∧
    t.nodes = u.nodes ∧ t.signals = u.signals ∧ t.sent = u.sent ∧
    (∀ p, { t.port p with outq := [] } = { u.port p with outq := [] }) ∧
    ((∀ cid x, u.ctx? cid = some x → x.peers = []) → t.ctxs = u.ctxs ∧ t.ports = u.ports) ∧
    (∀ c site, (c, site) ≠ (f.c, f.site) → (isCeSite f.site = true ∨ c ≠ f.c ∨ site ∉ [56, 58, 60, 62]) → t.site c site = u.site c site) ∧
    (∀ c k, t.stream c k = u.stream c k) ∧
    (∀ c, { t.cluster c with sites := [], stamps := [], muStall := [], muWait := 0, muReported := false, evcnt := [] } =
      { u.cluster c with sites := [], stamps := [], muStall := [], muWait := 0, muReported := false, evcnt := [] }) ∧
    (∀ d, { t.die d with aggStall := [], aggWait := 0, aggReported := false } = { u.die d with aggStall := [], aggWait := 0, aggReported := false })

/-- R58, R244, R245: a firing that meets a change deeper than its colour fails with DEPTH; a slot that is not ready, or whose output has no room, leaves the machine as it is but
for the event of a stalled output; and a slot whose result finds its matching entry taken waits. -/
def Obligations.FiringsThatWait : Prop :=
  ∀ (s : State) (f : Firing) (e : Elem) (i : Instr),
    i ∈ [.ceAdd, .ceFma, .ceCmp, .cvt, .mov, .copy, .steerBit, .mergeAny, .tagInc, .redSum, .cjoin, .ctEnter, .khash, .mxc, .ctlSig] →
    (s.readyAt s.cur.cluster s.cur.site s.cur.ctx s.cur.slot = none → exec i s = .next s) ∧
    (s.elem? s.cur.cluster s.cur.site s.cur.ctx = some e → s.readyAt s.cur.cluster s.cur.site s.cur.ctx s.cur.slot = some f →
      (f.info.needs.all (e.room f.slot) = false → exec i s = .next (s.countWait s.cur.cluster 0x011 s.cur.ctx)) ∧
      (f.info.needs.all (e.room f.slot) = true →
        (∀ a, f.a = some a ∨ f.b = some a ∨ f.x = some a → s.tooDeep f.c f.k a = true → Fails s i f e 5 1) ∧
        (∀ a, f.a = some a → s.anyDeep f = false → s.widthBad s.cur.cluster s.cur.ctx a = false →
          s.locBusy f { st := s, outs := [(f.out, a)] } = true → exec .gate s = .next s)))

/-- R359, R370, R237, R242, Table 18.7: the firings that give one ERR token in place of their result, by code: WIDTH, TIME, PAIR, GROUP, RELEASE, POISONCMD, TILE and ALLOC. -/
def Obligations.FiringErrors : Prop :=
  ∀ (s : State) (f : Firing) (e : Elem) (a : Token) (w : MeW), s.CanFire f e → f.a = some a →
    let d := (s.declOf f.c f.k a.colour.toNat).depth
    let t := a.time
    let j := f.info.w.k.toNat % 4
    let v := CeEnv.ofFiring e f.info.w a
    let kn := e.const f.info.w.k.toNat
    let tl := (a.lane 0).toNat % 256
    (let lane := BitVec.ofNat 32 (2 ^ 16 + f.site % 64 * 2 ^ 10 + ((descOf f.info.i).getD f.slot) % 16 * 2 ^ 6)
     f.error 4 1 = { kind := kErr, colour := a.colour, tag := a.tag, poison := true, last := a.last, aux := 4, lanes := [lane] }) ∧
    (∀ code n, (s.failed f code n).outs = [(0, f.error code n)] ∧
      (isCeSite f.site = true → f.info.isCred = false → f.info.op ∈ [0x18, 0x19, 0x27] → a.last = true →
        (s.failed f code n).st = s.setSlot f.c f.site f.k f.slot { e.slot f.slot with vals := [], size := 0, group := [] }) ∧
      (a.last = false → f.info.isCred = false → (s.failed f code n).st = s)) ∧
    (badWidths v.ty f.toks = true → Fails s .ceAdd f e 2 1 ∧ Fails s .ceFma f e 2 1 ∧ Fails s .ceCmp f e 2 1 ∧ Fails s .ceSel f e 2 1) ∧
    (let odd (n : Nat) : Prop := v.ty = 2 ∧ n % 2 = 1
     let value (u : Token) : Nat := (valLanes (s.declOf f.c f.k u.colour.toNat) u).length
     (odd (value a) → Fails s .cscale f e 2 1 ∧ Fails s .dense f e 2 1) ∧
     ∀ b, f.b = some b → (odd b.width → Fails s .cscale f e 2 1) ∧ (odd (value b) → Fails s .dadd f e 2 1)) ∧
    (s.widthBad s.cur.cluster s.cur.ctx a = true → Fails s .gate f e 2 1 ∧ Fails s .cnote f e 2 1) ∧
    (badWidths v.ty [a] = true → Fails s .accAdd f e 2 1 ∧ Fails s .accMax f e 2 1 ∧ Fails s .accReset f e 2 1 ∧ Fails s .dadd f e 2 1) ∧
    (badWidths 3 f.toks = true → Fails s .qnt f e 2 1 ∧ Fails s .qntb f e 2 1) ∧
    (3 ≤ d → Fails s .ctEnter f e 4 1) ∧
    (d = 0 → Fails s .ctLeave f e 4 1 ∧ Fails s .ctStep f e 4 1) ∧
    (0xFFFF < t.coord d + 1 → Fails s .ctStep f e 4 1) ∧
    (∀ b, f.b = some b →
      ((b.lane 0).toNat < t.coord j ∨ 2 ^ coordBits j ≤ (b.lane 0).toNat → Fails s .ctSet f e 4 1) ∧
      (a.recordOf (s.declOf f.c f.k a.colour.toNat) ≠ b.recordOf (s.declOf f.c f.k b.colour.toNat) ∨ t ≠ b.time → Fails s .cdist f e 6 1) ∧
      (32 < a.width + 4 → Fails s .mkchg f e 2 1)) ∧
    (65536 ≤ (e.slot f.slot).size → Fails s .redSum f e 7 1 ∧ Fails s .scanSum f e 7 1) ∧
    (∀ x, s.ctx? (s.cidAt f.c f.k) = some x → x.heldAt (s.cidAt f.c f.k) (s.holdLoc f) t ≤ 0 → Fails s .crel f e 8 1) ∧
    (a.poison = true → Fails s .mxc f e 9 1) ∧
    (∀ x, s.ctxAt f.c f.k = some x → x.colours.find? (kn.toNat % 64) = none → Fails s .alcAlloc f e 0x0C 1) ∧
    (∀ x y, s.ctxAt f.c f.k = some x → x.colours.find? (kn.toNat % 64) = some y → y.tags < (kn.extractLsb' 16 8).toNat + 1 →
      Fails s .alcAlloc f e 0x0C 1) ∧
    (∀ al, s.alloc? f.c f.k (kn.toNat % 64) = some al → al.width % a.width ≠ 0 → Fails s .pack f e 2 1) ∧
    (s.ownsTile f.c f.k tl = false → Fails s (.tilSetf w) f e 0x0A 1)

/-- R60: the product order of times, their join and meet, and the lexicographic order, which is total and contains it. -/
def Obligations.TimeOrder : Prop :=
  ∀ s t : Time,
    (s.le t = true ↔ ∀ i, i < 4 → s.coord i ≤ t.coord i) ∧
    (s.lt t = true ↔ s.le t = true ∧ s ≠ t) ∧
    (∀ i, i < 4 → (s.join t).coord i = Nat.max (s.coord i) (t.coord i) ∧ (s.meet t).coord i = Nat.min (s.coord i) (t.coord i)) ∧
    (s.key < t.key ↔ ∃ i, i < 4 ∧ s.coord i < t.coord i ∧ ∀ j, j < i → s.coord j = t.coord j) ∧
    (s.key < t.key ∨ s = t ∨ t.key < s.key) ∧
    (s.le t = true → s.key ≤ t.key)

/-- R64, R66: a time is complete under a frontier when no element is at or below it; the frontier of any times is an antichain of at most 8, every time that it reports complete is
complete under all of them, and up to 8 minimal times are kept exactly. -/
def Obligations.FrontierLaws : Prop :=
  (∀ (f : List Time) (t : Time), (complete f t = true ↔ ∀ x ∈ f, x.le t = false) ∧ complete [] t = true ∧ complete [Time.zero] t = false) ∧
  ∀ ts : List Time,
    let f := frontierOf ts
    f.length ≤ 8 ∧ (∀ x ∈ f, ∀ y ∈ f, x ≠ y → x.le y = false) ∧
    (∀ t, complete f t = true → complete ts t = true) ∧
    ((minimal ts).length ≤ 8 → ∀ t, complete f t = complete ts t)

/-- R68 to R70: an update adds exactly its count: at its location and time the context's count is what it was plus that, in 32 bits, an entry whose count becomes zero is free, and
every other count stands; a batch changes nothing outside the pointstamps, the waits at the meridian unit and the gateway messages to other modules (R339). -/
def Obligations.PointstampCounts : Prop :=
  ∀ (l : List Stamp) (cid loc : Nat) (t : Time) (u : Upd),
    (Keyed l →
      Keyed (stampAdd l cid u) ∧
      countAt (stampAdd l cid u) cid u.loc u.time = (countAt l cid u.loc u.time + u.n).bmod (2 ^ 32) ∧
      ((u.loc, u.time) ≠ (loc, t) → countAt (stampAdd l cid u) cid loc t = countAt l cid loc t) ∧
      ∀ k, k ≠ cid → countAt (stampAdd l cid u) k loc t = countAt l k loc t) ∧
    ∀ (s : State) (us : List Upd),
      let r := s.muApply cid us
      r.mem = s.mem ∧ r.marks = s.marks ∧ (∀ c k, r.stream c k = s.stream c k) ∧
      ((∀ x, s.ctx? cid = some x → x.peers = []) → r.ctxs = s.ctxs ∧ r.ports = s.ports) ∧
      ∀ c, { r.cluster c with stamps := [], muWait := 0, muReported := false } = { s.cluster c with stamps := [], muWait := 0, muReported := false }

/-- R133, R205, R208: when its block commits, a buffered store writes exactly its bytes; an atomic writes the new value of its function (R208) at its home, delivers the
old one into its destination, and leaves every other byte; a byte that the scheduler alone writes (R31) keeps its value. A store or atomic to another node's memory has been sent there as a
transfer before (R118, R132, R334): by which port is the model's choice, and so are the words of an atomic and of a store of less than a doubleword, which no rule gives (log 97, log 113); this
module's memory stands, and an atomic delivers what its home answered. -/
def Obligations.StoresAndAtomicsAtCommit : Prop :=
  ∀ (cls : List (Nat × List DWord)) (s : State) (i key n : Nat) (va y cv : DWord) (v : DWord) (rel ftz t : Bool) (d : BitVec 6) (rm : BitVec 2),
    (n = 1 ∨ n = 2 ∨ n = 4 ∨ n = 8 → isFar key = false →
      let u := State.applyEff cls s (i, .store va key n v rel)
      ((∀ j, j < n → s.roByte (key + j) = false) → u.rd key n = v.toNat % 2 ^ (8 * n)) ∧ (∀ k, s.roByte k = true → readByte u.mem k = readByte s.mem k) ∧
      ∀ k, k < key ∨ key + n ≤ k → readByte u.mem k = readByte s.mem k) ∧
    (n = 1 ∨ n = 2 ∨ n = 4 ∨ n = 8 → isFar key = true → ∀ (who w : Nat) (r : Regs),
      let atomic : Eff := .amo w va key n d y cv rm ftz t
      let words : List DWord := if n = 8 then [v] else Config.accessWords { fn := 19, n := n, y := v.toNat % 2 ^ (8 * n) }
      let ask : List DWord := Config.accessWords { fn := w, n := n, y := y.toNat, cv := cv.toNat, rm := rm.toNat, ftz := ftz }
      let p := Config.portTo (keyPeer key) % 48
      let h (ty : BitVec 4) (n : Nat) : FlitHdr :=
        { type := ty, dst := BitVec.ofNat 12 (keyPeer key), src := Config.moduleId, index := 0, xfer := BitVec.ofNat 16 s.cmdId, nq := BitVec.ofNat 5 (n - 1), ord := 0 }
      let sent (ws : List DWord) (u : State) : Prop := u.mem = s.mem ∧ (u.port p).outq = (s.port p).outq ++
        [(h 0 4, [BitVec.ofNat 64 (keyPa key), 0, 0, 0], none), (h 1 ws.length, ws, none)]
      farEffs r none [(i, .store va key n v rel), (i, atomic)] = [(i, va, key, n, .write words), (i, va, key, n, .amo ask)] ∧
      ((∀ e ∈ s.farReads, e.who ≠ who) → (s.farAsk who key n (.write words)).2 = none ∧ sent words (s.farAsk who key n (.write words)).1 ∧
        (s.farAsk who key n (.amo ask)).2 = none ∧ sent ask (s.farAsk who key n (.amo ask)).1) ∧
      (State.applyEff cls s (i, .store va key n v rel)).mem = s.mem ∧
      let u := State.applyEff cls s (i, atomic)
      u.mem = s.mem ∧ (d ≠ 0 → u.me.view.rs d = amoDelivered w n (s.rd key n) ∧ u.me.view.taintOf d = t) ∧
        ∀ e, e ≠ d → u.me.view.rs e = s.me.view.rs e ∧ u.me.view.taintOf e = s.me.view.taintOf e) ∧
    (n = 4 ∨ n = 8 → isFar key = false → (∀ j, j < n → s.roByte (key + j) = false) → y.toNat < 2 ^ (8 * n) → cv.toNat < 2 ^ (8 * n) →
      let w := 8 * n
      let old := s.rd key n
      let x := y.toNat
      let sum := (fmtF32.round (RMode.ofCode rm.toNat) ftz 0 ((fmtF32.decode ftz old).add (RMode.ofCode rm.toNat) (fmtF32.decode ftz x)).1).1
      let news : List (Nat × Nat) :=
        [(0, (old + x) % 2 ^ w), (1, Nat.land old x), (2, Nat.lor old x), (3, Nat.xor old x), (4, if signedOf w old ≤ signedOf w x then old else x),
         (5, if signedOf w old ≤ signedOf w x then x else old), (6, Nat.min old x), (7, Nat.max old x), (8, x), (9, if old = cv.toNat then x else old)]
      ∀ p, p ∈ news ∨ n = 4 ∧ p = (10, sum % 2 ^ 32) →
        let u := State.applyEff cls s (i, .amo p.1 va key n d y cv rm ftz t)
        u.rd key n = p.2 ∧ (∀ k, k < key ∨ key + n ≤ k → readByte u.mem k = readByte s.mem k) ∧
        (d ≠ 0 → u.me.view.rs d =
          (if n = 4 ∧ (p.1 = 6 ∨ p.1 = 7 ∨ p.1 = 10) then BitVec.ofNat 64 old else BitVec.ofInt 64 (signedOf w old)) ∧ u.me.view.taintOf d = t) ∧
        ∀ e, e ≠ d → u.me.view.rs e = s.me.view.rs e ∧ u.me.view.taintOf e = s.me.view.taintOf e)

/-- R225, R226: a signal adds to the count modulo 2^48 and keeps the larger status and bits [63:56]; an arm sets expected, clears arrived and poison, sets strict and counts gen; no
other byte changes, nor one that the scheduler alone writes (R31). A signal of no object does nothing; the lines written take the protection of their page (R123). -/
def Obligations.SignalsAndArms : Prop :=
  ∀ (s : State) (root va : DWord) (key inc status : Nat) (e : DWord) (b : Bool),
    s.signal root va 0 inc status = s ∧
    (key ≠ 0 → isFar key = false → let t := s.signal root va key inc status
      (∀ k, s.roByte k = true → readByte t.mem k = readByte s.mem k) ∧
      (keyAp key = 0 → key % 8 = 0 → t.prot.get 0 (key / 64) = s.protAt root va)) ∧
    (key ≠ 0 → isFar key = false → status < 256 → (∀ i, i < 8 → s.roByte (key + i) = false) →
      let t := s.signal root va key inc status
      (t.rd64 key).bits 47 0 = ((s.rd64 key).bits 47 0 + inc) % 2 ^ 48 ∧ (t.rd64 key).bits 55 48 = Nat.max ((s.rd64 key).bits 55 48) status ∧
      (t.rd64 key).bits 63 56 = (s.rd64 key).bits 63 56 ∧ ∀ k, k < key ∨ key + 8 ≤ k → readByte t.mem k = readByte s.mem k) ∧
    ((∀ i, i < 24 → s.roByte (key + i) = false) →
     let t := s.arm key e b
     let g := s.rd (key + 16) 8
     let h := t.rd (key + 16) 8
     t.rd64 key = e ∧ t.rd (key + 8) 8 = 0 ∧ h % 2 = 0 ∧ h / 2 % 2 = (if b then 1 else 0) ∧ h / 4 % 2 ^ 30 = g / 4 % 2 ^ 30 ∧
      h / 2 ^ 32 = (g / 2 ^ 32 + 1) % 2 ^ 32 ∧ ∀ k, k < key ∨ key + 24 ≤ k → readByte t.mem k = readByte s.mem k)

/-- R25, R117, R119 to R121, R124: an access waits (code 0) while the memory of its tables or its home is not ready; an address that is not canonical does not translate; a hit in the cache answers by the leaf alone; a walk that ends in a
permitted leaf gives the leaf's home, and sets in memory, at that leaf's address, its accessed bit and for a write its dirty bit, and nothing else; a home outside its aperture's populated range, or a permission
that is missing, is an error; a walk that meets a missing, malformed or damaged entry is XLATE with its detail (log 96 for a table entry at level 4). R143, R355, R388: an access that meets a range that its context has entered is RANGE: detail 1 for a stream, detail 2 for an AG run and for an engine
operation other than the one that entered it. -/
def Obligations.TranslationOutcome : Prop :=
  ∀ (s : State) (c : Nat) (ag : Bool) (root va : DWord) (acc : Access),
    (canonical va = true ↔ va.bits 63 47 = 0 ∨ va.bits 63 47 = 2 ^ 17 - 1) ∧
    (s.homeReady (hbm root.toNat) = false → s.translate c ag root va acc = (s, .error (0, 0))) ∧
    (s.homeReady (hbm root.toNat) = true → canonical va = false → s.translate c ag root va acc = (s, .error (3, 1))) ∧
    (∀ t, s.homeReady (hbm root.toNat) = true → canonical va = true → (if ag then (s.cluster c).agTlb else (s.cluster c).seqTlb).find? (fun t => t.hits root va) = some t →
      (t.leaf.getLsbD 5 = true ∨ acc = .load ∨ acc = .fetch) →
      (∀ k, leafVerdict t.leaf va acc = .ok k → s.translate c ag root va acc = (s, if s.homeReady k then .ok k else .error (0, 0))) ∧
      (∀ e, leafVerdict t.leaf va acc = .error e → s.translate c ag root va acc = (s, .error e))) ∧
    (∀ leaf : DWord,
      let ap := leaf.bits 8 6
      let k := leafKey leaf va
      let r := leaf.getLsbD 2
      let w := leaf.getLsbD 3
      (populated ap (keyPa k) = false → leafVerdict leaf va acc = .error (3, 4)) ∧
      (populated ap (keyPa k) = true →
        (acc = .load ∨ acc = .fetch → leafVerdict leaf va acc = if r then .ok k else .error (4, 1)) ∧
        (acc = .store → leafVerdict leaf va acc = if w then .ok k else .error (4, 2)) ∧
        (acc = .atomic → leafVerdict leaf va acc =
          if !r then .error (4, 1) else if !w then .error (4, 2)
          else if (ap = 3 ∨ ap = 4) ∧ leaf.getLsbD 9 = false then .error (4, 3) else .ok k))) ∧
    (∀ t r, s.translate c ag root va acc = (t, r) →
      let hit := (if ag then (s.cluster c).agTlb else (s.cluster c).seqTlb).find? fun t => t.hits root va
      let walks : Prop := s.homeReady (hbm root.toNat) = true ∧ canonical va = true ∧ ∀ x, hit = some x →
        accWrites acc = true ∧ x.leaf.getLsbD 3 = true ∧ x.leaf.getLsbD 5 = false
      (¬walks → t.mem = s.mem) ∧
      (walks → match (walkFrom s va 5 1 root.toNat).2 with
        | .error d => t.mem = s.mem ∧ r = .error (3, d)
        | .ok l => l.leaf = s.rd64 l.at_ ∧ l.leaf.getLsbD 0 = true ∧ l.leaf.getLsbD 1 = true ∧ match leafVerdict l.leaf va acc with
          | .error e => t.mem = s.mem ∧ r = .error e
          | .ok k =>
            let leaf := l.leaf ||| 16#64 ||| (if accWrites acc then 32#64 else 0#64)
            t.mem = (if leaf = l.leaf then s.mem else (s.wr64 l.at_ leaf).mem) ∧ k = leafKey l.leaf va ∧
              r = if s.homeReady k then .ok k else .error (0, 0))) ∧
    (∀ (x : Ctx) (n k slot owner : Nat) (t : State),
      let hit (r : Held) : Prop := r.lo < r.hi ∧ va.toNat < r.hi ∧ r.lo < va.toNat + n
      (va.toNat % n = 0 → s.translate s.cur.cluster false (s.rootAt s.cur.cluster s.cur.ctx) va acc = (t, .ok k) → t.ctxAt t.cur.cluster t.cur.ctx = some x →
        ((∃ r ∈ x.ranges, hit r) → s.access va n acc = (t, .error (5, 1))) ∧ ((∀ r ∈ x.ranges, ¬hit r) → s.access va n acc = (t, .ok k))) ∧
      (s.translate c true (s.rootAt c slot) va acc = (t, .ok k) → t.ctxAt c slot = some x →
        ((∃ r ∈ x.ranges, hit r) → s.agHome c slot va n acc = (t, .error (5, 2))) ∧ ((∀ r ∈ x.ranges, ¬hit r) → s.agHome c slot va n acc = (t, .ok k)) ∧
        ((∃ r ∈ x.ranges, r.owner ≠ owner ∧ hit r) → s.engHome c slot owner va n acc = (t, .error (5, 2))) ∧
        ((∀ r ∈ x.ranges, r.owner ≠ owner → ¬hit r) → s.engHome c slot owner va n acc = (t, .ok k))))

/-- R364, R365, R366: a context that faults is ending with its cause and no longer runs; every other context of its partition and fault domain is killed with code 0x11 unless it is itself
killed; a context of another partition or domain, and one that is evicted and so a candidate again, stands as it was; for each collective in flight an ABORT picot goes to every member
on another module. The premise is the invariant of `Obligations.EveryStepKeepsCanonical`. -/
def Obligations.FaultDomain : Prop :=
  ∀ (s : State) (cid code detail idx : Nat) (blk addr : DWord) (x : Ctx),
    s.Canonical → s.ctx? cid = some x → x.ending = none → code ≠ 0x11 →
    let t := s.faultEnd cid code detail blk addr idx
    (∃ y, t.ctx? cid = some y ∧ y.ending = some (code, detail, blk, addr, idx, false) ∧ y.running = false ∧ y.ranges = [] ∧ y.colls = []) ∧
    (∀ k z, k ≠ cid → s.ctx? k = some z → z.part = x.part → z.fdom = x.fdom → z.ending = none →
      (z.evicting = false ∨ z.regions ≠ []) → ∃ y, t.ctx? k = some y ∧ y.ending = some (0x11, 0, 0, 0, 0, true) ∧ y.running = false) ∧
    (∀ k z, k ≠ cid → s.ctx? k = some z → (z.part ≠ x.part ∨ z.fdom ≠ x.fdom ∨ z.evicting = true ∧ z.regions = []) → t.ctx? k = some z) ∧
    (∀ id m, (id ∈ x.colls.map CollOp.id ∨ id ∈ x.nodes.vals.map CollNode.id) → m ∈ x.others →
      (⟨cid, m.2, m.1, 0, { kind := 3, lanes := [BitVec.ofNat 32 (id % 2 ^ 24 * 256 + 1)], aux := BitVec.ofNat 16 cid }⟩ : Departed) ∈ t.sent)

/-- R353, R355, R215 to R217, R219, R222, R224 to R228: where a stream's instruction traps, with its code, detail and trapaddr; a word that is no block header at a register's target goes before
MISALIGN 2. -/
def Obligations.PreciseTraps : Prop :=
  ∀ (s s1 : State) (d a b c : BitVec 6) (z : BitVec 2) (o : BitVec 12) (o10 : BitVec 10) (sc : BitVec 2) (y u : BitVec 1) (h x p : BitVec 3) (q : BitVec 2)
    (code detail : Nat),
    let st := s.me
    let v := st.view
    let va := v.rs a + (o.signExtend 64 <<< z.toNat)
    let vo := v.rs a + (o10.signExtend 64 <<< z.toNat)
    let vc := v.rs a + (o.signExtend 64 <<< (2 + y.toNat))
    let n := 4 + 4 * y.toNat
    let r := v.rs a
    let t := v.rt h
    let cc := t.coord sc.toNat
    let sum := cc + (v.rs b).toNat
    (va.toNat % 2 ^ z.toNat ≠ 0 → Traps s s (.ld d a z o) 2 1 va ∧ Traps s s (.ldn d a z o) 2 1 va ∧ Traps s s (.st d a z o) 2 1 va) ∧
    (vo.toNat % 2 ^ z.toNat ≠ 0 → Traps s s (.lda d a z sc o10) 2 1 vo ∧ Traps s s (.stl d a z sc o10) 2 1 vo) ∧
    (vc.toNat % 2 ^ (2 + y.toNat) ≠ 0 → Traps s s (.ldc d a y o) 2 1 vc) ∧
    (r.toNat % n ≠ 0 → Traps s s (.amoAdd d a b sc y u) 2 1 r ∧ Traps s s (.amoCas d a b sc y u) 2 1 r ∧ Traps s s (.amoSwap d a b sc y u) 2 1 r) ∧
    (va.toNat % 2 ^ z.toNat = 0 → s.translate s.cur.cluster false (s.rootAt s.cur.cluster s.cur.ctx) va .store = (s1, .error (code, detail)) →
      (code ≠ 0 → Traps s1 s (.st d a z o) code detail va) ∧ (code = 0 → exec (.st d a z o) s = .next s1.waitHere)) ∧
    (r.toNat % 4 ≠ 0 → ∀ t bad, s.checkTarget s.cur.cluster s.cur.ctx r false = (t, bad) →
      (∀ d x, bad = some (0x0C, d, x) → TrapsJump t s (.jr a) 0x0C d x ∧ TrapsJump t s (.callr a) 0x0C d x) ∧
      ((∀ d x, bad ≠ some (0, d, x) ∧ bad ≠ some (0x0C, d, x)) → TrapsJump t s (.jr a) 2 2 r ∧ TrapsJump t s (.callr a) 2 2 r)) ∧
    (v.rstk = [] → v.nspill = 0 → TrapsJump s s .ret 6 2 v.spillbase) ∧
    (st.arch.th = false → Traps s s .reti 1 4 0xF0000030) ∧
    (st.wflag = false → Traps s s (.waitc a b) 0x0C 4 st.pc ∧ Traps s s (.waitb p a) 0x0C 4 st.pc ∧ Traps s s (.hzwait h x) 0x0C 4 st.pc) ∧
    (st.wflag = true → (v.rh x).bound = false → Traps s s (.hzwait h x) 0x10 2 (x.zeroExtend 64)) ∧
    (r = 0 ∨ r.toNat % 16 ≠ 0 → Traps s s (.sigc a b p) 2 3 r) ∧
    (r = 0 ∨ r.toNat % 32 ≠ 0 → Traps s s (.bara a b y) 2 3 r) ∧
    (2 ^ coordBits sc.toNat ≤ sum → Traps s s (.tinc p h sc b) 0x10 1 (BitVec.ofNat 64 sum)) ∧
    (2 ^ coordBits sc.toNat ≤ cc + b.toNat → Traps s s (.tinci p h sc b) 0x10 1 (BitVec.ofNat 64 (cc + b.toNat))) ∧
    (cc < (v.rs b).toNat → 2 ^ coordBits sc.toNat ≤ (v.rs b).toNat → Traps s s (.tadv p h sc b) 0x10 1 (v.rs b)) ∧
    (s.isTiSource (BitVec.setWidth 16 (v.rs b)).toNat = false → Traps s s (.hzpub h b) 0x10 3 ((BitVec.setWidth 16 (v.rs b)).zeroExtend 64)) ∧
    ((v.rs b).toNat % 16 ≠ 0 → Traps s s (.enqMx a b c) 2 3 (v.rs b)) ∧
    (r.toNat % 64 ≠ 0 → Traps s s (.enqCl a b) 2 3 r ∧ Traps s s (.enqLk a b) 2 3 r ∧ Traps s s (.enqSc a b) 2 3 r) ∧
    (r.toNat % 8 ≠ 0 → Traps s s (.enqTo a b q) 2 3 r) ∧
    ((v.rs b).toNat % 16 = 0 → 2 ^ 9 ≤ r.toNat → Traps s s (.enqAg a b c y) 0x0D 2 r) ∧
    ((v.rs b).toNat % 16 = 0 → s.plGood s.cur.cluster s.cur.ctx (r.bits 9 0) ((v.rs c).bits 15 0) = (s1, some false) →
      Traps s1 s (.enqPl a b c) 0x0D 5 (v.rs c)) ∧
    ((v.rs b).toNat % 16 = 0 → 4 ≤ (st.effs.filter fun e => match e.2 with
        | .cfg _ => true
        | _ => false).length → Traps s s (.cfgPage a b) 0x0D 7 (((encodeSeq (.cfgPage a b)).getD 0).zeroExtend 64))

/-- R232, R233, R355, R356: a trap discards the buffer, saves cause, block, index and address, sets th and goes to trapvec, at once and with nothing else of the stream, memory or any
other stream changed; with th set or trapvec 0 it is fatal. An instruction's trap is taken so at its index; at the last word of its block a fall-through word that is no block header is reported in its
place, but for ILLEGAL, TRAP and BLOCKFMT. TRAP takes code 0x0B with s(a). RETI is a transfer to trapblk whose commit clears th, and traps with th clear. -/
def Obligations.TrapsAndReturn : Prop :=
  ∀ (s : State) (code detail : Nat) (addr : DWord) (a : BitVec 6), code < 256 → detail < 256 →
    let st := s.me
    let r := st.arch
    let t := s.takeTrap s.cur.cluster s.cur.ctx code detail addr st.idx
    let u := t.stream s.cur.cluster s.cur.ctx
    (st.idx + 1 < st.len ∨ code = 1 ∨ code = 0x0B ∨ code = 0x0C → s.trapHere code detail addr = t) ∧
    (st.len ≤ st.idx + 1 → code ≠ 1 → code ≠ 0x0B → code ≠ 0x0C → ∀ v bad, s.checkTarget s.cur.cluster s.cur.ctx st.fallThrough true = (v, bad) →
      (∀ d x, bad = some (0, d, x) → s.trapHere code detail addr = v) ∧
      (∀ d x, bad = some (0x0C, d, x) → s.trapHere code detail addr = v.takeTrap s.cur.cluster s.cur.ctx 0x0C d x st.idx) ∧
      ((∀ d x, bad ≠ some (0, d, x) ∧ bad ≠ some (0x0C, d, x)) → s.trapHere code detail addr = v.takeTrap s.cur.cluster s.cur.ctx code detail addr st.idx)) ∧
    let regs : Regs := { r with cause := BitVec.ofNat 16 (detail <<< 8 ||| code), trapblk := st.pc, trapidx := BitVec.ofNat 7 st.idx, trapaddr := addr, th := true }
    (r.th = false → r.trapvec ≠ 0 →
      u.arch = regs ∧ u.view = u.arch ∧ u.effs = [] ∧ u.pc = r.trapvec ∧ u.phase = .ready ∧ u.queues = st.queues ∧ u.issued = st.issued ∧ t.mem = s.mem ∧
      ∀ c k, (c, k) ≠ (s.cur.cluster, s.cur.ctx) → t.stream c k = s.stream c k) ∧
    (r.th = true ∨ r.trapvec = 0 →
      t = ((s.modStream s.cur.cluster s.cur.ctx fun _ => { st with arch := regs, view := regs, effs := [], phase := .ready, waiting := false }).count s.cur.cluster 4 s.cur.ctx).faultEnd (s.cidAt s.cur.cluster s.cur.ctx) code detail st.pc addr st.idx) ∧
    Traps s s (.trap a) 0x0B 0 (st.view.rs a) ∧
    (r.th = true → s.CanBranch st.view.trapblk → exec .reti s = .next (s.branch { st with isReti := true } st.view.trapblk)) ∧
    (∀ v : Stream, v.isReti = true → v.isExit = false → v.committed.arch.th = false ∧ v.committed.pc = v.next) ∧
    (r.th = false → Traps s s .reti 1 4 0xF0000030)

/-- R199, R102, R103: every function of the integer ALU (Table 10.3): its word, its result, the taint of its sources, and nothing else. -/
def Obligations.AluResults : Prop :=
  (∀ (s : State) (d a b : BitVec 6), s.CanAdvance →
    let x := s.me.view.rs a
    let y := s.me.view.rs b
    let t := s.me.view.taintOf a || s.me.view.taintOf b
    let n := y.toNat % 64
    let word (fn : BitVec 8) : Word := 0x01#6 ++ d ++ a ++ b ++ fn
    let does (fn : BitVec 8) (i : Instr) (v : DWord) : Prop := decodeSeq (word fn) = .ok i ∧ Writes s i d v t
    does 0x00 (.add d a b) (x + y) ∧
    does 0x01 (.sub d a b) (x - y) ∧
    does 0x02 (.mul d a b) (x * y) ∧
    does 0x03 (.mulh d a b) (BitVec.ofInt 64 (x.toInt * y.toInt / 2 ^ 64)) ∧
    does 0x04 (.mulhn d a b) (BitVec.ofNat 64 (x.toNat * y.toNat / 2 ^ 64)) ∧
    does 0x05 (.div d a b) (if y = 0 then -1 else BitVec.ofInt 64 (x.toInt.tdiv y.toInt)) ∧
    does 0x06 (.divn d a b) (if y = 0 then -1 else x / y) ∧
    does 0x07 (.rem d a b) (if y = 0 then x else BitVec.ofInt 64 (x.toInt.tmod y.toInt)) ∧
    does 0x08 (.remn d a b) (if y = 0 then x else x % y) ∧
    does 0x09 (.adds d a b) (BitVec.ofInt 64 (Max.max (-(2 ^ 63)) (Min.min (2 ^ 63 - 1) (x.toInt + y.toInt)))) ∧
    does 0x0A (.subs d a b) (BitVec.ofInt 64 (Max.max (-(2 ^ 63)) (Min.min (2 ^ 63 - 1) (x.toInt - y.toInt)))) ∧
    does 0x10 (.and d a b) (x &&& y) ∧
    does 0x11 (.or d a b) (x ||| y) ∧
    does 0x12 (.xor d a b) (x ^^^ y) ∧
    does 0x13 (.andn d a b) (x &&& ~~~y) ∧
    does 0x14 (.orn d a b) (x ||| ~~~y) ∧
    does 0x18 (.shl d a b) (x <<< n) ∧
    does 0x19 (.shr d a b) (x >>> n) ∧
    does 0x1A (.sra d a b) (BitVec.ofInt 64 (x.toInt / 2 ^ n)) ∧
    does 0x1B (.rol d a b) (x <<< n ||| x >>> (64 - n)) ∧
    does 0x20 (.min d a b) (if x.toInt ≤ y.toInt then x else y) ∧
    does 0x21 (.max d a b) (if x.toInt ≤ y.toInt then y else x) ∧
    does 0x22 (.minn d a b) (if x.toNat ≤ y.toNat then x else y) ∧
    does 0x23 (.maxn d a b) (if x.toNat ≤ y.toNat then y else x)) ∧
  (∀ (s : State) (d a : BitVec 6), s.CanAdvance →
    let x := s.me.view.rs a
    let word (fn : BitVec 8) : Word := 0x01#6 ++ d ++ a ++ 0#6 ++ fn
    let does (fn : BitVec 8) (i : Instr) (v : DWord) : Prop := decodeSeq (word fn) = .ok i ∧ Writes s i d v (s.me.view.taintOf a)
    (∃ n, n ≤ 64 ∧ (∀ i, i < n → x.getLsbD (63 - i) = false) ∧ (n < 64 → x.getLsbD (63 - n) = true) ∧ does 0x28 (.clz d a) (BitVec.ofNat 64 n)) ∧
    (∃ n, n ≤ 64 ∧ (∀ i, i < n → x.getLsbD i = false) ∧ (n < 64 → x.getLsbD n = true) ∧ does 0x29 (.ctz d a) (BitVec.ofNat 64 n)) ∧
    does 0x2A (.popc d a) (BitVec.ofNat 64 ((List.range 64).countP fun i => x.getLsbD i)) ∧
    (∃ r : DWord, (∀ i, i < 64 → r.getLsbD i = x.getLsbD (63 - i)) ∧ does 0x2B (.brev d a) r))

/-- R200 to R204: the immediate forms, comparisons, selection and predicate logic, with the words of the first three. -/
def Obligations.ImmediateAndPredicateResults : Prop :=
  (∀ (s : State) (d a n : BitVec 6) (i : BitVec 14) (u : BitVec 20), s.CanAdvance →
    let x := s.me.view.rs a
    let y := s.me.view.rs d
    let t := s.me.view.taintOf a
    let imm (op : BitVec 6) (i : BitVec 14) : Word := op ++ d ++ a ++ i
    let shi (k : BitVec 2) : Word := imm 0x06#6 (k ++ 0#6 ++ n)
    let does (w : Word) (j : Instr) (v : DWord) (t : Bool) : Prop := decodeSeq w = .ok j ∧ Writes s j d v t
    does (imm 0x02#6 i) (.addi d a i) (x + i.signExtend 64) t ∧
    does (imm 0x03#6 i) (.andi d a i) (x &&& i.signExtend 64) t ∧
    does (imm 0x04#6 i) (.ori d a i) (x ||| i.signExtend 64) t ∧
    does (imm 0x05#6 i) (.xori d a i) (x ^^^ i.signExtend 64) t ∧
    does (shi 0) (.shli d a n) (x <<< n.toNat) t ∧
    does (shi 1) (.shri d a n) (x >>> n.toNat) t ∧
    does (shi 2) (.srai d a n) (BitVec.ofInt 64 (x.toInt / 2 ^ n.toNat)) t ∧
    does (shi 3) (.roli d a n) (x <<< n.toNat ||| x >>> (64 - n.toNat)) t ∧
    does (0x07#6 ++ d ++ u) (.li d u) (u.signExtend 64) false ∧
    does (0x08#6 ++ d ++ u) (.lui d u) (y.extractLsb' 40 24 ++ u ++ y.extractLsb' 0 20) (s.me.view.taintOf d) ∧
    does (0x09#6 ++ d ++ u) (.luh d u) (u.signExtend 24 ++ y.extractLsb' 0 40) (s.me.view.taintOf d)) ∧
  (∀ (s : State) (d a b : BitVec 6) (p q r : BitVec 3) (c : BitVec 4) (i : BitVec 13) (n : BitVec 1), s.CanAdvance →
    let v := s.me.view
    let w : Word := 0x0A#6 ++ p ++ c ++ a ++ b ++ 0#7
    let wi : Word := 0x0B#6 ++ p ++ c ++ a ++ i
    (c.toNat ≤ 9 →
      decodeSeq w = .ok (.cmp p c a b) ∧ WritesP s (.cmp p c a b) p (condHolds c.toNat (v.rs a) (v.rs b)) ∧
      decodeSeq wi = .ok (.cmpi p c a i) ∧ WritesP s (.cmpi p c a i) p (condHolds c.toNat (v.rs a) (i.signExtend 64))) ∧
    (9 < c.toNat → decodeSeq w = .bad 2 ∧ decodeSeq wi = .bad 2) ∧
    Writes s (.sel d a b n p) d (if v.rp p = decide (n = 0) then v.rs a else v.rs b) (v.taintOf a || v.taintOf b) ∧
    WritesP s (.pand p q r) p (v.rp q && v.rp r) ∧
    WritesP s (.por p q r) p (v.rp q || v.rp r) ∧
    WritesP s (.pxor p q r) p (v.rp q ^^ v.rp r) ∧
    WritesP s (.pnot p q) p (!v.rp q) ∧
    WritesP s (.pmov p q) p (v.rp q) ∧
    WritesP s (.pset p) p true ∧
    WritesP s (.pclr p) p false)

/-- R205 to R207: a load whose access is good (R355) and whose line is good (R383) writes the value the block view holds, extended.
R205, R207: a store whose access is good enters the block's buffer: address, home, size, value, and whether it is a release.
R208, R133: an atomic whose access and line are good enters the buffer; it is performed at the block's commit (`Obligations.StoresAndAtomicsAtCommit`
says what it then does). -/
def Obligations.MemoryInstructionResults : Prop :=
  (∀ (s s1 : State) (d a : BitVec 6) (sz c : BitVec 2) (z : BitVec 1) (o : BitVec 12) (o10 : BitVec 10) (va : DWord) (v : Nat),
     let st := s1.me
     let t := s.me.view.taintOf a
     s1.CanAdvance →
     (va = s.me.view.rs a + (o.signExtend 64 <<< sz.toNat) → s.loadView va (2 ^ sz.toNat) .load = (s1, .ok v) →
       GoesOn s1 (exec (.ld d a sz o) s) ((st.wr d (BitVec.ofInt 64 (signedOf (8 * 2 ^ sz.toNat) v)) t).addEff (.load va 0 (2 ^ sz.toNat))) ∧
       GoesOn s1 (exec (.ldn d a sz o) s)
         ((st.wr d (BitVec.ofNat 64 (v % 2 ^ (8 * 2 ^ sz.toNat))) t).addEff (.load va 0 (2 ^ sz.toNat)))) ∧
     (va = s.me.view.rs a + (o10.signExtend 64 <<< sz.toNat) → s.loadView va (2 ^ sz.toNat) .load = (s1, .ok v) →
       GoesOn s1 (exec (.lda d a sz c o10) s)
         ((st.wr d (BitVec.ofInt 64 (signedOf (8 * 2 ^ sz.toNat) v)) t).addEff (.load va 4 (2 ^ sz.toNat)))) ∧
     (va = s.me.view.rs a + (o.signExtend 64 <<< (2 + z.toNat)) → s.loadView va (2 ^ (2 + z.toNat)) .load = (s1, .ok v) →
       GoesOn s1 (exec (.ldc d a z o) s)
         ((st.wr d (BitVec.ofInt 64 (signedOf (8 * 2 ^ (2 + z.toNat)) v)) true).addEff (.load va 3 (2 ^ (2 + z.toNat)))))) ∧
  (∀ (s s1 : State) (d a : BitVec 6) (sz c : BitVec 2) (o : BitVec 12) (o10 : BitVec 10) (va : DWord) (k : Nat),
     s1.CanAdvance → s.access va (2 ^ sz.toNat) .store = (s1, .ok k) →
     (va = s.me.view.rs a + (o.signExtend 64 <<< sz.toNat) →
       GoesOn s1 (exec (.st d a sz o) s) (s1.me.addEff (.store va k (2 ^ sz.toNat) (s1.me.view.rs d) false))) ∧
     (va = s.me.view.rs a + (o10.signExtend 64 <<< sz.toNat) →
       GoesOn s1 (exec (.stl d a sz c o10) s) (s1.me.addEff (.store va k (2 ^ sz.toNat) (s1.me.view.rs d) true)))) ∧
  (∀ (s s1 s2 : State) (d a b : BitVec 6) (c : BitVec 2) (z o : BitVec 1) (k : Nat),
     let v := s.me.view
     let va := v.rs a
     let n := 4 + 4 * z.toNat
     let eff (fn n : Nat) (t : Bool) : Eff :=
       .amo fn va k n d (BitVec.ofNat 64 ((v.rs b).toNat % 2 ^ (8 * n))) (BitVec.ofNat 64 ((v.rs d).toNat % 2 ^ (8 * n)))
         (BitVec.ofNat 2 (v.fpcr.toNat % 4)) v.ftz t
     let t := v.taintOf a || v.taintOf b
     s2.CanAdvance →
     (s.access va n .atomic = (s1, .ok k) → (isFar k = false ∧ s1.touch k n = (s2, 0) ∨ isFar k = true ∧ s2 = s1) →
       GoesOn s2 (exec (.amoAdd d a b c z o) s) (s2.me.addEff (eff 0 n t)) ∧
       GoesOn s2 (exec (.amoAnd d a b c z o) s) (s2.me.addEff (eff 1 n t)) ∧
       GoesOn s2 (exec (.amoOr d a b c z o) s) (s2.me.addEff (eff 2 n t)) ∧
       GoesOn s2 (exec (.amoXor d a b c z o) s) (s2.me.addEff (eff 3 n t)) ∧
       GoesOn s2 (exec (.amoMin d a b c z o) s) (s2.me.addEff (eff 4 n t)) ∧
       GoesOn s2 (exec (.amoMax d a b c z o) s) (s2.me.addEff (eff 5 n t)) ∧
       GoesOn s2 (exec (.amoMinn d a b c z o) s) (s2.me.addEff (eff 6 n t)) ∧
       GoesOn s2 (exec (.amoMaxn d a b c z o) s) (s2.me.addEff (eff 7 n t)) ∧
       GoesOn s2 (exec (.amoSwap d a b c z o) s) (s2.me.addEff (eff 8 n t)) ∧
       GoesOn s2 (exec (.amoCas d a b c z o) s) (s2.me.addEff (eff 9 n (t || v.taintOf d)))) ∧
     (s.access va 4 .atomic = (s1, .ok k) → (isFar k = false ∧ s1.touch k 4 = (s2, 0) ∨ isFar k = true ∧ s2 = s1) →
       GoesOn s2 (exec (.amoFadd d a b c o) s) (s2.me.addEff (eff 10 4 t))))

/-- R6, R7, R174, R198, R235: NOP changes nothing, nor does a fence, which goes on at once: in the model every earlier access has been performed by then, since an access is
performed in its own step (log 5) and a block commits only when other nodes have answered for its stores (log 113), so nothing is left to wait for (R51, R134); TRACE buffers its value; MFS writes a system register's value untainted to s(d), a number that is not
assigned reading as zero; MTS writes the writable fields of a register, reserved bits staying zero, and ignores the read-only and unassigned numbers. Evsel and evcnt are
written at the block's commit, and an MFS of the same block reads the value written. -/
def Obligations.SystemResults : Prop :=
  ∀ (s : State) (d a r : BitVec 6) (n : BitVec 4) (w x y z : BitVec 1) (sc : BitVec 2) (cx : Ctx) (rg : Region), s.CanAdvance →
    let st := s.me
    let v := st.view
    let c := s.cur.cluster
    let no := n.toNat * 64 + r.toNat
    let u := v.rs d
    let reads (m : Nat) (val : DWord) : Prop := no = m → Writes s (.mfs d r n) d val false
    let writes (m : Nat) (f : Regs → Regs) : Prop := no = m → Runs s (.mts d r n) { st with view := f v }
    (Runs s (.fence w x y z sc) st ∧ Runs s .nop st ∧ Buffers s (.trace a) (.trace (v.rs a))) ∧
    (s.ctxAt c s.cur.ctx = some cx → reads 0x000 (BitVec.ofNat 64 (cx.fdom % 256 * 2 ^ 16 + s.cidAt c s.cur.ctx % 2 ^ 16))) ∧
    (s.region? c s.cur.ctx = some rg → reads 0x001 (BitVec.ofNat 64 rg.rcb)) ∧
    (reads 0x002 (v.fpcr &&& 0xFF#64) ∧ reads 0x003 v.trapvec ∧ reads 0x004 (v.cause.zeroExtend 64) ∧ reads 0x005 v.trapblk ∧
      reads 0x006 (v.trapidx.zeroExtend 64) ∧ reads 0x007 v.trapaddr ∧ reads 0x008 v.spillbase ∧ reads 0x009 v.spilllim ∧
      reads 0x00A (BitVec.ofNat 64 (s.cyclesOf c)) ∧ reads 0x00C (v.trcctl.zeroExtend 64)) ∧
    reads 0x00B (v.nspill ++ BitVec.ofNat 5 v.rstk.length ++ BitVec.ofBool v.th ++ Config.moduleId ++ BitVec.ofNat 3 (c / 48) ++
      BitVec.ofNat 6 (c % 48) ++ 0#3 ++ BitVec.ofNat 2 s.cur.ctx) ∧
    (∀ i, i < 8 →
      reads (0x010 + i) (((bufferedSel st.effs i).getD ((s.cluster c).evsel.get 0 i)).zeroExtend 64) ∧
      reads (0x018 + i) (((bufferedCnt st.effs i).getD ((s.cluster c).evcnt.get 0 i)).zeroExtend 64) ∧
      (no = 0x010 + i → Buffers s (.mts d r n) (.evsel i (u.truncate 16 &&& 0xEFFF#16))) ∧
      (no = 0x018 + i → Buffers s (.mts d r n) (.evcnt i (u.truncate 48)))) ∧
    (no = 0x00D ∨ no = 0x00E ∨ no = 0x00F ∨ 0x020 < no → Writes s (.mfs d r n) d 0 false) ∧
    (no = 0x020 → ∃ rdy, Writes s (.mfs d r n) d rdy false ∧ rdy.bits 47 0 = (s.die (c / 48)).drdy.bits 47 0 ∧
      (∀ i, i < 8 → rdy.getLsbD (48 + i) = (s.die i).drdy.getLsbD 48) ∧ ∀ i, i < 2 → rdy.getLsbD (56 + i) = (s.iod i).irdy.getLsbD 27) ∧
    (writes 0x002 (fun g => { g with fpcr := u &&& 0xFF#64 }) ∧ writes 0x003 (fun g => { g with trapvec := u &&& ~~~3#64 }) ∧
      writes 0x004 (fun g => { g with cause := u.truncate 16 }) ∧ writes 0x005 (fun g => { g with trapblk := u }) ∧
      writes 0x006 (fun g => { g with trapidx := u.truncate 7 }) ∧ writes 0x007 (fun g => { g with trapaddr := u }) ∧
      writes 0x008 (fun g => { g with spillbase := u &&& ~~~7#64 }) ∧ writes 0x009 (fun g => { g with spilllim := u &&& ~~~7#64 }) ∧
      writes 0x00C (fun g => { g with trcctl := u.truncate 3 })) ∧
    (no = 0x000 ∨ no = 0x001 ∨ no = 0x00A ∨ no = 0x00B ∨ 0x00C < no ∧ no < 0x010 ∨ 0x020 ≤ no → Runs s (.mts d r n) st)

/-- R104, R209 to R211, R213: a floating-point instruction writes its rounded result and taint, and sets sticky flags. That zero times infinity sets NV beside a quiet NaN addend is the
model's choice (log 106), and that FCVT flushes f32 and f64 alone is its reading (log 51).
R212: FCMP writes its predicate by the condition on the two values, and NV as the condition says. -/
def Obligations.FloatResults : Prop :=
  (∀ (s : State) (d a b c : BitVec 6) (f : BitVec 1) (dst src : BitVec 4), s.CanAdvance →
     let v := s.me.view
     let fmt := if f = 1 then fmtF64 else fmtF32
     let arg (r : BitVec 6) : Val := fmt.decode v.ftz ((v.rs r).toNat % 2 ^ fmt.width)
     let t2 := v.taintOf a || v.taintOf b
     WritesF s (.fadd d a b f) d (roundIn fmt v ((arg a).add v.rm (arg b)).1 { nv := ((arg a).add v.rm (arg b)).2 }) t2 ∧
     WritesF s (.fsub d a b f) d
       (roundIn fmt v ((arg a).add v.rm (arg b).neg).1 { nv := ((arg a).add v.rm (arg b).neg).2 }) t2 ∧
     WritesF s (.fmul d a b f) d (roundIn fmt v ((arg a).mul (arg b)).1 { nv := ((arg a).mul (arg b)).2 }) t2 ∧
     WritesF s (.fdiv d a b f) d (roundIn fmt v ((arg a).div (arg b)).1 ((arg a).div (arg b)).2) t2 ∧
     WritesF s (.fsqrt d a f) d (roundIn fmt v (arg a).sqrt.1 (arg a).sqrt.2) (v.taintOf a) ∧
     WritesF s (.fmin d a b f) d
       (if (arg a).isNan || (arg b).isNan then (BitVec.ofNat 64 fmt.nanBits, { nv := (arg a).isSnan || (arg b).isSnan })
        else roundIn fmt v (if (arg a).below (arg b) then arg a else arg b) {}) t2 ∧
     WritesF s (.fmax d a b f) d
       (if (arg a).isNan || (arg b).isNan then (BitVec.ofNat 64 fmt.nanBits, { nv := (arg a).isSnan || (arg b).isSnan })
        else roundIn fmt v (if (arg a).below (arg b) then arg b else arg a) {}) t2 ∧
     Writes s (.fabs d a f) d
       (if f = 1 then v.rs a &&& 0x7FFFFFFFFFFFFFFF#64 else v.rs a &&& 0x7FFFFFFF#64) (v.taintOf a) ∧
     Writes s (.fneg d a f) d
       (if f = 1 then v.rs a ^^^ 0x8000000000000000#64 else (v.rs a ^^^ 0x80000000#64) &&& 0xFFFFFFFF#64) (v.taintOf a) ∧
     WritesF s (.ffma d a b c f) d
       (roundIn fmt v (((arg a).mul (arg b)).1.add v.rm (arg c)).1
         { nv := ((arg a).mul (arg b)).2 || (((arg a).mul (arg b)).1.add v.rm (arg c)).2 }) (t2 || v.taintOf c) ∧
     WritesF s (.fcvt d a dst src) d (cvtResult v dst.toNat src.toNat (v.rs a)) (v.taintOf a)) ∧
  (∀ (s : State) (p : BitVec 3) (c : BitVec 4) (a b : BitVec 6) (f : BitVec 1), s.CanAdvance →
     let v := s.me.view
     let fmt := if f = 1 then fmtF64 else fmtF32
     let x := fmt.decode v.ftz ((v.rs a).toNat % 2 ^ fmt.width)
     let y := fmt.decode v.ftz ((v.rs b).toNat % 2 ^ fmt.width)
     Runs s (.fcmp p c a b f) { s.me with view := (v.wp p (fcond c.toNat x y).1).flags { nv := (fcond c.toNat x y).2 } })

/-- R49, R172, R214, R215, R234, R235: taken transfers end their block at a checked target; a call pushes the fall-through address and
a return pops the newest; a branch not taken goes on. -/
def Obligations.TransferResults : Prop :=
  ∀ (s : State) (p : BitVec 3) (n : BitVec 1) (o : BitVec 22) (w : BitVec 26) (a : BitVec 6) (ra : DWord) (rest : List DWord),
    let st := s.me
    let here := st.pc + 4#64 + BitVec.ofNat 64 (4 * st.idx)
    let toward (o : DWord) : DWord := here + (o <<< 2)
    let x := st.view.rs a
    (st.view.rp p = decide (n = 0) → s.CanBranch (toward (o.signExtend 64)) →
      exec (.br p n o) s = .next (s.branch st (toward (o.signExtend 64)))) ∧
    (st.view.rp p ≠ decide (n = 0) → s.CanAdvance → Runs s (.br p n o) st) ∧
    (s.CanBranch (toward (w.signExtend 64)) →
      exec (.j w) s = .next (s.branch st (toward (w.signExtend 64))) ∧
      exec (.call w) s = .next (s.branch (st.addEff (.push st.fallThrough)) (toward (w.signExtend 64)))) ∧
    (x.toNat % 4 = 0 → s.CanBranch x →
      exec (.jr a) s = .next (s.branch st x) ∧
      exec (.callr a) s = .next (s.branch (st.addEff (.push st.fallThrough)) x)) ∧
    (st.view.rstk = ra :: rest → ra.toNat % 4 = 0 → s.CanBranch ra →
      exec .ret s = .next (s.branch { st with view := { st.view with rstk := rest }, isRet := true } ra)) ∧
    (s.CanBranch st.fallThrough →
      exec .yield s = .next (s.branch { st with isYield := true, yields := st.yields + 1 } st.fallThrough)) ∧
    exec .exit s = .next (s.setMe { st with isExit := true, taken := true, waiting := false, phase := .committing, next := st.pc })

/-- R60, R216: the time operations.
R71, R75, R217: the frontier operations. -/
def Obligations.TimeAndFrontierResults : Prop :=
  (∀ (s : State) (d a b p : BitVec 3) (c : BitVec 2) (x n : BitVec 6), s.CanAdvance →
     let v := s.me.view
     let ta := v.rt a
     let tb := v.rt b
     let cc := ta.coord c.toNat
     WritesT s (.tmov d a) d ta ∧
     WritesT s (.tset d c x) d ((v.rt d).setCoord c.toNat (v.rs x).toNat) ∧
     Writes s (.tget a c x) x (BitVec.ofNat 64 cc) false ∧
     (cc + (v.rs x).toNat < 2 ^ coordBits c.toNat → WritesT s (.tinc d a c x) d (ta.setCoord c.toNat (cc + (v.rs x).toNat))) ∧
     (cc + n.toNat < 2 ^ coordBits c.toNat → WritesT s (.tinci d a c n) d (ta.setCoord c.toNat (cc + n.toNat))) ∧
     WritesT s (.tjoin d a b) d (ta.join tb) ∧
     WritesT s (.tmeet d a b) d (ta.meet tb) ∧
     WritesP s (.tle a b p) p (ta.le tb) ∧
     WritesP s (.tlt a b p) p (ta.le tb && decide (ta ≠ tb)) ∧
     WritesP s (.teq a b p) p (decide (ta = tb)) ∧
     ((v.rs x).toNat ≤ cc → WritesT s (.tadv d a c x) d ta) ∧
     (cc < (v.rs x).toNat → (v.rs x).toNat < 2 ^ coordBits c.toNat →
       WritesT s (.tadv d a c x) d
         ((List.range 4).foldl (fun t i => if c.toNat < i then t.setCoord i 0 else t) (ta.setCoord c.toNat (v.rs x).toNat)))) ∧
  (∀ (s : State) (h a p d e : BitVec 3) (x : BitVec 6), s.CanAdvance →
     let st := s.me
     let v := st.view
     let loc := BitVec.setWidth 16 (v.rs x)
     let z := v.rh h
     let f := s.frontierHere z.loc
     Runs s (.hzld h x) { st with view := v.wh h ⟨s.frontierHere loc, true, false, loc⟩ } ∧
     (st.wflag = true → z.bound = true → complete f (v.rt a) = true →
       Runs s (.hzwait a h) { st with view := v.wh h { z with els := f } }) ∧
     (s.isTiSource loc.toNat = true →
       (∀ t ∈ z.els, ∃ u ∈ s.sourceFrontier (s.locBaseHere + loc.toNat), u.le t = true) →
       Runs s (.hzpub h x) { st.addEff (.hzpub (s.locBaseHere + loc.toNat) z.els) with view := v.wh h ⟨z.els, true, true, loc⟩ }) ∧
     WritesP s (.hzle a h p) p (!complete z.els (v.rt a)) ∧
     Writes s (.hzget h x) x (BitVec.ofNat 64 z.els.length) false ∧
     WritesT s (.hztime d h e) d (z.els.getD e.toNat Time.zero))

/-- R105, R218 to R222: an ENQ whose operands are aligned and pass its queue's check holds the command, as captured, in the buffer.
R224 to R227: a waiting instruction in a block with W set goes on once its object or barrier, read through the block view, has reached
the value; a signal and an arm whose object is good enter the buffer.
R228, R230: CFG and CTX commands whose checks pass are held in the buffer until the block commits. -/
def Obligations.CommandsAreBuffered : Prop :=
  (∀ (s : State) (a b c : BitVec 6) (f : BitVec 1) (p : BitVec 2), s.CanAdvance →
     let st := s.me
     let x := st.view.rs a
     let cmd (q : Nat) (i : Instr) (y z : DWord) (flg : BitVec 4) : Cmd :=
       { q := q, a := x, obj := y, c := z, flg := flg, rm := BitVec.ofNat 2 (st.view.fpcr.toNat % 4), ftz := st.view.fpcr.getLsbD 2,
         word := (encodeSeq i).getD 0, idx := st.idx }
     let y := st.view.rs b
     let z := st.view.rs c
     y.toNat % 16 = 0 →
     Buffers s (.enqMx a b c) (.enq (cmd 0 (.enqMx a b c) y z 0)) ∧
     (x.toNat < 2 ^ 9 → s.agTyped s.cur.cluster s.cur.ctx (x.toNat % 32) = true →
       Buffers s (.enqAg a b c f) (.enq (cmd 1 (.enqAg a b c f) y z (f.zeroExtend 4)))) ∧
     (x.toNat % 64 = 0 →
       Buffers s (.enqCl a b) (.enq (cmd 2 (.enqCl a b) y 0 0)) ∧
       Buffers s (.enqLk a b) (.enq (cmd 3 (.enqLk a b) y 0 0)) ∧
       Buffers s (.enqSc a b) (.enq (cmd 4 (.enqSc a b) y 0 0))) ∧
     (s.tiBad s.cur.cluster s.cur.ctx p.toNat x c.toNat = none →
       Buffers s (.enqTi a b c p)
         (.enq { cmd 5 (.enqTi a b c p) y z (p.zeroExtend 4) with lanes := tiLanes st.view c (x.bits 60 56 + 1) })) ∧
     (x.toNat % 8 = 0 → Buffers s (.enqTo a b p) (.enq (cmd 6 (.enqTo a b p) y 0 (p.zeroExtend 4)))) ∧
     (∀ s1 : State, s.plGood s.cur.cluster s.cur.ctx (x.bits 9 0) (z.bits 15 0) = (s1, some true) → s1.CanAdvance →
       GoesOn s1 (exec (.enqPl a b c) s) (s1.me.addEff (.enq (cmd 7 (.enqPl a b c) y z 0))))) ∧
  (∀ (s s1 s2 : State) (a b : BitVec 6) (p : BitVec 3) (x : BitVec 3) (z : BitVec 1) (k : Nat),
     let va := s.me.view.rs a
     let y := s.me.view.rs b
     (s2.CanAdvance → s.me.wflag = true → s.objectAt va 16 .load = (s1, .ok k) → isFar k = false → s1.touch k 16 = (s2, 0) →
       y.bits 47 0 ≤ s2.viewRd k 8 % 2 ^ 48 → GoesOn s2 (exec (.waitc a b) s) s2.me) ∧
     (s2.CanAdvance → s.me.wflag = true → s.objectAt va 32 .load = (s1, .ok k) → isFar k = false → s1.touch k 32 = (s2, 0) →
       s2.viewRd k 8 ≤ s2.viewRd (k + 8) 8 → s2.viewRd (k + 16) 8 % 4 ≠ 3 →
       GoesOn s2 (exec (.waitb p a) s)
         { s2.me with view := s2.me.view.wp p (decide (s2.viewRd (k + 16) 8 % 2 = 1)) }) ∧
     (s1.CanAdvance → s.objectAt va 16 .store = (s1, .ok k) →
       GoesOn s1 (exec (.sigc a b x) s) (s1.me.addEff (.signal va k (y.bits 47 0) x.toNat))) ∧
     (s1.CanAdvance → s.objectAt va 32 .store = (s1, .ok k) →
       GoesOn s1 (exec (.bara a b z) s) (s1.me.addEff (.bara va k y (decide (z = 1)))))) ∧
  (∀ (s s1 : State) (a b c : BitVec 6) (n : BitVec 4) (k : Nat),
     let st := s.me
     let v := st.view
     let cmd (i : Instr) (x z : DWord) (flg : BitVec 4) : Cmd :=
       { q := qCfg, a := x, obj := v.rs b, c := z, flg := flg, rm := BitVec.ofNat 2 (v.fpcr.toNat % 4), ftz := v.fpcr.getLsbD 2,
         word := (encodeSeq i).getD 0, idx := st.idx }
     (s.CanAdvance → (v.rs b).toNat % 16 = 0 →
       (st.effs.filter fun e => match e.2 with
         | .cfg _ => true
         | _ => false).length < 4 →
       Buffers s (.cfgLoad a b c) (.cfg (cmd (.cfgLoad a b c) (v.rs a) (v.rs c) 0)) ∧
       Buffers s (.cfgSwitch b c) (.cfg (cmd (.cfgSwitch b c) 0 (v.rs c) 1)) ∧
       Buffers s (.cfgPage a b) (.cfg (cmd (.cfgPage a b) (v.rs a) 0 2))) ∧
     (s1.CanAdvance → s.translate s.cur.cluster false (s.rootAt s.cur.cluster s.cur.ctx) (v.rs a) .load = (s1, .ok k) → keyAp k = 0 →
       s1.isContextOf (keyPa k) (match s1.ctxAt s1.cur.cluster s1.cur.ctx with
         | some x => x.part
         | none => 0) = true →
       ((s1.rd (k + 4) 1 = 0 ∨ s1.rd (k + 4) 1 = 4) →
         GoesOn s1 (exec (.ctxLaunch a) s) (s1.me.addEff (.ctx 0 (keyPa k) 0))) ∧
       GoesOn s1 (exec (.ctxPrio a n) s) (s1.me.addEff (.ctx 1 (keyPa k) n.toNat)) ∧
       GoesOn s1 (exec (.ctxSusp a) s) (s1.me.addEff (.ctx 2 (keyPa k) 0)) ∧
       GoesOn s1 (exec (.ctxResume a) s) (s1.me.addEff (.ctx 3 (keyPa k) 0)) ∧
       GoesOn s1 (exec (.ctxEvict a) s) (s1.me.addEff (.ctx 4 (keyPa k) 0))))

/-- R50, R51, R53, R73, R132, R198, R233, R234, R357, R392: a block that meets no trap, whose effects on other nodes' memory are accepted there, and that need not wait commits: it counts its
event, its effects become visible in order with its batch at the meridian unit, and its view becomes the stream's state; a refused one of those effects traps at its index, and with no room the
stream waits (logs 113, 123); one that has buffered nothing always commits, RETI's clearing th and EXIT's leaving the stream exiting; an asynchronous trap at a boundary is taken; an exiting stream whose commands
are complete has exited. -/
def Obligations.StreamSteps : Prop :=
  ∀ (s s1 s2 s3 : State) (cls : List (Nat × List DWord)) (bad : CommitBad) (as_ : List Async) (e : Async),
    let c := s.cur.cluster
    let k := s.cur.ctx
    let wait (u : State) : Prop := exec .blockCommit s = .next (u.modMe fun st => { st with waiting := true })
    let trap (u : State) : Prop := exec .blockCommit s = .next (u.takeTrap c k bad.code bad.detail bad.addr bad.idx)
    (s.me.phase = .committing →
      (s.commitStop = (s1, some bad) → (bad.code ≠ 0 → trap s1) ∧ (bad.code = 0 → wait s1)) ∧
      (s.commitStop = (s1, none) → s1.commitFull = true → wait s1) ∧
      (s.commitStop = (s1, none) → s1.commitFull = false → (∀ b, s1.farPhase c k = (s2, true, b) → wait s2) ∧ (s1.farPhase c k = (s2, false, some bad) → trap s2)) ∧
      (s.commitStop = (s1, none) → s1.commitFull = false → s1.farPhase c k = (s2, false, none) → s2.readForks = (s3, cls, false) → s3.rangesFull cls = false →
        (s3.muRoom (s3.cidAt c k) s3.pubBatch.2 false = true →
          exec .blockCommit s = .next ((commitEffects ((s3.forksDone c k).count c 2 k) cls c k).farDrop c k)) ∧
        (s3.muRoom (s3.cidAt c k) s3.pubBatch.2 false = false → wait (s3.muWait (s3.cidAt c k) (4096 * c + 3072 + k) s3.pubBatch.2 false)))) ∧
    (s.me.phase = .committing → s.me.effs = [] →
      let v := s.me.view
      let r := if s.me.isReti then { v with th := false } else v
      ∃ t, exec .blockCommit s = .next t ∧ t.mem = s.mem ∧ t.marks = s.marks ∧ t.ports = s.ports ∧
        t.me.arch = r ∧ t.me.view = r ∧ t.me.effs = [] ∧ t.me.queues = s.me.queues ∧ t.me.issued = s.me.issued ∧
        t.me.pc = (if s.me.isExit then s.me.pc else s.me.next) ∧ t.me.phase = (if s.me.isExit then .exiting else .ready) ∧
        ∀ l j, (l, j) ≠ (c, k) → t.stream l j = s.stream l j) ∧
    (s.me.phase = .ready → s.me.arch.th = false → s.me.asyncs = e :: as_ →
      exec .asyncTrap s = .next ((s.modMe fun st => { st with asyncs := as_ }).takeTrap s.cur.cluster s.cur.ctx e.code e.detail e.addr 0)) ∧
    ((s.me.phase = .inBlock ∧ s.me.waiting = true ∨ s.mayAbandon c k = true) → s.me.arch.th = false → s.me.asyncs = e :: as_ →
      exec .asyncTrap s = .next ((((s.modMe fun st => { st with asyncs := as_ }).muForget (s.cidAt c k) (4096 * c + 3072 + k)).count c 3 k).takeTrap
        c k e.code e.detail e.addr 0)) ∧
    (s.me.phase = .exiting → (∀ q ∈ s.me.queues, q.2 = []) → s.me.issued = [] →
      exec .streamExited s = .next (s.modMe fun st => { st with phase := .exited }))

/-- R237, R246, R248, R249: an integer or logic operation of the CE gives one token of A's header whose element i is computed from element i of
the sources: integer results exact, then wrapped or saturated; logic on the bits, shift counts modulo the element's width b. -/
def Obligations.ElementIntegerResults : Prop :=
  ∀ (s : State) (f : Firing) (e : Elem), s.CanFire f e →
    let int (g : Int → Int → Int → Int) : CeEnv → Nat → El → El → El → Nat :=
      fun v _ x y z => v.t.write v.sat (g (v.t.read x.raw) (v.t.read y.raw) (v.t.read z.raw))
    let bits (g : Nat → Nat → Nat → Nat) : CeEnv → Nat → El → El → El → Nat := fun v _ x y _ => g v.t.bits x.raw y.raw % 2 ^ v.t.bits
    Maps s .ceAdd f e (int fun x y _ => x + y) ∧
    Maps s .ceSub f e (int fun x y _ => x - y) ∧
    Maps s .ceMul f e (int fun x y _ => x * y) ∧
    Maps s .ceMulh f e (fun v _ x y _ => v.t.write v.sat (v.t.read x.raw * v.t.read y.raw / (2 ^ v.t.bits : Nat))) ∧
    Maps s .ceMin f e (int fun x y _ => if x ≤ y then x else y) ∧
    Maps s .ceMax f e (int fun x y _ => if x ≤ y then y else x) ∧
    Maps s .ceAbs f e (int fun x _ _ => (x.natAbs : Int)) ∧
    Maps s .ceNeg f e (int fun x _ _ => -x) ∧
    Maps s .ceMad f e (int fun x y z => x * y + z) ∧
    Maps s .ceAvg f e (int fun x y _ => (x + y) / 2) ∧
    Maps s .ceAnd f e (bits fun _ x y => x &&& y) ∧
    Maps s .ceOr f e (bits fun _ x y => x ||| y) ∧
    Maps s .ceXor f e (bits fun _ x y => x ^^^ y) ∧
    Maps s .ceAndn f e (bits fun b x y => x &&& (2 ^ b - 1 - y)) ∧
    Maps s .ceNot f e (bits fun b x _ => 2 ^ b - 1 - x) ∧
    Maps s .ceShl f e (bits fun b x y => x * 2 ^ (y % b)) ∧
    Maps s .ceShr f e (bits fun b x y => x / 2 ^ (y % b)) ∧
    Maps s .ceSra f e (bits fun b x y => ((signedOf b x / 2 ^ (y % b)) % (2 ^ b : Nat)).toNat) ∧
    Maps s .ceRol f e (bits fun b x y => x * 2 ^ (y % b) + x / 2 ^ (b - y % b)) ∧
    Maps s .cePopc f e (bits fun b x _ => popBits b x) ∧
    Maps s .ceClz f e (bits fun b x _ => clzBits b x)

/-- R240, R250 to R253: float arithmetic rounds its exact result once; a special function other than sqrt rounds to nearest even where SR is
asked; cmp gives all ones or 0; sel gives A where C is nonzero, else B, as its bits under any type (log 125). The special functions are the model's evaluator (log 7), and operands of ty 15 are
split by the type of port A's entry (log 87). -/
def Obligations.ElementFloatResults : Prop :=
  ∀ (s : State) (f : Firing) (e : Elem), s.CanFire f e →
    let flt (g : RMode → Val → Val → Val → Val) : CeEnv → Nat → El → El → El → Nat :=
      fun v i x y z => tyRound v.ty v.mode (v.ftz && flushable v.ty) (v.rand i) (g v.mode x.val y.val z.val)
    let spec (n : Nat) : CeEnv → Nat → El → El → El → Nat :=
      fun v i x _ _ =>
        tyRound v.ty (if n ≠ 2 ∧ v.mode = RMode.ofCode 4 then RMode.ofCode 0 else v.mode) (v.ftz && flushable v.ty) (v.rand i)
          (special n x.val)
    let ty := f.info.w.ty.toNat
    Maps s .ceFloatAdd f e (flt fun m x y _ => (x.add m y).1) ∧
    Maps s .ceFloatSub f e (flt fun m x y _ => (x.add m y.neg).1) ∧
    Maps s .ceFloatMul f e (flt fun _ x y _ => (x.mul y).1) ∧
    Maps s .ceFma f e (flt fun m x y z => ((x.mul y).1.add m z).1) ∧
    Maps s .ceFms f e (flt fun m x y z => ((x.mul y).1.add m z.neg).1) ∧
    Maps s .ceFloatMin f e
      (flt fun _ x y _ => if x.isNan || y.isNan then .nan false else if x.below y then x else y) ∧
    Maps s .ceFloatMax f e
      (flt fun _ x y _ => if x.isNan || y.isNan then .nan false else if x.below y then y else x) ∧
    (ty ≠ 15 → Maps s .ceFloatAbs f e (fun v _ x _ _ => x.raw % 2 ^ (tyBits v.ty - 1)) ∧
      Maps s .ceFloatNeg f e (fun v _ x _ _ => x.raw ^^^ 2 ^ (tyBits v.ty - 1))) ∧
    (ty = 15 → Maps s .ceFloatAbs f e (flt fun _ x _ _ => x.abs) ∧ Maps s .ceFloatNeg f e (flt fun _ x _ _ => x.neg)) ∧
    Maps s .ceRcp f e (spec 0) ∧ Maps s .ceRsq f e (spec 1) ∧ Maps s .ceSqrt f e (spec 2) ∧ Maps s .ceExp2 f e (spec 3) ∧
    Maps s .ceLog2 f e (spec 4) ∧ Maps s .ceTanh f e (spec 5) ∧ Maps s .ceSigm f e (spec 6) ∧ Maps s .ceSin f e (spec 7) ∧
    Maps s .ceCos f e (spec 8) ∧ Maps s .ceErf f e (spec 9) ∧
    (ty = 15 ∨ 3 ≤ ty ∧ ty ≤ 5 → Maps s .ceCmp f e
      (fun v _ x y _ => if (fcond f.info.w.fn.toNat x.val y.val).1 then 2 ^ elemBits v.ty - 1 else 0)) ∧
    (ty ≤ 2 ∨ 6 ≤ ty → ty ≠ 15 → Maps s .ceCmp f e
      (fun v _ x y _ => if icond f.info.w.fn.toNat (v.t.read x.raw) (v.t.read y.raw) x.raw y.raw then 2 ^ elemBits v.ty - 1 else 0)) ∧
    Maps s .ceSel f e (fun _ _ x y z => if z.raw = 0 then y.raw else x.raw)

/-- R254 to R257: conversions compute each element of A from its exact value, packed anew; qntb sends an HDR with the block's scale before the
data; lane moves give A's width of lanes. -/
def Obligations.ConvertMoveResults : Prop :=
  ∀ (s : State) (f : Firing) (e : Elem) (a : Token) (col : BitVec 6) (tag : BitVec 12), s.CanFire f e → f.a = some a →
    let w := f.info.w
    let en := e.vcEntry a
    let v0 := CeEnv.ofFiring e w a
    let v : CeEnv := { v0 with ty := w.ty.toNat, t := (tyInt w.ty.toNat).getD ⟨tyBits w.ty.toNat, true⟩ }
    let good (ty : Nat) : Prop := badWidths ty f.toks = false
    let toward (from_ : Nat) (g : Nat → Nat → Nat) : Token :=
      let xs := elemsOf from_ a.lanes
      { a with
        colour := col, tag := tag,
        lanes := packLanes (tyBits v.ty) (maskMix (f.mask from_ a.width) (xs.map fun x => x % 2 ^ elemBits v.ty)
          ((xs.zip (List.range xs.length)).map fun q => g q.2 q.1)) }
    let lanes (g : Nat → Word) : Token :=
      let ls := (List.range a.width).map g
      { a with
        lanes := if w.pr = 1 then packLanes (tyBits w.ty.toNat) (maskMix (f.mask w.ty.toNat a.width)
            (splitLanes (tyBits w.ty.toNat) a.lanes) (splitLanes (tyBits w.ty.toNat) ls)) else ls }
    (s.recolourK f a = some (col, tag) →
      (w.fn.toNat ≠ 15 → good w.fn.toNat →
        Emits s .cvt f (toward w.fn.toNat fun i x => cvtTo w.fn.toNat v i (tyDecode w.fn.toNat (v.ftz && flushable w.fn.toNat) x))) ∧
      (w.fn.toNat = 15 → tyInt (entFmt en) = none → good (entFmt en) →
        Emits s .cvt f (toward (entFmt en) fun i x => cvtTo (entFmt en) v i (entDecode en a x))) ∧
      (w.fn.toNat = 15 → (tyInt (entFmt en)).isSome = true → good (entFmt en) →
        Emits s .cvt f (toward (entFmt en) fun i x => cvtTo (entFmt en) v i
          (match roundInt v.mode (v.rand i) (entDecode en a x) with
            | some (j, _) => Val.ofInt j
            | none => entDecode en a x))) ∧
      (good w.fn.toNat →
        Emits s .deq f (toward w.fn.toNat fun i x => v.flt i (match entScale en a with
          | some sc => scaled sc (tyDecode w.fn.toNat false x)
          | none => tyDecode w.fn.toNat false x))) ∧
      (good 3 → Emits s .qnt f (toward 3 fun i x => v.flt i (tyDecode 3 v.ftz x))) ∧
      (good 3 →
       let ty := w.ty.toNat
       let m := f.mask 3 a.width
       let xs := (elemsOf 3 a.lanes).map (tyDecode 3 v0.ftz)
       let sc := blockScale ty (match m with
         | some ms => ((ms.zip xs).filter fun q => decide (q.1 ≠ 0)).map Prod.snd
         | none => xs)
       let r := maskMix m ((elemsOf 3 a.lanes).map fun x => x % 2 ^ elemBits ty)
         ((xs.zip (List.range xs.length)).map fun q => blockElem ty v0.mode ({ v0 with ty := ty }.rand q.2) sc q.1)
       Fires s .qntb f
         { st := s,
           outs := [(f.out, { a with kind := kHdr, colour := col, tag := tag, last := false, aux := 0, lanes := [hdrLane sc xs.length a.last 0 0] }),
             (f.out, { a with colour := col, tag := tag, lanes := packLanes (tyBits ty) r })] })) ∧
    (good w.ty.toNat →
      Emits s .mov f (lanes fun i => if w.k = 0 then a.lane i else e.const w.k.toNat) ∧
      Emits s .movk f (lanes fun _ => e.const w.k.toNat) ∧
      Emits s .bcast f (lanes fun _ => if w.k.toNat < a.width then a.lane w.k.toNat else 0) ∧
      Emits s .lshift f (lanes fun i => if i < w.k.toNat then 0 else a.lane (i - w.k.toNat)) ∧
      Emits s .lrev f (lanes fun i => if w.k = 0 then a.lane (a.width - 1 - i) else e.const w.k.toNat) ∧
      Emits s .lsel f (lanes fun i =>
        a.lane ((match f.b with
          | some b => b.lane (if b.width = 1 then 0 else i)
          | none => e.const w.k.toNat).toNat % a.width)))

/-- R258 to R261: steering, merging, copying, gating and ending: steer.bit tests lane 0 of C, steer.par the parity of keyhash (even to o0); merge gives the
head it takes; copy gives A on both outputs in one issue; a sink counts data and ERR tokens and keeps the first ERR.
R279 to R282: counted tokens, of which the last carries last (the model's reading, log 109), matrix command tokens, control bits, and a slot that never fires. -/
def Obligations.RoutingAndControlResults : Prop :=
  (∀ (s : State) (f : Firing) (e : Elem) (a : Token), s.CanFire f e →
     (f.a = some a →
       (∀ x, f.x = some x → Steers s .steerBit f a (decide (x.lane 0 ≠ 0))) ∧
       Steers s .steerPar f a (decide (popBits 32 (s.hashOf f a).toNat % 2 = 0)) ∧
       Fires s .copy f { st := s, outs := [(0, a), (1, a)], all := true } ∧
       Emits s .gate f a ∧
       Fires s .drop f { st := s } ∧
       (let x := e.slot f.slot
        let seen := if a.colour.toNat ∈ x.taken then x.taken else x.taken ++ [a.colour.toNat]
        (a.kind ≠ kErr → Fires s .sink f { st := s.putSlot f { x with taken := seen, data := x.data + 1 } }) ∧
        (a.kind = kErr → Fires s .sink f
          { st := s.putSlot f { x with taken := seen, errs := x.errs + 1, firstErr := if x.errs = 0 then a.aux else x.firstErr } }))) ∧
     ((f.a = some a ∨ f.a = none ∧ f.b = some a) → Emits s .mergeAny f a ∧ Emits s .mergeTag f a)) ∧
  (∀ (s : State) (f : Firing) (e : Elem) (a : Token),
     exec .ceNop s = .next s ∧
     (s.CanFire f e → f.a = some a →
       let k0 := e.const f.info.w.k.toNat
       let k1 := e.const (f.info.w.k.toNat + 1)
       let r := s.rangeOf f.c f.k a.colour.toNat
       let bit (b : Bool) : Token := { a with kind := kDense, tag := 0, lanes := [if b then 1 else 0] }
       (let c := k1.toNat % 2 ^ 16
        let j := (k1.extractLsb' 16 5).toNat
        (j + 1 < a.width ∨ j + 1 = a.width ∧ f.slot ∈ e.fixedA) →
         Fires s .cntr f
           { st := s,
             outs := (List.range c).map fun i => (f.out, { a with
               lanes := a.lanes.set j (BitVec.ofInt 32 ((a.lane j).toInt + i * k0.toInt)),
               tag := BitVec.ofNat 12 (r.base + (s.relTag f.c f.k a * c + i) % r.n), last := decide (i + 1 = c) }) }) ∧
       (a.poison = false → Emits s .mxc f { a with
         kind := kCmd, aux := 0, lanes := [k0 ||| a.lane 0, k1 ||| (if a.width < 2 then 0 else a.lane 1)] }) ∧
       Emits s .ctlSig f (bit (decide (a.lane 0 ≠ 0))) ∧
       (∀ b, f.b = some b →
         Steers s .ctlWait f a ((b.lane 0).getLsbD 0) ∧
         Emits s .ctlAnd2 f (bit ((a.lane 0).getLsbD 0 && (b.lane 0).getLsbD 0)))))

/-- R262, R263: tag and colour operations: a new tag is base + (offset mod n) of A's colour; tag.get and tag.base give the offset, or base and n − 1, in lane 0, and
zeros up to the result colour's granted width (the model's reading, log 108).
R264: pack holds the tokens of one t div g and, once a token of each place has come, gives their lanes joined, with the last of them; unpack gives g tokens of the result width. The
range that a grant takes is free (log 10); operands of a colour granted again match under the new range (R373, log 126). -/
def Obligations.TagAndPackResults : Prop :=
  (∀ (s : State) (f : Firing) (e : Elem) (a : Token) (col : BitVec 6) (tag : BitVec 12), s.CanFire f e → f.a = some a →
     let r := s.rangeOf f.c f.k a.colour.toNat
     let kN := e.const f.info.w.k.toNat
     let at_ (off : Nat) : Token := { a with tag := BitVec.ofNat 12 (r.base + off % r.n) }
     Emits s .tagInc f (at_ (s.relTag f.c f.k a + f.info.w.k.toNat)) ∧
     Emits s .tagSet f (at_ (match f.b with
       | some b => (b.lane 0).toNat
       | none => kN.toNat)) ∧
     (s.recolourK f a = some (col, tag) →
       Emits s .tagGet f { a with
         colour := col, tag := tag, lanes := s.lane0 f a col (BitVec.ofNat 32 (s.relTag f.c f.k a)) } ∧
       Emits s .tagBase f { a with
         colour := col, tag := tag, lanes := s.lane0 f a col (BitVec.ofNat 32 (r.base + (r.n - 1) * 2 ^ 12)) }) ∧
     (let q := a.colour.toNat
      ((s.declOf f.c f.k q).dyn = false → Fires s .alcFree f { st := s }) ∧
      ∀ x al, (s.declOf f.c f.k q).dyn = true → s.ctxAt f.c f.k = some x → x.allocs.find? q = some al →
        Fires s .alcFree f
          { st := (x.places.foldl (fun s p => s.modRegion p.1 p.2 fun g =>
                { g with waveAt := g.waveAt.del q, waveDone := g.waveDone.filter fun w => decide (w.1 ≠ q) }) s).modCtx (s.cidAt f.c f.k) fun x =>
              { x with allocs := x.allocs.del q, freed := x.freed.set q al } }) ∧
     (∀ x d b,
       let q := kN.toNat % 64
       let n := (kN.extractLsb' 16 8).toNat + 1
       let w := grantWidth ((kN.extractLsb' 8 5).toNat + 1)
       s.ctxAt f.c f.k = some x → x.colours.find? q = some d → n ≤ d.tags → x.allocs.find? q = none →
       findRange x.allocs s.tick n = some b →
       let u := s.grantColour f.c f.k x q ⟨b, n, w⟩
       (let v := s.modCtx (s.cidAt f.c f.k) fun x => { x with allocs := x.allocs.set q ⟨b, n, w⟩ }
        u.mem = s.mem ∧ u.ctxs = v.ctxs ∧ (x.freed.find? q = none → u = v) ∧ ∀ o, o ≠ q → ∀ y : SlotSt, y.pinned = none →
          (∀ en ∈ y.entries, ∀ t ∈ en.2.toks, t.2.colour.toNat = o) → y.rekey q (s.relTag f.c f.k) = y) ∧
       Fires s .alcAlloc f
         { st := u,
           outs := [(f.out, { a with
             kind := kDense, colour := BitVec.ofNat 6 q, tag := BitVec.ofNat 12 b,
             lanes := fitLanes w [BitVec.ofNat 32 (b + (n - 1) * 2 ^ 12 + (w - 1) * 2 ^ 20)] })] })) ∧
  (∀ (s : State) (f : Firing) (e : Elem) (a : Token) (al : ColourAlloc), s.CanFire f e → f.a = some a →
     let col := (e.const f.info.w.k.toNat).toNat % 64
     let r := s.relTag f.c f.k a
     let x := e.slot f.slot
     s.alloc? f.c f.k col = some al →
     (∀ g, al.width = g * a.width → a.width ≠ 0 → g ∈ [2, 4, 8, 16, 32] →
       let mine := (x.group ++ [a]).filter fun t =>
         decide (t.colour = a.colour) && decide (t.width = a.width) && decide (s.relTag f.c f.k t / g = r / g)
       let member (i : Nat) : Option Token := mine.find? fun t => decide (s.relTag f.c f.k t % g = i)
       ((∃ i, i < g ∧ member i = none) → Fires s .pack f { st := s.putSlot f { x with group := x.group ++ [a] } }) ∧
       (∀ ts : List Token, ts.length = g → (∀ i, i < g → ts[i]? = member i) → Fires s .pack f
         { st := s.putSlot f { x with group := ts.foldl List.erase (x.group ++ [a]) },
           outs := [(f.out, { a with
             colour := BitVec.ofNat 6 col, tag := BitVec.ofNat 12 (al.base + r / g % al.n),
             lanes := fitLanes al.width (ts.flatMap fun t => t.lanes), last := ts.any fun t => t.last, poison := ts.any fun t => t.poison })] })) ∧
     (∀ g, a.width = g * al.width → al.width ≠ 0 → g ∈ [2, 4, 8, 16, 32] →
       Fires s .unpack f
         { st := s,
           outs := (List.range g).map fun i => (f.out, { a with
             colour := BitVec.ofNat 6 col, tag := BitVec.ofNat 12 (al.base + (r * g + i) % al.n),
             lanes := (a.lanes.drop (i * al.width)).take al.width, last := a.last && decide (i + 1 = g) }) }))

/-- R265 to R267: a reduction combines A's elements into its slot's accumulators, giving them as a token with last set when A has last and
clearing them; a scan gives the running values for every token; the identity stands where nothing is held.
R268, R269: lrs gives round(a·h + b) and carries it on; acc.add and acc.max combine A into a shared accumulator, an empty one taking A (of
two widths the shorter counts as filled with zeros, log 88); acc.reset gives it, or zeros, and empties it. A lane that A does not have keeps what it held. The poison of a reduction
is that of every member of its group (log 48), and it accumulates on an element of any type (log 88). -/
def Obligations.GroupAndAccumulatorResults : Prop :=
  (∀ (s : State) (f : Firing) (e : Elem) (a : Token), s.CanFire f e → f.a = some a →
     let x := e.slot f.slot
     let v := CeEnv.ofFiring e f.info.w a
     let xs := elemsOf v.ty a.lanes
     let p := (x.group.any fun t => t.poison) || a.poison
     x.size < 65536 → badWidths v.ty [a] = false →
     (∀ q ∈ [(Instr.redSum, 0), (.redMin, 1), (.redMax, 2), (.redAnd, 3), (.redOr, 4), (.redCnt, 5)],
       let r := ((List.range xs.length).map fun i => v.combine q.2 i (x.vals.getD i (v.identity q.2)) (xs.getD i 0)) ++ x.vals.drop xs.length
       (a.last = true → Fires s q.1 f
         { st := s.putSlot f { x with vals := [], size := 0, group := [] },
           outs := [(f.out, { a with last := true, lanes := packLanes (tyBits v.ty) (r.map v.emitVal), poison := p })] }) ∧
       (a.last = false → Fires s q.1 f
         { st := s.putSlot f { x with vals := r, size := x.size + 1, group := [{ a with poison := p }] } })) ∧
     (∀ q ∈ [(Instr.scanSum, 0), (.scanMax, 2)],
       let per := if v.ty = 2 then 1 else 32 / tyBits v.ty
       let g := scanGo v q.2 per xs 0 (if x.vals = [] then List.replicate per (v.identity q.2) else x.vals) []
       Fires s q.1 f
         { st := s.putSlot f (if a.last then { x with vals := [], size := 0 } else { x with vals := g.1, size := x.size + 1 }),
           outs := [(f.out, { a with lanes := packLanes (tyBits v.ty) g.2 })] })) ∧
  (∀ (s : State) (f : Firing) (e : Elem) (a : Token), s.CanFire f e → f.a = some a →
     let v := CeEnv.ofFiring e f.info.w a
     let x := e.slot f.slot
     let k := f.info.w.k.toNat
     let xs := elemsOf v.ty a.lanes
     let z : El := ⟨0, .ofInt 0⟩
     let put (l : List Word) : State := s.modElem f.c f.site f.k fun e => { e with accs := e.accs.set k l }
     (∀ b, f.b = some b → badWidths v.ty [a, b] = false →
       let hs := (List.range xs.length).map fun i => v.flt i
         ((((v.operand e false xs.length a.width a).getD i z).val.mul
           (tyDecode v.ty (v.ftz && flushable v.ty) (x.vals.getD i 0).toNat)).1.add v.mode
           ((v.operand e false xs.length a.width b).getD i z).val).1
       Fires s .lrs f
         { st := s.putSlot f { x with vals := hs.map Int.ofNat ++ x.vals.drop xs.length }, outs := [(f.out, { a with lanes := packLanes (tyBits v.ty) hs })] }) ∧
     (badWidths v.ty [a] = false →
       (e.accs.find? k = none →
         Fires s .accAdd f { st := put a.lanes } ∧ Fires s .accMax f { st := put a.lanes } ∧
         Fires s .accReset f
           { st := s.modElem f.c f.site f.k fun e => { e with accs := e.accs.del k },
             outs := [(f.out, { a with lanes := List.replicate a.width 0 })] }) ∧
       (∀ ls, e.accs.find? k = some ls →
         let old := elemsOf v.ty ls
         let n := Nat.max old.length xs.length
         let each (g : Nat → Nat) : State := put (packLanes (tyBits v.ty) ((List.range n).map g))
         (tyFmt v.ty = none →
           Fires s .accAdd f { st := each fun i => v.int (v.t.read (old.getD i 0) + v.t.read (xs.getD i 0)) } ∧
           Fires s .accMax f { st := each fun i => v.int (Max.max (v.t.read (old.getD i 0)) (v.t.read (xs.getD i 0))) }) ∧
         ((tyFmt v.ty).isSome = true →
           Fires s .accAdd f { st := each fun i => (v.combine 0 i (old.getD i 0 : Int) (xs.getD i 0)).toNat } ∧
           Fires s .accMax f { st := each fun i => (v.combine 2 i (old.getD i 0 : Int) (xs.getD i 0)).toNat }) ∧
         Fires s .accReset f
           { st := s.modElem f.c f.site f.k fun e => { e with accs := e.accs.del k }, outs := [(f.out, { a with lanes := ls })] })))

/-- R270 to R273, R276, R278: operations on changes. A diff that does not fit 32 bits splits (R80). khash fills its result colour's granted width (the model's reading, log 108), and dadd with a constant takes the diff
of B too as the constant (log 89). -/
def Obligations.ChangeResults : Prop :=
  ∀ (s : State) (f : Firing) (e : Elem) (a : Token) (col : BitVec 6) (tag : BitVec 12), s.CanFire f e → f.a = some a →
    let d := s.declOf f.c f.k a.colour.toNat
    let v := CeEnv.ofFiring e f.info.w a
    let vs := v.els (valLanes d a)
    let z : El := ⟨0, .ofInt 0⟩
    let loc := s.holdLoc f
    let cid := s.cidAt f.c f.k
    let flt := (tyFmt v.ty).isSome
    let whole (n : Nat) : Prop := v.ty = 2 → n % 2 = 0
    Fires s .cneg f { st := s, outs := (if a.diff = 0 then [a] else withDiff a (-a.diff)).map fun t => (f.out, t) } ∧
    (let y := match f.b with
      | some b => (v.els b.lanes).getD 0 z
      | none => (v.constant 1 (e.const f.info.w.k.toNat)).getD 0 z
     whole (valLanes d a).length → (∀ b, f.b = some b → whole b.width) → Emits s .cscale f { a with
      lanes := a.lanes.take (4 + d.kl) ++ packLanes (tyBits v.ty) ((List.range vs.length).map fun i => v.mulEl (4 + d.kl + i) (vs.getD i z) y) ++
        a.lanes.drop (4 + d.kl + d.vl) }) ∧
    (∀ b, f.b = some b →
      (a.width + 4 ≤ 32 → s.recolourK f a = some (col, tag) →
        Emits s .mkchg f { a with kind := kChg, colour := col, tag := tag, lanes := fitLanes 4 b.lanes ++ a.lanes }) ∧
      (a.recordOf d = b.recordOf (s.declOf f.c f.k b.colour.toNat) → a.time = b.time →
        Fires s .cdist f { st := s, outs := (withDiff a ((if a.diff > 0 then 1 else 0) - b.diff)).map fun t => (f.out, t) })) ∧
    (badWidths v.ty [a] = false →
      let xs := v.els a.lanes
      let kn := e.const f.info.w.k.toNat
      let added (ys : List El) (n : Int) : Token := { a with
        kind := kDense,
        lanes := packLanes (tyBits v.ty) ((List.range xs.length).map fun i =>
          if flt then v.flt i ((xs.getD i z).val.add v.mode (((ys.getD i z).val.mul (.ofInt n)).1)).1
          else v.int ((xs.getD i z).int v + n * (ys.getD i z).int v)) }
      (∀ b, f.b = some b → whole (valLanes (s.declOf f.c f.k b.colour.toNat) b).length →
        Emits s .dadd f (added (v.els (valLanes (s.declOf f.c f.k b.colour.toNat) b)) b.diff)) ∧
      (f.b = none → Emits s .dadd f (added (v.constant xs.length kn) kn.toInt))) ∧
    (s.recolourK f a = some (col, tag) →
      (whole (valLanes d a).length → Emits s .dense f { a with
        kind := kDense, colour := col, tag := tag,
        lanes := packLanes (tyBits v.ty) ((List.range vs.length).map fun i =>
          if flt then v.flt i ((vs.getD i z).val.mul (.ofInt a.diff)).1 else v.int (a.diff * (vs.getD i z).int v)),
        aux := if d.kl = 0 then 0 else BitVec.ofNat 16 ((a.lane 4).toNat % 2 ^ 14 * 4) }) ∧
      Emits s .khash f { a with kind := kDense, colour := col, tag := tag, lanes := s.lane0 f a col (s.hashOf f a) }) ∧
    Steers s .kexch f a (!((s.hashOf f a).getLsbD f.info.w.k.toNat)) ∧
    Fires s .cnote f { st := s.hold cid loc a.time 1, outs := [(f.out, a)], holds := [⟨loc, a.time, 1⟩] } ∧
    (∀ x, s.ctx? cid = some x → 0 < x.heldAt cid loc a.time →
      Fires s .crel f { st := s.hold cid loc a.time (-1), outs := [(f.out, a)], holds := [⟨loc, a.time, -1⟩] })

/-- R274, R275, R277: cjoin gives the joined change and keeps A until the B token with last; cred gives its groups' output when both have closed;
ccons gives its group's sums in the order of R79, the last one with last set. A built change fills its colour's granted width with
zero lanes (the model's reading, log 64), and the poison of a group is that of every member (log 48). -/
def Obligations.JoinResults : Prop :=
  ∀ (s : State) (f : Firing) (e : Elem) (a b : Token) (col : BitVec 6) (tag : BitVec 12), s.CanFire f e → f.a = some a →
    let x := e.slot f.slot
    let da := s.declOf f.c f.k a.colour.toNat
    let db := s.declOf f.c f.k b.colour.toNat
    let v := CeEnv.ofFiring e f.info.w a
    (f.b = some b → s.recolourK f a = some (col, tag) →
      Fires s .cjoin f
        { st := s, keep := if b.last then [] else [0],
          outs := (withDiff (s.fillChange f.c f.k { a with
            kind := kChg, colour := col, tag := tag,
            lanes := chgLanes 0 (a.time.join b.time) (keyLanes da a ++ valLanes da a ++ valLanes db b) }) (a.diff * b.diff)).map fun t =>
              (f.out, t) } ∧
      ∀ q ∈ [(Instr.credCount, 0), (.credSum, 1), (.credMin, 2), (.credMax, 3)],
        let ga := groupOf x.group a
        let gb := groupOf x.groupB b
        f.info.fn = q.2 → ga.length ≤ 65536 → gb.length ≤ 65536 →
        Fires s q.1 f
          { st := s.putSlot f { x with
              group := x.group.filter fun t => !(ga.contains t), groupB := x.groupB.filter fun t => !(gb.contains t) },
            keep := [0, 1],
            holds := (ga.flatMap fun t => s.takeUps f.c f.site f.k f.slot 0 t) ++ (gb.flatMap fun t => s.takeUps f.c f.site f.k f.slot 1 t),
            outs := ((credOut v da db q.2 ga gb a).flatMap fun r =>
              withDiff (s.fillChange f.c f.k { a with
                kind := kChg, colour := col, tag := tag, lanes := chgLanes 0 a.time r.1, poison := (ga ++ gb).any fun t => t.poison }) r.2).map fun t =>
                (f.out, t) }) ∧
    (let ts := x.group ++ [a]
     ts.length ≤ 65536 → (sumsOf da ts).length ≤ e.window f.slot →
      (a.last = true → Fires s .ccons f
        { st := s.putSlot f { x with group := [] }, outs := (cconsClose da ts a).map fun t => (f.out, t) }) ∧
      (a.last = false → Fires s .ccons f { st := s.putSlot f { x with group := ts } }))

/-- R271, R272: the time operations of changes, and where they give ERR TIME instead (`Obligations.FiringErrors`). -/
def Obligations.ChangeTimeResults : Prop :=
  ∀ (s : State) (f : Firing) (e : Elem) (a : Token) (col : BitVec 6) (tag : BitVec 12), s.CanFire f e → f.a = some a →
    let d := (s.declOf f.c f.k a.colour.toNat).depth
    let t := a.time
    let j := f.info.w.k.toNat % 4
    let at_ (t : Time) : Token := { a with lanes := a.lanes.take 1 ++ timeLanes t ++ a.lanes.drop 4 }
    (s.recolourK f a = some (col, tag) →
      (d < 3 → Emits s .ctEnter f { at_ (t.setCoord (d + 1) 0) with colour := col, tag := tag }) ∧
      (d ≠ 0 → Emits s .ctLeave f { at_ (t.setCoord d 0) with colour := col, tag := tag })) ∧
    (d ≠ 0 → t.coord d < 0xFFFF → Emits s .ctStep f (at_ (t.setCoord d (t.coord d + 1)))) ∧
    (∀ b, f.b = some b →
      let n := (b.lane 0).toNat
      (t.coord j ≤ n → n < 2 ^ coordBits j → Emits s .ctSet f (at_ (t.setCoord j n))) ∧
      (n ≤ t.coord j → Emits s .ctAdv f a) ∧
      (t.coord j < n → n < 2 ^ coordBits j →
        Emits s .ctAdv f (at_ ((List.range 4).foldl (fun t i => if j < i then t.setCoord i 0 else t) (t.setCoord j n)))) ∧
      Steers s .ctLe f a (t.le b.time) ∧
      Steers s .ctLt f a (t.le b.time && decide (t ≠ b.time)) ∧
      Steers s .ctEq f a (decide (t = b.time)) ∧
      Steers s .ctPar f a (!(t.le b.time) && !(b.time.le t)))

/-- R286 to R291, R298: an issue of a stream slot begins a run of its descriptor. A token that only starts a run is taken with it (the model's
reading, log 111); a change, an index or an operand stays at its port while the run goes on (R389); a stream that takes its data from arriving tokens
begins with the first of them.
R292, R299, R389: a wave-ordered access is submitted with its numbers, and its tokens leave their ports; while a stream barrier holds its stream, or the stream stalls, it waits. An indexed
operation whose B or C holds another number of elements is ERR WIDTH (the model's reading, log 15), and so does not begin. -/
def Obligations.StreamsBegin : Prop :=
  (∀ (s : State) (f : Firing) (e : Elem) (w : MeW), s.CanFire f e →
     let n := w.desc.toNat
     let d := e.descAt n
     let base : Run := { desc := n, slot := f.slot, base := dBase d }
     let r : Run := { base with a := f.a, b := f.b, x := f.x, ent := f.ent, holds := true }
     let ix : Run := { r with z := dIndexed d, emitted := e.ntok.get 0 n }
     let dem (r : Run) : Run := { r with demand := some (demandOf e w.k), waitsJoin := true }
     let issued : State := (s.modElem f.c f.site f.k fun e => { e with ntok := e.ntok.mod 0 n (· + 1) }).countMe f.c f.k
     let starts (i : Instr) (r : Run) : Prop := f.info.i = i →
       Begins s i (issued.modElem f.c f.site f.k fun e => { e with runs := e.runs ++ [r] })
     let triggered (st : Instr → Run → Prop) (r : Run) : Prop :=
       st (.agsRd w) { r with z := tyBytes w.ty } ∧
       (dTdst d = true → st (.agsWr w) { r with z := tyBytes w.ty } ∧ (e.active n = none → st (.pst w) (dem r))) ∧
       st (.agsRdcf w) r ∧
       st (.agsFill w) { r with z := 4 } ∧
       st (.agsScrub w) { r with z := 64 } ∧
       (e.active n = none → st (.pld w) (dem r))
     (∀ a, f.a = some a → a.kind ≠ kChg → triggered (fun i r => f.info.i = i →
       Fires s i f { st := s.modElem f.c f.site f.k fun e => { e with ntok := e.ntok.mod 0 n (· + 1), runs := e.runs ++ [r] } }) { base with a := f.a }) ∧
     (e.holdsFor f.slot = false →
       (∀ a, f.a = some a → a.kind = kChg → triggered starts r) ∧
       (∀ a, f.a = some a →
         (a.width * dIndexed d = 4 * dWid d → starts (.agxGath w) ix) ∧
         ((∀ t, f.b = some t ∨ f.x = some t → a.width * dIndexed d = 4 * t.width) →
           starts (.agxScat w) ix ∧ starts (.agxAtomAdd w) ix ∧ starts (.agxAtomMin w) ix ∧ starts (.agxAtomMax w) ix ∧
           starts (.agxAtomCas w) ix ∧ starts (.agxAtomSwp w) ix) ∧
         starts (.agxChase w) { ix with z := 8, addr := a.lane 1 ++ a.lane 0 } ∧
         (((s.cluster f.c).tagPlace f.k (keyOf a)).isSome = true →
           (s.spAddr f.c f.k (meIndex f.site) (fillDest d ((a.lane 2).toNat % 4096)) (fillBytes d)).isSome = true →
           starts (.ttbFill w) { r with z := 64 }))) ∧
     (e.active n = none →
       (dTdst d = false → starts (.agsWr w) { base with z := tyBytes w.ty } ∧ starts (.pst w) (dem base)) ∧
       starts (.agsWrcf w) base)) ∧
  (∀ (s : State) (f : Firing) (e : Elem) (a : Token) (o p n : BitVec 6) (z : BitVec 2) (d : BitVec 3), s.CanFire f e → f.a = some a →
     let acc : WaveAcc := { slot := f.slot, desc := d.toNat, own := o.toNat, pred := p.toNat, succ := n.toNat, tok := a, data := f.b, num := e.ntok.get 0 d.toNat }
     let t := ((s.noteIssue f d.toNat).modElem f.c f.site f.k fun e => { e with waves := e.waves ++ [acc] }.take f (f.taken [])).settle f.c f.site
     let held := (e.held.any fun h => decide (h.1 = d.toNat)) || e.waves.any fun w => decide (w.desc = d.toNat) && w.stalled.isSome
     (held = false → Begins s (.wavLd o p n z d) t ∧ Begins s (.wavSt o p n z d) t ∧ Begins s (.wavMnop o p n z d) t) ∧
     (held = true → exec (.wavLd o p n z d) s = .next s ∧ exec (.wavSt o p n z d) s = .next s ∧ exec (.wavMnop o p n z d) s = .next s))

/-- R115, R293: look-up, insertion and eviction of the tag table: the result is one lane, in A's colour or that of constant kN where it is narrower.
R112, R113, R294: the changes of tile and ring state, on a tile and ring of the context in the state the operation asks for; the result is
the entry's upper half. Every result is DENSE, whatever the kind of A (the model's reading, log 14). -/
def Obligations.TableResults : Prop :=
  (∀ (s : State) (f : Firing) (e : Elem) (w : MeW) (a : Token) (col : BitVec 6) (tag : BitVec 12), s.CanFire f e → f.a = some a →
     let x := s.cluster f.c
     let key := (a.lane 0).toNat + 2 ^ 32 * ((a.lane 1).toNat % 2 ^ 16)
     let v := (a.lane 2).toNat
     let lane (st : State) (n : Nat) : FireOk :=
       { st := st, outs := [(0, { a with kind := kDense, colour := col, tag := tag, lanes := [BitVec.ofNat 32 n] })] }
     s.meColour f a w.k.toNat 1 = some (col, tag) →
     Fires s (.ttbLook w) f (lane (s.countLookup f.c f.k (x.tagFind f.k key).isNone) (x.tagLook f.k key)) ∧
     Fires s (.ttbIns w) f (lane (s.modCluster f.c fun _ => (x.tagInsert f.k key (v % 4096) (v / 4096 % 2)).1)
       (x.tagInsert f.k key (v % 4096) (v / 4096 % 2)).2) ∧
     (x.tagFind f.k key = none → Fires s (.ttbEvict w) f (lane s 0xFFF)) ∧
     (∀ i, x.tagFind f.k key = some i →
       let en : DWord := x.tags.get 0 i
       Fires s (.ttbEvict w) f (lane (s.modCluster f.c fun x => { x with tags := x.tags.del i }) (en.bits 59 48 + 4096 * en.bits 62 62))) ∧
     (x.tagPlace f.k key = none → Fires s (.ttbFill w) f (lane s 0xFFF))) ∧
  (∀ (s : State) (f : Firing) (e : Elem) (w : MeW) (a : Token) (col : BitVec 6) (tag : BitVec 12), s.CanFire f e → f.a = some a →
     let t := (a.lane 0).toNat % 256
     let r := (a.lane 0).toNat / 256 % 16
     let x := s.cluster f.c
     let en := x.tile t
     let done (t : Nat) (y : Cluster) : FireOk :=
       { st := s.modCluster f.c fun _ => y,
         outs := [(0, { a with kind := kDense, colour := col, tag := tag, lanes := [BitVec.ofNat 32 ((y.tile t).bits 63 32)] })] }
     (s.meColour f a w.k.toNat 1 = some (col, tag) →
       (s.ownsTile f.c f.k t = true →
         (tileState en = tEmpty →
           (a.width < 2 → Fires s (.tilSetf w) f (done t (x.setTile t (setField en 63 62 tFilling)))) ∧
           (2 ≤ a.width →
             let e1 := setField en 59 34 ((a.lane 1).toNat % 2 ^ 26)
             (s.spAddr f.c f.k (tileMe e1) (tileOff e1) (tileLen e1)).isSome = true →
             Fires s (.tilSetf w) f (done t (x.setTile t (setField e1 63 62 tFilling))))) ∧
         (tileState en = tFilling → Fires s (.tilReady w) f (done t (x.tileTo t tReady))) ∧
         (x.tileUse.get 0 t = 0 → Fires s (.tilEmpty w) f (done t (x.emptyTile t))) ∧
         (s.ownsRing f.c f.k r = true → (tileState en = tReady ∨ tileState en = tFilling) → tileInRing en = false →
           let y := x.setMembers r (x.members r ++ [t])
           ((a.lane 0).getLsbD 12 = false → Fires s (.tilPush w) f (done t y)) ∧
           ((a.lane 0).getLsbD 12 = true → Fires s (.tilPush w) f (done t { y with
             rings := Map.put 0 y.rings r ((y.ring r &&& 0x7FFFFFFF#32) ||| (if (a.lane 0).getLsbD 13 then 0x80000000#32 else 0)) })))) ∧
       (∀ u rest, s.ownsRing f.c f.k r = true → x.members r = u :: rest → Fires s (.tilPop w) f (done u (x.setMembers r rest)))) ∧
     (s.meColour f a w.k.toNat 3 = some (col, tag) → s.ownsTile f.c f.k t = true → s.ownsRing f.c f.k r = true →
       Fires s (.tilQuery w) f
         { st := s,
           outs := [(0, { a with
             kind := kDense, colour := col, tag := tag, lanes := [en.extractLsb' 0 32, en.extractLsb' 32 32, x.ring r] })] }) ∧
     (s.ownsTile f.c f.k t = true → tileState en = tReady → e.holdsFor f.slot = false →
       Begins s (.tilDrain w)
         (((s.modCluster f.c fun x => (x.useTile t).tileTo t tDraining).countMe f.c f.k).modElem f.c f.site f.k fun e =>
           { e with runs := e.runs ++ [{ desc := 16 + t, slot := f.slot, base := 0, a := f.a, ent := f.ent, holds := true, z := 64 }] })))

/-- R78, R79, R295: arr.ins collects a group and at its close writes its consolidated records as a new batch at the head of the arrangement; arr.mrg
writes all batches as one; both give the number of records.
R76, R295, R296: arr.seek gives the consolidated records of A's key, with arr.seek.at those of times that are not later than A's at A's
time; arr.cmpt replaces the times of every batch by their representatives under the frontier of A. Where batches stand and how they are linked is the model's reading (log 63), as are the
colour and tag of a result (log 64), the lanes of a narrow one (log 14), and the poison of a group (log 48). -/
def Obligations.ArrangementResults : Prop :=
  (∀ (s : State) (f : Firing) (e : Elem) (w : MeW) (a : Token) (col : BitVec 6) (tag : BitVec 12) (recs : Sums), s.CanFire f e → f.a = some a →
     let ar := areaOf (e.const w.k.toNat)
     let n := w.dslot.toNat
     let arr := s.arrOf f n
     let x := e.slot f.slot
     let ts := x.group ++ [a]
     let rec_ (t : Token) : List Word := fitLanes (ar.kl + ar.vl) t.record
     let put (s : State) (g : List Token) : State := s.setSlot f.c f.site f.k f.slot { x with group := g }
     let count (p : Bool) (n : Nat) : List (Nat × Token) :=
       [(0, { a with kind := kDense, colour := col, tag := tag, poison := a.poison || p, lanes := [BitVec.ofNat 32 n] })]
     let rd := s.readBatches f n
     (a.last = false → Fires s (.arrIns w) f { st := put s ts }) ∧
     (s.recolour f ((e.const (w.k.toNat + 1)).toNat % 64) a = some (col, tag) →
       (a.last = true → consolidate (ts.map fun t => (rec_ t, t.time, t.diff)) = some recs →
         (recs = [] → Fires s (.arrIns w) f { st := put s [], outs := count (ts.any Token.poison) 0 }) ∧
         (recs ≠ [] → arr.free + ar.bytes recs.length ≤ ar.len →
           let s1 := s.writeBatch f ar (ar.start + arr.free) (s.ownAddr f arr.batches.head?) { recs := recs } fun q =>
             ts.any fun t => t.poison && decide ((rec_ t, t.time) = q)
           Fires s (.arrIns w) f
             { st := put (s1.setArr f n { batches := (ar.start + arr.free) :: arr.batches, free := arr.free + ar.bytes recs.length }) [],
               outs := count (ts.any Token.poison) recs.length })) ∧
       (consolidate (rd.2.flatMap fun b => b.2.recs) = some recs →
         (recs = [] → Fires s (.arrMrg w) f { st := rd.1.setArr f n {}, outs := count (batchesBad rd.2) 0 }) ∧
         (recs ≠ [] → ar.bytes recs.length ≤ ar.len →
           let same := decide (((rd.2.map fun b => b.2.since).eraseDups).length = 1)
           let s2 := rd.1.writeBatch f ar ar.start 0
             { recs := recs, since := if same then (rd.2.map fun b => b.2.since).headD [] else [], cmp := same && rd.2.all fun b => b.2.cmp }
             fun _ => batchesBad rd.2
           Fires s (.arrMrg w) f
             { st := s2.setArr f n { batches := [ar.start], free := ar.bytes recs.length }, outs := count (batchesBad rd.2) recs.length })))) ∧
  (∀ (s : State) (f : Firing) (e : Elem) (w : MeW) (a : Token) (col : BitVec 6) (tag : BitVec 12) (recs : Sums), s.CanFire f e → f.a = some a →
     let ar := areaOf (e.const w.k.toNat)
     let n := (a.lane 0).toNat % 16
     let key := fitLanes ar.kl a.record
     let rd := s.readBatches f w.dslot.toNat
     let mine := (rd.2.flatMap fun b => b.2.recs).filter fun r => decide (r.1.take ar.kl = key)
     s.recolour f ((e.const (w.k.toNat + 1)).toNat % 64) a = some (col, tag) →
     (consolidate (if w.flags.getLsbD 0 then (mine.filter fun r => r.2.1.le a.time).map fun r => (r.1, a.time, r.2.2) else mine) = some recs →
       let base (l : List Word) : Token :=
         s.fillChange f.c f.k { a with kind := kChg, colour := col, tag := tag, poison := a.poison || batchesBad rd.2, lanes := l }
       let outs := recs.flatMap fun r => withDiff (base (chgLanes 0 r.2.1 r.1)) r.2.2
       Fires s (.arrSeek w) f
         { st := rd.1,
           outs := (if outs = [] then [{ base (chgLanes 0 Time.zero (key ++ List.replicate ar.vl 0)) with last := true }] else markLast outs).map
             fun t => (0, t) }) ∧
     (1 ≤ n → n ≤ 8 →
       let fr := minimal ((List.range n).map fun i =>
         ⟨a.lane (1 + 3 * i), (a.lane (2 + 3 * i)).extractLsb' 16 16, (a.lane (2 + 3 * i)).extractLsb' 0 16, (a.lane (3 + 3 * i)).extractLsb' 16 16⟩)
       let new := rd.2.map fun b => (b.1, b.2, consolidate (b.2.recs.map fun r => (r.1, repUnder fr r.2.1, r.2.2)))
       (∀ b ∈ new, b.2.2.isSome = true) →
       Fires s (.arrCmpt w) f
         { st := (new.zip (((new.map Prod.fst).drop 1).map some ++ [none])).foldl (fun s q =>
             s.writeBatch f ar q.1.1 (s.ownAddr f q.2) { recs := q.1.2.2.getD [], since := fr, cmp := true } fun _ => q.1.2.1.bad) rd.1,
           outs := [(0, { a with
             kind := kDense, colour := col, tag := tag, poison := a.poison || batchesBad rd.2,
             lanes := [BitVec.ofNat 32 ((new.map fun b => (b.2.2.getD []).length).foldl (· + ·) 0)] })] }))

/-- R45, R69, R118, R123, R138, R286 to R291, R298, R383: an ME serves the first of its ready streams; its run makes the access of its next element, at base + Σ iⱼ·strⱼ or at the index that
A's lane gives. A read adds the element to the token that it fills, or writes it to its tile or scratchpad; a write stores the element of the token or of the tile; a scrub gives a bit; a CF8
block is read or written whole; a gather gives its elements, a scatter writes those of B, an atomic performs its function and gives the old values; an index outside the span is not accessed. A reply leaves in
order, and with flag [1] an EOS after the last; a run that is over ends, its operands being taken with its last effect, and its command is done. A chase whose previous reply has
returned loads its next doubleword inside the span, gives it with its address, and is over at a zero
link or at the end of its count; outside the span it gives ERR RANGE. A gather engine performs a batch of up to 64 elements of a near stream. What AG_ACCESS (`Instr.agAccess`) answers is `AgDoes`. The arrival of a stream's operands is the model's
reading (log 114), as are the way of the replies (log 13), the widths that an indexed operation asks of B and C (log 15), that a narrow result is DENSE (log 14), that a result's width is not checked (log 57), the mark
of a line that is covered whole (log 59), that the operands stay at their ports (log 60), and what an element of another node waits for (logs 97 and 113). -/
def Obligations.RunSteps : Prop :=
  (∀ (s : State) (step : State → Nat → Nat → Nat → Nat → State) (c site k n : Nat) (q : Rival × Nat), q ∈ s.runRivals step c site →
    ∃ b ∈ s.runRivals step c site, s.chooseRun step c site k n = (b.1.k, b.2) ∧ q.1.before b.1 = false) ∧
  (∀ (s : State) (key n cov v : Nat) (bad : Bool) (f : Nat → Nat) (ws : List DWord), (∀ i, i < n → s.roByte (key + i) = false) →
    (s.atHome key n cov .read).2.1 = s.rd key n ∧ (s.atHome key n cov .read).1.mem = s.mem ∧
    (let g := s.atHome key n cov (.write v bad)
     g.1.rd key n = v % 2 ^ (8 * n) ∧ ∀ k, k < key ∨ key + n ≤ k → readByte g.1.mem k = readByte s.mem k) ∧
    (let g := s.atHome key n cov (.atomic f ws bad)
     ((s.touch key n).2 = 0 → g.2.1 = s.rd key n ∧ g.1.rd key n = f (s.rd key n) % 2 ^ (8 * n)) ∧ ((s.touch key n).2 ≠ 0 → g.1.mem = s.mem ∧ g.2.2.1 = true) ∧
       ∀ k, k < key ∨ key + n ≤ k → readByte g.1.mem k = readByte s.mem k)) ∧
  (∀ (fn ty z old y cv : Nat), fn < 5 →
    let m := 2 ^ (8 * z)
    let t : ITy := (tyInt ty).getD ⟨8 * z, false⟩
    let val (n : Nat) : Val := tyDecode 3 false n
    let round (v : Val) : Nat := tyRound 3 (RMode.ofCode 0) false 0 v
    (fn = 0 → ty ≠ 3 → agAtom fn ty z old y cv = (old + y) % m) ∧
    (fn = 0 → ty = 3 → agAtom fn ty z old y cv = round ((val old).add (RMode.ofCode 0) (val y)).1) ∧
    (fn = 1 → ty ≠ 3 → agAtom fn ty z old y cv = if t.read y < t.read old then y else old) ∧
    (fn = 2 → ty ≠ 3 → agAtom fn ty z old y cv = if t.read y < t.read old then old else y) ∧
    (fn = 1 → ty = 3 → agAtom fn ty z old y cv = round (if (val old).isNan || (val y).isNan then .nan false else if (val old).below (val y) then val old else val y)) ∧
    (fn = 2 → ty = 3 → agAtom fn ty z old y cv = round (if (val old).isNan || (val y).isNan then .nan false else if (val old).below (val y) then val y else val old)) ∧
    (fn = 3 → agAtom fn ty z old y cv = if old = cv then y else old) ∧ (fn = 4 → agAtom fn ty z old y cv = y)) ∧
  (∀ (s p t t2 : State) (x : RunAt) (r r1 : Run) (w : MeW) (v ad : Nat) (bad : Bool) (f : Firing) (a : Token), s.Serves State.agStep p x r → p.MayAccess x r → r.desc < 16 →
    let total := dTotal x.d
    let i := r.pos
    let z := r.z
    let va := r.base + BitVec.ofInt 64 (dOffset x.d i)
    let fin := decide (i + 1 ≥ total)
    let tile := dTile x.d
    let into (t : State) (y : Cluster) : State := t.modCluster x.c fun _ => y
    (r.waitsJoin = false → x.beyond r i = false →
      (x.info.i = .agsRd w ∨ x.info.i = .pld w → dTdst x.d = false → p.NearAccess x r va z .read t r1 v bad →
        let r2 := t.tokenUp x { r1 with pos := i + 1, moved := r1.moved + z, poisoned := r1.poisoned || bad, part := r1.part ++ [v], partPoison := r1.partPoison || bad } total
        AgDoes s p x r t { r2 with isOver := fin }) ∧
      (x.info.i = .agsFill w → r.missed = 0 → p.NearAccess x r va z .read t r1 v bad →
        t.spAddr x.c x.k ((dAux x.d).bits 20 16) ((dAux x.d).bits 15 0 + i * z) z = some ad →
        let y := (t.cluster x.c).spWrite ad z v bad
        y.2 = false →
        AgDoes s p x r (into t y.1) { r1 with
          pos := i + 1, moved := r1.moved + z, wrote := r1.wrote + z, poisoned := r1.poisoned || bad, isOver := fin }) ∧
      (x.info.i = .agsRd w ∨ x.info.i = .pld w → dTdst x.d = true → r.missed = 0 → (i = 0 → tileState ((p.cluster x.c).tile tile) = tEmpty ∧ p.ownsTile x.c x.k tile = true) →
        (i + 1) * z ≤ tileLen ((p.cluster x.c).tile tile) → p.NearAccess x r va z .read t r1 v bad →
        let u := if i = 0 then t.modCluster x.c fun y => (y.useTile tile).tileTo tile tFilling else t
        u.tileAddr x.c x.k tile (i * z) z = some ad →
        let y := (u.cluster x.c).spWrite ad z v bad
        let r2 : Run := { r1 with pos := i + 1, moved := r1.moved + z, wrote := r1.wrote + z, poisoned := r1.poisoned || bad }
        let e := (into u y.1).endElems x r2 true
        y.2 = false → (i + 1 < total → AgDoes s p x r (into u y.1) r2) ∧ (total ≤ i + 1 → AgDoes s p x r e.1 e.2)) ∧
      (x.info.i = .agsWr w ∨ x.info.i = .pst w → dTdst x.d = true → tileState ((p.cluster x.c).tile tile) ≠ tFilling → p.ownsTile x.c x.k tile = true →
        (i + 1) * z ≤ tileLen ((p.cluster x.c).tile tile) → p.tileAddr x.c x.k tile (i * z) z = some ad →
        let y := (p.cluster x.c).spRead ad z
        (into p y.1).NearAccess x r va z (.write y.2.1 y.2.2) t r1 v bad →
        AgDoes s p x r t { r1 with
          pos := i + 1, moved := r1.moved + z, wrote := r1.wrote + z, wroteBad := r1.wroteBad || y.2.2, poisoned := r1.poisoned || y.2.2, isOver := fin }) ∧
      (x.info.i = .agsWr w ∨ x.info.i = .pst w → dTdst x.d = false → p.readyAt x.c x.site x.k r.slot = some f → f.a = some a → p.tooDeep f.c f.k a = false →
        let st := x.e.slot r.slot
        p.NearAccess x r va z (.write (elemAt z a.lanes st.size) a.poison) t r1 v bad →
        let put (n m : Nat) : State := t.modElem x.c x.site x.k fun e => e.setSlot r.slot { e.slot r.slot with size := n, data := m }
        let r2 : Run := { r1 with
          pos := i + 1, moved := r1.moved + z, wrote := r1.wrote + z, wroteBad := r1.wroteBad || a.poison, isOver := fin }
        (st.size + 1 < 4 * a.width / z → AgDoes s p x r (put (st.size + 1) st.data) r2) ∧
        (4 * a.width / z ≤ st.size + 1 → st.data = 0 → (put 0 0).replyOut f none [(0, a)] = (t2, true) → AgDoes s p x r t2 r2)) ∧
      (x.info.i = .agsScrub w → p.NearAccess x r va 64 .scrub t r1 v bad →
        let bits := r1.part ++ [v]
        let up := fin || decide (bits.length ≥ 1024)
        let tok : Token := { t.runToken x r1 (fitLanes 32 (packLanes 1 bits)) false false with kind := kDense }
        AgDoes s p x r t { r1 with
          pos := i + 1, moved := r1.moved + 64, poisoned := r1.poisoned || bad, part := if up then [] else bits,
          ready := if up then r1.ready ++ [tok] else r1.ready, emitted := if up then r1.emitted + 1 else r1.emitted, isOver := fin }) ∧
      (x.info.i = .agsRdcf w → r.addr.toNat + 4 ≤ dSpan x.d → p.NearAccess x r (r.base + r.addr) 4 .read t r1 v bad →
        let h : Word := BitVec.ofNat 32 v
        let fit := (dSpan x.d - r.addr.toNat - 4) / 4
        ∀ (r2 : Run) (es : List Nat) (m : Nat) (b : Bool),
        t.cfRead x h (Nat.min fit (if h.bits 23 16 = 32 then 9 else 80)) r1 (r.base + r.addr + 4#64) [] bad = (t2, r2, some (.ok es, m, b)) →
        let closes := decide (r2.pos + 1 ≥ dCnt x.d 0)
        let tok := t2.runToken x r2 (packLanes 8 es) b ((flagsOf x.info.i).1 && closes)
        AgDoes s p x r t2 { r2 with
          ready := r2.ready ++ [{ tok with kind := kHdr, lanes := [h], last := false }, tok], pos := r2.pos + 1, emitted := r2.emitted + 1,
          addr := r2.addr + BitVec.ofNat 64 (4 + 4 * m), moved := r2.moved + 4 + 4 * m, poisoned := r2.poisoned || b, isOver := closes }) ∧
      (x.info.i = .agsWrcf w → p.readyAt x.c x.site x.k r.slot = some f → f.a = some a → p.tooDeep f.c f.k a = false →
        let h := match x.e.hdr.find? a.chan.toNat with
          | some t => t.lane 0
          | none => 0
        let ws := cf8Encode a.scale.toNat (h.getLsbD 15) ((splitLanes 8 a.lanes).take (if h.bits 23 16 = 0 then 4 * a.width else h.bits 23 16))
        let at_ (i : Nat) : DWord := r.base + r.addr + BitVec.ofNat 64 (4 * i)
        let put (q : State × Run × Bool) (i : Nat) : State × Run × Bool :=
          let g := q.1.runMem x q.2.1 false (at_ i) 4 (.write (ws.getD i 0).toNat a.poison) (dPos x.d r.pos)
          if q.2.2 then (g.1, g.2.1, g.2.2.isSome) else q
        ∀ (u : State) (q : Run), (List.range ws.length).foldl put (p, r, true) = (u, q, true) →
        (∀ i, i < ws.length → ∃ key, (p.agHome x.c x.k (at_ i) 4 .store).2 = .ok key) → u.replyOut f none [(0, a)] = (t2, true) →
        AgDoes s p x r t2 { q with
          pos := q.pos + 1, addr := q.addr + BitVec.ofNat 64 (4 * ws.length), moved := q.moved + 4 * ws.length, wrote := q.wrote + 4 * ws.length,
          wroteBad := q.wroteBad || a.poison, isOver := decide (q.pos + 1 ≥ dCnt x.d 0) }) ∧
      (∀ (y : State) (q : Run) (va : DWord) (n m : Nat) (act : AgAct), y.NearAccess x q va n act t r1 v bad → y.runMem x q false va n act m = (t, r1, some (v, bad)))) ∧
    (r.waitsJoin = false → x.beyond r i = true → x.info.i = .pld w → dTdst x.d = false →
      let r2 := p.tokenUp x { r with pos := i + 1, missed := r.missed + 1, error := true, part := r.part ++ [0] } total
      AgDoes s p x r p { r2 with isOver := fin }) ∧
    (∀ (idx st : Nat), r.waitsJoin = true → r.demand = some (idx, st) → p.NearAccess x r (dtdAddr (p.ptabAt x.c x.k) idx) 8 .read t r1 v bad →
      let d : DWord := BitVec.ofNat 64 v
      let who := farRun x.c x.k x.site r.desc
      let own := runOwner x.site r.desc
      (d.getLsbD 33 = true → AgDoes s p x r (t.farDone who) r1) ∧
      (d.getLsbD 33 = false → t.tablesFail x.c x.k own idx = (t2, none) →
        let u := (t2.engDone x.c x.k own).farDone who
        (d.bits 63 48 = st → AgDoes s p x r u (u.joinRun x.c x.k idx r1)) ∧
        (d.bits 63 48 ≠ st → AgDoes s p x r (u.forkConv x.c x.k idx st) r1)))) ∧
  (∀ (s p t : State) (x : RunAt) (r r1 : Run) (w : MeW) (a : Token) (v : Nat) (bad : Bool), s.Serves State.agStep p x r → p.MayAccess x r → r.desc < 16 → r.demand = none →
    r.a = some a →
    let j := r.pos
    let z := r.z
    let l := a.lane j
    let off : Int := (if w.flags.getLsbD 0 then l.toInt else (l.toNat : Int)) * dStr x.d 0
    let va := r.base + BitVec.ofInt 64 off
    let inside : Prop := 0 ≤ off ∧ off + z ≤ dSpan x.d
    let y := match r.b with
      | some b => elemAt z b.lanes j
      | none => 0
    let cv := match r.x with
      | some t => elemAt z t.lanes j
      | none => 0
    let bp := match r.b with
      | some b => b.poison
      | none => false
    let goes (t : State) (r2 : Run) (res : Option Nat) : Prop :=
      let own := (x.firing r).poison
      (j + 1 < a.width → AgDoes s p x r t r2) ∧
      (a.width ≤ j + 1 → AgDoes s p x r t { r2 with
        ready := r2.ready ++ (match res with
          | some n => [{ a with kind := resultKind (some a) n, lanes := packTo n z r2.part, poison := own || r2.partPoison }]
          | none => []) ++ (if r2.missed = 0 then [] else [t.runErr x r2 0x03 r2.missed]), isOver := true })
    let got (r1 : Run) (m wr : Nat) (wb : Bool) : Run := { r1 with
      pos := j + 1, part := r1.part ++ [v], partPoison := r1.partPoison || bad, moved := r1.moved + m, wrote := r1.wrote + wr, wroteBad := r1.wroteBad || wb }
    let res (i : Instr) : Option Nat := if isScat i then none else match atomOf i, r.b with
      | some _, some b => some b.width
      | _, _ => some (dWid x.d)
    (∀ i ∈ [Instr.agxGath w, .agxScat w, .agxAtomAdd w, .agxAtomMin w, .agxAtomMax w, .agxAtomCas w, .agxAtomSwp w], x.info.i = i → ¬inside → v = 0 → bad = false →
      goes p (got { r with missed := r.missed + 1 } 0 0 (bp && isScat i)) (res i)) ∧
    (inside →
      (x.info.i = .agxGath w → p.NearAccess x r va z .read t r1 v bad → goes t (got r1 z 0 false) (some (dWid x.d))) ∧
      (x.info.i = .agxScat w → p.NearAccess x r va z (.write y bp) t r1 v bad → goes t (got r1 z z bp) none) ∧
      (∀ q ∈ [(Instr.agxAtomAdd w, 0), (.agxAtomMin w, 1), (.agxAtomMax w, 2), (.agxAtomCas w, 3), (.agxAtomSwp w, 4)], x.info.i = q.1 →
        p.NearAccess x r va z (.atomic (fun old => agAtom q.2 w.ty.toNat z old y cv)
          (Config.accessWords { fn := 32 + 16 * q.2 + w.ty.toNat, n := z, y := y, cv := cv, poison := bp }) bp) t r1 v bad →
        goes t (got r1 z 0 false) (res q.1)))) ∧
  (∀ (s p s2 : State) (x : RunAt) (r : Run) (t : Token) (rest : List Token), s.Serves State.replyStep p x r → r.ready = t :: rest →
    (rest = [] → r.isOver = true → p.replyOut (x.firing r) (some t) (x.owed r) = (s2, true) →
      exec .agReply s = .next (s2.setRun x.c x.site x.k { r with ready := [], a := none, b := none, x := none, ent := none, holds := false })) ∧
    ((rest ≠ [] ∨ r.isOver = false) → p.replyOut (x.firing r) (some t) [] = (s2, true) →
      exec .agReply s = .next (s2.setRun x.c x.site x.k { r with ready := rest }))) ∧
  (∀ (s t s2 : State) (x : RunAt) (r r1 : Run) (v : Nat) (bad : Bool),
     let c := s.cur.cluster
     let site := s.cur.site
     let k := s.cur.ctx
     s.runAt c site k s.cur.sel = some (x, r) → r.isOver = true → r.ready = [] → r.stalled = none → s.runHeld x r = false → r.desc < 16 →
     (dArv x.d = false ∧ t = s ∧ r1 = r ∧ bad = false ∨
       dArv x.d = true ∧ s.NearAccess x r (dAux x.d) 32 (.update (arrival r.wrote r.wroteBad) (arrivalWords r.wrote r.wroteBad)) t r1 v bad) →
     (t.farDone (farRun c k site r.desc)).replyOut (x.firing r1) none (x.owed r1) = (s2, true) →
     exec .agRunEnd s = .next ((s2.modElem c site k fun e => { e with runs := dropFirst r.desc e.runs }).cmdDone c k r1.cmdId r1.moved
       (if r1.poisoned || r1.wroteBad || bad then stPoisoned else if r1.error then stError else stOk))) ∧
  (∀ (s p t : State) (x : RunAt) (r r1 : Run) (w : MeW) (a : Token) (v : Nat) (bad : Bool), s.Serves State.chaseStep p x r → p.MayAccess x r →
     x.info.i = .agxChase w → r.a = some a → r.ready = [] →
     ((r.addr.toNat < r.base.toNat ∨ r.base.toNat + dSpan x.d < r.addr.toNat + 8) →
       exec .chaseStep s = .next (p.setRun x.c x.site x.k { r with ready := [{ p.runErr x r 0x03 1 with last := true }], isOver := true })) ∧
     (r.base.toNat ≤ r.addr.toNat → r.addr.toNat + 8 ≤ r.base.toNat + dSpan x.d → p.NearAccess x r r.addr 8 .read t r1 v bad →
       let d : DWord := BitVec.ofNat 64 v
       let fin := bad || decide (d = 0) || decide (r.pos + 1 ≥ dCnt x.d 0)
       exec .chaseStep s = .next ((t.farDone (farRun x.c x.k x.site r.desc)).setRun x.c x.site x.k { r1 with
         pos := r.pos + 1, moved := r.moved + 8, isOver := fin, poisoned := r.poisoned || bad, addr := d + dAux x.d,
         ready := [{ a with
           lanes := [r.addr.extractLsb' 0 32, r.addr.extractLsb' 32 32, d.extractLsb' 0 32, d.extractLsb' 32 32],
           last := fin, poison := a.poison || bad }] }))) ∧
  (∀ (s : State) (x : RunAt) (r : Run) (w : MeW),
     let c := s.cur.cluster
     let site := s.cur.site
     let k := s.cur.ctx
     s.runAt c site k s.cur.sel = some (x, r) → dNear x.d = true → (x.info.i = .agxGath w ∨ x.info.i = .agxScat w) →
       exec .gatherEngineBatch s = .next ((List.range 64).foldl (fun t _ => t.agStep c site k s.cur.sel) s))

/-- R292, R299, R389: a wave access whose turn has come, inside its span, is performed at its home and its tokens leave: a load gives its value, a store writes its bytes, and a wave without an
access only takes its turn; one outside the span gives ERR RANGE. An sbr whose streams have nothing
outstanding frees them and passes A on.
R140, R297, R299: bar adds A's lane 0 to the barrier it names once every write that its ME's streams issued before it is visible, and waits till then;
sbr holds the streams it names, and A until they have nothing outstanding. The first wave of a colour is the model's reading (log 16), and so is an arrival at another node (log 97). -/
def Obligations.WaveAndBarrierSteps : Prop :=
  (∀ (s s1 s2 : State) (e : Elem) (rg : Region) (info : SlotInfo) (w : WaveAcc) (o p n : BitVec 6) (z : BitVec 2) (d : BitVec 3) (key : Nat)
     (a : Token) (names : List (Nat × Nat)),
     let c := s.cur.cluster
     let site := s.cur.site
     let k := s.cur.ctx
     let slot := s.cur.slot
     s.elem? c site k = some e → e.slotInfo site slot = some info → s.running c k = true →
     (s.region? c k = some rg → rg.frozen = false → e.snapped = false →
       e.waves.find? (fun w => decide (w.slot = slot) && s.waveReady c k rg e w) = some w →
       let m := 2 ^ z.toNat
       let va := dBase (e.descAt w.desc) + BitVec.ofNat 64 (w.tok.lane 0).toNat
       let f : Firing := { c := c, k := k, site := site, slot := slot, info := info, a := some w.tok, b := w.data, ent := some 4096 }
       let gone (t : State) : Prop := exec .waveAccessPerform s = .next
         ((t.modElem c site k fun e => { e with waves := e.waves.filter fun q => decide (q ≠ w) }).waveNote c k w)
       (info.i = .wavMnop o p n z d → s.replyOut f none (f.taken []) = (s2, true) → gone s2) ∧
       (dSpan (e.descAt w.desc) < (w.tok.lane 0).toNat + m → info.i = .wavSt o p n z d →
         s.replyOut f (some (errToken 0x03 1 site w.desc w.tok.colour w.tok.tag w.tok.last)) (f.taken []) = (s2, true) → gone s2) ∧
       (dSpan (e.descAt w.desc) < (w.tok.lane 0).toNat + m → info.i = .wavLd o p n z d →
         s.replyOut f (some { w.tok with kind := kDense, lanes := packTo (if z = 3 then 2 else 1) m [0] }) [] = (s1, true) →
         s1.replyOut f (some (errToken 0x03 1 site w.desc w.tok.colour w.tok.tag w.tok.last)) (f.taken []) = (s2, true) → gone s2) ∧
       ((w.tok.lane 0).toNat + m ≤ dSpan (e.descAt w.desc) → isFar key = false →
         (info.i = .wavLd o p n z d → s.agHome c k va m .load = (s1, .ok key) →
           let g := s1.atHome key m 0 .read
           g.1.replyOut f (some { w.tok with
             kind := kDense, lanes := packTo (if z = 3 then 2 else 1) m [g.2.1], poison := w.tok.poison || g.2.2.1 }) (f.taken []) = (s2, true) → gone s2) ∧
         (info.i = .wavSt o p n z d → s.agHome c k va m .store = (s1, .ok key) →
           let g := s1.atHome key m 0 (match w.data with
             | some b => .write (lanesNat b.lanes % 2 ^ (8 * m)) b.poison
             | none => .write 0 false)
           (g.1.setProt key m (g.1.protAt (g.1.rootAt c k) va)).replyOut f none (f.taken []) = (s2, true) → gone s2))) ∧
     (e.sbr.find? (fun q => decide (q.1 = slot)) = some (slot, a, names) → (names.any fun q => s.streamOwes c k (meSite q.1) q.2) = true →
       exec .sbrRelease s = .next s) ∧
     (e.sbr.find? (fun q => decide (q.1 = slot)) = some (slot, a, names) → (names.any fun q => s.streamOwes c k (meSite q.1) q.2) = false →
       let f : Firing := { c := c, k := k, site := site, slot := slot, info := info, a := some a }
       s.replyOut f (some a) [(0, a)] = (s2, true) →
       exec .sbrRelease s = .next ((s2.sbrHold c k (16 * site + slot) names false).modElem c site k fun e =>
         { e with sbr := e.sbr.filter fun q => decide (q.1 ≠ slot) }))) ∧
  (∀ (s s1 : State) (f : Firing) (e : Elem) (w : MeW) (a : Token) (key : Nat), s.CanFire f e → f.a = some a →
     let va : DWord := e.const (w.k.toNat + 1) ++ e.const w.k.toNat
     let others := e.stallSlot.filter fun q => decide (q.1 ≠ f.slot)
     (e.stallSlot.find? (fun q => decide (q.1 = f.slot)) = none → s.owesWrite f.c f.k f.site = true → exec (.bar w) s = .next s) ∧
     (e.stallSlot.find? (fun q => decide (q.1 = f.slot)) = none → s.owesWrite f.c f.k f.site = false →
       s.agHome f.c f.k va 32 .store = (s1, .ok key) → isFar key = false →
       let n := (a.lane 0).toNat
       let r := s1.atHome key 32 0 (.update (arrival n a.poison) (arrivalWords n a.poison))
       r.2.2.1 = false →
       Fires s (.bar w) f { st := (r.1.setProt key 32 (r.1.protAt (r.1.rootAt f.c f.k) va)).modElem f.c f.site f.k fun e => { e with stallSlot := others } }) ∧
     ((e.sbr.any fun q => decide (q.1 = f.slot)) = false →
       let names := sbrNames e w.k.toNat
       Begins s (.sbr w)
         (((s.modElem f.c f.site f.k fun e => { e with sbr := e.sbr ++ [(f.slot, a, names)] }).countMe f.c f.k).sbrHold f.c f.k
           (16 * f.site + f.slot) names true)))

/-- R54, R112, R300 to R302, R327, R361: while its buffer has room the MX takes a command from the source whose turn it is among those of the highest firing priority; an mma waits
for its gang, and one whose gang has met starts at every member, their cells zeroed where acc is 0; one whose gang code is not its region's is refused (log 103), as are commands that differ or share a position, by every member; a gpos that is not the
region's position counts as the command gives it (log 133), and a context takes the slots of its commands (log 27). For an mma alone, a
K-step whose operand tiles are READY adds every term to its cell and pops the tiles, which stay in use until the command retires, and the last one completes. -/
def Obligations.MatrixProducts : Prop :=
  ∀ (s s1 : State) (h : MxCmd) (w : MxW),
    let c := s.cur.cluster
    let m := s.mxOf c
    (∀ i, m.buf.length < 16 → i < 6 → s.mxOffer c ((m.turn + i) % 6) = some (s1, h) →
      (∀ j t g, j < 6 → s.mxOffer c ((m.turn + j) % 6) = some (t, g) → s.firingPrio c g.ctx ≤ s.firingPrio c h.ctx ∧
        (j < i → s.firingPrio c g.ctx < s.firingPrio c h.ctx)) →
      exec .mxAccept s = .next (s1.modMx c fun m => { m with
        buf := m.buf ++ [h], turn := ((m.turn + i) % 6 + 1) % 6, owner := (mxTakes h.w0 h.w1).foldl (fun l a => l.set a h.ctx) m.owner })) ∧
    (∀ r, s.region? c h.ctx = some r → w.gang ≠ 0 → w.gang ≠ r.gang → s.mxHead c = some h → exec (.mma w) s = .next (s.mxRefuse c h)) ∧
    (∀ d, gangDims w.gang = some d → w.gang ≠ 0 → s.mmaParty c h.ctx w = s.gangOf c h.ctx (d.1 * d.2)) ∧
    (w.gang = 0 → (∀ q ∈ (match s.region? c h.ctx with
        | some r => s.gangOf c h.ctx (gangSizeOf r.gang)
        | none => [(c, h.ctx)]), ∀ x, s.mmaAccepted q = some x → x.2.gang = 0) → s.mmaParty c h.ctx w = [(c, h.ctx)]) ∧
    (s.mxHead c = some h → h.refused = false → s.mmaOk c w h = true → h.started = false →
      let qs := s.mmaParty c h.ctx w
      let hs := qs.filterMap fun q => (s.mmaAccepted q).map fun x => (q.1, x)
      let key (x : MxCmd) : Nat × Nat := (x.w0.toNat, x.w1.toNat - x.w1.toNat / 2 ^ 26 % 8 * 2 ^ 26)
      let agree := (∀ x ∈ hs, key x.2.1 = key h) ∧ (hs.map fun x => x.2.2.gpos).eraseDups.length = qs.length
      (hs.length < qs.length → exec (.mma w) s = .next s) ∧
      (qs.length ≤ hs.length → agree → exec (.mma w) s = .next (hs.foldl (fun s x =>
        let t := s.setHead x.1 x.2.1 { x.2.1 with refused := false, started := true }
        if w.acc = 0 then t.modMx x.1 fun m => m.zero x.2.2 (2048 * w.slots) else t) s)) ∧
      (qs.length ≤ hs.length → ¬agree → exec (.mma w) s = .next (hs.foldl (fun s x =>
        s.setHead x.1 x.2.1 { x.2.1 with refused := true, started := false }) s))) ∧
    (w.gang = 0 → s.mxHead c = some h → h.refused = false → decodeMx h.w0 h.w1 = some (.mma w) → s.mmaOk c w h = true →
      (h.started = false → s.mmaParty c h.ctx w = [(c, h.ctx)] →
        let t := s.setHead c h { h with refused := false, started := true }
        (w.acc = 0 → exec (.mma w) s = .next (t.modMx c fun m => m.zero w (2048 * w.slots))) ∧
        (w.acc ≠ 0 → exec (.mma w) s = .next t)) ∧
      (h.started = true → ∀ ta tb,
        let sc := if w.scaled then 1 else 0
        s.takeTiles c w.ringA.toNat (1 + sc + w.sd.toNat) = some ta → s.takeTiles c w.ringB.toNat (1 + sc) = some tb → w.gpos = 0 →
        let oa : MxOp := ⟨c, h.ctx, w.ringA.toNat, ta⟩
        let ob : MxOp := ⟨c, h.ctx, w.ringB.toNat, tb⟩
        let ra := scanOperand s w w.m (decide (w.sd = 1)) oa
        let rb := scanOperand ra.1 w w.n false ob
        let pop (ring : Nat) (l : List Nat) (s : State) : State := s.modCluster c fun x => l.foldl (fun x _ => x.popHead ring) x
        let t := pop w.ringB.toNat tb (pop w.ringA.toNat ta ((rb.1.modMx c (mmaTerms s w oa ob)).count c 0x020 h.ctx))
        let g : MxCmd := { h with
          pos := h.pos + 1, error := h.error || ra.2.1 || rb.2.1, poisoned := h.poisoned || ra.2.2 || rb.2.2, used := h.used ++ (ta ++ tb) }
        (h.pos + 1 < w.ksteps → exec (.mmaKstep w) s = .next ((t.modCluster c fun y => (ta ++ tb).foldl Cluster.useTile y).setHead c h g)) ∧
        (w.ksteps ≤ h.pos + 1 → exec (.mmaKstep w) s =
          .next ((t.modCluster c fun y => h.used.foldl Cluster.unuseTile y).mxDone c h
            (if g.poisoned then stPoisoned else if g.error then stError else stOk)))))

/-- R303, R304: mmz zeroes M·N cells; mload adds a READY tile's elements to its cells or replaces them and empties the tile; mdrain sends the
next token of its rows by a drain port, zeroing a drained row where acc is 0. -/
def Obligations.MatrixMoves : Prop :=
  ∀ (s s2 : State) (h : MxCmd) (w : MxW),
    let c := s.cur.cluster
    let m := s.mxOf c
    s.mxHead c = some h → h.refused = false → m.slotsOk w = true →
    exec (.mmz w) s = .next ((s.modMx c fun m => m.zero w (w.m * w.n)).mxDone c h stOk) ∧
    (let t := w.f 31 24
     let rows := w.f 7 1 + 1
     let b := tyBits w.tyCode
     s.ownsTile c h.ctx t = true → tileState ((s.cluster c).tile t) = tReady →
      let r := s.tileScan c h.ctx t (rows * w.n * b / 8)
      let put (m : Mx) (i : Nat) : Mx :=
        let cell := w.cell (w.f 14 8) 0 + i
        (if w.acc = 0 then m.zeroCell cell else m).addTerm (w.anchorAt 15) cell
          (if s.tileBad c h.ctx t (b * i / 8) then Val.nan false else tyDecode w.tyCode false (s.tileElt c h.ctx t b i))
      exec (.mload w) s = .next
        (((r.1.modMx c fun m => (List.range (rows * w.n)).foldl put m).modCluster c fun x => x.emptyTile t).mxDone c h
          (if r.2.2 then stPoisoned else if r.2.1 then stError else stOk))) ∧
    (let t := s.drainToken c h w h.pos
     s.enterEdge c (.d (w.f 31 30)) t = some s2 →
      let ovr := (List.range w.slots).any fun a => m.ovr.getLsbD (w.accsel.toNat + a)
      let g : MxCmd := { h with pos := h.pos + 1, error := h.error || ovr, poisoned := h.poisoned || t.poison }
      (w.acc ≠ 0 ∨ (h.pos + 1) % w.perRow ≠ 0 → h.pos + 1 < w.m * w.perRow → exec (.mdrain w) s = .next (s2.setHead c h g)) ∧
      (w.acc ≠ 0 → w.m * w.perRow ≤ h.pos + 1 →
        exec (.mdrain w) s = .next (s2.mxDone c h (if g.poisoned then stPoisoned else if g.error then stError else stOk))) ∧
      (w.acc = 0 → (h.pos + 1) % w.perRow = 0 → w.m * w.perRow ≤ h.pos + 1 →
        exec (.mdrain w) s = .next
          (((s2.modMx c fun m => (List.range w.n).foldl (fun m j => m.zeroCell (w.cell (h.pos / w.perRow) j)) m).modMx c fun m =>
            m.clearOvr w.accsel.toNat w.slots).mxDone c h (if g.poisoned then stPoisoned else if g.error then stError else stOk))))

/-- R305, R306: cvreset sets up the coverage state and its release gives the slots back with free contents (log 18); cvload takes entries
from ring A, or gains from ring A with keys from ring B.
R307, R362: cvprobe adds to each column's gain the terms of its rows; cvcommit raises each best to the committed similarity, rounded up.
R308: cvread of the argmax gives the best valid gain, ties broken by key and then index, and open lanes with bit 1 of lane 7 where none is valid (log 20); cvread of gains gives eight to a token, the last padded with zero lanes and marked last (log 42). Where the port
has no room the command waits. A gain that has no value is free (log 19), what is loaded from a bad word is NaN or not valid (log 43), and whose the coverage state is rests on log 27. -/
def Obligations.CoverageResults : Prop :=
  (∀ (s : State) (h : MxCmd) (w : MxW) (ta tb : Nat),
     let c := s.cur.cluster
     let k := h.ctx
     let v := s.covOf c
     s.mxHead c = some h → h.refused = false →
     ((s.mxOf c).cov = none → exec (.cvreset w) s = .next ((s.setCov c { e := w.f 31 17 + 1 }).mxDone c h stOk)) ∧
     ((s.mxOf c).cov.isSome = true →
       (let n := (s.mxOf c).covSlots
        exec (.cvresetRelease w) s = .next ((s.modMx c fun m => (List.range (2048 * n)).foldl (fun m i =>
          m.setCell (2048 * (16 - n) + i) (Config.releasedCell (32768 * s.tick + 2048 * (16 - n) + i))) { m with cov := none }).mxDone c h stOk)) ∧
       (s.ownsRing c k w.ringA.toNat = true → s.readyHead c w.ringA.toNat = some ta →
         (let n := w.f 15 6 + 1
          let first := w.f 30 16
          first + n ≤ v.e →
           let r := s.tileScan c k ta (8 * n)
           let put (v : Coverage) (i : Nat) : Coverage := { v with
             best := Map.put 0 v.best (first + i)
               (BitVec.ofNat 32 (if s.tileBad c k ta (8 * i) then 0x7FC00000 else s.tileLe c k ta (8 * i) 4)),
             weight := Map.put 0x3F80 v.weight (first + i)
               (BitVec.ofNat 16 (if s.tileBad c k ta (8 * i + 4) then 0x7FC0 else s.tileLe c k ta (8 * i + 4) 2)) }
           exec (.cvloadEnt w) s = .next
             (((r.1.setCov c ((List.range n).foldl put v)).modCluster c fun x => x.popHead w.ringA.toNat).mxDone c h
               (if r.2.2 then stPoisoned else if r.2.1 then stError else stOk))) ∧
         (s.ownsRing c k w.ringB.toNat = true → s.readyHead c w.ringB.toNat = some tb →
           let first := w.f 30 23
           let n := w.f 22 15 + 1
           first + n ≤ 256 →
           let ra := s.tileScan c k ta (16 * n)
           let rb := ra.1.tileScan c k tb (8 * (first + n))
           let put (v : Coverage) (i : Nat) : Coverage :=
             let rest := v.valid.filter fun g => decide (g ≠ first + i)
             { v with
               gains := Map.put 0 v.gains (first + i) (BitVec.ofNat 128 (s.tileLe c k ta (16 * i) 16)),
               valid := if [0, 4, 8, 12].any fun o => s.tileBad c k ta (16 * i + o) then rest else rest ++ [first + i] }
           exec (.cvloadGain w) s = .next
             (((rb.1.setCov c (s.takeKeys c k tb first n ((List.range n).foldl put { v with anchor := w.anchorAt 6 }))).modCluster c fun x =>
               x.popHead w.ringA.toNat).mxDone c h (if ra.2.2 || rb.2.2 then stPoisoned else if ra.2.1 || rb.2.1 then stError else stOk)))))) ∧
  (∀ (s : State) (h : MxCmd) (w : MxW) (t : Nat),
     let c := s.cur.cluster
     let v := s.covOf c
     let gb := w.f 7 0
     s.mxHead c = some h → h.refused = false → (s.mxOf c).cov.isSome = true → (s.mxOf c).slotsOk w = true → w.f 31 17 < v.e →
     (s.ownsRing c h.ctx w.ringB.toNat = true → s.readyHead c w.ringB.toNat = some t →
       let r := s.tileScan c h.ctx t (8 * (gb + w.n))
       let v0 : Coverage := { v with anchor := w.anchorAt 8 }
       let v1 := if w.acc = 0 then (List.range w.n).foldl (fun (v : Coverage) j => { v with gains := v.gains.del (gb + j) }) v0 else v0
       let p := (List.range w.n).foldl (fun (a : Coverage × Bool) j => ((probeColumn s c w a.1 j).1, a.2 || (probeColumn s c w a.1 j).2))
         (s.takeKeys c h.ctx t gb w.n v1, false)
       exec (.cvprobe w) s = .next ((r.1.setCov c p.1).mxDone c h (if r.2.2 then stPoisoned else if p.2 || r.2.1 then stError else stOk))) ∧
     (let go (a : Coverage × Bool) (i : Nat) : Coverage × Bool :=
        let e := w.f 31 17 + i
        let sim := s.similarity c w i gb
        let b := fmtF32.decode false (covBest a.1 e).toNat
        let r := (fmtF32.round .rup false 0 sim).1
        if e ≥ a.1.e then a
        else if sim.isNan then (a.1, true)
        else if b.isNan then ({ a.1 with best := Map.put 0 a.1.best e (BitVec.ofNat 32 r) }, true)
        else if b.below (fmtF32.decode false r) then ({ a.1 with best := Map.put 0 a.1.best e (BitVec.ofNat 32 r) }, a.2) else a
      let p := (List.range w.m).foldl go (v, false)
      exec (.cvcommit w) s = .next ((s.setCov c p.1).mxDone c h (if p.2 then stError else stOk)))) ∧
  (∀ (s s1 : State) (h : MxCmd) (w : MxW),
     let c := s.cur.cluster
     let v := s.covOf c
     let n := w.f 20 13 + 1
     s.mxHead c = some h → h.refused = false → (s.mxOf c).cov.isSome = true → w.f 28 21 + n ≤ 256 →
     (∀ g, w.f 28 21 ≤ g → g < w.f 28 21 + n → g ∈ v.valid →
       (∀ x, w.f 28 21 ≤ x → x < w.f 28 21 + n → x ∈ v.valid → x ≠ g → gainBetter v g x = true ∧ gainBetter v x g = false) →
       s.enterEdge c (.d (w.f 30 29)) { s.mxToken c h w 0 with
         lanes := [BitVec.ofNat 32 g, v.index.get 0 g, v.keys.get 0 g] ++ gainLanes v g ++ [BitVec.ofNat 32 v.ovr.toNat], last := true } = some s1 →
       exec (.cvreadArg w) s = .next (s1.mxDone c h stOk)) ∧
     ((∀ g, w.f 28 21 ≤ g → g < w.f 28 21 + n → g ∉ v.valid) →
       s.enterEdge c (.d (w.f 30 29)) { s.mxToken c h w 0 with
         lanes := (List.range 7).map (Config.openLane s.tick) ++ [BitVec.ofNat 32 (2 + v.ovr.toNat)], last := true } = some s1 →
       exec (.cvreadArg w) s = .next (s1.mxDone c h stOk)) ∧
     (let gs := (List.range (Nat.min 8 (n - 8 * h.pos))).map fun i => w.f 28 21 + 8 * h.pos + i
      s.enterEdge c (.d (w.f 30 29)) { s.mxToken c h w 0 with
       lanes := fitLanes 32 (gs.flatMap (gainLanes v)), last := decide (8 * (h.pos + 1) ≥ n) } = some s1 →
       (n ≤ 8 * (h.pos + 1) → exec (.cvreadGain w) s = .next (s1.mxDone c h stOk)) ∧
       (8 * (h.pos + 1) < n → exec (.cvreadGain w) s = .next (s1.setHead c h { h with pos := h.pos + 1 }))))

/-- R310 (Table 7.8), R160: once every member has joined, a collective whose buffers can be read and written gives each member its result and completes
its command: the sum of all; its part of the sum; all inputs in member order; block p of every input; or the records that the round's assignment gives it.
Of the first four every member's bytes stand at its own receive address and its command is done with their count. Until every member has joined, the step only
reads the tables. The sizes of the buffers rest on log 21, members on other modules on log 44, a refused or unanswered access on logs 22 and 97. -/
def Obligations.CollectiveResults : Prop :=
  ∀ (s s0 s1 s2 : State) (d : ClDesc) (x : Cmd) (sends : List (List PByte)),
    let c := s.cur.cluster
    let k := s.cur.ctx
    let b := dtdBits d.ty.toNat
    let len := d.len.toNat
    let n := sends.length
    let sum (count : Nat) := (List.range count).map fun i =>
      combineAll d.op.toNat d.ty.toNat d.rnd.toNat (decide (d.ftz = 1)) ((sends.map (eltsOf b)).map fun l => l.getD i (0, false))
    let ends (kind : Nat) (i : Instr) (out : List (List PByte)) : Prop :=
      let ms := s0.clJoined kind d
      (s0.clReady kind d = false → exec i s = .next (s0.engDone c k (engOwner x.id))) ∧
      (s0.clReady kind d = true → clReads kind d ms s0 = (s1, .ok sends) →
        clFail ((List.range ms.length).filterMap fun i => ms[i]?.map fun m => (m, ClMember.owner d m, clWrites kind m (out.getD i []))) s1 = (s2, none) →
        exec i s = .next ((clDeliver kind d ms sends out s2).engDone c k (engOwner x.id)))
    (s.issuedCmd? c k s.cur.sel = some x → x.q = 2 → x.done = false → x.stalled = none → s.running c k = true →
      s.clTables c k (engOwner x.id) d = (s0, none) →
      ends 0 (.allreduce d) ((List.range n).map fun _ => bytesOf b (sum (len * 8 / b))) ∧
      (let count := n * len * 8 / b
       ends 1 (.reduceScatter d) ((List.range n).map fun p =>
         bytesOf b (((sum count).drop (cutRange (0, count) n p).1).take ((cutRange (0, count) n p).2 - (cutRange (0, count) n p).1)))) ∧
      ends 2 (.allgather d) ((List.range n).map fun _ => sends.flatten) ∧
      ends 3 (.alltoall d) ((List.range n).map fun p => sends.flatMap fun l => (l.drop (p * len)).take len) ∧
      ends 4 (.irregularAlltoall d) ((List.range n).map fun p =>
        ((clAssign 4 d (s0.clJoined 4 d) sends).filter fun a => decide (a.dst = p)).flatMap fun a =>
          (recordsOf len (sends.getD a.src [])).getD a.pos [])) ∧
    (∀ (kind : Nat) (out : List (List PByte)), clDeliver kind d [] sends out s = s) ∧
    (∀ (kind : Nat) (out : List (List PByte)) (ms : List ClMember) (m : ClMember), kind < 4 →
      clDeliver kind d (ms ++ [m]) sends out s =
        let l := out.getD ms.length []
        let t := clDeliver kind d ms sends out s
        ((t.engPut m.1.1 m.1.2 (ClMember.owner d m) m.2.2.recv l).engDone m.1.1 m.1.2 (ClMember.owner d m)).cmdDone m.1.1 m.1.2 m.2.1.id l.length
          (if anyBad l then stPoisoned else stOk))

/-- R154, R159, R398: a node delivers a result that waits, or else fires on the streams that have arrived: EOS at every member leaves on every output; an
all-gather sends the token of the member whose turn it is to every output; an all-to-all sends block (i, j) to output (j, i); a reduction sends the combination
of the tokens of its lowest tag; an irregular node takes a round. Members that meet on a conversion whose demands agree enter their ranges, read their parts,
and write what the conversion gives each first to its staging area, then to its buffer, with the bytes counted for done; what one axis converts is stated element by element (R150). A completed conversion
sets st, gen and busy of its DTD, leaves the range table, signals done and meets the demands; a plan that is not allowed, demands of members that differ, and
DTDs of members that differ end the context. That demands differ only where they were outstanding at the fork rests on log 110, the order of the details on log
135, a conversion that moves no data on log 131, two axes on one dimension on log 130, members on other modules on log 99, what a node holds on log 45, and
ERR at a node and its unmatched tags on log 105. -/
def Obligations.NodeAndConversionSteps : Prop :=
  ∀ (s s1 s2 s3 s4 : State) (cid i n : Nat) (x : Ctx) (op : CollOp) (nd nd1 : CollNode) (told : List (Nat × Nat × Nat)) (p : Nat × Nat) (y : Cmd) (t : Token)
    (ps : List Part),
    (let c := s.cur.cluster
     let k := s.cur.ctx
     let goes (nd1 : CollNode) : Prop := exec (.collectiveNodeFire n) s = .next (s.nodeBecomes c k n nd nd1)
     (s.ctxAt c k).bind (fun x => x.nodes.find? n) = some nd → s.running c k = true →
      (s.nodeDeliver c k n nd = some s1 → exec (.collectiveNodeFire n) s = .next s1) ∧
      (s.nodeDeliver c k n nd = none →
        (nd.fire = none → exec (.collectiveNodeFire n) s = .next s) ∧
        (nd.kind ≠ 3 → nd.n ≠ 0 → (∀ m < nd.n, ∃ e, nd.head m = some e ∧ e.kind = kEos) → nd.head 0 = some t →
          goes ((List.range nd.n).foldl (fun nd m => nd.put m t) ((List.range nd.n).foldl (fun nd m => nd.pop m) nd))) ∧
        (nd.kind = 2 → nd.endAll = none → nd.head nd.turn = some t → t.kind = kEos → goes { nd with turn := (nd.turn + 1) % Nat.max 1 nd.n }) ∧
        (nd.kind = 2 → nd.turn < nd.n → nd.head nd.turn = some t → t.kind ≠ kEos →
          goes { (List.range nd.n).foldl (fun nd m => nd.put m t) (nd.pop nd.turn) with
            turn := if t.last then (nd.turn + 1) % Nat.max 1 nd.n else nd.turn }) ∧
        (nd.kind = 3 → i < nd.n * nd.n → (∀ j < i, nd.head j = none) → nd.head i = some t →
          goes ((nd.pop i).put (i % nd.n * nd.n + i / nd.n) t)) ∧
        (∀ ts : List Token, nd.kind < 2 → nd.n = ts.length → (∀ m < nd.n, nd.head m = ts[m]?) → (∀ u ∈ ts, u.kind = kDense ∧ u.tag = t.tag) → ts.head? = some t →
          (∀ m < nd.n, ∀ u ∈ nd.ins.get [] m, isData u = true → t.tag ≤ u.tag) →
          let els := ts.map fun u => splitLanes (dtdBits nd.ty) u.lanes
          let sum := (List.range (els.headD []).length).map fun j =>
            (combineAll nd.op nd.ty nd.rnd nd.ftz (els.map fun l => (l.getD j 0, false))).1
          let res (l : List Nat) : Token := { t with poison := ts.any fun u => u.poison, lanes := packLanes (dtdBits nd.ty) l }
          let part (m : Nat) : List Nat := let q := cutRange (0, sum.length) nd.n m; (sum.drop q.1).take (q.2 - q.1)
          goes ((List.range nd.n).foldl (fun nd m => nd.put m (res (if nd.kind = 0 then sum else part m))) (nd.takeTag t.tag.toNat))) ∧
        (nd.kind = 4 → nd.endAll = none → nd.round = some (nd1, told) →
          exec (.collectiveNodeFire n) s = .next ((s.nodeBecomes c k n nd nd1).tellMembers nd told)))) ∧
    (s.ctx? cid = some x → x.running = true → x.conv? i = some op → op.started = false → op.away = false → op.stalled = none → op.left = [] →
      op.places.head? = some p → s.tablesFail p.1 p.2 (convOwner p op.id) i = (s1, none) →
      let d := s1.dtdAt p.1 p.2 i
      let ends (n : Nat) : Prop := exec (.conversionRendezvous cid i) s =
        .next ((s1.setBusy p.1 p.2 i false).faultEnd cid 0x0E n (s1.stream p.1 p.2).pc (dtdAddr x.ptab i) 0)
      (planBad d.nd d.ty d.st op.target = some n → ends n) ∧
      (planBad d.nd d.ty d.st op.target = none →
        (op.rival = true → ends 3) ∧
        (op.rival = false → (∃ q ∈ op.places, sameDtd d (s1.dtdAt q.1 q.2 i) = false) → ends 4) ∧
        (op.rival = false → (∀ q ∈ op.places, sameDtd d (s1.dtdAt q.1 q.2 i) = true) →
          (s1.enterAll cid op d = none → exec (.conversionRendezvous cid i) s = .next s1) ∧
          (s1.enterAll cid op d = some s2 → s2.readParts op d (s1.meshAt p.1 p.2) = (s3, .ok ps) →
            let out := (convertAll d (s1.meshAt p.1 p.2) op.target ps).map (partBytes d)
            let place (m : Nat) : Nat × Nat := op.places.getD m p
            let own (m : Nat) : Nat := convOwner (place m) op.id
            let writes := (List.range out.length).flatMap fun m => [(m, d.stage + d.mstride * BitVec.ofNat 64 m, out.getD m []),
              (m, d.base + d.mstride * BitVec.ofNat 64 m, out.getD m [])]
            s3.convFail (writes.map fun w => (place w.1, own w.1, w.2.1, w.2.2)) = (s4, none) →
            exec (.conversionRendezvous cid i) s = .next
              ((op.places.foldl (fun s q => s.engDone q.1 q.2 (convOwner q op.id))
                (writes.foldl (fun s w => s.engPut (place w.1).1 (place w.1).2 (own w.1) w.2.1 w.2.2) s4)).modConv cid i fun op => { op with
                  started := true, poisoned := out.any anyBad, bytes := (List.range out.length).map fun m => (m, (out.getD m []).length) }))))) ∧
    (∀ (d : Dtd) (ns : List Nat) (st a u m : Nat) (z : List Nat) (v : PEl),
      let f := stOf st a
      let grp := axisGroup ns m a
      let shape := localShape d ns (setSt st a u) m
      let part := (convertAxis d ns st a u ps).getD m default
      let ds := ([f, u].filter fun c => decide (c / 4 = 1)).map fun c => c % 4
      m < ps.length → z ∈ pointsOf shape →
      part.shape = shape ∧
      (f / 4 = 2 → ∀ w : Nat → PEl, (∀ g ∈ grp, (ps.getD g default).at_ z = some (w g)) →
        part.at_ z = some (combineAll (f % 4) d.ty d.rnd d.ftz (grp.map w))) ∧
      (f / 4 = 1 → u ≠ 8 → ∀ g ∈ grp, (ps.getD g default).at_ z = some v →
        (∀ h ∈ grp, h ≠ g → ∀ q ∈ sameCut ns st a ds h, (ps.getD q default).at_ z = none) → part.at_ z = some v) ∧
      (f / 4 = 1 → u = 8 → (ps.getD m default).at_ z = some v → part.at_ z = some v) ∧
      (f = 0 → (ps.getD m default).at_ z = some v →
        part.at_ z = some (if u = 8 ∧ coordOf ns m a ≠ 0 then (0, false) else v))) ∧
    (s.ctx? cid = some x → x.running = true → x.conv? i = none →
      (∃ rest, (x.places.filterMap fun p => ((s.stream p.1 p.2).issued.find? fun y =>
        decide (y.q = 7) && !y.done && decide (y.a.bits 9 0 = i)).map fun y => (p, y)) = (p, y) :: rest) →
      y.stalled = none → s.tablesFail p.1 p.2 (engOwner y.id) i = (s1, none) →
      let t := s1.engDone p.1 p.2 (engOwner y.id)
      ((t.dtdAt p.1 p.2 i).st = y.c.bits 15 0 → exec (.conversionRendezvous cid i) s = .next (t.joinAt p i (y.c.bits 15 0) 0 stOk)) ∧
      ((t.dtdAt p.1 p.2 i).st ≠ y.c.bits 15 0 → exec (.conversionRendezvous cid i) s = .next (t.forkConv p.1 p.2 i (y.c.bits 15 0)))) ∧
    (s.ctx? cid = some x → x.conv? i = some op → op.places.head? = some p → op.started = true → op.stalled = none →
      let d := s.dtdAt p.1 p.2 i
      let own := convOwner p op.id
      let w0 : DWord := BitVec.ofNat 64 (op.target % 65536 * 2 ^ 48 + (d.gen + 1) % 2 ^ 14 * 2 ^ 34 + d.w0.bits 32 0)
      s.engReady p.1 p.2 own (dtdAddr x.ptab i) (pbytes 8 w0.toNat false) = (s1, none) →
      let t := ((s1.engPut p.1 p.2 own (dtdAddr x.ptab i) (pbytes 8 w0.toNat false)).engDone p.1 p.2 own).modCtx cid fun x =>
        { x.releaseConv op with colls := x.colls.filter fun o => decide (o.dtd ≠ i) }
      let status := if op.poisoned then stPoisoned else stOk
      exec (.conversionComplete cid i) s = .next (((List.range op.places.length).filter fun m => !(op.left.contains m)).foldl (fun s m =>
        let q := op.places.getD m p
        (s.signalVa q.1 q.2 d.done (op.bytes.get 0 m) status).joinAt q i op.target (op.bytes.get 0 m) status) t))

/-- R311, R312, R337, R404: the commands of the LK and SC engines, on a port whose turn it is: SEND opens a transfer and then sends 232 bytes a flit; KEYLD loads
a slot that its direction does not use; KEYSW sends a MARK; STAT writes 32 bytes; a scrub step corrects or marks a block and writes its bit. A SEND to a host is of mode 0 and one to a module of mode 1 (log 28); an unenrolled
handle is refused (log 38); the node of a MARK is open (log 32).
R312 to R314, R386: a scrub step. The first of 64 blocks writes the whole doubleword of the bitmap (log 26). -/
def Obligations.LinkAndScrubCommands : Prop :=
  (∀ (s s1 s2 : State) (d : LkDesc) (x : Cmd) (e : KeyEntry) (bs : List PByte),
     let c := s.cur.cluster
     let k := s.cur.ctx
     let p := d.port.toNat
     let me := (c, k, x.id)
     s.linkCmd p = some x →
     ((s.port p).txEnds = false → ((s.port p).outq.any fun e => e.2.2.isSome) = false → s.earlierKey c k x.id p = false → s.earlierSend c k x.id p = false →
       s.sendHolder p = none ∨ s.sendHolder p = some me →
       let t := s.modPort p fun y => { y with sending := some me }
       let sent (u : State) (st : Nat) : State := u.modIssued c k x.id fun y => { y with pos := y.pos + 1, status := Nat.max y.status st }
       (x.pos = 0 → exec (.send d) s = .next (sent (t.sendLater p 0 d.node.toNat 0 (BitVec.ofNat 16 x.id)
         [d.dst, if d.node.toNat < 2048 then 1 else 0, match s.ctxAt c k with
           | some y => y.ptab
           | none => 0, d.nflit.zeroExtend 64] (some me)) 0)) ∧
       (1 ≤ x.pos → x.pos ≤ d.nflit.toNat + 1 → t.engBytes c k (engOwner x.id) (d.src + BitVec.ofNat 64 (232 * (x.pos - 1))) 232 = (s1, .ok bs) →
         exec (.send d) s = .next (sent ((s1.engDone c k (engOwner x.id)).sendLater p 1 d.node.toNat (x.pos - 1) (BitVec.ofNat 16 x.id) (payOf bs) (some me))
           (if anyBad bs then stPoisoned else 0)))) ∧
     (s.keyTurn x p = true →
       (s.enrolledKey d.handle.toNat (s.rootAt c k) 0 = some e →
         ((s.port p).inUse (decide (d.dir = 1)) (decide (d.kslot = 1)) = false →
           exec (.keyld d) s = .next ((s.modPort p fun y => y.setSlot (decide (d.dir = 1)) (decide (d.kslot = 1))
             { loaded := true, handle := d.handle, salt := d.salt, ctr := 0, key := e.key }).cmdDone c k x.id 1 stOk)) ∧
         ((s.port p).inUse (decide (d.dir = 1)) (decide (d.kslot = 1)) = true → exec (.keyld d) s = .next (s.refuse c k x 3))) ∧
       (s.enrolledKey d.handle.toNat (s.rootAt c k) 0 = none → exec (.keyld d) s = .next (s.refuse c k x 3)) ∧
       (x.pos = 0 → ((s.port p).outq.any fun e => decide (e.1.type = 4)) = false →
         ((s.port p).otherTx.loaded = true → (s.port p).otherTx.ctr.toNat + 1 < (s.port p).plim.toNat →
           exec (.keysw d) s = .next ((s.sendLater p 4 (Config.portNode p).toNat 0 0 [0] (some me)).modIssued c k x.id fun y => { y with pos := 1 })) ∧
         ((s.port p).otherTx.loaded = false → exec (.keysw d) s = .next (s.refuse c k x 3)))) ∧
     (let report := (s.linkStat p).flatMap fun w => pbytes 8 w.toNat false
      s.engReady c k (engOwner x.id) d.src report = (s2, none) → exec (.stat d) s = .next
         (((s2.engPut c k (engOwner x.id) d.src report).engDone c k (engOwner x.id)).cmdDone c k x.id 1 stOk))) ∧
  (∀ (s s1 s2 : State) (d : ScDesc) (x : Cmd) (key bkey : Nat),
     let c := s.cur.cluster
     let k := s.cur.ctx
     let j := x.pos
     s.issuedCmd? c k s.cur.sel = some x → x.q = 4 → x.done = false → x.stalled = none → s.running c k = true →
     s.engHome c k 0 (d.base + BitVec.ofNat 64 (64 * j)) 64 .load = (s1, .ok key) →
     s1.engHome c k 0 (d.bitmap + BitVec.ofNat 64 (8 * (j / 64))) 8 .store = (s2, .ok bkey) → isFar bkey = false →
     let m := s2.mark key
     let old := if j % 64 = 0 then 0 else s2.rd bkey 8
     let bit := if m = 0 then 0 else 1
     let status := if 2 ≤ m ∧ m ≠ 4 then stPoisoned else x.status
     let bm := d.bitmap + BitVec.ofNat 64 (8 * (j / 64))
     let u := (s2.atHome key 64 0 .scrub).1
     let word := old - (if old.testBit (j % 64) then 2 ^ (j % 64) else 0) + bit * 2 ^ (j % 64)
     let t := ((u.wrAt (s.rootAt c k) bm bkey 8 word).engDone c k (engOwner x.id)).modIssued c k x.id fun x => { x with pos := j + 1, status := status }
     (j + 1 < d.nblk.toNat → exec (.scrub d) s = .next t) ∧
     (d.nblk.toNat ≤ j + 1 → exec (.scrub d) s = .next (t.cmdDone c k x.id d.nblk.toNat status)))

/-- R336, R337, R343, R401, R404: a port below its ceiling sends a flit to be sent again first, with its counter, a retraining one too; else, when it is
ready, the first waiting flit that may be sent, under its slot's next counter, kept in the replay buffer unless it is an ACK or NAK; a MARK moves it to the other slot.
R336, R339, R401, R402: 4,096 port cycles without an ACK send the oldest flit again; an ACK frees the flit of its counter and those before it; a NAK has the named flit and those after it sent again; a flit that fails
authentication is answered by one NAK with the expected counter, the sixteenth in succession retraining the port; a gateway batch whose turn it is is applied whole,
one of flits with ord set after the earlier flits of its source. That an ACK frees the flits before it rests on log 31, a batch without room on log 80, what a sender
sent earlier on log 101. -/
def Obligations.FlitTransmission : Prop :=
  (∀ (s : State) (port : BitVec 6) (f : Flit) (h : FlitHdr) (pay : List DWord) (cmd : Option (Nat × Nat × Nat))
     (rest : List (FlitHdr × List DWord × Option (Nat × Nat × Nat))) (r : List Flit),
     let p := port.toNat
     let x := s.port p
     let recent := s.recentOf p
     s.portLive p = true → recent.length < s.ceiling p →
     (0 < x.resend → x.replay[x.replay.length - x.resend]? = some f →
       exec (.flitTransmit port) s = .next (s.modPort p fun x =>
         { x with wire := x.wire ++ [f], resend := x.resend - 1, injected := recent ++ [s.portCycles p] })) ∧
     (s.portReady p = true → x.resend = 0 → s.pickFlit p x.outq = some ((h, pay, cmd), rest) →
       let f : Flit := { hdr := h, pay := pay, slotB := x.txOnB, ctr := x.tx.ctr, key := x.tx.key, salt := x.tx.salt, cmd := cmd }
       exec (.flitTransmit port) s = .next (s.modPort p fun x =>
         let y := x.setTx { (s.port p).tx with ctr := (s.port p).tx.ctr + 1 }
         { y with
           outq := rest, wire := y.wire ++ [f],
           replay := if h.type = 6 ∨ h.type = 7 then y.replay else y.replay ++ [f],
           due := if h.type ≠ 6 ∧ h.type ≠ 7 ∧ (s.port p).replay = [] then s.portCycles p + 4096 else y.due,
           txOnB := if h.type = 4 then !y.txOnB else y.txOnB, injected := recent ++ [s.portCycles p] })) ∧
     (x.resend = 0 → x.due ≤ s.portCycles p → x.replay = f :: r →
       exec (.resendTimeout port) s = .next (s.modPort p fun x =>
         { x with wire := x.wire ++ [f], due := s.portCycles p + 4096, injected := recent ++ [s.portCycles p] }))) ∧
  (∀ (s : State) (port : BitVec 6) (ctr ptab : DWord) (seq : Word) (ups : List StampUpdate) (gone rest : List Flit) (cid : Nat) (cx : Ctx),
     let p := port.toNat
     let src := s.cur.sel % 4096
     let got := s.modPort p fun x => { x.setRx { x.rx with ctr := x.rx.ctr + 1 } with fails := 0 }
     let us := ups.map fun u => (⟨u.loc, u.time, u.count⟩ : Upd)
     (s.accepts p src = true →
       (ackedPart (got.port p).replay ctr = some (gone, rest) →
         exec (.flitAck port ctr) s = .next (gone.foldl (fun s f => s.flitAcked p f)
           (got.modPort p fun x => { x with replay := rest, resend := Nat.min x.resend rest.length, due := s.portCycles p + 4096 }))) ∧
       (ackedPart (got.port p).replay ctr = none → exec (.flitAck port ctr) s = .next got) ∧
       exec (.flitNak port ctr) s = .next (got.modPort p fun x =>
         { x with
           resend := if fromCtr x.replay ctr = [] then x.resend else (fromCtr x.replay ctr).length,
           naks := if fromCtr x.replay ctr = [] then x.naks else x.naks + 1 }) ∧
       (let t := (s.sendLater p 7 src 0 0 [(s.port p).rx.ctr] none).modPort p fun x => { x with fails := x.fails + 1 }
        ((s.port p).fails + 1 < 16 → exec (.flitAuthFailure port) s = .next t) ∧
        (16 ≤ (s.port p).fails + 1 → exec (.flitAuthFailure port) s = .next (t.retrain p)))) ∧
     (s.cur.sel < 65536 → s.ptabCtx ptab = some (cid, cx) → cx.gseq.get 0 s.cur.sel = seq.toNat → s.muRoom cid us false = true →
       exec (.gatewayMessage ptab seq ups) s = .next ((s.muLocal cid us).modCtx cid fun y =>
         { y with gseq := y.gseq.set s.cur.sel ((seq.toNat + 1) % 2 ^ 32) })) ∧
     (let q := s.cur.sel / 65536 - 1
      let n := (ups.length + 8) / 9
      65536 ≤ s.cur.sel → (s.cur.slot = 1 → s.earlierThan (BitVec.ofNat 12 src) s.tick s.tick = false) → s.accepts q src = true → (s.port q).rx.ctr.toNat + n ≤ (s.port q).plim.toNat →
       s.ptabCtx ptab = some (cid, cx) → cx.gseq.get 0 s.cur.sel = seq.toNat → s.muRoom cid us false = true →
       exec (.gatewayMessage ptab seq ups) s = .next ((List.range n).foldl
         (fun s _ => (s.modPort q fun x => { x.setRx { x.rx with ctr := x.rx.ctr + 1 } with fails := 0 }).sendLater q 6 src 0 0 [(s.port q).rx.ctr] none)
         ((s.muLocal cid us).modCtx cid fun y => { y with gseq := y.gseq.set s.cur.sel ((seq.toNat + 1) % 2 ^ 32) }))))

/-- R334 to R337, R392, R394, R401: an accepted flit advances the receive counter and is acknowledged with it. OPEN begins a transfer; DATA is held at its index and
what is due is performed; a READ is held, and answered with one RDATA once its memory is ready, with ord set after every earlier flit of its source. A mode 0 flit stores its doublewords, a mode 1 flit
its bytes through the tables that it names, and one that cannot is recorded and answered with the flits performed and FAULTED. RDATA brings the bytes of an access
of this module's own, refuses one, and sets the count of a faulted SEND; MARK switches the receive slot. The order of what has come rests on log 101, an access other than
a plain store and a refusal on log 97, flits after a failure on log 68, the pos of the record on log 112, the taken back count of a SEND on log 116. -/
def Obligations.FlitReception : Prop :=
  (∀ (s : State) (port : BitVec 6) (h : FlitHdr) (addr mode ptab n len rxfer : DWord) (pay : List DWord) (c k : Nat) (x : Cmd) (q : FarRead),
    let p := port.toNat
    let ctr := (s.port p).rx.ctr
    let src := h.src.toNat
    let got := s.modPort p fun x => { x.setRx { x.rx with ctr := x.rx.ctr + 1 } with fails := 0 }
    let ack (u : State) : State := u.sendLater p 6 src 0 0 [ctr] none
    let w := pay.headD 0
    s.accepts p src = true →
    exec (.flitOpen port h addr mode ptab n) s = .next (ack ((got.modPort p fun x => { x with
      xfers := (x.xfers.filter fun y => !(decide (y.src = h.src) && decide (y.xfer = h.xfer))) ++
        [{ src := h.src, xfer := h.xfer, addr := addr, mode := mode, ptab := ptab, n := n.toNat % 256 + 1, at_ := s.tick }] }).settleXfers h.src)) ∧
    exec (.flitData port h pay) s = .next (ack ((got.modPort p fun x => { x with
      xfers := x.xfers.map fun y => if y.src = h.src ∧ y.xfer = h.xfer then
        { y with held := y.held.set h.index.toNat ⟨decide (h.ord = 1), s.tick, pay.take (Nat.min 29 (h.nq.toNat + 1))⟩ } else y }).settleXfers h.src)) ∧
    exec (.flitRead port h addr len rxfer) s = .next (ack ((got.modPort p fun x => { x with
      reads := x.reads ++ [{ src := h.src, addr := addr, len := len, rxfer := rxfer.truncate 16, at_ := s.tick, ord := decide (h.ord = 1) }] }).settleXfers h.src)) ∧
    exec (.flitMark port h) s = .next (ack (got.modPort p fun x => { x with rxOnB := !x.rxOnB })) ∧
    let mine := (ack got).farReads.find? fun r => decide (r.port = p) && decide (r.xfer = h.xfer) && r.answer.isNone
    let data := pay.take (Nat.min 29 (h.nq.toNat + 1))
    let answered (u : State) (a : FarAns) : State := { u with farReads := u.farReads.map fun v => if v = q then { v with answer := some a } else v }
    (mine = some q → q.write = false → data ≠ [] → exec (.flitRdata port h pay) s = .next
      (answered ((ack got).wr q.key q.n (data.foldr (fun w n => w.toNat + 2 ^ 64 * n) 0 % 2 ^ (8 * q.n))) .good)) ∧
    (mine = some q → q.write = true ∨ data = [] → exec (.flitRdata port h pay) s = .next
      (answered (ack got) (if Config.refusedXlate h then .bad 3 4 else .bad 8 1))) ∧
    (mine = none → (ack got).sendOf p h.xfer = none → exec (.flitRdata port h pay) s = .next (ack got)) ∧
    (mine = none → (ack got).sendOf p h.xfer = some (c, k, x) →
      (w.bits 55 48 = stFaulted → exec (.flitRdata port h pay) s = .next
        ((if x.inc = w.bits 47 0 then ack got else (ack got).signalVa c k x.obj ((w.bits 47 0 + 2 ^ 48 - x.inc) % 2 ^ 48) stOk).modIssued c k x.id fun y =>
          { y with status := stFaulted, inc := w.bits 47 0 })) ∧
      (w.bits 55 48 ≠ stFaulted → exec (.flitRdata port h pay) s = .next (ack got)))) ∧
  (∀ (s s1 : State) (src : BitVec 12) (p : Nat) (r : HeldRead) (l l2 : List HeldRead) (d : Option (List DWord)) (t : Transfer) (f : HeldFlit),
    let waits (r : HeldRead) : Prop := r.src = src → (r.ord = true ∧ s.earlierThan src r.at_ r.at_ = true) ∨ s.nodeReady r.addr.toNat r.len.toNat = false
    let idle (q : Nat) : Prop := ∀ y, s.firstXfer q src = some y → y.held.find? y.got = none
    let asks (q : Nat) (y : Transfer) (g : HeldFlit) : Prop := s.firstXfer q src = some y ∧ y.held.find? y.got = some g
    (s.performNext src = none → s.settleXfers src = s) ∧
    (∀ m, s.heldFlits src = m + 1 → s.performNext src = some s1 → s.settleXfers src = State.drainXfers m src s1) ∧
    (∀ m, s.performNext src = some s1 → State.drainXfers (m + 1) src s = State.drainXfers m src s1) ∧
    (p < 48 → (∀ q < p, idle q) → asks p t f → f.ord = false ∨ s.earlierXfer p t f.at_ = false → s.performFlit p t f.pay = some s1 →
      s.performNext src = some s1) ∧
    (p < 48 → (∀ q < 48, idle q) → (∀ q < p, ∀ e ∈ (s.port q).reads, waits e) → (s.port p).reads = l ++ r :: l2 → (∀ e ∈ l, waits e) →
      r.src = src → r.ord = false ∨ s.earlierThan src r.at_ r.at_ = false → s.nodeReady r.addr.toNat r.len.toNat = true →
      (s.modPort p fun x => { x with reads := x.reads.filter fun e => decide (e ≠ r) }).nodeRead r.addr.toNat r.len.toNat = (s1, d) →
      s.performNext src = some (s1.sendLater p 3 src.toNat 0 r.rxfer (d.getD []) none))) ∧
  (∀ (s s1 s2 : State) (p cid : Nat) (t : Transfer) (pay : List DWord) (x : Ctx) (code d : Nat) (at_ : DWord) (e : Nat),
    let after (u : State) (bad : Bool) : State := (u.modPort p fun x => { x with xfers := x.xfers.map fun y => if y.src = t.src ∧ y.xfer = t.xfer then
      { y with got := y.got + 1, failed := y.failed || bad, held := y.held.del t.got } else y }).modPort p fun x =>
        { x with xfers := x.xfers.filter fun y => decide (y.got < y.n) }
    let told (u : State) : State := u.sendLater p 3 t.src.toNat 0 t.xfer [BitVec.ofNat 64 (stFaulted * 2 ^ 48 + t.got % 2 ^ 48)] none
    let va := t.addr + BitVec.ofNat 64 (232 * t.got)
    (t.failed = true → s.performFlit p t pay = some (after s false)) ∧
    (t.failed = false → t.mode = 0 → t.n ≠ 1 →
      (s.nodeReady va.toNat (8 * pay.length) = false → s.performFlit p t pay = none) ∧
      (s.nodeReady va.toNat (8 * pay.length) = true → s.nodeStore va.toNat pay = (s1, true) → s.performFlit p t pay = some (after s1 false)) ∧
      (s.nodeReady va.toNat (8 * pay.length) = true → s.nodeStore va.toNat pay = (s1, false) →
        s.performFlit p t pay = some (after (s1.sendLater p 3 t.src.toNat 0 t.xfer [] none) true))) ∧
    (t.failed = false → t.mode = 1 → s.ptabCtx t.ptab = none → s.performFlit p t pay = some (after (told s) true)) ∧
    (t.failed = false → t.mode = 1 → s.ptabCtx t.ptab = some (cid, x) →
      let bs := pay.flatMap fun w => pbytes 8 w.toNat false
      let info : FaultInfo :=
        { kind := 3, code := code, detail := d, acc := 1, cid := cid, va := at_, root := x.root, pos := (at_ - t.addr).toNat,
          cmd := BitVec.ofNat 64 (t.src.toNat * 2 ^ 48 + t.xfer.toNat) }
      (s.virtualStore x va bs = (s1, none) → s.performFlit p t pay = some (after s1 false)) ∧
      (s.virtualStore x va bs = (s1, some (0, d, at_)) → s.performFlit p t pay = none) ∧
      (code ≠ 0 → s.virtualStore x va bs = (s1, some (code, d, at_)) →
        s1.postFault 0 info {} = (s2, some e) →
        s.performFlit p t pay = some (after (told s2) true))))

/-- R125: an invalidation step acts while go reads 1: the caches of the die lose exactly the leaves that it names, and XINV_DONE
then clears go, once every access that was translated through one has been performed: none is buffered in a block, and none has left for another node without its answer. Kind 3 removes nothing (log 100, the model's choice).
R119 to R121, R124, R385: a walk of a canonical address ends as State.walk says; an activation alert with 8 refreshes postponed counts event 0x105. -/
def Obligations.TranslationAndMemoryEvents : Prop :=
  (∀ s : State,
     let d := dieOf s.cur.cluster
     let x := s.die d
     let swept : State := { s with clusters := s.clusters.map fun e => if dieOf e.1 = d then
       (e.1, { e.2 with
         seqTlb := e.2.seqTlb.filter fun t => !(x.invalidates t), agTlb := e.2.agTlb.filter fun t => !(x.invalidates t) }) else e }
     (x.xinv.getLsbD 63 = true →
       (x.xinv.bits 62 61 = 0 → exec .xinvPage s = .next swept) ∧
       (x.xinv.bits 62 61 = 1 → exec .xinvRoot s = .next swept) ∧
       (x.xinv.bits 62 61 = 2 → exec .xinvDie s = .next swept) ∧
       (s.quiet d = true → exec .xinvDone s = .next (swept.modDie d fun x => { x with xinv := x.xinv &&& ~~~(1#64 <<< 63) })) ∧
       (s.quiet d = false → exec .xinvDone s = .next s) ∧
       (s.quiet d = true ↔
         (∀ e ∈ s.clusters, dieOf e.1 = d → ∀ q ∈ e.2.streams, ∀ f ∈ q.2.effs, x.mayHold (s.rootAt e.1 q.1) f.2 = false) ∧
         (∀ r ∈ s.farReads, r.answer ≠ none) ∧ ∀ e ∈ s.ports, e.2.owesFar = false)) ∧
     (x.xinv.getLsbD 63 = false →
       exec .xinvPage s = .next s ∧ exec .xinvRoot s = .next s ∧ exec .xinvDie s = .next s ∧ exec .xinvDone s = .next s)) ∧
  (∀ (s : State) (root va : DWord) (ag : Bool) (acc : Access) (stack bank n : Nat),
     (canonical va = true → exec (.walk root va ag acc) s = .next (s.walk s.cur.cluster ag root va acc).1) ∧
     (n < 8 → exec (.activationAlert stack bank n) s = .next (s.modDie (stack / 2) fun x =>
       { x with owed := Map.put 0 x.owed (stack * 65536 + bank) n })) ∧
     (8 ≤ n → exec (.activationAlert stack bank n) s = .next ((s.modDie (stack / 2) fun x =>
       { x with owed := x.owed.del (stack * 65536 + bank) }).countDie (stack / 2) 0x105)))

/-- R343: fencing sets or clears a CFENCE bit, a fenced cluster's contexts being evicted and its ready bit given up when it holds no region; microcode and firmware run
once their image verifies, the go bit of CMCODE reading 1 until then.
R343, R345 to R347, R391, R7, Tables 14.3, 14.7, 14.9 and 14.11 to 14.13: port training and enabling, keys, attestation, power, fault service and register writes. A request of the
key store or for a report reads go, and KIMPST busy, until it is performed. An import places the key in the lowest free entry under the next generation, a removal frees the entry of the handle
and advances its generation, and KIMPST answers both; a report is its challenge, count and digests with a signature (its count takes it in, log 29). A register write puts the writable fields of that register and changes no other
register; one of a read-only register or of none changes nothing. The published standards are functions of the configuration (log 6), the digests of boot too (log 81). -/
def Obligations.ServiceActions : Prop :=
  (∀ (s : State) (c : BitVec 6) (v : DWord) (h : BitVec 256),
     let d := dieOf s.cur.cluster
     let cl := 48 * d + c.toNat
     let set (b : Bool) : State := s.modDie d fun x => { x with cfence := setBit x.cfence c.toNat b }
     (c.toNat < 48 →
       exec (.unfenceCluster c) s = .next (set false) ∧
       ((s.die d).cfence.getLsbD c.toNat = false → exec (.fenceCluster c) s = .next (((set true).evictFrom cl).settleFence cl)) ∧
       ((s.die d).cfence.getLsbD c.toNat = true → exec (.fenceCluster c) s = .next (set true))) ∧
     (let m := (s.die d).cmcode
      let w := 48 * d + m.bits 9 4
      let t := s.modDie d fun x => { x with cmcode := m &&& ~~~1#64 }
      (m.getLsbD 0 = true →
        (m.bits 9 4 < 48 → s.fenced w = true → Config.signedImage s.mem (hbm (m.bits 63 16 * 2 ^ 16)) = some h →
          exec (.replaceClusterMicrocode v) s = .next (t.modCluster w fun x => { x with microcode := some h })) ∧
        (48 ≤ m.bits 9 4 ∨ s.fenced w = false ∨ Config.signedImage s.mem (hbm (m.bits 63 16 * 2 ^ 16)) = none →
          exec (.replaceClusterMicrocode v) s = .next t)) ∧
      (m.getLsbD 0 = false →
        exec (.replaceClusterMicrocode v) s = .next (s.modDie d fun x => { x with cmcode := v &&& 0xFFFFFFFFFFFF03F1#64 }))) ∧
     (let a := v.bits 63 16 * 2 ^ 16
      let b (o : Nat) : DWord := (s.iod 0).boundary.get (0 : DWord) o
      v.getLsbD 0 = true → (b 0x468).bits 63 16 * 2 ^ 16 ≤ a → a < (b 0x470).bits 63 16 * 2 ^ 16 →
       Config.signedImage s.mem (memKey 1 0 a) = some h →
       exec (.updateFirmware v) s = .next
         { s.modIod 0 (fun x => { x with fwstage := (v &&& 0xFFFFFFFFFFFF0000#64) ||| 1#64 }) with stagedFw := some h }) ∧
     (s.stagedFw = some h → exec .firmwareSwitch s = .next
       { s.modIod 0 (fun x => { x with fwstage := x.fwstage &&& ~~~1#64 }) with firmware := some h, stagedFw := none })) ∧
  (∀ (s : State) (port : BitVec 6) (a v : DWord) (cap : BitVec 13) (seq : Word) (w : BitVec 4) (off : BitVec 16) (r : FaultRec),
     let p := port.toNat
     let d := dieOf s.cur.cluster
     let at_ := (s.iod 0).kimp.bits 63 6 * 64
     let answers (u : State) (st : Nat) (handle : Option Nat) : State := u.modIod 0 fun x => { x with
       kimp := x.kimp &&& ~~~1#64, kimpst := BitVec.ofNat 64 (st * 2 ^ 56 + (handle.getD (x.kimpst.bits 31 0)) % 2 ^ 32) }
     let puts (s : State) (w o : Nat) (v r : DWord) : Prop := (s.windowWrite w o v).windowRead w o = r ∧
       ∀ x y, (x, y) ≠ (w, o) → (s.windowWrite w o v).windowRead x y = s.windowRead x y
     let asked := s.modIod 0 fun x => { x with
       kimp := (a ||| 1#64) &&& 0xFFFFFFFFFFFFFFC1#64, kimpst := mixField x.kimpst (1#64 <<< 56) 63 56 }
     (p < 48 →
       exec (.retrainPort port) s = .next
         ((s.modPort p fun x => { x with pctl := x.pctl ||| 2#2, fails := 0 }).setPortBit p false) ∧
       exec (.portEnable port true) s = .next (s.modPort p fun x => { x with pctl := x.pctl ||| 1#2 }) ∧
       exec (.portEnable port false) s = .next (s.modPort p fun x => { x with pctl := x.pctl &&& 2#2 })) ∧
     ((s.iod 0).kimp.getLsbD 0 = false →
       exec (.keyImport a) s = .next asked ∧ exec (.keyRemove a) s = .next asked) ∧
     ((s.iod 0).kimp.getLsbD 0 = true → at_ + 1152 ≤ 2 ^ 40 →
       (s.recordOp at_ ≠ 1 → exec (.keyRemove a) s = .next s) ∧ (s.recordOp at_ = 1 → exec (.keyImport a) s = .next s) ∧
       (2 ≤ s.recordOp at_ → exec (.keyImport a) s = .next (answers s 4 none)) ∧
       (s.recordOp at_ = 0 →
         let key := Config.keyUnwrap (Config.mlkemDecap (bytesAt s.mem (hbm at_ + 0x10) 1088)) (bytesAt s.mem (hbm at_ + 0x450) 40)
         let bad := s.rd (hbm at_ + 6) 1 > 1 ∨ s.rd (hbm at_) 6 ≠ 0 ∨ s.rd (hbm at_ + 0x478) 8 ≠ 0
         (bad → exec (.keyImport a) s = .next (answers s 4 none)) ∧
         (¬bad → key = none → exec (.keyImport a) s = .next (answers s 2 none)) ∧
         (¬bad → ∀ v, key = some v →
           ((∀ i < 4096, (s.key i).valid = true) → exec (.keyImport a) s = .next (answers s 3 none)) ∧
           ∀ i < 4096, (s.key i).valid = false → (∀ j < i, (s.key j).valid = true) →
             let e : KeyEntry := { valid := true, typ := s.rd (hbm at_ + 6) 1, root := s.rd64 (hbm at_ + 8), gen := (s.key i).gen + 1, key := v }
             exec (.keyImport a) s = .next (answers { s with keys := s.keys.set i e } 0 (some (e.gen.toNat * 2 ^ 20 + i))))) ∧
       (s.recordOp at_ = 1 →
         let h := s.rd (hbm at_ + 0x450) 4
         let e := s.key (h % 4096)
         let bad := s.rd (hbm at_ + 6) 1 > 1 ∨ s.rd (hbm at_) 6 ≠ 0 ∨ s.rd (hbm at_ + 8) 8 ≠ 0 ∨ s.zeroBytes (hbm at_ + 0x10) 1088 = false ∨
           s.zeroBytes (hbm at_ + 0x454) 36 = false ∨ s.rd (hbm at_ + 0x478) 8 ≠ 0
         let names := e.valid = true ∧ h / 4096 % 256 = 0 ∧ e.gen.toNat = h / 2 ^ 20 % 4096
         (bad → exec (.keyRemove a) s = .next (answers s 4 none)) ∧
         (¬bad → ¬names → exec (.keyRemove a) s = .next (answers s 5 none)) ∧
         (¬bad → names → exec (.keyRemove a) s = .next
           (answers { s with keys := s.keys.set (h % 4096) { valid := false, gen := e.gen + 1 } } 0 none)))) ∧
     ((s.iod 0).attgo.getLsbD 0 = false →
       exec (.attestationReport a) s = .next (s.modIod 0 fun x => { x with attgo := a &&& 0xFFFFFFFFFFFFE001#64 })) ∧
     ((s.iod 0).attgo.getLsbD 0 = true →
       let t := s.modIod 0 fun x => { x with attgo := x.attgo &&& ~~~1#64 }
       let dest := (s.iod 0).attgo.bits 63 13 * 8192
       let body := s.reportBody
       let part (o n : Nat) (v : Nat) : Prop := (body.drop o).take n = leBytes n v
       (2 ^ 40 < dest + 8192 → exec (.attestationReport a) s = .next t) ∧
       (dest + 8192 ≤ 2 ^ 40 → ∃ m, exec (.attestationReport a) s = .next { t with mem := m, reports := s.reports + 1 } ∧
         (∀ i b, (body ++ List.ofFn (Config.mldsaSign (Config.sha3 body)))[i]? = some b → readByte m (hbm dest + i) = b) ∧
         ∀ j, j < hbm dest ∨ hbm dest + 0xA68 + 2420 ≤ j → readByte m j = readByte s.mem j) ∧
       body.length = 0xA68 ∧ (∀ i < 4, part (8 * i) 8 ((s.iod 0).attch.get (0 : DWord) i).toNat) ∧
       part 0x20 8 (Config.moduleId.toNat * 2 ^ 52 + (s.reports + 1).toNat) ∧ part 0x28 32 Config.policyDigest.toNat ∧
       part 0x48 32 (s.firmware.getD Config.bootFirmwareDigest).toNat ∧ part 0x68 32 (s.stagedFw.getD 0).toNat ∧
       (body.drop 0xA8).take 1312 = List.ofFn Config.identityPub ∧ body.drop 0x5C8 = List.ofFn Config.importPub) ∧
     exec (.powerCap cap) s = .next ((s.modIod 0 fun x => { x with mcap := cap }).modIod 1 fun x => { x with mcap := cap }) ∧
     exec (.registerWrite w off v) s = .next ((s.windowWrite w.toNat off.toNat v).settleAll) ∧
     (w.toNat < 8 → ∀ q ∈ ([(0x400, v), (0xC00, v &&& 0xFFFFFFFFFFFFF000#64), (0xC10, v &&& 127#64), (0xC18, v &&& 0x0FFFFFFFFFFFFFFF#64)] ++
         (List.range 16).map (fun i => (0x100 + 8 * i, (eventCode (v.truncate 16)).zeroExtend 64)) ++
         (List.range 16).map (fun i => (0x180 + 8 * i, v &&& 0xFFFFFFFFFFFF#64)) ++
         (List.range 16).map (fun i => (0x1000 + 32 * i, v &&& 0xFFFFFFFFFFFFF801#64)) : List (Nat × DWord)), puts s w.toNat q.1 v q.2) ∧
     (w.toNat = 8 → ∀ i < 4, puts s 8 (0x3100 + 8 * i) v v) ∧
     (w.toNat = 8 ∨ w.toNat = 9 → ∀ i < 24,
       let t := s.windowWrite w.toNat (0x2008 + 64 * i) v
       t.windowRead w.toNat (0x2008 + 64 * i) = v ∧ t.windowRead w.toNat (0x2018 + 64 * i) = v ∧
         ∀ x y, (x, y) ≠ (w.toNat, 0x2008 + 64 * i) → (x, y) ≠ (w.toNat, 0x2018 + 64 * i) → t.windowRead x y = s.windowRead x y) ∧
     (w.toNat < 8 → (s.die w.toNat).xinv.getLsbD 63 = false → puts s w.toNat 0x408 v (v &&& 0xF800FFFFFFFF0000#64)) ∧
     ((off.toNat % 8 ≠ 0 ∨ 10 ≤ w.toNat) ∨ (w.toNat < 8 ∧ off.toNat ∈ [0, 0xC08]) ∨ (w.toNat < 8 ∧ 0x1000 ≤ off.toNat ∧ off.toNat < 0x1200 ∧ off.toNat % 32 = 16) ∨
       (w.toNat = 8 ∨ w.toNat = 9) ∧ (off.toNat = 0 ∨ off.toNat = 0x100 ∨ 0x200 ≤ off.toNat ∧ off.toNat < 0x480 ∨ off.toNat = 0x3208) →
       s.windowWrite w.toNat off.toNat v = s) ∧
     (s.recAt d seq.toNat = some r → r.kind ≠ 4 →
       let t := s.modDie d fun x => { x with fqres := BitVec.ofNat 64 (seq.toNat % 2 ^ 32) }
       let u := s.modDie d fun x => { x with fqres := BitVec.ofNat 64 (2 ^ 32 + seq.toNat % 2 ^ 32) }
       (s.retryWaits r = false → exec (.faultRetry seq) s = .next ((t.resume r).dropRec d seq.toNat).settleAll) ∧
       (s.retryWaits r = true → exec (.faultRetry seq) s = .next (t.modDie d fun x => { x with fqres := x.fqres ||| 1#64 <<< 63 }).settleAll) ∧
       exec (.fqresEnd seq) s = .next
         ((u.dropRec d seq.toNat).faultEnd r.cid r.code r.detail (s.stream r.locus.cluster r.locus.ctx).pc r.va 0).settleAll))

/-- R24, R25, R340, R402, R418: a function's ready bit follows it, and a port that has trained sends again what is not acknowledged; what waited for memory that has become
ready is performed then, the owed signals first (R25). COLD_RESET gives every register its reset value, installs the first keys and the boundary registers of the policy, and memory stands as it was (logs 30, 81, 102). -/
def Obligations.ReadyAndReset : Prop :=
  ∀ (s : State) (up : Bool) (n c : Nat) (o : OwedSignal),
    let then_ (b : Bool) (t : State) : State := if b then t.sendSignals.settleAll else t
    (s.signals = [] → s.sendSignals = s) ∧
    (s.signals = [o] → s.sendSignals =
      let u : State := { s with signals := [] }
      if o.phys then u.signalPa o.obj.toNat o.inc o.status else u.signalUnder o.cluster o.root o.obj o.inc o.status) ∧
    (n < 8 → c < 48 → (s.die n).cfence.getLsbD c = false →
      exec (.functionReady (.cluster n c) up) s = .next (then_ up (s.modDie n fun x => { x with drdy := setBit x.drdy c up }))) ∧
    (n < 8 → c < 48 → (s.die n).cfence.getLsbD c = true → exec (.functionReady (.cluster n c) true) s = .next (then_ true s)) ∧
    (n < 8 → exec (.functionReady (.die n) up) s = .next (then_ up (s.modDie n fun x => { x with drdy := setBit x.drdy 48 up }))) ∧
    (n < 16 → exec (.functionReady (.hbm n) up) s = .next (then_ up (s.modDie (n / 2) fun x => { x with drdy := setBit x.drdy (49 + n % 2) up }))) ∧
    (n < 48 → exec (.functionReady (.port n) true) s = .next (then_ true ((s.modPort n fun x =>
      { x with
        pctl := x.pctl &&& 1#2, naks := if x.pctl.getLsbD 1 then 0 else x.naks,
        resend := if x.pctl.getLsbD 1 then x.replay.length else x.resend }).modIod (n / 24) fun x => { x with irdy := setBit x.irdy (n % 24) true }))) ∧
    (n < 48 → exec (.functionReady (.port n) false) s = .next (then_ false (s.modIod (n / 24) fun x => { x with irdy := setBit x.irdy (n % 24) false }))) ∧
    (n < 2 →
      exec (.functionReady (.lpddr n) up) s = .next (then_ up (s.modIod n fun x => { x with irdy := setBit x.irdy 25 up })) ∧
      exec (.functionReady (.cxl n) up) s = .next (then_ up (s.modIod n fun x => { x with irdy := setBit x.irdy 26 up })) ∧
      exec (.functionReady (.iod n) up) s = .next (then_ up (s.modIod n fun x => { x with irdy := setBit x.irdy 27 up }))) ∧
    exec (.functionReady .mc up) s = .next (then_ up (s.modIod 0 fun x => { x with irdy := setBit x.irdy 24 up })) ∧
    (∃ t, exec .coldReset s = .next t ∧ t.mem = s.mem ∧ t.clusters = State.reset.clusters ∧ t.ctxs = State.reset.ctxs ∧ t.dies = State.reset.dies ∧
      t.ports = firstPorts ∧ t.resets = s.resets + 1 ∧
      ∀ o, o < 79 → (t.iod 0).boundary.get (0 : DWord) (0x200 + 8 * o) =
        if o = 76 then BitVec.ofNat 64 (Nat.min 5200 ((Config.policyBoundary 0x460).bits 12 0))
        else if o > 76 then Config.policyBoundary (0x200 + 8 * o) &&& 0xFFFFFFFFFFFF0000#64 else Config.policyBoundary (0x200 + 8 * o))

/-- R41, R244, R245: of the switch words that share an output and can move a token the next in turn (one round over the three networks, log 36) moves the one at the head of its buffer, and the oldest result that has place in its output's register
(2 tokens; for an ME 2 of each channel, the model's reading, log 9) enters it, and the local slot it is also sent to. -/
def Obligations.FabricMoves : Prop :=
  ∀ (s s1 : State) (n w : SwWord) (rg : Region) (t : Token) (r : List Token) (e : Elem) (it : PipeItem),
    let c := s.cur.cluster
    let k := s.cur.ctx
    let site := s.cur.site
    let x := s.site c site
    let o := n.out.toNat
    (x.words.find? (fun w => decide (w.pos = s.cur.sel) && decide (w.ctx.toNat = k)) = some n →
      firstAfter (x.turns.get 0 o) (x.words.filter fun v => decide (v.out = n.out) && (s.forwardWord c site v).isSome) = some w →
      s.region? c w.ctx.toNat = some rg → rg.frozen = false → s.ended c w.ctx.toNat = false → w.switched = false → w.buf = t :: r → s.hop c site w t = some s1 → t.isPicot 2 = false →
      exec .switchForward s = .next (((s1.modSite c site fun x => { x with
        words := x.words.map fun v => if v.pos = w.pos ∧ v.ctx = w.ctx then { w with buf := r } else v }).modSite c site fun x =>
          { x with turns := x.turns.set o (w.turn + 1) }).settleAround c site)) ∧
    (s.elem? c site k = some e → s.ended c k = false → e.pipe.find? (fun x => decide (x.out = s.cur.sel) && e.hasPlace x.out x.tok.chan) = some it →
      (it.out = 0 → it.loc = none →
        exec .resultReachesOutput s = .next ((s.modElem c site k fun _ => { e with pipe := e.pipe.erase it, out0 := e.out0 ++ [it.tok] }).settle c site)) ∧
      (it.out = 1 → it.loc = none →
        exec .resultReachesOutput s = .next ((s.modElem c site k fun _ => { e with pipe := e.pipe.erase it, out1 := e.out1 ++ [it.tok] }).settle c site)) ∧
      (∀ d, it.out ≥ 2 → it.loc = some d →
        exec .resultReachesOutput s = .next
          (((s.modElem c site k fun _ => { e with pipe := e.pipe.erase it }).deliverLocal c site k d.toNat it.tok).settle c site)))

/-- R40, R45, R269: the element commands FETCH, UNLATCH and ACCCLR at the head of the command input, and the aging of a ready slot.
R29, R325, R374, R375: a missing unit that the configuration cache holds, or whose digest is that of its load, arrives and is the one fetched last; one with
another digest ends the context with 0x0A, 1; an uncorrectable configuration word freezes the region and has the unit or the words of the box fetched again, with which the region goes on. -/
def Obligations.ElementCommandsAndUnits : Prop :=
  (∀ (s : State) (e : Elem) (t : Token) (n : BitVec 4) (f : Firing),
     let c := s.cur.cluster
     let k := s.cur.ctx
     let site := s.cur.site
     let gone := s.modElem c site k fun e => { e with inQ := e.inQ.drop 1 }
     (s.cmdAt c site k 1 = some t → exec .fetch s = .next (gone.modElem c site k fun e => { e with fetching := e.fetching || e.unit.isNone })) ∧
     (s.cmdAt c site k 2 = some t → s.elem? c site k = some e →
       ((e.slot n.toNat).latch = none → exec (.unlatch n) s = .next
         (((gone.setSlot c site k n.toNat { e.slot n.toNat with latch := none }).muApply (s.cidAt c k) []).settle c site)) ∧
       (∀ u info p, (e.slot n.toNat).latch = some u → e.slotInfo site n.toNat = some info → info.latch = some p →
         exec (.unlatch n) s = .next
           (((gone.setSlot c site k n.toNat { e.slot n.toNat with latch := none }).muApply (s.cidAt c k) (s.takeUps c site k n.toNat p u)).settle c site))) ∧
     (s.cmdAt c site k 3 = some t → exec (.accclr n) s = .next (gone.modElem c site k fun e => { e with accs := e.accs.del n.toNat })) ∧
     (s.readyAt c site k s.cur.slot = some f → s.elem? c site k = some e → 64 ≤ (e.slot s.cur.slot).passed → s.halted c k = false →
       exec .agingPromotion s = .next (s.modElem c site k fun e =>
         e.setSlot s.cur.slot { e.slot s.cur.slot with
           raised := (e.slot s.cur.slot).raised + (if s.levelOf c site k s.cur.slot < 15 then 1 else 0), passed := (e.slot s.cur.slot).passed - 64 }))) ∧
  (∀ (s : State) (e : Elem) (r : Region),
     let c := s.cur.cluster
     let k := s.cur.ctx
     let site := s.cur.site
     let dropped := s.modCluster c fun x => { x with cc := x.cc.filter fun u => !(decide (u.k = k) && decide (u.site = site)) }
     s.region? c k = some r →
     (s.elem? c site k = some e → e.fetching = true → e.unit = none → (s.site c site).refetch.contains k = false →
       (∀ unit, (s.cluster c).cached k site r.image = some unit ∨
          (s.cluster c).cached k site r.image = none ∧ r.digests.find? site = some (s.unitDigest r.image site) ∧ unit = s.unitAt r.image site →
         let t := ((s.countFetch c k ((s.cluster c).cached k site r.image).isNone).modElem c site k fun e =>
           { e with unit := some unit, fetching := false }).modCluster c fun x =>
           { x with cc := trimCache 1024 ((x.cc.filter fun v => !(decide (v.k = k) && decide (v.site = site) && decide (v.image = r.image))) ++
             [⟨k, site, r.image, unit⟩]) }
         exec .configUnitFetch s = .next
           ((t.modRegion c k fun r => { r with frozen := r.frozen && !((t.cluster c).sites.vals.all fun x => !(x.refetch.contains k)) }).settle c site)) ∧
       ((s.cluster c).cached k site r.image = none → r.digests.find? site ≠ some (s.unitDigest r.image site) →
         exec .configUnitFetch s = .next
           (s.faultEnd r.cid 0x0A 1 (s.stream c k).pc (BitVec.ofNat 64 (r.image + s.unitOff r.image site)) 0))) ∧
     ((s.site c site).refetch.contains k = true → (∀ e, s.elem? c site k = some e → (e.fetching && e.unit.isNone) = false) →
       let again (v : SwWord) : SwWord :=
         if v.ctx.toNat = k ∧ v.pos < 24 then { s.boxWord r.image site k v.pos with buf := v.buf, switched := v.switched } else v
       let t := s.modSite c site fun x => { x with refetch := x.refetch.filter fun j => decide (j ≠ k), words := x.words.map again }
       (r.digests.find? (64 + site) = some (s.boxDigest r.image site) → exec .configUnitFetch s = .next
         ((t.modRegion c k fun r => { r with frozen := r.frozen && !((t.cluster c).sites.vals.all fun x => !(x.refetch.contains k)) }).settle c site)) ∧
       (r.digests.find? (64 + site) ≠ some (s.boxDigest r.image site) → exec .configUnitFetch s = .next
         (s.faultEnd r.cid 0x0A 1 (s.stream c k).pc (BitVec.ofNat 64 (r.image + s.imgSite r.image site)) 0))) ∧
     (let again (x : Site) : Site := { x with refetch := if x.refetch.contains k then x.refetch else x.refetch ++ [k] }
      exec (.configUncorrectable true) s = .next ((dropped.modSite c site again).modRegion c k fun r => { r with frozen := true }) ∧
      exec (.configUncorrectable false) s = .next
        (((dropped.modElem c site k fun e => { e with unit := none, fetching := true }).modSite c site again).modRegion
          c k fun r => { r with frozen := true })))

/-- R247, R371: once EOS of a colour has come on every port that a slot reads and no entry of the colour can fire, its entries are cleared and their operands counted, the
slot emits its UNMATCHED ERR where the count is not zero, then the results its group closes with, then EOS on each output; it waits where the meridian unit
has no room.
R229, R328, R372, R399: a SWITCH picot that has come on every input makes an element end its old configuration and take the new; at the first SNAP an element
records and forwards it; ABORT ends the collective commands, the conversion or the nodes of its id at the member, once, with status ABORTED and the bytes that it has. What an
aborted operation has received from other modules is open (log 99), where picots end rests on log 12, and ERR at a node on logs 46 and 105. -/
def Obligations.PicotsAndEnds : Prop :=
  (∀ (s : State) (e : Elem) (info : SlotInfo) (eos : Token) (p : Nat) (others : List (Nat × Token)) (ts : List Token) (more : Nat) (downs : List Upd) (x1 : SlotSt),
     let c := s.cur.cluster
     let k := s.cur.ctx
     let site := s.cur.site
     let slot := s.cur.slot
     let col := s.cur.sel
     let cid := s.cidAt c k
     let x := e.slot slot
     let f : Firing := { c := c, k := k, site := site, slot := slot, info := info }
     let mine := x.entries.filter fun en => en.2.toks.any fun t => decide (t.2.colour.toNat = col)
     let dead := mine.flatMap fun en => en.2.toks
     let heads := info.reads.flatMap fun p =>
       ((headsOf (e.port p) []).filter fun t => decide (t.kind = kEos) && decide (t.slot.toNat = slot) && decide (t.colour.toNat = col)).map fun t => (p, t)
     let lost := dead.length + x.unmatched.get 0 col + more
     let outs := (if lost = 0 then [] else [(0, errToken 0x01 lost site slot eos.colour eos.tag eos.last)]) ++
       (ts.map fun t => (f.out, s.closed f t)) ++ info.outs.map fun o => (o, eos)
     let ups := downs ++ (dead.flatMap fun t => s.takeUps c site k slot t.1 t.2) ++ outs.flatMap fun o => s.emitUps c site k slot o.1 info.loc o.2
     s.elem? c site k = some e → e.slotInfo site slot = some info → info.reads ≠ [] → info.reads.all (fun p => (x.ended col).contains p) = true →
     s.ended c k = false → x.count = 0 → x.credNext info (s.relTag c k) = none →
     (∀ en ∈ mine, en.2.full info = true → (info.latch.isSome = true ∧ x.latch = none) ∨ (info.fire = 3 ∧ en.1 ≠ x.seqNext)) → info.outs.all (e.room slot) = true →
     heads = (p, eos) :: others → (heads.any fun q => e.runsFor slot q.1 q.2.chan) = false → s.closeSlot f x eos (some col) = some (ts, more, downs, x1) →
     (s.muRoom cid ups false = true → exec .eos s = .next
       ((((s.modElem c site k fun e =>
         (heads.foldl (fun e q => e.setPort q.1 (dropHead (e.port q.1) q.2.chan)) (e.setSlot slot { x1 with
           entries := x1.entries.filter fun en => !(mine.any fun m => decide (m.1 = en.1))
           unmatched := x1.unmatched.del col, eos := x1.eos.filter fun q => decide (q.1 ≠ col),
           sawEos := if x1.sawEos.contains col then x1.sawEos else x1.sawEos ++ [col] })).sendAll f outs).muApply cid ups).muGo
         cid f.who ups).settle c site)) ∧
     (s.muRoom cid ups false = false → exec .eos s = .next (s.muWait cid f.who ups false))) ∧
  (∀ (s : State) (gen : BitVec 24) (id : BitVec 16) (ab : BitVec 24) (e : Elem) (r : Region) (u : NextUnit) (x : Ctx) (op : CollOp),
     let c := s.cur.cluster
     let k := s.cur.ctx
     let site := s.cur.site
     let front := e.swIns.filter fun q => !(e.swBack.contains (q.1, q.2.toNat))
     s.region? c k = some r → s.elem? c site k = some e →
     (r.switching = some gen.toNat → s.ended c k = false → e.switched = true →
       exec (.switch gen) s = .next ((s.modElem c site k fun e => e.dropPicots 2 e.swIns).settle c site)) ∧
     (r.switching = some gen.toNat → s.ended c k = false → e.switched = false → e.next = some u → e.holds = true → front.all (fun q => e.picotAt 2 q) = true → (List.range 16).all (fun i => s.canClose c k site i && !(s.busySlot c k site i)) = true →
       let s1 := (List.range 16).foldl (fun s i => s.retireSlot c k site i) s
       exec (.switch gen) s = .next ((s1.modElem c site k fun e =>
         (({ e with
            slots := [], accs := [], hdr := [], typ := u.typ, unit := some u.unit, fetching := false, win := u.win, fixedA := u.fixedA,
            next := none, holds := false, switched := true }).dropPicots 2 front).forward e.swOuts k 2 gen.toNat 0).settle c site)) ∧
     (r.switching ≠ some gen.toNat → exec (.switch gen) s = .next s) ∧
     (let isSnap (t : Token) : Bool := t.isPicot 0 && decide (t.aux = id)
      let seen := [0, 1, 2, 3].flatMap fun p => ((e.port p).filter isSnap).map fun t => 32 * p + t.chan.toNat
      let e1 := [0, 1, 2, 3].foldl (fun e p => e.setPort p ((e.port p).filter fun t => !(isSnap t))) e
      let s1 := s.modElem c site k fun _ => { e1 with snapped := true, picots := e1.picots ++ seen }
      let onward (y : Site) : Site := (y.outputs k).foldl (fun y q => (y.accept none (4 + q.1) (picot 0 0 id.toNat k q.2)).getD y) y
      seen ≠ [] →
       (e.snapped = true → exec (.snap id) s = .next (s1.settle c site)) ∧
       (e.snapped = false → exec (.snap id) s = .next ((s1.modSite c site onward).settle c site))) ∧
     (let hit (y : Cmd) : Prop := y.q = 2 ∧ y.done = false ∧ ∃ q, (decodeCl y.desc).bind clOf = some q ∧ q.2.id = ab
      let own := clOwner c k ab.toNat
      let t := s.abortCl c k ab
      ((∀ y ∈ (s.stream c k).issued, ¬hit y) → t = s) ∧
      (∀ (l l2 : List Cmd) (y : Cmd) (kind : Nat) (d : ClDesc), (s.stream c k).issued = l ++ y :: l2 → (∀ z ∈ l ++ l2, ¬hit z) → hit y →
        (decodeCl y.desc).bind clOf = some (kind, d) →
        let got := s.received c k own d.recv (clRecv kind (s.clGroup c k d).length d)
        t = (got.1.modIssued c k y.id fun y => { y with done := true, inc := got.2, status := stAborted, stalled := none }).modCtx (s.cidAt c k) fun y =>
          { y with ranges := y.ranges.filter fun r => decide (r.owner ≠ own) }) ∧
      s.ctxAt c k = some x →
       (x.colls.find? (fun op => decide (op.id = ab.toNat)) = some op →
         let m := op.places.findIdx fun p => decide (p = (c, k))
         let left := m :: op.left
         (m ∈ op.left ∨ op.places.length ≤ m → exec (.abort ab) s = .next t) ∧
         (m ∉ op.left → m < op.places.length → op.away = false →
           exec (.abort ab) s = .next (((t.setBusy c k op.dtd false).modCtx (t.cidAt c k) fun x =>
             { x with
               ranges := x.ranges.filter fun r => decide (r.owner ≠ convOwner (c, k) op.id),
               colls := if left.length < op.places.length then x.colls.map fun o => if o.id = op.id then { o with left := left } else o
                 else x.colls.filter fun o => decide (o.id ≠ op.id) }).signalVa c k op.done (op.bytes.get 0 m) stAborted))) ∧
       (x.colls.find? (fun op => decide (op.id = ab.toNat)) = none →
         exec (.abort ab) s = .next ((x.nodes.filter fun e => decide (e.2.id = ab.toNat)).foldl (fun s e => s.nodeBecomes c k e.1 e.2 e.2.abort) t))))

/-- R53, R55, R219 to R222, R225, R228, R286, R357: a queue's head that issues leaves its queue and is known by a new id; one that its engine does not take is refused with the reason of Table 18.2. An AG command
starts the run of the slot that names its descriptor; a collective enters its buffers; a link or scrub command goes to its engine; a TI command's token enters by its port; a TO command writes the token at its port; a placement
that holds is done, another forks; cfg.load stages, cfg.switch sends picots and cfg.page fetches. A command whose effects are done signals its object and leaves. An address at which no pricking can be read is refused (log 25), a switch in
progress delays the next (log 39), words of a switch rest on log 104, an unenrolled node on log 38, a run begun by `enq ag` on log 114.
R73, R74, R376: a watchdog reports to the streams of the contexts that have waited 2^20 cycles, with the number of their waiters and their live pointstamps. -/
def Obligations.CommandAndWatchdogSteps : Prop :=
  (∀ (s s1 s2 : State) (x : Cmd) (rest : List Cmd) (ws : List DWord) (bs : List PByte),
    let c := s.cur.cluster
    let k := s.cur.ctx
    let q := s.cur.sel
    let own := engOwner (headSel q)
    let issues (o : State) : Prop := exec .commandIssue s = .next o
    s.queue c k q = x :: rest →
    s.takeHead c k q = { s with cmdId := s.cmdId + 1 }.modStream c k (fun st =>
      { st with queues := st.queues.set q rest, issued := st.issued ++ [{ x with id := s.cmdId + 1 }] }) ∧
    (∀ r, s.headRefused c k q r = (s.modStream c k fun st => { st with queues := st.queues.set q rest }).refuse c k x r) ∧
    (∀ n st, s.headDone c k q n st = (s.takeHead c k q).cmdDone c k (s.cmdId + 1) n st) ∧
    (x.desc ≠ [] → s.headDesc c k q x = (s, some x.desc)) ∧
    (x.desc = [] → s.engBytes c k own x.a 64 = (s1, .ok bs) → s.headDesc c k q x = (s1.engDone c k own, some (wordsOfBytes bs))) ∧
    (s.mayIssue c k = true → x.stalled = none →
      (q = 1 →
        let site := meSite (x.a.bits 4 0)
        let n := x.a.bits 8 5
        ((∀ e, s.elem? c site k = some e → e.typ ≠ typAg) → issues (s.headRefused c k 1 5)) ∧
        (∀ e, s.elem? c site k = some e → e.typ = typAg →
          let d := e.descAt n
          (e.unit = none → issues (s.modElem c site k fun e => { e with fetching := true })) ∧
          (e.unit ≠ none → (∀ i < 16, ∀ f, e.slotInfo site i = some f → descOf f.i ≠ some n) → issues (s.headRefused c k 1 5)) ∧
          (∀ i f, e.unit ≠ none → i < 16 → e.slotInfo site i = some f → descOf f.i = some n →
            (∀ j < i, ∀ g, e.slotInfo site j = some g → descOf g.i ≠ some n) →
            let r : Run := { desc := n, slot := i, base := if x.flg.getLsbD 0 then x.c else dBase d, cmdId := s.cmdId + 1 }
            (enqRun e d f.i r = none ∨ (∃ j < dLevels d, dCnt d j = 0) → issues (s.headRefused c k 1 5)) ∧
            (∀ r1, enqRun e d f.i r = some r1 → (∀ j < dLevels d, dCnt d j ≠ 0) →
              issues ((s.takeHead c k 1).modElem c site k fun e => { e with runs := e.runs ++ [r1] }))))) ∧
      (s.headDesc c k q x = (s1, some ws) →
        let held := s1.modHead c k q fun x => { x with desc := ws }
        (q = 2 → (decodeCl ws).bind clOf = none → issues (s1.headRefused c k 2 2)) ∧
        (∀ kind d, q = 2 → (decodeCl ws).bind clOf = some (kind, d) →
          (clOk kind d = false → issues (s1.headRefused c k 2 2)) ∧
          (clOk kind d = true → held.clTables c k own d = (s2, none) →
            (s2.clEntered c k d = false → s2.rangeRoom c k 2 = false → issues s2) ∧
            (s2.clEntered c k d = true ∨ s2.rangeRoom c k 2 = true → issues (((s2.engDone c k own).takeHead c k 2).enterCl c k kind d)))) ∧
        (q = 3 → (decodeLk ws).bind lkOf = none → issues (s1.headRefused c k 3 3)) ∧
        (∀ op d, q = 3 → (decodeLk ws).bind lkOf = some (op, d) →
          let bad := (op ≠ 0 ∧ d.nflit ≠ 0) ∨ (op = 0 ∧ s1.enrolled d.node.toNat = false)
          (bad → issues (s1.headRefused c k 3 3)) ∧
          (¬bad → op = 3 → s1.earlierLk c k (s1.cmdId + 1) d.port.toNat = true → issues s1) ∧
          (¬bad → op ≠ 3 ∨ s1.earlierLk c k (s1.cmdId + 1) d.port.toNat = false → issues (held.takeHead c k 3))) ∧
        (∀ base nblk bitmap z, q = 4 → ws = base :: nblk :: bitmap :: z → z.length = 5 →
          let ok := base.toNat % 64 = 0 ∧ 1 ≤ nblk.toNat ∧ bitmap.toNat % 8 = 0 ∧ ∀ w ∈ z, w = 0
          (¬ok → issues (s1.headRefused c k 4 4)) ∧ (ok → issues (held.takeHead c k 4)))) ∧
      (∀ r, q = 5 → s.region? c k = some r →
        let p := x.flg.toNat % 4
        let who := 4096 * c + 2048 + 4 * k + p
        let t := { Token.ofHeader x.a x.lanes with ctx := BitVec.ofNat 2 k }
        let ups : List Upd := if t.kind = kChg then (s.edgeDest c k p 0 t.chan.toNat t).map fun l => ⟨l, t.time, 1⟩ else []
        let src := r.tiSource.contains (r.locs.get noLoc p)
        (r.frozen = true → issues s) ∧
        (r.frozen = false → s.muRoom (s.cidAt c k) ups src = false → issues (s.muWait (s.cidAt c k) who ups src)) ∧
        (r.frozen = false → s.muRoom (s.cidAt c k) ups src = true → (s.enterEdge c (.ti p) t = none → issues s) ∧
          (s.enterEdge c (.ti p) t = some s1 →
            issues (((s1.muApply (s.cidAt c k) ups).muGo (s.cidAt c k) who ups).headDone c k 5 1 stOk)))) ∧
      (∀ r t l, q = 6 → s.region? c k = some r →
        let p := x.flg.toNat % 4
        (s.cluster c).toBuf.get [] (4 * p + k) = t :: l → r.frozen = false → (s.cluster c).snapped (4 * p + k) = false →
        s.engReady c k own x.a t.bytes = (s1, none) →
        let ups : List Upd := if t.kind = kChg then (s1.edgeLoc c k (4 + p)).map fun l => ⟨l, t.time, -1⟩ else []
        let u := ((s1.engPut c k own x.a t.bytes).engDone c k own).modCluster c fun y => { y with toBuf := y.toBuf.set (4 * p + k) l }
        issues (((u.muApply (u.cidAt c k) ups).headDone c k 6 1 (if t.poison && decide (t.kind ≠ kErr) then stPoisoned else stOk)).settle c (4 + p))) ∧
      (q = 7 →
        let i := x.a.bits 9 0
        (x.done = true → issues (s.headDone c k 7 x.inc x.status)) ∧
        (x.done = false → s.tablesFail c k own i = (s1, none) →
          let d := s1.dtdAt c k i
          let holds := d.busy = false ∧ d.st = x.c.bits 15 0
          (holds → issues ((s1.engDone c k own).headDone c k 7 0 stOk)) ∧
          (¬holds → issues (((s1.engDone c k own).takeHead c k 7).forkConv c k i (x.c.bits 15 0))))) ∧
      (∀ r, q = 8 → s.region? c k = some r →
        (2 ≤ x.flg.toNat → issues ((s.takeHead c k 8).modElem c (x.a.bits 5 0) k fun e => { e with fetching := e.fetching || e.unit.isNone })) ∧
        (x.flg.toNat < 2 → r.switching.isSome = true → issues s) ∧
        (x.flg.toNat = 1 → r.switching = none →
          ((∀ st, r.staged = some st → st.gen ≠ x.c.bits 23 0) → issues (s.headRefused c k 8 6)) ∧
          (∀ st, r.staged = some st → st.gen = x.c.bits 23 0 → s.injectPicots c k (fun _ => true) 2 st.gen 0 = some s1 →
            issues (((s1.beginSwitch c k).modRegion c k fun r => { r with switching := some st.gen }).takeHead c k 8))) ∧
        (x.flg.toNat = 0 → r.switching = none →
          let nd := s1.dtdNd c (s1.rootAt c k) (s1.ptabAt c k)
          (∀ code detail, s.translate c true (s.rootAt c k) x.a .load = (s1, .error (code, detail)) →
            issues (if code = 0 then s1 else s1.headRefused c k 8 7)) ∧
          (∀ key y, s.translate c true (s.rootAt c k) x.a .load = (s1, .ok key) →
            (keyAp key ≠ 0 → issues (s1.headRefused c k 8 7)) ∧
            (keyAp key = 0 → s.ptabAt c k = 0 → s1.ctxAt c k = some y →
              let bad := (s1.loadCheck (s1.partKey c k) (keyPa key) k nd (y.bound c k)).isSome = true ∨ (s1.prick (keyPa key) k).sharesOver s1 c k = true
              (bad → issues ((s1.headRefused c k 8 7).engDone c k own)) ∧
              (¬bad → issues (((s1.stage c k (keyPa key)).headDone c k 8 1 stOk).engDone c k own)))))))) ∧
  (∀ (s : State) (x : Cmd) (kind : Nat) (d : ClDesc),
    let c := s.cur.cluster
    let k := s.cur.ctx
    let leaves (u : State) (n st : Nat) : Prop := exec .commandComplete s = .next ((u.signalCmd c k x n st).modStream c k fun y =>
      { y with issued := y.issued.filter fun z => decide (z.id ≠ x.id) })
    s.issuedCmd? c k s.cur.sel = some x →
    (x.done = true → x.q ≠ 2 → x.q ≠ 8 ∨ x.flg ≠ 1 → leaves s x.inc x.status) ∧
    (x.done = true → x.q = 2 → (decodeCl x.desc).bind clOf = some (kind, d) →
      leaves (s.modCtx (s.cidAt c k) fun y => { y with ranges := y.ranges.filter fun r => decide (r.owner ≠ clOwner c k d.id.toNat) }) x.inc x.status) ∧
    (x.done = false → x.q = 8 → x.flg = 1 → s.allSwitched c k = true → leaves (s.endSwitch c k) 1 stOk) ∧
    (x.done = false → x.q = 8 → x.flg = 2 → (∀ e, s.elem? c (x.a.bits 5 0) k = some e → e.unit ≠ none) → leaves s 1 stOk) ∧
    (x.done = false → x.q ≠ 8 → exec .commandComplete s = .next s)) ∧
  (∀ s : State,
    let c := s.cur.cluster
    (let y := s.cluster c
     y.muStall ≠ [] → 2 ^ 20 ≤ y.muWait → y.muReported = false →
      exec .muWatchdog s = .next (((y.muStall.map Prod.fst).eraseDups.foldl (fun s cid => s.reportStall cid 0x81
        (BitVec.ofNat 64 ((y.muStall.filter fun e => decide (e.1 = cid)).length % 2 ^ 16 * 2 ^ 16 +
          (y.stamps.filter fun p => decide (p.cid = cid)).length % 2 ^ 16))) s).modCluster c fun x => { x with muReported := true })) ∧
    (let d := dieOf c
     let y := s.die d
     y.aggStall ≠ [] → 2 ^ 20 ≤ y.aggWait → y.aggReported = false →
      exec .aggregateWatchdog s = .next (((y.aggStall.map Prod.fst).eraseDups.foldl (fun u cid => u.reportStall cid 0x82 (BitVec.ofNat 64 (2 ^ 63 +
        (y.aggStall.filter fun z => decide (z.1 = cid)).length % 2 ^ 16 * 2 ^ 16 +
        ((s.clusters.map fun e => if dieOf e.1 = d then (e.2.stamps.filter fun p => decide (p.cid = cid)).length else 0).foldl (· + ·) 0) % 2 ^ 16))) s).modDie d
          fun x => { x with aggReported := true })) ∧
    (∀ cid x q detail addr, s.ctx? cid = some x → x.places = [q] →
      let st := s.stream q.1 q.2
      (st.phase = .idle ∨ st.phase = .exited → s.reportStall cid detail addr = s.modStream q.1 q.2 fun st => st) ∧
      (st.phase ≠ .idle → st.phase ≠ .exited →
        s.reportStall cid detail addr = s.modStream q.1 q.2 fun st => { st with asyncs := st.asyncs ++ [⟨0x10, detail, addr⟩] })))

/-- R316, R320, R378, R379: a write of LQNTF moves the tail where the queue would not overflow; the entry at the head is read, its RCBs taken; a bad entry is consumed with its record once there is room, and a good context RCB
among them ends with state 5 and done ERROR; a candidate that can never run is ended with its record and the status of its fault, once its memory can be read; a waiting candidate rises one level for each 2^20 cycles.
R318 to R322: of the candidates whose dependences are met the scheduler chooses one that no other goes before: by waiting priority (at most 15), then by the pass value of its partition, then by queue; while one is held only that one
or one of higher waiting priority. Its demand fits where, with what is admitted beneath its job and its partition, it passes no budget of either, and every region finds a place: a region of no gang takes the first
cluster, in the order of the dies from the scheduler's own, that is ready, not fenced and has a free slot, tiles, rings and shares. An admission takes the slots, writes state 2, adds 2^24 over its weight to the pass value of
its partition, gives the place of the candidate to the next and loads the regions; one that does not fit is held; no other is admitted. That RCBs once taken stay so rests on log 118, a share's base on log 34, the mesh on log 33. -/
def Obligations.LaunchAndAdmission : Prop :=
  (∀ (s s1 : State) (q : BitVec 4) (tail : BitVec 9) (x : Candidate) (flt : SchedFault) (t : Tree),
     let d := dieOf s.cur.cluster
     let y := s.die d
     let n := q.toNat
     (q ≠ 15 → (tail - y.lqhead.get 0 n).toNat ≤ 256 →
       exec (.launchNotify q tail) s = .next (s.modDie d fun x => { x with lqntf := x.lqntf.set n tail })) ∧
     ((q = 15 ∨ 256 < (tail - y.lqhead.get 0 n).toNat) → exec (.launchNotify q tail) s = .next s) ∧
     (let head := y.lqhead.get (0 : BitVec 9) n
      let entry := s.rd (hbm ((y.lqbase.get (0 : DWord) n).bits 63 11 * 2 ^ 11 + 8 * (head.toNat % 256))) 8
      let info (reason : Nat) (root : DWord) : FaultInfo :=
        { kind := 4, code := reason, detail := 0, va := BitVec.ofNat 64 entry, root := root, cmd := BitVec.ofNat 64 n }
      let took (u : State) : State := u.modDie d fun x => { x with lqhead := x.lqhead.set n (head + 1) }
      s.schedReady d = true → (q ≠ 15 ∨ y.chainHead = 0) → (y.lqbase.get (0 : DWord) n).getLsbD 0 = true → head ≠ y.lqntf.get 0 n → y.cands.find? n = none →
       (s.checkEntry entry = .ok t →
         exec (.launchEntryRead q) s = .next ((took (((s.gainPass d n t.part).takeNodes (entry :: t.job :: t.part :: t.regions)).setRcbState entry 1)).modDie d
           fun x => { x with cands := x.cands.set n { rcb := entry, readAt := s.dieCycles d, reentry := s.evictedAt entry } })) ∧
       (∀ reason root, s.checkEntry entry = .error (reason, root) →
         ((s.postFault d (info reason root) { cluster := 48 * d }).2 = none → exec (.launchEntryRead q) s = .next s) ∧
         (∀ r, s.postFault d (info reason root) { cluster := 48 * d } = (s1, some r) →
           exec (.launchEntryRead q) s = .next (took (if rcbOk entry = true ∧ s.rcbLevel entry = 2 then
             ((s1.takeNodes [entry]).setRcbState entry 5).signalPa (s.rcb entry 0x70).toNat 1 stError else s1))))) ∧
     (y.cands.find? n = some x →
       ((s.treeReady d x).2 = false → exec (.candidateFault q) s = .next (s.treeReady d x).1) ∧
       ((s.treeReady d x).2 = true → s.candBad d x = some flt → s.treeOf x.rcb = .ok t →
         let e := s.effective t.part [t.job, x.rcb]
         exec (.candidateFault q) s = .next
           (((((s.farDone (farSched x.rcb)).setRcbState x.rcb 5).dumpRecord d t.root e.dump flt.kind flt.reason 0x3F 0 flt.at_ 0 x.rcb).signalPa
             (s.rcb x.rcb 0x70).toNat 1 flt.status).dropCand d n t.part)) ∧
       (x.level < (s.dieCycles d - x.readAt) / 2 ^ 20 →
         exec (.waitingPriorityAging q) s = .next (s.modDie d fun y => { y with cands := y.cands.set n { x with level := x.level + 1 } })) ∧
       ((s.dieCycles d - x.readAt) / 2 ^ 20 ≤ x.level → exec (.waitingPriorityAging q) s = .next s))) ∧
  (∀ (s : State) (d n : Nat) (e x y : Nat × Candidate),
     let first (a b : Nat × Candidate) : Prop := s.waitPrio b.2 < s.waitPrio a.2 ∨ s.waitPrio a.2 = s.waitPrio b.2 ∧
       ((s.die d).pass.get 0 (s.candPart a.2) < (s.die d).pass.get 0 (s.candPart b.2) ∨
         (s.die d).pass.get 0 (s.candPart a.2) = (s.die d).pass.get 0 (s.candPart b.2) ∧ a.1 < b.1)
     s.waitPrio e.2 = Nat.min 15 (s.candPrio e.2 + e.2.level) ∧
     (e.2.reentry = none → (e ∈ s.depReady d ↔ e ∈ s.candsOf d ∧ (s.treeReady d e.2).2 = true ∧ s.candBad d e.2 = none ∧
       ∀ i < 4, s.depOf e.2.rcb i = 0 ∨ s.depCount (s.depOf e.2.rcb i) ≠ 0 ∧ s.depStatus (s.depOf e.2.rcb i) = stOk)) ∧
     (e.2.reentry ≠ none → (e ∈ s.depReady d ↔ e ∈ s.candsOf d ∧ (s.treeReady d e.2).2 = true ∧
       ∀ i < 4, s.depOf e.2.rcb i = 0 ∨ s.depCount (s.depOf e.2.rcb i) ≠ 0)) ∧
     (s.chosen d = none ↔ s.depReady d = []) ∧
     ((s.die d).heldQ = none → s.chosen d = some x → x ∈ s.depReady d ∧ (y ∈ s.depReady d → ¬first y x)) ∧
     ((s.die d).heldQ = some n → (s.depReady d).find? (fun e => decide (e.1 = n)) = none → s.chosen d = some x →
       x ∈ s.depReady d ∧ (y ∈ s.depReady d → ¬first y x)) ∧
     ((s.die d).heldQ = some n → (s.depReady d).find? (fun e => decide (e.1 = n)) = some e → s.chosen d = some x →
       x ∈ s.depReady d ∧ (x.1 = n ∨ s.waitPrio e.2 < s.waitPrio x.2) ∧
       (y ∈ s.depReady d → y.1 = n ∨ s.waitPrio e.2 < s.waitPrio y.2 → ¬first y x))) ∧
  (∀ (s s1 : State) (tr : Tree) (m d cid c j i : Nat) (me : Effective) (r : ToPlace) (p : Placed) (pk : Prick) (rings : List Nat),
     (s.budgetFits tr m me = true ↔
       ∀ node ∈ [(s.effective tr.part [tr.job], fun x : Ctx => decide (x.job = tr.job)), (s.effective tr.part [], fun x : Ctx => decide (x.part = tr.part))],
         let l := (s.ctxs.map Prod.snd).filter node.2
         m + (l.map Ctx.bclus).sum ≤ node.1.bclus ∧ me.bcobj + (l.map Ctx.bcobj).sum ≤ node.1.bcobj ∧ me.bmem + (l.map Ctx.bmem).sum ≤ node.1.bmem) ∧
     (r.gang = 0 → j < 8 → i < 48 → s.placeOn cid (48 * ((d + j) % 8) + i) r = some (s1, p) →
       (∀ a b, a < 8 → b < 48 → a < j ∨ a = j ∧ b < i → s.placeOn cid (48 * ((d + a) % 8) + b) r = none) →
       s.place d cid [r] = some (s1, [p])) ∧
     (let y := s.cluster c
      s.freeSlot c pk rings none = some i ↔
        (s.die (dieOf c)).drdy.getLsbD (c % 48) = true ∧ s.schedReady (dieOf c) = true ∧ s.fenced c = false ∧
        (∀ g ∈ y.regions, (∀ t ∈ g.2.tiles, t ∉ pk.tiles.map TileDecl.tile) ∧ ∀ t ∈ g.2.rings, t ∉ rings) ∧
        (∀ site < 64, 0 < pk.share site → s.shareFor c site (pk.share site) ≠ none) ∧
        i < 4 ∧ y.regions.find? i = none ∧ ∀ h < i, y.regions.find? h ≠ none)) ∧
  (∀ (s s1 : State) (q : BitVec 4) (x : Candidate) (n : Nat) (tr : Tree) (ps : List Placed),
     let d := dieOf s.cur.cluster
     let t := (s.age d).askCands d
     let its := n = q.toNat ∨ n = 16 ∧ q = 15
     (s.schedReady d = false ∨ t.chosen d = none → exec (.admission q) s = .next t) ∧
     (t.chosen d = some (n, x) → ¬ its → exec (.admission q) s = .next t) ∧
     (s.schedReady d = true → t.chosen d = some (n, x) → its → t.treeOf x.rcb = .ok tr →
       let me := t.effective tr.part [tr.job, x.rcb]
       let old := x.reentry.bind t.ctx?
       let places := t.toPlace (t.candRegions x) (match old with | some y => y.saved | none => []) me
       let cid := x.reentry.getD t.newCid
       let part := t.effective tr.part []
       let held := exec (.admission q) s = .next (t.modDie d fun y => { y with heldQ := some n })
       let admits (u : State) : Prop := exec (.admission q) s = .next
         (((((x.rcb :: ps.map Placed.rcb).foldl (fun s a => s.setRcbState a 2)
             ((u.farDone (farSched x.rcb)).takeNodes (x.rcb :: tr.job :: tr.part :: ps.map Placed.rcb))).modDie d fun y =>
               { y with pass := y.pass.set tr.part (y.pass.get 0 tr.part + 2 ^ 24 / Nat.max 1 part.bclus) }).dropCand d n tr.part).countDie d 0x106
           |>.loadCtx d cid x.reentry.isSome tr.part ps)
       (x.reentry = none → t.budgetFits tr places.length me = false → held) ∧
       (t.place d cid places = none → held) ∧
       (t.place d cid places = some (s1, ps) →
         (x.reentry = none → t.budgetFits tr places.length me = true →
           let colours := t.coloursOf (ps.map Placed.image)
           let new : Ctx := { t.newCtx d x.rcb tr with
             regions := ps, colours := colours, allocs := staticRanges colours, summaries := places.flatMap fun r => t.summariesOf r.image r.locBase }
           admits { s1 with ctxs := s1.ctxs.set cid new, nextCid := (cid + 1) % 65536 }) ∧
         (x.reentry ≠ none → admits { s1 with ctxs := s1.ctxs.set cid (t.ctxOf d tr x places ps) })))) ∧
  (∀ (s : State) (d cid part : Nat) (again : Bool) (ps : List Placed) (p : Placed) (b : LoadBad) (x : Ctx),
     let loaded := (ps.map fun p => (p.cluster, p.slot)).foldl State.loadRegion s
     let told := match ps.map fun p => (p.cluster, p.slot) with
       | q :: _ => loaded.writeMembers q ps
       | [] => loaded
     let bound := if again then told else told.bindCtx cid ps
     (s.rejected d cid part ps = some (p, b) → s.loadCtx d cid again part ps = s.reject d cid p b) ∧
     (s.rejected d cid part ps = none → bound.unbound cid ps = some (p, b) → s.loadCtx d cid again part ps = bound.reject d cid p b) ∧
     (s.rejected d cid part ps = none → bound.unbound cid ps = none → s.loadCtx d cid again part ps = bound) ∧
     (s.ctx? cid = some x → s.reject d cid p b =
       (((((s.releaseCtx cid).dropCtx cid).setRcbState x.rcb 5).setRcbState p.rcb 5).dumpRecord d x.root x.dump 1 b.reason b.site b.slot b.at_ p.image
         p.rcb).signalPa x.done 1 stError))

/-- R197, R324, R326, R328, R329, R356, R364, R420, R422: the life of an admitted context: it sets up its regions one by one, as the meridian unit has room, each with its source pointstamps and a stream at its entry block, which must be a block; then they start.
One that was evicted goes on once its images can be read, their seals verify and everything recorded finds room. One whose streams have exited, whose sinks have ended and whose stamps are gone retires,
its resources back and done signalled OK; an ended one writes its image and is done FAULTED or ABORTED; an evicted one stops its streams and sends SNAP, and once it has recorded everything is written out and goes back to the queue.
The order of the set up rests on log 72, what a snapshot holds on logs 12, 27, 74 and 75, room for a restore on log 76, a sink's end on log 35, a job's end on log 77, the forced snapshot of an end on log 122. -/
def Obligations.ContextLife : Prop :=
  (∀ (s s1 : State) (cid c k : Nat) (x : Ctx) (r : Region) (code d : Nat) (a : DWord),
    s.ctx? cid = some x → s.region? c k = some r →
    let ups : List Upd := r.tiSource.map fun l => ⟨r.locBase + l, Time.zero, 1⟩
    let who := 4096 * c + 3584 + k
    let entry := if r.entry = 0 then s.rcb x.rcb 0x40 else r.entry
    (r.setUp = true ∨ x.ending.isSome = true → s.setUpRegion cid (c, k) = s) ∧
    (r.setUp = false → x.ending = none →
      (s.muRoom cid ups false = false → s.setUpRegion cid (c, k) = s.muWait cid who ups false) ∧
      (s.muRoom cid ups false = true →
        (s.checkJump c k entry = (s1, some (code, d, a)) →
          s.setUpRegion cid (c, k) = if code = 0 then s1 else s1.faultEnd cid code d entry a 0) ∧
        (s.checkJump c k entry = (s1, none) →
          s.setUpRegion cid (c, k) = ((((s1.muApply cid ups).muGo cid who ups).modStream c k fun _ =>
            { startStream entry r.eff.trapvec (s.rcb x.rcb 0x78) (s.rcb x.rcb 0x80) with phase := .idle }).modRegion c k fun r =>
              { r with setUp := true }).modCtx cid fun y => { y with sources := ups.foldl (fun m u => m.set u.loc [u.time]) y.sources })))) ∧
  (∀ (s : State) (cid : Nat) (x : Ctx),
    s.ctx? cid = some x →
    let rcbs := x.rcb :: x.regions.map Placed.rcb
    (x.regions ≠ [] → x.ending = none → x.running = false → x.saved = [] →
      let t := x.places.foldl (fun s q => s.setUpRegion cid q) s
      let go (s : State) (q : Nat × Nat) : State :=
        (s.modStream q.1 q.2 fun st => { st with phase := .ready }).modRegion q.1 q.2 fun r => { r with started := true }
      ((∀ q ∈ x.places, ∃ r, t.region? q.1 q.2 = some r ∧ r.setUp = true) → (∃ y, t.ctx? cid = some y ∧ y.ending = none) →
        exec (.contextStart cid) s = .next ((x.places.foldl go (rcbs.foldl (fun s a => s.setRcbState a 3) t)).modCtx cid fun y => { y with running := true })) ∧
      ((∃ q ∈ x.places, ∀ r, t.region? q.1 q.2 = some r → r.setUp = false) → exec (.contextStart cid) s = .next t)) ∧
    (x.regions ≠ [] → x.ending = none → x.running = false → x.saved ≠ [] →
      let n := x.saved.length
      let place (i : Nat) : Nat × Nat := x.places.getD i (0, 0)
      let ok (i : Nat) : Bool := s.sealOk (place i).1 x (x.part? n i).1
      let ups := x.savedStamps.map fun p => (⟨p.loc, p.time, p.count⟩ : Upd)
      let who := 4096 * (place 0).1 + 3588
      let begun := x.saved.all fun v => v.region.started
      ((s.imagesReady x).2 = false → exec (.contextStart cid) s = .next (s.imagesReady x).1) ∧
      ((s.imagesReady x).2 = true →
        (∀ i < n, ok i = false → (∀ j < i, ok j = true) → exec (.contextStart cid) s = .next (s.faultEnd cid 0x0A 2 0 (x.part? n i).1 0)) ∧
        ((∀ i < n, ok i = true) →
          (s.muRoom cid ups false = false → exec (.contextStart cid) s = .next (s.muWait cid who ups false)) ∧
          (s.muRoom cid ups false = true →
            ((∃ e ∈ x.saved.zip x.places, s.restoreFits e.1 e.2 = false) → exec (.contextStart cid) s = .next s) ∧
            ((∀ e ∈ x.saved.zip x.places, s.restoreFits e.1 e.2 = true) →
              let t := (x.saved.zip x.places).foldl (fun s e => s.restoreRegion e.1 e.2) ((s.muApply cid ups).muGo cid who ups)
              let u := if begun then rcbs.foldl (fun s a => s.setRcbState a 3) t else t
              exec (.contextStart cid) s = .next ((u.farDone (farSched x.rcb)).modCtx cid fun y =>
                { y with running := begun, saved := [], savedStamps := [] })))))) ∧
    (s.mayRetire cid x = true →
      exec (.retire cid) s = .next (((rcbs.foldl (fun s a => s.setRcbState a 4) ((s.releaseCtx cid).dropCtx cid)).signalPa x.done 1 stOk).jobDone x.job)) ∧
    (s.mayRetire cid x = true ↔ x.ending = none ∧ x.regions ≠ [] ∧ x.saved = [] ∧ s.stampsOf cid = [] ∧
      ∀ q ∈ x.places, (s.stream q.1 q.2).phase = .exited ∧ s.sinksEnded q = true) ∧
    (∀ code detail blk addr idx killed, x.ending = some (code, detail, blk, addr, idx, killed) →
      let i : ImageInfo :=
        { kind := if killed then 2 else 1, cause := detail % 256 * 256 + code % 256, blk := if killed then 0 else blk,
          idx := if killed then 0 else idx, addr := if killed then 0 else addr }
      let r := s.imageReady cid x
      (r.2 = false → exec (.postMortemComplete cid) s = .next r.1) ∧
      (r.2 = true → exec (.postMortemComplete cid) s = .next ((rcbs.foldl (fun s a => s.setRcbState a 5)
        (((((r.1.writeImages cid x i).farDone (farSched x.rcb)).dropRecords cid).releaseCtx cid).dropCtx cid)).signalPa x.done 1
          (if killed then stAborted else stFaulted)))) ∧
    (x.evicting = true → x.regions ≠ [] → x.ending = none → x.saved = [] →
      let rs := x.places.filterMap fun q => (s.region? q.1 q.2).map fun r => (q, r)
      let mayStop := x.colls = [] ∧ ∀ q ∈ x.places, s.canStop q.1 q.2 = true ∧ s.issuedDone q.1 q.2 = true
      ((∃ e ∈ rs, e.2.snapSent = false) →
        (¬mayStop ∨ s.injectSnaps cid x = none → exec (.evictionComplete cid) s = .next s) ∧
        (∀ t, mayStop → s.injectSnaps cid x = some t →
          let stop (s : State) (q : Nat × Nat) : State :=
            let u := if (s.stream q.1 q.2).phase = .inBlock ∨ (s.stream q.1 q.2).phase = .committing then s.count q.1 3 q.2 else s
            (u.farDrop q.1 q.2).modStream q.1 q.2 Stream.stopped
          exec (.evictionComplete cid) s = .next (x.places.foldl stop t))) ∧
      ((∀ e ∈ rs, e.2.snapSent = true) → x.places.all s.regionRecorded = false →
        exec (.evictionComplete cid) s = .next (x.places.foldl (fun s q => s.forwardMx cid q) s)) ∧
      ((∀ e ∈ rs, e.2.snapSent = true) → x.places.all s.regionRecorded = true →
        let r := s.imageReady cid x
        let t := ((((r.1.writeImages cid x { kind := 3 }).farDone (farSched x.rcb)).dropRecords cid).releaseCtx cid).modCtx cid fun y =>
          { y with
            regions := [], running := false, saved := rs.map (fun e => s.saveRegion e.1 e.2), savedStamps := s.stampsOf cid, ranges := [] }
        (r.2 = false → exec (.evictionComplete cid) s = .next r.1) ∧
        (r.2 = true → exec (.evictionComplete cid) s = .next
          (((rcbs.foldl (fun s a => s.setRcbState a 1) t).requeue x.die x.rcb).countDie x.die 0x107)))))

end
end

