-- ==== Sys2Proof/Laws/Memory.lean ====
section
/-! SUPPORT. Laws of sparse tables and of memory: a value set at a key is found there and nowhere else, and every operation keeps the canonical form. -/
namespace Sys2Proof

namespace Map

variable {α : Type}

@[simp] theorem find?_del_self (m : Map α) (k : Nat) : (m.del k).find? k = none := by
  induction m with
  | nil => rfl
  | cons e r ih =>
    obtain ⟨j, v⟩ := e
    by_cases h : j = k <;> simp [del, find?, h, ih]

theorem find?_del_ne (m : Map α) {j k : Nat} (h : j ≠ k) : (m.del k).find? j = m.find? j := by
  induction m with
  | nil => rfl
  | cons e r ih =>
    obtain ⟨i, v⟩ := e
    by_cases hi : i = k
    · subst hi; simp [del, find?, ih, Ne.symm h]
    · simp only [del, hi, if_false, find?, ih]

theorem find?_place_self (m : Map α) (k : Nat) (v : α) (h : m.find? k = none) : (m.place k v).find? k = some v := by
  induction m with
  | nil => simp [place, find?]
  | cons e r ih =>
    obtain ⟨j, w⟩ := e
    by_cases hj : j = k
    · simp [find?, hj] at h
    · by_cases hk : k < j
      · simp [place, find?, hk]
      · simp [find?, hj] at h
        simp [place, find?, hk, hj, ih h]

theorem find?_place_ne (m : Map α) {j k : Nat} (v : α) (h : j ≠ k) : (m.place k v).find? j = m.find? j := by
  induction m with
  | nil => simp [place, find?, Ne.symm h]
  | cons e r ih =>
    obtain ⟨i, w⟩ := e
    by_cases hk : k < i
    · simp [place, find?, hk, Ne.symm h]
    · simp only [place, hk, if_false, find?, ih]

/-- What is set at a key is found there. -/
@[simp] theorem find?_set_self (m : Map α) (k : Nat) (v : α) : (m.set k v).find? k = some v :=
  find?_place_self _ _ _ (find?_del_self m k)

/-- Setting one key leaves every other. -/
theorem find?_set_ne (m : Map α) {j k : Nat} (v : α) (h : j ≠ k) : (m.set k v).find? j = m.find? j := by
  rw [set, find?_place_ne _ _ h, find?_del_ne _ h]

theorem find?_set (m : Map α) (j k : Nat) (v : α) : (m.set k v).find? j = if j = k then some v else m.find? j := by
  by_cases h : j = k
  · subst h; simp
  · simp [h, find?_set_ne]

theorem get_set (d : α) (m : Map α) (j k : Nat) (v : α) : (m.set k v).get d j = if j = k then v else m.get d j := by
  unfold get; rw [find?_set]; split <;> rfl

@[simp] theorem get_set_self (d : α) (m : Map α) (k : Nat) (v : α) : (m.set k v).get d k = v := by simp [get]

theorem get_mod (d : α) (m : Map α) (j k : Nat) (f : α → α) : (m.mod d k f).get d j = if j = k then f (m.get d k) else m.get d j := by
  unfold mod; rw [get_set]

@[simp] theorem get_mod_self (d : α) (m : Map α) (k : Nat) (f : α → α) : (m.mod d k f).get d k = f (m.get d k) := by simp [mod]

theorem get_del (d : α) (m : Map α) (j k : Nat) : (m.del k).get d j = if j = k then d else m.get d j := by
  unfold get
  by_cases h : j = k
  · subst h; simp
  · simp [h, find?_del_ne]

/-- Putting a value, the default too, is read back. -/
theorem get_put [DecidableEq α] (d : α) (m : Map α) (j k : Nat) (v : α) : (m.put d k v).get d j = if j = k then v else m.get d j := by
  unfold put
  split
  · next h => rw [get_del, h]
  · rw [get_set]

/-! ### The canonical form -/

/-- Every key of a table lies above `a`. -/
def above (a : Nat) (m : Map α) : Prop := ∀ e ∈ m, a < e.1

theorem sorted_cons {e : Nat × α} {r : Map α} : sorted (e :: r) = true ↔ above e.1 r ∧ sorted r = true := by
  induction r generalizing e with
  | nil => simp [sorted, above]
  | cons f r ih =>
    obtain ⟨j, v⟩ := e
    obtain ⟨k, w⟩ := f
    simp only [sorted, Bool.and_eq_true, decide_eq_true_eq, above, List.mem_cons, forall_eq_or_imp]
    constructor
    · rintro ⟨h, hs⟩
      refine ⟨⟨h, fun e he => ?_⟩, hs⟩
      exact Nat.lt_trans h ((ih.mp hs).1 e he)
    · rintro ⟨⟨h, _⟩, hs⟩
      exact ⟨h, hs⟩

theorem mem_del {m : Map α} {k : Nat} {e : Nat × α} (h : e ∈ m.del k) : e ∈ m := by
  induction m with
  | nil => simp [del] at h
  | cons f r ih =>
    obtain ⟨j, v⟩ := f
    by_cases hj : j = k
    · simp [del, hj] at h; exact .tail _ (ih h)
    · simp [del, hj] at h
      rcases h with rfl | h
      · exact .head _
      · exact .tail _ (ih h)

theorem mem_place {m : Map α} {k : Nat} {v : α} {e : Nat × α} (h : e ∈ m.place k v) : e = (k, v) ∨ e ∈ m := by
  induction m with
  | nil => simp [place] at h; exact .inl h
  | cons f r ih =>
    obtain ⟨j, w⟩ := f
    by_cases hk : k < j
    · simp [place, hk] at h
      rcases h with h | h | h
      · exact .inl h
      · exact .inr (h ▸ .head _)
      · exact .inr (.tail _ h)
    · simp [place, hk] at h
      rcases h with h | h
      · exact .inr (h ▸ .head _)
      · exact (ih h).imp id (.tail _)

theorem sorted_del {m : Map α} (k : Nat) (h : sorted m = true) : sorted (m.del k) = true := by
  induction m with
  | nil => rfl
  | cons e r ih =>
    obtain ⟨j, v⟩ := e
    obtain ⟨ha, hs⟩ := sorted_cons.mp h
    by_cases hj : j = k
    · simp [del, hj, ih hs]
    · simp only [del, hj, if_false]
      exact sorted_cons.mpr ⟨fun e he => ha e (mem_del he), ih hs⟩

theorem sorted_place {m : Map α} (k : Nat) (v : α) (h : sorted m = true) (hk : Map.find? m k = none) : sorted (m.place k v) = true := by
  induction m with
  | nil => rfl
  | cons e r ih =>
    obtain ⟨j, w⟩ := e
    obtain ⟨ha, hs⟩ := sorted_cons.mp h
    have hj : j ≠ k := fun hj => by simp [find?, hj] at hk
    have hr : Map.find? r k = none := by simpa [find?, hj] using hk
    by_cases hlt : k < j
    · simp only [place, hlt, if_true]
      refine sorted_cons.mpr ⟨fun e he => ?_, h⟩
      rcases List.mem_cons.mp he with rfl | he
      · exact hlt
      · exact Nat.lt_trans hlt (ha e he)
    · simp only [place, hlt, if_false]
      refine sorted_cons.mpr ⟨fun e he => ?_, ih hs hr⟩
      rcases mem_place he with rfl | he
      · exact Nat.lt_of_le_of_ne (Nat.le_of_not_lt hlt) hj
      · exact ha e he

/-- Setting a key keeps the keys rising. -/
theorem sorted_set {m : Map α} (k : Nat) (v : α) (h : sorted m = true) : sorted (m.set k v) = true :=
  sorted_place k v (sorted_del k h) (find?_del_self m k)

/-- Putting a value keeps the canonical form. -/
theorem wf_put [DecidableEq α] {d : α} {m : Map α} (k : Nat) (v : α) (h : wf d m = true) : wf d (m.put d k v) = true := by
  simp only [wf, Bool.and_eq_true, List.all_eq_true, decide_eq_true_eq] at h ⊢
  unfold put
  split
  · exact ⟨sorted_del k h.1, fun e he => h.2 e (mem_del he)⟩
  · next hv =>
    refine ⟨sorted_set k v h.1, fun e he => ?_⟩
    rcases mem_place he with rfl | he
    · exact hv
    · exact h.2 e (mem_del he)

end Map

namespace Machine

/-! ### Memory -/

/-- A byte reads as the last value written to it, and every other byte as before. -/
theorem readByte_writeByte (m : List Host.Cell) (a k : Nat) (v : Byte) : readByte (writeByte m k v) a = if a = k then v else readByte m a :=
  Map.get_put memBlank m a k v

/-- A write of one byte keeps the canonical form. -/
theorem wf_writeByte {m : List Host.Cell} (k : Nat) (v : Byte) (h : Memory.wf m = true) : Memory.wf (writeByte m k v) = true := Map.wf_put k v h

/-- A write of any size keeps the canonical form. -/
theorem wf_writeLe {m : List Host.Cell} (k n v : Nat) (h : Memory.wf m = true) : Memory.wf (writeLe m k n v) = true := by
  induction n generalizing m k v with
  | zero => exact h
  | succ n ih => exact ih _ _ (wf_writeByte k _ h)

theorem wf_wr {s : State} (k n v : Nat) (h : Memory.wf s.mem = true) : Memory.wf (s.wr k n v).mem = true := wf_writeLe k n v h

theorem wf_wr64 {s : State} (k : Nat) (v : DWord) (h : Memory.wf s.mem = true) : Memory.wf (s.wr64 k v).mem = true := wf_writeLe k 8 _ h

/-- A transfer to another node leaves this module's memory alone. -/
theorem farTransfer_mem (s : State) (k : Nat) (l : List DWord) (o : Bool) : (s.farTransfer k l o).mem = s.mem := rfl

/-- The protection a line was written with is no part of its bytes (R123). -/
theorem setProt_mem (s : State) (k n f : Nat) : (s.setProt k n f).mem = s.mem := by
  unfold State.setProt; split <;> rfl

/-- Counting an access of HBM leaves its bytes alone. -/
theorem countHbm_mem (s : State) (k : Nat) (w : Bool) : (s.countHbm k w).mem = s.mem := by
  unfold State.countHbm; split <;> rfl

/-- A write by anyone but the scheduler writes the bytes that are not the scheduler's own (R31). -/
theorem wrKeep_mem (s : State) (k n v : Nat) : (s.wrKeep k n v).mem = writeLe s.mem k n (s.kept k n v) := rfl

/-- Where none of the bytes is the scheduler's own, it is the plain write. -/
theorem wrKeep_eq_wr {s : State} {k n : Nat} (v : Nat) (h : ∀ i, i < n → s.roByte (k + i) = false) : s.wrKeep k n v = s.wr k n v := by
  have : ((List.range n).any fun i => s.roByte (k + i)) = false := by simpa [List.any_eq_false] using h
  simp [State.wrKeep, State.kept, this]

theorem wf_wrKeep {s : State} (k n v : Nat) (h : Memory.wf s.mem = true) : Memory.wf (s.wrKeep k n v).mem = true := wf_writeLe k n _ h

/-- A write at its home keeps the canonical form. -/
theorem wf_wrAt {s : State} (r va : DWord) (k n v : Nat) (h : Memory.wf s.mem = true) : Memory.wf (s.wrAt r va k n v).mem = true := by
  unfold State.wrAt
  split
  · exact h
  · rw [setProt_mem]; exact wf_wrKeep k n v h

/-- A signal keeps the canonical form. -/
theorem wf_signal {s : State} (r va : DWord) (k i c : Nat) (h : Memory.wf s.mem = true) : Memory.wf (s.signal r va k i c).mem = true := by
  unfold State.signal
  split
  · exact h
  · split
    · rwa [farTransfer_mem]
    · rw [countHbm_mem, setProt_mem]; exact wf_wrKeep _ _ _ h

/-- Memory is in canonical form right after reset. -/
theorem wf_reset : Memory.wf State.reset.mem = true := rfl

end Machine
end Sys2Proof
end

