-- ==== Sys2Proof/Laws/Ops.lean ====
section
/-! SUPPORT. What the shared operations of the meanings can do, said once for each: a caller cites the lemma and does not unfold the operation. -/
namespace Sys2Proof.Machine

/-! ### The end of a sequencer instruction -/

/-- An instruction that only changes the block view goes on, where it is not the last of its block or a header follows (R49, R354). -/
theorem seqPure_eq_advance {s : State} {f : Stream → Stream} (hs : s.CanAdvance) (h1 : (f s.me).idx = s.me.idx) (h2 : (f s.me).len = s.me.len)
    (h3 : (f s.me).fallThrough = s.me.fallThrough) : s.seqPure f = s.advance (f s.me) := by
  unfold State.seqPure State.retire State.advance
  rw [h1, h2, h3]
  by_cases h : s.me.idx + 1 < s.me.len
  · simp [h]
  · have hn := hs.resolve_left h
    simp only [h, if_false]
    split
    · next e => rw [e] at hn; simp at hn
    · next e => rw [e] at hn; simp at hn
    · next e => rw [e]

/-- The form in which a result statement uses `seqPure_eq_advance`. -/
theorem goesOn_of_seqPure {s : State} {o : Out} {f : Stream → Stream} {st : Stream} (hs : s.CanAdvance) (h : o = .next (s.seqPure f))
    (hf : f s.me = st) (h1 : st.idx = s.me.idx := by rfl) (h2 : st.len = s.me.len := by rfl)
    (h3 : st.fallThrough = s.me.fallThrough := by rfl) : GoesOn s o st := by
  subst hf; unfold GoesOn; rw [h, seqPure_eq_advance hs h1 h2 h3]

/-- A taken transfer to a block header (R49, R354). -/
theorem transfer_eq_branch {s : State} {st : Stream} {target : DWord} (h : s.CanBranch target) : s.transfer st target = s.branch st target := by
  unfold State.transfer State.branch
  unfold State.CanBranch at h
  simp only
  split
  · next e => rw [e] at h; simp at h
  · next e => rw [e] at h; simp at h
  · next e => rw [e]

/-! ### Reads of memory -/

@[simp] theorem touchLine_mem (s : State) (k : Nat) : (s.touchLine k).1.mem = s.mem := by
  unfold State.touchLine
  split <;> first | rfl | (split <;> rfl)

/-- Reading lines never changes what they hold. -/
@[simp] theorem touch_mem (s : State) (k n : Nat) : (s.touch k n).1.mem = s.mem := by
  unfold State.touch
  simp only
  generalize List.range ((k + n - 1) / 64 + 1 - k / 64) = l
  suffices h : ∀ (l : List Nat) (a : State × Nat), a.1.mem = s.mem →
      (l.foldl (fun (a : State × Nat) i =>
        ((a.1.touchLine ((k / 64 + i) * 64)).1, Nat.max a.2 (a.1.touchLine ((k / 64 + i) * 64)).2)) a).1.mem = s.mem from h l (s, 0) rfl
  intro l
  induction l with
  | nil => exact fun _ h => h
  | cons i r ih => exact fun a h => ih _ ((touchLine_mem _ _).trans h)

/-- A walk of the tables never changes memory. -/
@[simp] theorem walkFrom_mem (s : State) (va : DWord) (n lvl table : Nat) : (walkFrom s va n lvl table).1.mem = s.mem := by
  induction n generalizing s lvl table with
  | zero => rfl
  | succ n ih =>
    unfold walkFrom
    simp only
    have ht : (s.touchLine (hbm (entryAt table lvl va))).1.mem = s.mem := touchLine_mem _ _
    have hc : ((s.touchLine (hbm (entryAt table lvl va))).1.countHbm (hbm (entryAt table lvl va)) false).mem = s.mem :=
      (countHbm_mem _ _ _).trans ht
    repeat' split
    all_goals first | exact ht | exact hc | exact (ih _ _ _).trans hc

/-- An arm of a barrier keeps the canonical form of memory. -/
theorem wf_arm {s : State} (k : Nat) (e : DWord) (b : Bool) (h : Memory.wf s.mem = true) : Memory.wf (s.arm k e b).mem = true :=
  wf_wrKeep _ _ _ (wf_wrKeep _ _ _ (wf_wrKeep _ _ _ h))

/-! ### Accesses of another node -/

/-- Asking another node, and waiting for its answer, leaves this module's memory alone. -/
theorem farAsk_mem (s : State) (who k n : Nat) (q : FarReq) : (s.farAsk who k n q).1.mem = s.mem := by
  unfold State.farAsk
  split
  · rfl
  · cases q <;> rfl

/-- What is asked once is not sent again: the same asking answers what has come. -/
theorem farAsk_again {s : State} {who k n : Nat} {q : FarReq} {r : FarRead}
    (h : (s.farReads.find? fun r => decide (r.who = who) && decide (r.key = k) && decide (r.n = n) && decide (r.write = q.isWrite)) = some r) :
    s.farAsk who k n q = (s, r.answer) := by
  unfold State.farAsk; rw [h]

/-! ### Translation -/

/-- An access waits where the tables of its root are not ready (R25). -/
theorem translate_waits {s : State} {c : Nat} {ag : Bool} {root va : DWord} {acc : Access} (h : s.homeReady (hbm root.toNat) = false) :
    s.translate c ag root va acc = (s, .error (0, 0)) := by
  unfold State.translate; simp [h]

/-- An address that an access reaches is canonical, and its home is ready (R25, R119). -/
theorem translate_ok {s s1 : State} {c : Nat} {ag : Bool} {root va : DWord} {acc : Access} {key : Nat}
    (h : s.translate c ag root va acc = (s1, .ok key)) : canonical va = true ∧ s1.homeReady key = true ∧ s.homeReady (hbm root.toNat) = true := by
  unfold State.translate at h
  split at h
  · cases h
  · next hr =>
    split at h
    · next k hk =>
      split at h
      · next hh =>
        cases h
        refine ⟨?_, hh, by simpa using hr⟩
        unfold State.lookup at hk
        split at hk
        · cases hk
        · next hc => simpa using hc
      · cases h
    · cases h

/-! ### Firings -/

theorem withTok_at (f : Firing) (p : Nat) (t : Option Token) :
    (f.withTok p t).c = f.c ∧ (f.withTok p t).k = f.k ∧ (f.withTok p t).site = f.site ∧ (f.withTok p t).slot = f.slot := by
  unfold Firing.withTok; split <;> exact ⟨rfl, rfl, rfl, rfl⟩

/-- A slot's firing is a firing of that slot. -/
theorem readyAt_at {s : State} {c site k slot : Nat} {f : Firing} (h : s.readyAt c site k slot = some f) :
    f.c = c ∧ f.k = k ∧ f.site = site ∧ f.slot = slot := by
  let P (f : Firing) : Prop := f.c = c ∧ f.k = k ∧ f.site = site ∧ f.slot = slot
  have hw : ∀ (g : Firing) (p : Nat) (t : Option Token), P g → P (g.withTok p t) := fun g p t hg => by
    obtain ⟨a, b, d, e⟩ := withTok_at g p t
    exact ⟨a.trans hg.1, b.trans hg.2.1, d.trans hg.2.2.1, e.trans hg.2.2.2⟩
  have hf : ∀ (l : List (Nat × Token)) (g : Firing), P g → P (g.withToks l) := by
    intro l
    unfold Firing.withToks
    induction l with
    | nil => exact fun _ h => h
    | cons t r ih => exact fun g hg => ih _ (hw g _ _ hg)
  have ho : ∀ (e : Elem) (hd : Nat → Option Token) (l : List Nat) (o : Option Firing), (∀ g, o = some g → P g) →
      ∀ g, l.foldl (fun (o : Option Firing) p => match o, hd p with
        | some g, some t => some (g.withTok p (some (e.scaled p t)))
        | _, _ => none) o = some g → P g := by
    intro e hd l
    induction l with
    | nil => exact fun _ h => h
    | cons p r ih =>
      refine fun o hp => ih _ ?_
      intro g hg
      simp only at hg
      split at hg
      · cases hg; exact hw _ _ _ (hp _ rfl)
      · cases hg
  have h0 : ∀ info : SlotInfo, P { c := c, k := k, site := site, slot := slot, info := info } := fun _ => ⟨rfl, rfl, rfl, rfl⟩
  suffices hh : P f from hh
  unfold State.readyAt at h
  dsimp only at h
  repeat' split at h
  all_goals first
    | contradiction
    | (obtain ⟨q, _, rfl⟩ := Option.map_eq_some_iff.mp h
       first
         | exact ⟨rfl, rfl, rfl, rfl⟩
         | exact hw _ _ _ (h0 _)
         | exact hf _ _ (hw _ _ _ (h0 _))
         | exact hf _ _ (h0 _))
    | (cases h; exact hf _ _ (h0 _))
    | exact ho _ (fun p => Option.filter _ (Elem.headFor _ slot p _)) _ _
        (fun g hg => by cases hg; first | exact hw _ _ _ (h0 _) | exact h0 _) _ h

/-- The element that a firing belongs to. -/
theorem elemOf_eq {s : State} {f : Firing} {e : Elem} (h : s.CanFire f e) : s.elemOf f = e := by
  obtain ⟨hc, hk, hs, _⟩ := readyAt_at h.ready
  unfold State.elemOf; rw [hc, hs, hk, h.elem]; rfl

theorem slotOf_eq {s : State} {f : Firing} {e : Elem} (h : s.CanFire f e) : s.slotOf f = e.slot f.slot := by
  unfold State.slotOf; rw [elemOf_eq h]

/-- What a firing does up to its operation, once it can fire (R44, R58, R244, R245). -/
theorem fireSlot_eq {s : State} {f : Firing} {e : Elem} (h : s.CanFire f e) (g : State → Firing → Res) :
    s.fireSlot g = match g s f with
      | .wait => s
      | .hold st => st
      | .err code n => if e.room f.slot 0 then s.finish f (s.failed f code n) else s
      | .ok r => if r.outs.any (fun o => r.st.widthBad s.cur.cluster s.cur.ctx o.2)
          then (if e.room f.slot 0 then s.finish f (s.failed f 2 1) else s)
          else if s.locBusy f r then s else s.finish f r := by
  unfold State.fireSlot
  simp only [h.ready, h.elem]
  have hr : (f.info.needs.any fun o => !(e.room f.slot o)) = false := by
    have hr := h.room
    simp only [List.all_eq_true, List.any_eq_false] at *
    intro o ho; simp [hr o ho]
  simp only [hr, h.shallow, Bool.false_eq_true, if_false]
  all_goals rfl

/-- A slot whose operation has a result fires with it. -/
theorem fires_of {s : State} {i : Instr} {f : Firing} {e : Elem} {g : State → Firing → Res} {r : FireOk} (h : s.CanFire f e)
    (hi : exec i s = fire s g) (hg : g s f = .ok r) : Fires s i f r := by
  intro hw hl hm
  rw [hi, fire, fireSlot_eq h, hg]
  have : (r.outs.any fun o => r.st.widthBad s.cur.cluster s.cur.ctx o.2) = false := by
    simp only [List.any_eq_false]
    intro o ho; simp [hw o ho]
  simp [this, hl, State.finish, hm]

/-- A slot whose operation meets a condition of Table 18.7 fails with its code. -/
theorem fails_of {s : State} {i : Instr} {f : Firing} {e : Elem} {g : State → Firing → Res} {code n : Nat} (h : s.CanFire f e)
    (hi : exec i s = fire s g) (hg : g s f = .err code n) : Fails s i f e code n := by
  intro hro hm
  rw [hi, fire, fireSlot_eq h, hg]
  simp only [hro, if_true, State.finish, hm]
  rfl

/-- A slot whose operation begins a run holds its operands. -/
theorem begins_of {s t : State} {i : Instr} {f : Firing} {e : Elem} {g : State → Firing → Res} (h : s.CanFire f e)
    (hi : exec i s = fire s g) (hg : g s f = .hold t) : Begins s i t := by
  unfold Begins; rw [hi, fire, fireSlot_eq h, hg]

/-- An element-wise operation. -/
theorem maps_of {s : State} {i : Instr} {f : Firing} {e : Elem} {g : CeEnv → Nat → El → El → El → Nat} (h : s.CanFire f e)
    (hi : exec i s = fire s (ceMap g)) : Maps s i f e g := by
  intro a ha hb
  refine fires_of h hi ?_
  simp only [ceMap, ha, elemOf_eq h, hb]; rfl

/-! ### Matrix commands -/

/-- An MX command that is not refused runs. -/
theorem mxRun_eq {s : State} {ok : MxCmd → Bool} {body : MxCmd → State} {h : MxCmd} (hh : s.mxHead s.cur.cluster = some h) (hr : h.refused = false)
    (ho : ok h = true) : mxRun s ok body = .next (body h) := by
  unfold mxRun; simp [hh, hr, ho]

end Sys2Proof.Machine
end

