-- ==== Sys2Proof/Laws/PerInstr.lean ====
section
/-! SUPPORT. Per instruction: the word classes that it has an encoding in. -/
namespace Sys2Proof.Laws.Codes

/-- In how many word classes an instruction has an encoding: sequencer, CE, ME, wave, MX. -/
def classes (i : Instr) : Nat :=
  (encodeSeq i).isSome.toNat + i.ce?.isSome.toNat + i.me?.isSome.toNat + i.isWave.toNat + i.mx?.isSome.toNat

/-- An instruction has an encoding in at most one word class. -/
def Statement (i : Instr) : Prop := Nat.ble (classes i) 1 = true

theorem add (d : BitVec 6) (a : BitVec 6) (b : BitVec 6) : Statement (.add d a b) := rfl
theorem sub (d : BitVec 6) (a : BitVec 6) (b : BitVec 6) : Statement (.sub d a b) := rfl
theorem mul (d : BitVec 6) (a : BitVec 6) (b : BitVec 6) : Statement (.mul d a b) := rfl
theorem mulh (d : BitVec 6) (a : BitVec 6) (b : BitVec 6) : Statement (.mulh d a b) := rfl
theorem mulhn (d : BitVec 6) (a : BitVec 6) (b : BitVec 6) : Statement (.mulhn d a b) := rfl
theorem div (d : BitVec 6) (a : BitVec 6) (b : BitVec 6) : Statement (.div d a b) := rfl
theorem divn (d : BitVec 6) (a : BitVec 6) (b : BitVec 6) : Statement (.divn d a b) := rfl
theorem rem (d : BitVec 6) (a : BitVec 6) (b : BitVec 6) : Statement (.rem d a b) := rfl
theorem remn (d : BitVec 6) (a : BitVec 6) (b : BitVec 6) : Statement (.remn d a b) := rfl
theorem adds (d : BitVec 6) (a : BitVec 6) (b : BitVec 6) : Statement (.adds d a b) := rfl
theorem subs (d : BitVec 6) (a : BitVec 6) (b : BitVec 6) : Statement (.subs d a b) := rfl
theorem and (d : BitVec 6) (a : BitVec 6) (b : BitVec 6) : Statement (.and d a b) := rfl
theorem or (d : BitVec 6) (a : BitVec 6) (b : BitVec 6) : Statement (.or d a b) := rfl
theorem xor (d : BitVec 6) (a : BitVec 6) (b : BitVec 6) : Statement (.xor d a b) := rfl
theorem andn (d : BitVec 6) (a : BitVec 6) (b : BitVec 6) : Statement (.andn d a b) := rfl
theorem orn (d : BitVec 6) (a : BitVec 6) (b : BitVec 6) : Statement (.orn d a b) := rfl
theorem shl (d : BitVec 6) (a : BitVec 6) (b : BitVec 6) : Statement (.shl d a b) := rfl
theorem shr (d : BitVec 6) (a : BitVec 6) (b : BitVec 6) : Statement (.shr d a b) := rfl
theorem sra (d : BitVec 6) (a : BitVec 6) (b : BitVec 6) : Statement (.sra d a b) := rfl
theorem rol (d : BitVec 6) (a : BitVec 6) (b : BitVec 6) : Statement (.rol d a b) := rfl
theorem min (d : BitVec 6) (a : BitVec 6) (b : BitVec 6) : Statement (.min d a b) := rfl
theorem max (d : BitVec 6) (a : BitVec 6) (b : BitVec 6) : Statement (.max d a b) := rfl
theorem minn (d : BitVec 6) (a : BitVec 6) (b : BitVec 6) : Statement (.minn d a b) := rfl
theorem maxn (d : BitVec 6) (a : BitVec 6) (b : BitVec 6) : Statement (.maxn d a b) := rfl
theorem clz (d : BitVec 6) (a : BitVec 6) : Statement (.clz d a) := rfl
theorem ctz (d : BitVec 6) (a : BitVec 6) : Statement (.ctz d a) := rfl
theorem popc (d : BitVec 6) (a : BitVec 6) : Statement (.popc d a) := rfl
theorem brev (d : BitVec 6) (a : BitVec 6) : Statement (.brev d a) := rfl
theorem addi (d : BitVec 6) (a : BitVec 6) (i : BitVec 14) : Statement (.addi d a i) := rfl
theorem andi (d : BitVec 6) (a : BitVec 6) (i : BitVec 14) : Statement (.andi d a i) := rfl
theorem ori (d : BitVec 6) (a : BitVec 6) (i : BitVec 14) : Statement (.ori d a i) := rfl
theorem xori (d : BitVec 6) (a : BitVec 6) (i : BitVec 14) : Statement (.xori d a i) := rfl
theorem shli (d : BitVec 6) (a : BitVec 6) (n : BitVec 6) : Statement (.shli d a n) := rfl
theorem shri (d : BitVec 6) (a : BitVec 6) (n : BitVec 6) : Statement (.shri d a n) := rfl
theorem srai (d : BitVec 6) (a : BitVec 6) (n : BitVec 6) : Statement (.srai d a n) := rfl
theorem roli (d : BitVec 6) (a : BitVec 6) (n : BitVec 6) : Statement (.roli d a n) := rfl
theorem li (d : BitVec 6) (i : BitVec 20) : Statement (.li d i) := rfl
theorem lui (d : BitVec 6) (i : BitVec 20) : Statement (.lui d i) := rfl
theorem luh (d : BitVec 6) (i : BitVec 20) : Statement (.luh d i) := rfl
theorem cmp (p : BitVec 3) (c : BitVec 4) (a : BitVec 6) (b : BitVec 6) : Statement (.cmp p c a b) := rfl
theorem cmpi (p : BitVec 3) (c : BitVec 4) (a : BitVec 6) (i : BitVec 13) : Statement (.cmpi p c a i) := rfl
theorem sel (d : BitVec 6) (a : BitVec 6) (b : BitVec 6) (n : BitVec 1) (p : BitVec 3) : Statement (.sel d a b n p) := rfl
theorem pand (d : BitVec 3) (a : BitVec 3) (b : BitVec 3) : Statement (.pand d a b) := rfl
theorem por (d : BitVec 3) (a : BitVec 3) (b : BitVec 3) : Statement (.por d a b) := rfl
theorem pxor (d : BitVec 3) (a : BitVec 3) (b : BitVec 3) : Statement (.pxor d a b) := rfl
theorem pnot (d : BitVec 3) (a : BitVec 3) : Statement (.pnot d a) := rfl
theorem pmov (d : BitVec 3) (a : BitVec 3) : Statement (.pmov d a) := rfl
theorem pset (d : BitVec 3) : Statement (.pset d) := rfl
theorem pclr (d : BitVec 3) : Statement (.pclr d) := rfl
theorem ld (d : BitVec 6) (a : BitVec 6) (s : BitVec 2) (o : BitVec 12) : Statement (.ld d a s o) := rfl
theorem ldn (d : BitVec 6) (a : BitVec 6) (s : BitVec 2) (o : BitVec 12) : Statement (.ldn d a s o) := rfl
theorem st (d : BitVec 6) (a : BitVec 6) (s : BitVec 2) (o : BitVec 12) : Statement (.st d a s o) := rfl
theorem ldc (d : BitVec 6) (a : BitVec 6) (s : BitVec 1) (o : BitVec 12) : Statement (.ldc d a s o) := rfl
theorem lda (d : BitVec 6) (a : BitVec 6) (s : BitVec 2) (c : BitVec 2) (o : BitVec 10) : Statement (.lda d a s c o) := rfl
theorem stl (d : BitVec 6) (a : BitVec 6) (s : BitVec 2) (c : BitVec 2) (o : BitVec 10) : Statement (.stl d a s c o) := rfl
theorem amoAdd (d : BitVec 6) (a : BitVec 6) (b : BitVec 6) (c : BitVec 2) (s : BitVec 1) (o : BitVec 1) : Statement (.amoAdd d a b c s o) := rfl
theorem amoAnd (d : BitVec 6) (a : BitVec 6) (b : BitVec 6) (c : BitVec 2) (s : BitVec 1) (o : BitVec 1) : Statement (.amoAnd d a b c s o) := rfl
theorem amoOr (d : BitVec 6) (a : BitVec 6) (b : BitVec 6) (c : BitVec 2) (s : BitVec 1) (o : BitVec 1) : Statement (.amoOr d a b c s o) := rfl
theorem amoXor (d : BitVec 6) (a : BitVec 6) (b : BitVec 6) (c : BitVec 2) (s : BitVec 1) (o : BitVec 1) : Statement (.amoXor d a b c s o) := rfl
theorem amoMin (d : BitVec 6) (a : BitVec 6) (b : BitVec 6) (c : BitVec 2) (s : BitVec 1) (o : BitVec 1) : Statement (.amoMin d a b c s o) := rfl
theorem amoMax (d : BitVec 6) (a : BitVec 6) (b : BitVec 6) (c : BitVec 2) (s : BitVec 1) (o : BitVec 1) : Statement (.amoMax d a b c s o) := rfl
theorem amoMinn (d : BitVec 6) (a : BitVec 6) (b : BitVec 6) (c : BitVec 2) (s : BitVec 1) (o : BitVec 1) : Statement (.amoMinn d a b c s o) := rfl
theorem amoMaxn (d : BitVec 6) (a : BitVec 6) (b : BitVec 6) (c : BitVec 2) (s : BitVec 1) (o : BitVec 1) : Statement (.amoMaxn d a b c s o) := rfl
theorem amoSwap (d : BitVec 6) (a : BitVec 6) (b : BitVec 6) (c : BitVec 2) (s : BitVec 1) (o : BitVec 1) : Statement (.amoSwap d a b c s o) := rfl
theorem amoCas (d : BitVec 6) (a : BitVec 6) (b : BitVec 6) (c : BitVec 2) (s : BitVec 1) (o : BitVec 1) : Statement (.amoCas d a b c s o) := rfl
theorem amoFadd (d : BitVec 6) (a : BitVec 6) (b : BitVec 6) (c : BitVec 2) (o : BitVec 1) : Statement (.amoFadd d a b c o) := rfl
theorem fence (w : BitVec 1) (x : BitVec 1) (y : BitVec 1) (z : BitVec 1) (c : BitVec 2) : Statement (.fence w x y z c) := rfl
theorem fadd (d : BitVec 6) (a : BitVec 6) (b : BitVec 6) (f : BitVec 1) : Statement (.fadd d a b f) := rfl
theorem fsub (d : BitVec 6) (a : BitVec 6) (b : BitVec 6) (f : BitVec 1) : Statement (.fsub d a b f) := rfl
theorem fmul (d : BitVec 6) (a : BitVec 6) (b : BitVec 6) (f : BitVec 1) : Statement (.fmul d a b f) := rfl
theorem fdiv (d : BitVec 6) (a : BitVec 6) (b : BitVec 6) (f : BitVec 1) : Statement (.fdiv d a b f) := rfl
theorem fsqrt (d : BitVec 6) (a : BitVec 6) (f : BitVec 1) : Statement (.fsqrt d a f) := rfl
theorem fmin (d : BitVec 6) (a : BitVec 6) (b : BitVec 6) (f : BitVec 1) : Statement (.fmin d a b f) := rfl
theorem fmax (d : BitVec 6) (a : BitVec 6) (b : BitVec 6) (f : BitVec 1) : Statement (.fmax d a b f) := rfl
theorem fabs (d : BitVec 6) (a : BitVec 6) (f : BitVec 1) : Statement (.fabs d a f) := rfl
theorem fneg (d : BitVec 6) (a : BitVec 6) (f : BitVec 1) : Statement (.fneg d a f) := rfl
theorem ffma (d : BitVec 6) (a : BitVec 6) (b : BitVec 6) (c : BitVec 6) (f : BitVec 1) : Statement (.ffma d a b c f) := rfl
theorem fcmp (p : BitVec 3) (c : BitVec 4) (a : BitVec 6) (b : BitVec 6) (f : BitVec 1) : Statement (.fcmp p c a b f) := rfl
theorem fcvt (d : BitVec 6) (a : BitVec 6) (t : BitVec 4) (s : BitVec 4) : Statement (.fcvt d a t s) := rfl
theorem br (p : BitVec 3) (n : BitVec 1) (o : BitVec 22) : Statement (.br p n o) := rfl
theorem j (o : BitVec 26) : Statement (.j o) := rfl
theorem call (o : BitVec 26) : Statement (.call o) := rfl
theorem jr (a : BitVec 6) : Statement (.jr a) := rfl
theorem callr (a : BitVec 6) : Statement (.callr a) := rfl
theorem tmov (d : BitVec 3) (a : BitVec 3) : Statement (.tmov d a) := rfl
theorem tset (d : BitVec 3) (c : BitVec 2) (x : BitVec 6) : Statement (.tset d c x) := rfl
theorem tget (a : BitVec 3) (c : BitVec 2) (x : BitVec 6) : Statement (.tget a c x) := rfl
theorem tinc (d : BitVec 3) (a : BitVec 3) (c : BitVec 2) (x : BitVec 6) : Statement (.tinc d a c x) := rfl
theorem tjoin (d : BitVec 3) (a : BitVec 3) (b : BitVec 3) : Statement (.tjoin d a b) := rfl
theorem tmeet (d : BitVec 3) (a : BitVec 3) (b : BitVec 3) : Statement (.tmeet d a b) := rfl
theorem tle (a : BitVec 3) (b : BitVec 3) (p : BitVec 3) : Statement (.tle a b p) := rfl
theorem tlt (a : BitVec 3) (b : BitVec 3) (p : BitVec 3) : Statement (.tlt a b p) := rfl
theorem teq (a : BitVec 3) (b : BitVec 3) (p : BitVec 3) : Statement (.teq a b p) := rfl
theorem tadv (d : BitVec 3) (a : BitVec 3) (c : BitVec 2) (x : BitVec 6) : Statement (.tadv d a c x) := rfl
theorem tinci (d : BitVec 3) (a : BitVec 3) (c : BitVec 2) (n : BitVec 6) : Statement (.tinci d a c n) := rfl
theorem hzld (h : BitVec 3) (x : BitVec 6) : Statement (.hzld h x) := rfl
theorem hzwait (a : BitVec 3) (h : BitVec 3) : Statement (.hzwait a h) := rfl
theorem hzpub (h : BitVec 3) (x : BitVec 6) : Statement (.hzpub h x) := rfl
theorem hzle (a : BitVec 3) (h : BitVec 3) (p : BitVec 3) : Statement (.hzle a h p) := rfl
theorem hzget (h : BitVec 3) (x : BitVec 6) : Statement (.hzget h x) := rfl
theorem hztime (d : BitVec 3) (h : BitVec 3) (e : BitVec 3) : Statement (.hztime d h e) := rfl
theorem enqMx (a : BitVec 6) (b : BitVec 6) (c : BitVec 6) : Statement (.enqMx a b c) := rfl
theorem enqAg (a : BitVec 6) (b : BitVec 6) (c : BitVec 6) (f : BitVec 1) : Statement (.enqAg a b c f) := rfl
theorem enqCl (a : BitVec 6) (b : BitVec 6) : Statement (.enqCl a b) := rfl
theorem enqLk (a : BitVec 6) (b : BitVec 6) : Statement (.enqLk a b) := rfl
theorem enqSc (a : BitVec 6) (b : BitVec 6) : Statement (.enqSc a b) := rfl
theorem enqTi (a : BitVec 6) (b : BitVec 6) (c : BitVec 6) (p : BitVec 2) : Statement (.enqTi a b c p) := rfl
theorem enqTo (a : BitVec 6) (b : BitVec 6) (p : BitVec 2) : Statement (.enqTo a b p) := rfl
theorem enqPl (a : BitVec 6) (b : BitVec 6) (c : BitVec 6) : Statement (.enqPl a b c) := rfl
theorem waitc (a : BitVec 6) (b : BitVec 6) : Statement (.waitc a b) := rfl
theorem sigc (a : BitVec 6) (b : BitVec 6) (s : BitVec 3) : Statement (.sigc a b s) := rfl
theorem waitb (p : BitVec 3) (a : BitVec 6) : Statement (.waitb p a) := rfl
theorem bara (a : BitVec 6) (b : BitVec 6) (s : BitVec 1) : Statement (.bara a b s) := rfl
theorem cfgLoad (a : BitVec 6) (b : BitVec 6) (c : BitVec 6) : Statement (.cfgLoad a b c) := rfl
theorem cfgSwitch (b : BitVec 6) (c : BitVec 6) : Statement (.cfgSwitch b c) := rfl
theorem cfgPage (a : BitVec 6) (b : BitVec 6) : Statement (.cfgPage a b) := rfl
theorem ctxLaunch (a : BitVec 6) : Statement (.ctxLaunch a) := rfl
theorem ctxPrio (a : BitVec 6) (n : BitVec 4) : Statement (.ctxPrio a n) := rfl
theorem ctxSusp (a : BitVec 6) : Statement (.ctxSusp a) := rfl
theorem ctxResume (a : BitVec 6) : Statement (.ctxResume a) := rfl
theorem ctxEvict (a : BitVec 6) : Statement (.ctxEvict a) := rfl
theorem mfs (d : BitVec 6) (r : BitVec 6) (s : BitVec 4) : Statement (.mfs d r s) := rfl
theorem mts (d : BitVec 6) (r : BitVec 6) (s : BitVec 4) : Statement (.mts d r s) := rfl
theorem trap (a : BitVec 6) : Statement (.trap a) := rfl
theorem trace (a : BitVec 6) : Statement (.trace a) := rfl
theorem agsRd (w : MeW) : Statement (.agsRd w) := rfl
theorem agsWr (w : MeW) : Statement (.agsWr w) := rfl
theorem agsRdcf (w : MeW) : Statement (.agsRdcf w) := rfl
theorem agsWrcf (w : MeW) : Statement (.agsWrcf w) := rfl
theorem agsFill (w : MeW) : Statement (.agsFill w) := rfl
theorem agsScrub (w : MeW) : Statement (.agsScrub w) := rfl
theorem agxGath (w : MeW) : Statement (.agxGath w) := rfl
theorem agxScat (w : MeW) : Statement (.agxScat w) := rfl
theorem agxChase (w : MeW) : Statement (.agxChase w) := rfl
theorem agxAtomAdd (w : MeW) : Statement (.agxAtomAdd w) := rfl
theorem agxAtomMin (w : MeW) : Statement (.agxAtomMin w) := rfl
theorem agxAtomMax (w : MeW) : Statement (.agxAtomMax w) := rfl
theorem agxAtomCas (w : MeW) : Statement (.agxAtomCas w) := rfl
theorem agxAtomSwp (w : MeW) : Statement (.agxAtomSwp w) := rfl
theorem wavLd (o p s : BitVec 6) (z : BitVec 2) (d : BitVec 3) : Statement (.wavLd o p s z d) := rfl
theorem wavSt (o p s : BitVec 6) (z : BitVec 2) (d : BitVec 3) : Statement (.wavSt o p s z d) := rfl
theorem wavMnop (o p s : BitVec 6) (z : BitVec 2) (d : BitVec 3) : Statement (.wavMnop o p s z d) := rfl
theorem ttbLook (w : MeW) : Statement (.ttbLook w) := rfl
theorem ttbIns (w : MeW) : Statement (.ttbIns w) := rfl
theorem ttbEvict (w : MeW) : Statement (.ttbEvict w) := rfl
theorem ttbFill (w : MeW) : Statement (.ttbFill w) := rfl
theorem tilSetf (w : MeW) : Statement (.tilSetf w) := rfl
theorem tilReady (w : MeW) : Statement (.tilReady w) := rfl
theorem tilDrain (w : MeW) : Statement (.tilDrain w) := rfl
theorem tilEmpty (w : MeW) : Statement (.tilEmpty w) := rfl
theorem tilPush (w : MeW) : Statement (.tilPush w) := rfl
theorem tilPop (w : MeW) : Statement (.tilPop w) := rfl
theorem tilQuery (w : MeW) : Statement (.tilQuery w) := rfl
theorem arrIns (w : MeW) : Statement (.arrIns w) := rfl
theorem arrSeek (w : MeW) : Statement (.arrSeek w) := rfl
theorem arrCmpt (w : MeW) : Statement (.arrCmpt w) := rfl
theorem arrMrg (w : MeW) : Statement (.arrMrg w) := rfl
theorem bar (w : MeW) : Statement (.bar w) := rfl
theorem pld (w : MeW) : Statement (.pld w) := rfl
theorem pst (w : MeW) : Statement (.pst w) := rfl
theorem sbr (w : MeW) : Statement (.sbr w) := rfl
theorem mma (w : MxW) : Statement (.mma w) := rfl
theorem mmaKstep (w : MxW) : Statement (.mmaKstep w) := rfl
theorem mmz (w : MxW) : Statement (.mmz w) := rfl
theorem mload (w : MxW) : Statement (.mload w) := rfl
theorem mdrain (w : MxW) : Statement (.mdrain w) := rfl
theorem cvreset (w : MxW) : Statement (.cvreset w) := rfl
theorem cvresetRelease (w : MxW) : Statement (.cvresetRelease w) := rfl
theorem cvloadEnt (w : MxW) : Statement (.cvloadEnt w) := rfl
theorem cvloadGain (w : MxW) : Statement (.cvloadGain w) := rfl
theorem cvprobe (w : MxW) : Statement (.cvprobe w) := rfl
theorem cvcommit (w : MxW) : Statement (.cvcommit w) := rfl
theorem cvreadArg (w : MxW) : Statement (.cvreadArg w) := rfl
theorem cvreadGain (w : MxW) : Statement (.cvreadGain w) := rfl
theorem allreduce (d : ClDesc) : Statement (.allreduce d) := rfl
theorem reduceScatter (d : ClDesc) : Statement (.reduceScatter d) := rfl
theorem allgather (d : ClDesc) : Statement (.allgather d) := rfl
theorem alltoall (d : ClDesc) : Statement (.alltoall d) := rfl
theorem irregularAlltoall (d : ClDesc) : Statement (.irregularAlltoall d) := rfl
theorem collectiveNodeFire (node : Nat) : Statement (.collectiveNodeFire node) := rfl
theorem send (d : LkDesc) : Statement (.send d) := rfl
theorem keyld (d : LkDesc) : Statement (.keyld d) := rfl
theorem keysw (d : LkDesc) : Statement (.keysw d) := rfl
theorem stat (d : LkDesc) : Statement (.stat d) := rfl
theorem scrub (d : ScDesc) : Statement (.scrub d) := rfl
theorem unlatch (n : BitVec 4) : Statement (.unlatch n) := rfl
theorem accclr (n : BitVec 4) : Statement (.accclr n) := rfl
theorem switch (gen : BitVec 24) : Statement (.switch gen) := rfl
theorem snap (id : BitVec 16) : Statement (.snap id) := rfl
theorem abort (id : BitVec 24) : Statement (.abort id) := rfl
theorem configUncorrectable (isBox : Bool) : Statement (.configUncorrectable isBox) := rfl
theorem walk (root va : DWord) (ag : Bool) (acc : Access) : Statement (.walk root va ag acc) := rfl
theorem activationAlert (stack bank : Nat) (postponed : Nat) : Statement (.activationAlert stack bank postponed) := rfl
theorem gatewayMessage (ptab : DWord) (seq : Word) (ups : List StampUpdate) : Statement (.gatewayMessage ptab seq ups) := rfl
theorem conversionRendezvous (cid dtd : Nat) : Statement (.conversionRendezvous cid dtd) := rfl
theorem conversionComplete (cid dtd : Nat) : Statement (.conversionComplete cid dtd) := rfl
theorem launchNotify (q : BitVec 4) (tail : BitVec 9) : Statement (.launchNotify q tail) := rfl
theorem launchEntryRead (q : BitVec 4) : Statement (.launchEntryRead q) := rfl
theorem candidateFault (q : BitVec 4) : Statement (.candidateFault q) := rfl
theorem waitingPriorityAging (q : BitVec 4) : Statement (.waitingPriorityAging q) := rfl
theorem admission (q : BitVec 4) : Statement (.admission q) := rfl
theorem contextStart (cid : Nat) : Statement (.contextStart cid) := rfl
theorem retire (cid : Nat) : Statement (.retire cid) := rfl
theorem evictionComplete (cid : Nat) : Statement (.evictionComplete cid) := rfl
theorem postMortemComplete (cid : Nat) : Statement (.postMortemComplete cid) := rfl
theorem fenceCluster (c : BitVec 6) : Statement (.fenceCluster c) := rfl
theorem unfenceCluster (c : BitVec 6) : Statement (.unfenceCluster c) := rfl
theorem replaceClusterMicrocode (v : DWord) : Statement (.replaceClusterMicrocode v) := rfl
theorem updateFirmware (v : DWord) : Statement (.updateFirmware v) := rfl
theorem retrainPort (port : BitVec 6) : Statement (.retrainPort port) := rfl
theorem portEnable (port : BitVec 6) (en : Bool) : Statement (.portEnable port en) := rfl
theorem faultRetry (seq : Word) : Statement (.faultRetry seq) := rfl
theorem fqresEnd (seq : Word) : Statement (.fqresEnd seq) := rfl
theorem keyImport (rec : DWord) : Statement (.keyImport rec) := rfl
theorem keyRemove (rec : DWord) : Statement (.keyRemove rec) := rfl
theorem attestationReport (v : DWord) : Statement (.attestationReport v) := rfl
theorem powerCap (cap : BitVec 13) : Statement (.powerCap cap) := rfl
theorem registerWrite (window : BitVec 4) (off : BitVec 16) (v : DWord) : Statement (.registerWrite window off v) := rfl
theorem functionReady (fn : ReadyFn) (up : Bool) : Statement (.functionReady fn up) := rfl
theorem flitTransmit (port : BitVec 6) : Statement (.flitTransmit port) := rfl
theorem flitOpen (port : BitVec 6) (h : FlitHdr) (addr mode ptab n : DWord) : Statement (.flitOpen port h addr mode ptab n) := rfl
theorem flitData (port : BitVec 6) (h : FlitHdr) (pay : List DWord) : Statement (.flitData port h pay) := rfl
theorem flitRead (port : BitVec 6) (h : FlitHdr) (addr len rxfer : DWord) : Statement (.flitRead port h addr len rxfer) := rfl
theorem flitRdata (port : BitVec 6) (h : FlitHdr) (pay : List DWord) : Statement (.flitRdata port h pay) := rfl
theorem flitMark (port : BitVec 6) (h : FlitHdr) : Statement (.flitMark port h) := rfl
theorem flitAck (port : BitVec 6) (ctr : DWord) : Statement (.flitAck port ctr) := rfl
theorem flitNak (port : BitVec 6) (ctr : DWord) : Statement (.flitNak port ctr) := rfl
theorem flitAuthFailure (port : BitVec 6) : Statement (.flitAuthFailure port) := rfl
theorem resendTimeout (port : BitVec 6) : Statement (.resendTimeout port) := rfl
theorem ret : Statement (.ret) := rfl
theorem reti : Statement (.reti) := rfl
theorem exit : Statement (.exit) := rfl
theorem nop : Statement (.nop) := rfl
theorem yield : Statement (.yield) := rfl
theorem blockCommit : Statement (.blockCommit) := rfl
theorem asyncTrap : Statement (.asyncTrap) := rfl
theorem streamExited : Statement (.streamExited) := rfl
theorem ceAdd : Statement (.ceAdd) := rfl
theorem ceSub : Statement (.ceSub) := rfl
theorem ceMul : Statement (.ceMul) := rfl
theorem ceMulh : Statement (.ceMulh) := rfl
theorem ceMin : Statement (.ceMin) := rfl
theorem ceMax : Statement (.ceMax) := rfl
theorem ceAbs : Statement (.ceAbs) := rfl
theorem ceNeg : Statement (.ceNeg) := rfl
theorem ceMad : Statement (.ceMad) := rfl
theorem ceAvg : Statement (.ceAvg) := rfl
theorem ceAnd : Statement (.ceAnd) := rfl
theorem ceOr : Statement (.ceOr) := rfl
theorem ceXor : Statement (.ceXor) := rfl
theorem ceAndn : Statement (.ceAndn) := rfl
theorem ceNot : Statement (.ceNot) := rfl
theorem ceShl : Statement (.ceShl) := rfl
theorem ceShr : Statement (.ceShr) := rfl
theorem ceSra : Statement (.ceSra) := rfl
theorem ceRol : Statement (.ceRol) := rfl
theorem cePopc : Statement (.cePopc) := rfl
theorem ceClz : Statement (.ceClz) := rfl
theorem ceFloatAdd : Statement (.ceFloatAdd) := rfl
theorem ceFloatSub : Statement (.ceFloatSub) := rfl
theorem ceFloatMul : Statement (.ceFloatMul) := rfl
theorem ceFma : Statement (.ceFma) := rfl
theorem ceFloatMin : Statement (.ceFloatMin) := rfl
theorem ceFloatMax : Statement (.ceFloatMax) := rfl
theorem ceFloatAbs : Statement (.ceFloatAbs) := rfl
theorem ceFloatNeg : Statement (.ceFloatNeg) := rfl
theorem ceFms : Statement (.ceFms) := rfl
theorem ceRcp : Statement (.ceRcp) := rfl
theorem ceRsq : Statement (.ceRsq) := rfl
theorem ceSqrt : Statement (.ceSqrt) := rfl
theorem ceExp2 : Statement (.ceExp2) := rfl
theorem ceLog2 : Statement (.ceLog2) := rfl
theorem ceTanh : Statement (.ceTanh) := rfl
theorem ceSigm : Statement (.ceSigm) := rfl
theorem ceSin : Statement (.ceSin) := rfl
theorem ceCos : Statement (.ceCos) := rfl
theorem ceErf : Statement (.ceErf) := rfl
theorem ceCmp : Statement (.ceCmp) := rfl
theorem ceSel : Statement (.ceSel) := rfl
theorem cvt : Statement (.cvt) := rfl
theorem qntb : Statement (.qntb) := rfl
theorem qnt : Statement (.qnt) := rfl
theorem deq : Statement (.deq) := rfl
theorem mov : Statement (.mov) := rfl
theorem movk : Statement (.movk) := rfl
theorem bcast : Statement (.bcast) := rfl
theorem lshift : Statement (.lshift) := rfl
theorem lrev : Statement (.lrev) := rfl
theorem lsel : Statement (.lsel) := rfl
theorem steerBit : Statement (.steerBit) := rfl
theorem steerPar : Statement (.steerPar) := rfl
theorem mergeAny : Statement (.mergeAny) := rfl
theorem mergeTag : Statement (.mergeTag) := rfl
theorem copy : Statement (.copy) := rfl
theorem gate : Statement (.gate) := rfl
theorem drop : Statement (.drop) := rfl
theorem sink : Statement (.sink) := rfl
theorem tagInc : Statement (.tagInc) := rfl
theorem tagSet : Statement (.tagSet) := rfl
theorem tagGet : Statement (.tagGet) := rfl
theorem tagBase : Statement (.tagBase) := rfl
theorem alcAlloc : Statement (.alcAlloc) := rfl
theorem alcFree : Statement (.alcFree) := rfl
theorem pack : Statement (.pack) := rfl
theorem unpack : Statement (.unpack) := rfl
theorem redSum : Statement (.redSum) := rfl
theorem redMin : Statement (.redMin) := rfl
theorem redMax : Statement (.redMax) := rfl
theorem redAnd : Statement (.redAnd) := rfl
theorem redOr : Statement (.redOr) := rfl
theorem redCnt : Statement (.redCnt) := rfl
theorem scanSum : Statement (.scanSum) := rfl
theorem scanMax : Statement (.scanMax) := rfl
theorem lrs : Statement (.lrs) := rfl
theorem accAdd : Statement (.accAdd) := rfl
theorem accMax : Statement (.accMax) := rfl
theorem accReset : Statement (.accReset) := rfl
theorem cneg : Statement (.cneg) := rfl
theorem cscale : Statement (.cscale) := rfl
theorem mkchg : Statement (.mkchg) := rfl
theorem dense : Statement (.dense) := rfl
theorem dadd : Statement (.dadd) := rfl
theorem ctEnter : Statement (.ctEnter) := rfl
theorem ctLeave : Statement (.ctLeave) := rfl
theorem ctStep : Statement (.ctStep) := rfl
theorem ctSet : Statement (.ctSet) := rfl
theorem ctAdv : Statement (.ctAdv) := rfl
theorem ctLe : Statement (.ctLe) := rfl
theorem ctLt : Statement (.ctLt) := rfl
theorem ctEq : Statement (.ctEq) := rfl
theorem ctPar : Statement (.ctPar) := rfl
theorem khash : Statement (.khash) := rfl
theorem kexch : Statement (.kexch) := rfl
theorem cjoin : Statement (.cjoin) := rfl
theorem credCount : Statement (.credCount) := rfl
theorem credSum : Statement (.credSum) := rfl
theorem credMin : Statement (.credMin) := rfl
theorem credMax : Statement (.credMax) := rfl
theorem cdist : Statement (.cdist) := rfl
theorem ccons : Statement (.ccons) := rfl
theorem cnote : Statement (.cnote) := rfl
theorem crel : Statement (.crel) := rfl
theorem mxc : Statement (.mxc) := rfl
theorem cntr : Statement (.cntr) := rfl
theorem ctlSig : Statement (.ctlSig) := rfl
theorem ctlWait : Statement (.ctlWait) := rfl
theorem ctlAnd2 : Statement (.ctlAnd2) := rfl
theorem ceNop : Statement (.ceNop) := rfl
theorem waveAccessPerform : Statement (.waveAccessPerform) := rfl
theorem sbrRelease : Statement (.sbrRelease) := rfl
theorem mxAccept : Statement (.mxAccept) := rfl
theorem commandIssue : Statement (.commandIssue) := rfl
theorem commandComplete : Statement (.commandComplete) := rfl
theorem fetch : Statement (.fetch) := rfl
theorem switchForward : Statement (.switchForward) := rfl
theorem eos : Statement (.eos) := rfl
theorem agingPromotion : Statement (.agingPromotion) := rfl
theorem configUnitFetch : Statement (.configUnitFetch) := rfl
theorem agAccess : Statement (.agAccess) := rfl
theorem agReply : Statement (.agReply) := rfl
theorem agRunEnd : Statement (.agRunEnd) := rfl
theorem chaseStep : Statement (.chaseStep) := rfl
theorem gatherEngineBatch : Statement (.gatherEngineBatch) := rfl
theorem muWatchdog : Statement (.muWatchdog) := rfl
theorem aggregateWatchdog : Statement (.aggregateWatchdog) := rfl
theorem xinvPage : Statement (.xinvPage) := rfl
theorem xinvRoot : Statement (.xinvRoot) := rfl
theorem xinvDie : Statement (.xinvDie) := rfl
theorem xinvDone : Statement (.xinvDone) := rfl
theorem firmwareSwitch : Statement (.firmwareSwitch) := rfl
theorem coldReset : Statement (.coldReset) := rfl
theorem resultReachesOutput : Statement (.resultReachesOutput) := rfl

end Sys2Proof.Laws.Codes
end

