-- ==== Sys2Proof/Laws/State.lean ====
section
/-! SUPPORT. What each update of the state leaves alone: one lemma per field per update, so that no proof unfolds a record update. -/
namespace Sys2Proof.Machine

variable (s : State)

/-! ### modCluster -/
@[simp] theorem State.modCluster_mem (c : Nat) (f : Cluster → Cluster) : (s.modCluster c f).mem = s.mem := rfl
@[simp] theorem State.modCluster_marks (c : Nat) (f : Cluster → Cluster) : (s.modCluster c f).marks = s.marks := rfl
@[simp] theorem State.modCluster_dies (c : Nat) (f : Cluster → Cluster) : (s.modCluster c f).dies = s.dies := rfl
@[simp] theorem State.modCluster_iods (c : Nat) (f : Cluster → Cluster) : (s.modCluster c f).iods = s.iods := rfl
@[simp] theorem State.modCluster_ports (c : Nat) (f : Cluster → Cluster) : (s.modCluster c f).ports = s.ports := rfl
@[simp] theorem State.modCluster_ctxs (c : Nat) (f : Cluster → Cluster) : (s.modCluster c f).ctxs = s.ctxs := rfl
@[simp] theorem State.modCluster_nextCid (c : Nat) (f : Cluster → Cluster) : (s.modCluster c f).nextCid = s.nextCid := rfl
@[simp] theorem State.modCluster_keys (c : Nat) (f : Cluster → Cluster) : (s.modCluster c f).keys = s.keys := rfl
@[simp] theorem State.modCluster_reports (c : Nat) (f : Cluster → Cluster) : (s.modCluster c f).reports = s.reports := rfl
@[simp] theorem State.modCluster_ivc (c : Nat) (f : Cluster → Cluster) : (s.modCluster c f).ivc = s.ivc := rfl
@[simp] theorem State.modCluster_resets (c : Nat) (f : Cluster → Cluster) : (s.modCluster c f).resets = s.resets := rfl
@[simp] theorem State.modCluster_firmware (c : Nat) (f : Cluster → Cluster) : (s.modCluster c f).firmware = s.firmware := rfl
@[simp] theorem State.modCluster_stagedFw (c : Nat) (f : Cluster → Cluster) : (s.modCluster c f).stagedFw = s.stagedFw := rfl
@[simp] theorem State.modCluster_cmdId (c : Nat) (f : Cluster → Cluster) : (s.modCluster c f).cmdId = s.cmdId := rfl
@[simp] theorem State.modCluster_cew (c : Nat) (f : Cluster → Cluster) : (s.modCluster c f).cew = s.cew := rfl
@[simp] theorem State.modCluster_cur (c : Nat) (f : Cluster → Cluster) : (s.modCluster c f).cur = s.cur := rfl
@[simp] theorem State.modCluster_agenda (c : Nat) (f : Cluster → Cluster) : (s.modCluster c f).agenda = s.agenda := rfl
@[simp] theorem State.modCluster_tick (c : Nat) (f : Cluster → Cluster) : (s.modCluster c f).tick = s.tick := rfl
@[simp] theorem State.modCluster_prot (c : Nat) (f : Cluster → Cluster) : (s.modCluster c f).prot = s.prot := rfl
@[simp] theorem State.modCluster_farReads (c : Nat) (f : Cluster → Cluster) : (s.modCluster c f).farReads = s.farReads := rfl
@[simp] theorem State.modCluster_temp (c : Nat) (f : Cluster → Cluster) : (s.modCluster c f).temp = s.temp := rfl
@[simp] theorem State.modCluster_power (c : Nat) (f : Cluster → Cluster) : (s.modCluster c f).power = s.power := rfl
@[simp] theorem State.modCluster_sent (c : Nat) (f : Cluster → Cluster) : (s.modCluster c f).sent = s.sent := rfl
@[simp] theorem State.modCluster_signals (c : Nat) (f : Cluster → Cluster) : (s.modCluster c f).signals = s.signals := rfl
@[simp] theorem State.modCluster_nodes (c : Nat) (f : Cluster → Cluster) : (s.modCluster c f).nodes = s.nodes := rfl

/-! ### modStream -/
@[simp] theorem State.modStream_mem (c k : Nat) (f : Stream → Stream) : (s.modStream c k f).mem = s.mem := rfl
@[simp] theorem State.modStream_marks (c k : Nat) (f : Stream → Stream) : (s.modStream c k f).marks = s.marks := rfl
@[simp] theorem State.modStream_dies (c k : Nat) (f : Stream → Stream) : (s.modStream c k f).dies = s.dies := rfl
@[simp] theorem State.modStream_iods (c k : Nat) (f : Stream → Stream) : (s.modStream c k f).iods = s.iods := rfl
@[simp] theorem State.modStream_ports (c k : Nat) (f : Stream → Stream) : (s.modStream c k f).ports = s.ports := rfl
@[simp] theorem State.modStream_ctxs (c k : Nat) (f : Stream → Stream) : (s.modStream c k f).ctxs = s.ctxs := rfl
@[simp] theorem State.modStream_nextCid (c k : Nat) (f : Stream → Stream) : (s.modStream c k f).nextCid = s.nextCid := rfl
@[simp] theorem State.modStream_keys (c k : Nat) (f : Stream → Stream) : (s.modStream c k f).keys = s.keys := rfl
@[simp] theorem State.modStream_reports (c k : Nat) (f : Stream → Stream) : (s.modStream c k f).reports = s.reports := rfl
@[simp] theorem State.modStream_ivc (c k : Nat) (f : Stream → Stream) : (s.modStream c k f).ivc = s.ivc := rfl
@[simp] theorem State.modStream_resets (c k : Nat) (f : Stream → Stream) : (s.modStream c k f).resets = s.resets := rfl
@[simp] theorem State.modStream_firmware (c k : Nat) (f : Stream → Stream) : (s.modStream c k f).firmware = s.firmware := rfl
@[simp] theorem State.modStream_stagedFw (c k : Nat) (f : Stream → Stream) : (s.modStream c k f).stagedFw = s.stagedFw := rfl
@[simp] theorem State.modStream_cmdId (c k : Nat) (f : Stream → Stream) : (s.modStream c k f).cmdId = s.cmdId := rfl
@[simp] theorem State.modStream_cew (c k : Nat) (f : Stream → Stream) : (s.modStream c k f).cew = s.cew := rfl
@[simp] theorem State.modStream_cur (c k : Nat) (f : Stream → Stream) : (s.modStream c k f).cur = s.cur := rfl
@[simp] theorem State.modStream_agenda (c k : Nat) (f : Stream → Stream) : (s.modStream c k f).agenda = s.agenda := rfl
@[simp] theorem State.modStream_tick (c k : Nat) (f : Stream → Stream) : (s.modStream c k f).tick = s.tick := rfl
@[simp] theorem State.modStream_prot (c k : Nat) (f : Stream → Stream) : (s.modStream c k f).prot = s.prot := rfl
@[simp] theorem State.modStream_farReads (c k : Nat) (f : Stream → Stream) : (s.modStream c k f).farReads = s.farReads := rfl
@[simp] theorem State.modStream_temp (c k : Nat) (f : Stream → Stream) : (s.modStream c k f).temp = s.temp := rfl
@[simp] theorem State.modStream_power (c k : Nat) (f : Stream → Stream) : (s.modStream c k f).power = s.power := rfl
@[simp] theorem State.modStream_sent (c k : Nat) (f : Stream → Stream) : (s.modStream c k f).sent = s.sent := rfl
@[simp] theorem State.modStream_signals (c k : Nat) (f : Stream → Stream) : (s.modStream c k f).signals = s.signals := rfl
@[simp] theorem State.modStream_nodes (c k : Nat) (f : Stream → Stream) : (s.modStream c k f).nodes = s.nodes := rfl

/-! ### modRegion -/
@[simp] theorem State.modRegion_mem (c k : Nat) (f : Region → Region) : (s.modRegion c k f).mem = s.mem := rfl
@[simp] theorem State.modRegion_marks (c k : Nat) (f : Region → Region) : (s.modRegion c k f).marks = s.marks := rfl
@[simp] theorem State.modRegion_dies (c k : Nat) (f : Region → Region) : (s.modRegion c k f).dies = s.dies := rfl
@[simp] theorem State.modRegion_iods (c k : Nat) (f : Region → Region) : (s.modRegion c k f).iods = s.iods := rfl
@[simp] theorem State.modRegion_ports (c k : Nat) (f : Region → Region) : (s.modRegion c k f).ports = s.ports := rfl
@[simp] theorem State.modRegion_ctxs (c k : Nat) (f : Region → Region) : (s.modRegion c k f).ctxs = s.ctxs := rfl
@[simp] theorem State.modRegion_nextCid (c k : Nat) (f : Region → Region) : (s.modRegion c k f).nextCid = s.nextCid := rfl
@[simp] theorem State.modRegion_keys (c k : Nat) (f : Region → Region) : (s.modRegion c k f).keys = s.keys := rfl
@[simp] theorem State.modRegion_reports (c k : Nat) (f : Region → Region) : (s.modRegion c k f).reports = s.reports := rfl
@[simp] theorem State.modRegion_ivc (c k : Nat) (f : Region → Region) : (s.modRegion c k f).ivc = s.ivc := rfl
@[simp] theorem State.modRegion_resets (c k : Nat) (f : Region → Region) : (s.modRegion c k f).resets = s.resets := rfl
@[simp] theorem State.modRegion_firmware (c k : Nat) (f : Region → Region) : (s.modRegion c k f).firmware = s.firmware := rfl
@[simp] theorem State.modRegion_stagedFw (c k : Nat) (f : Region → Region) : (s.modRegion c k f).stagedFw = s.stagedFw := rfl
@[simp] theorem State.modRegion_cmdId (c k : Nat) (f : Region → Region) : (s.modRegion c k f).cmdId = s.cmdId := rfl
@[simp] theorem State.modRegion_cew (c k : Nat) (f : Region → Region) : (s.modRegion c k f).cew = s.cew := rfl
@[simp] theorem State.modRegion_cur (c k : Nat) (f : Region → Region) : (s.modRegion c k f).cur = s.cur := rfl
@[simp] theorem State.modRegion_agenda (c k : Nat) (f : Region → Region) : (s.modRegion c k f).agenda = s.agenda := rfl
@[simp] theorem State.modRegion_tick (c k : Nat) (f : Region → Region) : (s.modRegion c k f).tick = s.tick := rfl
@[simp] theorem State.modRegion_prot (c k : Nat) (f : Region → Region) : (s.modRegion c k f).prot = s.prot := rfl
@[simp] theorem State.modRegion_farReads (c k : Nat) (f : Region → Region) : (s.modRegion c k f).farReads = s.farReads := rfl
@[simp] theorem State.modRegion_temp (c k : Nat) (f : Region → Region) : (s.modRegion c k f).temp = s.temp := rfl
@[simp] theorem State.modRegion_power (c k : Nat) (f : Region → Region) : (s.modRegion c k f).power = s.power := rfl
@[simp] theorem State.modRegion_sent (c k : Nat) (f : Region → Region) : (s.modRegion c k f).sent = s.sent := rfl
@[simp] theorem State.modRegion_signals (c k : Nat) (f : Region → Region) : (s.modRegion c k f).signals = s.signals := rfl
@[simp] theorem State.modRegion_nodes (c k : Nat) (f : Region → Region) : (s.modRegion c k f).nodes = s.nodes := rfl

/-! ### modSite -/
@[simp] theorem State.modSite_mem (c i : Nat) (f : Site → Site) : (s.modSite c i f).mem = s.mem := rfl
@[simp] theorem State.modSite_marks (c i : Nat) (f : Site → Site) : (s.modSite c i f).marks = s.marks := rfl
@[simp] theorem State.modSite_dies (c i : Nat) (f : Site → Site) : (s.modSite c i f).dies = s.dies := rfl
@[simp] theorem State.modSite_iods (c i : Nat) (f : Site → Site) : (s.modSite c i f).iods = s.iods := rfl
@[simp] theorem State.modSite_ports (c i : Nat) (f : Site → Site) : (s.modSite c i f).ports = s.ports := rfl
@[simp] theorem State.modSite_ctxs (c i : Nat) (f : Site → Site) : (s.modSite c i f).ctxs = s.ctxs := rfl
@[simp] theorem State.modSite_nextCid (c i : Nat) (f : Site → Site) : (s.modSite c i f).nextCid = s.nextCid := rfl
@[simp] theorem State.modSite_keys (c i : Nat) (f : Site → Site) : (s.modSite c i f).keys = s.keys := rfl
@[simp] theorem State.modSite_reports (c i : Nat) (f : Site → Site) : (s.modSite c i f).reports = s.reports := rfl
@[simp] theorem State.modSite_ivc (c i : Nat) (f : Site → Site) : (s.modSite c i f).ivc = s.ivc := rfl
@[simp] theorem State.modSite_resets (c i : Nat) (f : Site → Site) : (s.modSite c i f).resets = s.resets := rfl
@[simp] theorem State.modSite_firmware (c i : Nat) (f : Site → Site) : (s.modSite c i f).firmware = s.firmware := rfl
@[simp] theorem State.modSite_stagedFw (c i : Nat) (f : Site → Site) : (s.modSite c i f).stagedFw = s.stagedFw := rfl
@[simp] theorem State.modSite_cmdId (c i : Nat) (f : Site → Site) : (s.modSite c i f).cmdId = s.cmdId := rfl
@[simp] theorem State.modSite_cew (c i : Nat) (f : Site → Site) : (s.modSite c i f).cew = s.cew := rfl
@[simp] theorem State.modSite_cur (c i : Nat) (f : Site → Site) : (s.modSite c i f).cur = s.cur := rfl
@[simp] theorem State.modSite_agenda (c i : Nat) (f : Site → Site) : (s.modSite c i f).agenda = s.agenda := rfl
@[simp] theorem State.modSite_tick (c i : Nat) (f : Site → Site) : (s.modSite c i f).tick = s.tick := rfl
@[simp] theorem State.modSite_prot (c i : Nat) (f : Site → Site) : (s.modSite c i f).prot = s.prot := rfl
@[simp] theorem State.modSite_farReads (c i : Nat) (f : Site → Site) : (s.modSite c i f).farReads = s.farReads := rfl
@[simp] theorem State.modSite_temp (c i : Nat) (f : Site → Site) : (s.modSite c i f).temp = s.temp := rfl
@[simp] theorem State.modSite_power (c i : Nat) (f : Site → Site) : (s.modSite c i f).power = s.power := rfl
@[simp] theorem State.modSite_sent (c i : Nat) (f : Site → Site) : (s.modSite c i f).sent = s.sent := rfl
@[simp] theorem State.modSite_signals (c i : Nat) (f : Site → Site) : (s.modSite c i f).signals = s.signals := rfl
@[simp] theorem State.modSite_nodes (c i : Nat) (f : Site → Site) : (s.modSite c i f).nodes = s.nodes := rfl

/-! ### modElem -/
@[simp] theorem State.modElem_mem (c i k : Nat) (f : Elem → Elem) : (s.modElem c i k f).mem = s.mem := rfl
@[simp] theorem State.modElem_marks (c i k : Nat) (f : Elem → Elem) : (s.modElem c i k f).marks = s.marks := rfl
@[simp] theorem State.modElem_dies (c i k : Nat) (f : Elem → Elem) : (s.modElem c i k f).dies = s.dies := rfl
@[simp] theorem State.modElem_iods (c i k : Nat) (f : Elem → Elem) : (s.modElem c i k f).iods = s.iods := rfl
@[simp] theorem State.modElem_ports (c i k : Nat) (f : Elem → Elem) : (s.modElem c i k f).ports = s.ports := rfl
@[simp] theorem State.modElem_ctxs (c i k : Nat) (f : Elem → Elem) : (s.modElem c i k f).ctxs = s.ctxs := rfl
@[simp] theorem State.modElem_nextCid (c i k : Nat) (f : Elem → Elem) : (s.modElem c i k f).nextCid = s.nextCid := rfl
@[simp] theorem State.modElem_keys (c i k : Nat) (f : Elem → Elem) : (s.modElem c i k f).keys = s.keys := rfl
@[simp] theorem State.modElem_reports (c i k : Nat) (f : Elem → Elem) : (s.modElem c i k f).reports = s.reports := rfl
@[simp] theorem State.modElem_ivc (c i k : Nat) (f : Elem → Elem) : (s.modElem c i k f).ivc = s.ivc := rfl
@[simp] theorem State.modElem_resets (c i k : Nat) (f : Elem → Elem) : (s.modElem c i k f).resets = s.resets := rfl
@[simp] theorem State.modElem_firmware (c i k : Nat) (f : Elem → Elem) : (s.modElem c i k f).firmware = s.firmware := rfl
@[simp] theorem State.modElem_stagedFw (c i k : Nat) (f : Elem → Elem) : (s.modElem c i k f).stagedFw = s.stagedFw := rfl
@[simp] theorem State.modElem_cmdId (c i k : Nat) (f : Elem → Elem) : (s.modElem c i k f).cmdId = s.cmdId := rfl
@[simp] theorem State.modElem_cew (c i k : Nat) (f : Elem → Elem) : (s.modElem c i k f).cew = s.cew := rfl
@[simp] theorem State.modElem_cur (c i k : Nat) (f : Elem → Elem) : (s.modElem c i k f).cur = s.cur := rfl
@[simp] theorem State.modElem_agenda (c i k : Nat) (f : Elem → Elem) : (s.modElem c i k f).agenda = s.agenda := rfl
@[simp] theorem State.modElem_tick (c i k : Nat) (f : Elem → Elem) : (s.modElem c i k f).tick = s.tick := rfl
@[simp] theorem State.modElem_prot (c i k : Nat) (f : Elem → Elem) : (s.modElem c i k f).prot = s.prot := rfl
@[simp] theorem State.modElem_farReads (c i k : Nat) (f : Elem → Elem) : (s.modElem c i k f).farReads = s.farReads := rfl
@[simp] theorem State.modElem_temp (c i k : Nat) (f : Elem → Elem) : (s.modElem c i k f).temp = s.temp := rfl
@[simp] theorem State.modElem_power (c i k : Nat) (f : Elem → Elem) : (s.modElem c i k f).power = s.power := rfl
@[simp] theorem State.modElem_sent (c i k : Nat) (f : Elem → Elem) : (s.modElem c i k f).sent = s.sent := rfl
@[simp] theorem State.modElem_signals (c i k : Nat) (f : Elem → Elem) : (s.modElem c i k f).signals = s.signals := rfl
@[simp] theorem State.modElem_nodes (c i k : Nat) (f : Elem → Elem) : (s.modElem c i k f).nodes = s.nodes := rfl

/-! ### count -/
@[simp] theorem State.count_mem (c e k : Nat) : (s.count c e k).mem = s.mem := rfl
@[simp] theorem State.count_marks (c e k : Nat) : (s.count c e k).marks = s.marks := rfl
@[simp] theorem State.count_dies (c e k : Nat) : (s.count c e k).dies = s.dies := rfl
@[simp] theorem State.count_iods (c e k : Nat) : (s.count c e k).iods = s.iods := rfl
@[simp] theorem State.count_ports (c e k : Nat) : (s.count c e k).ports = s.ports := rfl
@[simp] theorem State.count_ctxs (c e k : Nat) : (s.count c e k).ctxs = s.ctxs := rfl
@[simp] theorem State.count_nextCid (c e k : Nat) : (s.count c e k).nextCid = s.nextCid := rfl
@[simp] theorem State.count_keys (c e k : Nat) : (s.count c e k).keys = s.keys := rfl
@[simp] theorem State.count_reports (c e k : Nat) : (s.count c e k).reports = s.reports := rfl
@[simp] theorem State.count_ivc (c e k : Nat) : (s.count c e k).ivc = s.ivc := rfl
@[simp] theorem State.count_resets (c e k : Nat) : (s.count c e k).resets = s.resets := rfl
@[simp] theorem State.count_firmware (c e k : Nat) : (s.count c e k).firmware = s.firmware := rfl
@[simp] theorem State.count_stagedFw (c e k : Nat) : (s.count c e k).stagedFw = s.stagedFw := rfl
@[simp] theorem State.count_cmdId (c e k : Nat) : (s.count c e k).cmdId = s.cmdId := rfl
@[simp] theorem State.count_cew (c e k : Nat) : (s.count c e k).cew = s.cew := rfl
@[simp] theorem State.count_cur (c e k : Nat) : (s.count c e k).cur = s.cur := rfl
@[simp] theorem State.count_agenda (c e k : Nat) : (s.count c e k).agenda = s.agenda := rfl
@[simp] theorem State.count_tick (c e k : Nat) : (s.count c e k).tick = s.tick := rfl
@[simp] theorem State.count_prot (c e k : Nat) : (s.count c e k).prot = s.prot := rfl
@[simp] theorem State.count_farReads (c e k : Nat) : (s.count c e k).farReads = s.farReads := rfl
@[simp] theorem State.count_temp (c e k : Nat) : (s.count c e k).temp = s.temp := rfl
@[simp] theorem State.count_power (c e k : Nat) : (s.count c e k).power = s.power := rfl
@[simp] theorem State.count_sent (c e k : Nat) : (s.count c e k).sent = s.sent := rfl
@[simp] theorem State.count_signals (c e k : Nat) : (s.count c e k).signals = s.signals := rfl
@[simp] theorem State.count_nodes (c e k : Nat) : (s.count c e k).nodes = s.nodes := rfl

/-! ### modMe -/
@[simp] theorem State.modMe_mem (f : Stream → Stream) : (s.modMe f).mem = s.mem := rfl
@[simp] theorem State.modMe_marks (f : Stream → Stream) : (s.modMe f).marks = s.marks := rfl
@[simp] theorem State.modMe_dies (f : Stream → Stream) : (s.modMe f).dies = s.dies := rfl
@[simp] theorem State.modMe_iods (f : Stream → Stream) : (s.modMe f).iods = s.iods := rfl
@[simp] theorem State.modMe_ports (f : Stream → Stream) : (s.modMe f).ports = s.ports := rfl
@[simp] theorem State.modMe_ctxs (f : Stream → Stream) : (s.modMe f).ctxs = s.ctxs := rfl
@[simp] theorem State.modMe_nextCid (f : Stream → Stream) : (s.modMe f).nextCid = s.nextCid := rfl
@[simp] theorem State.modMe_keys (f : Stream → Stream) : (s.modMe f).keys = s.keys := rfl
@[simp] theorem State.modMe_reports (f : Stream → Stream) : (s.modMe f).reports = s.reports := rfl
@[simp] theorem State.modMe_ivc (f : Stream → Stream) : (s.modMe f).ivc = s.ivc := rfl
@[simp] theorem State.modMe_resets (f : Stream → Stream) : (s.modMe f).resets = s.resets := rfl
@[simp] theorem State.modMe_firmware (f : Stream → Stream) : (s.modMe f).firmware = s.firmware := rfl
@[simp] theorem State.modMe_stagedFw (f : Stream → Stream) : (s.modMe f).stagedFw = s.stagedFw := rfl
@[simp] theorem State.modMe_cmdId (f : Stream → Stream) : (s.modMe f).cmdId = s.cmdId := rfl
@[simp] theorem State.modMe_cew (f : Stream → Stream) : (s.modMe f).cew = s.cew := rfl
@[simp] theorem State.modMe_cur (f : Stream → Stream) : (s.modMe f).cur = s.cur := rfl
@[simp] theorem State.modMe_agenda (f : Stream → Stream) : (s.modMe f).agenda = s.agenda := rfl
@[simp] theorem State.modMe_tick (f : Stream → Stream) : (s.modMe f).tick = s.tick := rfl
@[simp] theorem State.modMe_prot (f : Stream → Stream) : (s.modMe f).prot = s.prot := rfl
@[simp] theorem State.modMe_farReads (f : Stream → Stream) : (s.modMe f).farReads = s.farReads := rfl
@[simp] theorem State.modMe_temp (f : Stream → Stream) : (s.modMe f).temp = s.temp := rfl
@[simp] theorem State.modMe_power (f : Stream → Stream) : (s.modMe f).power = s.power := rfl
@[simp] theorem State.modMe_sent (f : Stream → Stream) : (s.modMe f).sent = s.sent := rfl
@[simp] theorem State.modMe_signals (f : Stream → Stream) : (s.modMe f).signals = s.signals := rfl
@[simp] theorem State.modMe_nodes (f : Stream → Stream) : (s.modMe f).nodes = s.nodes := rfl

/-! ### setMe -/
@[simp] theorem State.setMe_mem (st : Stream) : (s.setMe st).mem = s.mem := rfl
@[simp] theorem State.setMe_marks (st : Stream) : (s.setMe st).marks = s.marks := rfl
@[simp] theorem State.setMe_dies (st : Stream) : (s.setMe st).dies = s.dies := rfl
@[simp] theorem State.setMe_iods (st : Stream) : (s.setMe st).iods = s.iods := rfl
@[simp] theorem State.setMe_ports (st : Stream) : (s.setMe st).ports = s.ports := rfl
@[simp] theorem State.setMe_ctxs (st : Stream) : (s.setMe st).ctxs = s.ctxs := rfl
@[simp] theorem State.setMe_nextCid (st : Stream) : (s.setMe st).nextCid = s.nextCid := rfl
@[simp] theorem State.setMe_keys (st : Stream) : (s.setMe st).keys = s.keys := rfl
@[simp] theorem State.setMe_reports (st : Stream) : (s.setMe st).reports = s.reports := rfl
@[simp] theorem State.setMe_ivc (st : Stream) : (s.setMe st).ivc = s.ivc := rfl
@[simp] theorem State.setMe_resets (st : Stream) : (s.setMe st).resets = s.resets := rfl
@[simp] theorem State.setMe_firmware (st : Stream) : (s.setMe st).firmware = s.firmware := rfl
@[simp] theorem State.setMe_stagedFw (st : Stream) : (s.setMe st).stagedFw = s.stagedFw := rfl
@[simp] theorem State.setMe_cmdId (st : Stream) : (s.setMe st).cmdId = s.cmdId := rfl
@[simp] theorem State.setMe_cew (st : Stream) : (s.setMe st).cew = s.cew := rfl
@[simp] theorem State.setMe_cur (st : Stream) : (s.setMe st).cur = s.cur := rfl
@[simp] theorem State.setMe_agenda (st : Stream) : (s.setMe st).agenda = s.agenda := rfl
@[simp] theorem State.setMe_tick (st : Stream) : (s.setMe st).tick = s.tick := rfl
@[simp] theorem State.setMe_prot (st : Stream) : (s.setMe st).prot = s.prot := rfl
@[simp] theorem State.setMe_farReads (st : Stream) : (s.setMe st).farReads = s.farReads := rfl
@[simp] theorem State.setMe_temp (st : Stream) : (s.setMe st).temp = s.temp := rfl
@[simp] theorem State.setMe_power (st : Stream) : (s.setMe st).power = s.power := rfl
@[simp] theorem State.setMe_sent (st : Stream) : (s.setMe st).sent = s.sent := rfl
@[simp] theorem State.setMe_signals (st : Stream) : (s.setMe st).signals = s.signals := rfl
@[simp] theorem State.setMe_nodes (st : Stream) : (s.setMe st).nodes = s.nodes := rfl

/-! ### modDie -/
@[simp] theorem State.modDie_mem (d : Nat) (f : Die → Die) : (s.modDie d f).mem = s.mem := rfl
@[simp] theorem State.modDie_marks (d : Nat) (f : Die → Die) : (s.modDie d f).marks = s.marks := rfl
@[simp] theorem State.modDie_clusters (d : Nat) (f : Die → Die) : (s.modDie d f).clusters = s.clusters := rfl
@[simp] theorem State.modDie_iods (d : Nat) (f : Die → Die) : (s.modDie d f).iods = s.iods := rfl
@[simp] theorem State.modDie_ports (d : Nat) (f : Die → Die) : (s.modDie d f).ports = s.ports := rfl
@[simp] theorem State.modDie_ctxs (d : Nat) (f : Die → Die) : (s.modDie d f).ctxs = s.ctxs := rfl
@[simp] theorem State.modDie_nextCid (d : Nat) (f : Die → Die) : (s.modDie d f).nextCid = s.nextCid := rfl
@[simp] theorem State.modDie_keys (d : Nat) (f : Die → Die) : (s.modDie d f).keys = s.keys := rfl
@[simp] theorem State.modDie_reports (d : Nat) (f : Die → Die) : (s.modDie d f).reports = s.reports := rfl
@[simp] theorem State.modDie_ivc (d : Nat) (f : Die → Die) : (s.modDie d f).ivc = s.ivc := rfl
@[simp] theorem State.modDie_resets (d : Nat) (f : Die → Die) : (s.modDie d f).resets = s.resets := rfl
@[simp] theorem State.modDie_firmware (d : Nat) (f : Die → Die) : (s.modDie d f).firmware = s.firmware := rfl
@[simp] theorem State.modDie_stagedFw (d : Nat) (f : Die → Die) : (s.modDie d f).stagedFw = s.stagedFw := rfl
@[simp] theorem State.modDie_cmdId (d : Nat) (f : Die → Die) : (s.modDie d f).cmdId = s.cmdId := rfl
@[simp] theorem State.modDie_cew (d : Nat) (f : Die → Die) : (s.modDie d f).cew = s.cew := rfl
@[simp] theorem State.modDie_cur (d : Nat) (f : Die → Die) : (s.modDie d f).cur = s.cur := rfl
@[simp] theorem State.modDie_agenda (d : Nat) (f : Die → Die) : (s.modDie d f).agenda = s.agenda := rfl
@[simp] theorem State.modDie_tick (d : Nat) (f : Die → Die) : (s.modDie d f).tick = s.tick := rfl
@[simp] theorem State.modDie_prot (d : Nat) (f : Die → Die) : (s.modDie d f).prot = s.prot := rfl
@[simp] theorem State.modDie_farReads (d : Nat) (f : Die → Die) : (s.modDie d f).farReads = s.farReads := rfl
@[simp] theorem State.modDie_temp (d : Nat) (f : Die → Die) : (s.modDie d f).temp = s.temp := rfl
@[simp] theorem State.modDie_power (d : Nat) (f : Die → Die) : (s.modDie d f).power = s.power := rfl
@[simp] theorem State.modDie_sent (d : Nat) (f : Die → Die) : (s.modDie d f).sent = s.sent := rfl
@[simp] theorem State.modDie_signals (d : Nat) (f : Die → Die) : (s.modDie d f).signals = s.signals := rfl
@[simp] theorem State.modDie_nodes (d : Nat) (f : Die → Die) : (s.modDie d f).nodes = s.nodes := rfl

/-! ### countDie -/
@[simp] theorem State.countDie_mem (d e : Nat) : (s.countDie d e).mem = s.mem := rfl
@[simp] theorem State.countDie_marks (d e : Nat) : (s.countDie d e).marks = s.marks := rfl
@[simp] theorem State.countDie_clusters (d e : Nat) : (s.countDie d e).clusters = s.clusters := rfl
@[simp] theorem State.countDie_iods (d e : Nat) : (s.countDie d e).iods = s.iods := rfl
@[simp] theorem State.countDie_ports (d e : Nat) : (s.countDie d e).ports = s.ports := rfl
@[simp] theorem State.countDie_ctxs (d e : Nat) : (s.countDie d e).ctxs = s.ctxs := rfl
@[simp] theorem State.countDie_nextCid (d e : Nat) : (s.countDie d e).nextCid = s.nextCid := rfl
@[simp] theorem State.countDie_keys (d e : Nat) : (s.countDie d e).keys = s.keys := rfl
@[simp] theorem State.countDie_reports (d e : Nat) : (s.countDie d e).reports = s.reports := rfl
@[simp] theorem State.countDie_ivc (d e : Nat) : (s.countDie d e).ivc = s.ivc := rfl
@[simp] theorem State.countDie_resets (d e : Nat) : (s.countDie d e).resets = s.resets := rfl
@[simp] theorem State.countDie_firmware (d e : Nat) : (s.countDie d e).firmware = s.firmware := rfl
@[simp] theorem State.countDie_stagedFw (d e : Nat) : (s.countDie d e).stagedFw = s.stagedFw := rfl
@[simp] theorem State.countDie_cmdId (d e : Nat) : (s.countDie d e).cmdId = s.cmdId := rfl
@[simp] theorem State.countDie_cew (d e : Nat) : (s.countDie d e).cew = s.cew := rfl
@[simp] theorem State.countDie_cur (d e : Nat) : (s.countDie d e).cur = s.cur := rfl
@[simp] theorem State.countDie_agenda (d e : Nat) : (s.countDie d e).agenda = s.agenda := rfl
@[simp] theorem State.countDie_tick (d e : Nat) : (s.countDie d e).tick = s.tick := rfl
@[simp] theorem State.countDie_prot (d e : Nat) : (s.countDie d e).prot = s.prot := rfl
@[simp] theorem State.countDie_farReads (d e : Nat) : (s.countDie d e).farReads = s.farReads := rfl
@[simp] theorem State.countDie_temp (d e : Nat) : (s.countDie d e).temp = s.temp := rfl
@[simp] theorem State.countDie_power (d e : Nat) : (s.countDie d e).power = s.power := rfl
@[simp] theorem State.countDie_sent (d e : Nat) : (s.countDie d e).sent = s.sent := rfl
@[simp] theorem State.countDie_signals (d e : Nat) : (s.countDie d e).signals = s.signals := rfl
@[simp] theorem State.countDie_nodes (d e : Nat) : (s.countDie d e).nodes = s.nodes := rfl

/-! ### modIod -/
@[simp] theorem State.modIod_mem (i : Nat) (f : Iod → Iod) : (s.modIod i f).mem = s.mem := rfl
@[simp] theorem State.modIod_marks (i : Nat) (f : Iod → Iod) : (s.modIod i f).marks = s.marks := rfl
@[simp] theorem State.modIod_clusters (i : Nat) (f : Iod → Iod) : (s.modIod i f).clusters = s.clusters := rfl
@[simp] theorem State.modIod_dies (i : Nat) (f : Iod → Iod) : (s.modIod i f).dies = s.dies := rfl
@[simp] theorem State.modIod_ports (i : Nat) (f : Iod → Iod) : (s.modIod i f).ports = s.ports := rfl
@[simp] theorem State.modIod_ctxs (i : Nat) (f : Iod → Iod) : (s.modIod i f).ctxs = s.ctxs := rfl
@[simp] theorem State.modIod_nextCid (i : Nat) (f : Iod → Iod) : (s.modIod i f).nextCid = s.nextCid := rfl
@[simp] theorem State.modIod_keys (i : Nat) (f : Iod → Iod) : (s.modIod i f).keys = s.keys := rfl
@[simp] theorem State.modIod_reports (i : Nat) (f : Iod → Iod) : (s.modIod i f).reports = s.reports := rfl
@[simp] theorem State.modIod_ivc (i : Nat) (f : Iod → Iod) : (s.modIod i f).ivc = s.ivc := rfl
@[simp] theorem State.modIod_resets (i : Nat) (f : Iod → Iod) : (s.modIod i f).resets = s.resets := rfl
@[simp] theorem State.modIod_firmware (i : Nat) (f : Iod → Iod) : (s.modIod i f).firmware = s.firmware := rfl
@[simp] theorem State.modIod_stagedFw (i : Nat) (f : Iod → Iod) : (s.modIod i f).stagedFw = s.stagedFw := rfl
@[simp] theorem State.modIod_cmdId (i : Nat) (f : Iod → Iod) : (s.modIod i f).cmdId = s.cmdId := rfl
@[simp] theorem State.modIod_cew (i : Nat) (f : Iod → Iod) : (s.modIod i f).cew = s.cew := rfl
@[simp] theorem State.modIod_cur (i : Nat) (f : Iod → Iod) : (s.modIod i f).cur = s.cur := rfl
@[simp] theorem State.modIod_agenda (i : Nat) (f : Iod → Iod) : (s.modIod i f).agenda = s.agenda := rfl
@[simp] theorem State.modIod_tick (i : Nat) (f : Iod → Iod) : (s.modIod i f).tick = s.tick := rfl
@[simp] theorem State.modIod_prot (i : Nat) (f : Iod → Iod) : (s.modIod i f).prot = s.prot := rfl
@[simp] theorem State.modIod_farReads (i : Nat) (f : Iod → Iod) : (s.modIod i f).farReads = s.farReads := rfl
@[simp] theorem State.modIod_temp (i : Nat) (f : Iod → Iod) : (s.modIod i f).temp = s.temp := rfl
@[simp] theorem State.modIod_power (i : Nat) (f : Iod → Iod) : (s.modIod i f).power = s.power := rfl
@[simp] theorem State.modIod_sent (i : Nat) (f : Iod → Iod) : (s.modIod i f).sent = s.sent := rfl
@[simp] theorem State.modIod_signals (i : Nat) (f : Iod → Iod) : (s.modIod i f).signals = s.signals := rfl
@[simp] theorem State.modIod_nodes (i : Nat) (f : Iod → Iod) : (s.modIod i f).nodes = s.nodes := rfl

/-! ### modPort -/
@[simp] theorem State.modPort_mem (p : Nat) (f : Port → Port) : (s.modPort p f).mem = s.mem := rfl
@[simp] theorem State.modPort_marks (p : Nat) (f : Port → Port) : (s.modPort p f).marks = s.marks := rfl
@[simp] theorem State.modPort_clusters (p : Nat) (f : Port → Port) : (s.modPort p f).clusters = s.clusters := rfl
@[simp] theorem State.modPort_dies (p : Nat) (f : Port → Port) : (s.modPort p f).dies = s.dies := rfl
@[simp] theorem State.modPort_iods (p : Nat) (f : Port → Port) : (s.modPort p f).iods = s.iods := rfl
@[simp] theorem State.modPort_ctxs (p : Nat) (f : Port → Port) : (s.modPort p f).ctxs = s.ctxs := rfl
@[simp] theorem State.modPort_nextCid (p : Nat) (f : Port → Port) : (s.modPort p f).nextCid = s.nextCid := rfl
@[simp] theorem State.modPort_keys (p : Nat) (f : Port → Port) : (s.modPort p f).keys = s.keys := rfl
@[simp] theorem State.modPort_reports (p : Nat) (f : Port → Port) : (s.modPort p f).reports = s.reports := rfl
@[simp] theorem State.modPort_ivc (p : Nat) (f : Port → Port) : (s.modPort p f).ivc = s.ivc := rfl
@[simp] theorem State.modPort_resets (p : Nat) (f : Port → Port) : (s.modPort p f).resets = s.resets := rfl
@[simp] theorem State.modPort_firmware (p : Nat) (f : Port → Port) : (s.modPort p f).firmware = s.firmware := rfl
@[simp] theorem State.modPort_stagedFw (p : Nat) (f : Port → Port) : (s.modPort p f).stagedFw = s.stagedFw := rfl
@[simp] theorem State.modPort_cmdId (p : Nat) (f : Port → Port) : (s.modPort p f).cmdId = s.cmdId := rfl
@[simp] theorem State.modPort_cew (p : Nat) (f : Port → Port) : (s.modPort p f).cew = s.cew := rfl
@[simp] theorem State.modPort_cur (p : Nat) (f : Port → Port) : (s.modPort p f).cur = s.cur := rfl
@[simp] theorem State.modPort_agenda (p : Nat) (f : Port → Port) : (s.modPort p f).agenda = s.agenda := rfl
@[simp] theorem State.modPort_tick (p : Nat) (f : Port → Port) : (s.modPort p f).tick = s.tick := rfl
@[simp] theorem State.modPort_prot (p : Nat) (f : Port → Port) : (s.modPort p f).prot = s.prot := rfl
@[simp] theorem State.modPort_farReads (p : Nat) (f : Port → Port) : (s.modPort p f).farReads = s.farReads := rfl
@[simp] theorem State.modPort_temp (p : Nat) (f : Port → Port) : (s.modPort p f).temp = s.temp := rfl
@[simp] theorem State.modPort_power (p : Nat) (f : Port → Port) : (s.modPort p f).power = s.power := rfl
@[simp] theorem State.modPort_sent (p : Nat) (f : Port → Port) : (s.modPort p f).sent = s.sent := rfl
@[simp] theorem State.modPort_signals (p : Nat) (f : Port → Port) : (s.modPort p f).signals = s.signals := rfl
@[simp] theorem State.modPort_nodes (p : Nat) (f : Port → Port) : (s.modPort p f).nodes = s.nodes := rfl

/-! ### wr -/
@[simp] theorem State.wr_marks (k n v : Nat) : (s.wr k n v).marks = s.marks := rfl
@[simp] theorem State.wr_clusters (k n v : Nat) : (s.wr k n v).clusters = s.clusters := rfl
@[simp] theorem State.wr_dies (k n v : Nat) : (s.wr k n v).dies = s.dies := rfl
@[simp] theorem State.wr_iods (k n v : Nat) : (s.wr k n v).iods = s.iods := rfl
@[simp] theorem State.wr_ports (k n v : Nat) : (s.wr k n v).ports = s.ports := rfl
@[simp] theorem State.wr_ctxs (k n v : Nat) : (s.wr k n v).ctxs = s.ctxs := rfl
@[simp] theorem State.wr_nextCid (k n v : Nat) : (s.wr k n v).nextCid = s.nextCid := rfl
@[simp] theorem State.wr_keys (k n v : Nat) : (s.wr k n v).keys = s.keys := rfl
@[simp] theorem State.wr_reports (k n v : Nat) : (s.wr k n v).reports = s.reports := rfl
@[simp] theorem State.wr_ivc (k n v : Nat) : (s.wr k n v).ivc = s.ivc := rfl
@[simp] theorem State.wr_resets (k n v : Nat) : (s.wr k n v).resets = s.resets := rfl
@[simp] theorem State.wr_firmware (k n v : Nat) : (s.wr k n v).firmware = s.firmware := rfl
@[simp] theorem State.wr_stagedFw (k n v : Nat) : (s.wr k n v).stagedFw = s.stagedFw := rfl
@[simp] theorem State.wr_cmdId (k n v : Nat) : (s.wr k n v).cmdId = s.cmdId := rfl
@[simp] theorem State.wr_cew (k n v : Nat) : (s.wr k n v).cew = s.cew := rfl
@[simp] theorem State.wr_cur (k n v : Nat) : (s.wr k n v).cur = s.cur := rfl
@[simp] theorem State.wr_agenda (k n v : Nat) : (s.wr k n v).agenda = s.agenda := rfl
@[simp] theorem State.wr_tick (k n v : Nat) : (s.wr k n v).tick = s.tick := rfl
@[simp] theorem State.wr_prot (k n v : Nat) : (s.wr k n v).prot = s.prot := rfl
@[simp] theorem State.wr_farReads (k n v : Nat) : (s.wr k n v).farReads = s.farReads := rfl
@[simp] theorem State.wr_temp (k n v : Nat) : (s.wr k n v).temp = s.temp := rfl
@[simp] theorem State.wr_power (k n v : Nat) : (s.wr k n v).power = s.power := rfl
@[simp] theorem State.wr_sent (k n v : Nat) : (s.wr k n v).sent = s.sent := rfl
@[simp] theorem State.wr_signals (k n v : Nat) : (s.wr k n v).signals = s.signals := rfl
@[simp] theorem State.wr_nodes (k n v : Nat) : (s.wr k n v).nodes = s.nodes := rfl

/-! ### wr64 -/
@[simp] theorem State.wr64_marks (k : Nat) (v : DWord) : (s.wr64 k v).marks = s.marks := rfl
@[simp] theorem State.wr64_clusters (k : Nat) (v : DWord) : (s.wr64 k v).clusters = s.clusters := rfl
@[simp] theorem State.wr64_dies (k : Nat) (v : DWord) : (s.wr64 k v).dies = s.dies := rfl
@[simp] theorem State.wr64_iods (k : Nat) (v : DWord) : (s.wr64 k v).iods = s.iods := rfl
@[simp] theorem State.wr64_ports (k : Nat) (v : DWord) : (s.wr64 k v).ports = s.ports := rfl
@[simp] theorem State.wr64_ctxs (k : Nat) (v : DWord) : (s.wr64 k v).ctxs = s.ctxs := rfl
@[simp] theorem State.wr64_nextCid (k : Nat) (v : DWord) : (s.wr64 k v).nextCid = s.nextCid := rfl
@[simp] theorem State.wr64_keys (k : Nat) (v : DWord) : (s.wr64 k v).keys = s.keys := rfl
@[simp] theorem State.wr64_reports (k : Nat) (v : DWord) : (s.wr64 k v).reports = s.reports := rfl
@[simp] theorem State.wr64_ivc (k : Nat) (v : DWord) : (s.wr64 k v).ivc = s.ivc := rfl
@[simp] theorem State.wr64_resets (k : Nat) (v : DWord) : (s.wr64 k v).resets = s.resets := rfl
@[simp] theorem State.wr64_firmware (k : Nat) (v : DWord) : (s.wr64 k v).firmware = s.firmware := rfl
@[simp] theorem State.wr64_stagedFw (k : Nat) (v : DWord) : (s.wr64 k v).stagedFw = s.stagedFw := rfl
@[simp] theorem State.wr64_cmdId (k : Nat) (v : DWord) : (s.wr64 k v).cmdId = s.cmdId := rfl
@[simp] theorem State.wr64_cew (k : Nat) (v : DWord) : (s.wr64 k v).cew = s.cew := rfl
@[simp] theorem State.wr64_cur (k : Nat) (v : DWord) : (s.wr64 k v).cur = s.cur := rfl
@[simp] theorem State.wr64_agenda (k : Nat) (v : DWord) : (s.wr64 k v).agenda = s.agenda := rfl
@[simp] theorem State.wr64_tick (k : Nat) (v : DWord) : (s.wr64 k v).tick = s.tick := rfl
@[simp] theorem State.wr64_prot (k : Nat) (v : DWord) : (s.wr64 k v).prot = s.prot := rfl
@[simp] theorem State.wr64_farReads (k : Nat) (v : DWord) : (s.wr64 k v).farReads = s.farReads := rfl
@[simp] theorem State.wr64_temp (k : Nat) (v : DWord) : (s.wr64 k v).temp = s.temp := rfl
@[simp] theorem State.wr64_power (k : Nat) (v : DWord) : (s.wr64 k v).power = s.power := rfl
@[simp] theorem State.wr64_sent (k : Nat) (v : DWord) : (s.wr64 k v).sent = s.sent := rfl
@[simp] theorem State.wr64_signals (k : Nat) (v : DWord) : (s.wr64 k v).signals = s.signals := rfl
@[simp] theorem State.wr64_nodes (k : Nat) (v : DWord) : (s.wr64 k v).nodes = s.nodes := rfl

/-! ### setMark -/
@[simp] theorem State.setMark_mem (k v : Nat) : (s.setMark k v).mem = s.mem := rfl
@[simp] theorem State.setMark_clusters (k v : Nat) : (s.setMark k v).clusters = s.clusters := rfl
@[simp] theorem State.setMark_dies (k v : Nat) : (s.setMark k v).dies = s.dies := rfl
@[simp] theorem State.setMark_iods (k v : Nat) : (s.setMark k v).iods = s.iods := rfl
@[simp] theorem State.setMark_ports (k v : Nat) : (s.setMark k v).ports = s.ports := rfl
@[simp] theorem State.setMark_ctxs (k v : Nat) : (s.setMark k v).ctxs = s.ctxs := rfl
@[simp] theorem State.setMark_nextCid (k v : Nat) : (s.setMark k v).nextCid = s.nextCid := rfl
@[simp] theorem State.setMark_keys (k v : Nat) : (s.setMark k v).keys = s.keys := rfl
@[simp] theorem State.setMark_reports (k v : Nat) : (s.setMark k v).reports = s.reports := rfl
@[simp] theorem State.setMark_ivc (k v : Nat) : (s.setMark k v).ivc = s.ivc := rfl
@[simp] theorem State.setMark_resets (k v : Nat) : (s.setMark k v).resets = s.resets := rfl
@[simp] theorem State.setMark_firmware (k v : Nat) : (s.setMark k v).firmware = s.firmware := rfl
@[simp] theorem State.setMark_stagedFw (k v : Nat) : (s.setMark k v).stagedFw = s.stagedFw := rfl
@[simp] theorem State.setMark_cmdId (k v : Nat) : (s.setMark k v).cmdId = s.cmdId := rfl
@[simp] theorem State.setMark_cew (k v : Nat) : (s.setMark k v).cew = s.cew := rfl
@[simp] theorem State.setMark_cur (k v : Nat) : (s.setMark k v).cur = s.cur := rfl
@[simp] theorem State.setMark_agenda (k v : Nat) : (s.setMark k v).agenda = s.agenda := rfl
@[simp] theorem State.setMark_tick (k v : Nat) : (s.setMark k v).tick = s.tick := rfl
@[simp] theorem State.setMark_prot (k v : Nat) : (s.setMark k v).prot = s.prot := rfl
@[simp] theorem State.setMark_farReads (k v : Nat) : (s.setMark k v).farReads = s.farReads := rfl
@[simp] theorem State.setMark_temp (k v : Nat) : (s.setMark k v).temp = s.temp := rfl
@[simp] theorem State.setMark_power (k v : Nat) : (s.setMark k v).power = s.power := rfl
@[simp] theorem State.setMark_sent (k v : Nat) : (s.setMark k v).sent = s.sent := rfl
@[simp] theorem State.setMark_signals (k v : Nat) : (s.setMark k v).signals = s.signals := rfl
@[simp] theorem State.setMark_nodes (k v : Nat) : (s.setMark k v).nodes = s.nodes := rfl

/-! ### modCtx -/
@[simp] theorem State.modCtx_mem (cid : Nat) (f : Ctx → Ctx) : (s.modCtx cid f).mem = s.mem := by
  unfold State.modCtx; split <;> rfl
@[simp] theorem State.modCtx_marks (cid : Nat) (f : Ctx → Ctx) : (s.modCtx cid f).marks = s.marks := by
  unfold State.modCtx; split <;> rfl
@[simp] theorem State.modCtx_clusters (cid : Nat) (f : Ctx → Ctx) : (s.modCtx cid f).clusters = s.clusters := by
  unfold State.modCtx; split <;> rfl
@[simp] theorem State.modCtx_dies (cid : Nat) (f : Ctx → Ctx) : (s.modCtx cid f).dies = s.dies := by
  unfold State.modCtx; split <;> rfl
@[simp] theorem State.modCtx_iods (cid : Nat) (f : Ctx → Ctx) : (s.modCtx cid f).iods = s.iods := by
  unfold State.modCtx; split <;> rfl
@[simp] theorem State.modCtx_ports (cid : Nat) (f : Ctx → Ctx) : (s.modCtx cid f).ports = s.ports := by
  unfold State.modCtx; split <;> rfl
@[simp] theorem State.modCtx_nextCid (cid : Nat) (f : Ctx → Ctx) : (s.modCtx cid f).nextCid = s.nextCid := by
  unfold State.modCtx; split <;> rfl
@[simp] theorem State.modCtx_keys (cid : Nat) (f : Ctx → Ctx) : (s.modCtx cid f).keys = s.keys := by
  unfold State.modCtx; split <;> rfl
@[simp] theorem State.modCtx_reports (cid : Nat) (f : Ctx → Ctx) : (s.modCtx cid f).reports = s.reports := by
  unfold State.modCtx; split <;> rfl
@[simp] theorem State.modCtx_ivc (cid : Nat) (f : Ctx → Ctx) : (s.modCtx cid f).ivc = s.ivc := by
  unfold State.modCtx; split <;> rfl
@[simp] theorem State.modCtx_resets (cid : Nat) (f : Ctx → Ctx) : (s.modCtx cid f).resets = s.resets := by
  unfold State.modCtx; split <;> rfl
@[simp] theorem State.modCtx_firmware (cid : Nat) (f : Ctx → Ctx) : (s.modCtx cid f).firmware = s.firmware := by
  unfold State.modCtx; split <;> rfl
@[simp] theorem State.modCtx_stagedFw (cid : Nat) (f : Ctx → Ctx) : (s.modCtx cid f).stagedFw = s.stagedFw := by
  unfold State.modCtx; split <;> rfl
@[simp] theorem State.modCtx_cmdId (cid : Nat) (f : Ctx → Ctx) : (s.modCtx cid f).cmdId = s.cmdId := by
  unfold State.modCtx; split <;> rfl
@[simp] theorem State.modCtx_cew (cid : Nat) (f : Ctx → Ctx) : (s.modCtx cid f).cew = s.cew := by
  unfold State.modCtx; split <;> rfl
@[simp] theorem State.modCtx_cur (cid : Nat) (f : Ctx → Ctx) : (s.modCtx cid f).cur = s.cur := by
  unfold State.modCtx; split <;> rfl
@[simp] theorem State.modCtx_agenda (cid : Nat) (f : Ctx → Ctx) : (s.modCtx cid f).agenda = s.agenda := by
  unfold State.modCtx; split <;> rfl
@[simp] theorem State.modCtx_tick (cid : Nat) (f : Ctx → Ctx) : (s.modCtx cid f).tick = s.tick := by
  unfold State.modCtx; split <;> rfl
@[simp] theorem State.modCtx_prot (cid : Nat) (f : Ctx → Ctx) : (s.modCtx cid f).prot = s.prot := by
  unfold State.modCtx; split <;> rfl
@[simp] theorem State.modCtx_farReads (cid : Nat) (f : Ctx → Ctx) : (s.modCtx cid f).farReads = s.farReads := by
  unfold State.modCtx; split <;> rfl
@[simp] theorem State.modCtx_temp (cid : Nat) (f : Ctx → Ctx) : (s.modCtx cid f).temp = s.temp := by
  unfold State.modCtx; split <;> rfl
@[simp] theorem State.modCtx_power (cid : Nat) (f : Ctx → Ctx) : (s.modCtx cid f).power = s.power := by
  unfold State.modCtx; split <;> rfl
@[simp] theorem State.modCtx_sent (cid : Nat) (f : Ctx → Ctx) : (s.modCtx cid f).sent = s.sent := by
  unfold State.modCtx; split <;> rfl
@[simp] theorem State.modCtx_signals (cid : Nat) (f : Ctx → Ctx) : (s.modCtx cid f).signals = s.signals := by
  unfold State.modCtx; split <;> rfl
@[simp] theorem State.modCtx_nodes (cid : Nat) (f : Ctx → Ctx) : (s.modCtx cid f).nodes = s.nodes := by
  unfold State.modCtx; split <;> rfl

/-! ### What the changed field becomes -/
@[simp] theorem State.wr_mem (k n v : Nat) : (s.wr k n v).mem = writeLe s.mem k n v := rfl
@[simp] theorem State.wr64_mem (k : Nat) (v : DWord) : (s.wr64 k v).mem = writeLe s.mem k 8 v.toNat := rfl
@[simp] theorem State.setMark_marks (k v : Nat) : (s.setMark k v).marks = Map.put 0 s.marks (k / 64) v := rfl
@[simp] theorem State.modCluster_clusters (c : Nat) (f : Cluster → Cluster) : (s.modCluster c f).clusters = s.clusters.mod {} c f := rfl
@[simp] theorem State.modDie_dies (d : Nat) (f : Die → Die) : (s.modDie d f).dies = s.dies.mod {} d f := rfl
@[simp] theorem State.modIod_iods (i : Nat) (f : Iod → Iod) : (s.modIod i f).iods = s.iods.mod {} i f := rfl
@[simp] theorem State.modPort_ports (p : Nat) (f : Port → Port) : (s.modPort p f).ports = s.ports.mod {} p f := rfl

/-! ### A stream's register write and its buffer -/
@[simp] theorem Stream.wr_arch (st : Stream) (d : BitVec 6) (v : DWord) (t : Bool) : (st.wr d v t).arch = st.arch := rfl
@[simp] theorem Stream.addEff_arch (st : Stream) (e : Eff) : (st.addEff e).arch = st.arch := rfl
@[simp] theorem Stream.addEff_view (st : Stream) (e : Eff) : (st.addEff e).view = st.view := rfl
@[simp] theorem Stream.wr_pc (st : Stream) (d : BitVec 6) (v : DWord) (t : Bool) : (st.wr d v t).pc = st.pc := rfl
@[simp] theorem Stream.addEff_pc (st : Stream) (e : Eff) : (st.addEff e).pc = st.pc := rfl
@[simp] theorem Stream.wr_phase (st : Stream) (d : BitVec 6) (v : DWord) (t : Bool) : (st.wr d v t).phase = st.phase := rfl
@[simp] theorem Stream.addEff_phase (st : Stream) (e : Eff) : (st.addEff e).phase = st.phase := rfl
@[simp] theorem Stream.wr_idx (st : Stream) (d : BitVec 6) (v : DWord) (t : Bool) : (st.wr d v t).idx = st.idx := rfl
@[simp] theorem Stream.addEff_idx (st : Stream) (e : Eff) : (st.addEff e).idx = st.idx := rfl
@[simp] theorem Stream.wr_len (st : Stream) (d : BitVec 6) (v : DWord) (t : Bool) : (st.wr d v t).len = st.len := rfl
@[simp] theorem Stream.addEff_len (st : Stream) (e : Eff) : (st.addEff e).len = st.len := rfl
@[simp] theorem Stream.wr_wflag (st : Stream) (d : BitVec 6) (v : DWord) (t : Bool) : (st.wr d v t).wflag = st.wflag := rfl
@[simp] theorem Stream.addEff_wflag (st : Stream) (e : Eff) : (st.addEff e).wflag = st.wflag := rfl
@[simp] theorem Stream.wr_tflag (st : Stream) (d : BitVec 6) (v : DWord) (t : Bool) : (st.wr d v t).tflag = st.tflag := rfl
@[simp] theorem Stream.addEff_tflag (st : Stream) (e : Eff) : (st.addEff e).tflag = st.tflag := rfl
@[simp] theorem Stream.wr_waiting (st : Stream) (d : BitVec 6) (v : DWord) (t : Bool) : (st.wr d v t).waiting = st.waiting := rfl
@[simp] theorem Stream.wr_prio (st : Stream) (d : BitVec 6) (v : DWord) (t : Bool) : (st.wr d v t).prio = st.prio := rfl
@[simp] theorem Stream.addEff_waiting (st : Stream) (e : Eff) : (st.addEff e).waiting = st.waiting := rfl
@[simp] theorem Stream.addEff_prio (st : Stream) (e : Eff) : (st.addEff e).prio = st.prio := rfl
@[simp] theorem Stream.wr_next (st : Stream) (d : BitVec 6) (v : DWord) (t : Bool) : (st.wr d v t).next = st.next := rfl
@[simp] theorem Stream.addEff_next (st : Stream) (e : Eff) : (st.addEff e).next = st.next := rfl
@[simp] theorem Stream.wr_taken (st : Stream) (d : BitVec 6) (v : DWord) (t : Bool) : (st.wr d v t).taken = st.taken := rfl
@[simp] theorem Stream.addEff_taken (st : Stream) (e : Eff) : (st.addEff e).taken = st.taken := rfl
@[simp] theorem Stream.wr_isRet (st : Stream) (d : BitVec 6) (v : DWord) (t : Bool) : (st.wr d v t).isRet = st.isRet := rfl
@[simp] theorem Stream.addEff_isRet (st : Stream) (e : Eff) : (st.addEff e).isRet = st.isRet := rfl
@[simp] theorem Stream.wr_isReti (st : Stream) (d : BitVec 6) (v : DWord) (t : Bool) : (st.wr d v t).isReti = st.isReti := rfl
@[simp] theorem Stream.addEff_isReti (st : Stream) (e : Eff) : (st.addEff e).isReti = st.isReti := rfl
@[simp] theorem Stream.wr_isExit (st : Stream) (d : BitVec 6) (v : DWord) (t : Bool) : (st.wr d v t).isExit = st.isExit := rfl
@[simp] theorem Stream.addEff_isExit (st : Stream) (e : Eff) : (st.addEff e).isExit = st.isExit := rfl
@[simp] theorem Stream.wr_isYield (st : Stream) (d : BitVec 6) (v : DWord) (t : Bool) : (st.wr d v t).isYield = st.isYield := rfl
@[simp] theorem Stream.addEff_isYield (st : Stream) (e : Eff) : (st.addEff e).isYield = st.isYield := rfl
@[simp] theorem Stream.wr_queues (st : Stream) (d : BitVec 6) (v : DWord) (t : Bool) : (st.wr d v t).queues = st.queues := rfl
@[simp] theorem Stream.addEff_queues (st : Stream) (e : Eff) : (st.addEff e).queues = st.queues := rfl
@[simp] theorem Stream.wr_issued (st : Stream) (d : BitVec 6) (v : DWord) (t : Bool) : (st.wr d v t).issued = st.issued := rfl
@[simp] theorem Stream.addEff_issued (st : Stream) (e : Eff) : (st.addEff e).issued = st.issued := rfl
@[simp] theorem Stream.wr_asyncs (st : Stream) (d : BitVec 6) (v : DWord) (t : Bool) : (st.wr d v t).asyncs = st.asyncs := rfl
@[simp] theorem Stream.addEff_asyncs (st : Stream) (e : Eff) : (st.addEff e).asyncs = st.asyncs := rfl
@[simp] theorem Stream.wr_exitBlk (st : Stream) (d : BitVec 6) (v : DWord) (t : Bool) : (st.wr d v t).exitBlk = st.exitBlk := rfl
@[simp] theorem Stream.addEff_exitBlk (st : Stream) (e : Eff) : (st.addEff e).exitBlk = st.exitBlk := rfl
@[simp] theorem Stream.wr_brRing (st : Stream) (d : BitVec 6) (v : DWord) (t : Bool) : (st.wr d v t).brRing = st.brRing := rfl
@[simp] theorem Stream.addEff_brRing (st : Stream) (e : Eff) : (st.addEff e).brRing = st.brRing := rfl
@[simp] theorem Stream.wr_memRing (st : Stream) (d : BitVec 6) (v : DWord) (t : Bool) : (st.wr d v t).memRing = st.memRing := rfl
@[simp] theorem Stream.addEff_memRing (st : Stream) (e : Eff) : (st.addEff e).memRing = st.memRing := rfl
@[simp] theorem Stream.wr_brPos (st : Stream) (d : BitVec 6) (v : DWord) (t : Bool) : (st.wr d v t).brPos = st.brPos := rfl
@[simp] theorem Stream.addEff_brPos (st : Stream) (e : Eff) : (st.addEff e).brPos = st.brPos := rfl
@[simp] theorem Stream.wr_memPos (st : Stream) (d : BitVec 6) (v : DWord) (t : Bool) : (st.wr d v t).memPos = st.memPos := rfl
@[simp] theorem Stream.addEff_memPos (st : Stream) (e : Eff) : (st.addEff e).memPos = st.memPos := rfl
@[simp] theorem Stream.wr_armed (st : Stream) (d : BitVec 6) (v : DWord) (t : Bool) : (st.wr d v t).armed = st.armed := rfl
@[simp] theorem Stream.addEff_armed (st : Stream) (e : Eff) : (st.addEff e).armed = st.armed := rfl
@[simp] theorem Stream.wr_yields (st : Stream) (d : BitVec 6) (v : DWord) (t : Bool) : (st.wr d v t).yields = st.yields := rfl
@[simp] theorem Stream.addEff_yields (st : Stream) (e : Eff) : (st.addEff e).yields = st.yields := rfl
@[simp] theorem Stream.wr_view (st : Stream) (d : BitVec 6) (v : DWord) (t : Bool) : (st.wr d v t).view = st.view.ws d v t := rfl
@[simp] theorem Stream.addEff_effs (st : Stream) (e : Eff) : (st.addEff e).effs = st.effs ++ [(st.idx, e)] := rfl

end Sys2Proof.Machine
end

