-- ==== Sys2Proof/Tests/Slice0.lean ====
section
/-! SUPPORT. The tests: a witness for every statement with hypotheses, one word per encoded row of the opcode table, ill-formed terms,
and the manual's worked words and values. -/
namespace Sys2Proof.Tests
open Sys2Proof Sys2Proof.Machine

/-! ### States of the witnesses -/

/-- A running stream in a block of 2 words at 0x4000, whose page is cached; headers at 0x4000 and 0x4008. -/
def sq : State := (placeSeq State.reset 0xF0000040).modStream 0 0 fun st => { st with phase := .inBlock, len := 2, wflag := true }
def sqWith (f : Stream → Stream) : State := sq.modStream 0 0 f
/-- s1 holds a value. -/
def sqReg (v : DWord) : State := sqWith fun st => { st with view := { st.view with s := [(1, v)] } }

/-- A token with one lane in colour 0. -/
def tok (v : Word) : Token := { kind := kDense, lanes := [v] }
/-- A change of depth 0. -/
def chg (d : Word) : Token := { kind := kChg, lanes := [d, 0, 0, 0, 7] }

/-- CE 0 with an operation word in slot 0 and the operands of its matching entry. -/
def ceEntry (w : Word) (a b x : Option Token) : State :=
  (placeSlot State.reset 0 w).modElem 0 0 0 fun e => { e with slots := [(0, { entries := [(0, { a := a, b := b, c := x })] })] }
/-- CE 0 with an operation word in slot 0 and tokens at the heads of ports A and B. -/
def ceHeads (w : Word) (a b : List Token) : State :=
  (placeSlot State.reset 0 w).modElem 0 0 0 fun e => { e with inA := a, inB := b }
/-- ME 1 with an operation word and a token at port A. -/
def meHead (w : Word) (a : List Token) : State :=
  { (placeSlot State.reset 1 w).modElem 0 1 0 fun e => { e with inA := a } with cur := { site := 1 } }

/-- The firing and element of a slot. -/
def firing (s : State) : Firing := (s.readyAt s.cur.cluster s.cur.site s.cur.ctx s.cur.slot).getD { c := 0, k := 0, site := 0, slot := 0, info := { i := .nop, reads := [], pair := [], outs := [] } }
def element (s : State) : Elem := (s.elem? s.cur.cluster s.cur.site s.cur.ctx).getD default

/-- The head that the slot's firing takes at A. -/
def headA (s : State) : Token := (firing s).a.getD default

/-- The slot that acts fires on an operand at A. -/
def fires (s : State) : Bool :=
  decide (s.elem? s.cur.cluster s.cur.site s.cur.ctx = some (element s)) &&
  decide (s.readyAt s.cur.cluster s.cur.site s.cur.ctx s.cur.slot = some (firing s)) &&
  decide ((firing s).info.needs.all ((element s).room (firing s).slot) = true) &&
  decide (s.anyDeep (firing s) = false) &&
  decide ((firing s).a = some (headA s))

/-- The slot fires on a token at A, and more holds of the firing, the element and the token. -/
def Meets (s : State) (p : Firing → Elem → Token → Prop) : Prop :=
  s.CanFire (firing s) (element s) ∧ (firing s).a = some (headA s) ∧ p (firing s) (element s) (headA s)

theorem meets_of {s : State} {p : Firing → Elem → Token → Prop} (h : fires s = true) (hp : p (firing s) (element s) (headA s)) : Meets s p := by
  simp only [fires, Bool.and_eq_true, decide_eq_true_eq] at h
  obtain ⟨⟨⟨⟨h1, h2⟩, h3⟩, h4⟩, h5⟩ := h
  exact ⟨⟨h1, h2, h3, h4⟩, h5, hp⟩

/-- add on a full entry. -/
def add2 : State := ceEntry 0x04000000 (some (tok 3)) (some (tok 4)) none
/-- A state with its context changed. -/
def withCtx (s : State) (g : Ctx → Ctx) : State := s.modCtx 1 g
/-- add on changes of a colour of depth 1, at time (0, n). -/
def deep (d : Nat) (n : Word) : State :=
  withCtx (ceEntry 0x04000000 (some { chg 1 with lanes := [1, 0, n, 0, 7] }) (some (tok 4)) none) fun x => { x with colours := [(0, { depth := d })] }

/-! ### Witnesses: sequencer statements -/

/-- An access that succeeds, with what more holds of the state after it. -/
theorem ok_of {α : Type} {x : State × Except (Nat × Nat) α} {v : α} (h : x.2.toOption = some v) : ∃ s, x = (s, .ok v) := by
  obtain ⟨s, _ | w⟩ := x <;> simp_all [Except.toOption]
theorem ok_with {α : Type} {x : State × Except (Nat × Nat) α} {v : α} {p : State → Prop} (h : x.2.toOption = some v) (hp : p x.1) :
    ∃ s, x = (s, .ok v) ∧ p s := by
  obtain ⟨s, rfl⟩ := ok_of h; exact ⟨s, rfl, hp⟩

/-- A computed pair, with what more holds of its state. -/
theorem eq_with {α : Type} {x : State × α} {v : α} {p : State → Prop} (h : x.2 = v) (hp : p x.1) : ∃ s, x = (s, v) ∧ p s := by
  obtain ⟨s, w⟩ := x; cases h; exact ⟨s, rfl, hp⟩

/-- A stream's move, with its word EXIT. -/
def moveStream : State := { sq with agenda := [⟨{}, .stream⟩] }
/-- The state in which the chosen stream moves. -/
def turned (s : State) : State := (nextMove s).1.streamTurn
def streamMoves (s : State) : Bool :=
  agentOk (nextMove s).1.cur && decide ((nextMove s).2 = .stream) && (nextMove s).1.issues 0 0 && (turned s).running (turned s).cur.cluster (turned s).cur.ctx
theorem witness_StepRunsDecoded_stream :
    streamMoves moveStream = true ∧ (turned moveStream).me.phase = .inBlock ∧ (turned moveStream).me.waiting = false ∧ (turned moveStream).me.asyncs = [] ∧
      (∃ v, (turned moveStream).fetchWord 0 0 0x4004 = (v, .ok 0xF0000040)) ∧ decodeSeq 0xF0000040 = .ok .exit :=
  ⟨by decide, by decide, by decide, by decide, ok_of (by decide), rfl⟩
theorem witness_StepRunsDecoded_bad :
    (∃ v, (turned { moveStream with mem := [] }).fetchWord 0 0 0x4004 = (v, .ok 0)) ∧ decodeSeq 0 = .bad 1 :=
  ⟨ok_of (by decide), rfl⟩
/-- A move of stream 0 at the boundary before its block. -/
def atBoundary : State := { placeSeq State.reset 0xF0000040 with agenda := [⟨{}, .stream⟩] }
theorem witness_StepRunsDecoded_block :
    streamMoves atBoundary = true ∧ (turned atBoundary).me.phase = .ready ∧ (turned atBoundary).me.asyncs = [] ∧
      (∃ x, (turned atBoundary).ctxAt 0 0 = some x ∧ x.susp = false ∧ x.evicting = false) ∧
      ∃ v, (turned atBoundary).fetchWord 0 0 0x4000 = (v, .ok 0xFC008000) ∧ isHeader 0xFC008000 = true ∧ headerClean 0xFC008000 = true ∧
        ((v.beginBlock 0xFC008000).fetchWord 0 0 0x4004).2.toOption = some 0xF0000040 :=
  ⟨by decide, by decide, by decide, ⟨_, rfl, by decide, by decide⟩, ok_with (by decide) ⟨by decide, by decide, by decide⟩⟩
theorem witness_StepRunsDecoded_phases :
    let s (f : Stream → Stream) : State := turned { sqWith f with agenda := [⟨{}, .stream⟩] }
    ((s fun st => { st with phase := .ready, asyncs := [⟨0x0D, 0x81, 0⟩] }).me.phase = .ready ∧
      (s fun st => { st with phase := .ready, asyncs := [⟨0x0D, 0x81, 0⟩] }).me.asyncs ≠ [] ∧
      (s fun st => { st with phase := .ready, asyncs := [⟨0x0D, 0x81, 0⟩] }).me.arch.th = false) ∧
      (s fun st => { st with phase := .committing }).me.phase = .committing ∧ (s fun st => { st with phase := .exiting }).me.phase = .exiting := by decide
theorem witness_StepRunsDecoded_fire :
    let s : State := { add2 with agenda := [⟨{}, .fire⟩] }
    let t : State := { meHead 0x0C400000 [tok 1] with agenda := [⟨{ site := 1 }, .fire⟩] }
    let u := (nextMove s).1.slotTurn
    let v := (nextMove t).1.slotTurn
    ((nextMove s).2 = .fire ∧ u.slotWord u.cur = some 0x04000000 ∧ isCeSite u.cur.site = true ∧ (decodeCe 0x04000000).isSome = true) ∧
      ((nextMove t).2 = .fire ∧ v.slotWord v.cur = some 0x0C400000 ∧ isCeSite v.cur.site = false ∧ (decodeMe 0x0C400000).isSome = true) ∧
      ∃ r ∈ (nextMove s).1.rivals 0 0, r.tried = false := by
  decide
theorem witness_StepRunsDecoded_event :
    let s : State := { State.reset with agenda := [⟨{}, .event .xinvPage⟩] }
    agentOk (nextMove s).1.cur = true ∧ (nextMove s).2 = .event .xinvPage := by decide
/-- A token at the head of CE 0's command input, and the move that takes it. -/
def commandMove (x : Token) : State :=
  { (placeSlot State.reset 0 0x04000000).modElem 0 0 0 fun e => { e with inQ := [x] } with agenda := [⟨{}, .command⟩] }
theorem witness_StepRunsDecoded_command (x : Token) :
    let t := (nextMove (commandMove x)).1
    (nextMove (commandMove x)).2 = .command ∧ t.running 0 0 = true ∧ ∃ e, t.elem? 0 0 0 = some e ∧ e.inQ = [x] ∧ e.snapped = false :=
  ⟨rfl, rfl, _, rfl, rfl, rfl⟩
/-- R40: a FETCH with lane 0 [3:0] at its largest, the first and last codes, and the kinds of picot. -/
theorem witness_StepRunsDecoded_codes :
    (∀ v ∈ [0x01000000, 0x0100000F, 0x0200000F, 0x03000003], v / 16 % 2 ^ 20 = 0 ∧ v / 2 ^ 24 ∈ [1, 2, 3]) ∧
      ∀ v ∈ [0, 1, 0x102], v % 256 ≤ 2 := by decide

theorem reset_canonical : State.reset.Canonical := ⟨rfl, rfl, fun _ => ⟨List.nodup_nil, by simp [State.cluster, State.reset, Map.get, Map.find?]⟩⟩
theorem witness_EveryStepKeepsCanonical :
    ∃ s t : State, s.Canonical ∧ step s = .next t :=
  ⟨{ State.reset with agenda := [⟨{}, .event .xinvPage⟩] }, _, reset_canonical, rfl⟩
theorem witness_SequencerRoundTrip : (Instr.cmp 3 9 4 5).wf = true ∧ (encodeSeq (.cmp 3 9 4 5)).isSome = true ∧ (Instr.cmp 3 10 4 5).wf = false := by decide
theorem witness_OperationRoundTrip :
    Instr.ceAdd.wf = true ∧ Instr.ceAdd.ceOk {} = true ∧ (encodeCe .ceAdd {}).isSome = true ∧
      (Instr.agsRd ⟨2, 15, 0, 0, 3⟩).wf = true ∧ (encodeMe (.agsRd ⟨2, 15, 0, 0, 3⟩)).isSome = true ∧
      (Instr.mma ⟨0x0B, 1, 0, 0, 1, 0, 0, 0, 0x00100001⟩).wf = true ∧ (encodeMx (.mma ⟨0x0B, 1, 0, 0, 1, 0, 0, 0, 0x00100001⟩)).isSome = true := by decide
theorem witness_MemoryReadsAndWrites : Memory.wf [(5, 1), (9, 255)] = true := by decide

theorem sq_advances : sq.CanAdvance := .inl (by decide)
/-- The last word of a block whose fall-through word is a header advances too. -/
theorem sq_advances_at_end : (sqWith fun st => { st with len := 1 }).CanAdvance := .inr (by decide)
/-- s1 = 0x4008, where a header lies. -/
theorem sq_branches : (sqReg 0x4008).CanBranch 0x4008 ∧ (sqReg 0x4008).me.view.rs 1 = 0x4008 ∧ (0x4008 : DWord).toNat % 4 = 0 := by
  refine ⟨?_, by decide, by decide⟩; unfold State.CanBranch; decide
theorem witness_RegisterFormsFrame : sq.CanAdvance ∧ ∃ t, exec (.add 1 2 3) sq = .next t := ⟨sq_advances, _, rfl⟩
theorem witness_AluResults : sq.CanAdvance := sq_advances
theorem witness_ImmediateAndPredicateResults : sq.CanAdvance ∧ (9 : BitVec 4).toNat ≤ 9 ∧ 9 < (10 : BitVec 4).toNat := ⟨sq_advances, by decide, by decide⟩
theorem witness_FloatResults : sq.CanAdvance := sq_advances
/-- R198: the numbers at the ends of the ranges of system registers. -/
theorem witness_SystemResults :
    sq.CanAdvance ∧ (∃ x, sq.ctxAt 0 0 = some x) ∧ (∃ r, sq.region? 0 0 = some r) ∧
      ∀ m ∈ [0x000, 0x001, 0x002, 0x009, 0x00A, 0x00B, 0x00C, 0x00D, 0x00F, 0x010, 0x017, 0x018, 0x01F, 0x020, 0x021, 0x3FF],
        (BitVec.ofNat 4 (m / 64)).toNat * 64 + (BitVec.ofNat 6 m).toNat = m := ⟨sq_advances, ⟨_, rfl⟩, ⟨_, rfl⟩, by decide⟩

theorem witness_MemoryInstructionResults_load :
    (∃ s1, (sqReg 0x100).loadView 0x100 8 .load = (s1, .ok 0) ∧ s1.CanAdvance) ∧
      (sqReg 0x100).me.view.rs 1 + ((0 : BitVec 12).signExtend 64 <<< 3) = 0x100 := ⟨ok_with (by decide) (.inl (by decide)), by decide⟩
theorem witness_MemoryInstructionResults_store : ∃ s1, (sqReg 0x100).access 0x100 8 .store = (s1, .ok (hbm 0x100)) ∧ s1.CanAdvance :=
  ok_with (by decide) (.inl (by decide))
theorem witness_MemoryInstructionResults_atomic :
    ∃ s1, (sqReg 0x100).access 0x100 8 .atomic = (s1, .ok (hbm 0x100)) ∧ isFar (hbm 0x100) = false ∧ (s1.touch (hbm 0x100) 8).2 = 0 ∧
      (s1.touch (hbm 0x100) 8).1.CanAdvance :=
  ok_with (by decide) ⟨by decide, by decide, .inl (by decide)⟩
/-- s1 = 0x100, translated by a leaf of another module's memory. -/
def far : State := (sqReg 0x100).modCluster 0 fun c => { c with seqTlb := [{ root := 0, va := 0, ps := 0, leaf := 0x2FF }] }
theorem witness_MemoryInstructionResults_far :
    ∃ s1, far.access 0x100 8 .atomic = (s1, .ok (leafKey 0x2FF 0x100)) ∧ isFar (leafKey 0x2FF 0x100) = true ∧ s1.CanAdvance :=
  ok_with (by decide) ⟨by decide, .inl (by decide)⟩
theorem witness_TransferResults :
    sq.me.view.rp 0 = decide ((1 : BitVec 1) = 0) ∧ (sq.CanBranch 0x4008) ∧ sq.me.view.rp 0 ≠ decide ((0 : BitVec 1) = 0) := by
  refine ⟨by decide, ?_, by decide⟩; unfold State.CanBranch; decide
theorem witness_TransferResults_return :
    (sqWith fun st => { st with view := { st.view with rstk := [0x4008] } }).me.view.rstk = 0x4008 :: [] ∧
      (sqWith fun st => { st with view := { st.view with rstk := [0x4008] } }).CanBranch 0x4008 := by
  refine ⟨by decide, ?_⟩; unfold State.CanBranch; decide
/-- A stream with a handler at 0x4008. -/
def handled : State := sqWith fun st => { st with arch := { st.arch with trapvec := 0x4008 } }
theorem witness_TrapsAndReturn : handled.me.arch.th = false ∧ handled.me.arch.trapvec ≠ 0 ∧ sq.me.arch.trapvec = 0 := by decide
theorem witness_TrapsAndReturn_reti :
    let s := sqWith fun st => { st with arch := { st.arch with th := true }, view := { st.view with trapblk := 0x4008 } }
    s.me.arch.th = true ∧ s.CanBranch s.me.view.trapblk := by
  refine ⟨by decide, ?_⟩; unfold State.CanBranch; decide
theorem witness_TimeAndFrontierResults :
    let s := sqWith fun st => { st with view := { st.view with tm := [(1, ⟨0xFFFFFFFE, 0, 0, 0xFFFF⟩)], hz := [(0, { bound := true })], s := [(1, 1), (2, 0x100000000)] } }
    s.CanAdvance ∧ (s.me.view.rt 1).coord 0 + (s.me.view.rs 1).toNat < 2 ^ coordBits 0 ∧ ¬ (s.me.view.rt 1).coord 3 + (s.me.view.rs 1).toNat < 2 ^ coordBits 3 ∧
      (s.me.view.rs 1).toNat ≤ (s.me.view.rt 1).coord 0 ∧ s.me.wflag = true ∧ (s.me.view.rh 0).bound = true ∧
      complete (s.frontierHere (s.me.view.rh 0).loc) (s.me.view.rt 1) = true := ⟨.inl (by decide), by decide, by decide, by decide, by decide, by decide, by decide⟩
theorem witness_TimeAndFrontierResults_publish :
    let s := (sq.modRegion 0 0 fun r => { r with tiSource := [3] }).modStream 0 0 fun st => { st with view := { st.view with s := [(1, 3)] } }
    s.isTiSource (BitVec.setWidth 16 (s.me.view.rs 1)).toNat = true ∧ ∀ t ∈ (s.me.view.rh 0).els, ∃ u ∈ s.sourceFrontier (s.locBaseHere + 3), u.le t = true := by decide
theorem witness_CommandsAreBuffered :
    sq.CanAdvance ∧ (sq.me.view.rs 0).toNat % 64 = 0 ∧ (sq.me.view.rs 0).toNat < 2 ^ 9 ∧ (placeSlot sq 1 0).agTyped 0 0 0 = true ∧
      (sq.modSite 0 0 fun x => { x with words := [{ net := 2, out := 4, inp := 0, ctx := 0, vc := 0, mc := false }] }).tiBad 0 0 0 0 0 = none :=
  ⟨sq_advances, by decide, by decide, by decide, by decide⟩
/-- A placement table of one dimension. -/
def oneDim : State := { sq with mem := writeLe sq.mem (hbm 0) 1 1 }
theorem oneDim_good : (oneDim.plGood 0 0 0 0).2 = some true := rfl
set_option maxRecDepth 200000 in
theorem oneDim_advances : decide ((oneDim.plGood 0 0 0 0).1.me.idx + 1 < (oneDim.plGood 0 0 0 0).1.me.len) = true := rfl
theorem witness_CommandsAreBuffered_placement : ∃ s1, oneDim.plGood 0 0 0 0 = (s1, some true) ∧ s1.CanAdvance :=
  eq_with oneDim_good (.inl (of_decide_eq_true oneDim_advances))
theorem witness_CommandsAreBuffered_objects :
    (∃ s1, (sqReg 0x100).objectAt 0x100 16 .load = (s1, .ok (hbm 0x100)) ∧ isFar (hbm 0x100) = false ∧ (s1.touch (hbm 0x100) 16).2 = 0 ∧
      (s1.touch (hbm 0x100) 16).1.CanAdvance ∧ (0 : DWord).bits 47 0 ≤ (s1.touch (hbm 0x100) 16).1.viewRd (hbm 0x100) 8 % 2 ^ 48) ∧
    (∃ s1, (sqReg 0x100).objectAt 0x100 32 .load = (s1, .ok (hbm 0x100)) ∧ (s1.touch (hbm 0x100) 32).2 = 0 ∧ (s1.touch (hbm 0x100) 32).1.CanAdvance ∧
      s1.viewRd (hbm 0x100) 8 ≤ s1.viewRd (hbm 0x108) 8 ∧ s1.viewRd (hbm 0x110) 8 % 4 ≠ 3) ∧
    (∃ s1, (sqReg 0x100).objectAt 0x100 16 .store = (s1, .ok (hbm 0x100)) ∧ s1.CanAdvance) ∧
    ∃ s1, (sqReg 0x100).objectAt 0x100 32 .store = (s1, .ok (hbm 0x100)) ∧ s1.CanAdvance :=
  ⟨ok_with (by decide) ⟨by decide, by decide, .inl (by decide), by decide⟩, ok_with (by decide) ⟨by decide, .inl (by decide), by decide, by decide⟩,
    ok_with (by decide) (.inl (by decide)), ok_with (by decide) (.inl (by decide))⟩
/-- A child of the context of s1's RCB at 0x100, in its partition. -/
def withChild : State := { sqReg 0x100 with ctxs := [(1, { rcb := 0x100 })], mem := writeLe sq.mem (hbm 0x107) 1 0x80 }
theorem witness_CommandsAreBuffered_contexts :
    ∃ s1, withChild.translate 0 false (withChild.rootAt 0 0) (withChild.me.view.rs 1) .load = (s1, .ok (hbm 0x100)) ∧
      keyAp (hbm 0x100) = 0 ∧ s1.CanAdvance ∧ s1.rd (hbm 0x104) 1 = 0 ∧ s1.isContextOf 0x100 (match s1.ctxAt s1.cur.cluster s1.cur.ctx with
         | some x => x.part
         | none => 0) = true :=
  ok_with (by decide) ⟨by decide, .inl (by decide), by decide, by decide⟩
/-- The block of a stream commits. -/
def commits : State := sqWith fun st => { st with phase := .committing }
theorem witness_StreamSteps :
    commits.me.phase = .committing ∧ commits.me.effs = [] ∧ ∃ s1 s2 s3, commits.commitStop = (s1, none) ∧ s1.commitFull = false ∧
      s1.farPhase 0 0 = (s2, false, none) ∧ s2.readForks = (s3, [], false) ∧ s3.rangesFull [] = false ∧
        s3.muRoom (s3.cidAt 0 0) s3.pubBatch.2 false = true :=
  ⟨by decide, by decide, _, _, _, rfl, by decide, rfl, rfl, by decide, by decide⟩
/-- A block that commits with n commands for a queue that holds m. -/
def enqueues (n m : Nat) : State := sqWith fun st =>
  { st with phase := .committing, effs := List.replicate n (0, .enq { q := 0, a := 0, obj := 0, c := 0 }), queues := [(0, List.replicate m { q := 0, a := 0, obj := 0, c := 0 })] }
/-- R53: 64 commands pass the check of a commit, a 65th traps; the block waits while its queue has no room for them. -/
theorem witness_StreamSteps_queue :
    (enqueues 64 0).commitStop.2 = none ∧ (enqueues 64 0).commitStop.1.commitFull = false ∧ (enqueues 1 64).commitStop.2 = none ∧
      (enqueues 1 64).commitStop.1.commitFull = true ∧ ((enqueues 65 0).commitStop.2.map CommitBad.code) = some 0x0D := by decide
/-- A block whose push spills where the memory is not ready. -/
theorem witness_StreamSteps_wait :
    let s := (sqWith fun st => { st with
      phase := .committing, effs := [(0, .push 0x4008)], view := { st.view with rstk := List.replicate 16 0x4008, spilllim := 0x100 } }).modDie 0 fun x => { x with drdy := 0 }
    s.me.phase = .committing ∧ s.commitStop.2.map CommitBad.code = some 0 := by decide
/-- A block that stores to another node's memory, as its store stands with the answer that has come. -/
def storing (ans : Option FarAns) : State :=
  let s := sqWith fun st => { st with phase := .committing, effs := [(0, .store 0x100 (leafKey 0x2FF 0x100) 8 5 false)] }
  { s with farReads := [{ who := farEff 0 0 0, port := 0, xfer := 0, key := leafKey 0x2FF 0x100, n := 8, write := true, answer := ans }] }
theorem witness_StreamSteps_far :
    (∃ s1 s2, (storing none).commitStop = (s1, none) ∧ s1.commitFull = false ∧ s1.farPhase 0 0 = (s2, true, none)) ∧
      (∃ s1 s2, (storing (some (.bad 4 2))).commitStop = (s1, none) ∧ s1.commitFull = false ∧ s1.farPhase 0 0 = (s2, false, some ⟨0, 4, 2, 0x100⟩)) ∧
      ∃ s1 s2, (storing (some .good)).commitStop = (s1, none) ∧ s1.commitFull = false ∧ s1.farPhase 0 0 = (s2, false, none) :=
  ⟨⟨_, _, rfl, by decide, rfl⟩, ⟨_, _, rfl, by decide, rfl⟩, _, _, rfl, by decide, rfl⟩
theorem witness_StreamSteps_async :
    let s := sqWith fun st => { st with phase := .ready, asyncs := [⟨0x0D, 0x81, 0⟩] }
    s.me.phase = .ready ∧ s.me.arch.th = false ∧ s.me.asyncs = ⟨0x0D, 0x81, 0⟩ :: [] := by decide
theorem witness_StreamSteps_waiting :
    let s := sqWith fun st => { st with waiting := true, asyncs := [⟨0x0D, 0x81, 0⟩] }
    s.me.phase = .inBlock ∧ s.me.waiting = true ∧ s.me.arch.th = false ∧ s.me.asyncs = ⟨0x0D, 0x81, 0⟩ :: [] := by decide
theorem witness_StreamSteps_abandon :
    let s := sqWith fun st => { st with phase := .committing, waiting := true, asyncs := [⟨0x0D, 0x81, 0⟩] }
    s.mayAbandon 0 0 = true ∧ s.me.arch.th = false ∧ s.me.asyncs = ⟨0x0D, 0x81, 0⟩ :: [] := by decide
theorem witness_StreamSteps_exit :
    let s := sqWith fun st => { st with phase := .exiting }
    s.me.phase = .exiting ∧ (∀ q ∈ s.me.queues, q.2 = []) ∧ s.me.issued = [] := by decide
theorem witness_PreciseTraps :
    let s := sqWith fun st => { st with wflag := false, view := { st.view with s := [(1, 0x101), (2, 0x10000)], tm := [(1, ⟨0, 0xFFFF, 0, 0⟩)] } }
    (s.me.view.rs 1).toNat % 2 ≠ 0 ∧ (s.me.view.rs 1).toNat % 4 ≠ 0 ∧ s.me.view.rstk = [] ∧ s.me.view.nspill = 0 ∧ s.me.arch.th = false ∧ s.me.wflag = false ∧
      2 ^ coordBits 1 ≤ (s.me.view.rt 1).coord 1 + (s.me.view.rs 2).toNat ∧ 2 ^ coordBits 1 ≤ (s.me.view.rt 1).coord 1 + 1 ∧
      ((s.me.view.rt 1).coord 1 < (s.me.view.rs 2).toNat ∧ 2 ^ coordBits 1 ≤ (s.me.view.rs 2).toNat) ∧ s.isTiSource 0x101 = false ∧
      2 ^ 9 ≤ (s.me.view.rs 2).toNat ∧ (s.plGood 0 0 0 0).2 = some false := by decide
/-- The memory of the die is not ready. -/
def unready : State := (sqReg 0x100).modDie 0 fun x => { x with drdy := 0 }
theorem witness_PreciseTraps_translation :
    (∃ s1, (sqReg 0x8000000000000000).translate 0 false ((sqReg 0x8000000000000000).rootAt 0 0) 0x8000000000000000 .store = (s1, .error (3, 1))) ∧
      (∃ s1, unready.translate 0 false (unready.rootAt 0 0) 0x100 .store = (s1, .error (0, 0))) ∧ sq.me.wflag = true ∧ (sq.me.view.rh 0).bound = false :=
  ⟨⟨_, rfl⟩, ⟨_, rfl⟩, by decide, by decide⟩
theorem witness_TranslationOutcome :
    canonical 0x4000 = true ∧ canonical 0x7FFFFFFFFFFF = true ∧ canonical 0x800000000000 = false ∧ canonical 0xFFFF800000000000 = true ∧
      State.reset.homeReady (hbm 0) = false ∧ sq.homeReady (hbm (sq.rootAt 0 0).toNat) = true ∧
      (sq.cluster 0).seqTlb.find? (fun t => t.hits (sq.rootAt 0 0) 0x4000) = some { root := 0, va := 0, ps := 0, leaf := placedLeaf } ∧
      placedLeaf.getLsbD 5 = true ∧ populated 0 (2 ^ 40) = false ∧ populated 0 (2 ^ 40 - 1) = true := by decide
/-- What an access meets. -/
def stopOf : Except (Nat × Nat) Nat → Option (Nat × Nat)
  | .error e => some e
  | .ok _ => none
/-- R143: the context has entered the 64 bytes at 0x4000; an access that meets one of them, and one of the byte after the last. -/
theorem witness_TranslationOutcome_entered :
    let s := sq.modCtx 1 fun x => { x with ranges := [⟨7, 0x4000, 0x4040⟩] }
    stopOf (s.access 0x403C 4 .store).2 = some (5, 1) ∧ stopOf (s.access 0x4040 4 .store).2 = none ∧ stopOf (s.agHome 0 0 0x403C 4 .load).2 = some (5, 2) ∧
      stopOf (s.engHome 0 0 8 0x4000 4 .load).2 = some (5, 2) ∧ stopOf (s.engHome 0 0 7 0x4000 4 .load).2 = none := by decide
theorem witness_StoresAndAtomicsAtCommit : isFar (hbm 0x100) = false ∧ isFar (leafKey 0x2FF 0x100) = true ∧ (5 : DWord).toNat < 2 ^ (8 * 4) ∧ (2 ^ 32 - 1 : DWord).toNat < 2 ^ (8 * 4) ∧ (3 : BitVec 6) ≠ 0 := by decide
/-- Three contexts, the third of another partition. -/
def three : State := { State.reset with ctxs := [(1, { rcb := 0 }), (2, { rcb := 1 }), (3, { rcb := 2, part := 9 })] }
theorem witness_FaultDomain :
    three.Canonical ∧ three.ctx? 1 = some { rcb := 0 } ∧ three.ctx? 2 = some { rcb := 1 } ∧ three.ctx? 3 = some { rcb := 2, part := 9 } :=
  ⟨⟨rfl, rfl, fun _ => reset_canonical.2.2 _⟩, rfl, rfl, rfl⟩
theorem witness_PointstampCounts_alone : ∃ x, three.ctx? 1 = some x ∧ x.peers = [] := ⟨_, rfl, rfl⟩
theorem witness_PointstampCounts : Keyed [⟨1, 4, ⟨0, 0, 0, 0⟩, 1⟩, ⟨1, 4, ⟨1, 0, 0, 0⟩, -1⟩] := ⟨by decide, by decide⟩
theorem witness_FrontierLaws : (minimal [Time.zero]).length ≤ 8 ∧ complete [Time.zero] ⟨5, 0, 0, 0⟩ = false := by decide
theorem witness_SignalsAndArms : hbm 0x100 ≠ 0 ∧ isFar (hbm 0x100) = false ∧ stPoisoned < 256 := by decide


/-! ### Witnesses: firings -/

/-- Operands at A, B and C of a slot's entry. -/
def abc (w : Word) (a b c : Token) : State := ceEntry w (some a) (some b) (some c)
/-- One operand at A. -/
def only (w : Word) (a : Token) : State := ceEntry w (some a) none none
/-- Colour 0 is allocated n lanes wide, and constant 1 is c. -/
def allocated (n : Nat) (c : Word) (s : State) : State :=
  (withCtx s fun x => { x with colours := [(0, { tags := 4, depth := 1 })], allocs := [(0, ⟨0, 16, n⟩)] }).modElem 0 0 0 fun e =>
    { e with unit := e.unit.map fun u => { u with consts := [(1, c)] } }
/-- The state kept by slot 0 of CE 0. -/
def kept (s : State) (g : SlotSt → SlotSt) : State := s.modElem 0 0 0 fun e => { e with slots := e.slots.map fun q => (q.1, g q.2) }
/-- A token of n lanes. -/
def wide (n : Nat) : Token := { kind := kDense, lanes := List.replicate n 1 }

/-- Channel 0 has a format entry. -/
def formatted (w : Word) (s : State) : State := s.modElem 0 0 0 fun e => { e with unit := e.unit.map fun u => { u with vcfmt := [(0, w)] } }

theorem witness_FiringFrame : add2.CanFire (firing add2) (element add2) := (meets_of (p := fun _ _ _ => True) (by decide) trivial).1
/-- gate on a token, whose result goes to slot 1 as well, where an operand stands in its entry. -/
def blocked : State :=
  (allocated 1 0 (ceEntry 0x4C008400 (some (tok 1)) (some (tok 1)) none)).modElem 0 0 0 fun e =>
    { e with
      unit := e.unit.map fun u => { u with words := u.words ++ [(1, 0x04000000)] },
      slots := e.slots ++ [(1, { entries := [(0, { b := some (tok 2) })] })] }
theorem witness_FiringsThatWait :
    State.reset.readyAt 0 0 0 0 = none ∧ (firing (add2.modElem 0 0 0 fun e => { e with out0 := [tok 1, tok 2] })).info.needs.all
      ((element (add2.modElem 0 0 0 fun e => { e with out0 := [tok 1, tok 2] })).room 0) = false ∧
      (firing (deep 0 0x10000)).info.needs.all ((element (deep 0 0x10000)).room 0) = true ∧
      (deep 0 0x10000).tooDeep 0 0 (headA (deep 0 0x10000)) = true ∧ (firing (deep 0 0x10000)).a = some (headA (deep 0 0x10000)) := by decide
theorem witness_FiringsThatWait_local : Meets blocked fun f _ a =>
    blocked.widthBad 0 0 a = false ∧ blocked.locBusy f { st := blocked, outs := [(f.out, a)] } = true := meets_of (by decide) (by decide)

theorem witness_FiringErrors_width : Meets (abc 0x04000000 (wide 2) (wide 3) (tok 1)) fun f _ a =>
    badWidths (CeEnv.ofFiring (element (abc 0x04000000 (wide 2) (wide 3) (tok 1))) f.info.w a).ty f.toks = true ∧ badWidths 3 f.toks = true :=
  meets_of (by decide) (by decide)
theorem witness_FiringErrors_accumulator : Meets (only 0x6C080000 (tok 1)) fun f e a => badWidths (CeEnv.ofFiring e f.info.w a).ty [a] = true :=
  meets_of (by decide) (by decide)
theorem witness_FiringErrors_last : Meets (only 0x60000000 { tok 1 with last := true }) fun f _ a =>
    isCeSite f.site = true ∧ f.info.isCred = false ∧ f.info.op ∈ [0x18, 0x19, 0x27] ∧ a.last = true := meets_of (by decide) (by decide)
theorem witness_FiringErrors_depth :
    Meets (deep 3 0) (fun f _ a => 3 ≤ ((deep 3 0).declOf f.c f.k a.colour.toNat).depth) ∧ Meets (deep 0 0) (fun f _ a => ((deep 0 0).declOf f.c f.k a.colour.toNat).depth = 0) ∧
      Meets (deep 1 0xFFFF0000) fun _ _ a => 0xFFFF < a.time.coord 1 + 1 := ⟨meets_of (by decide) (by decide), meets_of (by decide) (by decide), meets_of (by decide) (by decide)⟩
/-- Changes at A and B of a colour of one key lane, with different keys. -/
def keyed : State :=
  withCtx (ceEntry 0x04000000 (some { chg 1 with lanes := [1, 0, 0, 0, 8] }) (some (chg 2)) none) fun x => { x with colours := [(0, { kl := 1 })] }
theorem witness_FiringErrors_two :
    Meets keyed (fun f _ a => f.b = some (chg 2) ∧ a.recordOf (keyed.declOf f.c f.k a.colour.toNat) ≠ (chg 2).recordOf (keyed.declOf f.c f.k (chg 2).colour.toNat)) ∧
      Meets (ceEntry 0x04000000 (some { chg 1 with lanes := [1, 5, 0, 0, 7] }) (some (tok 4)) none) (fun f _ a => f.b = some (tok 4) ∧ ((tok 4).lane 0).toNat < a.time.coord 0) ∧
      Meets (ceEntry 0x04000000 (some (wide 29)) (some (tok 4)) none) fun f _ a => f.b = some (tok 4) ∧ 32 < a.width + 4 :=
  ⟨meets_of (by decide) (by decide), meets_of (by decide) (by decide), meets_of (by decide) (by decide)⟩
theorem witness_FiringErrors_group : Meets (kept add2 fun x => { x with size := 65536 }) (fun f e _ => 65536 ≤ (e.slot f.slot).size) := meets_of (by decide) (by decide)
theorem witness_FiringErrors_release :
    Meets (only 0xA0000020 (chg 1)) fun f _ a => ∃ x, (only 0xA0000020 (chg 1)).ctx? ((only 0xA0000020 (chg 1)).cidAt f.c f.k) = some x ∧
      x.heldAt 1 ((only 0xA0000020 (chg 1)).holdLoc f) a.time ≤ 0 := meets_of (by decide) ⟨_, rfl, by decide⟩
theorem witness_FiringErrors_poison : Meets (only 0xC0000020 { tok 1 with poison := true }) fun _ _ a => a.poison = true := meets_of (by decide) (by decide)
theorem witness_FiringErrors_alloc :
    Meets (allocated 3 1 (only 0x58000020 (wide 2))) fun f e a =>
      (∃ x, (allocated 3 1 (only 0x58000020 (wide 2))).ctxAt f.c f.k = some x ∧ x.colours.find? ((e.const f.info.w.k.toNat).toNat % 64) = none) ∧ a.width = 2 :=
  meets_of (by decide) ⟨⟨_, rfl, by decide⟩, by decide⟩
theorem witness_FiringErrors_tags :
    Meets (allocated 3 0xFF0000 (only 0x58000020 (wide 2))) fun f e a =>
      (∃ x y, (allocated 3 0xFF0000 (only 0x58000020 (wide 2))).ctxAt f.c f.k = some x ∧ x.colours.find? ((e.const f.info.w.k.toNat).toNat % 64) = some y ∧
        y.tags < ((e.const f.info.w.k.toNat).extractLsb' 16 8).toNat + 1) ∧
      (∃ al, (allocated 3 0xFF0000 (only 0x58000020 (wide 2))).alloc? f.c f.k ((e.const f.info.w.k.toNat).toNat % 64) = some al ∧ al.width % a.width ≠ 0) ∧
      (allocated 3 0xFF0000 (only 0x58000020 (wide 2))).ownsTile f.c f.k ((a.lane 0).toNat % 256) = false :=
  meets_of (by decide) ⟨⟨_, _, rfl, rfl, by decide⟩, ⟨_, rfl, by decide⟩, by decide⟩

theorem witness_ElementIntegerResults : Meets add2 fun f e a => badWidths (CeEnv.ofFiring e f.info.w a).ty f.toks = false := meets_of (by decide) (by decide)
theorem witness_ElementFloatResults :
    Meets (abc 0x140C0000 (tok 1) (tok 2) (tok 3)) (fun f _ _ => 3 ≤ f.info.w.ty.toNat ∧ f.info.w.ty.toNat ≤ 5) ∧
      Meets (abc 0x143C0000 (tok 1) (tok 2) (tok 3)) (fun f _ _ => f.info.w.ty.toNat = 15) ∧
      Meets (abc 0x14080000 (wide 2) (wide 2) (wide 2)) (fun f e a => f.info.w.ty.toNat ≤ 2 ∧ badWidths (CeEnv.ofFiring e f.info.w a).ty f.toks = false) ∧
      Meets (abc 0x142C0000 (tok 1) (tok 2) (tok 3)) (fun f _ _ => 6 ≤ f.info.w.ty.toNat ∧ f.info.w.ty.toNat ≠ 15) :=
  ⟨meets_of (by decide) (by decide), meets_of (by decide) (by decide), meets_of (by decide) (by decide), meets_of (by decide) (by decide)⟩
theorem witness_ConvertMoveResults :
    Meets (only 0x1C0C0000 (tok 1)) (fun f _ a => (only 0x1C0C0000 (tok 1)).recolourK f a = some (0, 0) ∧ badWidths f.info.w.fn.toNat f.toks = false ∧ badWidths 3 f.toks = false) ∧
      Meets (formatted 0x300000 (only 0x1FCC0000 (tok 1))) (fun f e a => f.info.w.fn.toNat = 15 ∧ tyInt (entFmt (e.vcEntry a)) = none ∧ badWidths (entFmt (e.vcEntry a)) f.toks = false) :=
  ⟨meets_of (by decide) (by decide), meets_of (by decide) (by decide)⟩
theorem witness_RoutingAndControlResults :
    Meets (ceEntry 0x40000000 (some (tok 1)) none (some (tok 0))) (fun f _ _ => f.x = some (tok 0)) ∧ Meets add2 (fun f _ _ => f.b = some (tok 4)) ∧
      Meets (only 0x50000000 { tok 1 with kind := kErr }) (fun _ _ a => a.kind = kErr) ∧ Meets (only 0x50000000 (tok 1)) (fun _ _ a => a.kind ≠ kErr) ∧
      Meets (allocated 2 0 (only 0xC4000040 (wide 2))) (fun f e a => ((e.const (f.info.w.k.toNat + 1)).extractLsb' 16 5).toNat + 1 < a.width) :=
  ⟨meets_of (by decide) (by decide), meets_of (by decide) (by decide), meets_of (by decide) (by decide), meets_of (by decide) (by decide), meets_of (by decide) (by decide)⟩
theorem witness_RoutingAndControlResults_cntr :
    Meets ((allocated 2 0 (only 0xC4000040 (tok 1))).modElem 0 0 0 fun e => { e with fixedA := [0] }) fun f e a =>
      ((e.const (f.info.w.k.toNat + 1)).extractLsb' 16 5).toNat + 1 = a.width ∧ f.slot ∈ e.fixedA := meets_of (by decide) (by decide)
/-- merge.any with a token at port B alone. -/
def mergeB : State := ceHeads 0x44000000 [] [tok 1]
theorem witness_RoutingAndControlResults_merge :
    mergeB.CanFire (firing mergeB) (element mergeB) ∧ (firing mergeB).a = none ∧ (firing mergeB).b = some (tok 1) :=
  ⟨⟨by decide, by decide, by decide, by decide⟩, by decide, by decide⟩
theorem witness_TagAndPackResults :
    Meets (only 0x54000000 (tok 1)) (fun f _ a => (only 0x54000000 (tok 1)).recolourK f a = some (0, 0)) ∧
      Meets (allocated 2 0 (only 0x5C000038 (tok 1))) (fun f e a => ∃ al, (allocated 2 0 (only 0x5C000038 (tok 1))).alloc? f.c f.k ((e.const f.info.w.k.toNat).toNat % 64) = some al ∧
        al.width = 2 * a.width ∧ a.width ≠ 0 ∧ (((e.slot f.slot).group ++ [a]).find? fun t => decide ((allocated 2 0 (only 0x5C000038 (tok 1))).relTag f.c f.k t % 2 = 1)) = none) ∧
      (let s := allocated 2 0 (kept (only 0x5C000038 { tok 1 with tag := 1 }) fun x => { x with group := [tok 7] })
       Meets s fun f e a => ∃ ts : List Token, ts.length = 2 ∧ ∀ i, i < 2 → ts[i]? = ((e.slot f.slot).group ++ [a]).find? fun t => decide (s.relTag f.c f.k t % 2 = i)) ∧
      Meets (allocated 1 0 (only 0x5C400020 (wide 32))) (fun f e a => ∃ al, (allocated 1 0 (only 0x5C400020 (wide 32))).alloc? f.c f.k ((e.const f.info.w.k.toNat).toNat % 64) = some al ∧
        a.width = 32 * al.width ∧ al.width ≠ 0) :=
  ⟨meets_of (by decide) (by decide), meets_of (by decide) ⟨_, rfl, by decide, by decide, by decide⟩, meets_of (by decide) ⟨[tok 7, { tok 1 with tag := 1 }], rfl, by decide⟩,
    meets_of (by decide) ⟨_, rfl, by decide, by decide⟩⟩
theorem witness_TagAndPackResults_free :
    let s := withCtx (allocated 2 0 (only 0x58400000 (tok 1))) fun x => { x with colours := [(0, { tags := 4, dyn := true })] }
    Meets s (fun f _ a => (s.declOf f.c f.k a.colour.toNat).dyn = true ∧ (s.ctxAt f.c f.k).bind (fun x => x.allocs.find? a.colour.toNat) = some ⟨0, 16, 2⟩) ∧
      Meets (only 0x58400000 (tok 1)) fun f _ a => ((only 0x58400000 (tok 1)).declOf f.c f.k a.colour.toNat).dyn = false :=
  ⟨meets_of (by decide) (by decide), meets_of (by decide) (by decide)⟩
theorem findRange_some (t : Nat) : ∃ b, findRange [] t 1 = some b := by
  by_cases h : rangeFree [] (Config.allocBase t % 4096) 1 = true
  · exact ⟨_, if_pos h⟩
  · exact ⟨0, (if_neg h).trans (by decide)⟩
theorem witness_TagAndPackResults_alloc :
    let s := withCtx (allocated 2 0 (only 0x58000020 (tok 1))) fun x => { x with allocs := [] }
    Meets s fun f e _ => ∃ x d b, s.ctxAt f.c f.k = some x ∧ x.colours.find? ((e.const f.info.w.k.toNat).toNat % 64) = some d ∧
      ((e.const f.info.w.k.toNat).extractLsb' 16 8).toNat + 1 ≤ d.tags ∧ x.allocs.find? ((e.const f.info.w.k.toNat).toNat % 64) = none ∧
      findRange x.allocs s.tick 1 = some b :=
  meets_of (by decide) ⟨_, _, (findRange_some _).choose, rfl, rfl, by decide, by decide, (findRange_some _).choose_spec⟩
theorem witness_GroupAndAccumulatorResults :
    Meets (only 0x60000000 { tok 1 with last := true }) (fun f e a => (e.slot f.slot).size < 65536 ∧ badWidths (CeEnv.ofFiring e f.info.w a).ty [a] = false ∧ a.last = true) ∧
      Meets (only 0x60000000 (tok 1)) (fun _ _ a => a.last = false) ∧
      Meets add2 (fun f e a => f.b = some (tok 4) ∧ badWidths (CeEnv.ofFiring e f.info.w a).ty [a, tok 4] = false ∧ e.accs.find? (f.info.w.k.toNat % 16) = none ∧
        tyFmt (CeEnv.ofFiring e f.info.w a).ty = none) ∧
      Meets ((only 0x6C0C0000 (tok 1)).modElem 0 0 0 fun e => { e with accs := [(0, [5])] }) (fun f e a => e.accs.find? (f.info.w.k.toNat % 16) = some [5] ∧
        (tyFmt (CeEnv.ofFiring e f.info.w a).ty).isSome = true) :=
  ⟨meets_of (by decide) (by decide), meets_of (by decide) (by decide), meets_of (by decide) (by decide), meets_of (by decide) (by decide)⟩
theorem witness_ChangeResults :
    Meets (deep 1 0) (fun f _ a => (deep 1 0).recolourK f a = some (0, 0) ∧ f.b = some (tok 4) ∧ a.width + 4 ≤ 32) ∧
      Meets (withCtx (only 0xA0000020 (chg 1)) fun x => { x with holds := [⟨1, 0, Time.zero, 1⟩] }) (fun f _ a =>
        ∃ x, (withCtx (only 0xA0000020 (chg 1)) fun x => { x with holds := [⟨1, 0, Time.zero, 1⟩] }).ctx? 1 = some x ∧ a.time = Time.zero ∧ f.a = some a) :=
  ⟨meets_of (by decide) (by decide), meets_of (by decide) ⟨_, rfl, by decide, by decide⟩⟩
theorem witness_ChangeResults_constant : Meets (only 0x1C0C0000 (chg 1)) fun f e a =>
    f.b = none ∧ badWidths (CeEnv.ofFiring e f.info.w a).ty [a] = false ∧ (only 0x1C0C0000 (chg 1)).recolourK f a = some (0, 0) := meets_of (by decide) (by decide)
/-- Changes of one record and time at A and B. -/
def same : State := withCtx (ceEntry 0x98000000 (some (chg 1)) (some (chg 2)) none) fun x => { x with colours := [(0, { kl := 1 })] }
theorem witness_ChangeResults_same : Meets same fun f _ a =>
    f.b = some (chg 2) ∧ a.recordOf (same.declOf f.c f.k a.colour.toNat) = (chg 2).recordOf (same.declOf f.c f.k 0) ∧ a.time = (chg 2).time :=
  meets_of (by decide) (by decide)
theorem witness_JoinResults :
    Meets (ceEntry 0x90000000 (some (chg 1)) (some (chg 2)) none) (fun f _ a => f.b = some (chg 2) ∧ (ceEntry 0x90000000 (some (chg 1)) (some (chg 2)) none).recolourK f a = some (0, 0)) ∧
      Meets (kept (ceEntry 0x94000000 none none none) fun x => { x with group := [{ chg 1 with last := true }], groupB := [{ chg 2 with last := true }] }) (fun f e a =>
        f.b = some { chg 2 with last := true } ∧ f.info.fn = 0 ∧ (groupOf (e.slot f.slot).group a).length ≤ 65536 ∧
          (groupOf (e.slot f.slot).groupB { chg 2 with last := true }).length ≤ 65536) ∧
      Meets (only 0x9C000000 { chg 1 with last := true }) (fun f e a => a.last = true ∧ ((e.slot f.slot).group ++ [a]).length ≤ 65536 ∧
        (sumsOf ((only 0x9C000000 { chg 1 with last := true }).declOf f.c f.k a.colour.toNat) ((e.slot f.slot).group ++ [a])).length ≤ e.window f.slot) ∧
      Meets (only 0x9C000000 (chg 1)) (fun _ _ a => a.last = false) :=
  ⟨meets_of (by decide) (by decide), meets_of (by decide) (by decide), meets_of (by decide) (by decide), meets_of (by decide) (by decide)⟩
theorem witness_ChangeTimeResults :
    Meets (deep 1 0x30000) (fun f _ a => ((deep 1 0x30000).declOf f.c f.k a.colour.toNat).depth ≠ 0 ∧ ((deep 1 0x30000).declOf f.c f.k a.colour.toNat).depth < 3 ∧
      (deep 1 0x30000).recolourK f a = some (0, 0) ∧ a.time.coord 1 < 0xFFFF ∧ f.b = some (tok 4) ∧ a.time.coord 0 ≤ 4 ∧ 4 < 2 ^ coordBits 0 ∧ a.time.coord 0 < 4) ∧
      Meets (ceEntry 0x04000000 (some { chg 1 with lanes := [1, 5, 0, 0, 7] }) (some (tok 4)) none) (fun f _ a => f.b = some (tok 4) ∧ 4 ≤ a.time.coord 0) :=
  ⟨meets_of (by decide) (by decide), meets_of (by decide) (by decide)⟩


/-! ### Witnesses: memory elements -/

/-- ME 1 with a word, one descriptor, a share of 4,096 bytes, and heads at A and B. -/
def meAt (w : Word) (d : DescW) (a b : List Token) : State :=
  { ((placeSlot State.reset 1 w).modDie 0 fun d => { d with drdy := 0x7FFFFFFFFFFFF }).modElem 0 1 0 fun e => { e with share := 4096, inA := a, inB := b, unit := e.unit.map fun u => { u with descs := [(0, d)] } } with cur := { site := 1 } }
/-- The region owns tile 1 and ring 0, and its cluster is changed. -/
def tiled (s : State) (g : Cluster → Cluster) : State := (s.modRegion 0 0 fun r => { r with tiles := [1], rings := [0] }).modCluster 0 g

/-- The operation word of an ME. -/
def meWord (i : Instr) : Word := (encodeMe i).getD 0
theorem witness_StreamsBegin_read :
    (Meets (meAt 0x040C0000 [] [tok 1] []) fun f _ a => f.info.i = .agsRd ⟨3, 0, 0, 0, 0⟩ ∧ a.kind ≠ kChg) ∧
      Meets (meAt 0x040C0000 [] [chg 1] []) fun f e a => f.info.i = .agsRd ⟨3, 0, 0, 0, 0⟩ ∧ e.holdsFor f.slot = false ∧ a.kind = kChg :=
  ⟨meets_of (by decide) (by decide), meets_of (by decide) (by decide)⟩
theorem witness_StreamsBegin_write :
    (Meets (meAt (meWord (.agsWr ⟨3, 0, 0, 0, 0⟩)) [] [tok 1] []) fun f e _ =>
      f.info.i = .agsWr ⟨3, 0, 0, 0, 0⟩ ∧ e.active 0 = none ∧ dTdst (e.descAt 0) = false) ∧
      (Meets (meAt (meWord (.pst ⟨0, 0, 0, 0, 0⟩)) [] [tok 1] []) fun f e _ =>
        f.info.i = .pst ⟨0, 0, 0, 0, 0⟩ ∧ e.active 0 = none ∧ dTdst (e.descAt 0) = false) ∧
      Meets (meAt (meWord (.agsWr ⟨3, 0, 0, 0, 0⟩)) [0, 0, 0, 0, 0, 0, 0x0080000000000000, 0] [tok 1] []) fun f e a =>
        f.info.i = .agsWr ⟨3, 0, 0, 0, 0⟩ ∧ dTdst (e.descAt 0) = true ∧ a.kind ≠ kChg :=
  ⟨meets_of (by decide) (by decide), meets_of (by decide) (by decide), meets_of (by decide) (by decide)⟩
/-- A scatter's index and element in its matching entry. -/
def scattering : State := (meAt (meWord (.agxScat ⟨0, 0, 0, 0, 0⟩)) [0, 0, 0, 0, 0, 0, 0, 2] [] []).modElem 0 1 0 fun e =>
  { e with slots := [(0, { entries := [(0, { a := some (tok 1), b := some (tok 2) })] })] }
theorem witness_StreamsBegin_scatter : Meets scattering fun f e a =>
    f.info.i = .agxScat ⟨0, 0, 0, 0, 0⟩ ∧ e.holdsFor f.slot = false ∧ f.b = some (tok 2) ∧ f.x = none ∧ a.width * dIndexed (e.descAt 0) = 4 * (tok 2).width :=
  meets_of (by decide) (by decide)
theorem witness_StreamsBegin_gather : Meets (meAt 0x08000000 [0, 0, 0, 0, 0, 0, 0, 2] [tok 1] []) fun f e a => f.info.i = .agxGath ⟨0, 0, 0, 0, 0⟩ ∧ a.width * dIndexed (e.descAt 0) = 4 * dWid (e.descAt 0) :=
  meets_of (by decide) (by decide)
theorem witness_StreamsBegin_fill : Meets (meAt 0x10000000 [] [wide 3] []) fun f e a =>
    (((meAt 0x10000000 [] [wide 3] []).cluster f.c).tagPlace f.k (keyOf a)).isSome = true ∧
      ((meAt 0x10000000 [] [wide 3] []).spAddr f.c f.k (meIndex f.site) (fillDest (e.descAt 0) ((a.lane 2).toNat % 4096)) (fillBytes (e.descAt 0))).isSome = true :=
  meets_of (by decide) (by decide)
theorem witness_TableResults : Meets (meAt 0x10000000 [] [tok 1] []) fun f _ a =>
    (meAt 0x10000000 [] [tok 1] []).meColour f a 0 1 = some (0, 0) ∧ ((meAt 0x10000000 [] [tok 1] []).cluster f.c).tagFind f.k (keyOf a) = none :=
  meets_of (by decide) (by decide)
theorem witness_TableResults_found :
    let s := (meAt 0x10000000 [] [tok 1] []).modCluster 0 fun x => { x with tags := [(8 * tagSet 1, tagEntry 0 0 9 1)] }
    Meets s fun f _ a => (s.cluster f.c).tagFind f.k (keyOf a) = some 8 := meets_of (by decide) (by decide)
theorem witness_TableResults_tile :
    let s := tiled (meAt 0x14400000 [] [tok 1] []) id
    Meets s fun f e a => s.ownsTile f.c f.k 1 = true ∧ (a.lane 0).toNat % 256 = 1 ∧ tileState ((s.cluster f.c).tile 1) = tEmpty ∧ (s.cluster f.c).tileUse.get 0 1 = 0 ∧ a.width < 2 ∧
      s.ownsRing f.c f.k 0 = true ∧ e.holdsFor f.slot = false := meets_of (by decide) (by decide)
theorem witness_TableResults_ready :
    let s := tiled (meAt 0x14400000 [] [tok 1] []) fun x => x.setTile 1 0x8000000000000000
    Meets s fun f _ _ => tileState ((s.cluster f.c).tile 1) = tReady ∧ tileInRing ((s.cluster f.c).tile 1) = false := meets_of (by decide) (by decide)
theorem witness_TableResults_pop :
    let s := tiled (meAt 0x14400000 [] [tok 1] []) fun x => (x.setTile 1 0x8000000000000000).setMembers 0 [1]
    Meets s fun f _ _ => (s.cluster f.c).members 0 = 1 :: [] := meets_of (by decide) (by decide)
/-- Colour 0 is allocated for the results of an arrangement operation; constant 1 is its area of 64 units, with one key lane. -/
def arranged (w : Word) (a : Token) : State :=
  (withCtx (meAt w [] [a] []) fun x => { x with allocs := [(0, ⟨0, 16, 1⟩)] }).modElem 0 1 0 fun e => { e with unit := e.unit.map fun u => { u with consts := [(1, 0x10FC00)] } }
theorem witness_ArrangementResults_insert :
    (Meets (arranged 0x18000020 (chg 1)) fun _ _ a => a.last = false) ∧
      Meets (arranged 0x18000020 { chg 1 with last := true }) fun f e a =>
        a.last = true ∧ (arranged 0x18000020 { chg 1 with last := true }).recolour f ((e.const 2).toNat % 64) a = some (0, 0) ∧
          (∃ recs, consolidate (((e.slot f.slot).group ++ [a]).map fun t => (fitLanes 1 t.record, t.time, t.diff)) = some recs ∧ recs ≠ [] ∧
            (areaOf (e.const 1)).bytes recs.length ≤ (areaOf (e.const 1)).len) :=
  ⟨meets_of (by decide) (by decide), meets_of (by decide) ⟨by decide, by decide, _, rfl, by decide, by decide⟩⟩
theorem witness_ArrangementResults_seek : Meets (arranged 0x18000020 { tok 1 with lanes := [1, 0, 0, 0] }) fun f e a =>
    (arranged 0x18000020 { tok 1 with lanes := [1, 0, 0, 0] }).recolour f ((e.const 2).toNat % 64) a = some (0, 0) ∧ 1 ≤ (a.lane 0).toNat % 16 ∧ (a.lane 0).toNat % 16 ≤ 8 ∧
      consolidate ((((arranged 0x18000020 { tok 1 with lanes := [1, 0, 0, 0] }).readBatches f 0).2.flatMap fun b => b.2.recs).filter fun r =>
        decide (r.1.take 1 = fitLanes 1 a.record)) = some [] := meets_of (by decide) (by decide)

/-- A run of slot 0 of ME 1. -/
def running_ (w : Word) (d : DescW) (r : Run) : State := (meAt w d [tok 1] []).modElem 0 1 0 fun e => { e with runs := [r] }
/-- One level of 4 elements of 4 bytes from 0x100, 1 lane a token. -/
def desc4 : DescW := [0x100, 16, 0x0004000000000004, 0, 0, 0, 0, 0]
def placedTlb : Tlb := { root := 0, va := 0, ps := 0, leaf := placedLeaf }
def agTlb (s : State) : State := s.modCluster 0 fun c => { c with agTlb := [placedTlb], seqTlb := [placedTlb] }
/-- The state in which a step of an ME serves its stream. -/
def served (s : State) (step : State → Nat → Nat → Nat → Nat → State) : State :=
  let q := s.chooseRun step s.cur.cluster s.cur.site s.cur.ctx s.cur.sel
  s.passRuns (s.runRivals step s.cur.cluster s.cur.site) s.cur.cluster s.cur.site q.1 q.2
/-- A step serves a run, and what more holds of it. -/
def Serving (s : State) (step : State → Nat → Nat → Nat → Nat → State) (P : State → RunAt → Run → Prop) : Prop :=
  ∃ p x r, s.Serves step p x r ∧ P p x r
theorem serving_of {s : State} {step : State → Nat → Nat → Nat → Nat → State} {P : State → RunAt → Run → Prop} {x : RunAt} {r : Run}
    (h : (served s step).runAt s.cur.cluster s.cur.site (s.chooseRun step s.cur.cluster s.cur.site s.cur.ctx s.cur.sel).1
      (s.chooseRun step s.cur.cluster s.cur.site s.cur.ctx s.cur.sel).2 = some (x, r)) (hp : P (served s step) x r) : Serving s step P :=
  ⟨_, x, r, ⟨rfl, h⟩, hp⟩
/-- The same, from the streams that are ready. -/
theorem serving_at {s : State} {step : State → Nat → Nat → Nat → Nat → State} {P : State → RunAt → Run → Prop} {x : RunAt} {r : Run} {l : List (Rival × Nat)}
    {k n : Nat} (hl : s.runRivals step s.cur.cluster s.cur.site = l) (hc : s.chooseRun step s.cur.cluster s.cur.site s.cur.ctx s.cur.sel = (k, n))
    (h : (s.passRuns l s.cur.cluster s.cur.site k n).runAt s.cur.cluster s.cur.site k n = some (x, r))
    (hp : P (s.passRuns l s.cur.cluster s.cur.site k n) x r) : Serving s step P :=
  ⟨_, x, r, ⟨by rw [hl, hc], by rw [hc]; exact h⟩, hp⟩
/-- An access at a home of this module, with what more holds of its result. -/
theorem near_with {p : State} {x : RunAt} {r : Run} {va : DWord} {n key : Nat} {act : AgAct} {Q : State → Run → Nat → Bool → Prop}
    (h : (p.agHome x.c x.k va n act.acc).2.toOption = some key) (hf : isFar key = false)
    (hq : let g := (p.agHome x.c x.k va n act.acc).1.atHome key n r.cov act
      Q (if accWrites act.acc then g.1.setProt key n (g.1.protAt (g.1.rootAt x.c x.k) va) else g.1) { r with cov := g.2.2.2, retried := false, ranged := false }
        g.2.1 g.2.2.1) :
    ∃ t r1 v bad, p.NearAccess x r va n act t r1 v bad ∧ Q t r1 v bad := by
  obtain ⟨s, hs⟩ := ok_of h
  rw [hs] at hq
  exact ⟨_, _, _, _, ⟨s, key, hs, hf, rfl, rfl, rfl, rfl⟩, hq⟩
/-- The run, in a state whose accesses translate. -/
def runs_ (i : Instr) (d : DescW) (r : Run) : State := agTlb (running_ (meWord i) d r)
def at100 : Run := { desc := 0, slot := 0, base := 0x100 }
theorem witness_RunSteps_read : Serving (runs_ (.agsRd ⟨3, 0, 0, 0, 0⟩) desc4 at100) State.agStep fun p x r =>
    p.MayAccess x r ∧ r.desc < 16 ∧ r.waitsJoin = false ∧ x.beyond r r.pos = false ∧ x.info.i = .agsRd ⟨3, 0, 0, 0, 0⟩ ∧ dTdst x.d = false ∧
      ∃ t r1 v bad, p.NearAccess x r (r.base + BitVec.ofInt 64 (dOffset x.d r.pos)) r.z .read t r1 v bad ∧ True :=
  serving_of rfl ⟨⟨by decide, by decide, by decide⟩, by decide, by decide, by decide, by decide, by decide, near_with (key := hbm 0x100) (by decide) (by decide) trivial⟩
theorem witness_RunSteps_fill : Serving (runs_ (.agsFill ⟨0, 0, 0, 0, 0⟩) desc4 at100) State.agStep fun p x r =>
    p.MayAccess x r ∧ x.beyond r r.pos = false ∧ x.info.i = .agsFill ⟨0, 0, 0, 0, 0⟩ ∧ r.missed = 0 ∧
      ∃ t r1 v bad, p.NearAccess x r (r.base + BitVec.ofInt 64 (dOffset x.d r.pos)) r.z .read t r1 v bad ∧
        ∃ ad, t.spAddr x.c x.k ((dAux x.d).bits 20 16) ((dAux x.d).bits 15 0 + r.pos * r.z) r.z = some ad ∧ ((t.cluster x.c).spWrite ad r.z v bad).2 = false :=
  serving_of rfl ⟨⟨by decide, by decide, by decide⟩, by decide, by decide, by decide,
    near_with (key := hbm 0x100) (by decide) (by decide) ⟨_, rfl, by decide⟩⟩
/-- The run of a descriptor whose data lies in tile 1, of 64 bytes. -/
def desc4t : DescW := [0x100, 16, 0x0004000000000004, 0, 0, 0, 0x0180000000000000, 0]
theorem witness_RunSteps_tile : Serving (tiled (runs_ (.agsRd ⟨3, 0, 0, 0, 0⟩) desc4t at100) id) State.agStep fun p x r =>
    p.MayAccess x r ∧ x.beyond r r.pos = false ∧ x.info.i = .agsRd ⟨3, 0, 0, 0, 0⟩ ∧ dTdst x.d = true ∧ r.missed = 0 ∧ r.pos = 0 ∧
      tileState ((p.cluster x.c).tile (dTile x.d)) = tEmpty ∧ p.ownsTile x.c x.k (dTile x.d) = true ∧ (r.pos + 1) * r.z ≤ tileLen ((p.cluster x.c).tile (dTile x.d)) ∧
        ∃ t r1 v bad, p.NearAccess x r (r.base + BitVec.ofInt 64 (dOffset x.d r.pos)) r.z .read t r1 v bad ∧
          let u := t.modCluster x.c fun y => (y.useTile (dTile x.d)).tileTo (dTile x.d) tFilling
          ∃ ad, u.tileAddr x.c x.k (dTile x.d) (r.pos * r.z) r.z = some ad ∧ ((u.cluster x.c).spWrite ad r.z v bad).2 = false :=
  serving_of rfl ⟨⟨by decide, by decide, by decide⟩, by decide, by decide, by decide, by decide, by decide, by decide, by decide, by decide,
    near_with (key := hbm 0x100) (by decide) (by decide) ⟨_, rfl, by decide⟩⟩
theorem witness_RunSteps_fromTile : Serving (tiled (runs_ (.agsWr ⟨3, 0, 0, 0, 0⟩) desc4t at100) fun x => x.setTile 1 0x8000000000000000) State.agStep fun p x r =>
    p.MayAccess x r ∧ x.info.i = .agsWr ⟨3, 0, 0, 0, 0⟩ ∧ tileState ((p.cluster x.c).tile (dTile x.d)) ≠ tFilling ∧ p.ownsTile x.c x.k (dTile x.d) = true ∧
      ∃ ad, p.tileAddr x.c x.k (dTile x.d) (r.pos * r.z) r.z = some ad ∧
        let y := (p.cluster x.c).spRead ad r.z
        ∃ t r1 v bad, (p.modCluster x.c fun _ => y.1).NearAccess x r (r.base + BitVec.ofInt 64 (dOffset x.d r.pos)) r.z (.write y.2.1 y.2.2) t r1 v bad ∧ True :=
  serving_of rfl ⟨⟨by decide, by decide, by decide⟩, by decide, by decide, by decide, _, rfl, near_with (key := hbm 0x100) (by decide) (by decide) trivial⟩
/-- Colour 0 is allocated, so that a token of n lanes waits at port A for a run that stores it. -/
def feeding (i : Instr) (n : Nat) : State := (runs_ i desc4 at100).modElem 0 1 0 fun e => { e with inA := [wide n] }
theorem witness_RunSteps_feed :
    (Serving (feeding (.agsWr ⟨3, 0, 0, 0, 0⟩) 2) State.agStep fun p x r => p.MayAccess x r ∧ dTdst x.d = false ∧
      ∃ f a, p.readyAt x.c x.site x.k r.slot = some f ∧ f.a = some a ∧ p.tooDeep f.c f.k a = false ∧ (x.e.slot r.slot).size + 1 < 4 * a.width / r.z) ∧
      Serving (feeding (.agsWr ⟨3, 0, 0, 0, 0⟩) 1) State.agStep fun p x r =>
        ∃ f a, p.readyAt x.c x.site x.k r.slot = some f ∧ f.a = some a ∧ p.tooDeep f.c f.k a = false ∧ 4 * a.width / r.z ≤ (x.e.slot r.slot).size + 1 ∧
          (x.e.slot r.slot).data = 0 ∧
          ∃ t r1 v bad, p.NearAccess x r (r.base + BitVec.ofInt 64 (dOffset x.d r.pos)) r.z (.write (elemAt r.z a.lanes (x.e.slot r.slot).size) a.poison) t r1 v bad ∧
            ∃ t2, (t.modElem x.c x.site x.k fun e => e.setSlot r.slot { e.slot r.slot with size := 0, data := 0 }).replyOut f none [(0, a)] = (t2, true) :=
  ⟨serving_of rfl ⟨⟨by decide, by decide, by decide⟩, by decide, _, _, rfl, rfl, by decide, by decide⟩,
    serving_of rfl ⟨_, _, rfl, rfl, by decide, by decide, by decide, near_with (key := hbm 0x100) (by decide) (by decide) ⟨_, rfl⟩⟩⟩
theorem witness_RunSteps_scrub : Serving (runs_ (.agsScrub ⟨0, 0, 0, 0, 0⟩) desc4 at100) State.agStep fun p x r =>
    p.MayAccess x r ∧ x.info.i = .agsScrub ⟨0, 0, 0, 0, 0⟩ ∧
      ∃ t r1 v bad, p.NearAccess x r (r.base + BitVec.ofInt 64 (dOffset x.d r.pos)) 64 .scrub t r1 v bad ∧ True :=
  serving_of rfl ⟨⟨by decide, by decide, by decide⟩, by decide, near_with (key := hbm 0x100) (by decide) (by decide) trivial⟩
/-- A CF8 block of four zeros stands at 0x100. -/
def coded : State := { runs_ (.agsRdcf ⟨6, 0, 0, 0, 0⟩) desc4 at100 with mem := [(hbm 0x102, 4)] }
set_option maxRecDepth 200000 in
theorem coded_rivals : coded.runRivals State.agStep 0 1 = [(⟨0, 0, 0, 0, false⟩, 0)] := by decide
set_option maxRecDepth 200000 in
theorem coded_chosen : coded.chooseRun State.agStep 0 1 0 0 = (0, 0) := by decide
theorem witness_RunSteps_coded : Serving coded State.agStep fun p x r => p.MayAccess x r ∧ x.info.i = .agsRdcf ⟨6, 0, 0, 0, 0⟩ ∧ r.addr.toNat + 4 ≤ dSpan x.d ∧
    ∃ t r1 v bad, p.NearAccess x r (r.base + r.addr) 4 .read t r1 v bad ∧ (v = 0x40000 ∧
      (t.cfRead x (BitVec.ofNat 32 v) 3 r1 (r.base + r.addr + 4#64) [] bad).2.2 = some (.ok [0, 0, 0, 0], 1, false)) :=
  serving_at coded_rivals coded_chosen rfl
    ⟨⟨by decide, by decide, by decide⟩, by decide, by decide, near_with (key := hbm 0x100) (by decide) (by decide) ⟨by decide, by decide⟩⟩
/-- The words that the token of `feeding` is written in. -/
theorem coded_words : cf8Encode 0 false ((splitLanes 8 [1]).take 4) = [0x40000, 0x10000000] := by decide
/-- Two words are written one after the other. -/
def put2 (p : State) (x : RunAt) (r : Run) : State × Run × Bool :=
  [(0, 0x40000), (1, 0x10000000)].foldl (fun (q : State × Run × Bool) (w : Nat × Nat) =>
    let g := q.1.runMem x q.2.1 false (r.base + r.addr + BitVec.ofNat 64 (4 * w.1)) 4 (.write w.2 false) (dPos x.d r.pos)
    if q.2.2 then (g.1, g.2.1, g.2.2.isSome) else q) (p, r, true)
theorem feeding_rivals : (feeding (.agsWrcf ⟨6, 0, 0, 0, 0⟩) 1).runRivals State.agStep 0 1 = [(⟨0, 0, 0, 0, false⟩, 0)] := by decide
theorem feeding_chosen : (feeding (.agsWrcf ⟨6, 0, 0, 0, 0⟩) 1).chooseRun State.agStep 0 1 0 0 = (0, 0) := by decide
theorem witness_RunSteps_code : Serving (feeding (.agsWrcf ⟨6, 0, 0, 0, 0⟩) 1) State.agStep fun p x r =>
    p.MayAccess x r ∧ x.info.i = .agsWrcf ⟨6, 0, 0, 0, 0⟩ ∧ (∃ f a, p.readyAt x.c x.site x.k r.slot = some f ∧ f.a = some a ∧ p.tooDeep f.c f.k a = false ∧ a.lanes = [1]) ∧
      (∀ i, i < 2 → ((p.agHome x.c x.k (r.base + r.addr + BitVec.ofNat 64 (4 * i)) 4 .store).2.toOption).isSome = true) ∧ (put2 p x r).2.2 = true :=
  serving_at feeding_rivals feeding_chosen rfl ⟨⟨by decide, by decide, by decide⟩, by decide, ⟨_, _, rfl, rfl, by decide, by decide⟩, by decide, by decide⟩
theorem witness_RunSteps_taken : ∃ f a, (feeding (.agsWrcf ⟨6, 0, 0, 0, 0⟩) 1).readyAt 0 1 0 0 = some f ∧ f.a = some a ∧
    ∃ t2, (feeding (.agsWrcf ⟨6, 0, 0, 0, 0⟩) 1).replyOut f none [(0, a)] = (t2, true) := ⟨_, _, rfl, rfl, _, rfl⟩
set_option maxRecDepth 200000 in
theorem witness_RunSteps_placed :
    (Serving (runs_ (.pld ⟨0, 0, 0, 0, 0⟩) desc4 { at100 with demand := some (0, 0), cap := 4, pos := 1 }) State.agStep fun p x r =>
      p.MayAccess x r ∧ r.waitsJoin = false ∧ x.beyond r r.pos = true ∧ x.info.i = .pld ⟨0, 0, 0, 0, 0⟩ ∧ dTdst x.d = false) ∧
      Serving (runs_ (.pld ⟨0, 0, 0, 0, 0⟩) desc4 { at100 with demand := some (0, 0), waitsJoin := true }) State.agStep fun p x r =>
        p.MayAccess x r ∧ r.waitsJoin = true ∧ r.demand = some (0, 0) ∧
          ∃ t r1 v bad, p.NearAccess x r (dtdAddr (p.ptabAt x.c x.k) 0) 8 .read t r1 v bad ∧
            (let d : DWord := BitVec.ofNat 64 v
             d.getLsbD 33 = false ∧ d.bits 63 48 = 0 ∧ ∃ t2, t.tablesFail x.c x.k (runOwner x.site r.desc) 0 = (t2, none)) :=
  ⟨serving_of rfl ⟨⟨by decide, by decide, by decide⟩, by decide, by decide, by decide, by decide⟩,
    serving_of rfl ⟨⟨by decide, by decide, by decide⟩, by decide, by decide, near_with (key := hbm 0x40) (by decide) (by decide) ⟨by decide, by decide, _, rfl⟩⟩⟩
/-- An index run whose first index is n. -/
def indexed (i : Instr) (n : Word) (l : List Word) : State := runs_ i desc4 { at100 with a := some (tok n), b := some { tok 9 with lanes := l } }
theorem witness_RunSteps_index :
    (Serving (indexed (.agxGath ⟨0, 0, 0, 0, 0⟩) 3 []) State.agStep fun p x r => p.MayAccess x r ∧ r.demand = none ∧ r.a = some (tok 3) ∧
      (0 ≤ ((3 : Nat) : Int) * dStr x.d 0 ∧ ((3 : Nat) : Int) * dStr x.d 0 + r.z ≤ dSpan x.d) ∧ (tok 3).width ≤ r.pos + 1 ∧
      ∃ t r1 v bad, p.NearAccess x r (r.base + BitVec.ofInt 64 (((3 : Nat) : Int) * dStr x.d 0)) r.z .read t r1 v bad ∧ True) ∧
      (Serving (indexed (.agxScat ⟨0, 0, 0, 0, 0⟩) 4 [7]) State.agStep fun p x r => p.MayAccess x r ∧ dSpan x.d < ((4 : Nat) : Int) * dStr x.d 0 + r.z) ∧
      Serving (indexed (.agxAtomAdd ⟨0, 0, 0, 0, 0⟩) 0 [7]) State.agStep fun p x r => p.MayAccess x r ∧
        ∃ t r1 v bad, p.NearAccess x r (r.base + BitVec.ofInt 64 0) r.z (.atomic (fun old => agAtom 0 0 r.z old 7 0)
          (Config.accessWords { fn := 32, n := r.z, y := 7, cv := 0, poison := false }) false) t r1 v bad ∧ True :=
  ⟨serving_of rfl ⟨⟨by decide, by decide, by decide⟩, by decide, by decide, by decide, by decide, near_with (key := hbm 0x10C) (by decide) (by decide) trivial⟩,
    serving_of rfl ⟨⟨by decide, by decide, by decide⟩, by decide⟩,
    serving_of rfl ⟨⟨by decide, by decide, by decide⟩, near_with (key := hbm 0x100) (by decide) (by decide) trivial⟩⟩
theorem witness_RunSteps_reply :
    (Serving (running_ 0x040C0000 desc4 { at100 with ready := [tok 5], isOver := true, pos := 4 }) State.replyStep fun p x r =>
      r.ready = [tok 5] ∧ r.isOver = true ∧ ∃ s2, p.replyOut (x.firing r) (some (tok 5)) (x.owed r) = (s2, true)) ∧
      Serving (running_ 0x040C0000 desc4 { at100 with ready := [tok 5, tok 6] }) State.replyStep fun p x r =>
        r.ready = [tok 5, tok 6] ∧ ∃ s2, p.replyOut (x.firing r) (some (tok 5)) [] = (s2, true) :=
  ⟨serving_of rfl ⟨by decide, by decide, _, rfl⟩, serving_of rfl ⟨by decide, _, rfl⟩⟩
theorem witness_RunSteps_end :
    let u := running_ 0x040C0000 desc4 { at100 with isOver := true, pos := 4 }
    let v := agTlb (running_ 0x040C0000 [0x100, 16, 0x0004000000000004, 0, 0, 0, 0x0000010000000000, 0x200] { at100 with isOver := true, pos := 4 })
    (∃ x r s2, u.runAt 0 1 0 0 = some (x, r) ∧ r.isOver = true ∧ r.ready = [] ∧ r.stalled = none ∧ u.runHeld x r = false ∧ r.desc < 16 ∧ dArv x.d = false ∧
      (u.farDone (farRun 0 0 1 r.desc)).replyOut (x.firing r) none (x.owed r) = (s2, true)) ∧
      ∃ x r, v.runAt 0 1 0 0 = some (x, r) ∧ v.runHeld x r = false ∧ dArv x.d = true ∧
        ∃ t r1 n bad, v.NearAccess x r (dAux x.d) 32 (.update (arrival r.wrote r.wroteBad) (arrivalWords r.wrote r.wroteBad)) t r1 n bad ∧
          ∃ s2, (t.farDone (farRun 0 0 1 r.desc)).replyOut (x.firing r1) none (x.owed r1) = (s2, true) :=
  ⟨⟨_, _, _, rfl, by decide, by decide, by decide, by decide, by decide, by decide, rfl⟩,
    _, _, rfl, by decide, by decide, near_with (key := hbm 0x200) (by decide) (by decide) ⟨_, rfl⟩⟩
theorem witness_RunSteps_chase :
    (Serving (agTlb (running_ 0x08800000 desc4 { at100 with addr := 0x108, a := some (tok 1) })) State.chaseStep fun p x r =>
      p.MayAccess x r ∧ x.info.i = .agxChase ⟨0, 0, 0, 0, 0⟩ ∧ r.a = some (tok 1) ∧ r.ready = [] ∧
      r.base.toNat ≤ r.addr.toNat ∧ r.addr.toNat + 8 = r.base.toNat + dSpan x.d ∧ ∃ t r1 v bad, p.NearAccess x r r.addr 8 .read t r1 v bad ∧ True) ∧
      Serving (agTlb (running_ 0x08800000 desc4 { at100 with addr := 0x109, a := some (tok 1) })) State.chaseStep fun p x r =>
        p.MayAccess x r ∧ r.base.toNat + dSpan x.d < r.addr.toNat + 8 :=
  ⟨serving_of rfl ⟨⟨by decide, by decide, by decide⟩, by decide, by decide, by decide, by decide, by decide,
      near_with (key := hbm 0x108) (by decide) (by decide) trivial⟩,
    serving_of rfl ⟨⟨by decide, by decide, by decide⟩, by decide⟩⟩
theorem witness_RunSteps_engine :
    let s := running_ 0x08000000 [0x100, 16, 0, 0, 0, 0, 0x0040000000000000, 0] { desc := 0, slot := 0, base := 0x100, a := some (tok 1) }
    ∃ x r, s.runAt 0 1 0 0 = some (x, r) ∧ dNear x.d = true ∧ x.info.i = .agxGath ⟨0, 0, 0, 0, 0⟩ := ⟨_, _, rfl, by decide, by decide⟩
/-- A wave access of slot 0. -/
def waveAcc : WaveAcc := { slot := 0, desc := 0, own := 1, pred := 1, succ := 1, tok := tok 4 }
theorem witness_WaveAndBarrierSteps_wave :
    let s := agTlb ((meAt 0x0C104110 desc4 [] []).modElem 0 1 0 fun e => { e with waves := [waveAcc] })
    ∃ e rg info, s.elem? 0 1 0 = some e ∧ s.region? 0 0 = some rg ∧ e.slotInfo 1 0 = some info ∧ s.running 0 0 = true ∧ rg.frozen = false ∧ e.snapped = false ∧
      info.i = .wavLd 1 1 1 2 0 ∧ e.waves.find? (fun w => decide (w.slot = 0) && s.waveReady 0 0 rg e w) = some waveAcc ∧
      (waveAcc.tok.lane 0).toNat + 4 ≤ dSpan (e.descAt waveAcc.desc) ∧
      ∃ s1, s.agHome 0 0 (dBase (e.descAt waveAcc.desc) + BitVec.ofNat 64 (waveAcc.tok.lane 0).toNat) 4 .load = (s1, .ok (hbm 0x104)) :=
  ⟨_, _, _, rfl, rfl, rfl, by decide, by decide, by decide, by decide, by decide, by decide, ok_of (by decide)⟩
/-- A wave access of slot 0 at byte n, with what it stores. -/
def waving (i : Instr) (n : Word) : State :=
  agTlb ((meAt (meWord i) desc4 [] []).modElem 0 1 0 fun e => { e with waves := [{ waveAcc with tok := tok n, data := some (tok 9) }] })
/-- Its firing, when its turn has come. -/
def waveFiring (w : WaveAcc) (info : SlotInfo) : Firing := { c := 0, k := 0, site := 1, slot := 0, info := info, a := some w.tok, b := w.data, ent := some 4096 }
theorem witness_WaveAndBarrierSteps_kinds :
    (∃ e info w s2, (waving (.wavMnop 1 1 1 0 0) 0).elem? 0 1 0 = some e ∧ e.slotInfo 1 0 = some info ∧ info.i = .wavMnop 1 1 1 0 0 ∧ e.waves = [w] ∧
      (waving (.wavMnop 1 1 1 0 0) 0).replyOut (waveFiring w info) none ((waveFiring w info).taken []) = (s2, true)) ∧
      (∃ e info w s2, (waving (.wavSt 1 1 1 2 0) 13).elem? 0 1 0 = some e ∧ e.slotInfo 1 0 = some info ∧ info.i = .wavSt 1 1 1 2 0 ∧ e.waves = [w] ∧
        dSpan (e.descAt w.desc) < (w.tok.lane 0).toNat + 4 ∧
        (waving (.wavSt 1 1 1 2 0) 13).replyOut (waveFiring w info) (some (errToken 0x03 1 1 w.desc w.tok.colour w.tok.tag w.tok.last))
          ((waveFiring w info).taken []) = (s2, true)) ∧
      ∃ e info w s2, (waving (.wavSt 1 1 1 2 0) 12).elem? 0 1 0 = some e ∧ e.slotInfo 1 0 = some info ∧ e.waves = [w] ∧
        (w.tok.lane 0).toNat + 4 ≤ dSpan (e.descAt w.desc) ∧ ∃ s1, (waving (.wavSt 1 1 1 2 0) 12).agHome 0 0 0x10C 4 .store = (s1, .ok (hbm 0x10C)) ∧
          let g := s1.atHome (hbm 0x10C) 4 0 (.write 9 false)
          (g.1.setProt (hbm 0x10C) 4 (g.1.protAt (g.1.rootAt 0 0) 0x10C)).replyOut (waveFiring w info) none ((waveFiring w info).taken []) = (s2, true) :=
  ⟨⟨_, _, _, _, rfl, rfl, rfl, rfl, rfl⟩, ⟨_, _, _, _, rfl, rfl, rfl, rfl, by decide, rfl⟩,
    _, _, _, _, rfl, rfl, rfl, by decide, _, rfl, rfl⟩
theorem witness_WaveAndBarrierSteps_sbr :
    let s := (meAt 0x28000000 [] [tok 1] []).modElem 0 1 0 fun e => { e with sbr := [(0, tok 1, [])] }
    (∃ e info s2, s.elem? 0 1 0 = some e ∧ e.slotInfo 1 0 = some info ∧ e.sbr.find? (fun q => decide (q.1 = 0)) = some (0, tok 1, []) ∧
      s.replyOut { c := 0, k := 0, site := 1, slot := 0, info := info, a := some (tok 1) } (some (tok 1)) [(0, tok 1)] = (s2, true)) ∧
      Meets (meAt 0x28000000 [] [tok 1] []) fun f e _ => (e.sbr.any fun q => decide (q.1 = f.slot)) = false :=
  ⟨⟨_, _, _, rfl, rfl, rfl, rfl⟩, meets_of (by decide) (by decide)⟩
/-- A barrier that names stream 0 of the ME, which has an access outstanding. -/
theorem witness_WaveAndBarrierSteps_owes :
    let s := (meAt 0x28000000 [] [tok 1] []).modElem 0 1 0 fun e => { e with sbr := [(0, tok 1, [(0, 0)])], waves := [waveAcc] }
    s.streamOwes 0 0 (meSite 0) 0 = true ∧ s.streamOwes 0 0 (meSite 0) 1 = false ∧ ∃ e, s.elem? 0 1 0 = some e ∧ e.sbr.find? (fun q => decide (q.1 = 0)) = some (0, tok 1, [(0, 0)]) :=
  ⟨by decide, by decide, _, rfl, by decide⟩
theorem witness_WaveAndBarrierSteps_bar :
    let s := agTlb (meAt 0x1C000000 [] [tok 1] [])
    Meets s fun f e a => e.stallSlot.find? (fun q => decide (q.1 = f.slot)) = none ∧ s.owesWrite f.c f.k f.site = false ∧ ∃ s1,
      s.agHome f.c f.k (e.const 1 ++ e.const 0) 32 .store = (s1, .ok (hbm 0)) ∧
        (s1.atHome (hbm 0) 32 0 (.update (arrival (a.lane 0).toNat a.poison) (arrivalWords (a.lane 0).toNat a.poison))).2.2.1 = false :=
  meets_of (by decide) ⟨by decide, by decide, ok_with (by decide) (by decide)⟩


/-! ### Witnesses: the matrix unit -/

/-- A context with a region on cluster 0, changed. -/
def ctx1 (g : Ctx → Ctx) : State := (placeSlot State.reset 0 0x04000000).modCtx 1 g
/-- The MX of cluster 0 with one command accepted. -/
def mxAt (w0 w1 : Word) (g : MxCmd → MxCmd) (f : Cluster → Cluster) : State :=
  tiled (placeSlot State.reset 0 0x04000000) fun x => f { x with mx := { x.mx with buf := [g { w0 := w0, w1 := w1, ctx := 0 }] } }
/-- Tile 1 is READY in ring 0. -/
def ringed (x : Cluster) : Cluster := (x.setTile 1 0x8000000000000000).setMembers 0 [1]
/-- The matrix unit has a coverage accumulator. -/
def covered (v : Coverage) (x : Cluster) : Cluster := { x with mx := { x.mx with cov := some v } }
/-- Drain port 0 leads to the CE beside it. -/
def drained (s : State) : State := s.modSite 0 0 fun x => { x with words := [{ net := 2, out := 4, inp := 3, ctx := 0, vc := 0, mc := false }] }
def mmaW : MxW := ⟨0x0B, 0, 0, 0, 1, 0, 0, 0, 0x00100001⟩

theorem witness_MatrixProducts_accept :
    let s := (placeSlot State.reset 0 0x04000000).modCluster 0 fun x => { x with mxBuf := [(0, [{ kind := kCmd, lanes := [1, 2] }])] }
    (∀ j, j < 6 → j ≠ 0 → (s.mxOffer 0 (((s.mxOf 0).turn + j) % 6)).isNone = true) ∧
      ∃ s1 h, s.mxOffer 0 (((s.mxOf 0).turn + 0) % 6) = some (s1, h) ∧ (s.mxOf 0).buf.length < 16 := ⟨by decide, _, _, rfl, by decide⟩
/-- R14: a command of gang code 1 in a region of code 0. -/
theorem witness_MatrixProducts_gang :
    (∃ r, (mxAt 0x04020000 1 id id).region? 0 0 = some r ∧ r.gang = 0) ∧ ({ mmaW with w1 := 0x20100001 } : MxW).gang = 1 ∧ gangDims 1 = some (2, 1) :=
  ⟨⟨_, rfl, rfl⟩, by decide, by decide⟩
theorem witness_MatrixProducts :
    ∃ w0 w1 w, decodeMx w0 w1 = some (.mma w) ∧ w.gang = 0 ∧ w.gpos = 0 ∧ gangDims w.gang = some (1, 1) ∧
      (∃ h, (mxAt w0 w1 id ringed).mxHead 0 = some h ∧ h.refused = false ∧ h.started = false ∧ (mxAt w0 w1 id ringed).mmaOk 0 w h = true) ∧
      ∃ h ta tb, (mxAt w0 w1 (fun h => { h with started := true }) ringed).mxHead 0 = some h ∧ h.started = true ∧
        (mxAt w0 w1 (fun h => { h with started := true }) ringed).takeTiles 0 w.ringA.toNat 1 = some ta ∧
        (mxAt w0 w1 (fun h => { h with started := true }) ringed).takeTiles 0 w.ringB.toNat 1 = some tb :=
  ⟨0x04020000, 0x00000001, _, rfl, by decide, by decide, by decide, ⟨_, rfl, by decide, by decide, by decide⟩, ⟨_, _, _, rfl, by decide, rfl, rfl⟩⟩
/-- Two clusters of one gang, each with a command accepted. -/
def ganged (w0 w1 : Word × Word) : State :=
  let has (i : Nat) (w : Word × Word) (y : Cluster) : Cluster :=
    { y with regions := [(0, { cid := 1, started := true, gang := 1, gpos := i, index := i, rings := [0] })], mx := { y.mx with buf := [{ w0 := w.1, w1 := w.2, ctx := 0 }] } }
  ((ctx1 fun x => { x with regions := [⟨0, 0, 0, 0⟩, ⟨1, 0, 0, 0⟩] }).modCluster 0 (has 0 w0)).modCluster 1 (has 1 w1)
/-- What member 0 of a gang meets: how many members, how many accepted commands, their words but for gpos, and their positions. -/
def meets (q : Word × Word) : Option (Nat × Nat × List (Nat × Nat) × List Nat) :=
  let s := ganged (0x04020000, 0x20000001) q
  match s.mxHead 0, decodeMx 0x04020000 0x20000001 with
  | some h, some (.mma w) =>
    let hs := (s.mmaParty 0 h.ctx w).filterMap s.mmaAccepted
    if h.refused || h.started || !(s.mmaOk 0 w h) then none
    else some ((s.mmaParty 0 h.ctx w).length, hs.length, hs.map fun x => (x.1.w0.toNat, x.1.w1.toNat - x.1.w1.toNat / 2 ^ 26 % 8 * 2 ^ 26), hs.map fun x => x.2.gpos)
  | _, _ => none
/-- R361: a gang of two meets: its commands agree; they share a position; one of them has code 0; or the other member has none. -/
theorem witness_MatrixProducts_meets :
    meets (0x04020000, 0x24000001) = some (2, 2, [(0x04020000, 0x20000001), (0x04020000, 0x20000001)], [0, 1]) ∧
      meets (0x04020000, 0x20000001) = some (2, 2, [(0x04020000, 0x20000001), (0x04020000, 0x20000001)], [0, 0]) ∧
      meets (0x04020000, 0x00000001) = some (2, 2, [(0x04020000, 0x20000001), (0x04020000, 1)], [0, 0]) ∧
      (meets (0x08000000, 0)).map (fun q => (q.1, q.2.1)) = some (2, 1) := ⟨rfl, rfl, rfl, rfl⟩
theorem witness_MatrixMoves :
    let s := drained (mxAt 0x08000000 0x01000000 id ringed)
    let w : MxW := { mmaW with w1 := 0x01000000 }
    ∃ h s2, s.mxHead 0 = some h ∧ h.refused = false ∧ (s.mxOf 0).slotsOk w = true ∧ s.ownsTile 0 h.ctx (w.f 31 24) = true ∧
      tileState ((s.cluster 0).tile (w.f 31 24)) = tReady ∧ s.enterEdge 0 (.d (w.f 31 30)) (s.drainToken 0 h w h.pos) = some s2 :=
  ⟨_, _, rfl, by decide, by decide, by decide, by decide, rfl⟩
theorem witness_CoverageResults :
    (∃ h, (mxAt 0x20000000 0 id id).mxHead 0 = some h ∧ h.refused = false ∧ ((mxAt 0x20000000 0 id id).mxOf 0).cov = none) ∧
      ∃ h ta, (mxAt 0x20000000 0 id fun x => covered { e := 1 } (ringed x)).mxHead 0 = some h ∧ h.refused = false ∧
        ((mxAt 0x20000000 0 id fun x => covered { e := 1 } (ringed x)).mxOf 0).cov.isSome = true ∧
        (mxAt 0x20000000 0 id fun x => covered { e := 1 } (ringed x)).ownsRing 0 h.ctx 0 = true ∧
        (mxAt 0x20000000 0 id fun x => covered { e := 1 } (ringed x)).readyHead 0 0 = some ta ∧ ({ mmaW with w1 := 0 } : MxW).f 30 16 + 1 ≤ 1 ∧
        ((mxAt 0x20000000 0 id fun x => covered { e := 1 } (ringed x)).mxOf 0).slotsOk { mmaW with w1 := 0 } = true :=
  ⟨⟨_, rfl, by decide, by decide⟩, ⟨_, _, rfl, by decide, by decide, by decide, rfl, by decide, by decide⟩⟩
theorem witness_CoverageResults_read :
    let s := drained (mxAt 0x20000000 0 id (covered { e := 1, valid := [0] }))
    let w : MxW := { mmaW with w1 := 0 }
    ∃ h s1, s.mxHead 0 = some h ∧ w.f 28 21 + (w.f 20 13 + 1) ≤ 256 ∧ 0 ∈ (s.covOf 0).valid ∧
      s.enterEdge 0 (.d (w.f 30 29)) { s.mxToken 0 h w 0 with
        lanes := [BitVec.ofNat 32 0, (s.covOf 0).index.get 0 0, (s.covOf 0).keys.get 0 0] ++ gainLanes (s.covOf 0) 0 ++ [BitVec.ofNat 32 (s.covOf 0).ovr.toNat], last := true } = some s1 :=
  ⟨_, _, rfl, by decide, by decide, rfl⟩
theorem witness_CoverageResults_none :
    let s := drained (mxAt 0x20000000 0 id (covered { e := 1 }))
    let w : MxW := { mmaW with w1 := 0 }
    (∀ g, w.f 28 21 ≤ g → g < w.f 28 21 + (w.f 20 13 + 1) → g ∉ (s.covOf 0).valid) ∧ ∃ h s1, s.mxHead 0 = some h ∧
      s.enterEdge 0 (.d (w.f 30 29)) { s.mxToken 0 h w 0 with
        lanes := (List.range 7).map (Config.openLane s.tick) ++ [BitVec.ofNat 32 (2 + (s.covOf 0).ovr.toNat)], last := true } = some s1 :=
  ⟨fun _ _ _ h => (nomatch h), _, _, rfl, rfl⟩


/-! ### Witnesses: engines, links and services -/

/-- Stream 0 of cluster 0 has issued a command. -/
def issued (x : Cmd) : State :=
  { (placeSeq State.reset 0xF0000040).modStream 0 0 fun st => { st with issued := [x] } with cur := { sel := 1 } }
def cmd (q : Nat) (desc : List DWord) : Cmd := { q := q, a := 0x100, obj := 0, c := 0, id := 1, desc := desc }
/-- A collective of the one member that a placement table of zeros has, of 8 bytes. -/
def clDesc (kind : DWord) : List DWord := [kind <<< 60, 0x200, 0x300, 8, 0, 0x100000001, 0, 0x400]
def clD : ClDesc := ⟨0, 0, 0, 0, 0, 0, 0, 0, 0x200, 0x300, 8, 0, 0, 1, 1, 0x400⟩

/-- What a collective writes for its members. -/
def clOut (kind : Nat) (s : State) (out : List (List PByte)) : List (ClMember × Nat × List (DWord × List PByte)) :=
  (List.range (s.clJoined kind clD).length).filterMap fun i => ((s.clJoined kind clD)[i]?).map fun m => (m, ClMember.owner clD m, clWrites kind m (out.getD i []))
theorem witness_CollectiveResults_allreduce :
    let s := issued (cmd 2 (clDesc 0))
    (∃ s0, s.clTables 0 0 (engOwner 1) clD = (s0, none)) ∧ s.clReady 0 clD = true ∧ ∃ s1 s2 sends, clReads 0 clD (s.clJoined 0 clD) s = (s1, .ok sends) ∧
      clFail (clOut 0 s [bytesOf 8 [(0, false)]]) s1 = (s2, none) := ⟨⟨_, rfl⟩, by decide, _, _, _, rfl, rfl⟩
theorem witness_CollectiveResults_irregular :
    let s := issued (cmd 2 (clDesc 4))
    s.clReady 4 clD = true ∧ ∃ s1 s2 sends, clReads 4 clD (s.clJoined 4 clD) s = (s1, .ok sends) ∧ clFail (clOut 4 s [[]]) s1 = (s2, none) :=
  ⟨by decide, _, _, _, rfl, rfl⟩
theorem witness_CollectiveResults_scatter :
    let s := issued (cmd 2 (clDesc 1))
    s.clReady 1 clD = true ∧ ∃ s1 s2 sends, clReads 1 clD (s.clJoined 1 clD) s = (s1, .ok sends) ∧ clFail (clOut 1 s [bytesOf 8 [(0, false)]]) s1 = (s2, none) :=
  ⟨by decide, _, _, _, rfl, rfl⟩
theorem witness_CollectiveResults_gather :
    let s := issued (cmd 2 (clDesc 2))
    s.clReady 2 clD = true ∧ ∃ s1 s2 sends, clReads 2 clD (s.clJoined 2 clD) s = (s1, .ok sends) ∧ clFail (clOut 2 s [sends.flatten]) s1 = (s2, none) :=
  ⟨by decide, _, _, _, rfl, rfl⟩
theorem witness_CollectiveResults_alltoall :
    let s := issued (cmd 2 (clDesc 3))
    s.clReady 3 clD = true ∧ ∃ s1 s2 sends, clReads 3 clD (s.clJoined 3 clD) s = (s1, .ok sends) ∧ clFail (clOut 3 s [sends.flatten]) s1 = (s2, none) :=
  ⟨by decide, _, _, _, rfl, rfl⟩
/-- A context with a collective node, or a conversion, or a demand. -/
def ctxOf (g : Ctx → Ctx) (s : State) : State := s.modCtx 1 g
def node1 : CollNode := { n := 1, ins := [(0, [tok 1])], dest := [(0, (0, 0, 0, 0))] }
theorem witness_NodeAndConversionSteps_node :
    let s := ctxOf (fun x => { x with nodes := [(0, node1)] }) (issued (cmd 7 []))
    (s.ctxAt 0 0).bind (fun x => x.nodes.find? 0) = some node1 ∧ s.running 0 0 = true ∧ s.nodeDeliver 0 0 0 node1 = none ∧
      (∃ r, node1.fire = some r) ∧ ({ node1 with ins := [] } : CollNode).fire = none :=
  ⟨by decide, by decide, by decide, ⟨_, rfl⟩, by decide⟩
/-- A context whose node is as given. -/
def noded (nd : CollNode) : State := ctxOf (fun x => { x with nodes := [(0, nd)] }) (issued (cmd 7 []))
theorem witness_NodeAndConversionSteps_waiting :
    ∃ s1, ((noded { node1 with outs := [(0, [tok 1])] }).modSite 0 7 fun x => { x with words := [{ net := 2, out := 4, inp := 1, ctx := 0, vc := 0, mc := false }] }).nodeDeliver
      0 0 0 { node1 with outs := [(0, [tok 1])] } = some s1 := ⟨_, rfl⟩
/-- EOS at every member; EOS, and data, at the member whose turn it is; a block; and the tokens of the lowest tag. -/
theorem witness_NodeAndConversionSteps_kinds :
    let eos : Token := { kind := kEos }
    let ends : CollNode := { n := 2, ins := [(0, [eos]), (1, [eos])] }
    let gather (t : Token) : CollNode := { kind := 2, n := 2, ins := [(0, [t])] }
    let all : CollNode := { kind := 3, n := 2, ins := [(1, [tok 1])] }
    let red : CollNode := { n := 2, ins := [(0, [tok 1]), (1, [tok 2, { tok 3 with tag := 1 }])] }
    ((noded ends).nodeDeliver 0 0 0 ends = none ∧ ∀ m < ends.n, ∃ e ∈ ends.head m, e.kind = kEos) ∧
      ((noded (gather eos)).nodeDeliver 0 0 0 (gather eos) = none ∧ (gather eos).endAll.isNone = true ∧ (gather eos).head 0 = some eos) ∧
      ((gather (tok 1)).turn < (gather (tok 1)).n ∧ (gather (tok 1)).head 0 = some (tok 1) ∧ (tok 1).kind ≠ kEos) ∧
      ((∀ j < 1, all.head j = none) ∧ all.head 1 = some (tok 1)) ∧
      ((∀ m < red.n, red.head m = [tok 1, tok 2][m]?) ∧ (∀ u ∈ [tok 1, tok 2], u.kind = kDense ∧ u.tag = 0) ∧ ∀ m < red.n, ∀ u ∈ red.ins.get [] m, (0 : BitVec 12) ≤ u.tag) := by decide
/-- A round of an irregular node of one member. -/
def irregular : CollNode := { kind := 4, n := 1, cap := 4, ins := [(0, [{ tok 1 with lanes := [1, 2, 3, 4, 0], last := true }])] }
theorem witness_NodeAndConversionSteps_round : irregular.endAll.isNone = true ∧ ∃ r, irregular.round = some r := ⟨by decide, _, rfl⟩
def conv1 (b : Bool) : CollOp := { id := 0, dtd := 0, target := 0x2222, done := 0, places := [(0, 0)], started := b }
theorem witness_NodeAndConversionSteps_conversion :
    let s := ctxOf (fun x => { x with colls := [conv1 false] }) (issued (cmd 7 []))
    let t := ctxOf (fun x => { x with colls := [conv1 true] }) (issued (cmd 7 []))
    (∃ x, s.ctx? 1 = some x ∧ x.running = true ∧ x.conv? 0 = some (conv1 false) ∧ (conv1 false).started = false ∧ (conv1 false).away = false ∧ (conv1 false).stalled = none) ∧
      (conv1 false).places.head? = some (0, 0) ∧ (∃ n, planBad (s.dtdAt 0 0 0).nd (s.dtdAt 0 0 0).ty (s.dtdAt 0 0 0).st 0x2222 = some n) ∧
      ∃ x, t.ctx? 1 = some x ∧ x.conv? 0 = some (conv1 true) ∧ (conv1 true).started = true :=
  ⟨⟨_, rfl, by decide, by decide, by decide, by decide, by decide⟩, by decide, ⟨_, rfl⟩, ⟨_, rfl, by decide, by decide⟩⟩
/-- A conversion that changes nothing. -/
def conv0 : CollOp := { conv1 false with target := 0 }
def meeting : State := ctxOf (fun x => { x with colls := [conv0] }) (issued (cmd 7 []))
theorem witness_NodeAndConversionSteps_meeting :
    ∃ s1 s2 s3 ps, meeting.tablesFail 0 0 (convOwner (0, 0) 0) 0 = (s1, none) ∧ planBad (s1.dtdAt 0 0 0).nd (s1.dtdAt 0 0 0).ty (s1.dtdAt 0 0 0).st 0 = none ∧
      conv0.rival = false ∧ conv0.left = [] ∧ s1.enterAll 1 conv0 (s1.dtdAt 0 0 0) = some s2 ∧ s2.readParts conv0 (s1.dtdAt 0 0 0) (s1.meshAt 0 0) = (s3, .ok ps) ∧
      ∃ s4, s3.convFail [((0, 0), convOwner (0, 0) 0, 0, ((convertAll (s1.dtdAt 0 0 0) (s1.meshAt 0 0) 0 ps).map (partBytes (s1.dtdAt 0 0 0))).getD 0 [])] = (s4, none) :=
  ⟨_, _, _, _, rfl, by decide, by decide, by decide, rfl, rfl, _, rfl⟩
set_option maxRecDepth 200000 in
theorem witness_NodeAndConversionSteps_complete :
    ∃ s1, (ctxOf (fun x => { x with colls := [{ conv0 with started := true }] }) (issued (cmd 7 []))).engReady 0 0 (convOwner (0, 0) 0) (dtdAddr 0 0)
      (pbytes 8 0x400000000 false) = (s1, none) := ⟨_, rfl⟩
/-- R150: an axis of two members that each hold half of a vector, one that holds partial sums, and one that replicates. -/
theorem witness_NodeAndConversionSteps_axis :
    let d : Dtd := { w0 := 0, dims := 2, base := 0, mstride := 0, cap := 8, stage := 0, done := 0 }
    let half (m : Nat) : Part := ⟨localShape d [2] 4 m, [(m, false)]⟩
    let part (st m : Nat) : Part := ⟨localShape d [2] st m, [(m, false), (m + 1, false)]⟩
    (∀ m < 2, [m] ∈ pointsOf (localShape d [2] (setSt 4 0 0) 0) ∧ (half m).at_ [m] = some (m, false) ∧ (half (1 - m)).at_ [m] = none) ∧
      (∀ m < 2, [1] ∈ pointsOf (localShape d [2] (setSt 8 0 0) m) ∧ (part 8 m).at_ [1] = some (m + 1, false)) ∧
      (∀ m < 2, [0] ∈ pointsOf (localShape d [2] (setSt 0 0 8) m) ∧ (part 0 m).at_ [0] = some (m, false)) ∧ axisGroup [2] 0 0 = [0, 1] := by decide
/-- A placement table of a replicated vector. -/
theorem witness_NodeAndConversionSteps_plan :
    let s := issued (cmd 7 [])
    planBad (s.dtdAt 0 0 0).nd (s.dtdAt 0 0 0).ty (s.dtdAt 0 0 0).st 0 = none ∧ sameDtd (s.dtdAt 0 0 0) { s.dtdAt 0 0 0 with dims := 1 } = false := by decide
theorem witness_NodeAndConversionSteps_demand :
    let s := issued (cmd 7 [])
    ∃ x y, s.ctx? 1 = some x ∧ x.running = true ∧ x.conv? 0 = none ∧ (x.places.filterMap fun p => ((s.stream p.1 p.2).issued.find? fun y =>
        decide (y.q = 7) && !y.done && decide (y.a.bits 9 0 = 0x100)).map fun y => (p, y)) = ((0, 0), y) :: [] ∧ (s.dtdAt 0 0 0x100).st = y.c.bits 15 0 :=
  ⟨_, _, rfl, by decide, by decide, rfl, by decide⟩

/-- A flit header from node 0. -/
def hdr0 : FlitHdr := ⟨1, 0, 0, 0, 1, 0, 0⟩
/-- Port 0 is ready, node 0 enrolled, 64 flits its ceiling, with a key in the slot in use of each direction, and its state changed. -/
def ported (s : State) (g : Port → Port) : State :=
  (((s.setPortBit 0 true).modIod 0 fun x => { x with boundary := [(0x200, 1), (0x400, 0x40)] }).modPort 0 fun x => g { x with pctl := 1, txA := { x.txA with loaded := true }, rxA := { x.rxA with loaded := true } })
def lkD : LkDesc := ⟨0, 0, 0, 5, 0, 0, 0x200, 0, 0⟩
theorem witness_LinkAndScrubCommands_send :
    let s := ported (issued (cmd 3 [0, 0x200, 0, 0, 0, 0, 0, 0])) id
    (∃ x, s.linkCmd 0 = some x ∧ x.pos = 0) ∧ (s.port 0).txEnds = false ∧ ((s.port 0).outq.any fun e => e.2.2.isSome) = false ∧ s.earlierKey 0 0 1 0 = false ∧
      s.earlierSend 0 0 1 0 = false ∧ s.sendHolder 0 = none := ⟨⟨_, rfl, by decide⟩, by decide, by decide, by decide, by decide, by decide⟩
theorem witness_LinkAndScrubCommands_data :
    let s := ported (issued { cmd 3 [0, 0x200, 0, 0, 0, 0, 0, 0] with pos := 1 }) id
    ∃ x s1 bs, s.linkCmd 0 = some x ∧ 1 ≤ x.pos ∧ (s.modPort 0 fun y => { y with sending := some (0, 0, 1) }).engBytes 0 0 0 (0x200 + BitVec.ofNat 64 (232 * (x.pos - 1))) 232 =
      (s1, .ok bs) := ⟨_, _, _, rfl, by decide, rfl⟩
set_option maxRecDepth 200000 in
theorem witness_LinkAndScrubCommands_keys :
    let s := ported (issued (cmd 3 [0, 0x200, 0, 0, 0, 0, 0, 0])) id
    let t := { s.modCtx 1 (fun x => { x with root := 0x4000 }) with keys := [(0, { valid := true, root := 0x4000 })] }
    (∃ x, s.linkCmd 0 = some x ∧ s.keyTurn x 0 = true ∧ x.pos = 0) ∧ s.enrolledKey 0 (s.rootAt 0 0) 0 = none ∧ (t.enrolledKey 0 (t.rootAt 0 0) 0).isSome = true ∧
      (s.port 0).inUse false false = true ∧ (s.port 0).inUse false true = false ∧ (s.port 0).otherTx.loaded = false ∧
      ∃ s2, s.engReady 0 0 (engOwner 1) 0x200 ((s.linkStat 0).flatMap fun w => pbytes 8 w.toNat false) = (s2, none) := ⟨⟨_, rfl, by decide, by decide⟩, by decide, by decide, by decide, by decide, by decide, _, rfl⟩
theorem witness_LinkAndScrubCommands_switch :
    let s := ported (issued (cmd 3 [0, 0x200, 0, 0, 0, 0, 0, 0])) fun x => { x with txB := { x.txB with loaded := true } }
    ((s.port 0).outq.any fun e => decide (e.1.type = 4)) = false ∧ (s.port 0).otherTx.loaded = true ∧ (s.port 0).otherTx.ctr.toNat + 1 < (s.port 0).plim.toNat := by decide
theorem witness_LinkAndScrubCommands_scrub :
    let s := issued (cmd 4 [0x0001000000000000, 0x1000, 0x200, 0, 0, 0, 0, 0])
    isFar (hbm 0x200) = false ∧ ∃ x s1, s.issuedCmd? 0 0 1 = some x ∧ x.q = 4 ∧ x.done = false ∧ x.stalled = none ∧ s.running 0 0 = true ∧
      s.engHome 0 0 0 (0x1000 + BitVec.ofNat 64 (64 * x.pos)) 64 .load = (s1, .ok (hbm 0x1000)) ∧
      ∃ s2, s1.engHome 0 0 0 (0x200 + BitVec.ofNat 64 (8 * (x.pos / 64))) 8 .store = (s2, .ok (hbm 0x200)) :=
  ⟨by decide, _, _, rfl, by decide, by decide, by decide, by decide, rfl, _, rfl⟩
/-- A flit in the replay buffer with counter n. -/
def flit (n : DWord) : Flit := { hdr := hdr0, pay := [], slotB := false, ctr := n }
theorem witness_FlitTransmission_again :
    let s := ported State.reset fun x => { x with replay := [flit 3, flit 4], resend := 1 }
    s.portLive 0 = true ∧ (s.recentOf 0).length < s.ceiling 0 ∧ 0 < (s.port 0).resend ∧ (s.port 0).replay[2 - 1]? = some (flit 4) := by decide
theorem witness_FlitTransmission_first :
    let s := ported State.reset fun x => { x with outq := [(hdr0, [], none)], replay := [flit 3] }
    s.portLive 0 = true ∧ s.portReady 0 = true ∧ (s.port 0).resend = 0 ∧ (s.port 0).replay = flit 3 :: [] ∧ (s.port 0).due ≤ s.portCycles 0 ∧ ∃ q rest, s.pickFlit 0 (s.port 0).outq = some (q, rest) :=
  ⟨by decide, by decide, by decide, by decide, by decide, _, _, rfl⟩
/-- A port that retrains still sends what is to be sent again. -/
theorem witness_FlitTransmission_retraining :
    let s := (ported State.reset fun x => { x with replay := [flit 3, flit 4], resend := 2 }).retrain 0
    s.portReady 0 = false ∧ s.portLive 0 = true := by decide
theorem witness_FlitTransmission_ack :
    let s := ported State.reset fun x => { x with replay := [flit 3, flit 4] }
    s.accepts 0 0 = true ∧ (∃ gone rest, ackedPart (s.port 0).replay 3 = some (gone, rest)) ∧ ackedPart (s.port 0).replay 9 = none ∧ (s.port 0).fails + 1 < 16 :=
  ⟨by decide, ⟨_, _, rfl⟩, by decide, by decide⟩
theorem witness_FlitTransmission_gateway :
    let s := { State.reset with ctxs := [(1, { rcb := 0, ptab := 0x40, regions := [⟨0, 0, 0, 0⟩] })] }
    s.ptabCtx 0x40 = some (1, { rcb := 0, ptab := 0x40, regions := [⟨0, 0, 0, 0⟩] }) ∧ s.muRoom 1 [] false = true := ⟨rfl, rfl⟩
/-- A batch that comes as GATE flits by port 0. -/
theorem witness_FlitTransmission_gate :
    let s := { ported State.reset id with ctxs := [(1, { rcb := 0, ptab := 0x40, regions := [⟨0, 0, 0, 0⟩] })], cur := { sel := 65536 } }
    65536 ≤ s.cur.sel ∧ s.accepts 0 0 = true ∧ (s.port 0).rx.ctr.toNat + 0 ≤ (s.port 0).plim.toNat ∧
      s.ptabCtx 0x40 = some (1, { rcb := 0, ptab := 0x40, regions := [⟨0, 0, 0, 0⟩] }) ∧ s.muRoom 1 [] false = true := by decide
theorem witness_FlitReception :
    let s := ported State.reset id
    s.accepts 0 hdr0.src.toNat = true ∧ (∃ s2 r, s.nodeRead 0 8 = (s2, r)) ∧ (s.sendOf 0 hdr0.xfer).isNone = true ∧
      (s.farReads.find? fun r => decide (r.port = 0) && decide (r.xfer = hdr0.xfer) && r.answer.isNone) = none := ⟨by decide, ⟨_, _, rfl⟩, by decide, by decide⟩
/-- A load of another node's memory that waits for transfer 1 at port 0. -/
def asked : FarRead := { who := 0, key := leafKey 0x2FF 0x100, n := 8, port := 0, xfer := 1 }
theorem witness_FlitReception_own :
    ([asked].find? fun r => decide (r.port = 0) && decide (r.xfer = hdr0.xfer) && r.answer.isNone) = some asked := by decide
/-- An earlier transfer of node 0 is not performed. -/
theorem witness_FlitReception_ordered :
    let s := ported State.reset fun x => { x with xfers := [{ src := 0, xfer := 2, addr := 0, mode := 0, ptab := 0, n := 1, at_ := 0 }] }
    s.earlierThan hdr0.src 5 5 = true := by decide
/-- A transfer of node 0 to 0x100 holds its first flit. -/
def held0 (o : Bool) (mode : DWord) : Transfer := { src := 0, xfer := 1, addr := 0x100, mode := mode, ptab := 0x40, n := 2, held := [(0, ⟨o, 0, [5]⟩)] }
/-- Port 0 holds transfers and READs, and the functions of die 0 are ready. -/
def holding (l : List Transfer) (r : List HeldRead) : State :=
  (ported State.reset fun x => { x with xfers := l, reads := r }).modDie 0 fun d => { d with drdy := 0x7FFFFFFFFFFFF }
/-- A READ of 8 bytes at 0x100. -/
def read0 : HeldRead := { src := 0, addr := 0x100, len := 8, rxfer := 2, at_ := 1, ord := true }
theorem witness_FlitReception_settle :
    State.reset.performNext 0 = none ∧ (holding [held0 true 0] []).heldFlits 0 = 0 + 1 ∧ (holding [held0 true 0] []).firstXfer 0 0 = some (held0 true 0) ∧
      (held0 true 0).held.find? (held0 true 0).got = some ⟨true, 0, [5]⟩ ∧ (holding [held0 true 0] []).earlierXfer 0 (held0 true 0) 0 = false ∧
      (∃ s1, (holding [held0 true 0] []).performFlit 0 (held0 true 0) [5] = some s1) ∧ ∃ s1, (holding [held0 true 0] []).performNext 0 = some s1 :=
  ⟨rfl, by decide, by decide, by decide, by decide, ⟨_, rfl⟩, _, rfl⟩
theorem witness_FlitReception_read :
    let s := holding [] [read0]
    (∀ q < 48, ∀ y, s.firstXfer q 0 = some y → y.held.find? y.got = none) ∧ (s.port 0).reads = [] ++ read0 :: [] ∧ s.earlierThan 0 1 1 = false ∧
      s.nodeReady read0.addr.toNat read0.len.toNat = true ∧
      ∃ s1 d, (s.modPort 0 fun x => { x with reads := x.reads.filter fun e => decide (e ≠ read0) }).nodeRead read0.addr.toNat read0.len.toNat = (s1, d) := by
  refine ⟨fun q hq y h => ?_, by decide, by decide, by decide, _, _, rfl⟩
  have : ∀ q < 48, (holding [] [read0]).firstXfer q 0 = none := by decide
  rw [this q hq] at h; cases h
/-- A transfer to the context of placement table 0x40. -/
def inward (s : State) : State := { s with ctxs := [(1, { rcb := 0, ptab := 0x40 })] }
theorem witness_FlitReception_perform :
    (held0 true 0).failed = false ∧ (held0 true 0).n ≠ 1 ∧ (ported State.reset id).nodeReady 0x100 8 = false ∧ (holding [] []).nodeReady 0x100 8 = true ∧
      (∃ s1, (holding [] []).nodeStore 0x100 [5] = (s1, true)) ∧ (holding [] []).nodeReady 0x10000000000 8 = true ∧ (∃ s1, (holding [] []).nodeStore 0x10000000000 [5] = (s1, false)) ∧
      State.reset.ptabCtx 0x40 = none ∧ (inward (holding [] [])).ptabCtx 0x40 = some (1, { rcb := 0, ptab := 0x40 }) :=
  ⟨by decide, by decide, by decide, by decide, ⟨_, rfl⟩, by decide, ⟨_, rfl⟩, rfl, rfl⟩
theorem witness_FlitReception_virtual :
    let x : Ctx := { rcb := 0, ptab := 0x40 }
    let s := inward ((holding [] []).modDie 0 fun d => { d with fqbase := 1 })
    (∃ s1, (placeSeq State.reset 0).virtualStore x 0x100 [(5, false)] = (s1, none)) ∧
      (∃ s1 at_, (inward State.reset).virtualStore x 0x100 [(5, false)] = (s1, some (0, 0, at_))) ∧
      ∃ s1 s2 e code d at_, code ≠ 0 ∧ s.virtualStore x 0x8000000000000000 [(5, false)] = (s1, some (code, d, at_)) ∧
        s1.postFault 0 { kind := 3, code := code, detail := d, acc := 1, cid := 1, va := at_, root := 0, pos := 0, cmd := 0 } {} = (s2, some e) :=
  ⟨⟨_, rfl⟩, ⟨_, _, rfl⟩, _, _, _, 3, _, _, by decide, rfl, rfl⟩
theorem witness_FlitReception_send :
    let s := ported (issued { cmd 3 [0, 0x200, 0, 0, 0, 0, 0, 0] with pos := 1, inc := 2 }) fun x => { x with sending := some (0, 0, 1) }
    ∃ c k x, s.sendOf 0 1 = some (c, k, x) ∧ x.inc < DWord.bits (BitVec.ofNat 64 (stFaulted * 2 ^ 48 + 3)) 47 0 := ⟨_, _, _, rfl, by decide⟩
theorem witness_TranslationAndMemoryEvents :
    State.reset.quiet 0 = true ∧ ((State.reset.modDie 0 fun x => { x with xinv := 0x8000000000000000 }).die 0).xinv.getLsbD 63 = true ∧
      ((State.reset.modDie 0 fun x => { x with xinv := 0x8000000000000000 }).die 0).xinv.bits 62 61 = 0 ∧ (State.reset.die 0).xinv.getLsbD 63 = false ∧ canonical 0 = true := by decide
/-- A store translated on the die waits for its block's commit. -/
theorem witness_TranslationAndMemoryEvents_busy :
    (sqWith fun st => { st with effs := [(0, .store 0x100 (hbm 0x100) 8 1 false)] }).quiet 0 = false := by decide
theorem witness_ServiceActions_microcode :
    let s := State.reset.modDie 0 fun x => { x with cmcode := 0x10001, cfence := 1 }
    (s.die 0).cmcode.getLsbD 0 = true ∧ (s.die 0).cmcode.bits 9 4 = 0 ∧ s.fenced 0 = true ∧ (State.reset.die 0).cmcode.getLsbD 0 = false := by decide
theorem witness_ServiceActions :
    (State.reset.die 0).cfence.getLsbD 0 = false ∧ (1 : DWord).getLsbD 0 = true ∧ ((State.reset.modDie 0 fun x => { x with cfence := 1 }).fenced 0) = true ∧
      ((State.reset.modDie 0 fun x => { x with cfence := 1 }).die 0).cfence.getLsbD 0 = true ∧ (State.reset.iod 0).kimp.getLsbD 0 = false ∧ State.reset.recordOp 0 = 0 ∧
      ((State.reset.modIod 0 fun x => { x with kimp := 1, attgo := 1 }).iod 0).kimp.getLsbD 0 = true ∧
      ((State.reset.modIod 0 fun x => { x with kimp := 1, attgo := 1 }).iod 0).attgo.getLsbD 0 = true ∧
      ({ State.reset with mem := [(7, 1)] } : State).recordOp 0 = 1 ∧ ({ State.reset with mem := [(7, 2)] } : State).recordOp 0 = 2 ∧
      (State.reset.iod 0).attgo.getLsbD 0 = false := by decide
/-- A fault record of a context that waits. -/
def record : FaultRec := { seq := 7, words := [], locus := {}, cid := 1, va := 0x100, code := 3, detail := 2 }
theorem witness_ServiceActions_record :
    let s := State.reset.modDie 0 fun x => { x with records := [record] }
    s.recAt 0 7 = some record ∧ record.kind ≠ 4 ∧ s.retryWaits record = false := by decide
/-- An import record of zeros, where the standards unwrap a key from it: the lowest entry is free. -/
theorem witness_ServiceActions_keys (v : BitVec 256) (_ : Config.keyUnwrap (Config.mlkemDecap (bytesAt [] (hbm 0x10) 1088)) (bytesAt [] (hbm 0x450) 40) = some v) :
    let s := State.reset.modIod 0 fun x => { x with kimp := 1 }
    (s.iod 0).kimp.getLsbD 0 = true ∧ (s.iod 0).kimp.bits 63 6 * 64 + 1152 ≤ 2 ^ 40 ∧ s.recordOp 0 = 0 ∧ s.rd (hbm 6) 1 ≤ 1 ∧ s.rd (hbm 0) 6 = 0 ∧ s.rd (hbm 0x478) 8 = 0 ∧
      (s.key 0).valid = false ∧ (∀ j < 0, (s.key j).valid = true) := by decide
theorem witness_ReadyAndReset_owed :
    let o : OwedSignal := { obj := 0x100, inc := 1, status := 0, cluster := 0, root := 0, phys := true }
    ({ State.reset with signals := [o] } : State).signals = [o] := rfl
theorem witness_ReadyAndReset : (State.reset.die 7).cfence.getLsbD 47 = false ∧ ((State.reset.modDie 0 fun x => { x with cfence := 1 }).die 0).cfence.getLsbD 0 = true := by decide


/-! ### Witnesses: fabric moves, picots, scheduler and contexts -/

/-- A switch word of site 1 that leads from input 4 to the element's port A, with a token in its buffer. -/
def word1 : SwWord := { net := 2, out := 4, inp := 0, ctx := 0, vc := 0, mc := false, buf := [tok 1] }
theorem witness_FabricMoves_word :
    let s := { (placeSlot State.reset 0 0x04000000).modSite 0 0 fun x => { x with words := [word1] } with cur := {} }
    (s.site 0 0).words.find? (fun w => decide (w.pos = s.cur.sel) && decide (w.ctx.toNat = 0)) = some word1 ∧ word1.buf = tok 1 :: [] ∧
      firstAfter ((s.site 0 0).turns.get 0 4) ((s.site 0 0).words.filter fun v => decide (v.out = word1.out) && (s.forwardWord 0 0 v).isSome) = some word1 ∧
      (∃ rg s1, s.region? 0 0 = some rg ∧ rg.frozen = false ∧ s.hop 0 0 word1 (tok 1) = some s1) ∧ word1.switched = false ∧ (tok 1).isPicot 2 = false :=
  ⟨by decide, by decide, by decide, ⟨_, _, rfl, by decide, rfl⟩, by decide, by decide⟩
/-- R41: of two words of one output the one whose turn it is, and after the last the first again. -/
theorem witness_FabricMoves_turn :
    let w2 : SwWord := { word1 with inp := 1 }
    firstAfter 513 [word1, w2] = some w2 ∧ firstAfter 545 [word1, w2] = some word1 := by decide
theorem witness_FabricMoves_result :
    let s (i : PipeItem) : State := (placeSlot State.reset 0 0x04000000).modElem 0 0 0 fun e => { e with pipe := [i] }
    (∃ e, (s ⟨0, tok 1, none⟩).elem? 0 0 0 = some e ∧ e.pipe.find? (fun x => decide (x.out = 0) && e.hasPlace x.out x.tok.chan) = some ⟨0, tok 1, none⟩) ∧
      (∃ e, (s ⟨1, tok 1, none⟩).elem? 0 0 0 = some e ∧ e.pipe.find? (fun x => decide (x.out = 1) && e.hasPlace x.out x.tok.chan) = some ⟨1, tok 1, none⟩) ∧
      ∃ e, (s ⟨2, tok 1, some 3⟩).elem? 0 0 0 = some e ∧ e.pipe.find? (fun x => decide (x.out = 2)) = some ⟨2, tok 1, some 3⟩ :=
  ⟨⟨_, rfl, by decide⟩, ⟨_, rfl, by decide⟩, ⟨_, rfl, by decide⟩⟩
/-- A command token at the command input of CE 0. -/
def commanded (n : Word) (g : SlotSt → SlotSt) : State :=
  (placeSlot State.reset 0 0x04000008).modElem 0 0 0 fun e => { e with inQ := [{ kind := kCmd, lanes := [n * 16777216] }], slots := [(0, g {})] }
theorem witness_ElementCommandsAndUnits_commands :
    ((commanded 1 id).cmdAt 0 0 0 1).isSome = true ∧ ((commanded 3 id).cmdAt 0 0 0 3).isSome = true ∧ ((commanded 2 id).cmdAt 0 0 0 2).isSome = true ∧
      (∃ e, (commanded 2 id).elem? 0 0 0 = some e ∧ (e.slot 0).latch = none) ∧
      ∃ e info p, (commanded 2 fun x => { x with latch := some (tok 1) }).elem? 0 0 0 = some e ∧ (e.slot 0).latch = some (tok 1) ∧ e.slotInfo 0 0 = some info ∧ info.latch = some p :=
  ⟨by decide, by decide, by decide, ⟨_, rfl, by decide⟩, ⟨_, _, _, rfl, by decide, rfl, rfl⟩⟩
theorem witness_ElementCommandsAndUnits_aging :
    let s := kept add2 fun x => { x with passed := 64 }
    s.readyAt 0 0 0 0 = some (firing s) ∧ ∃ e, s.elem? 0 0 0 = some e ∧ 64 ≤ (e.slot 0).passed := ⟨by decide, _, rfl, by decide⟩
/-- CE 0 is being fetched. -/
def fetching : State := (placeSlot State.reset 0 0x04000000).modElem 0 0 0 fun e => { e with unit := none, fetching := true }
theorem witness_ElementCommandsAndUnits_fetch :
    (∃ r, fetching.region? 0 0 = some r ∧ r.digests.find? 0 = none ∧ (fetching.cluster 0).cached 0 0 r.image = none) ∧
      (∃ e, fetching.elem? 0 0 0 = some e ∧ e.fetching = true ∧ e.unit = none) ∧ (fetching.site 0 0).refetch.contains 0 = false ∧
      ∃ r, (fetching.modRegion 0 0 fun r => { r with digests := [(0, fetching.unitDigest 0 0)] }).region? 0 0 = some r ∧
        r.digests.find? 0 = some ((fetching.modRegion 0 0 fun r => { r with digests := [(0, fetching.unitDigest 0 0)] }).unitDigest r.image 0) :=
  ⟨⟨_, rfl, by decide, by decide⟩, ⟨_, rfl, by decide, by decide⟩, by decide, ⟨_, rfl, rfl⟩⟩
/-- The words of box 0 are fetched again. -/
theorem witness_ElementCommandsAndUnits_box :
    let s := ((placeSlot State.reset 0 0x04000000).modSite 0 0 fun x => { x with refetch := [0] })
    (s.site 0 0).refetch.contains 0 = true ∧ (∀ e, s.elem? 0 0 0 = some e → (e.fetching && e.unit.isNone) = false) ∧
      (∃ r, s.region? 0 0 = some r ∧ r.digests.find? (64 + 0) ≠ some (s.boxDigest r.image 0)) ∧
      ∃ r, (s.modRegion 0 0 fun r => { r with digests := [(64, s.boxDigest 0 0)] }).region? 0 0 = some r ∧
        r.digests.find? (64 + 0) = some ((s.modRegion 0 0 fun r => { r with digests := [(64, s.boxDigest 0 0)] }).boxDigest r.image 0) :=
  ⟨by decide, fun e h => by cases h; rfl, ⟨_, rfl, by decide⟩, ⟨_, rfl, rfl⟩⟩
theorem witness_ElementCommandsAndUnits_cached :
    ((fetching.modCluster 0 fun x => { x with cc := [⟨0, 0, 0, { words := [(0, 0x04000000)] }⟩] }).cluster 0).cached 0 0 0 = some { words := [(0, 0x04000000)] } := by decide
/-- EOS of colour 0 stands at port A of a sink. -/
def ended : State := (placeSlot State.reset 0 0x60000000).modElem 0 0 0 fun e =>
  { e with inA := [{ kind := kEos }], slots := [(0, { eos := [(0, 0)] })] }
theorem witness_PicotsAndEnds_eos :
    ∃ e info, ended.elem? 0 0 0 = some e ∧ e.slotInfo 0 0 = some info ∧ info.reads = [0] ∧ (e.slot 0).ended 0 = [0] ∧ (e.slot 0).entries = [] ∧ (e.slot 0).count = 0 ∧
      (e.slot 0).credNext info (ended.relTag 0 0) = none ∧
      ended.closeSlot { c := 0, k := 0, site := 0, slot := 0, info := info } (e.slot 0) { kind := kEos } (some 0) = some ([], 0, [], e.slot 0) ∧
      info.outs.all (e.room 0) = true ∧ ended.muRoom 1 [] false = true ∧
      ((headsOf (e.port 0) []).filter fun t => decide (t.kind = kEos) && decide (t.slot.toNat = 0) && decide (t.colour.toNat = 0)) = [{ kind := kEos }] :=
  ⟨_, _, rfl, rfl, by decide, by decide, by decide, by decide, by decide, by decide, by decide, by decide, by decide⟩
/-- EOS of colour 0 stands at both ports of an add whose entry of the colour lacks its B operand. -/
def endedPair : State := (placeSlot State.reset 0 0x04000000).modElem 0 0 0 fun e =>
  { e with inA := [{ kind := kEos }], inB := [{ kind := kEos }], slots := [(0, { eos := [(0, 0), (0, 1)], entries := [(0, { a := some (tok 1) })] })] }
theorem witness_PicotsAndEnds_unmatched :
    ∃ e info, endedPair.elem? 0 0 0 = some e ∧ e.slotInfo 0 0 = some info ∧ info.reads = [0, 1] ∧ info.reads.all (fun p => ((e.slot 0).ended 0).contains p) = true ∧
      (e.slot 0).entries.any (fun en => en.2.full info) = false ∧ (e.slot 0).count = 0 ∧ (e.slot 0).credNext info (endedPair.relTag 0 0) = none ∧ info.outs.all (e.room 0) = true ∧
      endedPair.closeSlot { c := 0, k := 0, site := 0, slot := 0, info := info } (e.slot 0) { kind := kEos } (some 0) = some ([], 0, [], e.slot 0) ∧
      ((headsOf (e.port 0) []).filter fun t => decide (t.kind = kEos) && decide (t.slot.toNat = 0) && decide (t.colour.toNat = 0)) = [{ kind := kEos }] :=
  ⟨_, _, rfl, rfl, by decide, by decide, by decide, by decide, by decide, by decide, by decide, by decide⟩
/-- A region switches to generation 5, and CE 0 holds its part of the new configuration. -/
def switching : State :=
  ((placeSlot State.reset 0 0x04000000).modRegion 0 0 fun r => { r with staged := some { image := 0x1000, gen := 5 }, switching := some 5 }).modElem 0 0 0 fun e =>
    { e with next := some { typ := 0, unit := { words := [(0, 0x08000000)] }, win := [], fixedA := [] }, holds := true }
theorem witness_PicotsAndEnds_switch :
    (∃ r e, switching.region? 0 0 = some r ∧ switching.elem? 0 0 0 = some e ∧ r.switching = some 5 ∧ e.switched = false ∧ e.next.isSome = true ∧ e.holds = true ∧
      (e.swIns.filter fun q => !(e.swBack.contains (q.1, q.2.toNat))).all (fun q => e.picotAt 2 q) = true ∧ (List.range 16).all (fun i => switching.canClose 0 0 0 i && !(switching.busySlot 0 0 0 i)) = true ∧ switching.ended 0 0 = false) ∧
      ∃ e, (switching.modElem 0 0 0 fun e => { e with switched := true }).elem? 0 0 0 = some e ∧ e.switched = true :=
  ⟨⟨_, _, rfl, rfl, by decide, by decide, by decide, by decide, by decide, by decide, by decide⟩, _, rfl, by decide⟩
theorem witness_PicotsAndEnds_snap :
    ∃ e, ((placeSlot State.reset 0 0x04000000).modElem 0 0 0 fun e => { e with inA := [{ kind := kMark, lanes := [0] }] }).elem? 0 0 0 = some e ∧ e.snapped = false ∧
      ([0, 1, 2, 3].flatMap fun p => ((e.port p).filter fun t => t.isPicot 0 && decide (t.aux = 0)).map fun t => 32 * p + t.chan.toNat) ≠ [] := ⟨_, rfl, by decide, by decide⟩
theorem witness_PicotsAndEnds_abort :
    let s := ctxOf (fun x => { x with colls := [conv1 true] }) (issued (cmd 7 []))
    ∃ x, s.ctxAt 0 0 = some x ∧ x.colls.find? (fun op => decide (op.id = 0)) = some (conv1 true) ∧ x.colls.find? (fun op => decide (op.id = 1)) = none := ⟨_, rfl, by decide, by decide⟩
theorem witness_PicotsAndEnds_abort_collective :
    let y := cmd 2 (clDesc 0)
    (issued y).me.issued = [] ++ y :: [] ∧ y.q = 2 ∧ y.done = false ∧ (decodeCl y.desc).bind clOf = some (0, clD) ∧ clD.id = 0 ∧ (issued (cmd 7 [])).me.issued.any (fun y => decide (y.q = 2)) = false ∧
      (conv1 true).away = false ∧ 0 ∉ (conv1 true).left ∧ 0 ∈ ({ conv1 true with left := [0] } : CollOp).left := by decide
/-- A stream that commits nothing has the command at the head of its queue. -/
def headOf (x : Cmd) : State := { (placeSeq State.reset 0xF0000040).modStream 0 0 fun st => { st with queues := [(x.q, [x])] } with cur := { sel := x.q } }
theorem witness_CommandAndWatchdogSteps_head :
    let s := headOf (cmd 2 [])
    s.queue 0 0 2 = cmd 2 [] :: [] ∧ s.mayIssue 0 0 = true ∧ (cmd 2 []).stalled = none ∧ ∃ s1 bs, s.engBytes 0 0 (engOwner (headSel 2)) 0x100 64 = (s1, .ok bs) :=
  ⟨by decide, by decide, by decide, _, _, rfl⟩
/-- An AG command, the ME beside CE 0, its descriptor of one level, and slot 0 that names it. -/
def agHead (g : Elem → Elem) : State :=
  let s := headOf { cmd 1 [] with a := 1 }
  s.modSite 0 (meSite 1) fun x => { x with elems := [(0, g { typ := typAg, unit := some { words := [(0, meWord (.agsRd ⟨3, 0, 0, 0, 0⟩))], descs := [(0, desc4)] } })] }
theorem witness_CommandAndWatchdogSteps_ag :
    (headOf { cmd 1 [] with a := 1 }).elem? 0 (meSite 1) 0 = none ∧ (agHead fun e => { e with unit := none }).elem? 0 (meSite 1) 0 = some { typ := typAg } ∧
      (∃ e, (agHead fun e => { e with unit := some {} }).elem? 0 (meSite 1) 0 = some e ∧ e.unit ≠ none ∧ ((List.range 16).all fun i => (e.slotInfo (meSite 1) i).isNone) = true) ∧
      ∃ e f, (agHead id).elem? 0 (meSite 1) 0 = some e ∧ e.typ = typAg ∧ e.slotInfo (meSite 1) 0 = some f ∧ descOf f.i = some 0 ∧
        (∀ j < dLevels (e.descAt 0), dCnt (e.descAt 0) j ≠ 0) ∧ ∃ r1, enqRun e (e.descAt 0) f.i { desc := 0, slot := 0, base := 0x100 } = some r1 :=
  ⟨by decide, rfl, ⟨_, rfl, by decide, by decide⟩, _, _, rfl, by decide, rfl, by decide, by decide, _, rfl⟩
/-- The member's range table is full. -/
def fullRanges (s : State) : State := ctxOf (fun x => { x with ranges := List.replicate 32 { owner := clOwner 0 0 9, lo := 0x10000, hi := 0x10008 } }) s
theorem witness_CommandAndWatchdogSteps_cl :
    let s := headOf (cmd 2 (clDesc 0))
    (decodeCl (List.replicate 8 0xFFFFFFFFFFFFFFFF)).bind clOf = none ∧ (decodeCl (clDesc 0)).bind clOf = some (0, clD) ∧ clOk 0 clD = true ∧ clOk 0 { clD with len := 0 } = false ∧
      (∃ s2, s.clTables 0 0 (engOwner (headSel 2)) clD = (s2, none) ∧ s2.clEntered 0 0 clD = false ∧ s2.rangeRoom 0 0 2 = true) ∧
      ∃ s2, (fullRanges s).clTables 0 0 (engOwner (headSel 2)) clD = (s2, none) ∧ s2.clEntered 0 0 clD = false ∧ s2.rangeRoom 0 0 2 = false :=
  ⟨by decide, rfl, by decide, by decide, ⟨_, rfl, by decide, by decide⟩, _, rfl, by decide, by decide⟩
theorem witness_CommandAndWatchdogSteps_lk :
    (∃ d, (decodeLk [0, 0x200, 0, 0, 0, 0, 0, 0]).bind lkOf = some (0, d) ∧ State.reset.enrolled d.node.toNat = false) ∧ (decodeLk (List.replicate 8 0xFFFFFFFFFFFFFFFF)).bind lkOf = none ∧
      (∃ d, (decodeLk [3 <<< 60, 0x200, 0, 0, 0, 0, 0, 0]).bind lkOf = some (3, d) ∧ d.nflit = 0 ∧ (headOf (cmd 3 [])).earlierLk 0 0 1 0 = false) ∧
      (issued (cmd 3 [0, 0x200, 0, 0, 0, 0, 0, 0])).earlierLk 0 0 2 0 = true :=
  ⟨⟨_, rfl, by decide⟩, by decide, ⟨_, rfl, by decide, by decide⟩, by decide⟩
theorem witness_CommandAndWatchdogSteps_sc :
    let ok (l : List DWord) : Prop := ∃ base nblk bitmap z, l = base :: nblk :: bitmap :: z ∧ z.length = 5 ∧ base.toNat % 64 = 0 ∧ 1 ≤ nblk.toNat ∧ bitmap.toNat % 8 = 0 ∧ ∀ w ∈ z, w = 0
    ok [0x1000, 0x1000, 0x200, 0, 0, 0, 0, 0] ∧ (0x1001 : DWord).toNat % 64 ≠ 0 :=
  ⟨⟨0x1000, 0x1000, 0x200, [0, 0, 0, 0, 0], rfl, rfl, by decide, by decide, by decide, by simp⟩, by decide⟩
/-- A TI command of a DENSE token for input 0; box 0 has a word that takes it, whose buffer holds n tokens. -/
def tiHead (n : Nat) : State :=
  (headOf { cmd 5 [] with a := 0, lanes := [1] }).modSite 0 0 fun x => { x with words := [{ net := 2, out := 4, inp := 0, ctx := 0, vc := 0, mc := false, buf := List.replicate n (tok 1) }] }
theorem witness_CommandAndWatchdogSteps_ti :
    let t : Token := { Token.ofHeader 0 [1] with ctx := 0 }
    (∃ r, (tiHead 0).region? 0 0 = some r ∧ r.frozen = false) ∧ t.kind ≠ kChg ∧ (tiHead 0).muRoom 1 [] false = true ∧ (∃ s1, (tiHead 0).enterEdge 0 (.ti 0) t = some s1) ∧
      (tiHead 64).enterEdge 0 (.ti 0) t = none := ⟨⟨_, rfl, by decide⟩, by decide, by decide, ⟨_, rfl⟩, by decide⟩
/-- A TO command at port 4, where a token waits. -/
def toHead : State := (headOf (cmd 6 [])).modCluster 0 fun y => { y with toBuf := [(0, [tok 1])] }
set_option maxRecDepth 200000 in
theorem witness_CommandAndWatchdogSteps_to :
    (toHead.cluster 0).toBuf.get [] 0 = tok 1 :: [] ∧ (∃ r, toHead.region? 0 0 = some r ∧ r.frozen = false) ∧ (toHead.cluster 0).snapped 0 = false ∧
      ∃ s1, toHead.engReady 0 0 (engOwner (headSel 6)) 0x100 (tok 1).bytes = (s1, none) := ⟨by decide, ⟨_, rfl, by decide⟩, by decide, _, rfl⟩
theorem witness_CommandAndWatchdogSteps_pl :
    (cmd 7 []).done = false ∧ (∃ s1, (headOf (cmd 7 [])).tablesFail 0 0 (engOwner (headSel 7)) ((0x100 : DWord).bits 9 0) = (s1, none) ∧
      (s1.dtdAt 0 0 ((0x100 : DWord).bits 9 0)).busy = false ∧ (s1.dtdAt 0 0 ((0x100 : DWord).bits 9 0)).st = (0 : DWord).bits 15 0) := ⟨rfl, _, rfl, by decide, by decide⟩
/-- A command of queue 8. -/
def cfgHead (flg : BitVec 4) (g : Region → Region) : State := (headOf { cmd 8 [] with flg := flg }).modRegion 0 0 g
set_option maxRecDepth 200000 in
theorem witness_CommandAndWatchdogSteps_cfg :
    (∃ r, (cfgHead 1 id).region? 0 0 = some r ∧ r.switching = none ∧ r.staged = none) ∧
      (∃ r, (cfgHead 1 fun r => { r with switching := some 5 }).region? 0 0 = some r ∧ r.switching.isSome = true) ∧
      (∃ r st s1, (cfgHead 1 fun r => { r with staged := some { image := 0x1000, gen := 0 } }).region? 0 0 = some r ∧ r.staged = some st ∧ st.gen = (0 : DWord).bits 23 0 ∧
        (cfgHead 1 fun r => { r with staged := some { image := 0x1000, gen := 0 } }).injectPicots 0 0 (fun _ => true) 2 st.gen 0 = some s1) ∧
      (∃ s1, (cfgHead 0 id).translate 0 true 0 0x100 .load = (s1, .ok (hbm 0x100)) ∧ keyAp (hbm 0x100) = 0 ∧ (cfgHead 0 id).ptabAt 0 0 = 0 ∧ ∃ y, s1.ctxAt 0 0 = some y) ∧
      ∃ s1, (cfgHead 0 id).translate 0 true 0 0x8000000000000000 .load = (s1, .error (3, 1)) :=
  ⟨⟨_, rfl, by decide, by decide⟩, ⟨_, rfl, by decide⟩, ⟨_, _, _, rfl, rfl, by decide, rfl⟩, ⟨_, rfl, by decide, by decide, _, rfl⟩, _, rfl⟩
/-- An image that is not signed by the partition's key is refused; whether one is, the configuration says (log 6). -/
theorem witness_CommandAndWatchdogSteps_load (s : State) (key im : Nat) (h : s.signed key im = false) :
    (s.loadCheck key im 0 (fun _ => 0) (fun _ _ => true)).isSome = true := by
  simp [State.loadCheck, h]
theorem witness_CommandAndWatchdogSteps_complete :
    (issued { cmd 7 [] with done := true }).issuedCmd? 0 0 1 = some { cmd 7 [] with done := true } ∧ ({ cmd 2 (clDesc 0) with done := true } : Cmd).q = 2 ∧
      (issued { cmd 8 [] with flg := 1 }).allSwitched 0 0 = true ∧ (issued { cmd 8 [] with flg := 2 }).elem? 0 0 0 = none := by decide
theorem witness_CommandAndWatchdogSteps_watchdogs :
    let y : Cluster := { muStall := [(1, 0), (1, 4)], muWait := 2 ^ 20 }
    let d : Machine.Die := { aggStall := [(1, 0)], aggWait := 2 ^ 20 }
    y.muStall ≠ [] ∧ 2 ^ 20 ≤ y.muWait ∧ y.muReported = false ∧ d.aggStall ≠ [] ∧ 2 ^ 20 ≤ d.aggWait ∧ d.aggReported = false ∧ (∃ x, sq.ctx? 1 = some x ∧ x.places = [(0, 0)]) ∧
      (sq.stream 0 0).phase ≠ .idle ∧ (sq.stream 0 0).phase ≠ .exited :=
  ⟨by decide, by decide, by decide, by decide, by decide, by decide, ⟨_, rfl, by decide⟩, by decide, by decide⟩
/-- A context RCB at 0x100 below a job, a partition and one region. -/
def treed : State :=
  ([(0x100, 0x8000000000000000), (0x108, 0x200), (0x110, 0x400), (0x200, 0x4000000000000000), (0x208, 0x300), (0x400, 0xC000000000000000), (0x440, 0x1000)] : List (Nat × DWord)).foldl
    (fun s q => s.wr64 (hbm q.1) q.2) (State.reset.modDie 0 fun d => { d with drdy := 0x7FFFFFFFFFFFF })
/-- Queue 0 holds the entry, at its head. -/
def queued : State := (treed.wr64 (hbm 0x800) 0x100).modDie 0 fun x => { x with lqbase := [(0, 0x801)], lqntf := [(0, 1)] }
theorem witness_LaunchAndAdmission_notify : (0 : BitVec 4) ≠ 15 ∧ (256 - (State.reset.die 0).lqhead.get 0 0 : BitVec 9).toNat ≤ 256 ∧ 256 < (257 - (State.reset.die 0).lqhead.get 0 0 : BitVec 9).toNat := by decide
theorem witness_LaunchAndAdmission_read :
    queued.schedReady 0 = true ∧ ((queued.die 0).lqbase.get (0 : DWord) 0).getLsbD 0 = true ∧ (0 : BitVec 9) ≠ (queued.die 0).lqntf.get 0 0 ∧ (queued.die 0).cands.find? 0 = none ∧
      queued.rd (hbm 0x800) 8 = 0x100 ∧ ∃ t, queued.checkEntry 0x100 = .ok t := ⟨by decide, by decide, by decide, by decide, by decide, _, rfl⟩
theorem witness_LaunchAndAdmission_reject :
    (∃ e, State.reset.checkEntry 0x101 = .error e) ∧ ∃ s1, (State.reset.modDie 0 fun x => { x with fqbase := 1 }).rejectEntry 0 0 0x101 1 0 = some s1 := ⟨⟨_, rfl⟩, _, rfl⟩
/-- The entry is the candidate of queue 0. -/
def candidate (again : Option Nat) : State := treed.modDie 0 fun x => { x with cands := [(0, { rcb := 0x100, readAt := 0, reentry := again })] }
theorem witness_LaunchAndAdmission_fault :
    ∃ x flt t, ((candidate none).die 0).cands.find? 0 = some x ∧ (candidate none).candBad 0 x = some flt ∧ (candidate none).treeOf x.rcb = .ok t :=
  ⟨_, _, _, rfl, rfl, rfl⟩
/-- R319: a candidate of level 0 rises once its die has counted 2^20 cycles; one of that level does not. The count is a free value (log 84). -/
theorem witness_LaunchAndAdmission_aging (h : 2 ^ 20 ≤ (candidate none).dieCycles 0) :
    ∃ x, ((candidate none).die 0).cands.find? 0 = some x ∧ x.level < ((candidate none).dieCycles 0 - x.readAt) / 2 ^ 20 :=
  ⟨_, rfl, Nat.div_pos h (by decide)⟩
theorem witness_LaunchAndAdmission_aged :
    let s := (candidate none).modDie 0 fun x => { x with cands := [(0, { rcb := 0x100, readAt := 0, level := (candidate none).dieCycles 0 })] }
    ∃ x, (s.die 0).cands.find? 0 = some x ∧ (s.dieCycles 0 - x.readAt) / 2 ^ 20 ≤ x.level := ⟨_, rfl, Nat.div_le_self _ _⟩
theorem witness_LaunchAndAdmission_none : (candidate none).schedReady 0 = true ∧ (candidate none).chosen 0 = none ∧ State.reset.chosen 0 = none := ⟨rfl, rfl, rfl⟩
/-- No cluster is ready to take the candidate. -/
def unplaced : State := ((candidate (some 1)).modDie 0 fun x => { x with drdy := 0x7000000000000 }).age 0
theorem witness_LaunchAndAdmission_held : ∃ x, unplaced.chosen 0 = some (0, x) ∧ unplaced.admitCand 0 0 x = none := ⟨_, rfl, rfl⟩
theorem witness_LaunchAndAdmission_admitted :
    ∃ x s2, ((candidate (some 1)).age 0).chosen 0 = some (0, x) ∧ ((candidate (some 1)).age 0).admitCand 0 0 x = some s2 := ⟨_, _, rfl, rfl⟩
/-- R319: the candidate, its partition with a budget of 4 clusters, 4 objects and 4 KiB. -/
def budgeted : State := (((candidate none).wr64 (hbm 0x320) 0x0004000400001000).age 0).askCands 0
set_option maxRecDepth 200000 in
theorem witness_LaunchAndAdmission_budget :
    ∃ x tr, budgeted.chosen 0 = some (0, x) ∧ x.reentry = none ∧ budgeted.treeOf x.rcb = .ok tr ∧ budgeted.budgetFits tr 1 (budgeted.effective tr.part [tr.job, x.rcb]) = true ∧
      budgeted.budgetFits tr 5 (budgeted.effective tr.part [tr.job, x.rcb]) = false ∧
      ∃ s1 ps, budgeted.place 0 1 (budgeted.toPlace (budgeted.candRegions x) [] (budgeted.effective tr.part [tr.job, x.rcb])) = some (s1, ps) :=
  ⟨_, _, rfl, rfl, rfl, by decide, by decide, _, _, rfl⟩
theorem witness_LaunchAndAdmission_waits :
    let s := (candidate none).modDie 0 fun d => { d with drdy := 0x1000000000000 }
    ∃ x, (s.die 0).cands.find? 0 = some x ∧ (s.treeReady 0 x).2 = false ∧ ((candidate none).treeReady 0 x).2 = true := ⟨_, rfl, by decide, by decide⟩
/-- R320: the candidate is ready and chosen; a held queue that has no ready candidate, and one that has. -/
theorem witness_LaunchAndAdmission_chosen :
    let s := candidate (some 1)
    let held (n : Nat) : State := s.modDie 0 fun x => { x with heldQ := some n }
    (s.die 0).heldQ = none ∧ (∃ x, s.chosen 0 = some (0, x) ∧ (0, x) ∈ s.depReady 0) ∧ ((held 5).depReady 0).find? (fun e => decide (e.1 = 5)) = none ∧ ((held 5).chosen 0).isSome = true ∧
      (∃ e, ((held 0).depReady 0).find? (fun e => decide (e.1 = 0)) = some e) ∧ ((held 0).chosen 0).isSome = true :=
  ⟨by decide, ⟨_, rfl, by decide⟩, by decide, by decide, ⟨_, rfl⟩, by decide⟩
/-- A region of no gang. -/
def region0 : ToPlace := { index := 0, rcb := 0x400, image := 0x1000, gang := 0, gpos := 0, locBase := 0, nloc := 0 }
theorem witness_LaunchAndAdmission_place :
    ∃ s1 p, treed.placeOn 1 0 region0 = some (s1, p) ∧ treed.freeSlot 0 (treed.prick 0x1000 0) [] none = some 0 ∧
      ((treed.modDie 0 fun d => { d with drdy := 0 }).placeOn 1 0 region0).isNone = true := ⟨_, _, rfl, by decide, by decide⟩
theorem witness_LaunchAndAdmission_admits :
    let t := (candidate (some 1)).age 0
    ∃ x tr, t.chosen 0 = some (0, x) ∧ t.treeOf x.rcb = .ok tr ∧ ∃ s1 ps, t.place 0 1 (t.toPlace (t.candRegions x) [] (t.effective tr.part [tr.job, x.rcb])) = some (s1, ps) :=
  ⟨_, _, rfl, rfl, _, _, rfl⟩
/-- A pricking that is not signed by its partition's key is rejected. -/
theorem witness_LaunchAndAdmission_rejected (s : State) (d cid part : Nat) (p : Placed) (h : ∀ key im, s.signed key im = false) : (s.rejected d cid part [p]).isSome = true := by
  simp [State.rejected, State.loadCheck, h]
theorem witness_LaunchAndAdmission_loaded :
    treed.rejected 0 1 0x300 [] = none ∧ treed.unbound 1 [] = none ∧ (placeSeq State.reset 0).unbound 1 [⟨0, 0, 0, 0⟩] = none ∧ (∃ x, (placeSeq State.reset 0).ctx? 1 = some x) ∧
      (((placeSeq State.reset 0).modSite 0 7 fun x => { x with words := [{ net := 2, out := 4, inp := 1, ctx := 0, vc := 0, mc := false }] }).unbound 1 [⟨0, 0, 0, 0⟩]).isSome = true :=
  ⟨rfl, rfl, by decide, ⟨_, rfl⟩, by decide⟩
/-- A context that has not begun; its region is set up, or has no entry block. -/
def unstarted (b : Bool) : State :=
  (ctxOf (fun x => { x with running := false }) (placeSeq State.reset 0xF0000040)).modRegion 0 0 fun r => { r with setUp := b }
theorem witness_ContextLife_start :
    ∃ x, (unstarted true).ctx? 1 = some x ∧ x.regions ≠ [] ∧ x.ending = none ∧ x.running = false ∧ x.saved = [] ∧
      (∃ r, (x.places.foldl (fun s q => s.setUpRegion 1 q) (unstarted true)).region? 0 0 = some r ∧ r.setUp = true) ∧
      ∃ y, (x.places.foldl (fun s q => s.setUpRegion 1 q) (unstarted true)).ctx? 1 = some y ∧ y.ending = none :=
  ⟨_, rfl, by decide, by decide, by decide, by decide, ⟨_, rfl, by decide⟩, _, rfl, by decide⟩
theorem witness_ContextLife_setup :
    let s := unstarted false
    (∃ r, s.region? 0 0 = some r ∧ r.setUp = false) ∧ s.muRoom 1 [] false = true ∧ (∃ s1, s.checkJump 0 0 0x4000 = (s1, none)) ∧
      (∃ s1 code d a, code ≠ 0 ∧ s.checkJump 0 0 0x4002 = (s1, some (code, d, a))) ∧ ∃ s1 d a, (s.modDie 0 fun d => { d with drdy := 0 }).checkJump 0 0 0x8000 = (s1, some (0, d, a)) :=
  ⟨⟨_, rfl, by decide⟩, by decide, ⟨_, rfl⟩, ⟨_, 0x0C, _, _, by decide, rfl⟩, _, _, _, rfl⟩
/-- A context that was evicted, with its one region's snapshot. -/
def evicted_ : State :=
  ctxOf (fun x => { x with running := false, saved := [{ at_ := (0, 0), region := { cid := 1, started := true }, stream := {} }] }) (placeSeq State.reset 0xF0000040)
theorem witness_ContextLife_restore :
    ∃ x, evicted_.ctx? 1 = some x ∧ x.regions ≠ [] ∧ x.ending = none ∧ x.running = false ∧ x.saved ≠ [] ∧ (evicted_.imagesReady x).2 = true ∧
      ((evicted_.modDie 0 fun d => { d with drdy := 0 }).imagesReady { x with dump := 0x100000 }).2 = false ∧ evicted_.sealOk 0 x 0 = false ∧ evicted_.muRoom 1 [] false = true ∧
      (∀ e ∈ x.saved.zip x.places, evicted_.restoreFits e.1 e.2 = true) :=
  ⟨_, rfl, by decide, by decide, by decide, by decide, by decide, by decide, by decide, by decide, by decide⟩
/-- A snapshot that holds an accumulator slot which another context of the cluster holds has no room; and one whose tag set is full. -/
theorem witness_ContextLife_cramped :
    let v : Saved := { at_ := (0, 0), region := { cid := 1 }, stream := {}, mx := { owner := [(0, 0)] } }
    (evicted_.modCluster 0 fun x => { x with mx := { x.mx with owner := [(0, 0)] } }).restoreFits v (0, 0) = false := by decide
theorem witness_ContextLife_images :
    let s := ctxOf (fun x => { x with ending := some (2, 1, 0, 0, 0, false) }) (placeSeq State.reset 0xF0000040)
    ∃ x, s.ctx? 1 = some x ∧ (s.imageReady 1 x).2 = true ∧ ((s.modDie 0 fun d => { d with drdy := 0 }).imageReady 1 { x with dump := 0x100000, dumplen := 1 }).2 = false := ⟨_, rfl, by decide, by decide⟩
theorem witness_ContextLife_stops :
    let s := ctxOf (fun x => { x with evicting := true }) (placeSeq State.reset 0xF0000040)
    ∃ x, s.ctx? 1 = some x ∧ x.colls = [] ∧ (∀ q ∈ x.places, s.canStop q.1 q.2 = true ∧ s.issuedDone q.1 q.2 = true) ∧ (∃ t, s.injectSnaps 1 x = some t) ∧
      (∃ r, s.region? 0 0 = some r ∧ r.snapSent = false) := ⟨_, rfl, by decide, by decide, ⟨_, rfl⟩, _, rfl, by decide⟩
/-- A SNAP is still on its way. -/
theorem witness_ContextLife_unrecorded :
    ((placeSlot State.reset 0 0x04000000).modSite 0 0 fun x => { x with words := [{ word1 with buf := [{ kind := kMark, lanes := [0] }] }] }).regionRecorded (0, 0) = false := by decide
theorem witness_ContextLife_waits :
    let s := (unstarted false).modDie 0 fun d => { d with drdy := 0 }
    ∃ x, s.ctx? 1 = some x ∧ x.running = false ∧ x.places = [(0, 0)] ∧ ((x.places.foldl (fun s q => s.setUpRegion 1 q) s).region? 0 0).map Region.setUp = some false :=
  ⟨_, rfl, by decide, by decide, by decide⟩
theorem witness_ContextLife_retire :
    let s := (placeSeq State.reset 0xF0000040).modStream 0 0 fun st => { st with phase := .exited }
    ∃ x, s.ctx? 1 = some x ∧ s.mayRetire 1 x = true := ⟨_, rfl, rfl⟩
theorem witness_ContextLife_end :
    let s := ctxOf (fun x => { x with ending := some (2, 1, 0, 0, 0, false) }) (placeSeq State.reset 0xF0000040)
    ∃ x, s.ctx? 1 = some x ∧ x.ending = some (2, 1, 0, 0, 0, false) := ⟨_, rfl, rfl⟩
theorem witness_ContextLife_evict :
    let s := (ctxOf (fun x => { x with evicting := true }) (placeSeq State.reset 0xF0000040)).modRegion 0 0 fun r => { r with snapSent := true }
    ∃ x, s.ctx? 1 = some x ∧ x.evicting = true ∧ x.regions ≠ [] ∧ x.ending = none ∧ x.saved = [] ∧
      (x.places.filterMap fun q => (s.region? q.1 q.2).map fun r => (q, r)).all (fun e => e.2.snapSent) = true ∧
      x.places.all s.regionRecorded = true := ⟨_, rfl, by decide, by decide, by decide, by decide, by decide, by decide⟩
theorem witness_StepRunsDecoded_mx :
    ∃ h i, (mxAt 0x04020000 1 id id).mxHead 0 = some h ∧ decodeMx h.w0 h.w1 = some i ∧ h.started = false := ⟨_, _, rfl, rfl, by decide⟩
theorem witness_StepRunsDecoded_engine : (issued (cmd 2 (clDesc 0))).issuedCmd? 0 0 1 = some (cmd 2 (clDesc 0)) ∧ decodeCl (clDesc 0) = some (.allreduce clD) := ⟨rfl, rfl⟩


/-! ### Decoding: one word for each row of spec/opcode_table.json that has one, put together from the row's match and its fields -/

theorem test_decode_seq1 :
    decodeSeq 0x04314900 = .ok (.add 3 5 9) ∧
    decodeSeq 0x04314901 = .ok (.sub 3 5 9) ∧
    decodeSeq 0x04314902 = .ok (.mul 3 5 9) ∧
    decodeSeq 0x04314903 = .ok (.mulh 3 5 9) ∧
    decodeSeq 0x04314904 = .ok (.mulhn 3 5 9) ∧
    decodeSeq 0x04314905 = .ok (.div 3 5 9) ∧
    decodeSeq 0x04314906 = .ok (.divn 3 5 9) ∧
    decodeSeq 0x04314907 = .ok (.rem 3 5 9) ∧
    decodeSeq 0x04314908 = .ok (.remn 3 5 9) ∧
    decodeSeq 0x04314909 = .ok (.adds 3 5 9) ∧
    decodeSeq 0x0431490A = .ok (.subs 3 5 9) ∧
    decodeSeq 0x04314910 = .ok (.and 3 5 9) ∧
    decodeSeq 0x04314911 = .ok (.or 3 5 9) ∧
    decodeSeq 0x04314912 = .ok (.xor 3 5 9) ∧
    decodeSeq 0x04314913 = .ok (.andn 3 5 9) ∧
    decodeSeq 0x04314914 = .ok (.orn 3 5 9) := by decide
theorem test_decode_seq2 :
    decodeSeq 0x04314918 = .ok (.shl 3 5 9) ∧
    decodeSeq 0x04314919 = .ok (.shr 3 5 9) ∧
    decodeSeq 0x0431491A = .ok (.sra 3 5 9) ∧
    decodeSeq 0x0431491B = .ok (.rol 3 5 9) ∧
    decodeSeq 0x04314920 = .ok (.min 3 5 9) ∧
    decodeSeq 0x04314921 = .ok (.max 3 5 9) ∧
    decodeSeq 0x04314922 = .ok (.minn 3 5 9) ∧
    decodeSeq 0x04314923 = .ok (.maxn 3 5 9) ∧
    decodeSeq 0x04314028 = .ok (.clz 3 5) ∧
    decodeSeq 0x04314029 = .ok (.ctz 3 5) ∧
    decodeSeq 0x0431402A = .ok (.popc 3 5) ∧
    decodeSeq 0x0431402B = .ok (.brev 3 5) ∧
    decodeSeq 0x08314009 = .ok (.addi 3 5 9) ∧
    decodeSeq 0x0C314009 = .ok (.andi 3 5 9) ∧
    decodeSeq 0x10314009 = .ok (.ori 3 5 9) ∧
    decodeSeq 0x14314009 = .ok (.xori 3 5 9) := by decide
theorem test_decode_seq3 :
    decodeSeq 0x18314009 = .ok (.shli 3 5 9) ∧
    decodeSeq 0x18315009 = .ok (.shri 3 5 9) ∧
    decodeSeq 0x18316009 = .ok (.srai 3 5 9) ∧
    decodeSeq 0x18317009 = .ok (.roli 3 5 9) ∧
    decodeSeq 0x1C300005 = .ok (.li 3 5) ∧
    decodeSeq 0x20300005 = .ok (.lui 3 5) ∧
    decodeSeq 0x24300005 = .ok (.luh 3 5) ∧
    decodeSeq 0x29C12100 = .ok (.cmp 3 8 9 2) ∧
    decodeSeq 0x2DC12002 = .ok (.cmpi 3 8 9 2) ∧
    decodeSeq 0x30314909 = .ok (.sel 3 5 9 1 1) ∧
    decodeSeq 0x34314100 = .ok (.pand 3 5 1) ∧
    decodeSeq 0x34314101 = .ok (.por 3 5 1) ∧
    decodeSeq 0x34314102 = .ok (.pxor 3 5 1) ∧
    decodeSeq 0x34314003 = .ok (.pnot 3 5) ∧
    decodeSeq 0x34314004 = .ok (.pmov 3 5) ∧
    decodeSeq 0x34300005 = .ok (.pset 3) := by decide
theorem test_decode_seq4 :
    decodeSeq 0x34300006 = .ok (.pclr 3) ∧
    decodeSeq 0x40315002 = .ok (.ld 3 5 1 2) ∧
    decodeSeq 0x44315002 = .ok (.ldn 3 5 1 2) ∧
    decodeSeq 0x48315002 = .ok (.st 3 5 1 2) ∧
    decodeSeq 0x4C317002 = .ok (.ldc 3 5 1 2) ∧
    decodeSeq 0x50315801 = .ok (.lda 3 5 1 2 1) ∧
    decodeSeq 0x54315801 = .ok (.stl 3 5 1 2 1) ∧
    decodeSeq 0x5831490B = .ok (.amoAdd 3 5 9 2 1 1) ∧
    decodeSeq 0x5831491B = .ok (.amoAnd 3 5 9 2 1 1) ∧
    decodeSeq 0x5831492B = .ok (.amoOr 3 5 9 2 1 1) ∧
    decodeSeq 0x5831493B = .ok (.amoXor 3 5 9 2 1 1) ∧
    decodeSeq 0x5831494B = .ok (.amoMin 3 5 9 2 1 1) ∧
    decodeSeq 0x5831495B = .ok (.amoMax 3 5 9 2 1 1) ∧
    decodeSeq 0x5831496B = .ok (.amoMinn 3 5 9 2 1 1) ∧
    decodeSeq 0x5831497B = .ok (.amoMaxn 3 5 9 2 1 1) ∧
    decodeSeq 0x5831498B = .ok (.amoSwap 3 5 9 2 1 1) := by decide
theorem test_decode_seq5 :
    decodeSeq 0x5831499B = .ok (.amoCas 3 5 9 2 1 1) ∧
    decodeSeq 0x583149A9 = .ok (.amoFadd 3 5 9 2 1) ∧
    decodeSeq 0x5FD00000 = .ok (.fence 1 1 1 1 1) ∧
    decodeSeq 0x60314980 = .ok (.fadd 3 5 9 1) ∧
    decodeSeq 0x60314981 = .ok (.fsub 3 5 9 1) ∧
    decodeSeq 0x60314982 = .ok (.fmul 3 5 9 1) ∧
    decodeSeq 0x60314983 = .ok (.fdiv 3 5 9 1) ∧
    decodeSeq 0x60314084 = .ok (.fsqrt 3 5 1) ∧
    decodeSeq 0x60314985 = .ok (.fmin 3 5 9 1) ∧
    decodeSeq 0x60314986 = .ok (.fmax 3 5 9 1) ∧
    decodeSeq 0x60314087 = .ok (.fabs 3 5 1) ∧
    decodeSeq 0x60314088 = .ok (.fneg 3 5 1) ∧
    decodeSeq 0x64314909 = .ok (.ffma 3 5 9 2 1) ∧
    decodeSeq 0x69B92140 = .ok (.fcmp 3 7 9 2 1) ∧
    decodeSeq 0x6C314063 = .ok (.fcvt 3 5 6 3) ∧
    decodeSeq 0x81C00009 = .ok (.br 3 1 9) := by decide
theorem test_decode_seq6 :
    decodeSeq 0x84000003 = .ok (.j 3) ∧
    decodeSeq 0x88000003 = .ok (.call 3) ∧
    decodeSeq 0x8C00C000 = .ok (.jr 3) ∧
    decodeSeq 0x8C00C001 = .ok (.callr 3) ∧
    decodeSeq 0x8C000002 = .ok .ret ∧
    decodeSeq 0xA1D00000 = .ok (.tmov 3 5) ∧
    decodeSeq 0xA1801049 = .ok (.tset 3 1 9) ∧
    decodeSeq 0xA0301089 = .ok (.tget 3 1 9) ∧
    decodeSeq 0xA1D010C2 = .ok (.tinc 3 5 1 2) ∧
    decodeSeq 0xA1D20100 = .ok (.tjoin 3 5 1) ∧
    decodeSeq 0xA1D20140 = .ok (.tmeet 3 5 1) ∧
    decodeSeq 0xA03A0181 = .ok (.tle 3 5 1) ∧
    decodeSeq 0xA03A01C1 = .ok (.tlt 3 5 1) ∧
    decodeSeq 0xA03A0201 = .ok (.teq 3 5 1) ∧
    decodeSeq 0xA1D01242 = .ok (.tadv 3 5 1 2) ∧
    decodeSeq 0xA1D01282 = .ok (.tinci 3 5 1 2) := by decide
theorem test_decode_seq7 :
    decodeSeq 0xA400C005 = .ok (.hzld 3 5) ∧
    decodeSeq 0xA4314040 = .ok (.hzwait 3 5) ∧
    decodeSeq 0xA400C085 = .ok (.hzpub 3 5) ∧
    decodeSeq 0xA43140C1 = .ok (.hzle 3 5 1) ∧
    decodeSeq 0xA400C105 = .ok (.hzget 3 5) ∧
    decodeSeq 0xA5814141 = .ok (.hztime 3 5 1) ∧
    decodeSeq 0xC0031490 = .ok (.enqMx 3 5 9) ∧
    decodeSeq 0xC0431491 = .ok (.enqAg 3 5 9 1) ∧
    decodeSeq 0xC0831400 = .ok (.enqCl 3 5) ∧
    decodeSeq 0xC0C31400 = .ok (.enqLk 3 5) ∧
    decodeSeq 0xC1031400 = .ok (.enqSc 3 5) ∧
    decodeSeq 0xC1431492 = .ok (.enqTi 3 5 9 2) ∧
    decodeSeq 0xC1831401 = .ok (.enqTo 3 5 1) ∧
    decodeSeq 0xC1C31490 = .ok (.enqPl 3 5 9) ∧
    decodeSeq 0xC400C500 = .ok (.waitc 3 5) ∧
    decodeSeq 0xC800C505 = .ok (.sigc 3 5 5) := by decide
theorem test_decode_seq8 :
    decodeSeq 0xCC314000 = .ok (.waitb 3 5) ∧
    decodeSeq 0xD000C501 = .ok (.bara 3 5 1) ∧
    decodeSeq 0xD4031490 = .ok (.cfgLoad 3 5 9) ∧
    decodeSeq 0xD4400C50 = .ok (.cfgSwitch 3 5) ∧
    decodeSeq 0xD4831400 = .ok (.cfgPage 3 5) ∧
    decodeSeq 0xD800C000 = .ok (.ctxLaunch 3) ∧
    decodeSeq 0xD800C015 = .ok (.ctxPrio 3 5) ∧
    decodeSeq 0xD800C020 = .ok (.ctxSusp 3) ∧
    decodeSeq 0xD800C030 = .ok (.ctxResume 3) ∧
    decodeSeq 0xD800C040 = .ok (.ctxEvict 3) ∧
    decodeSeq 0xF0314009 = .ok (.mfs 3 5 9) ∧
    decodeSeq 0xF0314019 = .ok (.mts 3 5 9) ∧
    decodeSeq 0xF000C020 = .ok (.trap 3) ∧
    decodeSeq 0xF0000030 = .ok .reti ∧
    decodeSeq 0xF0000040 = .ok .exit ∧
    decodeSeq 0xF000C050 = .ok (.trace 3) := by decide
theorem test_decode_seq9 :
    decodeSeq 0xF0000060 = .ok .nop ∧
    decodeSeq 0xF0000070 = .ok .yield := by decide
theorem test_decode_ce1 :
    decodeCe 0x04318836 = some (.ceAdd, { ty := 12, rnd := 1, dm := 2, dslot := 2, k := 1, fire := 2, sat := 1, pr := 1 }) ∧
    decodeCe 0x04718836 = some (.ceSub, { fn := 1, ty := 12, rnd := 1, dm := 2, dslot := 2, k := 1, fire := 2, sat := 1, pr := 1 }) ∧
    decodeCe 0x04B18836 = some (.ceMul, { fn := 2, ty := 12, rnd := 1, dm := 2, dslot := 2, k := 1, fire := 2, sat := 1, pr := 1 }) ∧
    decodeCe 0x04F18836 = some (.ceMulh, { fn := 3, ty := 12, rnd := 1, dm := 2, dslot := 2, k := 1, fire := 2, sat := 1, pr := 1 }) ∧
    decodeCe 0x05318836 = some (.ceMin, { fn := 4, ty := 12, rnd := 1, dm := 2, dslot := 2, k := 1, fire := 2, sat := 1, pr := 1 }) ∧
    decodeCe 0x05718836 = some (.ceMax, { fn := 5, ty := 12, rnd := 1, dm := 2, dslot := 2, k := 1, fire := 2, sat := 1, pr := 1 }) ∧
    decodeCe 0x05B18836 = some (.ceAbs, { fn := 6, ty := 12, rnd := 1, dm := 2, dslot := 2, k := 1, fire := 2, sat := 1, pr := 1 }) ∧
    decodeCe 0x05F18836 = some (.ceNeg, { fn := 7, ty := 12, rnd := 1, dm := 2, dslot := 2, k := 1, fire := 2, sat := 1, pr := 1 }) ∧
    decodeCe 0x06318836 = some (.ceMad, { fn := 8, ty := 12, rnd := 1, dm := 2, dslot := 2, k := 1, fire := 2, sat := 1, pr := 1 }) ∧
    decodeCe 0x06718836 = some (.ceAvg, { fn := 9, ty := 12, rnd := 1, dm := 2, dslot := 2, k := 1, fire := 2, sat := 1, pr := 1 }) ∧
    decodeCe 0x08318832 = some (.ceAnd, { ty := 12, rnd := 1, dm := 2, dslot := 2, k := 1, fire := 2, pr := 1 }) ∧
    decodeCe 0x08718832 = some (.ceOr, { fn := 1, ty := 12, rnd := 1, dm := 2, dslot := 2, k := 1, fire := 2, pr := 1 }) ∧
    decodeCe 0x08B18832 = some (.ceXor, { fn := 2, ty := 12, rnd := 1, dm := 2, dslot := 2, k := 1, fire := 2, pr := 1 }) ∧
    decodeCe 0x08F18832 = some (.ceAndn, { fn := 3, ty := 12, rnd := 1, dm := 2, dslot := 2, k := 1, fire := 2, pr := 1 }) ∧
    decodeCe 0x09318832 = some (.ceNot, { fn := 4, ty := 12, rnd := 1, dm := 2, dslot := 2, k := 1, fire := 2, pr := 1 }) ∧
    decodeCe 0x09718832 = some (.ceShl, { fn := 5, ty := 12, rnd := 1, dm := 2, dslot := 2, k := 1, fire := 2, pr := 1 }) := by decide
theorem test_decode_ce2 :
    decodeCe 0x09B18832 = some (.ceShr, { fn := 6, ty := 12, rnd := 1, dm := 2, dslot := 2, k := 1, fire := 2, pr := 1 }) ∧
    decodeCe 0x09F18832 = some (.ceSra, { fn := 7, ty := 12, rnd := 1, dm := 2, dslot := 2, k := 1, fire := 2, pr := 1 }) ∧
    decodeCe 0x0A318832 = some (.ceRol, { fn := 8, ty := 12, rnd := 1, dm := 2, dslot := 2, k := 1, fire := 2, pr := 1 }) ∧
    decodeCe 0x0A718832 = some (.cePopc, { fn := 9, ty := 12, rnd := 1, dm := 2, dslot := 2, k := 1, fire := 2, pr := 1 }) ∧
    decodeCe 0x0AB18832 = some (.ceClz, { fn := 10, ty := 12, rnd := 1, dm := 2, dslot := 2, k := 1, fire := 2, pr := 1 }) ∧
    decodeCe 0x0C3D8832 = some (.ceFloatAdd, { ty := 15, rnd := 1, dm := 2, dslot := 2, k := 1, fire := 2, pr := 1 }) ∧
    decodeCe 0x0C7D8832 = some (.ceFloatSub, { fn := 1, ty := 15, rnd := 1, dm := 2, dslot := 2, k := 1, fire := 2, pr := 1 }) ∧
    decodeCe 0x0CBD8832 = some (.ceFloatMul, { fn := 2, ty := 15, rnd := 1, dm := 2, dslot := 2, k := 1, fire := 2, pr := 1 }) ∧
    decodeCe 0x0CFD8832 = some (.ceFma, { fn := 3, ty := 15, rnd := 1, dm := 2, dslot := 2, k := 1, fire := 2, pr := 1 }) ∧
    decodeCe 0x0D3D8832 = some (.ceFloatMin, { fn := 4, ty := 15, rnd := 1, dm := 2, dslot := 2, k := 1, fire := 2, pr := 1 }) ∧
    decodeCe 0x0D7D8832 = some (.ceFloatMax, { fn := 5, ty := 15, rnd := 1, dm := 2, dslot := 2, k := 1, fire := 2, pr := 1 }) ∧
    decodeCe 0x0DBD8832 = some (.ceFloatAbs, { fn := 6, ty := 15, rnd := 1, dm := 2, dslot := 2, k := 1, fire := 2, pr := 1 }) ∧
    decodeCe 0x0DFD8832 = some (.ceFloatNeg, { fn := 7, ty := 15, rnd := 1, dm := 2, dslot := 2, k := 1, fire := 2, pr := 1 }) ∧
    decodeCe 0x0E3D8832 = some (.ceFms, { fn := 8, ty := 15, rnd := 1, dm := 2, dslot := 2, k := 1, fire := 2, pr := 1 }) ∧
    decodeCe 0x103D8832 = some (.ceRcp, { ty := 15, rnd := 1, dm := 2, dslot := 2, k := 1, fire := 2, pr := 1 }) ∧
    decodeCe 0x107D8832 = some (.ceRsq, { fn := 1, ty := 15, rnd := 1, dm := 2, dslot := 2, k := 1, fire := 2, pr := 1 }) := by decide
theorem test_decode_ce3 :
    decodeCe 0x10BD8832 = some (.ceSqrt, { fn := 2, ty := 15, rnd := 1, dm := 2, dslot := 2, k := 1, fire := 2, pr := 1 }) ∧
    decodeCe 0x10FD8832 = some (.ceExp2, { fn := 3, ty := 15, rnd := 1, dm := 2, dslot := 2, k := 1, fire := 2, pr := 1 }) ∧
    decodeCe 0x113D8832 = some (.ceLog2, { fn := 4, ty := 15, rnd := 1, dm := 2, dslot := 2, k := 1, fire := 2, pr := 1 }) ∧
    decodeCe 0x117D8832 = some (.ceTanh, { fn := 5, ty := 15, rnd := 1, dm := 2, dslot := 2, k := 1, fire := 2, pr := 1 }) ∧
    decodeCe 0x11BD8832 = some (.ceSigm, { fn := 6, ty := 15, rnd := 1, dm := 2, dslot := 2, k := 1, fire := 2, pr := 1 }) ∧
    decodeCe 0x11FD8832 = some (.ceSin, { fn := 7, ty := 15, rnd := 1, dm := 2, dslot := 2, k := 1, fire := 2, pr := 1 }) ∧
    decodeCe 0x123D8832 = some (.ceCos, { fn := 8, ty := 15, rnd := 1, dm := 2, dslot := 2, k := 1, fire := 2, pr := 1 }) ∧
    decodeCe 0x127D8832 = some (.ceErf, { fn := 9, ty := 15, rnd := 1, dm := 2, dslot := 2, k := 1, fire := 2, pr := 1 }) ∧
    decodeCe 0x15BD84CA = some (.ceCmp, { fn := 6, ty := 15, rnd := 1, dm := 2, dslot := 1, k := 6, fire := 1, pr := 1 }) ∧
    decodeCe 0x183D8830 = some (.ceSel, { ty := 15, rnd := 1, dm := 2, dslot := 2, k := 1, fire := 2 }) ∧
    decodeCe 0x1F0D84CA = some (.cvt, { fn := 12, ty := 3, rnd := 1, dm := 2, dslot := 1, k := 6, fire := 1, pr := 1 }) ∧
    decodeCe 0x20318832 = some (.qntb, { ty := 12, rnd := 1, dm := 2, dslot := 2, k := 1, fire := 2, pr := 1 }) ∧
    decodeCe 0x20718832 = some (.qnt, { fn := 1, ty := 12, rnd := 1, dm := 2, dslot := 2, k := 1, fire := 2, pr := 1 }) ∧
    decodeCe 0x25D584CA = some (.deq, { fn := 7, ty := 5, rnd := 1, dm := 2, dslot := 1, k := 6, fire := 1, pr := 1 }) ∧
    decodeCe 0x28318832 = some (.mov, { ty := 12, rnd := 1, dm := 2, dslot := 2, k := 1, fire := 2, pr := 1 }) ∧
    decodeCe 0x28718832 = some (.movk, { fn := 1, ty := 12, rnd := 1, dm := 2, dslot := 2, k := 1, fire := 2, pr := 1 }) := by decide
theorem test_decode_ce4 :
    decodeCe 0x28B18832 = some (.bcast, { fn := 2, ty := 12, rnd := 1, dm := 2, dslot := 2, k := 1, fire := 2, pr := 1 }) ∧
    decodeCe 0x28F18832 = some (.lshift, { fn := 3, ty := 12, rnd := 1, dm := 2, dslot := 2, k := 1, fire := 2, pr := 1 }) ∧
    decodeCe 0x29318832 = some (.lrev, { fn := 4, ty := 12, rnd := 1, dm := 2, dslot := 2, k := 1, fire := 2, pr := 1 }) ∧
    decodeCe 0x29718832 = some (.lsel, { fn := 5, ty := 12, rnd := 1, dm := 2, dslot := 2, k := 1, fire := 2, pr := 1 }) ∧
    decodeCe 0x40030000 = some (.steerBit, { rnd := 3 }) ∧
    decodeCe 0x40430000 = some (.steerPar, { fn := 1, rnd := 3 }) ∧
    decodeCe 0x4403A408 = some (.mergeAny, { rnd := 3, dm := 2, dslot := 9, fire := 1 }) ∧
    decodeCe 0x4443A408 = some (.mergeTag, { fn := 1, rnd := 3, dm := 2, dslot := 9, fire := 1 }) ∧
    decodeCe 0x48030000 = some (.copy, { rnd := 3 }) ∧
    decodeCe 0x4C03A400 = some (.gate, { rnd := 3, dm := 2, dslot := 9 }) ∧
    decodeCe 0x50030000 = some (.drop, { rnd := 3 }) ∧
    decodeCe 0x504300A0 = some (.sink, { fn := 1, rnd := 3, k := 5 }) ∧
    decodeCe 0x5403A448 = some (.tagInc, { rnd := 3, dm := 2, dslot := 9, k := 2, fire := 1 }) ∧
    decodeCe 0x5443A448 = some (.tagSet, { fn := 1, rnd := 3, dm := 2, dslot := 9, k := 2, fire := 1 }) ∧
    decodeCe 0x5483A448 = some (.tagGet, { fn := 2, rnd := 3, dm := 2, dslot := 9, k := 2, fire := 1 }) ∧
    decodeCe 0x54C3A448 = some (.tagBase, { fn := 3, rnd := 3, dm := 2, dslot := 9, k := 2, fire := 1 }) := by decide
theorem test_decode_ce5 :
    decodeCe 0x5803A448 = some (.alcAlloc, { rnd := 3, dm := 2, dslot := 9, k := 2, fire := 1 }) ∧
    decodeCe 0x58430008 = some (.alcFree, { fn := 1, rnd := 3, fire := 1 }) ∧
    decodeCe 0x5C03A458 = some (.pack, { rnd := 3, dm := 2, dslot := 9, k := 2, fire := 3 }) ∧
    decodeCe 0x5C43A448 = some (.unpack, { fn := 1, rnd := 3, dm := 2, dslot := 9, k := 2, fire := 1 }) ∧
    decodeCe 0x60158808 = some (.redSum, { ty := 5, rnd := 1, dm := 2, dslot := 2, fire := 1 }) ∧
    decodeCe 0x60558808 = some (.redMin, { fn := 1, ty := 5, rnd := 1, dm := 2, dslot := 2, fire := 1 }) ∧
    decodeCe 0x60958808 = some (.redMax, { fn := 2, ty := 5, rnd := 1, dm := 2, dslot := 2, fire := 1 }) ∧
    decodeCe 0x60C9880C = some (.redAnd, { fn := 3, ty := 2, rnd := 1, dm := 2, dslot := 2, fire := 1, sat := 1 }) ∧
    decodeCe 0x6109880C = some (.redOr, { fn := 4, ty := 2, rnd := 1, dm := 2, dslot := 2, fire := 1, sat := 1 }) ∧
    decodeCe 0x6143A414 = some (.redCnt, { fn := 5, rnd := 3, dm := 2, dslot := 9, fire := 2, sat := 1 }) ∧
    decodeCe 0x64158808 = some (.scanSum, { ty := 5, rnd := 1, dm := 2, dslot := 2, fire := 1 }) ∧
    decodeCe 0x64558808 = some (.scanMax, { fn := 1, ty := 5, rnd := 1, dm := 2, dslot := 2, fire := 1 }) ∧
    decodeCe 0x68158818 = some (.lrs, { ty := 5, rnd := 1, dm := 2, dslot := 2, fire := 3 }) ∧
    decodeCe 0x6C0D0130 = some (.accAdd, { ty := 3, rnd := 1, k := 9, fire := 2 }) ∧
    decodeCe 0x6C4D0130 = some (.accMax, { fn := 1, ty := 3, rnd := 1, k := 9, fire := 2 }) ∧
    decodeCe 0x6C8D8830 = some (.accReset, { fn := 2, ty := 3, rnd := 1, dm := 2, dslot := 2, k := 1, fire := 2 }) := by decide
theorem test_decode_ce6 :
    decodeCe 0x8003A448 = some (.cneg, { rnd := 3, dm := 2, dslot := 9, k := 2, fire := 1 }) ∧
    decodeCe 0x804D8830 = some (.cscale, { fn := 1, ty := 3, rnd := 1, dm := 2, dslot := 2, k := 1, fire := 2 }) ∧
    decodeCe 0x8083A448 = some (.mkchg, { fn := 2, rnd := 3, dm := 2, dslot := 9, k := 2, fire := 1 }) ∧
    decodeCe 0x80CD8830 = some (.dense, { fn := 3, ty := 3, rnd := 1, dm := 2, dslot := 2, k := 1, fire := 2 }) ∧
    decodeCe 0x810D8830 = some (.dadd, { fn := 4, ty := 3, rnd := 1, dm := 2, dslot := 2, k := 1, fire := 2 }) ∧
    decodeCe 0x843BA448 = some (.ctEnter, { rnd := 3, dm := 2, dslot := 9, k := 2, fire := 1, ty := 14 }) ∧
    decodeCe 0x847BA448 = some (.ctLeave, { fn := 1, rnd := 3, dm := 2, dslot := 9, k := 2, fire := 1, ty := 14 }) ∧
    decodeCe 0x84BBA410 = some (.ctStep, { fn := 2, rnd := 3, dm := 2, dslot := 9, fire := 2, ty := 14 }) ∧
    decodeCe 0x84FBA448 = some (.ctSet, { fn := 3, rnd := 3, dm := 2, dslot := 9, k := 2, fire := 1, ty := 14 }) ∧
    decodeCe 0x853BA448 = some (.ctAdv, { fn := 4, rnd := 3, dm := 2, dslot := 9, k := 2, fire := 1, ty := 14 }) ∧
    decodeCe 0x883B0008 = some (.ctLe, { rnd := 3, fire := 1, ty := 14 }) ∧
    decodeCe 0x887B0008 = some (.ctLt, { fn := 1, rnd := 3, fire := 1, ty := 14 }) ∧
    decodeCe 0x88BB0008 = some (.ctEq, { fn := 2, rnd := 3, fire := 1, ty := 14 }) ∧
    decodeCe 0x88FB0008 = some (.ctPar, { fn := 3, rnd := 3, fire := 1, ty := 14 }) ∧
    decodeCe 0x8C03A448 = some (.khash, { rnd := 3, dm := 2, dslot := 9, k := 2, fire := 1 }) ∧
    decodeCe 0x8C4300A8 = some (.kexch, { fn := 1, rnd := 3, k := 5, fire := 1 }) := by decide
theorem test_decode_ce7 :
    decodeCe 0x9003A440 = some (.cjoin, { rnd := 3, dm := 2, dslot := 9, k := 2 }) ∧
    decodeCe 0x9403A448 = some (.credCount, { rnd := 3, dm := 2, dslot := 9, k := 2, fire := 1 }) ∧
    decodeCe 0x944D8830 = some (.credSum, { fn := 1, ty := 3, rnd := 1, dm := 2, dslot := 2, k := 1, fire := 2 }) ∧
    decodeCe 0x948D8830 = some (.credMin, { fn := 2, ty := 3, rnd := 1, dm := 2, dslot := 2, k := 1, fire := 2 }) ∧
    decodeCe 0x94CD8830 = some (.credMax, { fn := 3, ty := 3, rnd := 1, dm := 2, dslot := 2, k := 1, fire := 2 }) ∧
    decodeCe 0x9803A400 = some (.cdist, { rnd := 3, dm := 2, dslot := 9 }) ∧
    decodeCe 0x9C03A410 = some (.ccons, { rnd := 3, dm := 2, dslot := 9, fire := 2 }) ∧
    decodeCe 0xA003A448 = some (.cnote, { rnd := 3, dm := 2, dslot := 9, k := 2, fire := 1 }) ∧
    decodeCe 0xA043A448 = some (.crel, { fn := 1, rnd := 3, dm := 2, dslot := 9, k := 2, fire := 1 }) ∧
    decodeCe 0xC003A448 = some (.mxc, { rnd := 3, dm := 2, dslot := 9, k := 2, fire := 1 }) ∧
    decodeCe 0xC403A448 = some (.cntr, { rnd := 3, dm := 2, dslot := 9, k := 2, fire := 1 }) ∧
    decodeCe 0xC803A400 = some (.ctlSig, { rnd := 3, dm := 2, dslot := 9 }) ∧
    decodeCe 0xC8430000 = some (.ctlWait, { fn := 1, rnd := 3 }) ∧
    decodeCe 0xC883A400 = some (.ctlAnd2, { fn := 2, rnd := 3, dm := 2, dslot := 9 }) ∧
    decodeCe 0xF8030000 = some (.ceNop, { rnd := 3 }) := by decide
theorem test_decode_me1 :
    decodeMe 0x04314001 = some (.agsRd ⟨12, 5, 0, 0, 1⟩) ∧
    decodeMe 0x04714001 = some (.agsWr ⟨12, 5, 0, 0, 1⟩) ∧
    decodeMe 0x0498C001 = some (.agsRdcf ⟨6, 3, 0, 0, 1⟩) ∧
    decodeMe 0x04D8C001 = some (.agsWrcf ⟨6, 3, 0, 0, 1⟩) ∧
    decodeMe 0x0500C000 = some (.agsFill ⟨0, 3, 0, 0, 0⟩) ∧
    decodeMe 0x0540C000 = some (.agsScrub ⟨0, 3, 0, 0, 0⟩) ∧
    decodeMe 0x08314001 = some (.agxGath ⟨12, 5, 0, 0, 1⟩) ∧
    decodeMe 0x08714001 = some (.agxScat ⟨12, 5, 0, 0, 1⟩) ∧
    decodeMe 0x08814000 = some (.agxChase ⟨0, 5, 0, 0, 0⟩) ∧
    decodeMe 0x08CD4001 = some (.agxAtomAdd ⟨3, 5, 0, 0, 1⟩) ∧
    decodeMe 0x090D4001 = some (.agxAtomMin ⟨3, 5, 0, 0, 1⟩) ∧
    decodeMe 0x094D4001 = some (.agxAtomMax ⟨3, 5, 0, 0, 1⟩) ∧
    decodeMe 0x09894001 = some (.agxAtomCas ⟨2, 5, 0, 0, 1⟩) ∧
    decodeMe 0x09C94001 = some (.agxAtomSwp ⟨2, 5, 0, 0, 1⟩) ∧
    decodeMe 0x0C314911 = some (.wavLd 3 5 9 2 1) ∧
    decodeMe 0x0C314931 = some (.wavSt 3 5 9 2 1) := by decide
theorem test_decode_me2 :
    decodeMe 0x0C314951 = some (.wavMnop 3 5 9 2 1) ∧
    decodeMe 0x10000060 = some (.ttbLook ⟨0, 0, 0, 3, 0⟩) ∧
    decodeMe 0x10400060 = some (.ttbIns ⟨0, 0, 0, 3, 0⟩) ∧
    decodeMe 0x10800060 = some (.ttbEvict ⟨0, 0, 0, 3, 0⟩) ∧
    decodeMe 0x10C0C0A0 = some (.ttbFill ⟨0, 3, 0, 5, 0⟩) ∧
    decodeMe 0x14000060 = some (.tilSetf ⟨0, 0, 0, 3, 0⟩) ∧
    decodeMe 0x14400060 = some (.tilReady ⟨0, 0, 0, 3, 0⟩) ∧
    decodeMe 0x14800060 = some (.tilDrain ⟨0, 0, 0, 3, 0⟩) ∧
    decodeMe 0x14C00060 = some (.tilEmpty ⟨0, 0, 0, 3, 0⟩) ∧
    decodeMe 0x15000060 = some (.tilPush ⟨0, 0, 0, 3, 0⟩) ∧
    decodeMe 0x15400060 = some (.tilPop ⟨0, 0, 0, 3, 0⟩) ∧
    decodeMe 0x15800060 = some (.tilQuery ⟨0, 0, 0, 3, 0⟩) ∧
    decodeMe 0x18000CA0 = some (.arrIns ⟨0, 0, 3, 5, 0⟩) ∧
    decodeMe 0x18400CA1 = some (.arrSeek ⟨0, 0, 3, 5, 1⟩) ∧
    decodeMe 0x18800CA0 = some (.arrCmpt ⟨0, 0, 3, 5, 0⟩) ∧
    decodeMe 0x18C00CA0 = some (.arrMrg ⟨0, 0, 3, 5, 0⟩) := by decide
theorem test_decode_me3 :
    decodeMe 0x1C000060 = some (.bar ⟨0, 0, 0, 3, 0⟩) ∧
    decodeMe 0x2000C0A0 = some (.pld ⟨0, 3, 0, 5, 0⟩) ∧
    decodeMe 0x2400C0A0 = some (.pst ⟨0, 3, 0, 5, 0⟩) ∧
    decodeMe 0x28000060 = some (.sbr ⟨0, 0, 0, 3, 0⟩) := by decide

theorem test_decode_mx :
    decodeMx 0x05620100 0x00100001 ≠ none ∧ decodeMx 0x08000000 0 = some (.mmz ⟨0, 0, 0, 0, 0, 0, 0, 0, 0⟩) ∧ decodeMx 0x0D420500 0x01000000 ≠ none := by decide

/-! ### Ill-formed terms -/

/-- R202, R212, R213, R219, R225: codes left unassigned. -/
theorem test_wf_sequencer :
    [Instr.cmp 0 10 0 0, .cmpi 0 10 0 0, .fcmp 0 8 0 0 0, .fcvt 0 0 8 0, .fcvt 0 0 0 8, .fcvt 0 0 4 4, .sigc 0 0 6, .enqAg 0 0 1 0].all (fun i => !i.wf) = true := by decide
/-- R169, R178, R179 and Table 9.7: type, function code, slot without o1, slot without destination, constant, fire, saturation, predication. -/
theorem test_wf_ce :
    Instr.ceAdd.ceOk { ty := 3 } = false ∧ Instr.ceAdd.ceOk { fn := 1 } = false ∧ Instr.ceAdd.ceOk { dslot := 1 } = false ∧ Instr.drop.ceOk { dm := 1 } = false ∧
      Instr.redSum.ceOk { k := 1 } = false ∧ Instr.copy.ceOk { fire := 1 } = false ∧ Instr.ceFloatAdd.ceOk { fn := 0, ty := 3, sat := 1 } = false ∧ Instr.gate.ceOk { pr := 1 } = false ∧
      (Instr.bar ⟨0, 0, 0, 0, 0⟩).ceOk {} = false := by decide
/-- R252, R254, R255: conditions and source types. -/
theorem test_wf_ce_operand_codes :
    Instr.ceCmp.ceOk { fn := 8, ty := 3 } = false ∧ Instr.ceCmp.ceOk { fn := 8, ty := 1 } = true ∧ Instr.ceCmp.ceOk { fn := 10, ty := 1 } = false ∧ Instr.cvt.ceOk { fn := 13, ty := 3 } = false ∧
      Instr.cvt.ceOk { fn := 3, ty := 3 } = false ∧ Instr.cvt.ceOk { fn := 15, ty := 3 } = true ∧ Instr.deq.ceOk { fn := 5, ty := 3 } = false := by decide
/-- R182: type, descriptor, slot, constant and flags. -/
theorem test_wf_me :
    [Instr.agsRd ⟨13, 0, 0, 0, 0⟩, .bar ⟨0, 1, 0, 0, 0⟩, .agsRd ⟨0, 0, 1, 0, 0⟩, .agsRd ⟨0, 0, 0, 1, 0⟩, .agsRd ⟨0, 0, 0, 0, 4⟩].all (fun i => !i.wf) = true := by decide
/-- R97, R186, R303: empty row masks, a gang code, a position outside the gang, an anchor out of range, a type; R304: word 1 of mmz. -/
theorem test_wf_mx :
    [Instr.mma ⟨0x0B, 1, 0, 0, 1, 0, 0, 0, 0x00100000⟩, .mma ⟨0x0B, 1, 0, 0, 1, 0, 0, 0, 0xC0100001⟩, .mma ⟨0x0B, 1, 0, 0, 1, 0, 0, 0, 0x04100001⟩,
      .mma ⟨0x0B, 1, 0, 0, 1, 0, 0, 0, 0x01920001⟩, .mma ⟨0x0B, 10, 0, 0, 1, 0, 0, 0, 0x00100001⟩, .mmz ⟨0, 0, 0, 0, 0, 0, 0, 0, 1⟩, .mmz ⟨0, 0, 1, 0, 0, 0, 0, 0, 0⟩,
      .cvreset ⟨1, 0, 0, 0, 0, 0, 0, 0, 0⟩, .cvcommit ⟨0, 0, 0, 0, 0, 0, 0, 0, 16⟩].all (fun i => !i.wf) = true := by decide
/-- R169, Table 18.1: unassigned opcode, unassigned code, a field that must be zero. -/
theorem test_decode_refuses :
    decodeSeq 0xFC000000 = .bad 1 ∧ decodeSeq 0x040000FF = .bad 2 ∧ decodeSeq 0x04000128 = .bad 3 ∧ decodeCe 0x04000001 = none ∧ decodeCe 0xFC000000 = none ∧
      decodeMe 0xFC000000 = none ∧ decodeMe 0x0C0000E0 = none ∧ decodeMx 0x04000001 1 = none ∧ decodeMx 0xFC000000 0 = none := by decide
/-- Reserved fields of the descriptors (Tables 12.10, 12.11, R312). -/
theorem test_decode_descriptor_refuses :
    decodeCl [0x0C00000000000000, 0, 0, 0, 0, 0, 0, 0] = none ∧ decodeCl [0x0380000000000000, 0, 0, 0, 0, 0, 0, 0] = none ∧ decodeCl [0x0000000001000000, 0, 0, 0, 0, 0, 0, 0] ≠ none ∧ decodeCl [0x5000000000000000, 0, 0, 0, 0, 0, 0, 0] = none ∧ decodeLk [0x4000000000000000, 0, 0, 0, 0, 0, 0, 0] = none ∧
      decodeLk [48 <<< 54, 0, 0, 0, 0, 0, 0, 0] = none ∧ decodeSc [0x20, 1, 0, 0, 0, 0, 0, 0] = none ∧ decodeSc [0x40, 0, 0, 0, 0, 0, 0, 0] = none ∧ decodeSc [0x40, 1, 8, 0, 0, 0, 0, 0] ≠ none := by decide

/-! ### The manual's worked words -/

/-- Table 9.5, and the examples of chapters 6, 9 and 10. -/
theorem test_worked_sequencer_words :
    decodeSeq 0x4030A004 = .ok (.ld 3 2 2 4) ∧ decodeSeq 0x58108306 = .ok (.amoAdd 1 2 3 1 1 0) ∧ decodeSeq 0x813FFFFB = .ok (.br 2 0 0x3FFFFB) ∧
      decodeSeq 0xC00A2CC0 = .ok (.enqMx 10 11 12) ∧ decodeSeq 0xC400C400 = .ok (.waitc 3 4) ∧ decodeSeq 0xA09010C5 = .ok (.tinc 1 1 1 5) ∧
      decodeSeq 0xA4200040 = .ok (.hzwait 2 0) ∧ decodeSeq 0x5D600000 = .ok (.fence 0 1 0 1 2) := by decide
theorem test_worked_sequencer_words_2 :
    decodeSeq 0x04104209 = .ok (.adds 1 1 2) ∧ decodeSeq 0x50513401 = .ok (.lda 5 4 3 1 1) ∧ decodeSeq 0x4850AFFF = .ok (.st 5 2 2 0xFFF) ∧ decodeSeq 0x6C910064 = .ok (.fcvt 9 4 6 4) ∧
      decodeSeq 0x880003FC = .ok (.call 0x3FC) ∧ decodeSeq 0xA1000049 = .ok (.tset 2 0 9) ∧ decodeSeq 0xA4004006 = .ok (.hzld 1 6) ∧ decodeSeq 0xA4004086 = .ok (.hzpub 1 6) := by decide
theorem test_worked_sequencer_words_3 :
    decodeSeq 0xD4401090 = .ok (.cfgSwitch 4 9) ∧ decodeSeq 0xD8020013 = .ok (.ctxPrio 8 3) ∧ decodeSeq 0xF0308000 = .ok (.mfs 3 2 0) ∧
      decodeSeq 0xF0748010 = .ok (.mts 7 0x12 0) ∧ decodeSeq 0xF0024020 = .ok (.trap 9) ∧ decodeSeq 0xC0440031 = .ok (.enqAg 4 0 3 1) ∧
      decodeSeq 0xC0400800 = .ok (.enqAg 0 2 0 0) := by decide
/-- Tables 9.9 and 11.10. -/
theorem test_worked_element_words :
    decodeCe 0x0CCC0010 = some (.ceFma, { fn := 3, ty := 3, fire := 2 }) ∧ decodeCe 0x0400DC84 = some (.ceAdd, { dm := 3, dslot := 7, k := 4, sat := 1 }) ∧
      decodeCe 0x0C8C0008 = some (.ceFloatMul, { fn := 2, ty := 3, fire := 1 }) ∧ decodeCe 0x06000004 = some (.ceMad, { fn := 8, sat := 1 }) ∧
      decodeCe 0x1CD800A0 = some (.cvt, { fn := 3, ty := 6, k := 5 }) ∧ decodeCe 0x600C0018 = some (.redSum, { ty := 3, fire := 3 }) ∧
      decodeCe 0x900000E0 = some (.cjoin, { k := 7 }) ∧ decodeCe 0x84B80000 = some (.ctStep, { fn := 2, ty := 14 }) ∧ decodeCe 0xC4000040 = some (.cntr, { k := 2 }) := by decide
/-- Chapters 9 and 12. -/
theorem test_worked_memory_words :
    decodeMe 0x04114000 = some (.agsRd ⟨4, 5, 0, 0, 0⟩) ∧ decodeMe 0x0C5FC639 = some (.wavSt 5 63 6 3 1) ∧ decodeMe 0x10000060 = some (.ttbLook ⟨0, 0, 0, 3, 0⟩) ∧
      decodeMe 0x18400C80 = some (.arrSeek ⟨0, 0, 3, 4, 0⟩) ∧ decodeMx 0x05620100 0x00100001 = some (.mma ⟨0x0B, 1, 0, 0, 1, 0, 0, 0, 0x00100001⟩) ∧
      decodeMx 0x28000200 0 = some (.cvprobe ⟨0, 0, 0, 0, 2, 0, 0, 0, 0⟩) := by decide

/-! ### The manual's worked values -/

def after {α : Type} (o : Out) (g : State → α) : Option α := match o with
  | .next t => some (g t)
  | _ => none
/-- The running stream with registers s1 and s2. -/
def sqTwo (x y : DWord) : State := sqWith fun st => { st with view := { st.view with s := [(1, x), (2, y)] } }
def reg (i : BitVec 6) (t : State) : DWord := t.me.view.rs i

/-- R177: the three words of lc. -/
theorem test_lc_words :
    after (exec (.li 9 0x89ABC) sq) (reg 9) = some 0xFFFFFFFFFFF89ABC ∧
      after (exec (.lui 9 0x34567) (sqWith fun st => { st with view := { st.view with s := [(9, 0xFFFFFFFFFFF89ABC)] } })) (reg 9) = some 0xFFFFFF3456789ABC ∧
      after (exec (.luh 9 0x12) (sqWith fun st => { st with view := { st.view with s := [(9, 0xFFFFFF3456789ABC)] } })) (reg 9) = some 0x0000123456789ABC := by decide
/-- R102: s1 = 2^63 − 6 plus 10 saturates; then minus 10. -/
theorem test_adds_saturates :
    after (exec (.adds 3 1 2) (sqTwo 0x7FFFFFFFFFFFFFFA 10)) (reg 3) = some 0x7FFFFFFFFFFFFFFF ∧
      after (exec (.adds 3 1 2) (sqTwo 0x7FFFFFFFFFFFFFFF (-10))) (reg 3) = some 0x7FFFFFFFFFFFFFF5 := by decide
/-- R103: truncation toward zero, division by zero, and the one overflow. -/
theorem test_div_cases :
    after (exec (.div 3 1 2) (sqTwo (-7) 2)) (reg 3) = some (-3) ∧ after (exec (.rem 3 1 2) (sqTwo (-7) 2)) (reg 3) = some (-1) ∧
      after (exec (.div 3 1 2) (sqTwo 5 0)) (reg 3) = some (-1) ∧ after (exec (.rem 3 1 2) (sqTwo 5 0)) (reg 3) = some 5 ∧
      after (exec (.div 3 1 2) (sqTwo 0x8000000000000000 (-1))) (reg 3) = some 0x8000000000000000 := by decide
/-- R213: f32 −3.5 to i32. -/
theorem test_fcvt_value : after (exec (.fcvt 3 1 0 4) (sqTwo 0xC0600000 0)) (reg 3) = some 0xFFFFFFFFFFFFFFFC := by decide
/-- R216: tadv of (4, 7, 2, 0) by 6 and by 4. -/
theorem test_tadv_value :
    let s (n : DWord) : State := sqWith fun st => { st with view := { st.view with tm := [(3, ⟨4, 7, 2, 0⟩)], s := [(9, n)] } }
    after (exec (.tadv 3 3 0 9) (s 6)) (fun t => t.me.view.rt 3) = some ⟨6, 0, 0, 0⟩ ∧ after (exec (.tadv 3 3 0 9) (s 4)) (fun t => t.me.view.rt 3) = some ⟨4, 7, 2, 0⟩ := by decide
/-- R214: a branch of −5 words at 0x4014 in a block at 0x4010 leads to 0x4000. -/
theorem test_br_target : ((0x4014 : DWord) + ((0x3FFFFB : BitVec 22).signExtend 64 <<< 2)) = 0x4000 := by decide

/-- A join of a change with one reply (R274): colour 0 has keys of one lane and two coordinates. -/
def joining (a b : Token) : State :=
  (withCtx (ceEntry 0x900000E0 (some a) (some b) none) fun x => { x with colours := [(0, { depth := 2, kl := 1, vl := 1 }), (7, { depth := 2, kl := 1, vl := 2 })], allocs := [(0, ⟨0, 16, 6⟩), (7, ⟨16, 16, 7⟩)] })
    |>.modElem 0 0 0 fun e => { e with unit := e.unit.map fun u => { u with consts := [(7, 7)] } }
/-- The element's results on their way to its outputs. -/
def outs (t : State) : List (List Word) := ((t.elem? 0 0 0).map fun e => e.pipe.map (·.tok.lanes)).getD []
/-- R274: A = (key 4, value 10, (1,0), +2) meets (4, 20, (0,3), −1) and then (4, 21, (2,0), +1) with last. -/
theorem test_cjoin_values :
    let a : Token := { kind := kChg, lanes := [2, 1, 0, 0, 4, 10] }
    after (exec .cjoin (joining a { kind := kChg, lanes := [0xFFFFFFFF, 0, 0x30000, 0, 4, 20] })) outs = some [[0xFFFFFFFE, 1, 0x30000, 0, 4, 10, 20]] ∧
      after (exec .cjoin (joining a { kind := kChg, last := true, lanes := [1, 2, 0, 0, 4, 21] })) outs = some [[2, 2, 0, 0, 4, 10, 21]] := by decide
/-- Table 11.3: a saturating add of i32 lanes, and a wrapping one. -/
theorem test_ce_add :
    after (exec .ceAdd (ceEntry 0x04000004 (some (tok 0x7FFFFFFF)) (some (tok 1)) none)) outs = some [[0x7FFFFFFF]] ∧
      after (exec .ceAdd (ceEntry 0x04000000 (some (tok 0x7FFFFFFF)) (some (tok 1)) none)) outs = some [[0x80000000]] := by decide
/-- R90: a block whose largest magnitude is 900 takes v = 128, and 900 becomes 448 (0x7E). -/
theorem test_block_scale :
    blockScale 6 [.fin false 900 0] = 128 ∧ blockElem 6 (RMode.ofCode 0) 0 128 (.fin false 900 0) = 0x7E := by decide
/-- Table 4.4: the worked CF8 block and its header. -/
def cf8Block : List Nat := List.replicate 27 0x40 ++ [0xC2, 0x38, 0x38, 0x28, 0x03]
set_option maxRecDepth 20000 in
theorem test_cf8_lengths : [0, 1, 2, 3].map (fun k => (cf8Bits k cf8Block).length) = [173, 197, 226, 257] := by decide
set_option maxRecDepth 20000 in
theorem test_cf8_encode : (cf8Encode 0x7F false cf8Block).head? = some 0x7F201000 ∧ (cf8Encode 0x7F false cf8Block).length = 7 ∧
    natOfBits (cf8Code 8 0 0xC2) = 0b10100 ∧ natOfBits (cf8Code 8 0 0x03) = 0b0011111111110 := by decide
/-- Table 7.9: the round of two sources with capacity 2 and rerouting, and without. -/
theorem test_irregular_round :
    let want := [[0, 0, 1, 0], [0, 2, 0]]
    (assignRound 3 (fun _ => 2) (fun _ => true) want).map (fun a => (a.src, a.pos, a.dst, a.moved)) =
        [(0, 0, 0, false), (0, 1, 0, false), (0, 2, 1, false), (1, 1, 2, false), (0, 3, 1, true), (1, 0, 2, true)] ∧
      (assignRound 3 (fun _ => 2) (fun _ => false) want).length = 4 := by decide
/-- Table 12.9, step 2: of equal gains the smaller key, then the smaller index; 2^96 reads 0, 0, 0, 1. -/
theorem test_gain_order :
    let g : BitVec 128 := 1 <<< 96
    let v : Coverage := { e := 4, gains := [(0, g), (1, g), (2, g)], keys := [(0, 7), (1, 3), (2, 3)], index := [(0, 10), (1, 11), (2, 12)], valid := [0, 1, 2] }
    gainBetter v 1 0 = true ∧ gainBetter v 1 2 = true ∧ gainBetter v 2 0 = true ∧ gainBetter v 0 1 = false ∧ gainLanes v 1 = [0, 0, 0, 1] := by decide

/-! ### The host's words -/

/-- The first step runs the placed word: EXIT starts its block's commit. -/
theorem test_withFetchWord :
    after (step (State.reset.withFetchWord 32 0xF0000040)) (fun t => (t.stream 0 0).phase) = some .committing ∧
      decodeTableWord 32 0x04104209 = some (.adds 1 1 2) ∧ decodeTableWord 32 0x0C5FC639 ≠ none := by decide

end Sys2Proof.Tests
end

section
/-! O6: the parts of the machine right after reset, and that nothing runs there. -/
namespace Sys2Proof.Machine

/-! ### The parts of the reset state -/

/-- The reset state lists no cluster, so every cluster reads as the default one; the next three lemmas say it of dies, I/O dies and ports. -/
@[simp] theorem State.cluster_reset (c : Nat) : State.reset.cluster c = {} := rfl
@[simp] theorem State.die_reset (d : Nat) : State.reset.die d = {} := rfl
@[simp] theorem State.iod_reset (i : Nat) : State.reset.iod i = {} := rfl
@[simp] theorem State.port_reset (p : Nat) : State.reset.port p = {} := rfl

@[simp] theorem State.stream_reset (c k : Nat) : State.reset.stream c k = {} := rfl
@[simp] theorem State.mxOf_reset (c : Nat) : State.reset.mxOf c = {} := rfl
@[simp] theorem State.region?_reset (c k : Nat) : State.reset.region? c k = none := rfl

/-! ### What does not run there -/

@[simp] theorem State.ctxAt_reset (c k : Nat) : State.reset.ctxAt c k = none := by
  simp [State.ctxAt]

/-- A slot without a region has no context, so nothing runs in it. -/
@[simp] theorem State.running_reset (c k : Nat) : State.reset.running c k = false := by
  simp [State.running]

@[simp] theorem State.mxHead_reset (c : Nat) : State.reset.mxHead c = none := by
  simp [State.mxHead]

/-- Table 14.3: PCTL resets to 0, and a port that is not enabled is not ready. -/
@[simp] theorem State.portReady_reset (p : Nat) : State.reset.portReady p = false := by
  simp [State.portReady]

/-! ### The invariant of every step -/

theorem keyed_nil : Keyed [] := ⟨List.nodup_nil, by simp⟩

theorem State.canonical_reset : State.reset.Canonical :=
  ⟨wf_reset, rfl, fun c => by rw [State.cluster_reset]; exact keyed_nil⟩

/-- Settles O6: a part that the reset state does not list reads as its default, in which nothing is resident, ready, valid or loaded. -/
theorem resetLeavesNothingRunning : Obligations.ResetLeavesNothingRunning := by
  refine ⟨State.canonical_reset, rfl, rfl, rfl, fun c k => ?slots, fun c => ?clusters, fun d q => ?dies, fun p => ?ports⟩
  case slots =>
    exact ⟨State.region?_reset c k, State.running_reset c k, by rw [State.stream_reset], by rw [State.stream_reset], State.mxHead_reset c⟩
  case clusters => simp
  case dies => simp [Map.get, Map.find?]
  case ports => simp [Port.tx, Port.rx]

end Sys2Proof.Machine
end

section
/-! O25: every floating-point instruction but FCMP ends in one of two shared forms; each form is read once as a statement of its result, and
each function behind it once as one rounding of an exact value. -/
namespace Sys2Proof.Machine

/-! ### The forms -/

section
variable {s : State} {i : Instr} {d a : BitVec 6} {t : Bool}

/-- A floating-point register result: its function's value and flags, on the block view as it stands (R209). -/
theorem writesF_of_seqFloat {g : Regs → DWord × FFlags} {r : DWord × FFlags} (hs : s.CanAdvance) (hi : exec i s = seqFloat s d t g)
    (hg : g s.me.view = r) : WritesF s i d r t := by
  subst hg; exact goesOn_of_seqPure hs hi rfl

/-- A result of one register, with its taint (R137). -/
theorem writes_of_seqRR {f : DWord → DWord} {x : DWord} (hs : s.CanAdvance) (hi : exec i s = seqRR s d a f) (hf : f (s.me.view.rs a) = x) :
    Writes s i d x (s.me.view.taintOf a) := by
  subst hf; exact goesOn_of_seqPure hs hi rfl

end

/-! ### The form of each instruction (Table 10.5) -/

section
variable (s : State) (d a b c : BitVec 6) (f : BitVec 1)

theorem exec_fadd : exec (.fadd d a b f) s =
    seqFloat s d (s.me.view.taintOf a || s.me.view.taintOf b) fun r => fAdd (fmtOf f) r (r.rs a) (r.rs b) := rfl
theorem exec_fsub : exec (.fsub d a b f) s =
    seqFloat s d (s.me.view.taintOf a || s.me.view.taintOf b) fun r => fSub (fmtOf f) r (r.rs a) (r.rs b) := rfl
theorem exec_fmul : exec (.fmul d a b f) s =
    seqFloat s d (s.me.view.taintOf a || s.me.view.taintOf b) fun r => fMul (fmtOf f) r (r.rs a) (r.rs b) := rfl
theorem exec_fdiv : exec (.fdiv d a b f) s =
    seqFloat s d (s.me.view.taintOf a || s.me.view.taintOf b) fun r => fDiv (fmtOf f) r (r.rs a) (r.rs b) := rfl
theorem exec_fmin : exec (.fmin d a b f) s =
    seqFloat s d (s.me.view.taintOf a || s.me.view.taintOf b) fun r => fMinMax (fmtOf f) false r (r.rs a) (r.rs b) := rfl
theorem exec_fmax : exec (.fmax d a b f) s =
    seqFloat s d (s.me.view.taintOf a || s.me.view.taintOf b) fun r => fMinMax (fmtOf f) true r (r.rs a) (r.rs b) := rfl
theorem exec_fsqrt : exec (.fsqrt d a f) s = seqFloat s d (s.me.view.taintOf a) fun r => fSqrt (fmtOf f) r (r.rs a) := rfl
theorem exec_ffma : exec (.ffma d a b c f) s =
    seqFloat s d (s.me.view.taintOf a || s.me.view.taintOf b || s.me.view.taintOf c) fun r =>
      fFma (fmtOf f) r (r.rs a) (r.rs b) (r.rs c) := rfl
theorem exec_fcvt (dst src : BitVec 4) : exec (.fcvt d a dst src) s =
    seqFloat s d (s.me.view.taintOf a) fun r => cvtResult r dst.toNat src.toNat (r.rs a) := rfl
theorem exec_fabs : exec (.fabs d a f) s =
    seqRR s d a fun x => if f = 1 then x &&& 0x7FFFFFFFFFFFFFFF#64 else x &&& 0x7FFFFFFF#64 := rfl
theorem exec_fneg : exec (.fneg d a f) s =
    seqRR s d a fun x => if f = 1 then x ^^^ 0x8000000000000000#64 else (x &&& 0xFFFFFFFF#64) ^^^ 0x80000000#64 := rfl
theorem exec_fcmp (p : BitVec 3) (c : BitVec 4) : exec (.fcmp p c a b f) s = execFcmp p c a b f s := rfl

end

/-! ### Each function as one rounding (R209 to R211) -/

section
variable (f : Fmt) (r : Regs) (x y : DWord)

theorem fRound_eq_roundIn (v : Val) (b : FFlags) : fRound f r v b = roundIn f r v b := rfl

/-- Where neither operand is a NaN, fmin rounds the one that lies below. -/
theorem fMinMax_min : fMinMax f false r x y =
    let u := fOperand f r.ftz x
    let v := fOperand f r.ftz y
    if u.isNan || v.isNan then (BitVec.ofNat 64 f.nanBits, { nv := u.isSnan || v.isSnan })
    else roundIn f r (if u.below v then u else v) {} := by
  simp only [fMinMax, fRound_eq_roundIn, Bool.bne_false]

/-- fmax rounds the other one: its flag inverts the test. -/
theorem fMinMax_max : fMinMax f true r x y =
    let u := fOperand f r.ftz x
    let v := fOperand f r.ftz y
    if u.isNan || v.isNan then (BitVec.ofNat 64 f.nanBits, { nv := u.isSnan || v.isSnan })
    else roundIn f r (if u.below v then v else u) {} := by
  simp only [fMinMax, fRound_eq_roundIn, Bool.bne_true, Bool.not_eq_true', ← Bool.not_eq_true, ite_not]

end

/-- Masking goes through an exclusive or. -/
theorem xor_and_distrib {n : Nat} (x y m : BitVec n) : (x ^^^ y) &&& m = (x &&& m) ^^^ (y &&& m) := by
  ext i h
  simp [Bool.and_xor_distrib_right]

/-- The sign bit of f32 lies inside the 32 bits that fneg keeps. -/
theorem mask_xor_sign32 (x : DWord) : (x &&& 0xFFFFFFFF#64) ^^^ 0x80000000#64 = (x ^^^ 0x80000000#64) &&& 0xFFFFFFFF#64 := by
  rw [xor_and_distrib]; rfl

/-- Settles O25: each instruction is its form, and its function is one rounding of the exact value. -/
theorem floatResults : Obligations.FloatResults := by
  constructor
  · intro s d a b c f dst src hs v fmt arg t2
    refine ⟨?fadd, ?fsub, ?fmul, ?fdiv, ?fsqrt, ?fmin, ?fmax, ?fabs, ?fneg, ?ffma, ?fcvt⟩
    case fadd => exact writesF_of_seqFloat hs (exec_fadd ..) (fRound_eq_roundIn ..)
    case fsub => exact writesF_of_seqFloat hs (exec_fsub ..) (fRound_eq_roundIn ..)
    case fmul => exact writesF_of_seqFloat hs (exec_fmul ..) (fRound_eq_roundIn ..)
    case fdiv => exact writesF_of_seqFloat hs (exec_fdiv ..) (fRound_eq_roundIn ..)
    case fsqrt => exact writesF_of_seqFloat hs (exec_fsqrt ..) (fRound_eq_roundIn ..)
    case fmin => exact writesF_of_seqFloat hs (exec_fmin ..) (fMinMax_min ..)
    case fmax => exact writesF_of_seqFloat hs (exec_fmax ..) (fMinMax_max ..)
    case fabs => exact writes_of_seqRR hs (exec_fabs ..) rfl
    case fneg => exact writes_of_seqRR hs (exec_fneg ..) (by rw [mask_xor_sign32])
    case ffma => exact writesF_of_seqFloat hs (exec_ffma ..) (fRound_eq_roundIn ..)
    case fcvt => exact writesF_of_seqFloat hs (exec_fcvt ..) rfl
  · intro s p c a b f hs v fmt x y
    exact goesOn_of_seqPure hs (exec_fcmp ..) rfl

end Sys2Proof.Machine
end

section
/-! What an access leaves of the streams: reads, translations and accesses of another node change neither the agent that acts nor any
stream, so that a command captured after them is the one captured before. -/
namespace Sys2Proof.Machine

/-- `t` has the acting agent and the streams of `s`. -/
structure State.SameStreams (s t : State) : Prop where
  cur : t.cur = s.cur
  stream : ∀ c k, t.stream c k = s.stream c k

namespace State.SameStreams

theorem refl (s : State) : s.SameStreams s := ⟨rfl, fun _ _ => rfl⟩

theorem trans {s t u : State} (h : s.SameStreams t) (g : t.SameStreams u) : s.SameStreams u :=
  ⟨g.cur.trans h.cur, fun c k => (g.stream c k).trans (h.stream c k)⟩

theorem me {s t : State} (h : s.SameStreams t) : t.me = s.me := by
  unfold State.me; rw [h.cur, h.stream]

theorem of_clusters {s t : State} (hc : t.cur = s.cur) (h : t.clusters = s.clusters) : s.SameStreams t :=
  ⟨hc, fun c k => by simp only [State.stream, State.cluster, h]⟩

theorem ite {s t u : State} {p : Prop} [Decidable p] (ht : s.SameStreams t) (hu : s.SameStreams u) : s.SameStreams (if p then t else u) := by
  split <;> assumption

/-- A change of a cluster that leaves its streams. -/
theorem modCluster (s : State) (c : Nat) {f : Cluster → Cluster} (h : ∀ x, (f x).streams = x.streams) : s.SameStreams (s.modCluster c f) := by
  refine ⟨rfl, fun l k => ?_⟩
  simp only [State.stream, State.cluster, State.modCluster_clusters, Map.get_mod]
  split
  · next e => rw [h, e]
  · rfl

theorem wr64 (s : State) (k : Nat) (v : DWord) : s.SameStreams (s.wr64 k v) := of_clusters rfl rfl

theorem countHbm (s : State) (k : Nat) (w : Bool) : s.SameStreams (s.countHbm k w) :=
  ite (of_clusters rfl rfl) (refl s)

theorem touchLine (s : State) (k : Nat) : s.SameStreams (s.touchLine k).1 := by
  unfold State.touchLine
  split
  · exact refl s
  · exact ite (of_clusters rfl rfl) (refl s)
  · exact ite (of_clusters rfl rfl) (refl s)
  · exact of_clusters rfl rfl
  · exact refl s

theorem touch (s : State) (k n : Nat) : s.SameStreams (s.touch k n).1 :=
  List.foldlRecOn (motive := fun a : State × Nat => s.SameStreams a.1) _ _ (refl s) fun _ h _ _ => h.trans (touchLine _ _)

theorem walkFrom (s : State) (va : DWord) (n lvl table : Nat) : s.SameStreams (walkFrom s va n lvl table).1 := by
  induction n generalizing s lvl table with
  | zero => exact refl s
  | succ n ih =>
    have touched := touchLine s (hbm (entryAt table lvl va))
    have read := touched.trans (countHbm _ (hbm (entryAt table lvl va)) false)
    unfold Machine.walkFrom
    dsimp only
    split
    · exact touched
    · split
      · exact read
      · split
        · repeat' split
          all_goals exact read
        · split
          · exact read
          · exact read.trans (ih ..)

theorem walk (s : State) (c : Nat) (ag : Bool) (root va : DWord) (acc : Access) : s.SameStreams (s.walk c ag root va acc).1 := by
  have counted : s.SameStreams ((s.count c (if ag then 0x32 else 0x33) s.cur.ctx).modDie (dieOf c) fun x =>
      (x.count 0x100 1).count 0x101 (Config.waited s.tick)) :=
    (modCluster s c (f := fun x => x.count _ _ 1) fun _ => rfl).trans (of_clusters rfl rfl)
  have walked := counted.trans (walkFrom _ va 5 1 root.toNat)
  unfold State.walk
  dsimp only
  split
  · next h => rwa [h] at walked
  · next s1 l h =>
    rw [h] at walked
    split
    · exact walked
    · have updated (leaf : DWord) : s1.SameStreams ((s1.wr64 l.at_ leaf).countHbm l.at_ true) :=
        (wr64 s1 l.at_ leaf).trans (countHbm _ l.at_ true)
      exact (walked.trans (ite (refl s1) (updated _))).trans (modCluster _ c fun x => by split <;> rfl)

theorem lookup (s : State) (c : Nat) (ag : Bool) (root va : DWord) (acc : Access) : s.SameStreams (s.lookup c ag root va acc).1 := by
  unfold State.lookup
  dsimp only
  split
  · exact refl s
  · split
    · split
      · exact walk ..
      · exact refl s
    · exact walk ..

theorem translate (s : State) (c : Nat) (ag : Bool) (root va : DWord) (acc : Access) : s.SameStreams (s.translate c ag root va acc).1 := by
  have found := lookup s c ag root va acc
  unfold State.translate
  split
  · exact refl s
  · split
    · next h =>
      rw [h] at found
      split
      all_goals exact found
    · next h => rwa [h] at found

theorem farAsk (s : State) (who k n : Nat) (q : FarReq) : s.SameStreams (s.farAsk who k n q).1 := by
  unfold State.farAsk
  split
  · exact refl s
  · cases q
    all_goals exact of_clusters rfl rfl

theorem farLoad (s : State) (who k n : Nat) : s.SameStreams (s.farLoad who k n).1 := by
  have asked := farAsk s who k n .read
  unfold State.farLoad
  split
  all_goals
    next h =>
    rw [h] at asked
    exact asked.trans (of_clusters rfl rfl)

theorem tableRd (s : State) (c k who : Nat) (va : DWord) (n : Nat) : s.SameStreams (s.tableRd c k who va n).1 := by
  have home := translate s c true (s.rootAt c k) va .load
  unfold State.tableRd
  split
  · next h => rwa [h] at home
  · next s1 key h =>
    rw [h] at home
    split
    · have far := farLoad s1 who key n
      split
      all_goals
        next h => 
        rw [h] at far
        exact home.trans far
    · exact (home.trans (touch s1 key n)).trans (countHbm _ key false)

theorem plGood (s : State) (c k idx st : Nat) : s.SameStreams (s.plGood c k idx st).1 := by
  unfold State.plGood
  split
  · exact refl s
  · next x _ =>
    have head := tableRd s c k (farStream c k) x.ptab 8
    dsimp only
    split
    · next h => rwa [h] at head
    · next s1 n h =>
      rw [h] at head
      split
      · exact head
      · have row := tableRd s1 c k (farStream c k) (x.ptab + 64 + BitVec.ofNat 64 (64 * idx)) 8
        split
        all_goals
          next h =>
          rw [h] at row
          exact head.trans row

end State.SameStreams

end Sys2Proof.Machine
end

section
/-! O28: a command ends in one of three shared forms (an ENQ, a CFG command, a CTX command), and a wait, a signal or an arm after its object is
read; each is read once under the premises that let it pass, and each instruction is its form. -/
namespace Sys2Proof.Machine

/-- An instruction that only enters an effect in the buffer. -/
theorem goesOn_addEff {s : State} {o : Out} {e : Eff} (hs : s.CanAdvance) (ho : o = .next (s.seqPure fun st => st.addEff e)) :
    GoesOn s o (s.me.addEff e) :=
  goesOn_of_seqPure hs ho rfl

/-- An instruction that only writes a predicate. -/
theorem goesOn_wp {s : State} {o : Out} {p : BitVec 3} {v : Bool} (hs : s.CanAdvance)
    (ho : o = .next (s.seqPure fun st => { st with view := st.view.wp p v })) : GoesOn s o { s.me with view := s.me.view.wp p v } :=
  goesOn_of_seqPure hs ho rfl

/-- An instruction that changes nothing of its stream. -/
theorem goesOn_same {s : State} {o : Out} (hs : s.CanAdvance) (ho : o = .next (s.seqPure fun st => st)) : GoesOn s o s.me :=
  goesOn_of_seqPure hs ho rfl

/-! ### Commands for engines (R218 to R222) -/

/-- An ENQ that is aligned and that its queue takes is held in the buffer. -/
theorem goesOn_of_seqEnq {s : State} {o : Out} {cmd : Cmd} {al : Nat} {bad : Option (Nat × DWord)} (hs : s.CanAdvance)
    (ho : o = seqEnq s al cmd bad) (ha : cmd.a.toNat % al = 0) (hobj : cmd.obj.toNat % 16 = 0) (hb : bad = none) :
    GoesOn s o (s.me.addEff (.enq cmd)) := by
  subst hb
  refine goesOn_addEff hs ?_
  rw [ho, seqEnq, if_neg (not_not_intro ha), if_neg (not_not_intro hobj)]

section
variable (s : State) (a b c : BitVec 6) (f : BitVec 1) (p : BitVec 2)

theorem exec_enqMx : exec (.enqMx a b c) s = seqEnq s 1 (s.me.capture 0 (.enqMx a b c) a b c 0) none := rfl
theorem exec_enqAg : exec (.enqAg a b c f) s = seqEnq s 1 (s.me.capture 1 (.enqAg a b c f) a b c (f.zeroExtend 4))
    (if (s.me.view.rs a).toNat ≥ 2 ^ 9 ∨ !(s.agTyped s.cur.cluster s.cur.ctx ((s.me.view.rs a).toNat % 32)) then some (2, s.me.view.rs a)
      else none) := rfl
theorem exec_enqCl : exec (.enqCl a b) s = seqEnq s 64 (s.me.capture 2 (.enqCl a b) a b 0 0) none := rfl
theorem exec_enqLk : exec (.enqLk a b) s = seqEnq s 64 (s.me.capture 3 (.enqLk a b) a b 0 0) none := rfl
theorem exec_enqSc : exec (.enqSc a b) s = seqEnq s 64 (s.me.capture 4 (.enqSc a b) a b 0 0) none := rfl
theorem exec_enqTi : exec (.enqTi a b c p) s =
    seqEnq s 1 { s.me.capture 5 (.enqTi a b c p) a b c (p.zeroExtend 4) with lanes := tiLanes s.me.view c ((s.me.view.rs a).bits 60 56 + 1) }
      (s.tiBad s.cur.cluster s.cur.ctx p.toNat (s.me.view.rs a) c.toNat) := rfl
theorem exec_enqTo : exec (.enqTo a b p) s = seqEnq s 8 (s.me.capture 6 (.enqTo a b p) a b 0 (p.zeroExtend 4)) none := rfl
theorem exec_enqPl : exec (.enqPl a b c) s = execEnqPl a b c s := rfl

end

/-- A demand whose index and state are good is an ENQ of the command as the stream stood before the tables were read. -/
theorem execEnqPl_of_good {s s1 : State} {a b c : BitVec 6}
    (h : s.plGood s.cur.cluster s.cur.ctx ((s.me.view.rs a).bits 9 0) ((s.me.view.rs c).bits 15 0) = (s1, some true)) :
    execEnqPl a b c s = seqEnq s1 1 (s.me.capture 7 (.enqPl a b c) a b c 0) none := by
  have kept := State.SameStreams.plGood s s.cur.cluster s.cur.ctx ((s.me.view.rs a).bits 9 0) ((s.me.view.rs c).bits 15 0)
  rw [h] at kept
  simp [execEnqPl, h, kept.me]

/-! ### Objects and barriers (R224 to R227) -/

/-- The read of a waiting instruction in a block with W set, of a good object of this module. -/
theorem waitRead_ok {s s1 s2 : State} {va : DWord} {al k : Nat} (hw : s.me.wflag = true) (ho : s.objectAt va al .load = (s1, .ok k))
    (hn : isFar k = false) (ht : s1.touch k al = (s2, 0)) : s.waitRead va al = (s2, .ok k) := by
  simp [State.waitRead, hw, ho, hn, ht]

section
variable {s s1 : State} {a b : BitVec 6} {k : Nat}

theorem exec_waitc_reached (h : s.waitRead (s.me.view.rs a) 16 = (s1, .ok k)) (hn : (s.me.view.rs b).bits 47 0 ≤ s1.viewRd k 8 % 2 ^ 48) :
    exec (.waitc a b) s = .next (s1.seqPure fun st => st) := by
  change execWaitc a b s = _
  simp only [execWaitc, h, hn, if_true]

theorem exec_waitb_reached {p : BitVec 3} (h : s.waitRead (s.me.view.rs a) 32 = (s1, .ok k)) (hn : s1.viewRd k 8 ≤ s1.viewRd (k + 8) 8)
    (hp : s1.viewRd (k + 16) 8 % 4 ≠ 3) :
    exec (.waitb p a) s = .next (s1.seqPure fun st => { st with view := st.view.wp p (decide (s1.viewRd (k + 16) 8 % 2 = 1)) }) := by
  change execWaitb p a s = _
  simp only [execWaitb, h, hn, hp, if_true, if_false]

theorem exec_sigc_good {x : BitVec 3} (h : s.objectAt (s.me.view.rs a) 16 .store = (s1, .ok k)) :
    exec (.sigc a b x) s = .next (s1.seqPure fun st => st.addEff (.signal (s.me.view.rs a) k ((s.me.view.rs b).bits 47 0) x.toNat)) := by
  change execSigc a b x s = _
  simp only [execSigc, h]

theorem exec_bara_good {x : BitVec 1} (h : s.objectAt (s.me.view.rs a) 32 .store = (s1, .ok k)) :
    exec (.bara a b x) s = .next (s1.seqPure fun st => st.addEff (.bara (s.me.view.rs a) k (s.me.view.rs b) (decide (x = 1)))) := by
  change execBara a b x s = _
  simp only [execBara, h]

end

/-! ### Configuration and context commands (R228, R230) -/

/-- A CFG command that is aligned and not the fifth of its block is held in the buffer. -/
theorem goesOn_of_seqCfg {s : State} {o : Out} {cmd : Cmd} (hs : s.CanAdvance) (ho : o = seqCfg s cmd) (hobj : cmd.obj.toNat % 16 = 0)
    (hroom : (s.me.effs.filter fun e => match e.2 with
      | .cfg _ => true
      | _ => false).length < 4) : GoesOn s o (s.me.addEff (.cfg cmd)) := by
  refine goesOn_addEff hs ?_
  rw [ho, seqCfg, if_neg (not_not_intro hobj)]
  exact if_neg (Nat.not_le.mpr hroom)

/-- A CTX command on a context RCB of the issuer's partition is held in the buffer, a launch where the node is idle or retired. -/
theorem goesOn_of_seqCtx {s s1 : State} {o : Out} {fn n k : Nat} {a : BitVec 6} (hs : s1.CanAdvance) (ho : o = seqCtx s fn a n)
    (ht : s.translate s.cur.cluster false (s.rootAt s.cur.cluster s.cur.ctx) (s.me.view.rs a) .load = (s1, .ok k)) (hap : keyAp k = 0)
    (hctx : s1.isContextOf (keyPa k) (match s1.ctxAt s1.cur.cluster s1.cur.ctx with
      | some x => x.part
      | none => 0) = true)
    (hst : fn = 0 → s1.rd (k + 4) 1 = 0 ∨ s1.rd (k + 4) 1 = 4) : GoesOn s1 o (s1.me.addEff (.ctx fn (keyPa k) n)) := by
  refine goesOn_addEff hs ?_
  rw [ho]
  unfold seqCtx
  simp only [ht]
  rw [if_neg ?context, if_neg ?idle]
  case context => simp only [hap, ne_eq, not_true_eq_false, false_or, Bool.not_eq_true', Bool.not_eq_false]; exact hctx
  case idle => exact fun h => (hst h.1).elim h.2.1 h.2.2

section
variable (s : State) (a b c : BitVec 6)

theorem exec_cfgLoad : exec (.cfgLoad a b c) s = seqCfg s (s.me.capture qCfg (.cfgLoad a b c) a b c 0) := rfl
theorem exec_cfgSwitch : exec (.cfgSwitch b c) s = seqCfg s (s.me.capture qCfg (.cfgSwitch b c) 0 b c 1) := rfl
theorem exec_cfgPage : exec (.cfgPage a b) s = seqCfg s (s.me.capture qCfg (.cfgPage a b) a b 0 2) := rfl
theorem exec_ctxLaunch : exec (.ctxLaunch a) s = seqCtx s 0 a 0 := rfl
theorem exec_ctxPrio (n : BitVec 4) : exec (.ctxPrio a n) s = seqCtx s 1 a n.toNat := rfl
theorem exec_ctxSusp : exec (.ctxSusp a) s = seqCtx s 2 a 0 := rfl
theorem exec_ctxResume : exec (.ctxResume a) s = seqCtx s 3 a 0 := rfl
theorem exec_ctxEvict : exec (.ctxEvict a) s = seqCtx s 4 a 0 := rfl

end

/-- Settles O28: each command meets the premises of its form, and what it captures is read from the stream as it stood. -/
theorem commandsAreBuffered : Obligations.CommandsAreBuffered := by
  refine ⟨?enq, ?objects, ?config⟩
  case enq =>
    intro s a b c f p hs st x cmd y z hy
    refine ⟨?mx, ?ag, fun hx => ⟨?cl, ?lk, ?sc⟩, ?ti, ?out, ?pl⟩
    case mx => exact goesOn_of_seqEnq hs (exec_enqMx ..) (Nat.mod_one _) hy rfl
    case ag =>
      intro hx hag
      exact goesOn_of_seqEnq hs (exec_enqAg ..) (Nat.mod_one _) hy (if_neg (not_or.mpr ⟨Nat.not_le.mpr hx, by rw [hag]; decide⟩))
    case cl => exact goesOn_of_seqEnq hs (exec_enqCl ..) hx hy rfl
    case lk => exact goesOn_of_seqEnq hs (exec_enqLk ..) hx hy rfl
    case sc => exact goesOn_of_seqEnq hs (exec_enqSc ..) hx hy rfl
    case ti => exact fun ht => goesOn_of_seqEnq hs (exec_enqTi ..) (Nat.mod_one _) hy ht
    case out => exact fun hx => goesOn_of_seqEnq hs (exec_enqTo ..) hx hy rfl
    case pl =>
      exact fun s1 hp hs1 => goesOn_of_seqEnq hs1 ((exec_enqPl ..).trans (execEnqPl_of_good hp)) (Nat.mod_one _) hy rfl
  case objects =>
    intro s s1 s2 a b p x z k va y
    refine ⟨?waitc, ?waitb, ?sigc, ?bara⟩
    case waitc =>
      intro hs hw ho hn ht hy
      exact goesOn_same hs (exec_waitc_reached (waitRead_ok hw ho hn ht) hy)
    case waitb =>
      intro hs hw ho hn ht hy hp
      exact goesOn_wp hs (exec_waitb_reached (waitRead_ok hw ho hn ht) hy hp)
    case sigc => exact fun hs ho => goesOn_addEff hs (exec_sigc_good ho)
    case bara => exact fun hs ho => goesOn_addEff hs (exec_bara_good ho)
  case config =>
    intro s s1 a b c n k st v cmd
    refine ⟨fun hs hy hroom => ⟨?load, ?switch, ?page⟩, fun hs ht hap hctx => ⟨fun hst => ?launch, ?prio, ?susp, ?resume, ?evict⟩⟩
    case load => exact goesOn_of_seqCfg hs (exec_cfgLoad ..) hy hroom
    case switch => exact goesOn_of_seqCfg hs (exec_cfgSwitch ..) hy hroom
    case page => exact goesOn_of_seqCfg hs (exec_cfgPage ..) hy hroom
    case launch => exact goesOn_of_seqCtx hs (exec_ctxLaunch ..) ht hap hctx fun _ => hst
    case prio => exact goesOn_of_seqCtx hs (exec_ctxPrio ..) ht hap hctx fun h => absurd h (by decide)
    case susp => exact goesOn_of_seqCtx hs (exec_ctxSusp ..) ht hap hctx fun h => absurd h (by decide)
    case resume => exact goesOn_of_seqCtx hs (exec_ctxResume ..) ht hap hctx fun h => absurd h (by decide)
    case evict => exact goesOn_of_seqCtx hs (exec_ctxEvict ..) ht hap hctx fun h => absurd h (by decide)

end Sys2Proof.Machine
end

section
/-! O17: a walk reads memory and its marks alone and ends in one of three ways; translation is the branch of the caches and of such an end, and a
reached home is then held against the ranges that its context has entered. -/
namespace Sys2Proof.Machine

/-! ### The homes that are ready (R25) -/

theorem homeReady_congr {s t : State} (hd : ∀ d, (t.die d).drdy = (s.die d).drdy) (hi : t.iods = s.iods) (k : Nat) : t.homeReady k = s.homeReady k := by
  simp only [State.homeReady, State.iod, hd, hi]

/-- A change of a die that leaves its ready register. -/
theorem homeReady_modDie (s : State) (d : Nat) {f : Die → Die} (hf : ∀ x, (f x).drdy = x.drdy) (k : Nat) :
    (s.modDie d f).homeReady k = s.homeReady k := by
  refine homeReady_congr (s := s) (t := s.modDie d f) (fun j => ?_) rfl k
  simp only [State.die, State.modDie_dies, Map.get_mod]
  split
  · next h => rw [hf, h]
  · rfl

@[simp] theorem homeReady_countDie (s : State) (d ev k : Nat) : (s.countDie d ev).homeReady k = s.homeReady k :=
  homeReady_modDie s d (f := fun x => x.count ev 1) (fun _ => rfl) k

@[simp] theorem homeReady_countHbm (s : State) (key : Nat) (w : Bool) (k : Nat) : (s.countHbm key w).homeReady k = s.homeReady k := by
  unfold State.countHbm
  split
  · exact homeReady_countDie ..
  · rfl

@[simp] theorem homeReady_touchLine (s : State) (key k : Nat) : (s.touchLine key).1.homeReady k = s.homeReady k := by
  unfold State.touchLine
  split
  any_goals rfl
  all_goals
    dsimp only
    split
    · exact homeReady_countDie ..
    · rfl

/-! ### What a walk reads (R119, R382) -/

section
variable {s t : State}

theorem countHbm_marks (s : State) (k : Nat) (w : Bool) : (s.countHbm k w).marks = s.marks := by
  unfold State.countHbm; split <;> rfl

/-- What a read of a line finds is its mark's. -/
theorem touchLine_found (h : t.marks = s.marks) (k : Nat) : (t.touchLine k).2 = (s.touchLine k).2 := by
  unfold State.touchLine State.mark
  rw [h]
  split <;> rfl

/-- A line found good keeps its mark. -/
theorem touchLine_marks {k : Nat} (h : (s.touchLine k).2 = 0) : (s.touchLine k).1.marks = s.marks := by
  unfold State.touchLine at h ⊢
  split at h
  case h_1 => rfl
  case h_2 | h_3 => dsimp only; split <;> rfl
  case h_4 | h_5 => contradiction

/-- A leaf entry at a level has the page size of that level and a page address aligned to it (R119). -/
def leafFits (e : DWord) (lvl : Nat) : Bool := match lvl, e.bits 15 14 with
  | 2, 2 => decide (e.bits 29 16 = 0)
  | 3, 1 => decide (e.bits 20 16 = 0)
  | 4, 0 => true
  | _, _ => false

/-- What an entry says at its level: the end of the walk, or the next table (R119). -/
def entrySays (e : DWord) (k lvl : Nat) : Except Nat LeafAt ⊕ Nat :=
  if !(e.getLsbD 0) then .inl (.error 2)
  else if e.getLsbD 1 then (if leafFits e lvl then .inl (.ok ⟨e, k, e.bits 15 14⟩) else .inl (.error 3))
  else if lvl ≥ 4 ∨ !(decide (lvl = 3) || decide (e.bits 51 8 * 256 % 4096 = 0)) ∨ !(populated 0 (e.bits 51 8 * 256)) then .inl (.error 3)
  else .inr (e.bits 51 8 * 256)

/-- An entry that ends the walk in a leaf is that leaf. -/
theorem leaf_of_entrySays {e : DWord} {k lvl : Nat} {l : LeafAt} (h : entrySays e k lvl = .inl (.ok l)) :
    l.leaf = e ∧ l.at_ = k ∧ e.getLsbD 0 = true ∧ e.getLsbD 1 = true := by
  unfold entrySays at h
  split at h
  · cases h
  · next valid =>
    split at h
    · next leaf =>
      split at h
      · cases h; exact ⟨rfl, rfl, by simpa using valid, leaf⟩
      · cases h
    · split at h <;> cases h

/-- One level of a walk: a damaged line ends it, else its entry says how it goes on. -/
theorem walkFrom_succ (s : State) (va : DWord) (n lvl table : Nat) :
    let k := hbm (entryAt table lvl va)
    let u := (s.touchLine k).1.countHbm k false
    walkFrom s va (n + 1) lvl table =
      if (s.touchLine k).2 ≠ 0 then ((s.touchLine k).1, .error 5)
      else (entrySays (s.rd64 k) k lvl).elim (fun r => (u, r)) (fun next => walkFrom u va n (lvl + 1) next) := by
  intro k u
  have entry : (s.touchLine k).1.rd64 k = s.rd64 k := by simp only [State.rd64, State.rd, touchLine_mem]
  rw [walkFrom]
  dsimp only
  rw [entry]
  unfold entrySays
  split
  · rfl
  · split
    · rfl
    · split
      · change (if leafFits (s.rd64 k) lvl = true then _ else _) = _
        split <;> rfl
      · split <;> rfl

/-- Where a walk ends is read from the bytes and marks of memory alone. -/
theorem walkFrom_congr (hm : t.mem = s.mem) (hk : t.marks = s.marks) (va : DWord) (n lvl table : Nat) :
    (walkFrom t va n lvl table).2 = (walkFrom s va n lvl table).2 := by
  induction n generalizing s t lvl table with
  | zero => rfl
  | succ n ih =>
    have found := touchLine_found hk (hbm (entryAt table lvl va))
    have entry : t.rd64 (hbm (entryAt table lvl va)) = s.rd64 (hbm (entryAt table lvl va)) := by simp only [State.rd64, State.rd, hm]
    rw [walkFrom_succ, walkFrom_succ, found, entry]
    split
    · rfl
    · next good =>
      have good := Decidable.not_not.mp good
      cases entrySays (s.rd64 (hbm (entryAt table lvl va))) (hbm (entryAt table lvl va)) lvl with
      | inl r => rfl
      | inr next =>
        refine ih ?mem ?marks ..
        case mem => simp only [countHbm_mem, touchLine_mem, hm]
        case marks => rw [countHbm_marks, countHbm_marks, touchLine_marks (found.trans good), touchLine_marks good, hk]

/-- The leaf that a walk ends in is the doubleword at its address, valid and a leaf. -/
theorem walkFrom_leaf {va : DWord} {n lvl table : Nat} {l : LeafAt} (h : (walkFrom s va n lvl table).2 = .ok l) :
    l.leaf = s.rd64 l.at_ ∧ l.leaf.getLsbD 0 = true ∧ l.leaf.getLsbD 1 = true := by
  induction n generalizing s lvl table with
  | zero => contradiction
  | succ n ih =>
    rw [walkFrom_succ] at h
    split at h
    · contradiction
    · cases hs : entrySays (s.rd64 (hbm (entryAt table lvl va))) (hbm (entryAt table lvl va)) lvl with
      | inl r =>
        rw [hs] at h
        obtain ⟨hl, ha, valid, leaf⟩ := leaf_of_entrySays (hs.trans (congrArg Sum.inl h))
        rw [hl, ha]
        exact ⟨rfl, valid, leaf⟩
      | inr next =>
        rw [hs] at h
        have below := ih h
        simpa only [State.rd64, State.rd, countHbm_mem, touchLine_mem] using below

@[simp] theorem homeReady_walkFrom (s : State) (va : DWord) (n lvl table k : Nat) :
    (walkFrom s va n lvl table).1.homeReady k = s.homeReady k := by
  induction n generalizing s lvl table with
  | zero => rfl
  | succ n ih =>
    rw [walkFrom_succ]
    split
    · exact homeReady_touchLine ..
    · cases entrySays (s.rd64 (hbm (entryAt table lvl va))) (hbm (entryAt table lvl va)) lvl with
      | inl r => simp
      | inr next => simp [ih]

end
/-! ### The verdict of a leaf (R117, R120, R121) -/

section
variable {leaf va : DWord} {acc : Access}

theorem leafVerdict_unpopulated (h : populated (leaf.bits 8 6) (keyPa (leafKey leaf va)) = false) : leafVerdict leaf va acc = .error (3, 4) := by
  simp [leafVerdict, h]

theorem leafVerdict_populated (h : populated (leaf.bits 8 6) (keyPa (leafKey leaf va)) = true) :
    leafVerdict leaf va acc = if leafPerm leaf acc = 0 then .ok (leafKey leaf va) else .error (4, leafPerm leaf acc) := by
  simp [leafVerdict, h]

/-- A leaf that permits an access gives its own home. -/
theorem leafVerdict_ok {k : Nat} (h : leafVerdict leaf va acc = .ok k) : k = leafKey leaf va := by
  unfold leafVerdict at h
  dsimp only at h
  split at h
  · cases h
  · split at h <;> cases h
    rfl

/-- A load or a fetch needs the leaf to be readable, a store to be writable. -/
theorem leafPerm_read (h : acc = .load ∨ acc = .fetch) : leafPerm leaf acc = if leaf.getLsbD 2 then 0 else 1 := by
  rcases h with rfl | rfl <;> rfl
theorem leafPerm_store : leafPerm leaf .store = if leaf.getLsbD 3 then 0 else 2 := rfl
/-- An atomic needs both, and through aperture 3 or 4 the leaf's atomics bit. -/
theorem leafPerm_atomic : leafPerm leaf .atomic =
    if !leaf.getLsbD 2 then 1 else if !leaf.getLsbD 3 then 2
    else if (leaf.bits 8 6 = 3 ∨ leaf.bits 8 6 = 4) ∧ leaf.getLsbD 9 = false then 3 else 0 := by
  simp [leafPerm]

end

/-! ### The end of a walk (R121, R124) -/

/-- The leaf as an access that it permits leaves it: accessed, and for a write dirty (R121). -/
def usedLeaf (leaf : DWord) (acc : Access) : DWord := leaf ||| 16#64 ||| (if accWrites acc then 32#64 else 0#64)

/-- A translation step from `s` leaves memory as `m`, answers `r`, and leaves as ready what was ready. -/
structure State.Answers (s : State) (p : State × Except (Nat × Nat) Nat) (m : List Host.Cell) (r : Except (Nat × Nat) Nat) : Prop where
  mem : p.1.mem = m
  ready : ∀ k, p.1.homeReady k = s.homeReady k
  answer : p.2 = r

section
variable {s : State} {c : Nat} {ag : Bool} {root va : DWord} {acc : Access} {l : LeafAt}

/-- The walk of an access runs with events counted, which it does not read (R341). -/
theorem walk_run (s : State) (c : Nat) (ag : Bool) (root va : DWord) :
    let s0 := (s.count c (if ag then 0x32 else 0x33) s.cur.ctx).modDie (dieOf c) fun x => (x.count 0x100 1).count 0x101 (Config.waited s.tick)
    ∃ s1, walkFrom s0 va 5 1 root.toNat = (s1, (walkFrom s va 5 1 root.toNat).2) ∧ s1.mem = s.mem ∧ ∀ k, s1.homeReady k = s.homeReady k := by
  intro s0
  refine ⟨(walkFrom s0 va 5 1 root.toNat).1, Prod.ext rfl (walkFrom_congr (s := s) (t := s0) rfl rfl ..), walkFrom_mem .., fun k => ?_⟩
  rw [homeReady_walkFrom]
  exact homeReady_modDie (s.count c (if ag then 0x32 else 0x33) s.cur.ctx) (dieOf c)
    (f := fun x => (x.count 0x100 1).count 0x101 (Config.waited s.tick)) (fun _ => rfl) k

/-- A walk that meets a missing, malformed or damaged entry is XLATE with its detail. -/
theorem walk_error {d : Nat} (h : (walkFrom s va 5 1 root.toNat).2 = .error d) : s.Answers (s.walk c ag root va acc) s.mem (.error (3, d)) := by
  obtain ⟨s1, hw, mem, ready⟩ := walk_run s c ag root va
  rw [h] at hw
  unfold State.walk
  dsimp only
  rw [hw]
  exact ⟨mem, ready, rfl⟩

/-- A walk that ends in a leaf which refuses the access. -/
theorem walk_refused {e : Nat × Nat} (h : (walkFrom s va 5 1 root.toNat).2 = .ok l) (hv : leafVerdict l.leaf va acc = .error e) :
    s.Answers (s.walk c ag root va acc) s.mem (.error e) := by
  obtain ⟨s1, hw, mem, ready⟩ := walk_run s c ag root va
  rw [h] at hw
  unfold State.walk
  dsimp only
  rw [hw]
  dsimp only
  rw [hv]
  exact ⟨mem, ready, rfl⟩

/-- A walk that ends in a leaf which permits it writes the leaf's a and d bits, where they change. -/
theorem walk_permitted {k : Nat} (h : (walkFrom s va 5 1 root.toNat).2 = .ok l) (hv : leafVerdict l.leaf va acc = .ok k) :
    s.Answers (s.walk c ag root va acc)
      (if usedLeaf l.leaf acc = l.leaf then s.mem else (s.wr64 l.at_ (usedLeaf l.leaf acc)).mem) (.ok k) := by
  obtain ⟨s1, hw, mem, ready⟩ := walk_run s c ag root va
  rw [h] at hw
  unfold State.walk
  dsimp only
  rw [hw]
  dsimp only
  rw [hv]
  change s.Answers ((if usedLeaf l.leaf acc = l.leaf then s1 else (s1.wr64 l.at_ (usedLeaf l.leaf acc)).countHbm l.at_ true).modCluster c _, .ok k) _ _
  split
  · exact ⟨mem, ready, rfl⟩
  · refine ⟨?_, fun j => (homeReady_countHbm ..).trans (ready j), rfl⟩
    simp only [State.modCluster_mem, countHbm_mem, State.wr64_mem, mem]

/-! ### Look-up and translation (R25, R119, R124) -/

/-- The cached leaf that an access hits. -/
def State.cached (s : State) (c : Nat) (ag : Bool) (root va : DWord) : Option Tlb :=
  (if ag then (s.cluster c).agTlb else (s.cluster c).seqTlb).find? fun t => t.hits root va

/-- A canonical access walks where no cached leaf covers it, or where it is the first write under one (R121, R124). -/
def State.Walks (s : State) (c : Nat) (ag : Bool) (root va : DWord) (acc : Access) : Prop :=
  canonical va = true ∧ ∀ x, s.cached c ag root va = some x → accWrites acc = true ∧ x.leaf.getLsbD 3 = true ∧ x.leaf.getLsbD 5 = false

theorem lookup_noncanonical (h : canonical va = false) : s.lookup c ag root va acc = (s, .error (3, 1)) := by
  simp [State.lookup, h]

theorem lookup_walks (h : s.Walks c ag root va acc) : s.lookup c ag root va acc = s.walk c ag root va acc := by
  obtain ⟨hc, hx⟩ := h
  unfold State.lookup
  unfold State.cached at hx
  simp only [hc, Bool.not_true, Bool.false_eq_true, if_false]
  split
  · next t ht =>
    obtain ⟨hw, h3, h5⟩ := hx t ht
    simp only [hw, h3, h5, Bool.not_false, Bool.and_self, if_true]
  · rfl

/-- A hit that needs no walk answers by its leaf alone. -/
theorem lookup_hit {t : Tlb} (hc : canonical va = true) (ht : s.cached c ag root va = some t)
    (hn : ¬(accWrites acc = true ∧ t.leaf.getLsbD 3 = true ∧ t.leaf.getLsbD 5 = false)) :
    s.lookup c ag root va acc = (s, leafVerdict t.leaf va acc) := by
  unfold State.cached at ht
  unfold State.lookup
  simp only [hc, ht, Bool.not_true, Bool.false_eq_true, if_false]
  exact if_neg (by simpa [and_assoc] using hn)

theorem lookup_of_not_walks (h : ¬s.Walks c ag root va acc) : (s.lookup c ag root va acc).1 = s := by
  by_cases hc : canonical va = true
  · obtain ⟨x, hx, hn⟩ : ∃ x, s.cached c ag root va = some x ∧
        ¬(accWrites acc = true ∧ x.leaf.getLsbD 3 = true ∧ x.leaf.getLsbD 5 = false) := by
      simpa [State.Walks, hc] using h
    rw [lookup_hit hc hx hn]
  · rw [lookup_noncanonical (Bool.eq_false_iff.mpr hc)]

section
variable (hr : s.homeReady (hbm root.toNat) = true)
include hr

theorem translate_of_error {s1 : State} {e : Nat × Nat} (h : s.lookup c ag root va acc = (s1, .error e)) :
    s.translate c ag root va acc = (s1, .error e) := by
  simp [State.translate, hr, h]

theorem translate_of_ok {s1 : State} {k : Nat} (h : s.lookup c ag root va acc = (s1, .ok k)) :
    s.translate c ag root va acc = (s1, if s1.homeReady k then .ok k else .error (0, 0)) := by
  unfold State.translate
  simp only [hr, h, Bool.not_true, Bool.false_eq_true, if_false]
  split <;> rfl

variable {m : List Host.Cell} {t : State} {r : Except (Nat × Nat) Nat}

/-- A look-up that ends in an error. -/
theorem translate_answers_error {e : Nat × Nat} (h : s.Answers (s.lookup c ag root va acc) m (.error e))
    (ht : s.translate c ag root va acc = (t, r)) : t.mem = m ∧ r = .error e := by
  obtain ⟨mem, _, answer⟩ := h
  obtain ⟨rfl, rfl⟩ := Prod.mk.inj ((translate_of_error hr (Prod.ext rfl answer)).symm.trans ht)
  exact ⟨mem, rfl⟩

/-- A look-up that ends in a home waits for it. -/
theorem translate_answers_ok {k : Nat} (h : s.Answers (s.lookup c ag root va acc) m (.ok k))
    (ht : s.translate c ag root va acc = (t, r)) : t.mem = m ∧ r = if s.homeReady k then .ok k else .error (0, 0) := by
  obtain ⟨mem, ready, answer⟩ := h
  obtain ⟨rfl, rfl⟩ := Prod.mk.inj ((translate_of_ok hr (Prod.ext rfl answer)).symm.trans ht)
  exact ⟨mem, by rw [← ready]⟩

end

/-- Translation leaves the state of its look-up, or waits before it. -/
theorem translate_fst (s : State) (c : Nat) (ag : Bool) (root va : DWord) (acc : Access) :
    (s.translate c ag root va acc).1 = if s.homeReady (hbm root.toNat) then (s.lookup c ag root va acc).1 else s := by
  by_cases hr : s.homeReady (hbm root.toNat) = true
  · rw [if_pos hr]
    cases answer : (s.lookup c ag root va acc).2 with
    | error e => rw [translate_of_error hr (Prod.ext rfl answer)]
    | ok k => rw [translate_of_ok hr (Prod.ext rfl answer)]
  · rw [if_neg hr, translate_waits (Bool.eq_false_iff.mpr hr)]

end

/-! ### Ranges that a context has entered (R143, R355, R388) -/

/-- The bytes of a range meet n bytes at an address. -/
theorem Held.meets_iff (r : Held) (va n : Nat) : r.meets va n = true ↔ r.lo < r.hi ∧ va < r.hi ∧ r.lo < va + n := by
  simp [Held.meets, and_assoc]

theorem Ctx.entered_iff (x : Ctx) (va n : Nat) : x.entered va n = true ↔ ∃ r ∈ x.ranges, r.lo < r.hi ∧ va < r.hi ∧ r.lo < va + n := by
  simp only [Ctx.entered, List.any_eq_true, Held.meets_iff]

theorem Ctx.enteredBut_iff (x : Ctx) (owner va n : Nat) :
    x.enteredBut owner va n = true ↔ ∃ r ∈ x.ranges, r.owner ≠ owner ∧ r.lo < r.hi ∧ va < r.hi ∧ r.lo < va + n := by
  simp only [Ctx.enteredBut, List.any_eq_true, Bool.and_eq_true, decide_eq_true_eq, Held.meets_iff]

section
variable {s t : State} {x : Ctx} {va : DWord} {acc : Access} {c k n slot : Nat}

theorem access_of_translate (ha : va.toNat % n = 0)
    (ht : s.translate s.cur.cluster false (s.rootAt s.cur.cluster s.cur.ctx) va acc = (t, .ok k)) (hx : t.ctxAt t.cur.cluster t.cur.ctx = some x) :
    s.access va n acc = if x.entered va.toNat n then (t, .error (5, 1)) else (t, .ok k) := by
  simp [State.access, ha, ht, hx]

section
variable (ht : s.translate c true (s.rootAt c slot) va acc = (t, .ok k)) (hx : t.ctxAt c slot = some x)
include ht hx

theorem agHome_of_translate (n : Nat) : s.agHome c slot va n acc = if x.entered va.toNat n then (t, .error (5, 2)) else (t, .ok k) := by
  simp [State.agHome, ht, hx]

theorem engHome_of_translate (owner n : Nat) :
    s.engHome c slot owner va n acc = if x.enteredBut owner va.toNat n then (t, .error (5, 2)) else (t, .ok k) := by
  simp [State.engHome, ht, hx]

end
end

/-- An answer that turns on whether some member meets a condition, read both ways. -/
theorem ite_exists_mem {α β : Type} {l : List α} {p : α → Prop} {b : Bool} {u v w : β} (hb : b = true ↔ ∃ r ∈ l, p r)
    (hu : u = if b then v else w) : ((∃ r ∈ l, p r) → u = v) ∧ ((∀ r ∈ l, ¬p r) → u = w) :=
  ⟨fun h => by rw [hu, if_pos (hb.mpr h)],
   fun h => by rw [hu, if_neg fun h' => let ⟨r, hr, hp⟩ := hb.mp h'; h r hr hp]⟩

/-- Canonical, by the bits that must be equal (R119). -/
theorem canonical_iff (va : DWord) : canonical va = true ↔ va.bits 63 47 = 0 ∨ va.bits 63 47 = 2 ^ 17 - 1 := by
  have high : va.toNat >>> 47 < 2 ^ 17 := by
    rw [Nat.shiftRight_eq_div_pow]
    exact Nat.div_lt_of_lt_mul va.isLt
  have bits : va.bits 63 47 = va.toNat >>> 47 := Nat.mod_eq_of_lt high
  simp [canonical, bits]

/-- Settles O17: the answer is that of the cache or of the walk's end, and memory changes at the leaf alone. -/
theorem translationOutcome : Obligations.TranslationOutcome := by
  intro s c ag root va acc
  refine ⟨canonical_iff va, translate_waits, fun hr hc => translate_of_error hr (lookup_noncanonical hc), ?hit, ?leaf, ?walk, ?ranges⟩
  case hit =>
    intro t hr hc ht ha
    have marked : ¬(accWrites acc = true ∧ t.leaf.getLsbD 3 = true ∧ t.leaf.getLsbD 5 = false) := by
      rintro ⟨hw, -, hd⟩
      rcases ha with h | rfl | rfl
      · exact Bool.eq_false_iff.mp hd h
      all_goals exact Bool.false_ne_true hw
    have found := lookup_hit hc ht marked
    refine ⟨fun k hk => ?_, fun e he => ?_⟩
    · exact translate_of_ok hr (hk ▸ found)
    · exact translate_of_error hr (he ▸ found)
  case leaf =>
    intro leaf
    dsimp only
    refine ⟨leafVerdict_unpopulated, fun hp => ⟨fun h => ?read, fun h => ?store, fun h => ?atomic⟩⟩
    case read =>
      rw [leafVerdict_populated hp, leafPerm_read h]
      cases leaf.getLsbD 2 <;> rfl
    case store =>
      rw [leafVerdict_populated hp, h, leafPerm_store]
      cases leaf.getLsbD 3 <;> rfl
    case atomic =>
      rw [leafVerdict_populated hp, h, leafPerm_atomic]
      cases leaf.getLsbD 2
      · rfl
      · cases leaf.getLsbD 3
        · rfl
        · by_cases far : (leaf.bits 8 6 = 3 ∨ leaf.bits 8 6 = 4) ∧ leaf.getLsbD 9 = false
          · simp only [if_pos far]; rfl
          · simp only [if_neg far]; rfl
  case walk =>
    intro t r ht hit walks
    refine ⟨fun stays => ?kept, fun ⟨hr, hc, hx⟩ => ?walked⟩
    case kept =>
      have left : t = if s.homeReady (hbm root.toNat) then (s.lookup c ag root va acc).1 else s := by
        simpa only [ht] using translate_fst s c ag root va acc
      split at left
      · next hr => rw [left, lookup_of_not_walks fun h => stays ⟨hr, h⟩]
      · rw [left]
    case walked =>
      have walked : s.lookup c ag root va acc = s.walk c ag root va acc := lookup_walks ⟨hc, hx⟩
      cases hw : (walkFrom s va 5 1 root.toNat).2 with
      | error d => exact translate_answers_error hr (walked ▸ walk_error hw) ht
      | ok l =>
        obtain ⟨there, valid, leaf⟩ := walkFrom_leaf hw
        refine ⟨there, valid, leaf, ?_⟩
        cases hv : leafVerdict l.leaf va acc with
        | error e => exact translate_answers_error hr (walked ▸ walk_refused hw hv) ht
        | ok k =>
          obtain ⟨mem, answer⟩ := translate_answers_ok hr (walked ▸ walk_permitted hw hv) ht
          exact ⟨mem, leafVerdict_ok hv, answer⟩
  case ranges =>
    intro x n k slot owner t hit
    refine ⟨fun ha ht hx => ?_, fun ht hx => ?_⟩
    · exact ite_exists_mem (x.entered_iff ..) (access_of_translate ha ht hx)
    · obtain ⟨met, clear⟩ := ite_exists_mem (x.enteredBut_iff ..) (engHome_of_translate ht hx owner n)
      obtain ⟨met', clear'⟩ := ite_exists_mem (x.entered_iff ..) (agHome_of_translate ht hx n)
      exact ⟨met', clear', met, fun h => clear fun r hr hh => h r hr hh.1 hh.2⟩

end Sys2Proof.Machine
end

section
/-! O40: the tag table, tile and ring operations need A alone, and but for til.query and til.drain each ends in one lane; those ends are read once,
and each operation is the branch that its premises select. -/
namespace Sys2Proof.Machine

/-! ### Firings on A, and the one-lane end -/

/-- The firing of a one-lane result: DENSE, in a given colour and tag (R293, R294). -/
def oneLane (a : Token) (col : BitVec 6) (tag : BitVec 12) (st : State) (n : Nat) : FireOk :=
  { st := st, outs := [(0, { a with kind := kDense, colour := col, tag := tag, lanes := [BitVec.ofNat 32 n] })] }

/-- The firing that leaves its cluster as `y`, with the upper half of tile t's entry there as its lane (R294). -/
def changedTile (s : State) (f : Firing) (a : Token) (col : BitVec 6) (tag : BitVec 12) (t : Nat) (y : Cluster) : FireOk :=
  oneLane a col tag (s.modCluster f.c fun _ => y) ((y.tile t).bits 63 32)

section
variable {s : State} {f : Firing} {e : Elem} {a : Token} {i : Instr} {g : State → Firing → Token → Res}

theorem withA_some (ha : f.a = some a) (h : Token → Res) : withA f h = h a := by
  unfold withA; rw [ha]

/-- An operation on A that has a result fires with it. -/
theorem fires_of_withA {r : FireOk} (h : s.CanFire f e) (ha : f.a = some a) (hi : exec i s = fire s fun s f => withA f (g s f))
    (hg : g s f a = .ok r) : Fires s i f r :=
  fires_of h hi ((withA_some ha _).trans hg)

/-- An operation on A that holds its operands begins a run. -/
theorem begins_of_withA {t : State} (h : s.CanFire f e) (ha : f.a = some a) (hi : exec i s = fire s fun s f => withA f (g s f))
    (hg : g s f a = .hold t) : Begins s i t :=
  begins_of h hi ((withA_some ha _).trans hg)

variable {k : Nat} {col : BitVec 6} {tag : BitVec 12}

/-- A one-lane end whose colour is allocated. -/
theorem meLane_granted (hc : s.meColour f a k 1 = some (col, tag)) (st : State) (n : Nat) :
    meLane s f a k st n = .ok (oneLane a col tag st n) := by
  unfold meLane; rw [hc]; rfl

/-- The change of a tile's entry, where its use is legal. -/
theorem tilDone_some (hc : s.meColour f a k 1 = some (col, tag)) (t : Nat) (y : Cluster) :
    tilDone s f a k t (some y) = .ok (changedTile s f a col tag t y) :=
  meLane_granted hc _ _

end

/-! ### The tag table (R115, R293) -/

section
variable {s : State} {f : Firing} {e : Elem} {w : MeW} {a : Token} {col : BitVec 6} {tag : BitVec 12}
variable (h : s.CanFire f e) (ha : f.a = some a) (hc : s.meColour f a w.k.toNat 1 = some (col, tag))
include h ha hc

theorem fires_ttbLook : Fires s (.ttbLook w) f (oneLane a col tag
    (s.countLookup f.c f.k ((s.cluster f.c).tagFind f.k (keyOf a)).isNone) ((s.cluster f.c).tagLook f.k (keyOf a))) :=
  fires_of_withA h ha rfl (meLane_granted hc _ _)

theorem fires_ttbIns {p : Cluster × Nat}
    (hp : (s.cluster f.c).tagInsert f.k (keyOf a) ((a.lane 2).toNat % 4096) ((a.lane 2).toNat / 4096 % 2) = p) :
    Fires s (.ttbIns w) f (oneLane a col tag (s.modCluster f.c fun _ => p.1) p.2) := by
  subst hp; exact fires_of_withA h ha rfl (meLane_granted hc _ _)

theorem fires_ttbEvict_none (hf : (s.cluster f.c).tagFind f.k (keyOf a) = none) :
    Fires s (.ttbEvict w) f (oneLane a col tag s 0xFFF) := by
  refine fires_of_withA h ha rfl ?_
  simp only [hf, meLane_granted hc]

theorem fires_ttbEvict_some {i : Nat} (hf : (s.cluster f.c).tagFind f.k (keyOf a) = some i) :
    Fires s (.ttbEvict w) f (oneLane a col tag (s.modCluster f.c fun x => { x with tags := x.tags.del i })
      (DWord.bits ((s.cluster f.c).tags.get 0 i) 59 48 + 4096 * DWord.bits ((s.cluster f.c).tags.get 0 i) 62 62)) := by
  refine fires_of_withA h ha rfl ?_
  simp only [hf, meLane_granted hc]

theorem fires_ttbFill_full (hf : (s.cluster f.c).tagPlace f.k (keyOf a) = none) : Fires s (.ttbFill w) f (oneLane a col tag s 0xFFF) := by
  refine fires_of_withA h ha rfl ?_
  simp only [hf, Option.isNone_none, if_true, meLane_granted hc]

end

/-! ### Tiles and rings (R112, R113, R294) -/

/-- With wk a push also writes the ring's keep (R113). -/
def Cluster.keepRing (x : Cluster) (r : Nat) (keep : Bool) : Cluster :=
  { x with rings := Map.put 0 x.rings r ((x.ring r &&& 0x7FFFFFFF#32) ||| (if keep then 0x80000000#32 else 0)) }

section
variable {s : State} {f : Firing} {e : Elem} {w : MeW} {a : Token} {col : BitVec 6} {tag : BitVec 12}
variable (h : s.CanFire f e) (ha : f.a = some a)
include h ha

section
variable (hc : s.meColour f a w.k.toNat 1 = some (col, tag)) (ho : s.ownsTile f.c f.k (tilTile a) = true)
include hc

section
include ho

/-- A narrow A changes the state alone. -/
theorem fires_tilSetf_state (hs : tileState ((s.cluster f.c).tile (tilTile a)) = tEmpty) (hw : a.width < 2) :
    Fires s (.tilSetf w) f (changedTile s f a col tag (tilTile a)
      ((s.cluster f.c).setTile (tilTile a) (setField ((s.cluster f.c).tile (tilTile a)) 63 62 tFilling))) := by
  refine fires_of_withA h ha rfl ?_
  simp [ho, hs, Nat.not_le.mpr hw, tilDone_some hc]

/-- A of two lanes writes the tile's place first, which lies in the share. -/
theorem fires_tilSetf_place {en : TileE} (hn : setField ((s.cluster f.c).tile (tilTile a)) 59 34 ((a.lane 1).toNat % 2 ^ 26) = en)
    (hs : tileState ((s.cluster f.c).tile (tilTile a)) = tEmpty) (hw : 2 ≤ a.width)
    (hp : (s.spAddr f.c f.k (tileMe en) (tileOff en) (tileLen en)).isSome = true) :
    Fires s (.tilSetf w) f (changedTile s f a col tag (tilTile a) ((s.cluster f.c).setTile (tilTile a) (setField en 63 62 tFilling))) := by
  refine fires_of_withA h ha rfl ?_
  have inShare := Option.isNone_eq_false_iff.mpr hp
  simp only [ho, hs, hw, hn, inShare, ne_eq, not_true_eq_false, decide_false, Bool.not_true, Bool.or_self, Bool.false_eq_true, and_false,
    if_true, if_false, tilDone_some hc]

theorem fires_tilReady (hs : tileState ((s.cluster f.c).tile (tilTile a)) = tFilling) :
    Fires s (.tilReady w) f (changedTile s f a col tag (tilTile a) ((s.cluster f.c).tileTo (tilTile a) tReady)) := by
  refine fires_of_withA h ha rfl ?_
  simp [ho, hs, tilDone_some hc]

theorem fires_tilEmpty (hu : (s.cluster f.c).tileUse.get 0 (tilTile a) = 0) :
    Fires s (.tilEmpty w) f (changedTile s f a col tag (tilTile a) ((s.cluster f.c).emptyTile (tilTile a))) := by
  refine fires_of_withA h ha rfl ?_
  simp [ho, hu, tilDone_some hc]

/-- A push of a tile that is in no ring, to the tail of a ring of the context. -/
theorem fires_tilPush (hr : s.ownsRing f.c f.k (tilRing a) = true)
    (hs : tileState ((s.cluster f.c).tile (tilTile a)) = tReady ∨ tileState ((s.cluster f.c).tile (tilTile a)) = tFilling)
    (hi : tileInRing ((s.cluster f.c).tile (tilTile a)) = false) {y : Cluster}
    (hy : (s.cluster f.c).setMembers (tilRing a) ((s.cluster f.c).members (tilRing a) ++ [tilTile a]) = y) :
    Fires s (.tilPush w) f (changedTile s f a col tag (tilTile a)
      (if (a.lane 0).getLsbD 12 then y.keepRing (tilRing a) ((a.lane 0).getLsbD 13) else y)) := by
  subst hy
  have hs' : (decide (tileState ((s.cluster f.c).tile (tilTile a)) = tReady) ||
      decide (tileState ((s.cluster f.c).tile (tilTile a)) = tFilling)) = true := by simpa using hs
  refine fires_of_withA h ha rfl ?_
  simp only [ho, hr, hs', hi, Bool.not_false, Bool.and_self, if_true]
  exact tilDone_some hc _ _

end

theorem fires_tilPop {u : Nat} {rest : List Nat} (hr : s.ownsRing f.c f.k (tilRing a) = true)
    (hm : (s.cluster f.c).members (tilRing a) = u :: rest) :
    Fires s (.tilPop w) f (changedTile s f a col tag u ((s.cluster f.c).setMembers (tilRing a) rest)) := by
  refine fires_of_withA h ha rfl ?_
  simp only [hm, hr, if_true]
  exact tilDone_some hc _ _

end

theorem fires_tilQuery (hc : s.meColour f a w.k.toNat 3 = some (col, tag)) (ho : s.ownsTile f.c f.k (tilTile a) = true)
    (hr : s.ownsRing f.c f.k (tilRing a) = true) {en : TileE} (hn : (s.cluster f.c).tile (tilTile a) = en) :
    Fires s (.tilQuery w) f
      { st := s, outs := [(0, { a with
          kind := kDense, colour := col, tag := tag,
          lanes := [en.extractLsb' 0 32, en.extractLsb' 32 32, (s.cluster f.c).ring (tilRing a)] })] } := by
  subst hn
  refine fires_of_withA h ha rfl ?_
  simp [ho, hr, hc]

/-- A drain begins where no run of the slot holds its operands. -/
theorem begins_tilDrain (ho : s.ownsTile f.c f.k (tilTile a) = true) (hs : tileState ((s.cluster f.c).tile (tilTile a)) = tReady)
    (hh : e.holdsFor f.slot = false) :
    Begins s (.tilDrain w)
      (((s.modCluster f.c fun x => (x.useTile (tilTile a)).tileTo (tilTile a) tDraining).countMe f.c f.k).addRun f
        { desc := 16 + tilTile a, slot := f.slot, base := 0, a := f.a, ent := f.ent, holds := true, z := 64 }) := by
  refine begins_of_withA h ha rfl ?_
  simp [elemOf_eq h, hh, ho, hs]

end

/-- Settles O40: each operation is the branch of its meaning that its premises select. -/
theorem tableResults : Obligations.TableResults := by
  refine ⟨?tags, ?tiles⟩
  case tags =>
    intro s f e w a col tag h ha x key v lane hc
    refine ⟨?look, ?insert, ?evictMiss, ?evictHit, ?fill⟩
    case look => exact fires_ttbLook h ha hc
    case insert => exact fires_ttbIns h ha hc rfl
    case evictMiss => exact fires_ttbEvict_none h ha hc
    case evictHit => exact fun i hf => fires_ttbEvict_some h ha hc hf
    case fill => exact fires_ttbFill_full h ha hc
  case tiles =>
    intro s f e w a col tag h ha t r x en done
    refine ⟨fun hc => ⟨fun ho => ⟨fun hs => ⟨?setState, ?setPlace⟩, ?ready, ?empty, fun hr hs hi => ⟨?push, ?pushKeep⟩⟩, ?pop⟩, ?query, ?drain⟩
    case setState => exact fires_tilSetf_state h ha hc ho hs
    case setPlace => exact fires_tilSetf_place h ha hc ho rfl hs
    case ready => exact fires_tilReady h ha hc ho
    case empty => exact fires_tilEmpty h ha hc ho
    case push =>
      intro hk
      have pushed := fires_tilPush h ha hc ho hr hs hi rfl
      rwa [if_neg (Bool.eq_false_iff.mp hk)] at pushed
    case pushKeep =>
      intro hk
      have pushed := fires_tilPush h ha hc ho hr hs hi rfl
      rwa [if_pos hk] at pushed
    case pop => exact fun u rest hr hm => fires_tilPop h ha hc hr hm
    case query => exact fun hc ho hr => fires_tilQuery h ha hc ho hr rfl
    case drain => exact begins_tilDrain h ha

end Sys2Proof.Machine
end

section
/-! O23: a load, a store and an atomic end in one of three shared forms; each is read once under the premises of a good access, and each
instruction is its form. -/
namespace Sys2Proof.Machine

/-! ### The forms -/

theorem extend_signed (n v : Nat) : extend true n v = BitVec.ofInt 64 (signedOf n v) := rfl
theorem extend_unsigned (n v : Nat) : extend false n v = BitVec.ofNat 64 (v % 2 ^ n) := rfl

section
variable {s s1 s2 : State} {o : Out} {d a b : BitVec 6} {va : DWord} {k : Nat}

/-- A load writes what the block view holds, extended, and enters the ring entry of its kind (R205, R342). -/
theorem goesOn_of_seqLoad {sz v kind : Nat} {x : DWord} {signed t : Bool} (hs : s1.CanAdvance) (ho : o = seqLoad s d va sz signed t kind)
    (hv : s.loadView va (2 ^ sz) .load = (s1, .ok v)) (hx : extend signed (8 * 2 ^ sz) v = x) :
    GoesOn s1 o ((s1.me.wr d x t).addEff (.load va kind (2 ^ sz))) := by
  subst hx
  exact goesOn_of_seqPure (f := fun st => (st.wr d (extend signed (8 * 2 ^ sz) v) t).addEff (.load va kind (2 ^ sz))) hs
    (by simp only [ho, seqLoad, hv]) rfl

/-- A store enters the buffer with its home and the register as the access leaves it (R205). -/
theorem goesOn_of_seqStore {sz : Nat} {rel : Bool} (hs : s1.CanAdvance) (ho : o = seqStore s d va sz rel)
    (hk : s.access va (2 ^ sz) .store = (s1, .ok k)) :
    GoesOn s1 o (s1.me.addEff (.store va k (2 ^ sz) (s1.me.view.rs d) rel)) :=
  goesOn_of_seqPure (f := fun st => st.addEff (.store va k (2 ^ sz) (st.view.rs d) rel)) hs (by simp only [ho, seqStore, hk]) rfl

/-- What an atomic enters in the buffer: its operands in its size, the rounding that it captures, and the taint of its old value (R133, R208). -/
def State.amoEff (s : State) (d a b : BitVec 6) (fn k n : Nat) (t : Bool) : Eff :=
  let v := s.me.view
  .amo fn (v.rs a) k n d (BitVec.ofNat 64 ((v.rs b).toNat % 2 ^ (8 * n))) (BitVec.ofNat 64 ((v.rs d).toNat % 2 ^ (8 * n)))
    (BitVec.ofNat 2 (v.fpcr.toNat % 4)) v.ftz t

/-- The line of an atomic's home is good; another node's home answers for its own at the commit (R383, R392). -/
def LineGood (s1 s2 : State) (k n : Nat) : Prop := isFar k = false ∧ s1.touch k n = (s2, 0) ∨ isFar k = true ∧ s2 = s1

section
variable {fn n : Nat} (hs : s2.CanAdvance) (ho : o = seqAmo s fn d a b n) (hk : s.access (s.me.view.rs a) n .atomic = (s1, .ok k))
  (hl : LineGood s1 s2 k n)
include hs ho hk hl

/-- An atomic whose access and line are good enters the buffer. -/
theorem goesOn_of_seqAmo : GoesOn s2 o (s2.me.addEff
    (s.amoEff d a b fn k n (s.me.view.taintOf a || s.me.view.taintOf b || (decide (fn = 9) && s.me.view.taintOf d)))) := by
  have line : (if isFar k then (s1, 0) else s1.touch k n) = (s2, 0) := by
    rcases hl with ⟨near, found⟩ | ⟨far, rfl⟩
    · rw [near]; exact found
    · rw [far]; rfl
  exact goesOn_addEff hs (by simp only [ho, seqAmo, hk, line]; rfl)

/-- Every function but compare-and-swap reads two operands. -/
theorem goesOn_of_seqAmo_binary (hfn : fn ≠ 9) :
    GoesOn s2 o (s2.me.addEff (s.amoEff d a b fn k n (s.me.view.taintOf a || s.me.view.taintOf b))) := by
  have goes := goesOn_of_seqAmo hs ho hk hl
  rwa [decide_eq_false hfn, Bool.false_and, Bool.or_false] at goes

end
end

/-! ### The form of each instruction (Table 10.4) -/

section
variable (s : State) (d a b : BitVec 6)

section
variable (sz c : BitVec 2) (z : BitVec 1) (o : BitVec 12) (o10 : BitVec 10)

theorem exec_ld : exec (.ld d a sz o) s = seqLoad s d (memAddr s.me.view a o sz.toNat) sz.toNat true (s.me.view.taintOf a) 0 := rfl
theorem exec_ldn : exec (.ldn d a sz o) s = seqLoad s d (memAddr s.me.view a o sz.toNat) sz.toNat false (s.me.view.taintOf a) 0 := rfl
theorem exec_lda : exec (.lda d a sz c o10) s = seqLoad s d (memAddr s.me.view a o10 sz.toNat) sz.toNat true (s.me.view.taintOf a) 4 := rfl
theorem exec_ldc : exec (.ldc d a z o) s = seqLoad s d (memAddr s.me.view a o (2 + z.toNat)) (2 + z.toNat) true true 3 := rfl
theorem exec_st : exec (.st d a sz o) s = seqStore s d (memAddr s.me.view a o sz.toNat) sz.toNat false := rfl
theorem exec_stl : exec (.stl d a sz c o10) s = seqStore s d (memAddr s.me.view a o10 sz.toNat) sz.toNat true := rfl

end

section
variable (c : BitVec 2) (z o : BitVec 1)

theorem exec_amoAdd : exec (.amoAdd d a b c z o) s = seqAmo s 0 d a b (4 + 4 * z.toNat) := rfl
theorem exec_amoAnd : exec (.amoAnd d a b c z o) s = seqAmo s 1 d a b (4 + 4 * z.toNat) := rfl
theorem exec_amoOr : exec (.amoOr d a b c z o) s = seqAmo s 2 d a b (4 + 4 * z.toNat) := rfl
theorem exec_amoXor : exec (.amoXor d a b c z o) s = seqAmo s 3 d a b (4 + 4 * z.toNat) := rfl
theorem exec_amoMin : exec (.amoMin d a b c z o) s = seqAmo s 4 d a b (4 + 4 * z.toNat) := rfl
theorem exec_amoMax : exec (.amoMax d a b c z o) s = seqAmo s 5 d a b (4 + 4 * z.toNat) := rfl
theorem exec_amoMinn : exec (.amoMinn d a b c z o) s = seqAmo s 6 d a b (4 + 4 * z.toNat) := rfl
theorem exec_amoMaxn : exec (.amoMaxn d a b c z o) s = seqAmo s 7 d a b (4 + 4 * z.toNat) := rfl
theorem exec_amoSwap : exec (.amoSwap d a b c z o) s = seqAmo s 8 d a b (4 + 4 * z.toNat) := rfl
theorem exec_amoCas : exec (.amoCas d a b c z o) s = seqAmo s 9 d a b (4 + 4 * z.toNat) := rfl
theorem exec_amoFadd : exec (.amoFadd d a b c o) s = seqAmo s 10 d a b 4 := rfl

end
end

/-- Settles O23: each instruction is its form, and compare-and-swap alone takes the taint of its destination. -/
theorem memoryInstructionResults : Obligations.MemoryInstructionResults := by
  refine ⟨?loads, ?stores, ?atomics⟩
  case loads =>
    intro s s1 d a sz c z o o10 va v st t hs
    refine ⟨fun hva hv => ⟨?ld, ?ldn⟩, fun hva hv => ?lda, fun hva hv => ?ldc⟩ <;> subst hva
    case ld => exact goesOn_of_seqLoad hs (exec_ld ..) hv (extend_signed ..)
    case ldn => exact goesOn_of_seqLoad hs (exec_ldn ..) hv (extend_unsigned ..)
    case lda => exact goesOn_of_seqLoad hs (exec_lda ..) hv (extend_signed ..)
    case ldc => exact goesOn_of_seqLoad hs (exec_ldc ..) hv (extend_signed ..)
  case stores =>
    intro s s1 d a sz c o o10 va k hs hk
    refine ⟨fun hva => ?st, fun hva => ?stl⟩ <;> subst hva
    case st => exact goesOn_of_seqStore hs (exec_st ..) hk
    case stl => exact goesOn_of_seqStore hs (exec_stl ..) hk
  case atomics =>
    intro s s1 s2 d a b c z o k v va n eff t hs
    refine ⟨fun hk hl => ⟨?add, ?and, ?or, ?xor, ?min, ?max, ?minn, ?maxn, ?swap, ?cas⟩, fun hk hl => ?fadd⟩
    case add => exact goesOn_of_seqAmo_binary hs (exec_amoAdd ..) hk hl (by decide)
    case and => exact goesOn_of_seqAmo_binary hs (exec_amoAnd ..) hk hl (by decide)
    case or => exact goesOn_of_seqAmo_binary hs (exec_amoOr ..) hk hl (by decide)
    case xor => exact goesOn_of_seqAmo_binary hs (exec_amoXor ..) hk hl (by decide)
    case min => exact goesOn_of_seqAmo_binary hs (exec_amoMin ..) hk hl (by decide)
    case max => exact goesOn_of_seqAmo_binary hs (exec_amoMax ..) hk hl (by decide)
    case minn => exact goesOn_of_seqAmo_binary hs (exec_amoMinn ..) hk hl (by decide)
    case maxn => exact goesOn_of_seqAmo_binary hs (exec_amoMaxn ..) hk hl (by decide)
    case swap => exact goesOn_of_seqAmo_binary hs (exec_amoSwap ..) hk hl (by decide)
    case cas => exact goesOn_of_seqAmo hs (exec_amoCas ..) hk hl
    case fadd => exact goesOn_of_seqAmo_binary hs (exec_amoFadd ..) hk hl (by decide)

end Sys2Proof.Machine
end

section
/-! O15: what a write of any size leaves to be read, byte by byte; what the scheduler's own bytes keep of it; and each buffered store and atomic as one
such write at its home, with its old value in the block view. -/
namespace Sys2Proof.Machine

/-! ### Reads after writes of any size (R3, R107) -/

section
variable (m : List Host.Cell)

/-- A write leaves every byte outside it. -/
theorem readByte_writeLe_outside {a n k : Nat} (v : Nat) (h : k < a ∨ a + n ≤ k) : readByte (writeLe m a n v) k = readByte m k := by
  induction n generalizing m a v with
  | zero => rfl
  | succ n ih => rw [writeLe, ih _ _ (by omega), readByte_writeByte, if_neg (by omega)]

/-- The bytes of a write are the base-256 digits of its value. -/
theorem readByte_writeLe {a n i : Nat} (v : Nat) (h : i < n) : readByte (writeLe m a n v) (a + i) = BitVec.ofNat 8 (v / 256 ^ i) := by
  induction n generalizing m a v i with
  | zero => exact absurd h (Nat.not_lt_zero i)
  | succ n ih =>
    rw [writeLe]
    cases i with
    | zero => rw [readByte_writeLe_outside _ _ (by omega), readByte_writeByte, if_pos (Nat.add_zero a), Nat.pow_zero, Nat.div_one]
    | succ i => rw [show a + (i + 1) = a + 1 + i by omega, ih _ _ (Nat.lt_of_succ_lt_succ h), Nat.div_div_eq_div_mul, Nat.pow_succ']

/-- What n bytes hold lies below 256^n. -/
theorem readLe_lt (a n : Nat) : readLe m a n < 256 ^ n := by
  induction n generalizing a with
  | zero => exact Nat.one_pos
  | succ n ih =>
    have low := (readByte m a).isLt
    have high := ih (a + 1)
    rw [readLe, Nat.pow_succ']
    omega

/-- A write is read back, in its size. -/
theorem readLe_writeLe (a n v : Nat) : readLe (writeLe m a n v) a n = v % 256 ^ n := by
  induction n generalizing m a v with
  | zero => exact (Nat.mod_one v).symm
  | succ n ih =>
    have first : readByte (writeLe (writeByte m a (BitVec.ofNat 8 v)) (a + 1) n (v / 256)) a = BitVec.ofNat 8 v := by
      rw [readByte_writeLe_outside _ _ (by omega), readByte_writeByte, if_pos rfl]
    rw [writeLe, readLe, first, ih, Nat.pow_succ', Nat.mod_mul, BitVec.toNat_ofNat]

end

theorem pow_bits_eq_pow_bytes (n : Nat) : 2 ^ (8 * n) = 256 ^ n := Nat.pow_mul 2 8 n

theorem State.rd_lt (s : State) (k n : Nat) : s.rd k n < 2 ^ (8 * n) := by
  rw [pow_bits_eq_pow_bytes]; exact readLe_lt ..

/-! ### The scheduler's own bytes (R31) -/

/-- The sum of digits below 256 at rising places, up to place n. -/
def digitSum (f : Nat → Nat) (n : Nat) : Nat := (List.range n).foldl (fun w i => w + f i * 256 ^ i) 0

section
variable {f : Nat → Nat}

theorem digitSum_succ (n : Nat) : digitSum f (n + 1) = digitSum f n + f n * 256 ^ n := by
  simp [digitSum, List.range_succ]

theorem digitSum_lt (hf : ∀ i, f i < 256) (n : Nat) : digitSum f n < 256 ^ n := by
  induction n with
  | zero => exact Nat.one_pos
  | succ n ih =>
    rw [digitSum_succ, Nat.pow_succ']
    have top : f n * 256 ^ n ≤ 255 * 256 ^ n := Nat.mul_le_mul_right _ (Nat.le_of_lt_succ (hf n))
    omega

/-- Each digit is read back. -/
theorem digitSum_digit (hf : ∀ i, f i < 256) {n i : Nat} (h : i < n) : digitSum f n / 256 ^ i % 256 = f i := by
  induction n with
  | zero => exact absurd h (Nat.not_lt_zero i)
  | succ n ih =>
    rw [digitSum_succ]
    rcases Nat.lt_succ_iff_lt_or_eq.mp h with below | rfl
    · obtain ⟨j, rfl⟩ := Nat.exists_eq_add_of_lt below
      have place : f (i + j + 1) * 256 ^ (i + j + 1) = 256 ^ i * (256 * (f (i + j + 1) * 256 ^ j)) := by
        rw [show i + j + 1 = i + (1 + j) by omega, Nat.pow_add, Nat.pow_add, Nat.pow_one]
        ac_rfl
      rw [place, Nat.add_mul_div_left _ _ (Nat.pow_pos (by decide)), Nat.add_mul_mod_self_left, ih below]
    · rw [Nat.add_mul_div_right _ _ (Nat.pow_pos (by decide)), Nat.div_eq_of_lt (digitSum_lt hf i), Nat.zero_add, Nat.mod_eq_of_lt (hf i)]

end

section
variable (s : State) {k n : Nat} (v : Nat)

/-- A byte that the scheduler alone writes keeps its value in what a write there becomes. -/
theorem kept_digit {i : Nat} (hi : i < n) (h : s.roByte (k + i) = true) : s.kept k n v / 256 ^ i % 256 = (readByte s.mem (k + i)).toNat := by
  have some_own : ((List.range n).any fun i => s.roByte (k + i)) = true := List.any_eq_true.mpr ⟨i, List.mem_range.mpr hi, h⟩
  have one (j : Nat) : s.rd j 1 = (readByte s.mem j).toNat := rfl
  rw [State.kept, if_pos some_own]
  refine (digitSum_digit (f := fun i => if s.roByte (k + i) then s.rd (k + i) 1 else v / 256 ^ i % 256) (fun i => ?_) hi).trans ?_
  · split
    · rw [one]; exact (readByte s.mem (k + i)).isLt
    · exact Nat.mod_lt _ (by decide)
  · simp only [h, if_true, one]

/-- No write by anyone else changes it. -/
theorem readByte_wrKeep_of_roByte {j : Nat} (h : s.roByte j = true) : readByte (s.wrKeep k n v).mem j = readByte s.mem j := by
  rw [wrKeep_mem]
  rcases Nat.lt_or_ge j k with below | above
  · exact readByte_writeLe_outside _ _ (.inl below)
  · obtain ⟨i, rfl⟩ := Nat.exists_eq_add_of_le above
    rcases Nat.lt_or_ge i n with inside | beyond
    · rw [readByte_writeLe _ _ inside]
      exact BitVec.eq_of_toNat_eq ((BitVec.toNat_ofNat ..).trans (kept_digit s v inside h))
    · exact readByte_writeLe_outside _ _ (.inr (by omega))

/-- It leaves every byte outside it. -/
theorem readByte_wrKeep_outside {j : Nat} (h : j < k ∨ k + n ≤ j) : readByte (s.wrKeep k n v).mem j = readByte s.mem j :=
  readByte_writeLe_outside _ _ h

/-- Where no byte is the scheduler's own, it is read back in its size. -/
theorem rd_wrKeep (h : ∀ i, i < n → s.roByte (k + i) = false) : (s.wrKeep k n v).rd k n = v % 2 ^ (8 * n) := by
  rw [wrKeep_eq_wr v h, pow_bits_eq_pow_bytes]
  exact readLe_writeLe ..

end

/-! ### A register of the block view after its write (R137, R170) -/

section
variable (r : Regs) {d e : BitVec 6} (v : DWord) (t : Bool)

theorem Regs.rs_ws_self (h : d ≠ 0) : (r.ws d v t).rs d = v := by
  rw [Regs.rs, Regs.ws, if_neg h, if_neg h, Map.get_put, if_pos rfl]

theorem Regs.taintOf_ws_self (h : d ≠ 0) : (r.ws d v t).taintOf d = t := by
  rw [Regs.taintOf, Regs.ws, if_neg h, if_neg h, Map.get_put, if_pos rfl]

theorem Regs.rs_ws_ne (h : e ≠ d) : (r.ws d v t).rs e = r.rs e := by
  have other : e.toNat ≠ d.toNat := fun he => h (BitVec.eq_of_toNat_eq he)
  unfold Regs.ws
  split
  · rfl
  · simp only [Regs.rs, Map.get_put, if_neg other]

theorem Regs.taintOf_ws_ne (h : e ≠ d) : (r.ws d v t).taintOf e = r.taintOf e := by
  have other : e.toNat ≠ d.toNat := fun he => h (BitVec.eq_of_toNat_eq he)
  unfold Regs.ws
  split
  · rfl
  · simp only [Regs.taintOf, Map.get_put, if_neg other]

end

/-- A change of the stream that acts is seen there. -/
theorem State.me_modMe (s : State) (f : Stream → Stream) : (s.modMe f).me = f s.me := by
  simp [State.me, State.modMe, State.stream, State.modStream, State.cluster, State.modCluster]

/-! ### A write at its home (R118, R123) -/

section
variable (s : State) (root va : DWord) {k : Nat} (n v : Nat)

theorem wrAt_far (h : isFar k = true) : s.wrAt root va k n v = s := if_pos h

theorem wrAt_near_mem (h : isFar k = false) : (s.wrAt root va k n v).mem = (s.wrKeep k n v).mem := by
  rw [State.wrAt, h, if_neg Bool.false_ne_true, setProt_mem]

theorem State.SameStreams.setProt (k n f : Nat) : s.SameStreams (s.setProt k n f) := .ite (.refl s) (.of_clusters rfl rfl)

theorem State.SameStreams.wrAt (k : Nat) : s.SameStreams (s.wrAt root va k n v) :=
  .ite (.refl s) ((State.SameStreams.of_clusters (s := s) (t := s.wrKeep k n v) rfl rfl).trans (.setProt ..))

end

/-! ### The effects (R133, R205, R208) -/

section
variable (cls : List (Nat × List DWord)) (s : State) (i n : Nat) {key : Nat} (va : DWord)

section
variable (v : DWord) (rel : Bool)

theorem applyEff_store_near_mem (h : isFar key = false) :
    (State.applyEff cls s (i, .store va key n v rel)).mem = (s.wrKeep key n v.toNat).mem :=
  (countHbm_mem ..).trans (wrAt_near_mem (h := h) ..)

theorem applyEff_store_far_mem (h : isFar key = true) : (State.applyEff cls s (i, .store va key n v rel)).mem = s.mem :=
  (countHbm_mem ..).trans (congrArg State.mem (wrAt_far (h := h) ..))

end

section
variable (fn : Nat) (d : BitVec 6) (y cv : DWord) (rm : BitVec 2) (ftz t : Bool)

theorem applyEff_amo_near_mem (h : isFar key = false) :
    (State.applyEff cls s (i, .amo fn va key n d y cv rm ftz t)).mem =
      (s.wrKeep key n (amoNew fn n (s.rd key n) y.toNat cv.toNat (RMode.ofCode rm.toNat) ftz)).mem := by
  simp only [State.applyEff, h, Bool.false_eq_true, if_false, State.modMe_mem, countHbm_mem]
  exact wrAt_near_mem (h := h) ..

theorem applyEff_amo_far_mem (h : isFar key = true) : (State.applyEff cls s (i, .amo fn va key n d y cv rm ftz t)).mem = s.mem := by
  simp only [State.applyEff, h, if_true, State.modMe_mem]

/-- An atomic delivers the old value of its home into its destination. -/
theorem applyEff_amo_view (key : Nat) : (State.applyEff cls s (i, .amo fn va key n d y cv rm ftz t)).me.view =
    s.me.view.ws d (amoDelivered fn n (s.rd key n)) t := by
  rw [State.applyEff, State.me_modMe]
  refine congrArg (fun st : Stream => st.view.ws d _ t) (State.SameStreams.me ?_)
  exact .ite (.refl s) ((State.SameStreams.wrAt ..).trans (.countHbm ..))

/-- Its destination takes the old value and its taint, and every other register stands. -/
theorem applyEff_amo_registers (key : Nat) :
    let u := State.applyEff cls s (i, .amo fn va key n d y cv rm ftz t)
    (d ≠ 0 → u.me.view.rs d = amoDelivered fn n (s.rd key n) ∧ u.me.view.taintOf d = t) ∧
      ∀ e, e ≠ d → u.me.view.rs e = s.me.view.rs e ∧ u.me.view.taintOf e = s.me.view.taintOf e := by
  dsimp only
  rw [applyEff_amo_view]
  exact ⟨fun hd => ⟨Regs.rs_ws_self _ _ _ hd, Regs.taintOf_ws_self _ _ _ hd⟩, fun e he => ⟨Regs.rs_ws_ne _ _ _ he, Regs.taintOf_ws_ne _ _ _ he⟩⟩

/-- Its home holds the new value of its function. -/
theorem rd_applyEff_amo (h : isFar key = false) (hro : ∀ j, j < n → s.roByte (key + j) = false) :
    (State.applyEff cls s (i, .amo fn va key n d y cv rm ftz t)).rd key n =
      amoNew fn n (s.rd key n) y.toNat cv.toNat (RMode.ofCode rm.toNat) ftz % 2 ^ (8 * n) := by
  rw [State.rd, applyEff_amo_near_mem (h := h)]
  exact rd_wrKeep _ _ hro

end
end

/-! ### Values of atomics (R208) -/

/-- The functions of the integers fit their size where their operands do. -/
theorem amoNew_lt {fn n old y : Nat} (cv : Nat) (rm : RMode) (ftz : Bool) (hfn : fn < 10) (ho : old < 2 ^ (8 * n)) (hy : y < 2 ^ (8 * n)) :
    amoNew fn n old y cv rm ftz < 2 ^ (8 * n) := by
  match fn, hfn with
  | 0, _ => exact Nat.mod_lt _ (Nat.two_pow_pos _)
  | 1, _ => exact Nat.and_lt_two_pow _ hy
  | 2, _ => exact Nat.or_lt_two_pow ho hy
  | 3, _ => exact Nat.xor_lt_two_pow ho hy
  | 4, _ | 5, _ | 9, _ => change ite _ _ _ < _; split <;> assumption
  | 6, _ => exact Nat.lt_of_le_of_lt (Nat.min_le_left ..) ho
  | 7, _ => exact Nat.max_lt.mpr ⟨ho, hy⟩
  | 8, _ => exact hy

/-- Minn, maxn and fadd of a word deliver it zero-extended, every other atomic sign-extended. -/
theorem amoDelivered_eq {n old : Nat} (fn : Nat) (ho : old < 2 ^ (8 * n)) :
    amoDelivered fn n old = if n = 4 ∧ (fn = 6 ∨ fn = 7 ∨ fn = 10) then BitVec.ofNat 64 old else BitVec.ofInt 64 (signedOf (8 * n) old) := by
  rw [amoDelivered, ← Bool.decide_and]
  by_cases h : n = 4 ∧ (fn = 6 ∨ fn = 7 ∨ fn = 10)
  · rw [if_pos h, decide_eq_true h, Bool.not_true, extend_unsigned, Nat.mod_eq_of_lt ho]
  · rw [if_neg h, decide_eq_false h, Bool.not_false, extend_signed]

/-! ### Writes to another node (R118, R132, R334, log 97) -/

/-- A store of a doubleword travels as it is; the words of a smaller one are not given by a rule. -/
theorem storeWords_eq {n : Nat} (v : DWord) (hn : n = 1 ∨ n = 2 ∨ n = 4 ∨ n = 8) :
    storeWords n v.toNat false = if n = 8 then [v] else Config.accessWords { fn := 19, n := n, y := v.toNat % 2 ^ (8 * n) } := by
  by_cases h : n = 8
  · subst h
    rw [if_pos rfl, storeWords, if_pos (by decide)]
    change [BitVec.ofNat 64 (v.toNat % 2 ^ 64 / 1)] = [v]
    rw [Nat.div_one, Nat.mod_eq_of_lt v.isLt, BitVec.ofNat_toNat, BitVec.setWidth_eq]
  · rw [if_neg h, storeWords, if_neg (by omega)]

/-- `u` is `s` with the OPEN and the DATA flit of a transfer of `ws` added to what waits at the port of its home (R334). -/
def State.SentTo (s u : State) (key : Nat) (ws : List DWord) : Prop :=
  let p := Config.portTo (keyPeer key) % 48
  let h (ty : BitVec 4) (n : Nat) : FlitHdr :=
    { type := ty, dst := BitVec.ofNat 12 (keyPeer key), src := Config.moduleId, index := 0, xfer := BitVec.ofNat 16 s.cmdId, nq := BitVec.ofNat 5 (n - 1), ord := 0 }
  u.mem = s.mem ∧ (u.port p).outq = (s.port p).outq ++ [(h 0 4, [BitVec.ofNat 64 (keyPa key), 0, 0, 0], none), (h 1 ws.length, ws, none)]

theorem State.port_modPort (s : State) (p : Nat) (f : Port → Port) : (s.modPort p f).port p = f (s.port p) := Map.get_mod_self ..

theorem farTransfer_sentTo (s : State) (key : Nat) (ws : List DWord) : s.SentTo (s.farTransfer key ws) key ws := by
  refine ⟨farTransfer_mem .., ?_⟩
  simp only [State.farTransfer, State.sendLater, State.port_modPort, List.append_assoc]
  rfl

/-- A write or an atomic that its waiter asks for first is sent, and not yet answered. -/
theorem farAsk_first {s : State} {who : Nat} (key n : Nat) {q : FarReq} {ws : List DWord} (h : ∀ e ∈ s.farReads, e.who ≠ who)
    (hq : q = .write ws ∨ q = .amo ws) : (s.farAsk who key n q).2 = none ∧ s.SentTo (s.farAsk who key n q).1 key ws := by
  have unasked : (s.farReads.find? fun r => decide (r.who = who) && decide (r.key = key) && decide (r.n = n) && decide (r.write = q.isWrite)) = none :=
    List.find?_eq_none.mpr fun e he => by simp [h e he]
  rw [State.farAsk, unasked]
  obtain ⟨mem, flits⟩ := farTransfer_sentTo s key ws
  rcases hq with rfl | rfl
  all_goals exact ⟨rfl, mem, flits⟩

/-- Settles O15: each effect is one write at its home, or a transfer sent before, and an atomic's write is the value of its function. -/
theorem storesAndAtomicsAtCommit : Obligations.StoresAndAtomicsAtCommit := by
  intro cls s i key n va y cv v rel ftz t d rm
  refine ⟨fun _ near => ?nearStore, fun hn far who w r => ?farEffects, fun _ near hro hy hcv => ?nearAtomic⟩
  case nearStore =>
    have mem := applyEff_store_near_mem cls s i n va v rel near
    refine ⟨fun hro => ?_, fun k hk => ?_, fun k hk => ?_⟩
    · rw [State.rd, mem]; exact rd_wrKeep _ _ hro
    · rw [mem]; exact readByte_wrKeep_of_roByte _ _ hk
    · rw [mem]; exact readByte_wrKeep_outside _ _ hk
  case farEffects =>
    refine ⟨?asked, fun first => ?sent, applyEff_store_far_mem (h := far) .., applyEff_amo_far_mem (h := far) ..,
      applyEff_amo_registers ..⟩
    case asked => simp [farEffs, far, storeWords_eq v hn]
    case sent =>
      obtain ⟨writeWaits, writeSent⟩ := farAsk_first key n first (.inl rfl)
      obtain ⟨amoWaits, amoSent⟩ := farAsk_first key n first (.inr rfl)
      exact ⟨writeWaits, writeSent, amoWaits, amoSent⟩
  case nearAtomic =>
    intro bits old x sum news p hp
    have old_lt : old < 2 ^ (8 * n) := s.rd_lt key n
    have value : amoNew p.1 n old x cv.toNat (RMode.ofCode rm.toNat) ftz % 2 ^ (8 * n) = p.2 := by
      rcases hp with integer | ⟨rfl, rfl⟩
      · obtain ⟨fn, hfn, rfl⟩ := List.mem_map.mp
          (show p ∈ (List.range 10).map fun fn => (fn, amoNew fn n old x cv.toNat (RMode.ofCode rm.toNat) ftz) from integer)
        exact Nat.mod_eq_of_lt (amoNew_lt _ _ _ (List.mem_range.mp hfn) old_lt hy)
      · rfl
    obtain ⟨delivered, others⟩ := applyEff_amo_registers cls s i n va p.1 d y cv rm ftz t key
    rw [amoDelivered_eq p.1 old_lt] at delivered
    refine ⟨(rd_applyEff_amo (h := near) (hro := hro) ..).trans value, fun k hk => ?_, delivered, others⟩
    rw [applyEff_amo_near_mem (h := near)]
    exact readByte_wrKeep_outside _ _ hk

end Sys2Proof.Machine
end

section
/-! O47: a collective's step is read once, where its members are still to join and where it runs to its end; each kind's result is then its own
formula, and a delivery is one member's delivery after another. -/
namespace Sys2Proof.Machine

/-! ### The step (R310) -/

section
variable {s s0 : State} {d : ClDesc} {x : Cmd} (kind : Nat)
variable (hx : s.issuedCmd? s.cur.cluster s.cur.ctx s.cur.sel = some x) (hq : x.q = 2) (hd : x.done = false) (hs : x.stalled = none)
  (hr : s.running s.cur.cluster s.cur.ctx = true) (ht : s.clTables s.cur.cluster s.cur.ctx (engOwner x.id) d = (s0, none))
include hx hq hd hs hr ht

/-- Until every member has joined, the step only reads the tables. -/
theorem clRun_waits (hj : s0.clReady kind d = false) : clRun kind d s = .next (s0.engDone s.cur.cluster s.cur.ctx (engOwner x.id)) := by
  simp only [clRun, hx, Option.filter, hq, hd, hs, hr, ht, hj, decide_true, Bool.not_false, Option.isNone_none, Bool.and_self, if_true]

/-- Once they have, and every buffer can be read and written, each receives its result. -/
theorem clRun_delivers {s1 s2 : State} {sends out : List (List PByte)} (hj : s0.clReady kind d = true)
    (hin : clReads kind d (s0.clJoined kind d) s0 = (s1, .ok sends))
    (hout : clResult kind d sends (clAssign kind d (s0.clJoined kind d) sends) = out)
    (hw : clFail ((List.range (s0.clJoined kind d).length).filterMap fun i =>
      (s0.clJoined kind d)[i]?.map fun m => (m, ClMember.owner d m, clWrites kind m (out.getD i []))) s1 = (s2, none)) :
    clRun kind d s = .next ((clDeliver kind d (s0.clJoined kind d) sends out s2).engDone s.cur.cluster s.cur.ctx (engOwner x.id)) := by
  subst hout
  simp only [clRun, hx, Option.filter, hq, hd, hs, hr, ht, hj, hin, hw, decide_true, Bool.not_false, Option.isNone_none, Bool.and_self, if_true,
    Bool.not_true, Bool.false_eq_true, if_false]

end

/-! ### Deliveries -/

/-- Steps that agree on the elements of a list fold it alike. -/
theorem foldl_eq_of_mem {α β : Type} {f g : β → α → β} {l : List α} (h : ∀ b, ∀ a ∈ l, f b a = g b a) (b : β) : l.foldl f b = l.foldl g b := by
  induction l generalizing b with
  | nil => rfl
  | cons a l ih =>
    rw [List.foldl_cons, List.foldl_cons, h b a List.mem_cons_self]
    exact ih (fun b c hc => h b c (List.mem_cons_of_mem a hc)) _

section
variable {kind : Nat} (d : ClDesc) (ms : List ClMember)

/-- Only an irregular all-to-all assigns records to destinations. -/
theorem clWant_regular (h : kind ≠ 4) (sends : List (List PByte)) : clWant kind d sends = [] := if_neg h

theorem clAssign_regular (h : kind ≠ 4) (sends : List (List PByte)) : clAssign kind d ms sends = [] := by
  rw [clAssign, clWant_regular d h]; rfl

variable {want : List (List Nat)} {as_ : List Assigned} (out : List (List PByte)) (s : State)

/-- What a member receives does not depend on the members after it. -/
theorem clPut_append_of_lt (m : ClMember) {i : Nat} (h : i < ms.length) :
    clPut kind d (ms ++ [m]) want as_ out s i = clPut kind d ms want as_ out s i := by
  unfold clPut; rw [List.getElem?_append_left h]

/-- A member of a regular collective receives its bytes at its own address, and its command is done with their count. -/
theorem clPut_regular (h : kind ≠ 4) {i : Nat} {m : ClMember} (hm : ms[i]? = some m) :
    clPut kind d ms want as_ out s i =
      ((s.engPut m.1.1 m.1.2 (ClMember.owner d m) m.2.2.recv (out.getD i [])).engDone m.1.1 m.1.2 (ClMember.owner d m)).cmdDone m.1.1 m.1.2
        m.2.1.id (out.getD i []).length (if anyBad (out.getD i []) then stPoisoned else stOk) := by
  simp [clPut, hm, clWrites, h]

/-- The last member receives after the others. -/
theorem clDeliver_append (h : kind ≠ 4) (sends : List (List PByte)) (m : ClMember) :
    clDeliver kind d (ms ++ [m]) sends out s = clPut kind d (ms ++ [m]) [] [] out (clDeliver kind d ms sends out s) ms.length := by
  simp only [clDeliver, clWant_regular d h, clAssign_regular d _ h, List.length_append, List.length_singleton, List.range_succ,
    List.foldl_append, List.foldl_cons, List.foldl_nil]
  congr 1
  exact foldl_eq_of_mem (fun t i hi => clPut_append_of_lt d ms out t m (List.mem_range.mp hi)) _

end

/-- Settles O47: each kind's step is the one shared step with that kind's result, and a delivery ends with its last member's. -/
theorem collectiveResults : Obligations.CollectiveResults := by
  intro s s0 s1 s2 d x sends c k b len n sum ends
  refine ⟨fun hx hq hd hs hr ht => ?kinds, fun kind out => rfl, fun kind out ms m hk => ?last⟩
  case kinds =>
    have ends_of (kind : Nat) (i : Instr) (out : List (List PByte)) (hi : exec i s = clRun kind d s)
        (hout : clResult kind d sends (clAssign kind d (s0.clJoined kind d) sends) = out) : ends kind i out :=
      ⟨fun hj => hi.trans (clRun_waits kind hx hq hd hs hr ht hj), fun hj hin hw => hi.trans (clRun_delivers kind hx hq hd hs hr ht hj hin hout hw)⟩
    exact ⟨ends_of 0 _ _ rfl rfl, ends_of 1 _ _ rfl rfl, ends_of 2 _ _ rfl rfl, ends_of 3 _ _ rfl rfl, ends_of 4 _ _ rfl rfl⟩
  case last =>
    have regular : kind ≠ 4 := Nat.ne_of_lt hk
    rw [clDeliver_append d ms out s regular]
    exact clPut_regular d _ out _ regular List.getElem?_concat_length

end Sys2Proof.Machine
end

section
/-! O48, nodes: a node's step is read once; tokens taken and sent leave a node's kind and members; and each kind's firing is the branch of its rule
that the streams select. -/
namespace Sys2Proof.Machine

/-! ### A step of a node (R159) -/

section
variable {s : State} {n : Nat} {nd : CollNode} (hn : ((s.ctxAt s.cur.cluster s.cur.ctx).bind fun x => x.nodes.find? n) = some nd)
  (hr : s.running s.cur.cluster s.cur.ctx = true)
include hn hr

/-- A result that waits is delivered first. -/
theorem nodeFire_delivers {s1 : State} (hd : s.nodeDeliver s.cur.cluster s.cur.ctx n nd = some s1) : exec (.collectiveNodeFire n) s = .next s1 := by
  change execCollectiveNodeFire n s = _
  simp only [execCollectiveNodeFire, hn, hr, hd, Bool.not_true, Bool.false_eq_true, if_false]

variable (hd : s.nodeDeliver s.cur.cluster s.cur.ctx n nd = none)
include hd

/-- Streams on which the node cannot fire are left as they are. -/
theorem nodeFire_idle (hf : nd.fire = none) : exec (.collectiveNodeFire n) s = .next s := by
  change execCollectiveNodeFire n s = _
  simp only [execCollectiveNodeFire, hn, hr, hd, hf, Bool.not_true, Bool.false_eq_true, if_false]

/-- Where no result waits, the node becomes what its firing leaves, and its members are told. -/
theorem nodeFire_fires {nd1 : CollNode} {told : List (Nat × Nat × Nat)} (hf : nd.fire = some (nd1, told)) :
    exec (.collectiveNodeFire n) s = .next ((s.nodeBecomes s.cur.cluster s.cur.ctx n nd nd1).tellMembers nd told) := by
  change execCollectiveNodeFire n s = _
  simp only [execCollectiveNodeFire, hn, hr, hd, hf, Bool.not_true, Bool.false_eq_true, if_false]

end

/-! ### Tokens taken and sent -/

section
variable (nd : CollNode)

/-- What every step of a fold over members keeps, the fold keeps. -/
theorem CollNode.foldl_keeps {β : Type} (p : CollNode → β) {f : CollNode → Nat → CollNode} (hf : ∀ nd m, p (f nd m) = p nd) (l : List Nat) :
    p (l.foldl f nd) = p nd := by
  induction l generalizing nd with
  | nil => rfl
  | cons m l ih => exact (ih _).trans (hf nd m)

theorem CollNode.popAll_n (l : List Nat) : (l.foldl (fun nd m => nd.pop m) nd).n = nd.n := nd.foldl_keeps CollNode.n (fun _ _ => by rfl) l

theorem CollNode.takeTag_n (tag : Nat) : (nd.takeTag tag).n = nd.n := nd.foldl_keeps CollNode.n (fun _ _ => by rfl) nd.members

theorem CollNode.takeTag_kind (tag : Nat) : (nd.takeTag tag).kind = nd.kind := nd.foldl_keeps CollNode.kind (fun _ _ => by rfl) nd.members

/-- Tokens that depend on the node's kind and members alone do not change while they are sent. -/
theorem CollNode.foldl_put_congr {f g : CollNode → Nat → Token} (h : ∀ nd1 m, nd1.kind = nd.kind → nd1.n = nd.n → f nd1 m = g nd1 m) (l : List Nat) :
    l.foldl (fun nd m => nd.put m (f nd m)) nd = l.foldl (fun nd m => nd.put m (g nd m)) nd := by
  induction l generalizing nd with
  | nil => rfl
  | cons m l ih =>
    rw [List.foldl_cons, List.foldl_cons, h nd m rfl rfl]
    exact ih _ fun nd1 m hk hn => h nd1 m hk hn

end

/-! ### The end of all streams -/

section
variable {nd : CollNode} {t : Token}

/-- A stream that stands at another token than EOS, or at none, keeps a node from ending. -/
theorem CollNode.endAll_none {m : Nat} (hm : m < nd.n) (h : ∀ e, nd.head m = some e → e.kind ≠ kEos) : nd.endAll = none := by
  rw [CollNode.endAll, if_neg]
  rintro ⟨-, all⟩
  have stands := List.all_eq_true.mp all m (List.mem_range.mpr hm)
  cases hh : nd.head m with
  | none => simp [hh] at stands
  | some e => simp [hh, h e hh] at stands

/-- Where every stream stands at EOS, it leaves every stream and goes to every output. -/
theorem CollNode.endAll_eos (h0 : nd.n ≠ 0) (h : ∀ m < nd.n, ∃ e, nd.head m = some e ∧ e.kind = kEos) (ht : nd.head 0 = some t) :
    nd.endAll = some ((List.range nd.n).foldl (fun nd m => nd.put m t) ((List.range nd.n).foldl (fun nd m => nd.pop m) nd)) := by
  rw [CollNode.endAll, if_pos, ht, Option.map_some, CollNode.putAll, CollNode.members, CollNode.popAll_n]
  refine ⟨h0, List.all_eq_true.mpr fun m hm => ?_⟩
  obtain ⟨e, he, hk⟩ := h m (List.mem_range.mp hm)
  simp [he, hk]

/-! ### A reduction (R152, R159) -/

/-- The tokens of a member that a reduction may take. -/
def CollNode.due (nd : CollNode) (m : Nat) : List Token := (untilEos (nd.ins.get [] m)).filter isData

theorem isData_ne_eos (h : isData t = true) : t.kind ≠ kEos := by
  intro hk; rw [isData, hk] at h; exact absurd h (by decide)

theorem CollNode.due_subset {m : Nat} (h : t ∈ nd.due m) : t ∈ nd.ins.get [] m ∧ isData t = true :=
  (List.mem_filter.mp h).imp_left fun h => (List.takeWhile_sublist _).subset h

theorem CollNode.due_of_head {m : Nat} (h : nd.head m = some t) (hd : isData t = true) : ∃ r, nd.due m = t :: r := by
  obtain ⟨r, hr⟩ := List.head?_eq_some_iff.mp h
  exact ⟨(untilEos r).filter isData, by simp [CollNode.due, hr, untilEos, isData_ne_eos hd, hd]⟩

/-- The least number of a list is where its fold ends. -/
theorem foldl_min_eq {x a : Nat} {r : List Nat} (hm : a ∈ x :: r) (hl : ∀ b ∈ x :: r, a ≤ b) : r.foldl Nat.min x = a :=
  Option.some.inj ((List.min?_cons' (x := x) (xs := r)).symm.trans (List.min?_eq_some_iff.mpr ⟨hm, hl⟩))

theorem filterMap_range_getElem? {α : Type} (l : List α) : (List.range l.length).filterMap (fun i => l[i]?) = l := by
  induction l with
  | nil => rfl
  | cons a l ih =>
    rw [List.length_cons, List.range_succ_eq_map, List.filterMap_cons, List.filterMap_map]
    exact congrArg (a :: ·) ih

/-- Searches that agree on the elements of a list find the same in it. -/
theorem filterMap_eq_of_mem {α β : Type} {f g : α → Option β} {l : List α} (h : ∀ a ∈ l, f a = g a) : l.filterMap f = l.filterMap g := by
  induction l with
  | nil => rfl
  | cons a l ih => rw [List.filterMap_cons, List.filterMap_cons, h a List.mem_cons_self, ih fun b hb => h b (List.mem_cons_of_mem a hb)]

/-- What a reducing node becomes as the tokens `ts` of one tag leave it, `t` being the first: each output is sent the combination, or its part of it. -/
def CollNode.combines (nd : CollNode) (ts : List Token) (t : Token) : CollNode :=
  let els := ts.map fun u => splitLanes (dtdBits nd.ty) u.lanes
  let sum := (List.range (els.headD []).length).map fun j => (combineAll nd.op nd.ty nd.rnd nd.ftz (els.map fun l => (l.getD j 0, false))).1
  let res (l : List Nat) : Token := { t with poison := ts.any fun u => u.poison, lanes := packLanes (dtdBits nd.ty) l }
  let part (m : Nat) : List Nat := let q := cutRange (0, sum.length) nd.n m; (sum.drop q.1).take (q.2 - q.1)
  (List.range nd.n).foldl (fun nd m => nd.put m (res (if nd.kind = 0 then sum else part m))) (nd.takeTag t.tag.toNat)

section
variable {ts : List Token} (hn : nd.n = ts.length) (hh : ∀ m < nd.n, nd.head m = ts[m]?) (hd : ∀ u ∈ ts, isData u = true ∧ u.tag = t.tag)
include hn hh

theorem CollNode.head_mem {m : Nat} (hm : m < nd.n) : ∃ u ∈ ts, nd.head m = some u :=
  ⟨ts[m]'(hn ▸ hm), List.getElem_mem _, (hh m hm).trans (List.getElem?_eq_getElem _)⟩

theorem CollNode.first_of_head (ht : ts.head? = some t) : 0 < nd.n ∧ nd.head 0 = some t := by
  obtain ⟨r, rfl⟩ := List.head?_eq_some_iff.mp ht
  have pos : 0 < nd.n := hn ▸ Nat.succ_pos _
  exact ⟨pos, hh 0 pos⟩

include hd

/-- A reducing node sweeps no token that it can combine. -/
theorem CollNode.sweep_none : nd.sweep = none := by
  refine List.findSome?_eq_none_iff.mpr fun m hm => ?_
  obtain ⟨u, hu, head⟩ := CollNode.head_mem hn hh (List.mem_range.mp hm)
  simp [head, (hd u hu).1]

/-- A token that a member has at its head is its first of that tag. -/
theorem CollNode.find_due {m : Nat} (hm : m < nd.n) : ((nd.due m).find? fun u => decide (u.tag.toNat = t.tag.toNat)) = ts[m]? := by
  obtain ⟨u, hu, head⟩ := CollNode.head_mem hn hh hm
  obtain ⟨r, due⟩ := CollNode.due_of_head head (hd u hu).1
  rw [← hh m hm, head, due, List.find?_cons_of_pos]
  rw [(hd u hu).2, decide_eq_true rfl]

/-- The tokens that a reduction finds of that tag are those at the heads. -/
theorem CollNode.found_due :
    ((nd.members.map fun m => (m, nd.due m)).filterMap fun l => l.2.find? fun u => decide (u.tag.toNat = t.tag.toNat)) = ts := by
  rw [List.filterMap_map]
  refine (filterMap_eq_of_mem fun m hm => CollNode.find_due hn hh hd (List.mem_range.mp hm)).trans ?_
  rw [hn]
  exact filterMap_range_getElem? ts

variable (ht : ts.head? = some t) (hl : ∀ m < nd.n, ∀ u ∈ nd.ins.get [] m, isData u = true → t.tag ≤ u.tag)
include ht hl

/-- The lowest tag is that of the tokens at the heads. -/
theorem CollNode.lowest_tag : ∃ x r, ((nd.members.map fun m => (m, nd.due m)).flatMap fun l => l.2.map fun u => u.tag.toNat) = x :: r ∧
    r.foldl Nat.min x = t.tag.toNat := by
  obtain ⟨pos, head⟩ := CollNode.first_of_head hn hh ht
  obtain ⟨rest, due⟩ := CollNode.due_of_head head (hd t (List.mem_of_head? ht)).1
  have member : t.tag.toNat ∈ (nd.members.map fun m => (m, nd.due m)).flatMap fun l => l.2.map fun u => u.tag.toNat :=
    List.mem_flatMap.mpr ⟨(0, nd.due 0), List.mem_map.mpr ⟨0, List.mem_range.mpr pos, rfl⟩, List.mem_map.mpr ⟨t, due ▸ List.mem_cons_self, rfl⟩⟩
  obtain ⟨x, r, tags⟩ := List.exists_cons_of_ne_nil (List.ne_nil_of_mem member)
  refine ⟨x, r, tags, foldl_min_eq (tags ▸ member) fun b hb => ?_⟩
  rw [← tags, List.flatMap_map] at hb
  obtain ⟨m, hm, hb⟩ := List.mem_flatMap.mp hb
  obtain ⟨u, hu, rfl⟩ := List.mem_map.mp hb
  obtain ⟨arrived, data⟩ := CollNode.due_subset hu
  exact hl m (List.mem_range.mp hm) u arrived data

/-- Where every member stands at a token of the lowest tag, these are combined. -/
theorem CollNode.reduce_heads : nd.reduce = some (nd.combines ts t) := by
  have found := CollNode.found_due hn hh hd
  obtain ⟨x, l, tags, lowest⟩ := CollNode.lowest_tag hn hh hd ht hl
  obtain ⟨r, rfl⟩ := List.head?_eq_some_iff.mp ht
  unfold CollNode.due at found tags
  have all : ¬(t :: r).length < nd.n := hn ▸ Nat.lt_irrefl _
  simp only [CollNode.reduce, tags, lowest, found, if_neg all]
  refine congrArg some ?_
  split
  next h0 =>
    rw [CollNode.putAll, CollNode.takeTag_n]
    refine CollNode.foldl_put_congr _ (fun nd1 m hk _ => ?_) _
    rw [hk, CollNode.takeTag_kind, if_pos h0]
  next h0 =>
    refine CollNode.foldl_put_congr _ (fun nd1 m hk hm => ?_) _
    rw [hk, hm, CollNode.takeTag_kind, CollNode.takeTag_n, if_neg h0]

end

/-! ### The firing of each kind (R159, R160) -/

/-- Of every kind but the all-to-all, a node whose streams have all ended sends EOS. -/
theorem CollNode.fire_end {nd1 : CollNode} (hk : nd.kind ≠ 3) (h : nd.endAll = some nd1) : nd.fire = some (nd1, []) := by
  unfold CollNode.fire
  split
  case h_4 k => exact absurd k hk
  all_goals simp [h]

/-- An all-gather acts on the token of the member whose turn it is. -/
theorem CollNode.fire_gather (hk : nd.kind = 2) (he : nd.endAll = none) (ht : nd.head nd.turn = some t) :
    nd.fire = some (if t.kind = kEos then { nd with turn := (nd.turn + 1) % Nat.max 1 nd.n } else
      { (List.range nd.n).foldl (fun nd m => nd.put m t) (nd.pop nd.turn) with
        turn := if t.last then (nd.turn + 1) % Nat.max 1 nd.n else nd.turn }, []) := by
  simp only [CollNode.fire, hk, he, ht, Option.orElse_none, Option.map_some]; rfl

/-- A search of the numbers below n ends at the first that it accepts. -/
theorem findSome?_range_first {α : Type} {f : Nat → Option α} {n i : Nat} {b : α} (hi : i < n) (hb : ∀ j < i, f j = none) (h : f i = some b) :
    (List.range n).findSome? f = some b := by
  obtain ⟨k, rfl⟩ := Nat.exists_eq_add_of_lt hi
  have before : (List.range i).findSome? f = none := List.findSome?_eq_none_iff.mpr fun j hj => hb j (List.mem_range.mp hj)
  rw [Nat.add_assoc, List.range_add, List.findSome?_append, before, Option.none_or, List.range_succ_eq_map,
    List.map_cons, List.findSome?_cons, Nat.add_zero, h]

/-- An all-to-all acts on the first of its streams that has a token. -/
theorem CollNode.fire_alltoall {i : Nat} (hk : nd.kind = 3) (hi : i < nd.n * nd.n) (hb : ∀ j < i, nd.head j = none) (ht : nd.head i = some t) :
    nd.fire = some ((nd.pop i).put (i % nd.n * nd.n + i / nd.n) t, []) := by
  have first : ((List.range (nd.n * nd.n)).findSome? fun q => (nd.head q).map fun t => (nd.pop q).put (q % nd.n * nd.n + q / nd.n) t) =
      some ((nd.pop i).put (i % nd.n * nd.n + i / nd.n) t) :=
    findSome?_range_first hi (fun j hj => by rw [hb j hj, Option.map_none]) (by rw [ht, Option.map_some])
  simp only [CollNode.fire, hk, first, Option.map_some]

/-- A reducing node reduces where its streams have neither ended nor stand at a token to sweep. -/
theorem CollNode.fire_reduce {nd1 : CollNode} (hk : nd.kind < 2) (he : nd.endAll = none) (hs : nd.sweep = none) (hr : nd.reduce = some nd1) :
    nd.fire = some (nd1, []) := by
  have kind : nd.kind = 0 ∨ nd.kind = 1 := by omega
  rcases kind with kind | kind
  all_goals simp only [CollNode.fire, kind, he, hs, hr, Option.orElse_none, Option.map_some]

/-- An irregular node that has not ended takes a round. -/
theorem CollNode.fire_round {r : CollNode × List (Nat × Nat × Nat)} (hk : nd.kind = 4) (he : nd.endAll = none) (hr : nd.round = some r) :
    nd.fire = some r := by
  simp only [CollNode.fire, hk, he, hr, Option.map_none, Option.orElse_none]

end
end Sys2Proof.Machine
end

section
/-! O48, conversions: what keeps members from meeting is read once, and what a meeting does once; the index of a point in a shape is its place in the
row-major order, so the element of a converted part at a point is the element that the axis gives it. -/
namespace Sys2Proof.Machine

/-! ### A rendezvous (R154, R398) -/

section
variable {s s1 : State} {cid i : Nat} {x : Ctx} (hx : s.ctx? cid = some x) (hr : x.running = true)
include hx hr

/-- Members that have come and whose tables can be read meet. -/
theorem conversionRendezvous_meets {op : CollOp} {p : Nat × Nat} (hc : x.conv? i = some op) (hs : op.started = false) (ha : op.away = false)
    (hf : op.stalled = none) (hl : op.left = []) (hp : op.places.head? = some p) (ht : s.tablesFail p.1 p.2 (convOwner p op.id) i = (s1, none)) :
    exec (.conversionRendezvous cid i) s = .next (s1.rendezvous cid i x op) := by
  change execConversionRendezvous cid i s = _
  simp only [execConversionRendezvous, hx, hr, hc, hs, ha, hf, hl, hp, ht, Bool.not_true, Option.isSome_none, List.isEmpty_nil, Bool.or_self,
    Bool.false_eq_true, if_false]

/-- The members at which a PL command waits on a DTD, each with its command. -/
def Ctx.waiting (x : Ctx) (s : State) (i : Nat) : List ((Nat × Nat) × Cmd) :=
  x.places.filterMap fun p => ((s.stream p.1 p.2).issued.find? fun y => decide (y.q = 7) && !y.done && decide (y.a.bits 9 0 = i)).map fun y => (p, y)

/-- Where no conversion is in flight, the first command that waits is met by the state that it demands, or demands it anew. -/
theorem conversionRendezvous_demands {p : Nat × Nat} {y : Cmd} {rest : List ((Nat × Nat) × Cmd)} (hc : x.conv? i = none)
    (hw : x.waiting s i = (p, y) :: rest) (hy : y.stalled = none) (ht : s.tablesFail p.1 p.2 (engOwner y.id) i = (s1, none)) :
    exec (.conversionRendezvous cid i) s =
      if ((s1.engDone p.1 p.2 (engOwner y.id)).dtdAt p.1 p.2 i).st = y.c.bits 15 0 then
        .next ((s1.engDone p.1 p.2 (engOwner y.id)).joinAt p i (y.c.bits 15 0) 0 stOk)
      else .next ((s1.engDone p.1 p.2 (engOwner y.id)).forkConv p.1 p.2 i (y.c.bits 15 0)) := by
  change execConversionRendezvous cid i s = _
  unfold Ctx.waiting at hw
  simp only [execConversionRendezvous, hx, hr, hc, hw, hy, ht, Bool.not_true, Option.isSome_none, Bool.false_eq_true, if_false]

end

/-- The members cannot meet: busy is clear, and the context ends with a detail of R398. -/
def State.meetingFails (s : State) (cid i : Nat) (x : Ctx) (p : Nat × Nat) (n : Nat) : State :=
  (s.setBusy p.1 p.2 i false).faultEnd cid 0x0E n (s.stream p.1 p.2).pc (dtdAddr x.ptab i) 0

/-- What a conversion writes, with the member that each write is for: its staging area and then its buffer. -/
def Dtd.writes (d : Dtd) (out : List (List PByte)) : List (Nat × DWord × List PByte) :=
  (List.range out.length).flatMap fun m => [(m, d.stageOf m, out.getD m []), (m, d.buf m, out.getD m [])]

/-- The converted shares are in their places and counted for done. -/
def State.converted (s : State) (cid i : Nat) (op : CollOp) (p : Nat × Nat) (d : Dtd) (out : List (List PByte)) : State :=
  let place (m : Nat) : Nat × Nat := op.places.getD m p
  let put (s : State) (w : Nat × DWord × List PByte) : State := s.engPut (place w.1).1 (place w.1).2 (convOwner (place w.1) op.id) w.2.1 w.2.2
  (op.places.foldl (fun s q => s.engDone q.1 q.2 (convOwner q op.id)) ((d.writes out).foldl put s)).modConv cid i fun op =>
    { op with started := true, poisoned := out.any anyBad, bytes := (List.range out.length).map fun m => (m, (out.getD m []).length) }

/-- Members whose DTDs all agree leave none that differs. -/
theorem places_agree {s : State} {i : Nat} {op : CollOp} {d : Dtd} (hq : ∀ q ∈ op.places, sameDtd d (s.dtdAt q.1 q.2 i) = true) :
    (op.places.any fun q => !(sameDtd d (s.dtdAt q.1 q.2 i))) = false := by simpa using hq

section
variable {s s1 s2 s3 : State} {cid i : Nat} {x : Ctx} {op : CollOp} {p : Nat × Nat} {d : Dtd} (hp : op.places.head? = some p)
  (hd : s.dtdAt p.1 p.2 i = d)
include hp hd

/-- A plan that is not allowed ends the context with its detail. -/
theorem rendezvous_plan {n : Nat} (h : planBad d.nd d.ty d.st op.target = some n) : s.rendezvous cid i x op = s.meetingFails cid i x p n := by
  simp only [State.rendezvous, hp, hd, h, State.meetingFails]

variable (h : planBad d.nd d.ty d.st op.target = none)
include h

/-- Demands of members that differ end it with detail 3. -/
theorem rendezvous_rival (hr : op.rival = true) : s.rendezvous cid i x op = s.meetingFails cid i x p 3 := by
  simp only [State.rendezvous, hp, hd, h, hr, if_true, State.meetingFails]

variable (hr : op.rival = false)
include hr

/-- DTDs of members that differ end it with detail 4 (R147). -/
theorem rendezvous_differ (hq : ∃ q ∈ op.places, sameDtd d (s.dtdAt q.1 q.2 i) = false) : s.rendezvous cid i x op = s.meetingFails cid i x p 4 := by
  have differ : (op.places.any fun q => !(sameDtd d (s.dtdAt q.1 q.2 i))) = true := by simpa using hq
  simp only [State.rendezvous, hp, hd, h, hr, differ, Bool.false_eq_true, if_false, if_true, State.meetingFails]

variable (hq : ∀ q ∈ op.places, sameDtd d (s.dtdAt q.1 q.2 i) = true)
include hq

/-- A range table without room keeps the members waiting (R143). -/
theorem rendezvous_full (he : s.enterAll cid op d = none) : s.rendezvous cid i x op = s := by
  simp only [State.rendezvous, hp, hd, h, hr, places_agree hq, he, Bool.false_eq_true, if_false]

/-- Members that meet convert their parts. -/
theorem rendezvous_converts {ps : List Part} {out : List (List PByte)} (he : s.enterAll cid op d = some s1)
    (hin : s1.readParts op d (s.meshAt p.1 p.2) = (s2, .ok ps)) (hout : (convertAll d (s.meshAt p.1 p.2) op.target ps).map (partBytes d) = out)
    (hw : s2.convFail ((d.writes out).map fun w => (op.places.getD w.1 p, convOwner (op.places.getD w.1 p) op.id, w.2.1, w.2.2)) = (s3, none)) :
    s.rendezvous cid i x op = s3.converted cid i op p d out := by
  unfold Dtd.writes at hw
  simp only [State.rendezvous, hp, hd, h, hr, places_agree hq, he, hin, hout, hw, Bool.false_eq_true, if_false]
  rfl

end

/-! ### Completion (R154, R399) -/

/-- Word 0 of a DTD in a new state and the next generation, not busy. -/
def Dtd.next (d : Dtd) (target : Nat) : DWord := BitVec.ofNat 64 (target % 65536 * 2 ^ 48 + (d.gen + 1) % 2 ^ 14 * 2 ^ 34 + d.w0.bits 32 0)

/-- A completed conversion leaves the tables, and is joined at every member that has not left it. -/
def State.joined (s : State) (cid i : Nat) (x : Ctx) (op : CollOp) (p : Nat × Nat) (d : Dtd) : State :=
  let own := convOwner p op.id
  let t := ((s.engPut p.1 p.2 own (dtdAddr x.ptab i) (pbytes 8 (d.next op.target).toNat false)).engDone p.1 p.2 own).modCtx cid fun x =>
    { x.releaseConv op with colls := x.colls.filter fun o => decide (o.dtd ≠ i) }
  let status := if op.poisoned then stPoisoned else stOk
  ((List.range op.places.length).filter fun m => !(op.left.contains m)).foldl (fun s m =>
    let q := op.places.getD m p
    (s.signalVa q.1 q.2 d.done (op.bytes.get 0 m) status).joinAt q i op.target (op.bytes.get 0 m) status) t

theorem conversionComplete_joins {s s1 : State} {cid i : Nat} {x : Ctx} {op : CollOp} {p : Nat × Nat} {d : Dtd} (hx : s.ctx? cid = some x)
    (hc : x.conv? i = some op) (hp : op.places.head? = some p) (hs : op.started = true) (hf : op.stalled = none) (hd : s.dtdAt p.1 p.2 i = d)
    (he : s.engReady p.1 p.2 (convOwner p op.id) (dtdAddr x.ptab i) (pbytes 8 (d.next op.target).toNat false) = (s1, none)) :
    exec (.conversionComplete cid i) s = .next (s1.joined cid i x op p d) := by
  change execConversionComplete cid i s = _
  unfold Dtd.next at he
  simp only [execConversionComplete, hx, hc, hp, hs, hf, hd, he, Option.bind_some, Option.map_some, Bool.not_true, Option.isSome_none,
    Bool.or_self, Bool.false_eq_true, if_false]
  rfl

/-! ### Points of a shape (R149) -/

/-- The row-major order lists as many points as the product of the ranges. -/
theorem length_pointsOf (shape : List (Nat × Nat)) : (pointsOf shape).length = (shape.map fun q => q.2 - q.1).foldl (· * ·) 1 := by
  induction shape with
  | nil => rfl
  | cons q r ih =>
    rw [pointsOf, List.length_flatMap, List.map_cons, List.foldl_cons, Nat.mul_comm, List.foldl_assoc, ← ih]
    simp only [List.length_map, List.map_const', List.length_range, List.sum_replicate_nat]

/-- In blocks of one length, element j of block k is the element at k lengths and j. -/
theorem getElem?_flatMap_range {α : Type} {f : Nat → List α} {l n k j : Nat} (hf : ∀ i, (f i).length = l) (hk : k < n) (hj : j < l) :
    ((List.range n).flatMap f)[k * l + j]? = (f k)[j]? := by
  obtain ⟨m, rfl⟩ := Nat.exists_eq_add_of_lt hk
  have before : ((List.range k).flatMap f).length = k * l := by
    simp only [List.length_flatMap, hf, List.map_const', List.length_range, List.sum_replicate_nat]
  rw [Nat.add_assoc, List.range_add, List.flatMap_append, List.getElem?_append_right (by omega), before, Nat.add_sub_cancel_left,
    List.range_succ_eq_map, List.map_cons, List.flatMap_cons, Nat.add_zero, List.getElem?_append_left (by rwa [hf])]

/-- The index of a point is its place in the order. -/
theorem indexIn_of_mem {shape : List (Nat × Nat)} {z : List Nat} (h : z ∈ pointsOf shape) :
    ∃ j, indexIn shape z = some j ∧ (pointsOf shape)[j]? = some z := by
  induction shape generalizing z with
  | nil =>
    obtain rfl := List.mem_singleton.mp h
    exact ⟨0, rfl, rfl⟩
  | cons q r ih =>
    obtain ⟨lo, hi⟩ := q
    obtain ⟨k, hk, h⟩ := List.mem_flatMap.mp h
    obtain ⟨y, hy, rfl⟩ := List.mem_map.mp h
    have inside : k < hi - lo := List.mem_range.mp hk
    obtain ⟨j, index, place⟩ := ih hy
    have within : j < (pointsOf r).length := (List.getElem?_eq_some_iff.mp place).1
    refine ⟨k * (pointsOf r).length + j, ?_, ?_⟩
    · rw [indexIn, if_pos (by omega), index, Option.map_some, ← length_pointsOf, Nat.add_sub_cancel_left]
    · rw [pointsOf, getElem?_flatMap_range (fun i => List.length_map _) inside within, List.getElem?_map, place, Option.map_some]

/-- A part made point by point holds at each point what was made for it. -/
theorem Part.at_of_mem {shape : List (Nat × Nat)} {z : List Nat} (el : List Nat → PEl) (h : z ∈ pointsOf shape) :
    (Part.mk shape ((pointsOf shape).map el)).at_ z = some (el z) := by
  obtain ⟨j, index, place⟩ := indexIn_of_mem h
  rw [Part.at_, index, Option.map_some, List.getD_eq_getElem?_getD, List.getElem?_map, place]; rfl

/-! ### One axis (R150, Table 7.5) -/

/-- The dimensions that an axis cuts before or after its conversion to u. -/
def axisDims (st a u : Nat) : List Nat := ([stOf st a, u].filter fun c => decide (c / 4 = 1)).map fun c => c % 4

section
variable (d : Dtd) (ns : List Nat) (st a u : Nat) (ps : List Part)

/-- The element at a point that member g holds, or a member that shares its cut. -/
def axisHeld (z : List Nat) (g : Nat) : Option PEl :=
  (sameCut ns st a (axisDims st a u) g).findSome? fun h => (ps.getD h default).at_ z

/-- The element that the conversion of axis a to u gives member m at a point. -/
def axisEl (m : Nat) (z : List Nat) : PEl :=
  if stOf st a / 4 = 2 then combineAll (stOf st a % 4) d.ty d.rnd d.ftz ((axisGroup ns m a).map fun g => (axisHeld ns st a u ps z g).getD (0, false))
  else if stOf st a / 4 = 1 ∧ u ≠ 8 then ((axisGroup ns m a).findSome? (axisHeld ns st a u ps z)).getD (0, false)
  else if stOf st a = 0 ∧ u = 8 ∧ coordOf ns m a ≠ 0 then (0, false)
  else (axisHeld ns st a u ps z m).getD (0, false)

/-- A member's part has the shape of the state after the axis and those elements. -/
theorem convertAxis_part {m : Nat} (hm : m < ps.length) : (convertAxis d ns st a u ps).getD m default =
    ⟨localShape d ns (setSt st a u) m, (pointsOf (localShape d ns (setSt st a u) m)).map (axisEl d ns st a u ps m)⟩ := by
  rw [List.getD_eq_getElem?_getD, convertAxis, List.getElem?_map, List.getElem?_range hm]; rfl

variable {ns st a u ps} {z : List Nat}

/-- A member's own element comes before those of the members that share its cut. -/
theorem axisHeld_self {g : Nat} {v : PEl} (h : (ps.getD g default).at_ z = some v) : axisHeld ns st a u ps z g = some v := by
  rw [axisHeld, sameCut, List.findSome?_cons, h]

theorem axisHeld_none {g : Nat}
    (h : ∀ q ∈ sameCut ns st a (axisDims st a u) g, (ps.getD q default).at_ z = none) :
    axisHeld ns st a u ps z g = none := List.findSome?_eq_none_iff.mpr h

/-- A search that only one member of a list answers ends at it. -/
theorem findSome?_only {α β : Type} {f : α → Option β} {l : List α} {g : α} {v : β} (hg : g ∈ l) (hv : f g = some v)
    (ho : ∀ h ∈ l, h ≠ g → f h = none) : l.findSome? f = some v := by
  cases found : l.findSome? f with
  | none => exact absurd (List.findSome?_eq_none_iff.mp found g hg) (by simp [hv])
  | some w =>
    obtain ⟨h, mem, hw⟩ := List.exists_of_findSome?_eq_some found
    have same : h = g := Classical.byContradiction fun ne => by simp [ho h mem ne] at hw
    rw [← hv, ← same, hw]

section
variable {m : Nat}

/-- From partial sums: the combination over the axis group. -/
theorem axisEl_partial {w : Nat → PEl} (hf : stOf st a / 4 = 2) (hw : ∀ g ∈ axisGroup ns m a, (ps.getD g default).at_ z = some (w g)) :
    axisEl d ns st a u ps m z = combineAll (stOf st a % 4) d.ty d.rnd d.ftz ((axisGroup ns m a).map w) := by
  rw [axisEl, if_pos hf]
  exact congrArg _ (List.map_congr_left fun g hg => by rw [axisHeld_self (hw g hg), Option.getD_some])

/-- From a cut to another cut, or to copies: the element of the member of the group that holds it. -/
theorem axisEl_cut {g : Nat} {v : PEl} (hf : stOf st a / 4 = 1) (hu : u ≠ 8) (hg : g ∈ axisGroup ns m a) (hv : (ps.getD g default).at_ z = some v)
    (ho : ∀ h ∈ axisGroup ns m a, h ≠ g → ∀ q ∈ sameCut ns st a (axisDims st a u) h,
      (ps.getD q default).at_ z = none) : axisEl d ns st a u ps m z = v := by
  rw [axisEl, if_neg (by omega), if_pos ⟨hf, hu⟩, findSome?_only hg (axisHeld_self hv) fun h mem ne => axisHeld_none (ho h mem ne), Option.getD_some]

variable {v : PEl} (hv : (ps.getD m default).at_ z = some v)
include hv

/-- From a cut to partial sums: the member's own element. -/
theorem axisEl_cut_partial (hf : stOf st a / 4 = 1) (hu : u = 8) : axisEl d ns st a u ps m z = v := by
  rw [axisEl, if_neg (by omega), if_neg (fun h => h.2 hu), if_neg (by omega), axisHeld_self hv, Option.getD_some]

/-- From copies: the member's own element, and of partial sums that of coordinate 0 alone. -/
theorem axisEl_copies (hf : stOf st a = 0) : axisEl d ns st a u ps m z = if u = 8 ∧ coordOf ns m a ≠ 0 then (0, false) else v := by
  rw [axisEl, if_neg (by omega), if_neg (by omega), axisHeld_self hv, Option.getD_some]
  simp only [hf, true_and]

end
end

/-- Settles O48: each node step is its kind's firing, each meeting and completion its one lemma, and each element of a converted part the element of
its axis at that point. -/
theorem nodeAndConversionSteps : Obligations.NodeAndConversionSteps := by
  intro s s1 s2 s3 s4 cid i n x op nd nd1 told p y t ps
  refine ⟨?nodes, ?meetings, ?axes, ?demands, ?completions⟩
  case nodes =>
    intro c k goes hn hr
    refine ⟨nodeFire_delivers hn hr, fun hd => ?fires⟩
    have fires {nd1 : CollNode} (hf : nd.fire = some (nd1, [])) : goes nd1 := nodeFire_fires hn hr hd hf
    refine ⟨nodeFire_idle hn hr hd, fun hk h0 heos ht => ?eos, fun hk he ht hkind => ?turnEnds, fun hk hturn ht hkind => ?gathers,
      fun hk hi hb ht => ?exchanges, fun ts hk hlen hh hdense ht hl => ?reduces, fun hk he hround => ?round⟩
    case eos => exact fires (CollNode.fire_end hk (CollNode.endAll_eos h0 heos ht))
    case turnEnds =>
      have fired := CollNode.fire_gather hk he ht
      rw [if_pos hkind] at fired
      exact fires fired
    case gathers =>
      have going : nd.endAll = none := CollNode.endAll_none hturn fun e he => by rwa [← Option.some.inj (ht.symm.trans he)]
      have fired := CollNode.fire_gather hk going ht
      rw [if_neg hkind] at fired
      exact fires fired
    case exchanges => exact fires (CollNode.fire_alltoall hk hi hb ht)
    case reduces =>
      have data (u : Token) (hu : u ∈ ts) : isData u = true ∧ u.tag = t.tag :=
        (hdense u hu).imp_left fun kind => by rw [isData, kind, decide_eq_true rfl, Bool.true_or]
      obtain ⟨pos, head⟩ := CollNode.first_of_head hlen hh ht
      have going : nd.endAll = none := CollNode.endAll_none pos fun e he =>
        Option.some.inj (head.symm.trans he) ▸ isData_ne_eos (data t (List.mem_of_head? ht)).1
      exact fires (CollNode.fire_reduce hk going (CollNode.sweep_none hlen hh data) (CollNode.reduce_heads hlen hh data ht hl))
    case round => exact nodeFire_fires hn hr hd (CollNode.fire_round hk he hround)
  case meetings =>
    intro hx hr hc hs ha hf hl hp ht d ends
    have meets {t : State} (h : s1.rendezvous cid i x op = t) : exec (.conversionRendezvous cid i) s = .next t :=
      h ▸ conversionRendezvous_meets hx hr hc hs ha hf hl hp ht
    refine ⟨fun hplan => meets (rendezvous_plan hp rfl hplan), fun hplan => ⟨fun hrival => meets (rendezvous_rival hp rfl hplan hrival),
      fun hrival hq => meets (rendezvous_differ hp rfl hplan hrival hq), fun hrival hq => ⟨?full, ?converts⟩⟩⟩
    case full => exact fun he => meets (rendezvous_full hp rfl hplan hrival hq he)
    case converts => exact fun he hin hw => meets (rendezvous_converts hp rfl hplan hrival hq he hin rfl hw)
  case axes =>
    intro d ns st a u m z v f grp shape part ds hm hz
    have made : part = ⟨shape, (pointsOf shape).map (axisEl d ns st a u ps m)⟩ := convertAxis_part d ns st a u ps hm
    have at_z {e : PEl} (h : axisEl d ns st a u ps m z = e) : part.at_ z = some e := by rw [made, Part.at_of_mem _ hz, h]
    refine ⟨congrArg Part.shape made, fun hf w hw => ?partials, fun hf hu g hg hv ho => ?cut, fun hf hu hv => ?cutPartial, fun hf hv => ?copies⟩
    case partials => exact at_z (axisEl_partial d hf hw)
    case cut => exact at_z (axisEl_cut d hf hu hg hv ho)
    case cutPartial => exact at_z (axisEl_cut_partial d hv hf hu)
    case copies => exact at_z (axisEl_copies d hv hf)
  case demands =>
    intro hx hr hc hw hy ht u
    obtain ⟨rest, hw⟩ := hw
    have met := conversionRendezvous_demands hx hr hc hw hy ht
    exact ⟨fun same => met.trans (if_pos same), fun other => met.trans (if_neg other)⟩
  case completions =>
    intro hx hc hp hs hf d own w0 he
    exact conversionComplete_joins hx hc hp hs hf rfl he

end Sys2Proof.Machine
end

section
/-! ## Encodings (chapter 9): every word reads back as the instruction and operands that made it

A word is a concatenation of fields, highest first, and a decoder takes fields out of it. Each format of Table 9.1 says once what its fields read back as;
a round trip is then the decoder's `match` on known opcode and function numbers. -/
namespace Sys2Proof
open BitVec (extractLsb'_eq_self)

/-- A field of two words side by side that lies in the upper one, or in the lower. -/
theorem field_append {m n : Nat} (hi : BitVec m) (lo : BitVec n) (s k : Nat) :
    (n ≤ s → (hi ++ lo).extractLsb' s k = hi.extractLsb' (s - n) k) ∧ (s + k ≤ n → (hi ++ lo).extractLsb' s k = lo.extractLsb' s k) :=
  ⟨BitVec.extractLsb'_append_eq_of_le, BitVec.extractLsb'_append_eq_of_add_le⟩

/-- A field of n + m bits is its two parts side by side. -/
theorem extractLsb'_add {w : Nat} (x : BitVec w) (s n m : Nat) :
    x.extractLsb' s (n + m) = x.extractLsb' (s + m) n ++ x.extractLsb' s m := by
  ext i hi
  rw [BitVec.getElem_append]
  split <;> simp only [BitVec.getElem_extractLsb']
  congr 1; omega

@[simp] theorem opcode_toNat (op : Nat) : (op6 op).toNat = op % 64 := BitVec.toNat_ofNat ..

@[simp] theorem need_true (i : Instr) : need true i = .ok i := rfl

@[simp] theorem p6_low (p : BitVec 3) : (p6 p).extractLsb' 0 3 = p := BitVec.extractLsb'_append_eq_right

@[simp] theorem flag1_fields (f : BitVec 1) : (0#3 ++ f : BitVec 4).extractLsb' 0 1 = f ∧ (0#3 ++ f : BitVec 4).extractLsb' 1 3 = 0#3 :=
  ⟨BitVec.extractLsb'_append_eq_right, BitVec.extractLsb'_append_eq_left⟩

@[simp] theorem flag2_fields (p : BitVec 2) : (0#2 ++ p : BitVec 4).extractLsb' 0 2 = p ∧ (0#2 ++ p : BitVec 4).extractLsb' 2 2 = 0#2 :=
  ⟨BitVec.extractLsb'_append_eq_right, BitVec.extractLsb'_append_eq_left⟩

@[simp] theorem p6_zero : p6 0#3 = 0#6 := rfl

@[simp] theorem p6_le (p : BitVec 3) : (p6 p).toNat ≤ 7 := by
  have small : p.toNat < 8 := p.isLt
  rw [p6, BitVec.toNat_append]
  simp only [BitVec.toNat_ofNat, Nat.zero_mod, Nat.zero_shiftLeft, Nat.zero_or]
  omega

/-! ### The fields of each format (Table 9.1) -/

section
variable (op fn : Nat) (d a b c x : BitVec 6)

@[simp] theorem encR_fields :
    (encR op fn d a b).extractLsb' 26 6 = op6 op ∧ fD (encR op fn d a b) = d ∧ fA (encR op fn d a b) = a ∧ fB (encR op fn d a b) = b ∧
      fFn (encR op fn d a b) = fn % 256 := by
  simp (disch := decide) only [encR, fD, fA, fB, fFn, field_append, extractLsb'_eq_self, Nat.reduceSub, BitVec.toNat_ofNat, Nat.reducePow, and_self]

@[simp] theorem encA_fields (c : BitVec 2) (s o : BitVec 1) :
    (encA fn d a b c s o).extractLsb' 26 6 = op6 0x16 ∧ fD (encA fn d a b c s o) = d ∧ fA (encA fn d a b c s o) = a ∧
      fB (encA fn d a b c s o) = b ∧ (encA fn d a b c s o).extractLsb' 4 4 = BitVec.ofNat 4 fn ∧
      (encA fn d a b c s o).extractLsb' 2 2 = c ∧ (encA fn d a b c s o).extractLsb' 1 1 = s ∧ (encA fn d a b c s o).extractLsb' 0 1 = o := by
  simp (disch := decide) only [encA, fD, fA, fB, field_append, extractLsb'_eq_self, Nat.reduceSub, and_self]

@[simp] theorem encF_fields (f : BitVec 1) :
    (encF fn d a b f).extractLsb' 26 6 = op6 0x18 ∧ fD (encF fn d a b f) = d ∧ fA (encF fn d a b f) = a ∧ fB (encF fn d a b f) = b ∧
      (encF fn d a b f).extractLsb' 7 1 = f ∧ (encF fn d a b f).extractLsb' 0 7 = BitVec.ofNat 7 fn := by
  simp (disch := decide) only [encF, fD, fA, fB, field_append, extractLsb'_eq_self, Nat.reduceSub, and_self]

@[simp] theorem encS_fields (s : BitVec 4) :
    (encS op fn d a s).extractLsb' 26 6 = op6 op ∧ fD (encS op fn d a s) = d ∧ fA (encS op fn d a s) = a ∧
      (encS op fn d a s).extractLsb' 4 10 = BitVec.ofNat 10 fn ∧ (encS op fn d a s).extractLsb' 0 4 = s := by
  simp (disch := decide) only [encS, fD, fA, field_append, extractLsb'_eq_self, Nat.reduceSub, and_self]

@[simp] theorem encT_fields (d a b h : BitVec 3) (c : BitVec 2) :
    (encT op fn d a b h c x).extractLsb' 26 6 = op6 op ∧ (encT op fn d a b h c x).extractLsb' 23 3 = d ∧
      (encT op fn d a b h c x).extractLsb' 20 3 = a ∧ (encT op fn d a b h c x).extractLsb' 17 3 = b ∧
      (encT op fn d a b h c x).extractLsb' 14 3 = h ∧ (encT op fn d a b h c x).extractLsb' 12 2 = c ∧
      (encT op fn d a b h c x).extractLsb' 6 6 = BitVec.ofNat 6 fn ∧ (encT op fn d a b h c x).extractLsb' 0 6 = x ∧
      (encT op fn d a b h c x).extractLsb' 0 3 = x.extractLsb' 0 3 := by
  simp (disch := decide) only [encT, field_append, extractLsb'_eq_self, Nat.reduceSub, and_self]

@[simp] theorem encQ_fields (q : Nat) (f : BitVec 4) :
    (encQ op q a b c f).extractLsb' 26 6 = op6 op ∧ (encQ op q a b c f).extractLsb' 22 4 = BitVec.ofNat 4 q ∧
      (encQ op q a b c f).extractLsb' 16 6 = a ∧ (encQ op q a b c f).extractLsb' 10 6 = b ∧ (encQ op q a b c f).extractLsb' 4 6 = c ∧
      (encQ op q a b c f).extractLsb' 0 4 = f ∧ (encQ op q a b c f).extractLsb' 1 3 = f.extractLsb' 1 3 ∧
      (encQ op q a b c f).extractLsb' 2 2 = f.extractLsb' 2 2 ∧ (encQ op q a b c f).extractLsb' 0 1 = f.extractLsb' 0 1 ∧
      (encQ op q a b c f).extractLsb' 0 2 = f.extractLsb' 0 2 := by
  simp (disch := decide) only [encQ, field_append, extractLsb'_eq_self, Nat.reduceSub, and_self]

@[simp] theorem encP_fields (d a b : BitVec 3) :
    (encP fn d a b).extractLsb' 26 6 = op6 0x0D ∧ (encP fn d a b).extractLsb' 23 3 = 0#3 ∧ (encP fn d a b).extractLsb' 20 3 = d ∧
      (encP fn d a b).extractLsb' 17 3 = 0#3 ∧ (encP fn d a b).extractLsb' 14 3 = a ∧ (encP fn d a b).extractLsb' 11 3 = 0#3 ∧
      (encP fn d a b).extractLsb' 8 3 = b ∧ fFn (encP fn d a b) = fn % 256 := by
  simp (disch := decide) only [encP, fFn, field_append, extractLsb'_eq_self, Nat.reduceSub, BitVec.toNat_ofNat, Nat.reducePow, and_self]

/-- The field that a command or operation with two operands leaves unused spans c and f. -/
@[simp] theorem encQ_unused (q : Nat) (f : BitVec 4) :
    (encQ op q a b c f).extractLsb' 0 10 = c ++ f ∧ (encQ op q a b c f).extractLsb' 2 8 = c ++ f.extractLsb' 2 2 :=
  ⟨(extractLsb'_add _ 0 6 4).trans (by simp only [encQ_fields, Nat.reduceAdd]),
    (extractLsb'_add _ 2 6 2).trans (by simp only [encQ_fields, Nat.reduceAdd])⟩

@[simp] theorem encQ_lowBit (q : Nat) (f : BitVec 4) : (encQ op q a b c f).getLsbD 0 = f.getLsbD 0 := by
  rw [encQ, BitVec.getLsbD_append, if_pos (by decide)]

/-- An operand field that holds a predicate's number has zeros above it. -/
@[simp] theorem encP_operands (d a b : BitVec 3) : fA (encP fn d a b) = p6 a ∧ fB (encP fn d a b) = p6 b :=
  ⟨(extractLsb'_add _ 14 3 3).trans (by simp only [encP_fields, Nat.reduceAdd, p6]),
    (extractLsb'_add _ 8 3 3).trans (by simp only [encP_fields, Nat.reduceAdd, p6])⟩

/-! ### The opcode selects the decoder (Table 9.2) -/

@[simp] theorem decodeSeq_encR_alu : decodeSeq (encR 1 fn d a b) = decAlu (encR 1 fn d a b) := by simp [decodeSeq]
@[simp] theorem decodeSeq_encP (p q r : BitVec 3) : decodeSeq (encP fn p q r) = decPred (encP fn p q r) := by simp [decodeSeq]
@[simp] theorem decodeSeq_encF (f : BitVec 1) : decodeSeq (encF fn d a b f) = decFloat (encF fn d a b f) := by simp [decodeSeq]
@[simp] theorem decodeSeq_encR_jump : decodeSeq (encR 0x23 fn d a b) = decObj (encR 0x23 fn d a b) := by simp [decodeSeq]
@[simp] theorem decodeSeq_encT_time (p q r h : BitVec 3) (c : BitVec 2) : decodeSeq (encT 0x28 fn p q r h c x) = decTime (encT 0x28 fn p q r h c x) :=
  by simp [decodeSeq]
@[simp] theorem decodeSeq_encT_frontier (p q r h : BitVec 3) (c : BitVec 2) : decodeSeq (encT 0x29 fn p q r h c x) = decHz (encT 0x29 fn p q r h c x) :=
  by simp [decodeSeq]
@[simp] theorem decodeSeq_encQ_enq (f : BitVec 4) : decodeSeq (encQ 0x30 fn a b c f) = decEnq (encQ 0x30 fn a b c f) := by simp [decodeSeq]
@[simp] theorem decodeSeq_encQ_cfg (f : BitVec 4) : decodeSeq (encQ 0x35 fn a b c f) = decCfg (encQ 0x35 fn a b c f) := by simp [decodeSeq]
@[simp] theorem decodeSeq_encS_ctx (s : BitVec 4) : decodeSeq (encS 0x36 fn d a s) = decCtx (encS 0x36 fn d a s) := by simp [decodeSeq]
@[simp] theorem decodeSeq_encS_sys (s : BitVec 4) : decodeSeq (encS 0x3C fn d a s) = decSys (encS 0x3C fn d a s) := by simp [decodeSeq]
@[simp] theorem decodeSeq_encA (c : BitVec 2) (s o : BitVec 1) : decodeSeq (encA fn d a b c s o) = decAmo (encA fn d a b c s o) := by
  simp [decodeSeq, decMem]

end

/-! ### Words with a layout of their own -/

section
variable {p : BitVec 3} {c x y : BitVec 4} {d a b e : BitVec 6} {f : BitVec 1}

theorem decodeSeq_cmp (assigned : c.toNat ≤ 9) : decodeSeq (op6 0x0A ++ p ++ c ++ a ++ b ++ 0#7) = .ok (.cmp p c a b) := by
  simp (disch := decide) only [decodeSeq, decCmp, field_append, extractLsb'_eq_self, Nat.reduceSub, opcode_toNat, Nat.reduceMod, assigned, if_true]
  rfl

theorem decodeSeq_cmpi {i : BitVec 13} (assigned : c.toNat ≤ 9) : decodeSeq (op6 0x0B ++ p ++ c ++ a ++ i) = .ok (.cmpi p c a i) := by
  simp (disch := decide) only [decodeSeq, decCmp, field_append, extractLsb'_eq_self, Nat.reduceSub, opcode_toNat, Nat.reduceMod, assigned, if_true]

theorem decodeSeq_fcmp (assigned : c.toNat ≤ 7) : decodeSeq (op6 0x1A ++ p ++ c ++ a ++ b ++ f ++ 0#6) = .ok (.fcmp p c a b f) := by
  simp (disch := decide) only [decodeSeq, decCmp, field_append, extractLsb'_eq_self, Nat.reduceSub, opcode_toNat, Nat.reduceMod, assigned, if_true]
  rfl

theorem decodeSeq_fcvt (assigned : x.toNat ≤ 7 ∧ y.toNat ≤ 7 ∧ x ≠ y) : decodeSeq (op6 0x1B ++ d ++ a ++ 0#6 ++ x ++ y) = .ok (.fcvt d a x y) := by
  simp (disch := decide) only [decodeSeq, fD, fA, fB, field_append, extractLsb'_eq_self, Nat.reduceSub, opcode_toNat, Nat.reduceMod, if_pos assigned]
  rfl

theorem decodeSeq_sigc (assigned : p.toNat ≤ 5) : decodeSeq (op6 0x32 ++ 0#6 ++ a ++ b ++ 0#5 ++ p) = .ok (.sigc a b p) := by
  simp (disch := decide) only [decodeSeq, decObj, fD, fA, fB, field_append, extractLsb'_eq_self, Nat.reduceSub, opcode_toNat, Nat.reduceMod,
    assigned, if_true]
  rfl

/-- R206: of ldc's two size bits the upper is 1. -/
theorem decodeSeq_ldc {o : BitVec 12} : decodeSeq (op6 0x13 ++ d ++ a ++ 1#1 ++ f ++ o) = .ok (.ldc d a f o) := by
  have wide : ((op6 0x13 ++ d ++ a ++ 1#1 ++ f ++ o).extractLsb' 12 2).getLsbD 1 = true := by
    simp only [BitVec.getLsbD_extractLsb', BitVec.getLsbD_append]
    rfl
  simp only [decodeSeq, decMem, wide, if_true]
  simp (disch := decide) only [fD, fA, field_append, extractLsb'_eq_self, Nat.reduceSub, opcode_toNat, Nat.reduceMod]

theorem decodeSeq_ffma : decodeSeq (op6 0x19 ++ d ++ a ++ b ++ e ++ 0#1 ++ f) = .ok (.ffma d a b e f) := by
  have unused : (op6 0x19 ++ d ++ a ++ b ++ e ++ 0#1 ++ f).getLsbD 1 = false := by
    simp only [BitVec.getLsbD_append]
    rfl
  simp only [decodeSeq, unused]
  simp (disch := decide) only [fD, fA, fB, field_append, extractLsb'_eq_self, Nat.reduceSub, opcode_toNat, Nat.reduceMod]
  rfl

/-- Table 10.8: enq.ag overrides the base of its descriptor, or its third register is 0. -/
theorem decodeSeq_enqAg (used : f = 1 ∨ b = 0) : decodeSeq (encQ 0x30 1 d a b (0#3 ++ f)) = .ok (.enqAg d a b f) := by
  have base : ((0#3 ++ f : BitVec 4).getLsbD 0 || b == 0) = true := by
    rcases used with rfl | rfl
    · rfl
    · exact Bool.or_true _
  simp only [decodeSeq_encQ_enq, decEnq, encQ_fields, encQ_lowBit, base, flag1_fields]
  rfl

end

/-- The word of each instruction, grouped by the decoder of its opcode, reads back as it; an instruction of another unit has no word here. -/
theorem decodeSeq_encodeSeq {i : Instr} {w : Word} (wf : i.wf = true) (enc : encodeSeq i = some w) : decodeSeq w = .ok i := by
  cases i with
  | add d a b | sub d a b | mul d a b | mulh d a b | mulhn d a b | div d a b | divn d a b | rem d a b | remn d a b | adds d a b
  | subs d a b | and d a b | or d a b | xor d a b | andn d a b | orn d a b | shl d a b | shr d a b | sra d a b | rol d a b | min d a b
  | max d a b | minn d a b | maxn d a b | clz d a | ctz d a | popc d a | brev d a =>
    cases enc
    simp [decAlu]
  | pand d a b | por d a b | pxor d a b | pnot d a | pmov d a | pset d | pclr d =>
    cases enc
    simp [decPred]
  | amoAdd d a b c s o | amoAnd d a b c s o | amoOr d a b c s o | amoXor d a b c s o | amoMin d a b c s o | amoMax d a b c s o
  | amoMinn d a b c s o | amoMaxn d a b c s o | amoSwap d a b c s o | amoCas d a b c s o | amoFadd d a b c o =>
    cases enc
    simp [decAmo]
  | fadd d a b f | fsub d a b f | fmul d a b f | fdiv d a b f | fmin d a b f | fmax d a b f | fsqrt d a f | fabs d a f | fneg d a f =>
    cases enc
    simp [decFloat]
  | jr a | callr a | ret =>
    cases enc
    simp [decObj]
  | tmov d a | tset d c x | tget a c x | tinc d a c x | tjoin d a b | tmeet d a b | tle a b p | tlt a b p | teq a b p | tadv d a c x
  | tinci d a c n =>
    cases enc
    simp [decTime]
  | hzld h x | hzwait a h | hzpub h x | hzle a h p | hzget h x | hztime d h e =>
    cases enc
    simp [decHz]
  | enqMx a b c | enqCl a b | enqLk a b | enqSc a b | enqTi a b c p | enqTo a b p | enqPl a b c =>
    cases enc
    simp [decEnq]
  | cfgLoad a b c | cfgSwitch b c | cfgPage a b =>
    cases enc
    simp [decCfg]
  | ctxLaunch a | ctxPrio a n | ctxSusp a | ctxResume a | ctxEvict a =>
    cases enc
    simp [decCtx]
  | mfs d r s | mts d r s | trap a | reti | exit | trace a | nop | yield =>
    cases enc
    simp [decSys]
  | addi d a i | andi d a i | ori d a i | xori d a i =>
    cases enc
    simp (disch := decide) only [decodeSeq, fD, fA, field_append, extractLsb'_eq_self, Nat.reduceSub, opcode_toNat, Nat.reduceMod]
  | shli d a n | shri d a n | srai d a n | roli d a n =>
    cases enc
    simp (disch := decide) only [decodeSeq, decShi, fD, fA, field_append, extractLsb'_eq_self, Nat.reduceSub, opcode_toNat, Nat.reduceMod,
      BitVec.toNat_ofNat, Nat.reducePow]
    rfl
  | li d i | lui d i | luh d i =>
    cases enc
    simp (disch := decide) only [decodeSeq, fD, field_append, extractLsb'_eq_self, Nat.reduceSub, opcode_toNat, Nat.reduceMod]
  | ld d a s o | ldn d a s o | st d a s o | lda d a s c o | stl d a s c o =>
    cases enc
    simp (disch := decide) only [decodeSeq, decMem, fD, fA, field_append, extractLsb'_eq_self, Nat.reduceSub, opcode_toNat, Nat.reduceMod]
  | sel d a b n p | fence w x y z c | waitc a b | waitb p a | bara a b s =>
    cases enc
    simp (disch := decide) only [decodeSeq, decMem, decObj, encR, fD, fA, fB, fFn, field_append, extractLsb'_eq_self, Nat.reduceSub, opcode_toNat,
      Nat.reduceMod]
    rfl
  | br p n o | j o | call o =>
    cases enc
    simp (disch := decide) only [decodeSeq, field_append, extractLsb'_eq_self, Nat.reduceSub, opcode_toNat, Nat.reduceMod]
  | cmp p c a b =>
    cases enc
    exact decodeSeq_cmp (of_decide_eq_true wf)
  | cmpi p c a i =>
    cases enc
    exact decodeSeq_cmpi (of_decide_eq_true wf)
  | fcmp p c a b f =>
    cases enc
    exact decodeSeq_fcmp (of_decide_eq_true wf)
  | fcvt d a t s =>
    cases enc
    obtain ⟨small, differ⟩ := (Bool.and_eq_true ..).mp wf
    obtain ⟨hx, hy⟩ := (Bool.and_eq_true ..).mp small
    exact decodeSeq_fcvt ⟨of_decide_eq_true hx, of_decide_eq_true hy, of_decide_eq_true differ⟩
  | sigc a b x =>
    cases enc
    exact decodeSeq_sigc (of_decide_eq_true wf)
  | ldc d a s o =>
    cases enc
    exact decodeSeq_ldc
  | ffma d a b c f =>
    cases enc
    exact decodeSeq_ffma
  | enqAg a b c f =>
    cases enc
    exact decodeSeq_enqAg (((Bool.or_eq_true ..).mp wf).imp of_decide_eq_true of_decide_eq_true)
  | _ => cases enc

/-! ### CE operation words (Tables 9.6 and 9.7) -/

/-- An operation is the one that its opcode names with its function number, or, where fn is an operand, with any (R178). -/
theorem cePick_of_form {i : Instr} {f : CeForm} {fn : BitVec 4} (form : i.ce? = some f) (named : f.fnFree = true ∨ fn = BitVec.ofNat 4 f.fn) :
    cePick (f.op % 64) fn = some i := by
  cases i with
  | ceCmp | cvt | deq =>
    cases form
    rfl
  | _ => cases form <;> exact named.resolve_left Bool.false_ne_true ▸ rfl

theorem CeForm.named_of_ok {f : CeForm} {c : CeW} (ok : f.ok c = true) : f.fnFree = true ∨ c.fn = BitVec.ofNat 4 f.fn := by
  simp only [CeForm.ok, Bool.and_eq_true, Bool.or_eq_true, decide_eq_true_eq] at ok
  obtain ⟨⟨⟨⟨⟨⟨⟨⟨-, named⟩, -⟩, -⟩, -⟩, -⟩, -⟩, -⟩, -⟩ := ok
  exact named.imp_right fun number => BitVec.eq_of_toNat_eq (by rw [← number, BitVec.ofNat_toNat, BitVec.setWidth_eq])

theorem Instr.form_ok {i : Instr} {f : CeForm} {c : CeW} (form : i.ce? = some f) (ok : i.ceOk c = true) : f.ok c = true := by
  simp only [Instr.ceOk, form] at ok
  exact ((Bool.and_eq_true ..).mp ok).1

theorem ceWord_fields (op : Nat) (c : CeW) :
    (ceWord op c).getLsbD 0 = false ∧ (ceWord op c).extractLsb' 26 6 = op6 op ∧ (ceWord op c).extractLsb' 22 4 = c.fn ∧ ceFields (ceWord op c) = c := by
  refine ⟨?unused, ?_⟩
  case unused =>
    rw [ceWord, BitVec.getLsbD_append]
    rfl
  simp (disch := decide) only [ceFields, ceWord, field_append, extractLsb'_eq_self, Nat.reduceSub, and_self]

theorem decodeCe_ceWord {i : Instr} {f : CeForm} {c : CeW} (form : i.ce? = some f) (ok : i.ceOk c = true) :
    decodeCe (ceWord f.op c) = some (i, c) := by
  obtain ⟨unused, opcode, number, fields⟩ := ceWord_fields f.op c
  have picked := cePick_of_form form (CeForm.named_of_ok (Instr.form_ok form ok))
  simp only [decodeCe, unused, opcode, number, fields, opcode_toNat, picked, ok, Bool.false_eq_true, if_false, if_true]

/-! ### ME operation words and wave words (Tables 9.10 to 9.12) -/

/-- Opcode 3 is that of the wave words, and of no operation with a form. -/
theorem mePick_of_form {i : Instr} {f : MeForm} {m : MeW} (form : i.me? = some (f, m)) :
    f.op % 64 ≠ 3 ∧ mePick (f.op % 64) (BitVec.ofNat 4 f.fn) m = some i := by
  cases i with
  | _ => cases form <;> exact ⟨by decide, rfl⟩

theorem meWord_fields (op fn : Nat) (m : MeW) :
    (meWord op fn m).extractLsb' 26 6 = op6 op ∧ (meWord op fn m).extractLsb' 22 4 = BitVec.ofNat 4 fn ∧ meFields (meWord op fn m) = m := by
  simp (disch := decide) only [meFields, meWord, field_append, extractLsb'_eq_self, Nat.reduceSub, and_self]

theorem decodeMe_meWord {i : Instr} {f : MeForm} {m : MeW} (form : i.me? = some (f, m)) (wf : i.wf = true) :
    decodeMe (meWord f.op f.fn m) = some i := by
  obtain ⟨opcode, number, fields⟩ := meWord_fields f.op f.fn m
  obtain ⟨noWave, picked⟩ := mePick_of_form form
  rw [decodeMe, opcode, opcode_toNat, if_neg noWave, number, fields, picked, Option.filter_some_pos wf]

theorem decodeMe_encodeMe {i : Instr} {w : Word} (wf : i.wf = true) (enc : encodeMe i = some w) : decodeMe w = some i := by
  cases form : i.me? with
  | some fm =>
    simp only [encodeMe, form] at enc
    cases enc
    exact decodeMe_meWord form wf
  | none =>
    simp only [encodeMe, form] at enc
    cases i with
    | wavLd o p s z d | wavSt o p s z d | wavMnop o p s z d =>
      cases enc
      simp (disch := decide) only [decodeMe, decodeWave, waveWord, field_append, extractLsb'_eq_self, Nat.reduceSub, opcode_toNat, Nat.reduceMod,
        if_true, BitVec.toNat_ofNat, Nat.reducePow]
    | _ => cases enc

/-! ### MX commands (R185, Tables 9.13 to 9.16) -/

/-- Two commands of one opcode are told apart by a bit of word 1 that their assigned encodings fix. -/
theorem mxPick_of_form {i : Instr} {op : Nat} {m : MxW} {ok : Bool} (form : i.mx? = some (op, m, ok)) (wf : i.wf = true) :
    mxPick (op % 64) m = some i := by
  cases i with
  | cvreset n =>
    cases form
    obtain ⟨-, zeros⟩ := (Bool.and_eq_true ..).mp wf
    have takes : m.w1.getLsbD 0 = false :=
      (BitVec.getLsbD_extractLsb' 0 17 m.w1 0).symm.trans (congrArg (BitVec.getLsbD · 0) (of_decide_eq_true zeros))
    exact congrArg some (if_neg (Bool.eq_false_iff.mp takes))
  | cvresetRelease n =>
    cases form
    obtain ⟨-, one⟩ := (Bool.and_eq_true ..).mp wf
    exact congrArg some (if_pos (of_decide_eq_true one ▸ rfl))
  | cvloadEnt n | cvreadArg n =>
    cases form
    obtain ⟨head, -⟩ := (Bool.and_eq_true ..).mp wf
    obtain ⟨-, entries⟩ := (Bool.and_eq_true ..).mp head
    exact congrArg some (if_neg (Bool.eq_false_iff.mp ((Bool.not_eq_true' _).mp entries)))
  | cvreadGain n =>
    cases form
    obtain ⟨head, -⟩ := (Bool.and_eq_true ..).mp wf
    obtain ⟨-, gains⟩ := (Bool.and_eq_true ..).mp head
    exact congrArg some (if_pos gains)
  | cvloadGain n =>
    cases form
    obtain ⟨head, -⟩ := (Bool.and_eq_true ..).mp wf
    obtain ⟨anchored, -⟩ := (Bool.and_eq_true ..).mp head
    obtain ⟨-, gains⟩ := (Bool.and_eq_true ..).mp anchored
    exact congrArg some (if_pos gains)
  | _ => cases form <;> rfl

/-- Word 0 of an MX command reads back as its opcode and fields (Table 9.13). -/
theorem mxWord_fields (op : Nat) (m : MxW) :
    let w : Word := op6 op ++ m.shape ++ m.ty ++ m.acc ++ m.ringA ++ m.ringB ++ m.accsel ++ m.tr ++ m.sd ++ 0#1
    w.getLsbD 0 = false ∧ w.extractLsb' 26 6 = op6 op ∧ mxFields w m.w1 = m := by
  refine ⟨?unused, ?_⟩
  case unused =>
    rw [BitVec.getLsbD_append]
    rfl
  simp (disch := decide) only [mxFields, field_append, extractLsb'_eq_self, Nat.reduceSub, and_self]

theorem decodeMx_encodeMx {i : Instr} {w : Word × Word} (wf : i.wf = true) (enc : encodeMx i = some w) : decodeMx w.1 w.2 = some i := by
  cases form : i.mx? with
  | none =>
    rw [encodeMx, form] at enc
    cases enc
  | some fm =>
    obtain ⟨op, m, ok⟩ := fm
    rw [encodeMx, form] at enc
    cases enc
    obtain ⟨unused, opcode, fields⟩ := mxWord_fields op m
    simp only [decodeMx, unused, opcode, fields, opcode_toNat, mxPick_of_form form wf, Option.filter_some_pos wf, Bool.false_eq_true, if_false]

/-! ### The statements -/

/-- Settles O3: a case per instruction, grouped by the decoder of its opcode (`decodeSeq_encodeSeq`). -/
theorem sequencerRoundTrip : Obligations.SequencerRoundTrip := fun _ _ => decodeSeq_encodeSeq

/-- Settles O4: each encoder writes the word of the operation's form, which its decoder takes apart again. -/
theorem operationRoundTrip : Obligations.OperationRoundTrip := by
  refine fun i wf => ⟨fun c w ok enc => ?ce, fun w => decodeMe_encodeMe wf, fun w => decodeMx_encodeMx wf⟩
  obtain ⟨f, form, rfl⟩ := Option.map_eq_some_iff.mp enc
  exact decodeCe_ceWord form ok

end Sys2Proof
end

section
/-! O57: the end of a colour, SWITCH, SNAP and ABORT, each read once under the premises that let it act. What ABORT does to a collective on memory, which the
formula of O57 takes as a premise where its words claim it, is `abortCl_of_not_hit` and `abortCl_of_hit`. -/
namespace Sys2Proof.Machine

/-! ### The end of a colour (R247, R371) -/

/-- Where nothing is left of an earlier firing and every complete entry waits, for a latched value or for its turn in mode sequence, no operands can fire. -/
theorem SlotSt.not_canFire {x : SlotSt} {info : SlotInfo} {rel : Token → Nat} {mine : Map Entry} (hc : x.count = 0) (hn : x.credNext info rel = none)
    (hw : ∀ en ∈ mine, en.2.full info = true → (info.latch.isSome = true ∧ x.latch = none) ∨ (info.fire = 3 ∧ en.1 ≠ x.seqNext)) :
    x.canFire info rel mine = false := by
  have nothing : ((info.latch.isNone || x.latch.isSome) && mine.any fun en => en.2.full info && (decide (info.fire ≠ 3) || decide (en.1 = x.seqNext))) = false := by
    refine Bool.eq_false_iff.mpr fun h => ?_
    obtain ⟨ready, some_fires⟩ := (Bool.and_eq_true ..).mp h
    obtain ⟨en, hen, goes⟩ := List.any_eq_true.mp some_fires
    obtain ⟨full, turn⟩ := (Bool.and_eq_true ..).mp goes
    rcases hw en hen full with ⟨latches, empty⟩ | ⟨sequence, later⟩
    · simp [empty, Option.isSome_iff_ne_none.mp latches] at ready
    · simp [sequence, later] at turn
  rw [SlotSt.canFire, hc, hn, nothing]; rfl

/-- The ERR token, the closing results and the EOS on each output. -/
theorem endOuts_closed (s : State) (f : Firing) (lost : Nat) (ts : List Token) (like : Token) :
    endOuts f lost (ts.map (s.closed f)) like =
      (if lost = 0 then [] else [(0, errToken 0x01 lost f.site f.slot like.colour like.tag like.last)]) ++ ts.map fun t => (f.out, s.closed f t) := by
  rw [endOuts, List.map_map]; rfl

/-- The entries of a slot that hold an operand of a colour. -/
def SlotSt.coloured (x : SlotSt) (col : Nat) : Map Entry := x.entries.filter fun en => en.2.toks.any fun t => decide (t.2.colour.toNat = col)

/-- The EOS tokens of a slot's colour at the heads of the ports that it reads. -/
def Elem.eosHeads (e : Elem) (info : SlotInfo) (slot col : Nat) : List (Nat × Token) :=
  info.reads.flatMap fun p =>
    ((headsOf (e.port p) []).filter fun t => decide (t.kind = kEos) && decide (t.slot.toNat = slot) && decide (t.colour.toNat = col)).map fun t => (p, t)

/-- A slot after the end of a colour: its entries, its count and its EOS marks are gone. -/
def SlotSt.endColour (x : SlotSt) (mine : Map Entry) (col : Nat) : SlotSt :=
  { x with
    entries := x.entries.filter fun en => !(mine.any fun m => decide (m.1 = en.1))
    unmatched := x.unmatched.del col, eos := x.eos.filter fun q => decide (q.1 ≠ col),
    sawEos := if x.sawEos.contains col then x.sawEos else x.sawEos ++ [col] }

section
variable {s : State} {e : Elem} {info : SlotInfo} {eos : Token} {p : Nat} {others : List (Nat × Token)} {ts : List Token} {more : Nat} {downs : List Upd}
  {x1 : SlotSt}

/-- The tokens that a slot emits as a colour ends, EOS last, where its closing gives `ts` and `more` operands without a match. -/
def State.eosOuts (s : State) (f : Firing) (x : SlotSt) (col : Nat) (ts : List Token) (more : Nat) (eos : Token) : List (Nat × Token) :=
  endOuts f (((x.coloured col).flatMap fun en => en.2.toks).length + x.unmatched.get 0 col + more) (ts.map (s.closed f)) eos ++ f.info.outs.map fun o => (o, eos)

/-- The changes of pointstamps that leave and arise with them. -/
def State.eosUps (s : State) (f : Firing) (x : SlotSt) (col : Nat) (downs : List Upd) (outs : List (Nat × Token)) : List Upd :=
  downs ++ (((x.coloured col).flatMap fun en => en.2.toks).flatMap fun t => s.takeUps f.c f.site f.k f.slot t.1 t.2) ++
    outs.flatMap fun o => s.emitUps f.c f.site f.k f.slot o.1 f.info.loc o.2

/-- The slot that acts. -/
def State.acting (s : State) (info : SlotInfo) : Firing := { c := s.cur.cluster, k := s.cur.ctx, site := s.cur.site, slot := s.cur.slot, info := info }

/-- A slot that has had EOS of a colour on every port, of which nothing can fire and whose outputs have room, ends the colour where the MU has room. -/
theorem execEos_ends (he : s.elem? s.cur.cluster s.cur.site s.cur.ctx = some e) (hinfo : e.slotInfo s.cur.site s.cur.slot = some info)
    (hreads : info.reads ≠ []) (hended : info.reads.all (fun p => ((e.slot s.cur.slot).ended s.cur.sel).contains p) = true)
    (hctx : s.ended s.cur.cluster s.cur.ctx = false)
    (hcan : (e.slot s.cur.slot).canFire info (s.relTag s.cur.cluster s.cur.ctx) ((e.slot s.cur.slot).coloured s.cur.sel) = false)
    (hroom : info.outs.all (e.room s.cur.slot) = true) (hheads : e.eosHeads info s.cur.slot s.cur.sel = (p, eos) :: others)
    (hruns : ((e.eosHeads info s.cur.slot s.cur.sel).any fun q => e.runsFor s.cur.slot q.1 q.2.chan) = false)
    (hclose : s.closeSlot (s.acting info) (e.slot s.cur.slot) eos (some s.cur.sel) = some (ts, more, downs, x1))
    {outs : List (Nat × Token)} (houts : outs = s.eosOuts (s.acting info) (e.slot s.cur.slot) s.cur.sel ts more eos) :
    let f := s.acting info
    let x := e.slot f.slot
    let cid := s.cidAt f.c f.k
    let ups := s.eosUps f x s.cur.sel downs outs
    execEos s = if !(s.muRoom cid ups false) then .next (s.muWait cid f.who ups false) else .next
      ((((s.modElem f.c f.site f.k fun e' =>
        ((e.eosHeads info s.cur.slot s.cur.sel).foldl (fun e q => e.setPort q.1 (dropHead (e.port q.1) q.2.chan))
          (e'.setSlot f.slot (x1.endColour (x.coloured s.cur.sel) s.cur.sel))).sendAll f outs).muApply cid ups).muGo cid f.who ups).settle f.c f.site) := by
  have outs_free : info.outs.any (fun o => !(e.room s.cur.slot o)) = false := by
    simpa [List.any_eq_false, List.all_eq_true] using hroom
  have reads_some : info.reads.isEmpty = false := by simpa using hreads
  subst houts
  rw [hheads] at hruns ⊢
  unfold Elem.eosHeads at hheads
  unfold execEos
  simp only [he, hinfo]
  rw [hheads]
  unfold SlotSt.coloured at hcan
  unfold State.acting at hclose
  simp only [reads_some, hended, hctx, hcan, hruns, outs_free, hclose, Bool.not_true, Bool.or_false, Bool.false_eq_true, if_false]
  rfl

end

/-! ### SWITCH and SNAP (R229, R328, R372) -/

section
variable {s : State} {e : Elem} {r : Region}

/-- An element of a region that does not switch to the picot's configuration leaves it. -/
theorem exec_switch_other {gen : BitVec 24} (hr : s.region? s.cur.cluster s.cur.ctx = some r) (he : s.elem? s.cur.cluster s.cur.site s.cur.ctx = some e)
    (hg : r.switching ≠ some gen.toNat) : exec (.switch gen) s = .next s := by
  change execSwitch gen s = _
  simp [execSwitch, hr, he, hg]

section
variable {gen : BitVec 24} (hr : s.region? s.cur.cluster s.cur.ctx = some r) (he : s.elem? s.cur.cluster s.cur.site s.cur.ctx = some e)
  (hg : r.switching = some gen.toNat) (hctx : s.ended s.cur.cluster s.cur.ctx = false)
include hr he hg hctx

/-- A picot that comes back to an element that has switched is consumed. -/
theorem exec_switch_back (hw : e.switched = true) :
    exec (.switch gen) s = .next ((s.modElem s.cur.cluster s.cur.site s.cur.ctx fun e => e.dropPicots 2 e.swIns).settle s.cur.cluster s.cur.site) := by
  change execSwitch gen s = _
  simp [execSwitch, hr, he, hg, hctx, hw]

/-- An element that has it on every input that is no feedback, and of which nothing can fire, ends the old configuration and takes the new. -/
theorem exec_switch_takes {u : NextUnit} (hw : e.switched = false) (hu : e.next = some u) (hh : e.holds = true)
    (hp : (e.swIns.filter fun q => !(e.swBack.contains (q.1, q.2.toNat))).all (fun q => e.picotAt 2 q) = true)
    (hs : (List.range 16).all (fun i => s.canClose s.cur.cluster s.cur.ctx s.cur.site i && !(s.busySlot s.cur.cluster s.cur.ctx s.cur.site i)) = true) :
    exec (.switch gen) s = .next ((((List.range 16).foldl (fun s' i => s'.retireSlot s.cur.cluster s.cur.ctx s.cur.site i) s).modElem
      s.cur.cluster s.cur.site s.cur.ctx fun e' => ((e'.renewed u).dropPicots 2 (e.swIns.filter fun q => !(e.swBack.contains (q.1, q.2.toNat)))).forward e'.swOuts
        s.cur.ctx 2 gen.toNat 0).settle s.cur.cluster s.cur.site) := by
  change execSwitch gen s = _
  simp only [execSwitch, hr, he, hg, hctx, hw, hu, hh, hp, hs, ne_eq, not_true_eq_false, decide_false, Bool.or_false, Bool.false_eq_true, if_false,
    Bool.not_true, or_self]

end

/-- At a SNAP that has come on some input an element notes the channels, and at the first one records itself and forwards it. -/
theorem exec_snap_seen {id : BitVec 16} (hr : s.region? s.cur.cluster s.cur.ctx = some r) (he : s.elem? s.cur.cluster s.cur.site s.cur.ctx = some e) :
    let isSnap (t : Token) : Bool := t.isPicot 0 && decide (t.aux = id)
    let seen := [0, 1, 2, 3].flatMap fun p => ((e.port p).filter isSnap).map fun t => 32 * p + t.chan.toNat
    let e1 := [0, 1, 2, 3].foldl (fun e p => e.setPort p ((e.port p).filter fun t => !(isSnap t))) e
    let s1 := s.modElem s.cur.cluster s.cur.site s.cur.ctx fun _ => { e1 with snapped := true, picots := e1.picots ++ seen }
    seen ≠ [] → exec (.snap id) s =
      .next ((if e.snapped then s1 else s1.modSite s.cur.cluster s.cur.site fun x => x.forwardSnap s.cur.ctx id.toNat).settle s.cur.cluster s.cur.site) := by
  intro isSnap seen e1 s1 hseen
  have some_seen : seen.isEmpty = false := by simpa using hseen
  change execSnap id s = _
  unfold execSnap
  simp only [he, hr]
  exact if_neg fun none_seen => by rw [some_seen] at none_seen; exact Bool.false_ne_true none_seen.1

end

/-! ### ABORT of collectives on memory (R310, R399) -/

/-- A collective command of a member that is in flight with an id. -/
def Cmd.Hit (ab : BitVec 24) (y : Cmd) : Prop := y.q = 2 ∧ y.done = false ∧ ∃ q, (decodeCl y.desc).bind clOf = some q ∧ q.2.id = ab

/-- What ABORT does at one command of the member. -/
def State.abortCmd (c k : Nat) (id : BitVec 24) (s : State) (x : Cmd) : State :=
  match (decodeCl x.desc).bind clOf with
  | some (kind, d) =>
    if x.q ≠ 2 ∨ x.done ∨ d.id ≠ id then s
    else
      let owner := clOwner c k id.toNat
      let r := s.received c k owner d.recv (clRecv kind (s.clGroup c k d).length d)
      (r.1.modIssued c k x.id fun x => { x with done := true, inc := r.2, status := stAborted, stalled := none }).modCtx (s.cidAt c k) fun y => y.release owner
  | none => s

theorem abortCl_eq_foldl (s : State) (c k : Nat) (id : BitVec 24) : s.abortCl c k id = (s.stream c k).issued.foldl (State.abortCmd c k id) s := rfl

section
variable {s : State} {c k : Nat} {ab : BitVec 24}

theorem abortCmd_of_not_hit {y : Cmd} (h : ¬y.Hit ab) : State.abortCmd c k ab s y = s := by
  unfold State.abortCmd
  split
  · next kind d hd =>
    refine if_pos (Classical.byContradiction fun no => h ?_)
    obtain ⟨hq, rest⟩ := not_or.mp no
    obtain ⟨undone, hid⟩ := not_or.mp rest
    exact ⟨Classical.not_not.mp hq, Bool.eq_false_iff.mpr undone, (kind, d), hd, Classical.not_not.mp hid⟩
  · rfl

theorem foldl_abortCmd_of_not_hit {l : List Cmd} (h : ∀ y ∈ l, ¬y.Hit ab) : l.foldl (State.abortCmd c k ab) s = s := by
  induction l with
  | nil => rfl
  | cons y l ih =>
    rw [List.foldl_cons, abortCmd_of_not_hit (h y (.head _))]
    exact ih fun z hz => h z (.tail _ hz)

theorem abortCmd_of_hit {y : Cmd} {kind : Nat} {d : ClDesc} (h : y.Hit ab) (hd : (decodeCl y.desc).bind clOf = some (kind, d)) :
    State.abortCmd c k ab s y =
      let got := s.received c k (clOwner c k ab.toNat) d.recv (clRecv kind (s.clGroup c k d).length d)
      (got.1.modIssued c k y.id fun y => { y with done := true, inc := got.2, status := stAborted, stalled := none }).modCtx (s.cidAt c k) fun y =>
        y.release (clOwner c k ab.toNat) := by
  obtain ⟨hq, open_, q, hq', hid⟩ := h
  obtain rfl : q = (kind, d) := Option.some.inj (hq'.symm.trans hd)
  unfold State.abortCmd
  rw [hd]
  exact if_neg (by simp [hq, open_, show d.id = ab from hid])

/-- A member with no collective of the id in flight stands. -/
theorem abortCl_of_not_hit (h : ∀ y ∈ (s.stream c k).issued, ¬y.Hit ab) : s.abortCl c k ab = s := foldl_abortCmd_of_not_hit h

/-- Of several commands the one with the id ends. -/
theorem abortCl_of_hit {l l2 : List Cmd} {y : Cmd} (hi : (s.stream c k).issued = l ++ y :: l2) (hn : ∀ z ∈ l ++ l2, ¬z.Hit ab) :
    s.abortCl c k ab = State.abortCmd c k ab s y := by
  rw [abortCl_eq_foldl, hi, List.foldl_append, List.foldl_cons, foldl_abortCmd_of_not_hit fun z hz => hn z (List.mem_append_left _ hz),
    foldl_abortCmd_of_not_hit fun z hz => hn z (List.mem_append_right _ hz)]

end

/-! ### ABORT of conversions and nodes (R399) -/

/-- The member of a conversion at a place. -/
def CollOp.memberOf (op : CollOp) (p : Nat × Nat) : Nat := op.places.findIdx fun q => decide (q = p)

/-- The conversions of a context after member m of one has left it: it is gone when every member here has. -/
def Ctx.leaveConv (x : Ctx) (op : CollOp) (m : Nat) : List CollOp :=
  if (m :: op.left).length < op.places.length then x.colls.map fun o => if o.id = op.id then { o with left := m :: op.left } else o
  else x.colls.filter fun o => decide (o.id ≠ op.id)

section
variable {s : State} {c k : Nat} {op : CollOp}

/-- A conversion that the member has left, or has no part in, stands. -/
theorem abortConv_left (hm : op.memberOf (c, k) ∈ op.left ∨ op.places.length ≤ op.memberOf (c, k)) :
    s.abortConv (c, k) op = s := by
  unfold State.abortConv
  exact if_pos (hm.imp List.contains_iff_mem.mpr id)

/-- One whose members are all here ends at the member: busy is clear, its ranges are released and its bytes signalled. -/
theorem abortConv_ends (hl : op.memberOf (c, k) ∉ op.left)
    (hm : op.memberOf (c, k) < op.places.length) (ha : op.away = false) :
    s.abortConv (c, k) op = ((s.setBusy c k op.dtd false).modCtx (s.cidAt c k) fun x =>
      { x.release (convOwner (c, k) op.id) with colls := x.leaveConv op (op.memberOf (c, k)) }).signalVa c k op.done
        (op.bytes.get 0 (op.memberOf (c, k))) stAborted := by
  unfold State.abortConv
  simp only [ha]
  exact if_neg (not_or.mpr ⟨fun h => hl (List.contains_iff_mem.mp h), Nat.not_le.mpr hm⟩)

end

section
variable {s : State} {id : BitVec 24} {x : Ctx} (hx : s.ctxAt s.cur.cluster s.cur.ctx = some x)
include hx

theorem exec_abort_conversion {op : CollOp} (hop : x.colls.find? (fun op => decide (op.id = id.toNat)) = some op) :
    exec (.abort id) s = .next ((s.abortCl s.cur.cluster s.cur.ctx id).abortConv (s.cur.cluster, s.cur.ctx) op) := by
  change execAbort id s = _
  simp only [execAbort, hx, hop]

theorem exec_abort_nodes (hop : x.colls.find? (fun op => decide (op.id = id.toNat)) = none) :
    exec (.abort id) s = .next ((x.nodes.filter fun e => decide (e.2.id = id.toNat)).foldl
      (fun s' e => s'.nodeBecomes s.cur.cluster s.cur.ctx e.1 e.2 e.2.abort) (s.abortCl s.cur.cluster s.cur.ctx id)) := by
  change execAbort id s = _
  simp only [execAbort, hx, hop]

end

/-- Settles O57: each clause is the equation of its instruction under the clause's premises. -/
theorem picotsAndEnds : Obligations.PicotsAndEnds := by
  refine ⟨?eos, ?picots⟩
  case eos =>
    intro s e info eos p others ts more downs x1 c k site slot col cid x f mine dead heads lost outs ups he hinfo hreads hended hctx hcount hcred hwait hroom hheads
      hruns hclose
    have emitted : outs = s.eosOuts (s.acting info) x col ts more eos := by rw [State.eosOuts, endOuts_closed]; rfl
    have ends := execEos_ends he hinfo hreads hended hctx (SlotSt.not_canFire hcount hcred hwait) hroom hheads hruns hclose emitted
    exact ⟨fun room => ends.trans (if_neg (Bool.eq_false_iff.mp (congrArg not room))), fun full => ends.trans (if_pos (congrArg not full))⟩
  case picots =>
    intro s gen id ab e r u x op c k site front hr he
    refine ⟨fun hg hctx hw => exec_switch_back hr he hg hctx hw, fun hg hctx hw hu hh hp hs => exec_switch_takes hr he hg hctx hw hu hh hp hs,
      fun hg => exec_switch_other hr he hg, ?snap, ?abort⟩
    case snap =>
      intro isSnap seen e1 s1 onward hseen
      have recorded := exec_snap_seen hr he hseen
      exact ⟨fun again => recorded.trans (by rw [again]; rfl), fun first => recorded.trans (by rw [first]; rfl)⟩
    case abort =>
      intro hit own t given
      -- The two clauses on collectives stand among the premises.
      obtain ⟨-, -, hx⟩ := given
      refine ⟨fun hop => ⟨fun hm => ?left, fun hl hm ha => ?ends⟩, fun hop => exec_abort_nodes hx hop⟩
      case left => rw [exec_abort_conversion hx hop, abortConv_left hm]
      case ends => rw [exec_abort_conversion hx hop, abortConv_ends hl hm ha]; rfl

end Sys2Proof.Machine
end

section
/-! O2, O21, O22: an ALU, immediate or predicate instruction ends in one of three shared forms and its word is the one its encoder writes; what is left of
each is its function, read once in the terms of Table 10.3. -/
namespace Sys2Proof.Machine

/-- Settles O2: the words are closed terms. -/
theorem wordsOfTheManual : Obligations.WordsOfTheManual := by
  unfold Obligations.WordsOfTheManual
  decide

/-! ### Integer functions (R102, R103, Table 10.3) -/

section
variable (x y : DWord) (n : Nat)

theorem divS_eq : divS x y = if y = 0 then -1 else BitVec.ofInt 64 (x.toInt.tdiv y.toInt) := rfl

theorem divN_eq : divN x y = if y = 0 then -1 else x / y := by
  rw [divN, BitVec.udiv_def]; rfl

theorem remN_eq : remN x y = if y = 0 then x else x % y := by
  rw [remN, BitVec.umod_def]

/-- Saturation to i64 clamps to its two ends. -/
theorem satI64_eq (v : Int) : satI64 v = BitVec.ofInt 64 (Max.max (-(2 ^ 63)) (Min.min (2 ^ 63 - 1) v)) := by
  have clamp : i64.sat v = Max.max (-(2 ^ 63)) (Min.min (2 ^ 63 - 1) v) := by
    have low : i64.lo = -(2 ^ 63) := rfl
    have high : i64.hi = 2 ^ 63 - 1 := rfl
    rw [ITy.sat, low, high]
    by_cases above : 2 ^ 63 - 1 < v
    · rw [if_neg (by omega), if_pos above, Int.min_eq_left (by omega), Int.max_eq_right (by decide)]
    · by_cases below : v < -(2 ^ 63)
      · rw [if_pos below, Int.min_eq_right (by omega), Int.max_eq_left (by omega)]
      · rw [if_neg below, if_neg above, Int.min_eq_right (by omega), Int.max_eq_right (by omega)]
  rw [satI64, clamp]

/-- An arithmetic shift is a division that rounds down. -/
theorem sshiftRight_eq : x.sshiftRight n = BitVec.ofInt 64 (x.toInt / 2 ^ n) := by
  rw [BitVec.sshiftRight, Int.shiftRight_eq_div_pow]; norm_cast

theorem rotateLeft_eq (h : n < 64) : x.rotateLeft n = x <<< n ||| x >>> (64 - n) := by
  rw [BitVec.rotateLeft_def, Nat.mod_eq_of_lt h]

/-- Where both choices agree on what the weaker test adds, the two tests choose the same. -/
theorem ite_eq_ite_of_imp {α : Type} {p q : Prop} [Decidable p] [Decidable q] {u v : α} (weaker : p → q) (h : q → ¬p → u = v) :
    (if p then u else v) = if q then u else v := by
  by_cases hp : p
  · rw [if_pos hp, if_pos (weaker hp)]
  · rw [if_neg hp]
    by_cases hq : q
    · rw [if_pos hq, h hq hp]
    · rw [if_neg hq]

/-- Neither of two values being below the other they are equal, so `<` and `≤` choose the same. -/
theorem eq_of_toInt_le {x y : DWord} (le : x.toInt ≤ y.toInt) (notLt : ¬x.toInt < y.toInt) : x = y :=
  BitVec.eq_of_toInt_eq (Int.le_antisymm le (Int.not_lt.mp notLt))
theorem eq_of_toNat_le {x y : DWord} (le : x.toNat ≤ y.toNat) (notLt : ¬x.toNat < y.toNat) : x = y :=
  BitVec.eq_of_toNat_eq (Nat.le_antisymm le (Nat.not_lt.mp notLt))

theorem smin_eq : smin x y = if x.toInt ≤ y.toInt then x else y := ite_eq_ite_of_imp Int.le_of_lt eq_of_toInt_le
theorem smax_eq : smax x y = if x.toInt ≤ y.toInt then y else x := ite_eq_ite_of_imp Int.le_of_lt fun le notLt => (eq_of_toInt_le le notLt).symm
theorem bmin_eq : bmin x y = if x.toNat ≤ y.toNat then x else y := ite_eq_ite_of_imp Nat.le_of_lt eq_of_toNat_le
theorem bmax_eq : bmax x y = if x.toNat ≤ y.toNat then y else x := ite_eq_ite_of_imp Nat.le_of_lt fun le notLt => (eq_of_toNat_le le notLt).symm

end

/-! ### Bits of a doubleword -/

/-- The scan from bit i over k bits stops at the first bit that is set. -/
theorem ctzLoop_spec (x k i : Nat) : i ≤ ctzLoop x k i ∧ ctzLoop x k i ≤ i + k ∧ (∀ j, i ≤ j → j < ctzLoop x k i → x.testBit j = false) ∧
    (ctzLoop x k i < i + k → x.testBit (ctzLoop x k i) = true) := by
  induction k generalizing i with
  | zero => exact ⟨Nat.le_refl i, Nat.le_refl i, fun j hj hi => absurd hj (Nat.not_le.mpr hi), fun h => absurd h (Nat.lt_irrefl i)⟩
  | succ k ih =>
    unfold ctzLoop
    split
    · next h => exact ⟨Nat.le_refl i, Nat.le_add_right .., fun j hj hi => absurd hj (Nat.not_le.mpr hi), fun _ => h⟩
    · next h =>
      obtain ⟨low, high, zeros, one⟩ := ih (i + 1)
      refine ⟨by omega, by omega, fun j hj hi => ?_, fun hlt => one (by omega)⟩
      rcases Nat.eq_or_lt_of_le hj with rfl | later
      · exact Bool.eq_false_iff.mpr h
      · exact zeros j later hi

theorem ctzBits_spec (x : DWord) : ctzBits 64 x.toNat ≤ 64 ∧ (∀ i, i < ctzBits 64 x.toNat → x.getLsbD i = false) ∧
    (ctzBits 64 x.toNat < 64 → x.getLsbD (ctzBits 64 x.toNat) = true) := by
  obtain ⟨-, high, zeros, one⟩ := ctzLoop_spec x.toNat 64 0
  exact ⟨high, fun i => zeros i (Nat.zero_le i), one⟩

/-- The highest bit that is set is the logarithm. -/
theorem clzBits_spec (x : DWord) : clzBits 64 x.toNat ≤ 64 ∧ (∀ i, i < clzBits 64 x.toNat → x.getLsbD (63 - i) = false) ∧
    (clzBits 64 x.toNat < 64 → x.getLsbD (63 - clzBits 64 x.toNat) = true) := by
  rw [clzBits, Nat.mod_eq_of_lt x.isLt]
  split
  · next zero =>
    have none : x = 0#64 := BitVec.eq_of_toNat_eq zero
    exact ⟨Nat.le_refl 64, fun i _ => by rw [none]; exact BitVec.getLsbD_zero, fun h => absurd h (Nat.lt_irrefl 64)⟩
  · next some =>
    have top : x.toNat.log2 < 64 := (Nat.log2_lt some).mpr x.isLt
    refine ⟨by omega, fun i hi => ?_, fun _ => ?_⟩
    · have above : x.toNat < 2 ^ (63 - i) := Nat.lt_of_lt_of_le Nat.lt_log2_self (Nat.pow_le_pow_right (by decide) (by omega))
      exact Nat.testBit_lt_two_pow above
    · rw [show 63 - (64 - 1 - x.toNat.log2) = x.toNat.log2 by omega]
      exact Nat.testBit_log2 some

theorem popBits_eq_countP (n x : Nat) : popBits n x = (List.range n).countP fun i => x.testBit i := by
  induction n with
  | zero => rfl
  | succ n ih =>
    have last : popBits (n + 1) x = if x.testBit n then popBits n x + 1 else popBits n x := by simp [popBits, List.range_succ]
    rw [last, ih, List.range_succ, List.countP_append, List.countP_singleton]
    split <;> rfl

theorem testBit_revBits (n x : Nat) {i : Nat} (h : i < n) : (revBits n x).testBit i = x.testBit (n - 1 - i) := by
  induction n generalizing i with
  | zero => exact absurd h (Nat.not_lt_zero i)
  | succ n ih =>
    have last : revBits (n + 1) x = 2 * revBits n x + (if x.testBit n then 1 else 0) := by simp [revBits, List.range_succ]
    rw [last]
    cases i with
    | zero => by_cases hx : x.testBit n <;> simp [hx]
    | succ i =>
      have half : (2 * revBits n x + (if x.testBit n then 1 else 0)) / 2 = revBits n x := by split <;> omega
      rw [Nat.testBit_succ, half, ih (by omega)]
      congr 1; omega

/-! ### The forms, each with its word -/

section
variable {s : State} {i : Instr} {w : Word} {d a b : BitVec 6} {x : DWord} (hs : s.CanAdvance)
include hs

/-- A result of two registers, with the taint of both (R137, R199). -/
theorem does_of_seqRRR (f : DWord → DWord → DWord) (hf : f (s.me.view.rs a) (s.me.view.rs b) = x) (hi : exec i s = seqRRR s d a b f := by rfl)
    (wf : i.wf = true := by rfl) (enc : encodeSeq i = some w := by rfl) :
    decodeSeq w = .ok i ∧ Writes s i d x (s.me.view.taintOf a || s.me.view.taintOf b) := by
  subst hf; exact ⟨decodeSeq_encodeSeq wf enc, goesOn_of_seqPure hs hi rfl⟩

/-- A result of one register, with its taint. -/
theorem does_of_seqRR (f : DWord → DWord) (hf : f (s.me.view.rs a) = x) (hi : exec i s = seqRR s d a f := by rfl) (wf : i.wf = true := by rfl)
    (enc : encodeSeq i = some w := by rfl) : decodeSeq w = .ok i ∧ Writes s i d x (s.me.view.taintOf a) :=
  ⟨decodeSeq_encodeSeq wf enc, writes_of_seqRR hs hi hf⟩

end

/-- A predicate result (R202, R204). -/
theorem writesP_of_seqPred {s : State} {i : Instr} {p : BitVec 3} {f : Regs → Bool} {v : Bool} (hs : s.CanAdvance) (hi : exec i s = seqPred s p f)
    (hf : f s.me.view = v) : WritesP s i p v := by
  subst hf; exact goesOn_wp hs hi

/-- Settles O21: each function is its entry of Table 10.3, and its word the one that its encoder writes. -/
theorem aluResults : Obligations.AluResults := by
  constructor
  · intro s d a b hs x y t n word does
    refine ⟨?add, ?sub, ?mul, ?mulh, ?mulhn, ?div, ?divn, ?rem, ?remn, ?adds, ?subs, ?and, ?or, ?xor, ?andn, ?orn, ?shl, ?shr, ?sra, ?rol, ?min, ?max,
      ?minn, ?maxn⟩
    case add => exact does_of_seqRRR hs (· + ·) rfl
    case sub => exact does_of_seqRRR hs (· - ·) rfl
    case mul => exact does_of_seqRRR hs (· * ·) rfl
    case mulh => exact does_of_seqRRR hs mulHigh rfl
    case mulhn => exact does_of_seqRRR hs mulHighN rfl
    case div => exact does_of_seqRRR hs divS (divS_eq ..)
    case divn => exact does_of_seqRRR hs divN (divN_eq ..)
    case rem => exact does_of_seqRRR hs remS rfl
    case remn => exact does_of_seqRRR hs remN (remN_eq ..)
    case adds => exact does_of_seqRRR hs (fun x y => satI64 (x.toInt + y.toInt)) (satI64_eq _)
    case subs => exact does_of_seqRRR hs (fun x y => satI64 (x.toInt - y.toInt)) (satI64_eq _)
    case and => exact does_of_seqRRR hs (· &&& ·) rfl
    case or => exact does_of_seqRRR hs (· ||| ·) rfl
    case xor => exact does_of_seqRRR hs (· ^^^ ·) rfl
    case andn => exact does_of_seqRRR hs (fun x y => x &&& ~~~y) rfl
    case orn => exact does_of_seqRRR hs (fun x y => x ||| ~~~y) rfl
    case shl => exact does_of_seqRRR hs (fun x y => x <<< (y.toNat % 64)) rfl
    case shr => exact does_of_seqRRR hs (fun x y => x >>> (y.toNat % 64)) rfl
    case sra => exact does_of_seqRRR hs (fun x y => x.sshiftRight (y.toNat % 64)) (sshiftRight_eq ..)
    case rol => exact does_of_seqRRR hs (fun x y => x.rotateLeft (y.toNat % 64)) (rotateLeft_eq _ _ (Nat.mod_lt _ (by decide)))
    case min => exact does_of_seqRRR hs smin (smin_eq ..)
    case max => exact does_of_seqRRR hs smax (smax_eq ..)
    case minn => exact does_of_seqRRR hs bmin (bmin_eq ..)
    case maxn => exact does_of_seqRRR hs bmax (bmax_eq ..)
  · intro s d a hs x word does
    refine ⟨?clz, ?ctz, ?popc, ?brev⟩
    case clz =>
      obtain ⟨most, zeros, one⟩ := clzBits_spec x
      exact ⟨_, most, zeros, one, does_of_seqRR hs (fun x => BitVec.ofNat 64 (clzBits 64 x.toNat)) rfl⟩
    case ctz =>
      obtain ⟨most, zeros, one⟩ := ctzBits_spec x
      exact ⟨_, most, zeros, one, does_of_seqRR hs (fun x => BitVec.ofNat 64 (ctzBits 64 x.toNat)) rfl⟩
    case popc => exact does_of_seqRR hs (fun x => BitVec.ofNat 64 (popBits 64 x.toNat)) (congrArg _ (popBits_eq_countP 64 x.toNat))
    case brev =>
      refine ⟨_, fun i hi => ?_, does_of_seqRR hs (fun x => BitVec.ofNat 64 (revBits 64 x.toNat)) rfl⟩
      rw [BitVec.getLsbD_ofNat, decide_eq_true hi, Bool.true_and]
      exact testBit_revBits 64 x.toNat hi

/-! ### Immediate forms, conditions and predicates (R200 to R204) -/

/-- The fields of a shift by an immediate lie side by side, however they are grouped (R200). -/
theorem shiftWord_eq (d a n : BitVec 6) (k : BitVec 2) : (0x06#6 ++ d ++ a ++ (k ++ 0#6 ++ n) : Word) = op6 6 ++ d ++ a ++ k ++ 0#6 ++ n := by
  have inner : op6 6 ++ d ++ a ++ k ++ 0#6 = op6 6 ++ d ++ a ++ (k ++ 0#6) := BitVec.append_assoc
  rw [inner]
  exact BitVec.append_assoc.symm

/-- Each of the ten codes of R202 is its condition. -/
theorem condInt_eq_condHolds {c : Nat} (h : c ≤ 9) (x y : DWord) : condInt c x y = condHolds c x y := by
  have same : decide (x.toNat = y.toNat) = (x == y) := by
    rw [Bool.eq_iff_iff, decide_eq_true_iff, beq_iff_eq, BitVec.toNat_inj]
  match c, h with
  | 0, _ => exact same
  | 1, _ => exact (decide_not ..).trans (congrArg not same)
  | 2, _ | 3, _ | 4, _ | 5, _ | 6, _ | 7, _ | 8, _ | 9, _ => rfl

section
variable {p : BitVec 3} {c : BitVec 4} {a b : BitVec 6} {i : BitVec 13} (unassigned : ¬c.toNat ≤ 9)
include unassigned

theorem decodeSeq_cmp_unassigned : decodeSeq (op6 0x0A ++ p ++ c ++ a ++ b ++ 0#7) = .bad 2 := by
  simp (disch := decide) only [decodeSeq, decCmp, field_append, BitVec.extractLsb'_eq_self, Nat.reduceSub, opcode_toNat, Nat.reduceMod, unassigned, if_false]

theorem decodeSeq_cmpi_unassigned : decodeSeq (op6 0x0B ++ p ++ c ++ a ++ i) = .bad 2 := by
  simp (disch := decide) only [decodeSeq, decCmp, field_append, BitVec.extractLsb'_eq_self, Nat.reduceSub, opcode_toNat, Nat.reduceMod, unassigned, if_false]

end

/-- A predicate's test, negated when n is 1, holds where the predicate is set with n clear or clear with n set (R203). -/
theorem predicate_test_iff (v : Bool) (n : BitVec 1) : (v != decide (n = 1)) = true ↔ v = decide (n = 0) := by
  revert v n; decide

/-- Settles O22: each instruction is its form; a condition's code is tested for one of the ten before it is decoded. -/
theorem immediateAndPredicateResults : Obligations.ImmediateAndPredicateResults := by
  constructor
  · intro s d a n i u hs x y t imm shi does
    refine ⟨?addi, ?andi, ?ori, ?xori, ?shli, ?shri, ?srai, ?roli, ?li, ?lui, ?luh⟩
    case addi => exact does_of_seqRR hs (· + sx i) rfl
    case andi => exact does_of_seqRR hs (· &&& sx i) rfl
    case ori => exact does_of_seqRR hs (· ||| sx i) rfl
    case xori => exact does_of_seqRR hs (· ^^^ sx i) rfl
    case shli => exact does_of_seqRR hs (· <<< n.toNat) rfl (enc := congrArg some (shiftWord_eq ..).symm)
    case shri => exact does_of_seqRR hs (· >>> n.toNat) rfl (enc := congrArg some (shiftWord_eq ..).symm)
    case srai => exact does_of_seqRR hs (·.sshiftRight n.toNat) (sshiftRight_eq ..) (enc := congrArg some (shiftWord_eq ..).symm)
    case roli => exact does_of_seqRR hs (·.rotateLeft n.toNat) (rotateLeft_eq _ _ n.isLt) (enc := congrArg some (shiftWord_eq ..).symm)
    case li => exact ⟨decodeSeq_encodeSeq (i := .li d u) rfl rfl, goesOn_of_seqPure hs rfl rfl⟩
    case lui => exact does_of_seqRR hs (fun x => x.extractLsb' 40 24 ++ u ++ x.extractLsb' 0 20) rfl
    case luh => exact does_of_seqRR hs (fun x => u.signExtend 24 ++ x.extractLsb' 0 40) rfl
  · intro s d a b p q r c i n hs v w wi
    refine ⟨fun assigned => ⟨decodeSeq_cmp assigned, ?cmp, decodeSeq_cmpi assigned, ?cmpi⟩,
      fun above => ⟨decodeSeq_cmp_unassigned (Nat.not_le.mpr above), decodeSeq_cmpi_unassigned (Nat.not_le.mpr above)⟩,
      ?sel, ?pand, ?por, ?pxor, ?pnot, ?pmov, ?pset, ?pclr⟩
    case cmp => exact writesP_of_seqPred hs (f := fun r => condInt c.toNat (r.rs a) (r.rs b)) rfl (condInt_eq_condHolds assigned ..)
    case cmpi => exact writesP_of_seqPred hs (f := fun r => condInt c.toNat (r.rs a) (sx i)) rfl (condInt_eq_condHolds assigned ..)
    case sel => exact goesOn_of_seqPure hs rfl (by simp only [predicate_test_iff]; rfl)
    case pand => exact writesP_of_seqPred hs (f := fun v => v.rp q && v.rp r) rfl rfl
    case por => exact writesP_of_seqPred hs (f := fun v => v.rp q || v.rp r) rfl rfl
    case pxor => exact writesP_of_seqPred hs (f := fun v => v.rp q != v.rp r) rfl rfl
    case pnot => exact writesP_of_seqPred hs (f := fun v => !v.rp q) rfl rfl
    case pmov => exact writesP_of_seqPred hs (f := fun v => v.rp q) rfl rfl
    case pset => exact writesP_of_seqPred hs (f := fun _ => true) rfl rfl
    case pclr => exact writesP_of_seqPred hs (f := fun _ => false) rfl rfl

end Sys2Proof.Machine
end

section
/-! O16: a signal and an arm are writes of doublewords by another than the scheduler, whose fields are read back by arithmetic. -/
namespace Sys2Proof.Machine

/-! ### Reads beside a write -/

/-- A read of bytes outside a write reads as before. -/
theorem readLe_writeLe_outside (m : List Host.Cell) {a n k l : Nat} (v : Nat) (h : a + n ≤ k ∨ k + l ≤ a) : readLe (writeLe m k l v) a n = readLe m a n := by
  induction n generalizing a with
  | zero => rfl
  | succ n ih => rw [readLe, readLe, readByte_writeLe_outside _ _ (by omega), ih (by omega)]

theorem rd_wrKeep_outside (s : State) {a n k l : Nat} (v : Nat) (h : a + n ≤ k ∨ k + l ≤ a) : (s.wrKeep k l v).rd a n = s.rd a n :=
  readLe_writeLe_outside _ _ h

/-! ### Signals (R225) -/

/-- What a signal makes of its object's doubleword (Table 10.10). -/
def signalWord (w : DWord) (inc status : Nat) : Nat :=
  w.bits 63 56 * 2 ^ 56 + Nat.max (w.bits 55 48) status * 2 ^ 48 + (w.bits 47 0 + inc) % 2 ^ 48

/-- Its fields: the count, the status and the bits above them. -/
theorem signalWord_fields (w : DWord) (inc : Nat) {status : Nat} (h : status < 256) :
    let r := BitVec.ofNat 64 (signalWord w inc status % 2 ^ 64)
    DWord.bits r 47 0 = (w.bits 47 0 + inc) % 2 ^ 48 ∧ DWord.bits r 55 48 = Nat.max (w.bits 55 48) status ∧ DWord.bits r 63 56 = w.bits 63 56 := by
  have high : w.bits 63 56 < 256 := Nat.mod_lt _ (by decide)
  have larger : Nat.max (w.bits 55 48) status < 256 := Nat.max_lt.mpr ⟨Nat.mod_lt _ (by decide), h⟩
  have count : (w.bits 47 0 + inc) % 2 ^ 48 < 2 ^ 48 := Nat.mod_lt _ (by decide)
  intro r
  have value : r.toNat = w.bits 63 56 * 2 ^ 56 + Nat.max (w.bits 55 48) status * 2 ^ 48 + (w.bits 47 0 + inc) % 2 ^ 48 := by
    rw [BitVec.toNat_ofNat, signalWord]; omega
  generalize w.bits 63 56 = a at *
  generalize Nat.max (w.bits 55 48) status = m at *
  generalize (w.bits 47 0 + inc) % 2 ^ 48 = n at *
  rw [DWord.bits, DWord.bits, DWord.bits, value]
  simp only [Nat.shiftRight_eq_div_pow]
  omega

section
variable (s : State) {root va : DWord} {key inc status : Nat} (h0 : key ≠ 0) (near : isFar key = false)
include h0 near

/-- A signal of an object of this module writes its doubleword alone. -/
theorem signal_near_mem : (s.signal root va key inc status).mem = (s.wrKeep key 8 (signalWord (s.rd64 key) inc status)).mem := by
  rw [State.signal, if_neg h0, near, if_neg Bool.false_ne_true, countHbm_mem, setProt_mem]; rfl

/-- That is what is read there, where no byte of it is the scheduler's own. -/
theorem rd64_signal (hro : ∀ i, i < 8 → s.roByte (key + i) = false) :
    (s.signal root va key inc status).rd64 key = BitVec.ofNat 64 (signalWord (s.rd64 key) inc status % 2 ^ 64) := by
  have written : (s.signal root va key inc status).rd key 8 = (s.wrKeep key 8 (signalWord (s.rd64 key) inc status)).rd key 8 :=
    congrArg (readLe · key 8) (signal_near_mem s h0 near)
  rw [State.rd64, written, rd_wrKeep _ _ hro]

/-- Its line takes the protection of the object's page: eight aligned bytes lie in one line (R123). -/
theorem signal_near_prot (hap : keyAp key = 0) (aligned : key % 8 = 0) :
    (s.signal root va key inc status).prot.get 0 (key / 64) = s.protAt root va := by
  have counted (t : State) : (t.countHbm key true).prot = t.prot := by unfold State.countHbm; split <;> rfl
  have one : (key + 8 - 1) / 64 + 1 - key / 64 = 1 := by omega
  have lines : ¬(keyAp key ≠ 0 ∨ (8 : Nat) = 0) := by simp [hap]
  rw [State.signal, if_neg h0, near, if_neg Bool.false_ne_true, counted, State.setProt, if_neg lines, one]
  exact (Map.get_put ..).trans (if_pos rfl)

end

/-! ### Arms (R226) -/

section
variable (s : State) (key : Nat) (e : DWord) (b : Bool)

/-- What an arm makes of the barrier's third doubleword. -/
def armWord (g : Nat) (strict : Bool) : Nat := (g / 2 ^ 32 + 1) % 2 ^ 32 * 2 ^ 32 + g % 2 ^ 32 / 4 * 4 + (if strict then 2 else 0)

/-- Its fields: poison clear, strict as armed, the bits between kept, and gen counted. -/
theorem armWord_fields (g : Nat) :
    let h := armWord g b % 2 ^ 64
    h % 2 = 0 ∧ h / 2 % 2 = (if b then 1 else 0) ∧ h / 4 % 2 ^ 30 = g / 4 % 2 ^ 30 ∧ h / 2 ^ 32 = (g / 2 ^ 32 + 1) % 2 ^ 32 := by
  cases b
  all_goals
    simp only [armWord, if_true, Bool.false_eq_true, if_false]
    omega

theorem arm_eq : s.arm key e b = ((s.wrKeep key 8 e.toNat).wrKeep (key + 8) 8 0).wrKeep (key + 16) 8 (armWord (s.rd (key + 16) 8) b) := rfl

/-- An arm leaves every byte outside the barrier's three doublewords. -/
theorem readByte_arm_outside {k : Nat} (h : k < key ∨ key + 24 ≤ k) : readByte (s.arm key e b).mem k = readByte s.mem k := by
  rw [arm_eq, readByte_wrKeep_outside _ _ (by omega), readByte_wrKeep_outside _ _ (by omega), readByte_wrKeep_outside _ _ (by omega)]

section
variable (hro : ∀ i, i < 24 → s.roByte (key + i) = false)
include hro

theorem rd64_arm : (s.arm key e b).rd64 key = e := by
  have written : (s.arm key e b).rd key 8 = e.toNat % 2 ^ 64 := by
    rw [arm_eq, rd_wrKeep_outside _ _ (by omega), rd_wrKeep_outside _ _ (by omega)]
    exact rd_wrKeep _ _ fun i hi => hro i (by omega)
  rw [State.rd64, written, Nat.mod_eq_of_lt e.isLt, BitVec.ofNat_toNat, BitVec.setWidth_eq]

theorem rd_arm_arrived : (s.arm key e b).rd (key + 8) 8 = 0 := by
  rw [arm_eq, rd_wrKeep_outside _ _ (by omega)]
  exact rd_wrKeep _ _ fun i hi => by rw [Nat.add_assoc]; exact hro (8 + i) (by omega)

theorem rd_arm_flags : (s.arm key e b).rd (key + 16) 8 = armWord (s.rd (key + 16) 8) b % 2 ^ 64 :=
  rd_wrKeep _ _ fun i hi => by rw [Nat.add_assoc]; exact hro (16 + i) (by omega)

end
end

/-- Settles O16: what each write holds is read back, and every other byte stands. -/
theorem signalsAndArms : Obligations.SignalsAndArms := by
  intro s root va key inc status e b
  refine ⟨if_pos rfl, fun h0 near => ⟨fun k hk => ?own, signal_near_prot s h0 near⟩, fun h0 near hst hro => ?signal, fun hro => ?arm⟩
  case own => rw [signal_near_mem s h0 near, readByte_wrKeep_of_roByte _ _ hk]
  case signal =>
    obtain ⟨count, larger, high⟩ := signalWord_fields (s.rd64 key) inc hst
    intro t
    rw [rd64_signal s h0 near hro]
    exact ⟨count, larger, high, fun k hk => by rw [signal_near_mem s h0 near, readByte_wrKeep_outside _ _ hk]⟩
  case arm =>
    obtain ⟨poison, strict, kept, gen⟩ := armWord_fields b (s.rd (key + 16) 8)
    intro t g h
    have flags : h = armWord g b % 2 ^ 64 := rd_arm_flags s key e b hro
    rw [flags]
    exact ⟨rd64_arm s key e b hro, rd_arm_arrived s key e b hro, poison, strict, kept, gen, fun k hk => readByte_arm_outside s key e b hk⟩

end Sys2Proof.Machine
end

section
/-! O19, O20: what taking a trap does, where an instruction's trap is taken, and each condition of an instruction under which it traps. -/
namespace Sys2Proof.Machine

/-! ### Taking a trap (R232, R233, R356) -/

theorem State.SameStreams.count (s : State) (c ev k : Nat) : s.SameStreams (s.count c ev k) := .modCluster s c fun _ => rfl

theorem State.SameStreams.farDrop (s : State) (c k : Nat) : s.SameStreams (s.farDrop c k) := .of_clusters rfl rfl

/-- A change of a stream is seen there. -/
theorem State.stream_modStream_self (s : State) (c k : Nat) (f : Stream → Stream) : (s.modStream c k f).stream c k = f (s.stream c k) := by
  simp [State.stream, State.modStream, State.cluster]

/-- It leaves every other stream. -/
theorem State.stream_modStream_ne (s : State) {c k l j : Nat} (f : Stream → Stream) (h : (l, j) ≠ (c, k)) :
    (s.modStream c k f).stream l j = s.stream l j := by
  simp only [State.stream, State.modStream, State.cluster, State.modCluster_clusters, Map.get_mod]
  split
  · next same =>
    have other : j ≠ k := fun e => h (by rw [same, e])
    subst same
    rw [Map.get_mod, if_neg other]
  · rfl

/-- The registers in which a trap is saved (Table 10.2). -/
def Stream.trapRegs (st : Stream) (code detail : Nat) (addr : DWord) (idx : Nat) : Regs :=
  { st.arch with
    cause := BitVec.ofNat 16 (detail <<< 8 ||| code), trapblk := st.pc, trapidx := BitVec.ofNat 7 idx, trapaddr := addr, th := true }

/-- The cause holds detail and code side by side. -/
theorem cause_eq {code detail : Nat} (hc : code < 256) (hd : detail < 256) : detail % 256 * 256 + code % 256 = detail <<< 8 ||| code := by
  rw [Nat.mod_eq_of_lt hc, Nat.mod_eq_of_lt hd, ← Nat.shiftLeft_add_eq_or_of_lt hc, Nat.shiftLeft_eq]

section
variable {s : State} {c k code detail idx : Nat} {addr : DWord} (hc : code < 256) (hd : detail < 256)
include hc hd

/-- A stream with a handler that is not in it goes there with the trap's registers and an empty buffer. -/
theorem takeTrap_handled (hth : (s.stream c k).arch.th = false) (hvec : (s.stream c k).arch.trapvec ≠ 0) :
    ∃ u : Stream, s.takeTrap c k code detail addr idx = ((s.modStream c k fun _ => u).farDrop c k).count c 4 k ∧
      u.arch = (s.stream c k).trapRegs code detail addr idx ∧ u.view = u.arch ∧ u.effs = [] ∧ u.pc = (s.stream c k).arch.trapvec ∧ u.phase = .ready ∧
      u.queues = (s.stream c k).queues ∧ u.issued = (s.stream c k).issued := by
  unfold State.takeTrap Stream.trapRegs
  rw [cause_eq hc hd]
  exact ⟨_, if_neg (not_or.mpr ⟨Bool.eq_false_iff.mp hth, hvec⟩), rfl, rfl, rfl, rfl, rfl, rfl, rfl⟩

/-- Else the trap is fatal. -/
theorem takeTrap_fatal (h : (s.stream c k).arch.th = true ∨ (s.stream c k).arch.trapvec = 0) :
    s.takeTrap c k code detail addr idx =
      ((s.modStream c k fun _ => { s.stream c k with
        arch := (s.stream c k).trapRegs code detail addr idx, view := (s.stream c k).trapRegs code detail addr idx, effs := [], phase := .ready,
        waiting := false }).count c 4 k).faultEnd (s.cidAt c k) code detail (s.stream c k).pc addr idx := by
  unfold State.takeTrap Stream.trapRegs
  rw [cause_eq hc hd]
  exact if_pos h

end

/-! ### Where a trap is taken (R353 to R355) -/

section
variable {s : State} {code detail : Nat} {addr : DWord}

/-- At a word that is not the last, and for the three codes that go before, the trap is the instruction's. -/
theorem trapHere_first (h : s.me.idx + 1 < s.me.len ∨ code = 1 ∨ code = 0x0B ∨ code = 0x0C) :
    s.trapHere code detail addr = s.takeTrap s.cur.cluster s.cur.ctx code detail addr s.me.idx := if_pos h

section
variable (hlast : s.me.len ≤ s.me.idx + 1) (h1 : code ≠ 1) (hB : code ≠ 0x0B) (hC : code ≠ 0x0C)
include hlast h1 hB hC

theorem not_goes_first : ¬(s.me.idx + 1 < s.me.len ∨ code = 1 ∨ code = 0x0B ∨ code = 0x0C) := by
  simp [Nat.not_lt.mpr hlast, h1, hB, hC]

/-- At the last word a fall-through header that cannot be read yet is waited for. -/
theorem trapHere_waits {v : State} {d : Nat} {x : DWord} (h : s.checkTarget s.cur.cluster s.cur.ctx s.me.fallThrough true = (v, some (0, d, x))) :
    s.trapHere code detail addr = v := by
  rw [State.trapHere, if_neg (not_goes_first hlast h1 hB hC)]
  simp only [h]

/-- A word that is no header is reported in the trap's place. -/
theorem trapHere_blockfmt {v : State} {d : Nat} {x : DWord} (h : s.checkTarget s.cur.cluster s.cur.ctx s.me.fallThrough true = (v, some (0x0C, d, x))) :
    s.trapHere code detail addr = v.takeTrap s.cur.cluster s.cur.ctx 0x0C d x s.me.idx := by
  rw [State.trapHere, if_neg (not_goes_first hlast h1 hB hC)]
  simp only [h]

/-- Whatever else its fetch meets, the trap is the instruction's. -/
theorem trapHere_last {v : State} {bad : Option (Nat × Nat × DWord)} (h : s.checkTarget s.cur.cluster s.cur.ctx s.me.fallThrough true = (v, bad))
    (hbad : ∀ d x, bad ≠ some (0, d, x) ∧ bad ≠ some (0x0C, d, x)) :
    s.trapHere code detail addr = v.takeTrap s.cur.cluster s.cur.ctx code detail addr s.me.idx := by
  rw [State.trapHere, if_neg (not_goes_first hlast h1 hB hC), h]
  split
  · next e => exact absurd (Prod.mk.inj e).2 (hbad _ _).1
  · next e => exact absurd (Prod.mk.inj e).2 (hbad _ _).2
  · next e => rw [(Prod.mk.inj e).1]

end
end

/-! ### TRAP and RETI (R232, R233) -/

theorem exec_trap (s : State) (a : BitVec 6) : exec (.trap a) s = .next (s.trapHere 0x0B 0 (s.me.view.rs a)) := rfl

section
variable {s : State}

theorem exec_reti_outside (h : s.me.arch.th = false) : exec .reti s = .next (s.trapHere 1 4 0xF0000030) := by
  change execReti s = _
  simp [execReti, h]

theorem exec_reti_inside (h : s.me.arch.th = true) : exec .reti s = .next (s.transfer { s.me with isReti := true } s.me.view.trapblk) := by
  change execReti s = _
  simp [execReti, h]

end

/-- The commit of RETI's block leaves the handler, for the block that the transfer named. -/
theorem committed_reti {v : Stream} (hr : v.isReti = true) (he : v.isExit = false) : v.committed.arch.th = false ∧ v.committed.pc = v.next := by
  simp [Stream.committed, hr, he, Regs.leaveTrap]

/-- Settles O20: a trap is taken by one of two equations, fatal or not, at the place that a branch of `State.trapHere` gives. -/
theorem trapsAndReturn : Obligations.TrapsAndReturn := by
  intro s code detail addr a hc hd st r t u
  refine ⟨trapHere_first, fun hlast h1 hB hC v bad h => ⟨?waits, ?blockfmt, trapHere_last hlast h1 hB hC h⟩, fun hth hvec => ?handled, takeTrap_fatal hc hd,
    exec_trap s a, ?reti, fun v => committed_reti, exec_reti_outside⟩
  case waits => rintro d x rfl; exact trapHere_waits hlast h1 hB hC h
  case blockfmt => rintro d x rfl; exact trapHere_blockfmt hlast h1 hB hC h
  case handled =>
    obtain ⟨v, taken, arch, view, effs, pc, phase, queues, issued⟩ := takeTrap_handled (addr := addr) (idx := st.idx) hc hd hth hvec
    have kept : (s.modStream s.cur.cluster s.cur.ctx fun _ => v).SameStreams t := by
      rw [show t = _ from taken]
      exact (State.SameStreams.farDrop ..).trans (.count ..)
    have here : u = v := (kept.stream ..).trans (State.stream_modStream_self ..)
    rw [here]
    refine ⟨arch, view, effs, pc, phase, queues, issued, ?_, fun c k other => (kept.stream c k).trans (State.stream_modStream_ne _ _ other)⟩
    rw [show t = _ from taken]; rfl
  case reti =>
    intro hth hbr
    rw [exec_reti_inside hth, transfer_eq_branch hbr]

/-! ### Accesses (R205 to R208, R355) -/

section
variable {s s1 : State} {i : Instr} {d a b : BitVec 6} {va : DWord} {n sz : Nat} {acc : Access}

theorem access_misaligned (h : va.toNat % n ≠ 0) : s.access va n acc = (s, .error (2, 1)) := if_pos h

theorem access_refused {e : Nat × Nat} (h : va.toNat % n = 0)
    (ht : s.translate s.cur.cluster false (s.rootAt s.cur.cluster s.cur.ctx) va acc = (s1, .error e)) : s.access va n acc = (s1, .error e) := by
  rw [State.access, if_neg (not_not_intro h), ht]

theorem stopAt_traps {code detail : Nat} {addr : DWord} (h : code ≠ 0) : s.stopAt code detail addr = s.trapHere code detail addr := if_neg h

theorem traps_of_seqLoad {kind : Nat} {signed t : Bool} (h : va.toNat % 2 ^ sz ≠ 0) (hi : exec i s = seqLoad s d va sz signed t kind) :
    Traps s s i 2 1 va := by
  rw [Traps, hi, seqLoad, State.loadView, access_misaligned h]; rfl

/-- A store whose access is refused traps, or with code 0 waits. -/
theorem seqStore_refused {rel : Bool} {code detail : Nat} (h : s.access va (2 ^ sz) .store = (s1, .error (code, detail))) :
    seqStore s d va sz rel = .next (s1.stopAt code detail va) := by
  rw [seqStore, h]

theorem traps_of_seqStore {rel : Bool} (h : va.toNat % 2 ^ sz ≠ 0) (hi : exec i s = seqStore s d va sz rel) : Traps s s i 2 1 va :=
  hi.trans (seqStore_refused (access_misaligned h))

theorem traps_of_seqAmo {fn : Nat} (h : (s.me.view.rs a).toNat % n ≠ 0) (hi : exec i s = seqAmo s fn d a b n) : Traps s s i 2 1 (s.me.view.rs a) := by
  rw [Traps, hi, seqAmo, access_misaligned h]; rfl

end

/-! ### Transfers to a register (R215, R355) -/

section
variable {s t : State} {st : Stream} {r : DWord} (hr : r.toNat % 4 ≠ 0)
include hr

/-- A word that is no block header goes before a misaligned target. -/
theorem jumpReg_blockfmt {d : Nat} {x : DWord} (h : s.checkTarget s.cur.cluster s.cur.ctx r false = (t, some (0x0C, d, x))) :
    jumpReg s st r = .next (t.trapJump 0x0C d x) := by
  simp only [jumpReg, State.checkJump, if_neg hr, h]

theorem jumpReg_misaligned {bad : Option (Nat × Nat × DWord)} (h : s.checkTarget s.cur.cluster s.cur.ctx r false = (t, bad))
    (hbad : ∀ d x, bad ≠ some (0, d, x) ∧ bad ≠ some (0x0C, d, x)) : jumpReg s st r = .next (t.trapJump 2 2 r) := by
  have checked : s.checkJump s.cur.cluster s.cur.ctx r = (t, some (2, 2, r)) := by
    rw [State.checkJump, if_neg hr, h]
    split
    · next e => exact absurd (Prod.mk.inj e).2 (hbad _ _).1
    · next e => exact absurd (Prod.mk.inj e).2 (hbad _ _).2
    · next e => rw [(Prod.mk.inj e).1]
  simp only [jumpReg, if_neg hr, checked]

end

section
variable (s : State) (a : BitVec 6)

theorem exec_jr : exec (.jr a) s = jumpReg s s.me (s.me.view.rs a) := rfl
theorem exec_callr : exec (.callr a) s = jumpReg s s.me.pushRa (s.me.view.rs a) := rfl

/-- A return with nothing to return to. -/
theorem exec_ret_empty (h : s.me.view.rstk = []) (hn : s.me.view.nspill = 0) : exec .ret s = .next (s.trapJump 6 2 s.me.view.spillbase) := by
  change execRet s = _
  simp only [execRet, h, hn, if_true]

end

/-! ### Objects and waits (R217, R224 to R227) -/

section
variable {s : State} {a b : BitVec 6}

theorem objectAt_bad {va : DWord} {al : Nat} {acc : Access} (h : va = 0 ∨ va.toNat % al ≠ 0) : s.objectAt va al acc = (s, .error (2, 3)) := if_pos h

theorem exec_sigc_bad {x : BitVec 3} (h : s.me.view.rs a = 0 ∨ (s.me.view.rs a).toNat % 16 ≠ 0) :
    exec (.sigc a b x) s = .next (s.trapHere 2 3 (s.me.view.rs a)) := by
  change execSigc a b x s = _
  simp only [execSigc, objectAt_bad h]; rfl

theorem exec_bara_bad {x : BitVec 1} (h : s.me.view.rs a = 0 ∨ (s.me.view.rs a).toNat % 32 ≠ 0) :
    exec (.bara a b x) s = .next (s.trapHere 2 3 (s.me.view.rs a)) := by
  change execBara a b x s = _
  simp only [execBara, objectAt_bad h]; rfl

section
variable (hw : s.me.wflag = false)
include hw

/-- In a block without W no instruction waits. -/
theorem waitRead_unflagged (va : DWord) (al : Nat) : s.waitRead va al = (s, .error (0x0C, 4, s.me.pc)) := by
  simp [State.waitRead, hw]

theorem exec_waitc_unflagged : exec (.waitc a b) s = .next (s.trapHere 0x0C 4 s.me.pc) := by
  change execWaitc a b s = _
  simp only [execWaitc, waitRead_unflagged hw]; rfl

theorem exec_waitb_unflagged {p : BitVec 3} : exec (.waitb p a) s = .next (s.trapHere 0x0C 4 s.me.pc) := by
  change execWaitb p a s = _
  simp only [execWaitb, waitRead_unflagged hw]; rfl

theorem exec_hzwait_unflagged {h x : BitVec 3} : exec (.hzwait h x) s = .next (s.trapHere 0x0C 4 s.me.pc) := by
  change execHzwait h x s = _
  simp [execHzwait, hw]

end

theorem exec_hzwait_unbound {h x : BitVec 3} (hw : s.me.wflag = true) (hb : (s.me.view.rh x).bound = false) :
    exec (.hzwait h x) s = .next (s.trapHere 0x10 2 (x.zeroExtend 64)) := by
  change execHzwait h x s = _
  simp [execHzwait, hw, hb]

theorem exec_hzpub_unfed {h : BitVec 3} (hs : s.isTiSource (BitVec.setWidth 16 (s.me.view.rs b)).toNat = false) :
    exec (.hzpub h b) s = .next (s.trapHere 0x10 3 ((BitVec.setWidth 16 (s.me.view.rs b)).zeroExtend 64)) := by
  change execHzpub h b s = _
  exact if_pos (congrArg not hs)

end

/-! ### Times (R216) -/

section
variable {s : State} {p h : BitVec 3} {c : BitVec 2} {b : BitVec 6}

/-- A sum that its coordinate cannot hold. -/
theorem timeCoord_overflow {d : BitVec 3} {base : Time} {j v : Nat} {clear : Bool} (h : 2 ^ coordBits j ≤ v) :
    timeCoord s d base j v clear = .next (s.trapHere 0x10 1 (BitVec.ofNat 64 v)) := if_pos h

theorem exec_tadv_overflow (hlt : (s.me.view.rt h).coord c.toNat < (s.me.view.rs b).toNat) (hv : 2 ^ coordBits c.toNat ≤ (s.me.view.rs b).toNat) :
    exec (.tadv p h c b) s = .next (s.trapHere 0x10 1 (s.me.view.rs b)) := by
  change execTadv p h c b s = _
  rw [execTadv, if_neg (Nat.not_le.mpr hlt), timeCoord_overflow hv, BitVec.ofNat_toNat, BitVec.setWidth_eq]

end

/-! ### Commands (R218 to R222, R228) -/

section
variable {s : State} {al : Nat} {cmd : Cmd} {bad : Option (Nat × DWord)}

theorem seqEnq_misaligned (h : cmd.a.toNat % al ≠ 0) : seqEnq s al cmd bad = .next (s.trapHere 2 3 cmd.a) := if_pos h

theorem seqEnq_object (ha : cmd.a.toNat % al = 0) (h : cmd.obj.toNat % 16 ≠ 0) : seqEnq s al cmd bad = .next (s.trapHere 2 3 cmd.obj) :=
  (if_neg (not_not_intro ha)).trans (if_pos h)

theorem seqEnq_engine {d : Nat} {v : DWord} (ha : cmd.a.toNat % al = 0) (h : cmd.obj.toNat % 16 = 0) (hb : bad = some (d, v)) :
    seqEnq s al cmd bad = .next (s.trapHere 0x0D d v) := by
  subst hb; exact (if_neg (not_not_intro ha)).trans (if_neg (not_not_intro h))

/-- A demand that the placement table does not allow is refused in the state in which its tables were read. -/
theorem execEnqPl_refused {s1 : State} {a b c : BitVec 6} (ho : (s.me.view.rs b).toNat % 16 = 0)
    (h : s.plGood s.cur.cluster s.cur.ctx ((s.me.view.rs a).bits 9 0) ((s.me.view.rs c).bits 15 0) = (s1, some false)) :
    execEnqPl a b c s = .next (s1.trapHere 0x0D 5 (s.me.view.rs c)) := by
  have kept := State.SameStreams.plGood s s.cur.cluster s.cur.ctx ((s.me.view.rs a).bits 9 0) ((s.me.view.rs c).bits 15 0)
  rw [h] at kept
  simp only [execEnqPl, h]
  exact seqEnq_engine (Nat.mod_one _) (by rw [Stream.capture, kept.me]; exact ho) rfl

/-- The fifth configuration command of a block. -/
theorem seqCfg_fifth (ho : cmd.obj.toNat % 16 = 0) (h : 4 ≤ (s.me.effs.filter fun e => match e.2 with
      | .cfg _ => true
      | _ => false).length) : seqCfg s cmd = .next (s.trapHere 0x0D 7 (cmd.word.zeroExtend 64)) := by
  rw [seqCfg, if_neg (not_not_intro ho)]
  exact if_pos h

end

/-- Settles O19: each clause's premise is the test at which its instruction stops. -/
theorem preciseTraps : Obligations.PreciseTraps := by
  intro s s1 d a b c z o o10 sc y u h x p q code detail st v va vo vc n r t cc sum
  refine ⟨fun bad => ⟨?ld, ?ldn, ?st⟩, fun bad => ⟨?lda, ?stl⟩, fun bad => ?ldc, fun bad => ⟨?amoAdd, ?amoCas, ?amoSwap⟩, fun good ht => ?storeRefused,
    fun bad t0 target ht => ?jumps, exec_ret_empty s, exec_reti_outside, fun hw => ⟨?waitc, ?waitb, ?hzwait⟩, exec_hzwait_unbound, exec_sigc_bad, exec_bara_bad,
    ?tinc, ?tinci, exec_tadv_overflow, exec_hzpub_unfed, fun bad => ?enqMx, fun bad => ⟨?enqCl, ?enqLk, ?enqSc⟩, fun bad => ?enqTo, fun ho big => ?enqAg,
    fun ho bad => ?enqPl, fun ho full => ?cfgPage⟩
  case ld => exact traps_of_seqLoad bad (exec_ld ..)
  case ldn => exact traps_of_seqLoad bad (exec_ldn ..)
  case st => exact traps_of_seqStore bad (exec_st ..)
  case lda => exact traps_of_seqLoad bad (exec_lda ..)
  case stl => exact traps_of_seqStore bad (exec_stl ..)
  case ldc => exact traps_of_seqLoad bad (exec_ldc ..)
  case amoAdd => exact traps_of_seqAmo bad (exec_amoAdd ..)
  case amoCas => exact traps_of_seqAmo bad (exec_amoCas ..)
  case amoSwap => exact traps_of_seqAmo bad (exec_amoSwap ..)
  case storeRefused =>
    have stops : exec (.st d a z o) s = .next (s1.stopAt code detail va) := (exec_st ..).trans (seqStore_refused (access_refused good ht))
    exact ⟨fun trap => stops.trans (congrArg _ (stopAt_traps trap)), fun wait => by rw [stops, wait]; rfl⟩
  case jumps =>
    refine ⟨fun d x blockfmt => ?_, fun other => ⟨(exec_jr ..).trans (jumpReg_misaligned bad ht other), (exec_callr ..).trans (jumpReg_misaligned bad ht other)⟩⟩
    subst blockfmt
    exact ⟨(exec_jr ..).trans (jumpReg_blockfmt bad ht), (exec_callr ..).trans (jumpReg_blockfmt bad ht)⟩
  case waitc => exact exec_waitc_unflagged hw
  case waitb => exact exec_waitb_unflagged hw
  case hzwait => exact exec_hzwait_unflagged hw
  case tinc => exact timeCoord_overflow
  case tinci => exact timeCoord_overflow
  case enqMx => exact (exec_enqMx ..).trans (seqEnq_object (Nat.mod_one _) bad)
  case enqCl => exact (exec_enqCl ..).trans (seqEnq_misaligned bad)
  case enqLk => exact (exec_enqLk ..).trans (seqEnq_misaligned bad)
  case enqSc => exact (exec_enqSc ..).trans (seqEnq_misaligned bad)
  case enqTo => exact (exec_enqTo ..).trans (seqEnq_misaligned bad)
  case enqAg => exact (exec_enqAg ..).trans (seqEnq_engine (Nat.mod_one _) ho (if_pos (.inl big)))
  case enqPl => exact (exec_enqPl ..).trans (execEnqPl_refused ho bad)
  case cfgPage => exact (exec_cfgPage ..).trans (seqCfg_fifth ho full)

end Sys2Proof.Machine
end

section
/-! O30: the element-wise operations of the CE are maps over the elements of their sources; the integer and logic operations are read once by
their two forms, and the shifts once as products and quotients. -/
namespace Sys2Proof.Machine

/-! ### The forms of an element-wise operation -/

section
variable {s : State} {f : Firing} {e : Elem} {i : Instr}

/-- An operation that is an element-wise one at this firing. -/
theorem maps_of_ceMap {g : CeEnv → Nat → El → El → El → Nat} {r : State → Firing → Res} (h : s.CanFire f e) (hi : exec i s = fire s r)
    (hr : r s f = ceMap g s f) : Maps s i f e g := by
  intro a ha hb
  refine fires_of h hi ?_
  rw [hr]
  simp only [ceMap, ha, elemOf_eq h, hb]; rfl

/-- An operation on the bits of two elements, its function given by another expression. -/
theorem maps_of_ceBits {g : Nat → Nat → Nat → Nat} (g' : Nat → Nat → Nat → Nat) (h : s.CanFire f e) (hi : exec i s = fire s (ceBits g))
    (hg : ∀ b x y, g b x y = g' b x y) :
    Maps s i f e fun v _ x y _ => g' v.t.bits x.raw y.raw % 2 ^ v.t.bits := by
  obtain rfl : g = g' := funext fun b => funext fun x => funext fun y => hg b x y
  exact maps_of h hi

end

/-! ### Shifts as products and quotients (R249) -/

theorem shiftRightSigned_eq (b x n : Nat) :
    patternOf b (signedOf b x / (2 ^ n : Nat)) = ((signedOf b x / 2 ^ n) % (2 ^ b : Nat)).toNat := by
  rw [patternOf, Nat.cast_pow, Nat.cast_ofNat]

theorem rotate_eq (b x n : Nat) : x <<< n + x >>> (b - n) = x * 2 ^ n + x / 2 ^ (b - n) := by
  rw [Nat.shiftLeft_eq, Nat.shiftRight_eq_div_pow]

/-- Settles O30: each operation is its entry of Tables 11.1 and 11.2. -/
theorem elementIntegerResults : Obligations.ElementIntegerResults := by
  intro s f e h int bits
  refine ⟨?add, ?sub, ?mul, ?mulh, ?min, ?max, ?abs, ?neg, ?mad, ?avg, ?and, ?or, ?xor, ?andn, ?not, ?shl, ?shr, ?sra, ?rol, ?popc, ?clz⟩
  case add => exact maps_of h rfl
  case sub => exact maps_of h rfl
  case mul => exact maps_of h rfl
  case mulh => exact maps_of h rfl
  case min => exact maps_of h rfl
  case max => exact maps_of h rfl
  case abs => exact maps_of h rfl
  case neg => exact maps_of h rfl
  case mad => exact maps_of h rfl
  case avg => exact maps_of h rfl
  case and => exact maps_of h rfl
  case or => exact maps_of h rfl
  case xor => exact maps_of h rfl
  case andn => exact maps_of h rfl
  case not => exact maps_of h rfl
  case shl => exact maps_of_ceBits (fun b x y => x * 2 ^ (y % b)) h rfl fun b x y => Nat.shiftLeft_eq x (y % b)
  case shr => exact maps_of_ceBits (fun b x y => x / 2 ^ (y % b)) h rfl fun b x y => Nat.shiftRight_eq_div_pow x (y % b)
  case sra =>
    exact maps_of_ceBits (fun b x y => ((signedOf b x / 2 ^ (y % b)) % (2 ^ b : Nat)).toNat) h rfl fun b x y => shiftRightSigned_eq b x (y % b)
  case rol =>
    exact maps_of_ceBits (fun b x y => x * 2 ^ (y % b) + x / 2 ^ (b - y % b)) h rfl fun b x y => rotate_eq b x (y % b)
  case popc => exact maps_of h rfl
  case clz => exact maps_of h rfl

end Sys2Proof.Machine
end

section
/-! O31: a float operation is a map that rounds once; a special function one that rounds to nearest even under SR; sign operations, cmp and sel each have
one function per class of type. -/
namespace Sys2Proof.Machine

/-- The smaller of two values, NaN where either is NaN. -/
theorem valMin_false (x y : Val) : valMin false x y = if x.isNan || y.isNan then .nan false else if x.below y then x else y := by
  cases hb : x.below y <;> simp [valMin, hb]

/-- The larger of two values, NaN where either is NaN. -/
theorem valMin_true (x y : Val) : valMin true x y = if x.isNan || y.isNan then .nan false else if x.below y then y else x := by
  cases hb : x.below y <;> simp [valMin, hb]

section
variable {s : State} {f : Firing} {e : Elem} {i : Instr}

/-- An element-wise operation whose function is given by another expression. -/
theorem maps_of_eq {g g' : CeEnv → Nat → El → El → El → Nat} (h : s.CanFire f e) (hi : exec i s = fire s (ceMap g))
    (hg : ∀ v i x y z, g v i x y z = g' v i x y z) : Maps s i f e g' := by
  obtain rfl : g = g' := by funext v i x y z; exact hg v i x y z
  exact maps_of h hi

/-- A special function other than sqrt rounds to nearest even where SR is asked (R251). -/
theorem maps_of_ceSpecial {n : Nat} (h : s.CanFire f e) (hi : exec i s = fire s (ceSpecial n)) :
    Maps s i f e fun v i x _ _ =>
      tyRound v.ty (if n ≠ 2 ∧ v.mode = RMode.ofCode 4 then RMode.ofCode 0 else v.mode) (v.ftz && flushable v.ty) (v.rand i) (special n x.val) := by
  refine maps_of_eq h hi fun v i x _ _ => ?_
  by_cases stochastic : n ≠ 2 ∧ v.mode = RMode.ofCode 4
  · simp only [if_pos stochastic]; rfl
  · simp only [if_neg stochastic]; rfl

/-- A sign operation works on the bits of an element of a fixed type (R250). -/
theorem maps_of_ceSign_bits {bits : Nat → Nat → Nat} {val : Val → Val} (h : s.CanFire f e) (hi : exec i s = fire s (ceSign bits val))
    (fixed : f.info.w.ty.toNat ≠ 15) : Maps s i f e fun v _ x _ _ => bits (tyBits v.ty) x.raw := by
  have typed : ¬f.info.w.ty = 15 := fun eq => fixed (congrArg BitVec.toNat eq)
  exact maps_of_ceMap h hi (by simp only [ceSign, if_neg typed])

/-- A sign operation works on the exact scaled value of an element of the channel type (R250). -/
theorem maps_of_ceSign_val {bits : Nat → Nat → Nat} {val : Val → Val} (h : s.CanFire f e) (hi : exec i s = fire s (ceSign bits val))
    (channel : f.info.w.ty.toNat = 15) : Maps s i f e fun v i x _ _ => v.flt i (val x.val) := by
  have typed : f.info.w.ty = 15 := BitVec.eq_of_toNat_eq channel
  exact maps_of_ceMap h hi (by simp only [ceSign, if_pos typed])

/-- The smaller of two floats (R250). -/
theorem maps_ceFloatMin (h : s.CanFire f e) : Maps s .ceFloatMin f e fun v i x y _ =>
    v.flt i (if x.val.isNan || y.val.isNan then .nan false else if x.val.below y.val then x.val else y.val) :=
  maps_of_eq h rfl fun v i x y _ => congrArg (v.flt i) (valMin_false x.val y.val)

/-- The larger of two floats (R250). -/
theorem maps_ceFloatMax (h : s.CanFire f e) : Maps s .ceFloatMax f e fun v i x y _ =>
    v.flt i (if x.val.isNan || y.val.isNan then .nan false else if x.val.below y.val then y.val else x.val) :=
  maps_of_eq h rfl fun v i x y _ => congrArg (v.flt i) (valMin_true x.val y.val)

/-- A comparison of floats (R252). -/
theorem maps_ceCmp_float (h : s.CanFire f e) (float : f.info.w.ty.toNat = 15 ∨ 3 ≤ f.info.w.ty.toNat ∧ f.info.w.ty.toNat ≤ 5) :
    Maps s .ceCmp f e fun v _ x y _ => if (fcond f.info.w.fn.toNat x.val y.val).1 then 2 ^ elemBits v.ty - 1 else 0 :=
  maps_of_ceMap h rfl (by simp only [ceCompare, if_pos float])

/-- A comparison of integers (R252). -/
theorem maps_ceCmp_int (h : s.CanFire f e) (int : ¬(f.info.w.ty.toNat = 15 ∨ 3 ≤ f.info.w.ty.toNat ∧ f.info.w.ty.toNat ≤ 5)) :
    Maps s .ceCmp f e fun v _ x y _ => if icond f.info.w.fn.toNat (v.t.read x.raw) (v.t.read y.raw) x.raw y.raw then 2 ^ elemBits v.ty - 1 else 0 :=
  maps_of_ceMap h rfl (by simp only [ceCompare, if_neg int]; rfl)

end

/-- Settles O31: each operation is its entry of Tables 11.3 and 11.4, of R252 or of R253. -/
theorem elementFloatResults : Obligations.ElementFloatResults := by
  intro s f e h flt spec ty
  refine ⟨?add, ?sub, ?mul, ?fma, ?fms, ?min, ?max, fun fixed => ⟨?absBits, ?negBits⟩, fun channel => ⟨?absVal, ?negVal⟩, ?rcp, ?rsq, ?sqrt, ?exp2,
    ?log2, ?tanh, ?sigm, ?sin, ?cos, ?erf, ?cmpFloat, ?cmpInt, ?sel⟩
  case add => exact maps_of h rfl
  case sub => exact maps_of h rfl
  case mul => exact maps_of h rfl
  case fma => exact maps_of h rfl
  case fms => exact maps_of h rfl
  case min => exact maps_ceFloatMin h
  case max => exact maps_ceFloatMax h
  case absBits => exact maps_of_ceSign_bits (bits := fun b x => x % 2 ^ (b - 1)) h rfl fixed
  case negBits => exact maps_of_ceSign_bits (bits := fun b x => x ^^^ 2 ^ (b - 1)) h rfl fixed
  case absVal => exact maps_of_ceSign_val h rfl channel
  case negVal => exact maps_of_ceSign_val h rfl channel
  case rcp => exact maps_of_ceSpecial h rfl
  case rsq => exact maps_of_ceSpecial h rfl
  case sqrt => exact maps_of_ceSpecial h rfl
  case exp2 => exact maps_of_ceSpecial h rfl
  case log2 => exact maps_of_ceSpecial h rfl
  case tanh => exact maps_of_ceSpecial h rfl
  case sigm => exact maps_of_ceSpecial h rfl
  case sin => exact maps_of_ceSpecial h rfl
  case cos => exact maps_of_ceSpecial h rfl
  case erf => exact maps_of_ceSpecial h rfl
  case cmpFloat => exact fun float => maps_ceCmp_float h float
  case cmpInt => exact fun int fixed => maps_ceCmp_int h (by omega)
  case sel =>
    refine maps_of_eq h rfl fun _ _ x y z => ?_
    exact ite_not (z.raw = 0) x.raw y.raw

end Sys2Proof.Machine
end

section
/-! O32: conversions end in one recoloured token whose elements are computed from their exact values; cvt is such a conversion from a fixed type, from a
float entry or from an integer entry; lane moves end in A with other lanes. -/
namespace Sys2Proof.Machine

/-- How a conversion computes: as its firing does, into the type ty of its word (R254). -/
def CeEnv.converting (e : Elem) (w : CeW) (a : Token) : CeEnv :=
  { CeEnv.ofFiring e w a with ty := w.ty.toNat, t := (tyInt w.ty.toNat).getD ⟨tyBits w.ty.toNat, true⟩ }

/-- The elements of A, of a type `src`, each converted by `g` and packed anew, under the result colour (R243, R246, R254). -/
def convertedToken (f : Firing) (a : Token) (col : BitVec 6) (tag : BitVec 12) (ty src : Nat) (g : Nat → Nat → Nat) : Token :=
  let xs := elemsOf src a.lanes
  { a with
    colour := col, tag := tag,
    lanes := packLanes (tyBits ty) (maskMix (f.mask src a.width) (xs.map fun x => x % 2 ^ elemBits ty)
      ((xs.zip (List.range xs.length)).map fun q => g q.2 q.1)) }

/-- A value of an integer entry, rounded to an integer (R254). -/
def CeEnv.toInteger (v : CeEnv) (i : Nat) (x : Val) : Val := match roundInt v.mode (v.rand i) x with
  | some (j, _) => Val.ofInt j
  | none => x

/-- A value times the scale of its channel entry, where that has one (R89, R256). -/
def entScaled (w : Word) (t : Token) (x : Val) : Val := match entScale w t with
  | some sc => scaled sc x
  | none => x

/-- An f32 element as qnt and qntb read it (R255). -/
theorem sourceVal_f32 (v : CeEnv) : v.sourceVal 3 = tyDecode 3 v.ftz := by
  funext x
  simp [CeEnv.sourceVal, flushable]

/-- The elements of a block that its mask leaves on (R246, R255). -/
def maskedOn (m : Option (List Nat)) (xs : List Val) : List Val := match m with
  | some ms => ((ms.zip xs).filter fun q => decide (q.1 ≠ 0)).map Prod.snd
  | none => xs

/-- A's lanes moved: lane i of the result is `g i`, and with a mask A's where it is off (R246, R257). -/
def movedToken (f : Firing) (a : Token) (g : Nat → Word) : Token :=
  let ty := f.info.w.ty.toNat
  let ls := (List.range a.width).map g
  { a with
    lanes := if f.info.w.pr = 1 then packLanes (tyBits ty) (maskMix (f.mask ty a.width) (splitLanes (tyBits ty) a.lanes) (splitLanes (tyBits ty) ls))
      else ls }

section
variable {s : State} {f : Firing} {e : Elem} {i : Instr} {a : Token} {col : BitVec 6} {tag : BitVec 12}

/-! ### The forms -/

/-- The end of a recolouring operation whose colour is allocated (R243). -/
theorem recoloured_some (hc : s.recolourK f a = some (col, tag)) (mk : BitVec 6 → BitVec 12 → List Token) :
    recoloured s f a mk = .ok { st := s, outs := (mk col tag).map fun x => (f.out, x) } := by
  unfold recoloured; rw [hc]

section
variable (h : s.CanFire f e) (ha : f.a = some a)
include h ha

/-- A lane move (R257). -/
theorem emits_of_ceLanes {g : Elem → CeW → Token → Option Token → Nat → Word} {lane : Nat → Word} (hi : exec i s = fire s (ceLanes g))
    (good : badWidths f.info.w.ty.toNat f.toks = false) (hg : ∀ j, g e f.info.w a f.b j = lane j) : Emits s i f (movedToken f a lane) := by
  obtain rfl : g e f.info.w a f.b = lane := funext hg
  refine fires_of h hi ?_
  simp only [ceLanes, ha, elemOf_eq h, good]; rfl

/-- lsel: the lane of A that B's lane names; lane 0 of a B of width 1 serves every lane. -/
theorem emits_lsel (good : badWidths f.info.w.ty.toNat f.toks = false) :
    Emits s .lsel f (movedToken f a fun i => a.lane ((match f.b with
      | some b => b.lane (if b.width = 1 then 0 else i)
      | none => e.const f.info.w.k.toNat).toNat % a.width)) := by
  refine emits_of_ceLanes h ha rfl good fun i => ?_
  cases f.b with
  | none => rfl
  | some b => exact congrArg (fun l : Word => a.lane (l.toNat % a.width)) (apply_ite b.lane (b.width = 1) 0 i).symm

variable (hc : s.recolourK f a = some (col, tag))
include hc

/-- An operation that is a conversion from `src` at this firing. -/
theorem emits_of_ceConvert {r : State → Firing → Res} {src : Nat} {decode : Elem → CeEnv → Token → Nat → Val} {conv : CeEnv → Nat → Val → Nat}
    (hi : exec i s = fire s r) (good : badWidths src f.toks = false) (hr : r s f = ceConvert src decode conv s f) :
    let v := CeEnv.converting e f.info.w a
    Emits s i f (convertedToken f a col tag v.ty src fun i x => conv v i (decode e v a x)) := by
  refine fires_of h hi ?_
  rw [hr]
  simp only [ceConvert, ha, elemOf_eq h, good, recoloured_some hc]; rfl

/-! ### Conversions (R254 to R256) -/

/-- cvt from a type of its own reads the elements without scale. -/
theorem emits_cvt_fixed (fixed : f.info.w.fn.toNat ≠ 15) (good : badWidths f.info.w.fn.toNat f.toks = false) :
    let v := CeEnv.converting e f.info.w a
    Emits s .cvt f (convertedToken f a col tag v.ty f.info.w.fn.toNat fun i x => cvtTo f.info.w.fn.toNat v i (v.sourceVal f.info.w.fn.toNat x)) := by
  refine emits_of_ceConvert h ha hc (src := f.info.w.fn.toNat) (decode := fun _ v _ x => v.sourceVal f.info.w.fn.toNat x)
    (conv := cvtTo f.info.w.fn.toNat) rfl good ?_
  simp only [ceCvt, ha, fixed, if_false, false_and]

/-- cvt from A's entry, a float type: the value with its scale. -/
theorem emits_cvt_floatEntry (channel : f.info.w.fn.toNat = 15) (float : tyInt (entFmt (e.vcEntry a)) = none)
    (good : badWidths (entFmt (e.vcEntry a)) f.toks = false) :
    let v := CeEnv.converting e f.info.w a
    Emits s .cvt f (convertedToken f a col tag v.ty (entFmt (e.vcEntry a)) fun i x =>
      cvtTo (entFmt (e.vcEntry a)) v i (entDecode (e.vcEntry a) a x)) := by
  refine emits_of_ceConvert h ha hc (decode := fun e _ t x => entDecode (e.vcEntry a) t x)
    (conv := cvtTo (entFmt (e.vcEntry a))) rfl good ?_
  simp only [ceCvt, ceConvert, ha, elemOf_eq h, channel, float, if_true, Option.isSome_none, Bool.false_eq_true, and_false, if_false]

/-- cvt from A's entry, an integer type: the value with its scale is rounded to an integer first. -/
theorem emits_cvt_integerEntry (channel : f.info.w.fn.toNat = 15) (int : (tyInt (entFmt (e.vcEntry a))).isSome = true)
    (good : badWidths (entFmt (e.vcEntry a)) f.toks = false) :
    let v := CeEnv.converting e f.info.w a
    Emits s .cvt f (convertedToken f a col tag v.ty (entFmt (e.vcEntry a)) fun i x =>
      cvtTo (entFmt (e.vcEntry a)) v i (v.toInteger i (entDecode (e.vcEntry a) a x))) := by
  refine emits_of_ceConvert h ha hc (decode := fun e _ t x => entDecode (e.vcEntry a) t x)
    (conv := fun v i x => cvtTo (entFmt (e.vcEntry a)) v i (v.toInteger i x)) rfl good ?_
  simp only [ceCvt, ceConvert, ha, elemOf_eq h, channel, int, if_true, and_self]
  rfl

/-- deq: the elements times the scale of A's entry. -/
theorem emits_deq (good : badWidths f.info.w.fn.toNat f.toks = false) :
    let v := CeEnv.converting e f.info.w a
    Emits s .deq f (convertedToken f a col tag v.ty f.info.w.fn.toNat fun i x =>
      v.flt i (entScaled (e.vcEntry a) a (tyDecode f.info.w.fn.toNat false x))) := by
  have dequantised := emits_of_ceConvert h ha hc (i := .deq) rfl good rfl
  exact dequantised

/-- qnt: each f32 element rounded, with no scale. -/
theorem emits_qnt (good : badWidths 3 f.toks = false) :
    let v := CeEnv.converting e f.info.w a
    Emits s .qnt f (convertedToken f a col tag v.ty 3 fun i x => v.flt i (tyDecode 3 v.ftz x)) := by
  have quantised := emits_of_ceConvert h ha hc (i := .qnt) rfl good rfl
  intro v
  rw [← sourceVal_f32]
  exact quantised

/-! ### Block quantisation (R90, R255) -/

/-- qntb: an HDR token with the block's scale, then its data. -/
theorem fires_qntb (good : badWidths 3 f.toks = false) :
    let v := CeEnv.ofFiring e f.info.w a
    let ty := f.info.w.ty.toNat
    let m := f.mask 3 a.width
    let xs := (elemsOf 3 a.lanes).map (tyDecode 3 v.ftz)
    let sc := blockScale ty (maskedOn m xs)
    let block := (xs.zip (List.range xs.length)).map fun q => blockElem ty v.mode ({ v with ty := ty }.rand q.2) sc q.1
    Fires s .qntb f
      { st := s,
        outs := [
          (f.out, { a with kind := kHdr, colour := col, tag := tag, last := false, aux := 0, lanes := [hdrLane sc xs.length a.last 0 0] }),
          (f.out, { a with
            colour := col, tag := tag,
            lanes := packLanes (tyBits ty) (maskMix m ((elemsOf 3 a.lanes).map fun x => x % 2 ^ elemBits ty) block) })] } := by
  refine fires_of h rfl ?_
  simp only [ceQntb, ha, elemOf_eq h, good, recoloured_some hc, sourceVal_f32]
  rfl

end
end

/-- Settles O32: each operation is its form. -/
theorem convertMoveResults : Obligations.ConvertMoveResults := by
  intro s f e a col tag h ha w en v0 v good toward lanes
  refine ⟨fun hc => ⟨?fixed, ?floatEntry, ?integerEntry, ?deq, ?qnt, ?qntb⟩, fun hg => ⟨?mov, ?movk, ?bcast, ?lshift, ?lrev, ?lsel⟩⟩
  case fixed => exact emits_cvt_fixed h ha hc
  case floatEntry => exact emits_cvt_floatEntry h ha hc
  case integerEntry => exact emits_cvt_integerEntry h ha hc
  case deq => exact emits_deq h ha hc
  case qnt => exact emits_qnt h ha hc
  case qntb => exact fires_qntb h ha hc
  case mov => exact emits_of_ceLanes h ha rfl hg fun _ => rfl
  case movk => exact emits_of_ceLanes h ha rfl hg fun _ => rfl
  case bcast => exact emits_of_ceLanes h ha rfl hg fun _ => rfl
  case lshift => exact emits_of_ceLanes h ha rfl hg fun _ => rfl
  case lrev => exact emits_of_ceLanes h ha rfl hg fun _ => rfl
  case lsel => exact emits_lsel h ha hg

end Sys2Proof.Machine
end

section
/-! O33: the routing and control operations are branches on A, or on A and B; what a sink keeps and what a counter sends are named once. -/
namespace Sys2Proof.Machine

/-- The colours that a sink has taken, with that of a token more (R326). -/
def SlotSt.seen (x : SlotSt) (t : Token) : List Nat := if t.colour.toNat ∈ x.taken then x.taken else x.taken ++ [t.colour.toNat]

section
variable {s : State} {f : Firing} {e : Elem} {i : Instr} {a b : Token}

/-! ### Firings on A and B -/

/-- An operation on A and B that has a result fires with it. -/
theorem fires_of_withAB {g : State → Firing → Token → Token → Res} {r : FireOk} (h : s.CanFire f e) (ha : f.a = some a) (hb : f.b = some b)
    (hi : exec i s = fire s fun s f => withAB f (g s f)) (hg : g s f a b = .ok r) : Fires s i f r := by
  refine fires_of h hi ?_
  simp only [withAB, ha, hb, hg]

/-- The constant that a firing's slot names, and those after it. -/
theorem kconst_eq (h : s.CanFire f e) (n : Nat) : kconst s f n = e.const (f.info.w.k.toNat + n) := by
  rw [kconst, elemOf_eq h]

/-! ### Routing (R258 to R261) -/

section
variable (h : s.CanFire f e)
include h

/-- merge gives the head that it takes, A where both are there (R259). -/
theorem emits_of_mergeOut (head : f.a = some a ∨ f.a = none ∧ f.b = some a) (hi : exec i s = fire s mergeOut) : Emits s i f a := by
  refine fires_of h hi ?_
  obtain ha | ⟨ha, hb⟩ := head
  · simp only [mergeOut, ha, one]
  · simp only [mergeOut, ha, hb, one]

variable (ha : f.a = some a)
include ha

theorem steers_steerBit {x : Token} (hx : f.x = some x) : Steers s .steerBit f a (decide (x.lane 0 ≠ 0)) := by
  refine fires_of_withA h ha rfl ?_
  simp only [hx, steer]

/-- A sink counts an ERR token and keeps the first, and counts any other token as data (R261). -/
theorem fires_sink {y : SlotSt}
    (hy : (if a.kind = kErr then
        { e.slot f.slot with
          taken := (e.slot f.slot).seen a, errs := (e.slot f.slot).errs + 1,
          firstErr := if (e.slot f.slot).errs = 0 then a.aux else (e.slot f.slot).firstErr }
      else { e.slot f.slot with taken := (e.slot f.slot).seen a, data := (e.slot f.slot).data + 1 }) = y) :
    Fires s .sink f { st := s.putSlot f y } := by
  subst hy
  refine fires_of_withA h ha rfl ?_
  simp only [slotOf_eq h, List.contains_iff_mem]
  rfl

/-! ### Counted tokens, matrix commands and control bits (R279 to R281) -/

/-- cntr in an A that is wider than the lane counted, or of just that width where the pricking fixes it (R279). -/
theorem fires_cntr
    (wide : ((e.const (f.info.w.k.toNat + 1)).extractLsb' 16 5).toNat + 1 < a.width ∨
      ((e.const (f.info.w.k.toNat + 1)).extractLsb' 16 5).toNat + 1 = a.width ∧ f.slot ∈ e.fixedA) :
    let step := e.const f.info.w.k.toNat
    let q := e.const (f.info.w.k.toNat + 1)
    let c := q.toNat % 2 ^ 16
    let j := (q.extractLsb' 16 5).toNat
    let r := s.rangeOf f.c f.k a.colour.toNat
    Fires s .cntr f
      { st := s,
        outs := (List.range c).map fun i => (f.out, { a with
          lanes := a.lanes.set j (BitVec.ofInt 32 ((a.lane j).toInt + i * step.toInt)),
          tag := BitVec.ofNat 12 (r.base + (s.relTag f.c f.k a * c + i) % r.n), last := decide (i + 1 = c) }) } := by
  refine fires_of_withA h ha rfl ?_
  have enough : ¬a.width ≤ ((e.const (f.info.w.k.toNat + 1)).extractLsb' 16 5).toNat + (if e.fixedA.contains f.slot then 0 else 1) := by
    obtain wider | ⟨just, fixed⟩ := wide
    · split <;> omega
    · rw [if_pos (List.contains_iff_mem.mpr fixed)]; omega
  simp only [kconst_eq h, elemOf_eq h, enough, if_false, Nat.add_zero]

/-- mxc sends its constants with A's lanes, for an A that is not poisoned (R280). -/
theorem emits_mxc (clean : a.poison = false) :
    Emits s .mxc f { a with
      kind := kCmd, aux := 0,
      lanes := [e.const f.info.w.k.toNat ||| a.lane 0, e.const (f.info.w.k.toNat + 1) ||| (if a.width < 2 then 0 else a.lane 1)] } := by
  refine fires_of_withA h ha rfl ?_
  simp only [kconst_eq h, clean, Bool.false_eq_true, if_false, one, Nat.add_zero]

end
end

/-- Settles O33: each operation is the branch of its meaning that its premises select. -/
theorem routingAndControlResults : Obligations.RoutingAndControlResults := by
  refine ⟨?routing, ?control⟩
  case routing =>
    intro s f e a h
    refine ⟨fun ha => ⟨?steerBit, ?steerPar, ?copy, ?gate, ?drop, ?data, ?err⟩, fun head => ⟨?mergeAny, ?mergeTag⟩⟩
    case steerBit => exact fun x hx => steers_steerBit h ha hx
    case steerPar => exact fires_of_withA h ha rfl rfl
    case copy => exact fires_of_withA h ha rfl rfl
    case gate => exact fires_of_withA h ha rfl rfl
    case drop => exact fires_of_withA h ha rfl rfl
    case data => exact fun isData => fires_sink h ha (if_neg isData)
    case err => exact fun isErr => fires_sink h ha (if_pos isErr)
    case mergeAny => exact emits_of_mergeOut h head rfl
    case mergeTag => exact emits_of_mergeOut h head rfl
  case control =>
    intro s f e a
    refine ⟨rfl, fun h ha => ⟨?cntr, ?mxc, ?sig, fun b hb => ⟨?wait, ?and2⟩⟩⟩
    case cntr => exact fires_cntr h ha
    case mxc => exact emits_mxc h ha
    case sig => exact fires_of_withA h ha rfl rfl
    case wait => exact fires_of_withAB h ha hb rfl rfl
    case and2 => exact fires_of_withAB h ha hb rfl rfl

end Sys2Proof.Machine
end

section
/-! O35: a reduction combines A with what its slot holds and closes its group with A's last; a scan gives the running values; a shared accumulator is
empty or holds lanes that A is combined with. Each is read once, and each operation is its form. -/
namespace Sys2Proof.Machine

/-- Of all types only i64 has elements of 64 bits (Table 4.1). -/
theorem tyBits_eq_64_iff (ty : Nat) : tyBits ty = 64 ↔ ty = 2 := by
  constructor
  · intro h
    unfold tyBits at h
    split at h <;> simp_all
  · rintro rfl; rfl

/-- The values of a slot after a reduction of A: those of the lanes that A has combined, the others as held (R266). -/
def CeEnv.reduced (v : CeEnv) (fn : Nat) (held : List Int) (a : Token) : List Int :=
  let xs := elemsOf v.ty a.lanes
  ((List.range xs.length).map fun i => v.combine fn i (held.getD i (v.identity fn)) (xs.getD i 0)) ++ held.drop xs.length

/-- The group of the slot or A is poisoned (log 48). -/
def SlotSt.groupPoison (x : SlotSt) (a : Token) : Bool := (x.group.any fun t => t.poison) || a.poison

/-- Element i of a shared accumulator that holds `o` there, after `y` was combined into it (R269). -/
def CeEnv.accumulated (v : CeEnv) (max : Bool) (i o y : Nat) : Nat :=
  if (tyFmt v.ty).isSome then (v.combine (if max then 2 else 0) i (o : Int) y).toNat
  else if max then v.int (if v.t.read o ≤ v.t.read y then v.t.read y else v.t.read o)
  else v.int (v.t.read o + v.t.read y)

theorem accumulated_float {v : CeEnv} (float : (tyFmt v.ty).isSome = true) (max : Bool) (i o y : Nat) :
    v.accumulated max i o y = (v.combine (if max then 2 else 0) i (o : Int) y).toNat :=
  if_pos float

theorem accumulated_add {v : CeEnv} (int : tyFmt v.ty = none) (i o y : Nat) : v.accumulated false i o y = v.int (v.t.read o + v.t.read y) := by
  simp [CeEnv.accumulated, int]

theorem accumulated_max {v : CeEnv} (int : tyFmt v.ty = none) (i o y : Nat) : v.accumulated true i o y = v.int (max (v.t.read o) (v.t.read y)) := by
  simp [CeEnv.accumulated, int, max_def]

section
variable {s : State} {f : Firing} {e : Elem} {i : Instr} {a b : Token}
variable (h : s.CanFire f e) (ha : f.a = some a)
include h ha

/-! ### Reductions and scans (R265 to R267) -/

section
variable (fits : (e.slot f.slot).size < 65536) (good : badWidths (CeEnv.ofFiring e f.info.w a).ty [a] = false)
include fits good

/-- A reduction whose A has last gives the values and empties its slot. -/
theorem fires_of_ceRed_last {fn : Nat} (hi : exec i s = fire s (ceRed fn)) (last : a.last = true) :
    let v := CeEnv.ofFiring e f.info.w a
    let x := e.slot f.slot
    Fires s i f
      { st := s.putSlot f { x with vals := [], size := 0, group := [] },
        outs := [(f.out, { a with
          last := true, lanes := packLanes (tyBits v.ty) ((v.reduced fn x.vals a).map v.emitVal), poison := x.groupPoison a })] } := by
  refine fires_of_withA h ha hi ?_
  simp only [slotOf_eq h, elemOf_eq h, groupMax, ge_iff_le, Nat.not_le.mpr fits, good, last, if_true, if_false, Bool.false_eq_true]
  rfl

/-- A reduction whose A does not have last keeps the values. -/
theorem fires_of_ceRed_open {fn : Nat} (hi : exec i s = fire s (ceRed fn)) (more : a.last = false) :
    let v := CeEnv.ofFiring e f.info.w a
    let x := e.slot f.slot
    Fires s i f
      { st := s.putSlot f { x with vals := v.reduced fn x.vals a, size := x.size + 1, group := [{ a with poison := x.groupPoison a }] } } := by
  refine fires_of_withA h ha hi ?_
  simp only [slotOf_eq h, elemOf_eq h, groupMax, ge_iff_le, Nat.not_le.mpr fits, good, more, if_false, Bool.false_eq_true]
  rfl

/-- A scan gives the running values of A's elements, from the identity where its slot holds none (R267). -/
theorem fires_of_ceScan {fn : Nat} (hi : exec i s = fire s (ceScan fn)) :
    let v := CeEnv.ofFiring e f.info.w a
    let x := e.slot f.slot
    let per := if v.ty = 2 then 1 else 32 / tyBits v.ty
    let g := scanGo v fn per (elemsOf v.ty a.lanes) 0 (if x.vals = [] then List.replicate per (v.identity fn) else x.vals) []
    Fires s i f
      { st := s.putSlot f (if a.last then { x with vals := [], size := 0 } else { x with vals := g.1, size := x.size + 1 }),
        outs := [(f.out, { a with lanes := packLanes (tyBits v.ty) g.2 })] } := by
  refine fires_of_withA h ha hi ?_
  simp only [slotOf_eq h, elemOf_eq h, groupMax, ge_iff_le, Nat.not_le.mpr fits, good, tyBits_eq_64_iff, List.isEmpty_iff, if_false,
    Bool.false_eq_true]
  rfl

end

/-! ### The linear recurrence (R268) -/

/-- lrs gives round(a·h + b) for each element of A and carries it on in its slot. -/
theorem fires_lrs (hb : f.b = some b) (good : badWidths (CeEnv.ofFiring e f.info.w a).ty [a, b] = false) :
    let v := CeEnv.ofFiring e f.info.w a
    let x := e.slot f.slot
    let xs := elemsOf v.ty a.lanes
    let z : El := ⟨0, .ofInt 0⟩
    let hs := (List.range xs.length).map fun i => v.flt i
      ((((v.operand e false xs.length a.width a).getD i z).val.mul
        (tyDecode v.ty (v.ftz && flushable v.ty) (x.vals.getD i 0).toNat)).1.add v.mode
        ((v.operand e false xs.length a.width b).getD i z).val).1
    Fires s .lrs f
      { st := s.putSlot f { x with vals := hs.map Int.ofNat ++ x.vals.drop xs.length },
        outs := [(f.out, { a with lanes := packLanes (tyBits v.ty) hs })] } := by
  refine fires_of_withAB h ha hb rfl ?_
  simp only [slotOf_eq h, elemOf_eq h, good, if_false, Bool.false_eq_true, one]

/-! ### Shared accumulators (R269) -/

section
variable (good : badWidths (CeEnv.ofFiring e f.info.w a).ty [a] = false)
include good

/-- An empty accumulator takes A. -/
theorem fires_of_ceAcc_empty {max : Bool} (hi : exec i s = fire s (ceAcc max)) (empty : e.accs.find? f.info.w.k.toNat = none) :
    Fires s i f { st := s.modElem f.c f.site f.k fun e => { e with accs := e.accs.set f.info.w.k.toNat a.lanes } } := by
  refine fires_of_withA h ha hi ?_
  simp only [elemOf_eq h, good, empty, if_false, Bool.false_eq_true]

/-- An accumulator that holds lanes takes them combined with A, element by element. -/
theorem fires_of_ceAcc_held {max : Bool} {ls : List Word} {g : Nat → Nat} (hi : exec i s = fire s (ceAcc max))
    (held : e.accs.find? f.info.w.k.toNat = some ls)
    (hg : let v := CeEnv.ofFiring e f.info.w a
      ∀ i, v.accumulated max i ((elemsOf v.ty ls).getD i 0) ((elemsOf v.ty a.lanes).getD i 0) = g i) :
    let v := CeEnv.ofFiring e f.info.w a
    Fires s i f { st := s.modElem f.c f.site f.k fun e => { e with
      accs := e.accs.set f.info.w.k.toNat
        (packLanes (tyBits v.ty) ((List.range (Nat.max (elemsOf v.ty ls).length (elemsOf v.ty a.lanes).length)).map g)) } } := by
  obtain rfl := funext hg
  refine fires_of_withA h ha hi ?_
  simp only [elemOf_eq h, good, held, if_false, Bool.false_eq_true]
  rfl

/-- acc.reset gives what the accumulator holds, or zeros, and empties it. -/
theorem fires_accReset {ls : List Word} (hl : (e.accs.find? f.info.w.k.toNat).getD (List.replicate a.width 0) = ls) :
    Fires s .accReset f
      { st := s.modElem f.c f.site f.k fun e => { e with accs := e.accs.del f.info.w.k.toNat }, outs := [(f.out, { a with lanes := ls })] } := by
  subst hl
  refine fires_of_withA h ha rfl ?_
  simp only [elemOf_eq h, good, if_false, Bool.false_eq_true, one]

end
end

/-- Settles O35: each operation is its form; an accumulator's element is that of its class of type. -/
theorem groupAndAccumulatorResults : Obligations.GroupAndAccumulatorResults := by
  refine ⟨?groups, ?accumulators⟩
  case groups =>
    intro s f e a h ha x v xs p fits good
    refine ⟨fun q hq => ?reductions, fun q hq => ?scans⟩
    case reductions =>
      have hi : exec q.1 s = fire s (ceRed q.2) := by
        fin_cases hq <;> rfl
      exact ⟨fires_of_ceRed_last h ha fits good hi, fires_of_ceRed_open h ha fits good hi⟩
    case scans =>
      have hi : exec q.1 s = fire s (ceScan q.2) := by
        fin_cases hq <;> rfl
      exact fires_of_ceScan h ha fits good hi
  case accumulators =>
    intro s f e a h ha v x k xs z put
    refine ⟨fun b hb good => fires_lrs h ha hb good, fun good => ⟨fun empty => ⟨?addEmpty, ?maxEmpty, ?resetEmpty⟩, fun ls held => ?held⟩⟩
    case addEmpty => exact fires_of_ceAcc_empty h ha good rfl empty
    case maxEmpty => exact fires_of_ceAcc_empty h ha good rfl empty
    case resetEmpty => exact fires_accReset h ha good (by rw [empty]; rfl)
    case held =>
      refine ⟨fun int => ⟨?addInt, ?maxInt⟩, fun float => ⟨?addFloat, ?maxFloat⟩, ?resetHeld⟩
      case addInt => exact fires_of_ceAcc_held h ha good rfl held fun _ => accumulated_add int ..
      case maxInt => exact fires_of_ceAcc_held h ha good rfl held fun _ => accumulated_max int ..
      case addFloat => exact fires_of_ceAcc_held h ha good rfl held fun _ => accumulated_float float ..
      case maxFloat => exact fires_of_ceAcc_held h ha good rfl held fun _ => accumulated_float float ..
      case resetHeld => exact fires_accReset h ha good (by rw [held]; rfl)

end Sys2Proof.Machine
end

section
/-! O11: the ERR token of a firing and what its slot loses with it, then each condition of Table 18.7 as the branch of its operation's meaning that fails. -/
namespace Sys2Proof.Machine

/-! ### A hold and the granted widths (R242, R278) -/

theorem modCtx_ctx? (s : State) (cid j : Nat) (g : Ctx → Ctx) : (s.modCtx cid g).ctx? j = if j = cid then (s.ctx? j).map g else s.ctx? j := by
  cases hx : s.ctxs.find? cid with
  | none =>
    simp only [State.modCtx, State.ctx?, hx]
    split
    · next same => rw [same, hx]; rfl
    · rfl
  | some x =>
    simp only [State.modCtx, State.ctx?, hx, Map.find?_set]
    split
    · next same => rw [same, hx]; rfl
    · rfl

/-- A change of contexts that keeps what they are allocated changes no allocation. -/
theorem modCtx_alloc? (s : State) (cid c k col : Nat) {g : Ctx → Ctx} (keeps : ∀ x, (g x).allocs = x.allocs) :
    (s.modCtx cid g).alloc? c k col = s.alloc? c k col := by
  have regions : (s.modCtx cid g).region? c k = s.region? c k := by
    simp only [State.region?, State.cluster, State.modCtx_clusters]
  have allocs (j : Nat) : (((s.modCtx cid g).ctx? j).bind fun x => x.allocs.find? col) = (s.ctx? j).bind fun x => x.allocs.find? col := by
    rw [modCtx_ctx?]
    split
    · simp only [Option.bind_map, Function.comp_def, keeps]
    · rfl
  simp only [State.alloc?, State.ctxAt, regions, Option.bind_assoc, allocs]

/-- A hold changes no granted width. -/
theorem hold_widthBad (s : State) (cid loc : Nat) (t : Time) (n : Int) (c k : Nat) (u : Token) :
    (s.hold cid loc t n).widthBad c k u = s.widthBad c k u := by
  have same : (s.hold cid loc t n).alloc? c k u.colour.toNat = s.alloc? c k u.colour.toNat := modCtx_alloc? _ _ _ _ _ fun _ => rfl
  simp only [State.widthBad, same]

section
variable {s : State} {f : Firing} {e : Elem} {i : Instr} {a b : Token}

/-! ### The ERR token and what goes with it (R265, R359) -/

/-- The ERR token of one failed firing has A's header (R359, Table 2.4). -/
theorem error_eq (ha : f.a = some a) (code : Nat) :
    f.error code 1 =
      { kind := kErr, colour := a.colour, tag := a.tag, poison := true, last := a.last, aux := BitVec.ofNat 16 code,
        lanes := [BitVec.ofNat 32 (2 ^ 16 + f.site % 64 * 2 ^ 10 + ((descOf f.info.i).getD f.slot) % 16 * 2 ^ 6)] } := by
  simp only [Firing.error, ha]; rfl

theorem failed_outs (s : State) (f : Firing) (code n : Nat) : (s.failed f code n).outs = [(0, f.error code n)] := by
  simp only [State.failed]
  repeat' split
  all_goals rfl

/-- The slot of a firing that may fire. -/
theorem slotState_eq (h : s.CanFire f e) : s.slotState f = e.slot f.slot := by
  obtain ⟨hc, hk, hs, _⟩ := readyAt_at h.ready
  unfold State.slotState; rw [hc, hs, hk, h.elem]

/-- A token with last ends the group of a reduction, a scan or ccons although its own firing failed. -/
theorem failed_group (h : s.CanFire f e) (ha : f.a = some a) (ce : isCeSite f.site = true) (single : f.info.isCred = false)
    (grouped : f.info.op ∈ [0x18, 0x19, 0x27]) (last : a.last = true) (code n : Nat) :
    (s.failed f code n).st = s.setSlot f.c f.site f.k f.slot { e.slot f.slot with vals := [], size := 0, group := [] } := by
  simp only [State.failed, ce, single, List.contains_iff_mem.mpr grouped, ha, last, slotState_eq h, Bool.not_true, Bool.false_eq_true, Bool.and_self,
    if_true, if_false]

/-- Any other token fails alone. -/
theorem failed_alone (ha : f.a = some a) (single : f.info.isCred = false) (more : a.last = false) (code n : Nat) : (s.failed f code n).st = s := by
  simp only [State.failed, single, ha, more, Bool.and_false, Bool.false_eq_true, if_false, ite_self]

/-! ### The operations that fail (Table 18.7) -/

section
variable (h : s.CanFire f e)
include h

/-- An operation whose result has not the width granted to its colour (R242). -/
theorem fails_of_width {g : State → Firing → Res} {r : FireOk} (hi : exec i s = fire s g) (hg : g s f = .ok r)
    (bad : (r.outs.any fun o => r.st.widthBad s.cur.cluster s.cur.ctx o.2) = true) : Fails s i f e 2 1 := by
  intro room mu
  rw [hi, fire, fireSlot_eq h, hg]
  simp only [bad, room, if_true, State.finish, mu, Bool.not_true, Bool.false_eq_true, if_false]

variable (ha : f.a = some a)
include ha

/-- An operation on A that meets a condition of Table 18.7 (R359). -/
theorem fails_of_withA {g : State → Firing → Token → Res} {code n : Nat} (hi : exec i s = fire s fun s f => withA f (g s f))
    (hg : g s f a = .err code n) : Fails s i f e code n :=
  fails_of h hi ((withA_some ha _).trans hg)

theorem fails_of_withAB {g : State → Firing → Token → Token → Res} {code n : Nat} (hb : f.b = some b)
    (hi : exec i s = fire s fun s f => withAB f (g s f)) (hg : g s f a b = .err code n) : Fails s i f e code n := by
  refine fails_of h hi ?_
  simp only [withAB, ha, hb, hg]

/-! WIDTH (R237, R242, R270). -/

theorem fails_of_ceMap {g : CeEnv → Nat → El → El → El → Nat} (bad : badWidths (CeEnv.ofFiring e f.info.w a).ty f.toks = true)
    (hi : exec i s = fire s (ceMap g)) : Fails s i f e 2 1 := by
  refine fails_of h hi ?_
  simp only [ceMap, ha, elemOf_eq h, bad, if_true]

theorem fails_qnt (bad : badWidths 3 f.toks = true) : Fails s .qnt f e 2 1 := by
  refine fails_of h rfl ?_
  simp only [ceConvert, ha, bad, if_true]

theorem fails_qntb (bad : badWidths 3 f.toks = true) : Fails s .qntb f e 2 1 := by
  refine fails_of h rfl ?_
  simp only [ceQntb, ha, bad, if_true]

theorem fails_of_ceAcc {max : Bool} (bad : badWidths (CeEnv.ofFiring e f.info.w a).ty [a] = true) (hi : exec i s = fire s (ceAcc max)) :
    Fails s i f e 2 1 := by
  refine fails_of_withA h ha hi ?_
  simp only [elemOf_eq h, bad, if_true]

theorem fails_accReset (bad : badWidths (CeEnv.ofFiring e f.info.w a).ty [a] = true) : Fails s .accReset f e 2 1 := by
  refine fails_of_withA h ha rfl ?_
  simp only [elemOf_eq h, bad, if_true]

/-- The width of A's value lanes, or of B. -/
theorem fails_cscale (bad : oddWidth (CeEnv.ofFiring e f.info.w a).ty (valLanes (s.declOf f.c f.k a.colour.toNat) a).length = true ∨
    ∃ b, f.b = some b ∧ oddWidth (CeEnv.ofFiring e f.info.w a).ty b.width = true) : Fails s .cscale f e 2 1 := by
  refine fails_of_withA h ha rfl ?_
  obtain value | ⟨b, hb, scale⟩ := bad
  · simp only [elemOf_eq h, value, Bool.true_or, if_true]
  · simp only [elemOf_eq h, hb, scale, Option.toList_some, List.any_cons, Bool.true_or, Bool.or_true, if_true]

theorem fails_dense (bad : oddWidth (CeEnv.ofFiring e f.info.w a).ty (valLanes (s.declOf f.c f.k a.colour.toNat) a).length = true) :
    Fails s .dense f e 2 1 := by
  refine fails_of_withA h ha rfl ?_
  simp only [elemOf_eq h, bad, if_true]

theorem fails_dadd_wide (bad : badWidths (CeEnv.ofFiring e f.info.w a).ty [a] = true) : Fails s .dadd f e 2 1 := by
  refine fails_of_withA h ha rfl ?_
  simp only [elemOf_eq h, bad, Bool.true_or, if_true]

theorem fails_dadd_value (hb : f.b = some b)
    (bad : oddWidth (CeEnv.ofFiring e f.info.w a).ty (valLanes (s.declOf f.c f.k b.colour.toNat) b).length = true) : Fails s .dadd f e 2 1 := by
  refine fails_of_withA h ha rfl ?_
  simp only [elemOf_eq h, hb, bad, Bool.or_true, if_true]

theorem fails_mkchg (hb : f.b = some b) (wide : 32 < a.width + 4) : Fails s .mkchg f e 2 1 :=
  fails_of_withAB h ha hb rfl (if_pos wide)

theorem fails_gate (bad : s.widthBad s.cur.cluster s.cur.ctx a = true) : Fails s .gate f e 2 1 :=
  fails_of_width h rfl (withA_some ha _) (by simp only [List.any_cons, bad, Bool.true_or])

theorem fails_cnote (bad : s.widthBad s.cur.cluster s.cur.ctx a = true) : Fails s .cnote f e 2 1 :=
  fails_of_width h rfl (withA_some ha _) (by simp only [List.any_cons, hold_widthBad, bad, Bool.true_or])

theorem fails_pack {al : ColourAlloc} (hal : s.alloc? f.c f.k ((e.const f.info.w.k.toNat).toNat % 64) = some al) (uneven : al.width % a.width ≠ 0) :
    Fails s .pack f e 2 1 := by
  refine fails_of_withA h ha rfl ?_
  simp only [kconst_eq h, Nat.add_zero, hal, uneven, ne_eq, not_false_eq_true, true_or, or_true, if_true]

/-! TIME (R271). -/

theorem fails_ctEnter (deep : 3 ≤ (s.declOf f.c f.k a.colour.toNat).depth) : Fails s .ctEnter f e 4 1 :=
  fails_of_withA h ha rfl (if_pos deep)

theorem fails_ctLeave (flat : (s.declOf f.c f.k a.colour.toNat).depth = 0) : Fails s .ctLeave f e 4 1 :=
  fails_of_withA h ha rfl (if_pos flat)

theorem fails_ctStep (bad : (s.declOf f.c f.k a.colour.toNat).depth = 0 ∨ 0xFFFF < a.time.coord (s.declOf f.c f.k a.colour.toNat).depth + 1) :
    Fails s .ctStep f e 4 1 :=
  fails_of_withA h ha rfl (if_pos bad)

theorem fails_ctSet (hb : f.b = some b)
    (bad : (b.lane 0).toNat < a.time.coord (ctJ f) ∨ 2 ^ coordBits (ctJ f) ≤ (b.lane 0).toNat) : Fails s .ctSet f e 4 1 :=
  fails_of_withAB h ha hb rfl (if_pos bad)

/-! PAIR, GROUP, RELEASE and POISONCMD (R265, R276, R278, R280). -/

theorem fails_cdist (hb : f.b = some b)
    (apart : a.recordOf (s.declOf f.c f.k a.colour.toNat) ≠ b.recordOf (s.declOf f.c f.k b.colour.toNat) ∨ a.time ≠ b.time) :
    Fails s .cdist f e 6 1 :=
  fails_of_withAB h ha hb rfl (if_pos apart)

theorem fails_of_ceRed {fn : Nat} (full : 65536 ≤ (e.slot f.slot).size) (hi : exec i s = fire s (ceRed fn)) : Fails s i f e 7 1 := by
  refine fails_of_withA h ha hi ?_
  simp only [slotOf_eq h, groupMax, ge_iff_le, full, if_true]

theorem fails_of_ceScan {fn : Nat} (full : 65536 ≤ (e.slot f.slot).size) (hi : exec i s = fire s (ceScan fn)) : Fails s i f e 7 1 := by
  refine fails_of_withA h ha hi ?_
  simp only [slotOf_eq h, groupMax, ge_iff_le, full, if_true]

theorem fails_crel {x : Ctx} (hx : s.ctx? (s.cidAt f.c f.k) = some x) (unheld : x.heldAt (s.cidAt f.c f.k) (s.holdLoc f) a.time ≤ 0) :
    Fails s .crel f e 8 1 := by
  refine fails_of_withA h ha rfl ?_
  simp only [hx, unheld, if_true]

theorem fails_mxc (poisoned : a.poison = true) : Fails s .mxc f e 9 1 :=
  fails_of_withA h ha rfl (if_pos poisoned)

/-! ALLOC and TILE (R263, R294). -/

theorem fails_alcAlloc_undeclared {x : Ctx} (hx : s.ctxAt f.c f.k = some x) (hq : x.colours.find? ((e.const f.info.w.k.toNat).toNat % 64) = none) :
    Fails s .alcAlloc f e 0x0C 1 := by
  refine fails_of_withA h ha rfl ?_
  simp only [kconst_eq h, Nat.add_zero, hx, hq]

theorem fails_alcAlloc_tags {x : Ctx} {d : ColourDecl} (hx : s.ctxAt f.c f.k = some x)
    (hq : x.colours.find? ((e.const f.info.w.k.toNat).toNat % 64) = some d)
    (few : d.tags < ((e.const f.info.w.k.toNat).extractLsb' 16 8).toNat + 1) : Fails s .alcAlloc f e 0x0C 1 := by
  refine fails_of_withA h ha rfl ?_
  simp only [kconst_eq h, Nat.add_zero, hx, hq, gt_iff_lt, few, if_true]

theorem fails_tilSetf {w : MeW} (foreign : s.ownsTile f.c f.k ((a.lane 0).toNat % 256) = false) : Fails s (.tilSetf w) f e 0x0A 1 := by
  refine fails_of_withA h ha rfl ?_
  simp only [tilTile, foreign, Bool.not_false, Bool.true_or, if_true]

end
end

theorem oddWidth_eq_true {ty n : Nat} (odd : ty = 2 ∧ n % 2 = 1) : oddWidth ty n = true := by
  obtain ⟨rfl, hn⟩ := odd
  simp only [oddWidth, hn, decide_true, Bool.and_self]

/-- Settles O11: each condition selects the failing branch of its operation. -/
theorem firingErrors : Obligations.FiringErrors := by
  intro s f e a w h ha d t j v kn tl
  refine ⟨?token, fun code n => ⟨failed_outs s f code n, fun ce single grouped last => failed_group h ha ce single grouped last code n,
      fun more single => failed_alone ha single more code n⟩,
    fun bad => ⟨?add, ?fma, ?cmp, ?sel⟩, ⟨fun odd => ⟨?scaleValue, ?dense⟩, fun b hb => ⟨fun odd => ?scaleB, fun odd => ?daddValue⟩⟩,
    fun bad => ⟨fails_gate h ha bad, fails_cnote h ha bad⟩, fun bad => ⟨?accAdd, ?accMax, ?accReset, ?dadd⟩,
    fun bad => ⟨fails_qnt h ha bad, fails_qntb h ha bad⟩, fun deep => fails_ctEnter h ha deep,
    fun flat => ⟨fails_ctLeave h ha flat, fails_ctStep h ha (.inl flat)⟩, fun past => fails_ctStep h ha (.inr past),
    fun b hb => ⟨fails_ctSet h ha hb, fails_cdist h ha hb, fails_mkchg h ha hb⟩, fun full => ⟨?redSum, ?scanSum⟩,
    fun x hx => fails_crel h ha hx, fails_mxc h ha, fun x => fails_alcAlloc_undeclared h ha, fun x y => fails_alcAlloc_tags h ha,
    fun al => fails_pack h ha, fails_tilSetf h ha⟩
  case token => exact error_eq ha 4
  case add => exact fails_of_ceMap h ha bad rfl
  case fma => exact fails_of_ceMap h ha bad rfl
  case cmp => exact fails_of h rfl (by simp only [ceCompare, ceMap, ha, elemOf_eq h]; exact if_pos bad)
  case sel => exact fails_of_ceMap h ha bad rfl
  case scaleValue => exact fails_cscale h ha (.inl (oddWidth_eq_true odd))
  case dense => exact fails_dense h ha (oddWidth_eq_true odd)
  case scaleB => exact fails_cscale h ha (.inr ⟨b, hb, oddWidth_eq_true odd⟩)
  case daddValue => exact fails_dadd_value h ha hb (oddWidth_eq_true odd)
  case accAdd => exact fails_of_ceAcc h ha bad rfl
  case accMax => exact fails_of_ceAcc h ha bad rfl
  case accReset => exact fails_accReset h ha bad
  case dadd => exact fails_dadd_wide h ha bad
  case redSum => exact fails_of_ceRed h ha full rfl
  case scanSum => exact fails_of_ceScan h ha full rfl

end Sys2Proof.Machine
end

section
/-! O18: nothing that a context's end does to its streams, its commands and its collectives touches another context, so an end is one change of its own context, and a
fault end is that change for the context and for each of its fault domain. -/
namespace Sys2Proof

/-! ### A sorted table lists a key once -/

namespace Map
variable {α : Type}

theorem find?_eq_none_of_above {m : Map α} {k : Nat} (h : above k m) : m.find? k = none := by
  induction m with
  | nil => rfl
  | cons e r ih =>
    have later : e.1 ≠ k := (h e List.mem_cons_self).ne'
    simp only [find?, later, if_false]
    exact ih fun f hf => h f (List.mem_cons_of_mem _ hf)

/-- What a sorted table lists is what is found at its key. -/
theorem find?_of_mem {m : Map α} {k : Nat} {v : α} (h : sorted m = true) (hm : (k, v) ∈ m) : m.find? k = some v := by
  induction m with
  | nil => cases hm
  | cons e r ih =>
    obtain ⟨below, rest⟩ := sorted_cons.mp h
    rcases List.mem_cons.mp hm with rfl | hr
    · simp only [find?, if_true]
    · have earlier : e.1 ≠ k := (below _ hr).ne
      simp only [find?, earlier, if_false]
      exact ih rest hr

theorem mem_of_find? {m : Map α} {k : Nat} {v : α} (h : m.find? k = some v) : (k, v) ∈ m := by
  induction m with
  | nil => cases h
  | cons e r ih =>
    simp only [find?] at h
    split at h
    · next same =>
      rw [← same, ← Option.some.inj h]
      exact List.mem_cons_self
    · exact List.mem_cons_of_mem _ (ih h)

end Map

namespace Machine

/-! ### What leaves the contexts alone -/

/-- `t` has the contexts of `s`, and what `s` has sent to other modules. -/
structure State.SameCtxs (s t : State) : Prop where
  ctxs : t.ctxs = s.ctxs
  sent : t.sent = s.sent

namespace State.SameCtxs

theorem refl (s : State) : s.SameCtxs s := ⟨rfl, rfl⟩

theorem trans {s t u : State} (h : s.SameCtxs t) (g : t.SameCtxs u) : s.SameCtxs u := ⟨g.ctxs.trans h.ctxs, g.sent.trans h.sent⟩

theorem ite {s t u : State} {p : Prop} [Decidable p] (ht : s.SameCtxs t) (hu : s.SameCtxs u) : s.SameCtxs (if p then t else u) := by
  split <;> assumption

theorem foldl {α : Type} {f : State → α → State} (hf : ∀ (t : State) (a : α), t.SameCtxs (f t a)) (l : List α) (s : State) : s.SameCtxs (l.foldl f s) :=
  List.foldlRecOn _ _ (refl s) fun _ h _ _ => h.trans (hf _ _)

theorem ctx? {s t : State} (h : s.SameCtxs t) (cid : Nat) : t.ctx? cid = s.ctx? cid := by
  unfold State.ctx?; rw [h.ctxs]

theorem modCluster (s : State) (c : Nat) (f : Cluster → Cluster) : s.SameCtxs (s.modCluster c f) := ⟨rfl, rfl⟩

theorem countHbm (s : State) (k : Nat) (w : Bool) : s.SameCtxs (s.countHbm k w) := ite ⟨rfl, rfl⟩ (refl s)

theorem setProt (s : State) (k n f : Nat) : s.SameCtxs (s.setProt k n f) := ite (refl s) ⟨rfl, rfl⟩

theorem touchLine (s : State) (k : Nat) : s.SameCtxs (s.touchLine k).1 := by
  unfold State.touchLine
  split
  · exact refl s
  · exact ite ⟨rfl, rfl⟩ (refl s)
  · exact ite ⟨rfl, rfl⟩ (refl s)
  · exact ⟨rfl, rfl⟩
  · exact refl s

theorem walkFrom (s : State) (va : DWord) (n lvl table : Nat) : s.SameCtxs (walkFrom s va n lvl table).1 := by
  induction n generalizing s lvl table with
  | zero => exact refl s
  | succ n ih =>
    have touched := touchLine s (hbm (entryAt table lvl va))
    have read := touched.trans (countHbm _ (hbm (entryAt table lvl va)) false)
    rw [walkFrom_succ]
    split
    · exact touched
    · cases entrySays (s.rd64 (hbm (entryAt table lvl va))) (hbm (entryAt table lvl va)) lvl with
      | inl r => exact read
      | inr next => exact read.trans (ih ..)

theorem walk (s : State) (c : Nat) (ag : Bool) (root va : DWord) (acc : Access) : s.SameCtxs (s.walk c ag root va acc).1 := by
  have counted : s.SameCtxs ((s.count c (if ag then 0x32 else 0x33) s.cur.ctx).modDie (dieOf c) fun x =>
      (x.count 0x100 1).count 0x101 (Config.waited s.tick)) := ⟨rfl, rfl⟩
  have walked := counted.trans (walkFrom _ va 5 1 root.toNat)
  unfold State.walk
  dsimp only
  split
  · next h => rwa [h] at walked
  · next s1 l h =>
    rw [h] at walked
    split
    · exact walked
    · have updated (leaf : DWord) : s1.SameCtxs ((s1.wr64 l.at_ leaf).countHbm l.at_ true) :=
        trans (t := s1.wr64 l.at_ leaf) ⟨rfl, rfl⟩ (countHbm ..)
      exact (walked.trans (ite (refl s1) (updated _))).trans (modCluster ..)

theorem lookup (s : State) (c : Nat) (ag : Bool) (root va : DWord) (acc : Access) : s.SameCtxs (s.lookup c ag root va acc).1 := by
  by_cases walks : s.Walks c ag root va acc
  · rw [lookup_walks walks]
    exact walk ..
  · rw [lookup_of_not_walks walks]
    exact refl s

theorem translate (s : State) (c : Nat) (ag : Bool) (root va : DWord) (acc : Access) : s.SameCtxs (s.translate c ag root va acc).1 := by
  rw [translate_fst]
  exact ite (lookup ..) (refl s)

theorem signal (s : State) (root va : DWord) (key inc status : Nat) : s.SameCtxs (s.signal root va key inc status) := by
  have near : s.SameCtxs (((s.signalled key inc status).setProt key 8 (s.protAt root va)).countHbm key true) :=
    (trans (s := s) (t := s.signalled key inc status) ⟨rfl, rfl⟩ (setProt ..)).trans (countHbm ..)
  exact ite (refl s) (ite ⟨rfl, rfl⟩ near)

theorem signalVa (s : State) (c k : Nat) (obj : DWord) (inc status : Nat) : s.SameCtxs (s.signalVa c k obj inc status) := by
  refine ite (refl s) ?_
  have translated := translate s c true (s.rootAt c k) obj .store
  unfold State.signalUnder
  split
  · next h =>
    rw [h] at translated
    exact translated.trans (signal ..)
  · next h =>
    rw [h] at translated
    exact ite (translated.trans ⟨rfl, rfl⟩) translated

theorem signalCmd (s : State) (c k : Nat) (cmd : Cmd) (inc status : Nat) : s.SameCtxs (s.signalCmd c k cmd inc status) :=
  ite (refl s) ((signalVa ..).trans (modCluster ..))

theorem stopStream (s : State) (p : Nat × Nat) : s.SameCtxs (s.stopStream p) := by
  have counted : s.SameCtxs (if (s.stream p.1 p.2).phase = .inBlock ∨ (s.stream p.1 p.2).phase = .committing then s.count p.1 3 p.2 else s) :=
    ite ⟨rfl, rfl⟩ (refl s)
  exact (counted.trans (foldl (fun t y => ite (signalCmd ..) (signalCmd ..)) _ _)).trans ⟨rfl, rfl⟩

end State.SameCtxs

/-! ### The end of one context (R364, R366) -/

/-- A context as its end leaves it, with the completion-file entries that it holds. -/
def Ctx.ended (x : Ctx) (code detail : Nat) (blk addr : DWord) (idx : Nat) (killed : Bool) (objs : List (Nat × Nat)) : Ctx :=
  { x with ending := some (code, detail, blk, addr, idx, killed), running := false, ranges := [], colls := [], objs := objs }

section
variable {s : State} {cid : Nat} (code detail : Nat) (blk addr : DWord) (idx : Nat) (killed : Bool)

/-- An end of a context that has not ended is one change of it, after its streams, commands and collectives have been stopped and its picots sent. -/
theorem stopCtx_live {x : Ctx} (hx : s.ctx? cid = some x) (live : x.ending = none) : ∃ t, s.SameCtxs t ∧
    s.stopCtx cid code detail blk addr idx killed =
      { t with sent := t.sent ++ s.abortPicots x cid }.modCtx cid fun x => x.ended code detail blk addr idx killed (s.heldObjs cid x) := by
  have stopped := State.SameCtxs.foldl (f := fun t p => if killed then (t.stopStream p).modStream p.1 p.2 Stream.killed else t.stopStream p)
    (fun t p => .ite ((State.SameCtxs.stopStream t p).trans ⟨rfl, rfl⟩) (.stopStream t p)) x.places s
  have signalled (op : CollOp) (t : State) (m : Nat) : t.SameCtxs (match op.places[m]? with
      | some p => t.signalVa p.1 p.2 op.done (op.bytes.get 0 m) stAborted
      | none => t) := by
    split
    · exact .signalVa ..
    · exact .refl t
  have aborted := stopped.trans (State.SameCtxs.foldl (fun t op => State.SameCtxs.foldl (signalled op) (List.range op.places.length) t) x.colls _)
  refine ⟨_, aborted, ?_⟩
  unfold State.stopCtx
  rw [hx]
  simp only [live, Option.isSome_none, Bool.false_eq_true, if_false]
  rfl

theorem stopCtx_none (h : s.ctx? cid = none) : s.stopCtx cid code detail blk addr idx killed = s := by
  unfold State.stopCtx; rw [h]

/-- An end comes once. -/
theorem stopCtx_ended {x : Ctx} (hx : s.ctx? cid = some x) (gone : x.ending.isSome = true) : s.stopCtx cid code detail blk addr idx killed = s := by
  unfold State.stopCtx; rw [hx]; exact if_pos gone

theorem stopCtx_ctx?_self {x : Ctx} (hx : s.ctx? cid = some x) (live : x.ending = none) :
    (s.stopCtx cid code detail blk addr idx killed).ctx? cid = some (x.ended code detail blk addr idx killed (s.heldObjs cid x)) := by
  obtain ⟨t, same, stopped⟩ := stopCtx_live code detail blk addr idx killed hx live
  have found : { t with sent := t.sent ++ s.abortPicots x cid }.ctx? cid = some x := (same.ctx? cid).trans hx
  rw [stopped, modCtx_ctx?, if_pos rfl, found]
  rfl

theorem stopCtx_sent_live {x : Ctx} (hx : s.ctx? cid = some x) (live : x.ending = none) :
    (s.stopCtx cid code detail blk addr idx killed).sent = s.sent ++ s.abortPicots x cid := by
  obtain ⟨t, same, stopped⟩ := stopCtx_live code detail blk addr idx killed hx live
  rw [stopped, State.modCtx_sent, ← same.sent]

/-- The end of a context is of no other one, and takes back nothing that was sent. -/
theorem stopCtx_frame (s : State) (cid : Nat) : (∀ j ≠ cid, (s.stopCtx cid code detail blk addr idx killed).ctx? j = s.ctx? j) ∧
    s.sent ⊆ (s.stopCtx cid code detail blk addr idx killed).sent := by
  cases hx : s.ctx? cid with
  | none =>
    rw [stopCtx_none _ _ _ _ _ _ hx]
    exact ⟨fun _ _ => rfl, List.Subset.refl _⟩
  | some x =>
    cases live : x.ending with
    | some e =>
      rw [stopCtx_ended _ _ _ _ _ _ hx (by rw [live]; rfl)]
      exact ⟨fun _ _ => rfl, List.Subset.refl _⟩
    | none =>
      refine ⟨fun j other => ?_, ?_⟩
      · obtain ⟨t, same, stopped⟩ := stopCtx_live code detail blk addr idx killed hx live
        rw [stopped, modCtx_ctx?, if_neg other]
        exact same.ctx? j
      · rw [stopCtx_sent_live _ _ _ _ _ _ hx live]
        exact List.subset_append_left ..

end

/-! ### The kill of a fault domain (R365) -/

/-- The kill of a context of the fault domain. -/
def State.kill (s : State) (k : Nat) : State := s.stopCtx k 0x11 0 0 0 0 true

/-- The contexts that fall with a context: those of its partition and fault domain that are no candidates again. -/
def State.kin (s : State) (cid : Nat) (x : Ctx) : List Nat :=
  (s.ctxs.filter fun e => decide (e.1 ≠ cid) && decide (e.2.part = x.part) && decide (e.2.fdom = x.fdom) &&
    !(e.2.evicting && e.2.regions.isEmpty)).map Prod.fst

theorem faultEnd_eq {s : State} {cid code : Nat} {x : Ctx} (hx : s.ctx? cid = some x) (hc : code ≠ 0x11) (detail : Nat) (blk addr : DWord) (idx : Nat) :
    s.faultEnd cid code detail blk addr idx = (s.kin cid x).foldl State.kill (s.stopCtx cid code detail blk addr idx false) := by
  unfold State.faultEnd; rw [hx]; exact if_neg hc

theorem mem_kin_iff {s : State} (h : Map.sorted s.ctxs = true) (cid : Nat) (x : Ctx) {k : Nat} {z : Ctx} (hz : s.ctx? k = some z) :
    k ∈ s.kin cid x ↔ k ≠ cid ∧ z.part = x.part ∧ z.fdom = x.fdom ∧ ¬(z.evicting = true ∧ z.regions = []) := by
  have listed (y : Ctx) : (k, y) ∈ s.ctxs ↔ y = z :=
    ⟨fun hm => Option.some.inj ((Map.find?_of_mem h hm).symm.trans hz), fun same => Map.mem_of_find? (same ▸ hz)⟩
  have resident (y : Ctx) : (!(y.evicting && y.regions.isEmpty)) = true ↔ ¬(y.evicting = true ∧ y.regions = []) := by
    simp only [Bool.not_eq_true', ← Bool.not_eq_true, Bool.and_eq_true, List.isEmpty_iff]
  simp only [State.kin, List.mem_map, List.mem_filter, Bool.and_eq_true, decide_eq_true_eq, resident, and_assoc]
  constructor
  · rintro ⟨⟨j, y⟩, hm, other, part, fdom, stays, rfl⟩
    obtain rfl := (listed y).mp hm
    exact ⟨other, part, fdom, stays⟩
  · rintro ⟨other, part, fdom, stays⟩
    exact ⟨(k, z), (listed z).mpr rfl, other, part, fdom, stays, rfl⟩

theorem foldl_kill_sent (l : List Nat) (s : State) : s.sent ⊆ (l.foldl State.kill s).sent :=
  List.foldlRecOn (motive := fun t : State => s.sent ⊆ t.sent) _ _ (List.Subset.refl _) fun _ h _ _ => List.Subset.trans h (stopCtx_frame ..).2

theorem foldl_kill_of_not_mem {l : List Nat} {k : Nat} (h : k ∉ l) (s : State) : (l.foldl State.kill s).ctx? k = s.ctx? k := by
  induction l generalizing s with
  | nil => rfl
  | cons j l ih =>
    obtain ⟨other, rest⟩ := List.ne_and_not_mem_of_not_mem_cons h
    exact (ih rest _).trans ((stopCtx_frame ..).1 k other)

theorem kill_of_ended {s : State} {k : Nat} {z : Ctx} (hz : s.ctx? k = some z) (gone : z.ending.isSome = true) (j : Nat) : (s.kill j).ctx? k = some z := by
  by_cases same : k = j
  · subst same
    rw [State.kill, stopCtx_ended _ _ _ _ _ _ hz gone, hz]
  · exact ((stopCtx_frame ..).1 k same).trans hz

theorem foldl_kill_of_ended {s : State} {k : Nat} {z : Ctx} (hz : s.ctx? k = some z) (gone : z.ending.isSome = true) (l : List Nat) :
    (l.foldl State.kill s).ctx? k = some z :=
  List.foldlRecOn (motive := fun t : State => t.ctx? k = some z) _ _ hz fun _ h j _ => kill_of_ended h gone j

theorem foldl_kill_of_mem {l : List Nat} {k : Nat} {z : Ctx} (h : k ∈ l) {s : State} (hz : s.ctx? k = some z) (live : z.ending = none) :
    ∃ objs, (l.foldl State.kill s).ctx? k = some (z.ended 0x11 0 0 0 0 true objs) := by
  induction l generalizing s with
  | nil => cases h
  | cons j l ih =>
    by_cases same : k = j
    · subst same
      exact ⟨_, foldl_kill_of_ended (stopCtx_ctx?_self _ _ _ _ _ _ hz live) rfl l⟩
    · exact ih ((List.mem_cons.mp h).resolve_left same) (((stopCtx_frame ..).1 k same).trans hz)

/-- Settles O18: the context's own end is told by its equation, and every other one is killed or not as it is of the fault domain. -/
theorem faultDomain : Obligations.FaultDomain := by
  intro s cid code detail idx blk addr x canonical hx live hc t
  obtain ⟨-, sorted, -⟩ := canonical
  have ht : t = (s.kin cid x).foldl State.kill (s.stopCtx cid code detail blk addr idx false) := faultEnd_eq hx hc ..
  have others (k : Nat) (h : k ≠ cid) : (s.stopCtx cid code detail blk addr idx false).ctx? k = s.ctx? k := (stopCtx_frame ..).1 k h
  refine ⟨⟨x.ended code detail blk addr idx false (s.heldObjs cid x), ?own, rfl, rfl, rfl, rfl⟩, ?killed, ?untouched, ?picots⟩
  case own =>
    rw [ht]
    exact foldl_kill_of_ended (stopCtx_ctx?_self _ _ _ _ _ _ hx live) rfl _
  case killed =>
    intro k z other hz part fdom zlive stays
    have falls : k ∈ s.kin cid x := (mem_kin_iff sorted cid x hz).mpr ⟨other, part, fdom, fun again => by
      rcases stays with h | h
      · rw [h] at again; exact absurd again.1 Bool.false_ne_true
      · exact h again.2⟩
    obtain ⟨objs, hk⟩ := foldl_kill_of_mem falls ((others k other).trans hz) zlive
    exact ⟨_, ht ▸ hk, rfl, rfl⟩
  case untouched =>
    intro k z other hz apart
    have stays : k ∉ s.kin cid x := fun falls => by
      obtain ⟨-, part, fdom, resident⟩ := (mem_kin_iff sorted cid x hz).mp falls
      rcases apart with h | h | h
      · exact h part
      · exact h fdom
      · exact resident h
    rw [ht, foldl_kill_of_not_mem stays, others k other, hz]
  case picots =>
    intro id m hid hm
    rw [ht]
    refine foldl_kill_sent _ _ ?_
    rw [stopCtx_sent_live _ _ _ _ _ _ hx live]
    refine List.mem_append_right _ (List.mem_flatMap.mpr ⟨id, ?_, List.mem_map.mpr ⟨m, hm, rfl⟩⟩)
    simp only [List.mem_append]
    exact .inl hid.symm

end Machine
end Sys2Proof
end

section
/-! O39: a stream slot begins its run in one of three ways — held by its operands, started by a token that it takes, or fed by the tokens that arrive — and each operation is one of
them with its own first run. -/
namespace Sys2Proof

namespace Map
variable {α : Type}

theorem del_place_self (m : Map α) (k : Nat) (v : α) (h : m.find? k = none) : (m.place k v).del k = m := by
  have absent (r : Map α) (h : r.find? k = none) : r.del k = r := by
    induction r with
    | nil => rfl
    | cons e r ih =>
      have other : e.1 ≠ k := fun same => by simp [find?, same] at h
      simp only [find?, other, if_false] at h
      simp only [del, other, if_false, ih h]
  induction m with
  | nil => simp [place, del]
  | cons e r ih =>
    have other : e.1 ≠ k := fun same => by simp [find?, same] at h
    by_cases later : k < e.1
    · simp only [place, later, if_true]
      simp only [del, if_true]
      exact absent _ h
    · simp only [find?, other, if_false] at h
      simp only [place, later, if_false, del, other, ih h]

/-- Of two values set at one key the later one stands. -/
theorem set_set (m : Map α) (k : Nat) (v w : α) : (m.set k v).set k w = m.set k w := by
  unfold set
  rw [del_place_self _ _ _ (find?_del_self m k)]

/-- Two changes at one key are one. -/
theorem mod_mod (d : α) (m : Map α) (k : Nat) (f g : α → α) : (m.mod d k f).mod d k g = m.mod d k (g ∘ f) := by
  unfold mod
  rw [get_set_self, set_set]
  rfl

end Map

namespace Machine

/-! ### Two changes of one part are one -/

theorem modCluster_modCluster (s : State) (c : Nat) (f g : Cluster → Cluster) : (s.modCluster c f).modCluster c g = s.modCluster c (g ∘ f) := by
  simp only [State.modCluster, Map.mod_mod]

theorem modSite_modSite (s : State) (c i : Nat) (f g : Site → Site) : (s.modSite c i f).modSite c i g = s.modSite c i (g ∘ f) := by
  simp only [State.modSite, modCluster_modCluster, Function.comp_def, Map.mod_mod]

/-- The site with its element of a context slot changed. -/
def Site.modElem (x : Site) (k : Nat) (f : Elem → Elem) : Site := match x.elems.find? k with
  | some e => { x with elems := x.elems.set k (f e) }
  | none => x

theorem modElem_eq_modSite (s : State) (c i k : Nat) (f : Elem → Elem) : s.modElem c i k f = s.modSite c i fun x => x.modElem k f := rfl

theorem Site.modElem_modElem (x : Site) (k : Nat) (f g : Elem → Elem) : (x.modElem k f).modElem k g = x.modElem k (g ∘ f) := by
  cases h : x.elems.find? k with
  | none => simp only [Site.modElem, h]
  | some e => simp only [Site.modElem, h, Map.find?_set_self, Map.set_set, Function.comp_apply]

theorem modElem_modElem (s : State) (c i k : Nat) (f g : Elem → Elem) : (s.modElem c i k f).modElem c i k g = s.modElem c i k (g ∘ f) := by
  simp only [modElem_eq_modSite, modSite_modSite, Function.comp_def, Site.modElem_modElem]

/-! ### How a run begins (R286, R288, R389) -/

section
variable {s : State} {f : Firing} {e : Elem} {i : Instr} {n : Nat} {mk : Elem → DescW → Run → Run}

/-- The run that a slot starts of descriptor n, before its operation has filled it. -/
def Firing.heldRun (f : Firing) (e : Elem) (n : Nat) : Run :=
  { desc := n, slot := f.slot, base := dBase (e.descAt n), a := f.a, b := f.b, x := f.x, ent := f.ent, holds := true }

variable (h : s.CanFire f e) (hd : descOf f.info.i = some n)
include h hd

/-- A run whose operands stay at their ports. -/
theorem meStart_eq (free : e.holdsFor f.slot = false) :
    meStart s f mk = .hold ((s.noteIssue f n).addRun f (mk e (e.descAt n) (f.heldRun e n))) := by
  simp only [meStart, elemOf_eq h, hd, Option.getD_some, free, Bool.false_eq_true, if_false]
  rfl

/-- A run of the tokens that arrive. -/
theorem meFeed_eq (idle : e.active n = none) :
    meFeed s f mk = .hold ((s.noteIssue f n).addRun f (mk e (e.descAt n) { desc := n, slot := f.slot, base := dBase (e.descAt n) })) := by
  simp only [meFeed, elemOf_eq h, hd, Option.getD_some, idle, Option.isSome_none, Bool.false_eq_true, if_false]

/-- A change starts a run that holds it. -/
theorem meTrigger_change {a : Token} (ha : f.a = some a) (change : a.kind = kChg) (free : e.holdsFor f.slot = false) :
    meTrigger s f mk = .hold ((s.noteIssue f n).addRun f (mk e (e.descAt n) (f.heldRun e n))) := by
  rw [meTrigger, withA_some ha, if_pos change, meStart_eq h hd free]

/-- A token that only starts a run is taken with it. -/
theorem meTrigger_token {a : Token} (ha : f.a = some a) (dense : a.kind ≠ kChg) :
    meTrigger s f mk = .ok { st := s.modElem f.c f.site f.k fun e' => { e' with
      ntok := e'.ntok.mod 0 n (· + 1), runs := e'.runs ++ [mk e (e.descAt n) { desc := n, slot := f.slot, base := dBase (e.descAt n), a := f.a }] } } := by
  rw [meTrigger, withA_some ha, if_neg dense]
  simp only [elemOf_eq h, hd, Option.getD_some, State.noteToken, State.addRun, modElem_modElem, Function.comp_def, ha]

end

/-! ### The operations of each beginning -/

section
variable {s : State} {f : Firing} {e : Elem} {w : MeW}

/-- agsWr and pst take their data from arriving tokens, unless tdst of their descriptor says that A only starts them (R288). -/
theorem write_eq (h : s.CanFire f e) (b : Bool) (own : dTdst (e.descAt w.desc.toNat) = b) (p q : Res) :
    (if dTdst ((s.elemOf f).descAt w.desc.toNat) then p else q) = if b then p else q := by
  rw [elemOf_eq h, own]

theorem mePlaced_idle (h : s.CanFire f e) (idle : e.active w.desc.toNat = none) : mePlaced s f w = meTrigger s f (placedRun w) := by
  simp only [mePlaced, elemOf_eq h, idle, Option.isSome_none, Bool.false_eq_true, if_false]

/-- The operations whose token only starts a run: what holds of each start of one holds of each of them. -/
theorem triggered_of {st : Instr → Run → Prop} {r : Run} (h : s.CanFire f e)
    (start : ∀ (i : Instr) (g : State → Firing → Res) (mk : Elem → DescW → Run → Run), exec i s = fire s g → descOf i = some w.desc.toNat →
      g s f = meTrigger s f mk → st i (mk e (e.descAt w.desc.toNat) r)) :
    st (.agsRd w) { r with z := tyBytes w.ty } ∧
    (dTdst (e.descAt w.desc.toNat) = true → st (.agsWr w) { r with z := tyBytes w.ty } ∧
      (e.active w.desc.toNat = none → st (.pst w) { r with demand := some (demandOf e w.k), waitsJoin := true })) ∧
    st (.agsRdcf w) r ∧ st (.agsFill w) { r with z := 4 } ∧ st (.agsScrub w) { r with z := 64 } ∧
    (e.active w.desc.toNat = none → st (.pld w) { r with demand := some (demandOf e w.k), waitsJoin := true }) := by
  refine ⟨?read, fun own => ⟨?write, fun idle => ?placedStore⟩, ?readCompressed, ?fill, ?scrub, fun idle => ?placedLoad⟩
  case read => exact start _ _ (fun _ _ r => { r with z := tyBytes w.ty }) rfl rfl rfl
  case write => exact start _ _ (fun _ _ r => { r with z := tyBytes w.ty }) rfl rfl (write_eq h true own ..)
  case placedStore => exact start _ _ (placedRun w) rfl rfl ((write_eq h true own ..).trans (mePlaced_idle h idle))
  case readCompressed => exact start _ _ (fun _ _ r => r) rfl rfl rfl
  case fill => exact start _ _ (fun _ _ r => { r with z := 4 }) rfl rfl rfl
  case scrub => exact start _ _ (fun _ _ r => { r with z := 64 }) rfl rfl rfl
  case placedLoad => exact start _ _ (placedRun w) rfl rfl (mePlaced_idle h idle)

variable {a : Token} (h : s.CanFire f e) (ha : f.a = some a) (free : e.holdsFor f.slot = false)
include h ha free

theorem begins_agxGath (hi : f.info.i = .agxGath w) (fits : a.width * dIndexed (e.descAt w.desc.toNat) = 4 * dWid (e.descAt w.desc.toNat)) :
    Begins s (.agxGath w) ((s.noteIssue f w.desc.toNat).addRun f (indexed e (e.descAt w.desc.toNat) (f.heldRun e w.desc.toNat))) := by
  refine begins_of_withA h ha rfl ?_
  rw [elemOf_eq h]
  exact (if_neg (not_not.mpr fits)).trans (meStart_eq h (by rw [hi]; rfl) free)

/-- An indexed operation whose B and C hold the elements of A's indices. -/
theorem begins_of_meIndexed {i : Instr} (hx : exec i s = meIndexed w s) (hi : f.info.i = i) (hd : descOf i = some w.desc.toNat)
    (fits : ∀ t, f.b = some t ∨ f.x = some t → a.width * dIndexed (e.descAt w.desc.toNat) = 4 * t.width) :
    Begins s i ((s.noteIssue f w.desc.toNat).addRun f (indexed e (e.descAt w.desc.toNat) (f.heldRun e w.desc.toNat))) := by
  refine begins_of_withA h ha hx ?_
  have good (o : Option Token) (ho : o = f.b ∨ o = f.x) : (match (generalizing := false) o with
      | some t => decide (a.width * dIndexed (e.descAt w.desc.toNat) ≠ 4 * t.width)
      | none => false) = false := by
    cases o with
    | none => rfl
    | some t => simp only [fits t (ho.imp Eq.symm Eq.symm), ne_eq, not_true_eq_false, decide_false]
  rw [elemOf_eq h]
  refine (if_neg ?_).trans (meStart_eq h (hi ▸ hd) free)
  exact Bool.eq_false_iff.mp (Bool.or_eq_false_iff.mpr ⟨good f.b (.inl rfl), good f.x (.inr rfl)⟩)

theorem begins_agxChase (hi : f.info.i = .agxChase w) :
    Begins s (.agxChase w) ((s.noteIssue f w.desc.toNat).addRun f
      { indexed e (e.descAt w.desc.toNat) (f.heldRun e w.desc.toNat) with z := 8, addr := a.lane 1 ++ a.lane 0 }) :=
  begins_of_withA h ha rfl (meStart_eq h (by rw [hi]; rfl) free)

theorem begins_ttbFill (hi : f.info.i = .ttbFill w) (place : ((s.cluster f.c).tagPlace f.k (keyOf a)).isSome = true)
    (share : (s.spAddr f.c f.k (meIndex f.site) (fillDest (e.descAt w.desc.toNat) ((a.lane 2).toNat % 4096)) (fillBytes (e.descAt w.desc.toNat))).isSome = true) :
    Begins s (.ttbFill w) ((s.noteIssue f w.desc.toNat).addRun f { f.heldRun e w.desc.toNat with z := 64 }) := by
  refine begins_of_withA h ha rfl ?_
  have hasWay := Option.isNone_eq_false_iff.mpr place
  have inShare := Option.isNone_eq_false_iff.mpr share
  simp only [elemOf_eq h, hasWay, inShare, Bool.false_eq_true, if_false]
  exact meStart_eq h (by rw [hi]; rfl) free

end

/-! ### Wave accesses (R292, R299) -/

section
variable {s : State} {f : Firing} {e : Elem} {a : Token} {d : BitVec 3} {o p n : BitVec 6}

/-- A stream barrier holds the descriptor's stream, or the stream stalls. -/
def Elem.waveHeld (e : Elem) (d : Nat) : Bool := (e.held.any fun h => decide (h.1 = d)) || e.waves.any fun w => decide (w.desc = d) && w.stalled.isSome

/-- The access that a wave slot submits. -/
def Firing.waveAcc (f : Firing) (e : Elem) (a : Token) (o p n d : Nat) : WaveAcc :=
  { slot := f.slot, desc := d, own := o, pred := p, succ := n, tok := a, data := f.b, num := e.ntok.get 0 d }

theorem submitWave_eq (h : s.CanFire f e) (ha : f.a = some a) : submitWave s f o p n d = if e.waveHeld d.toNat then .wait else
    .hold (((s.noteIssue f d.toNat).modElem f.c f.site f.k fun e' =>
      { e' with waves := e'.waves ++ [f.waveAcc e a o.toNat p.toNat n.toNat d.toNat] }.take f (f.taken [])).settle f.c f.site) := by
  rw [submitWave, withA_some ha, elemOf_eq h]
  rfl

/-- An operation that is not ready leaves the state as it was. -/
theorem waits_of {i : Instr} {g : State → Firing → Res} (h : s.CanFire f e) (hi : exec i s = fire s g) (hg : g s f = .wait) : exec i s = .next s := by
  rw [hi, fire, fireSlot_eq h, hg]

end

/-- Settles O39: each operation is one of the three beginnings, or a wave access that is submitted or waits. -/
theorem streamsBegin : Obligations.StreamsBegin := by
  refine ⟨?runs, ?waves⟩
  case runs =>
    intro s f e w h n d base r ix dem issued starts triggered
    refine ⟨?token, fun free => ⟨?change, fun a ha => ⟨?gather, ?indexed, ?chase, ?tagFill⟩⟩, fun idle => ?fed⟩
    case token =>
      intro a ha dense
      exact triggered_of (st := fun i r => f.info.i = i →
          Fires s i f { st := s.modElem f.c f.site f.k fun e => { e with ntok := e.ntok.mod 0 n (· + 1), runs := e.runs ++ [r] } }) h fun i g mk hi hd hg info =>
        fires_of h hi (hg.trans (meTrigger_token h (info ▸ hd) ha dense))
    case change => exact fun a ha change => triggered_of (st := starts) h fun i g mk hi hd hg info => begins_of h hi (hg.trans (meTrigger_change h (info ▸ hd) ha change free))
    case gather => exact fun fits hi => begins_agxGath h ha free hi fits
    case indexed =>
      have begun {i : Instr} (hx : exec i s = meIndexed w s) (hd : descOf i = some n) (fits : ∀ t, f.b = some t ∨ f.x = some t → a.width * dIndexed d = 4 * t.width) :
          starts i ix := fun hi => begins_of_meIndexed h ha free hx hi hd fits
      exact fun fits => ⟨begun rfl rfl fits, begun rfl rfl fits, begun rfl rfl fits, begun rfl rfl fits, begun rfl rfl fits, begun rfl rfl fits⟩
    case chase => exact fun hi => begins_agxChase h ha free hi
    case tagFill => exact fun place share hi => begins_ttbFill h ha free hi place share
    case fed =>
      have fed {i : Instr} (hi : f.info.i = i) (hd : descOf i = some n) (mk : Elem → DescW → Run → Run) := meFeed_eq (mk := mk) h (hi ▸ hd) idle
      exact ⟨fun own => ⟨fun hi => begins_of h rfl ((write_eq h false own ..).trans (fed hi rfl fun _ _ r => { r with z := tyBytes w.ty })),
        fun hi => begins_of h rfl ((write_eq h false own ..).trans (fed hi rfl (placedRun w)))⟩, fun hi => begins_of h rfl (fed hi rfl fun _ _ r => r)⟩
  case waves =>
    intro s f e a o p n z d h ha acc t held
    refine ⟨fun free => ⟨?load, ?store, ?none⟩, fun stopped => ⟨?loadWaits, ?storeWaits, ?noneWaits⟩⟩
    case load | store | none => exact begins_of h rfl ((submitWave_eq h ha).trans (if_neg (Bool.eq_false_iff.mp free)))
    case loadWaits | storeWaits | noneWaits => exact waits_of h rfl ((submitWave_eq h ha).trans (if_pos stopped))

end Machine
end Sys2Proof
end

section
/-! O43: a wave access is refused or performed, and either way it ends once its results have left; a bar adds at its barrier, and an sbr holds and frees the streams that it names. -/
namespace Sys2Proof.Machine

/-! ### A wave access (R292) -/

/-- A performed access leaves its element and is noted for its wave. -/
def State.waveGone (t : State) (c site k : Nat) (w : WaveAcc) : State :=
  (t.modElem c site k fun e => { e with waves := e.waves.filter fun q => decide (q ≠ w) }).waveNote c k w

/-- The firing in whose name the results of a wave access leave. -/
def State.waveFiring (s : State) (info : SlotInfo) (w : WaveAcc) : Firing :=
  { c := s.cur.cluster, k := s.cur.ctx, site := s.cur.site, slot := s.cur.slot, info := info, a := some w.tok, b := w.data, ent := some 4096 }

/-- The results of an access leave one by one, the last with the tokens that it takes. -/
def State.Replies (s1 : State) (f : Firing) (s2 : State) : List Token → Prop
  | [] => s1.replyOut f none (f.taken []) = (s2, true)
  | [t] => s1.replyOut f (some t) (f.taken []) = (s2, true)
  | t :: u :: _ => ∃ s3, s1.replyOut f (some t) [] = (s3, true) ∧ s3.replyOut f (some u) (f.taken []) = (s2, true)

/-- What is done of an access whose results are given: `gone` where they have left, nothing where they cannot. -/
def State.endWave (s s1 : State) (f : Firing) (gone : State → State) : List Token → State
  | [] => match s1.replyOut f none (f.taken []) with
    | (s2, true) => gone s2
    | (_, false) => s
  | [t] => match s1.replyOut f (some t) (f.taken []) with
    | (s2, true) => gone s2
    | (_, false) => s
  | t :: u :: _ => match s1.replyOut f (some t) [] with
    | (s2, true) => match s2.replyOut f (some u) (f.taken []) with
      | (s3, true) => gone s3
      | (_, false) => s
    | (_, false) => s

theorem endWave_of_replies {s s1 s2 : State} {f : Firing} {gone : State → State} {l : List Token} (sent : s1.Replies f s2 l) :
    s.endWave s1 f gone l = gone s2 := by
  match l, sent with
  | [], sent => rw [State.endWave, sent]
  | [t], sent => rw [State.endWave, sent]
  | t :: u :: r, ⟨s3, first, last⟩ => rw [State.endWave, first]; dsimp only; rw [last]

/-- The value of a wave load, and an error where the access is outside its span (R292). -/
def WaveAcc.results (w : WaveAcc) (site kind size : Nat) (inside : Bool) (v : Nat) (bad : Bool) : List Token :=
  (if kind = 0 then [{ w.tok with kind := kDense, lanes := packTo (if size = 3 then 2 else 1) (2 ^ size) [v], poison := w.tok.poison || bad }] else []) ++
  if inside || decide (kind = 2) then [] else [errToken 0x03 1 site w.desc w.tok.colour w.tok.tag w.tok.last]

/-- The element of a wave's access is inside the span of its descriptor. -/
def WaveAcc.inside (w : WaveAcc) (e : Elem) (size : Nat) : Bool := decide ((w.tok.lane 0).toNat + 2 ^ size ≤ dSpan (e.descAt w.desc))

/-- What a wave store does at its home. -/
def WaveAcc.stored (w : WaveAcc) (size : Nat) : AgAct := match w.data with
  | some b => .write (lanesNat b.lanes % 2 ^ (8 * 2 ^ size)) b.poison
  | none => .write 0 false

/-- The address of a wave's element. -/
def WaveAcc.va (w : WaveAcc) (e : Elem) : DWord := dBase (e.descAt w.desc) + BitVec.ofNat 64 (w.tok.lane 0).toNat

section
variable {s s1 s2 : State} {e : Elem} {rg : Region} {info : SlotInfo} {w : WaveAcc} {kind size : Nat}
variable (he : s.elem? s.cur.cluster s.cur.site s.cur.ctx = some e) (hinfo : e.slotInfo s.cur.site s.cur.slot = some info)
  (hrun : s.running s.cur.cluster s.cur.ctx = true) (hrg : s.region? s.cur.cluster s.cur.ctx = some rg) (live : rg.frozen = false) (hsnap : e.snapped = false)
  (hw : e.waves.find? (fun w => decide (w.slot = s.cur.slot) && s.waveReady s.cur.cluster s.cur.ctx rg e w) = some w)
  (hk : waveKind info.i = (kind, size))
include he hinfo hrun hrg live hsnap hw hk

/-- A wave without an access takes its turn, and so does one outside the span, with its error. -/
theorem exec_wave_skips (skips : kind = 2 ∨ w.inside e size = false)
    (sent : s.Replies (s.waveFiring info w) s2 (w.results s.cur.site kind size (w.inside e size) 0 false)) :
    exec .waveAccessPerform s = .next (s2.waveGone s.cur.cluster s.cur.site s.cur.ctx w) := by
  change execWaveAccessPerform s = _
  have skips' : kind = 2 ∨ (!(w.inside e size)) = true := skips.imp_right fun h => by rw [h]; rfl
  simp only [WaveAcc.inside] at skips'
  simp only [execWaveAccessPerform, he, hinfo, hrun, hrg, live, hsnap, hw, hk, Bool.not_true, Bool.or_self, Bool.false_eq_true, if_false, skips', if_true]
  exact congrArg _ (endWave_of_replies sent)

section
variable {key : Nat} {g : State × Nat × Bool × Nat} (inside : w.inside e size = true) (near : isFar key = false)
include inside near

/-- A load inside its span gives the bytes at its home. -/
theorem exec_wave_loads (load : kind = 0) (home : s.agHome s.cur.cluster s.cur.ctx (w.va e) (2 ^ size) .load = (s1, .ok key))
    (hg : s1.atHome key (2 ^ size) 0 .read = g) (sent : g.1.Replies (s.waveFiring info w) s2 (w.results s.cur.site 0 size true g.2.1 g.2.2.1)) :
    exec .waveAccessPerform s = .next (s2.waveGone s.cur.cluster s.cur.site s.cur.ctx w) := by
  change execWaveAccessPerform s = _
  subst load
  simp only [WaveAcc.inside, WaveAcc.va] at inside home
  simp only [execWaveAccessPerform, he, hinfo, hrun, hrg, live, hsnap, hw, hk, Bool.not_true, Bool.or_self, Bool.false_eq_true, if_false, inside,
    OfNat.zero_ne_ofNat, zero_ne_one, AgAct.acc, home, near, hg, if_true, Bool.true_or, List.append_nil, or_self]
  exact congrArg _ (endWave_of_replies sent)

/-- A store inside its span writes its data at its home. -/
theorem exec_wave_stores (store : kind = 1) (home : s.agHome s.cur.cluster s.cur.ctx (w.va e) (2 ^ size) .store = (s1, .ok key))
    (hg : s1.atHome key (2 ^ size) 0 (w.stored size) = g)
    (sent : (g.1.setProt key (2 ^ size) (g.1.protAt (g.1.rootAt s.cur.cluster s.cur.ctx) (w.va e))).Replies (s.waveFiring info w) s2 []) :
    exec .waveAccessPerform s = .next (s2.waveGone s.cur.cluster s.cur.site s.cur.ctx w) := by
  change execWaveAccessPerform s = _
  subst store
  simp only [WaveAcc.inside, WaveAcc.va] at inside home
  cases data : w.data with
  | none | some b =>
    simp only [WaveAcc.stored, data] at hg
    simp only [State.Replies, State.waveFiring, WaveAcc.va, data] at sent
    simp only [execWaveAccessPerform, he, hinfo, hrun, hrg, live, hsnap, hw, hk, Bool.not_true, Bool.or_self, Bool.false_eq_true, if_false, inside,
      OfNat.one_ne_ofNat, if_true, AgAct.acc, data, home, near, hg,
      one_ne_zero, Bool.true_or, List.append_nil, or_self, sent]
    rfl

end
end

/-! ### Barriers and stream barriers (R297, R299) -/

section
variable {s s1 : State} {f : Firing} {e : Elem} {w : MeW} {a : Token} (h : s.CanFire f e) (ha : f.a = some a)
include h ha

/-- A bar that has not stalled waits for the writes issued before it. -/
theorem exec_bar_waits (going : e.stallSlot.find? (fun q => decide (q.1 = f.slot)) = none) (owes : s.owesWrite f.c f.k f.site = true) :
    exec (.bar w) s = .next s := by
  refine waits_of h rfl ((withA_some ha _).trans ?_)
  simp only [elemOf_eq h, going, owes, Bool.or_true, if_true]

/-- A bar adds A's lane 0 at its barrier. -/
theorem fires_bar {key : Nat} {r : State × Nat × Bool × Nat} (going : e.stallSlot.find? (fun q => decide (q.1 = f.slot)) = none)
    (owes : s.owesWrite f.c f.k f.site = false) (home : s.agHome f.c f.k (e.const (w.k.toNat + 1) ++ e.const w.k.toNat) 32 .store = (s1, .ok key))
    (near : isFar key = false)
    (hr : s1.atHome key 32 0 (.update (arrival (a.lane 0).toNat a.poison) (arrivalWords (a.lane 0).toNat a.poison)) = r) (good : r.2.2.1 = false) :
    Fires s (.bar w) f
      { st := (r.1.setProt key 32 (r.1.protAt (r.1.rootAt f.c f.k) (e.const (w.k.toNat + 1) ++ e.const w.k.toNat))).modElem f.c f.site f.k fun e' =>
          { e' with stallSlot := e.stallSlot.filter fun q => decide (q.1 ≠ f.slot) } } := by
  refine fires_of_withA h ha rfl ?_
  simp only [elemOf_eq h, going, owes, home, near, hr, good, Bool.or_self, Bool.false_eq_true, if_false]

/-- An sbr notes itself, A and the streams that it names, and holds them. -/
theorem begins_sbr (free : (e.sbr.any fun q => decide (q.1 = f.slot)) = false) : Begins s (.sbr w)
    (((s.modElem f.c f.site f.k fun e' => { e' with sbr := e'.sbr ++ [(f.slot, a, sbrNames e w.k.toNat)] }).countMe f.c f.k).sbrHold f.c f.k
      (16 * f.site + f.slot) (sbrNames e w.k.toNat) true) := by
  refine begins_of_withA h ha rfl ?_
  simp only [elemOf_eq h, free, Bool.false_eq_true, if_false]

end

section
variable {s s2 : State} {e : Elem} {info : SlotInfo} {a : Token} {names : List (Nat × Nat)}
variable (he : s.elem? s.cur.cluster s.cur.site s.cur.ctx = some e) (hinfo : e.slotInfo s.cur.site s.cur.slot = some info)
  (hq : e.sbr.find? (fun q => decide (q.1 = s.cur.slot)) = some (s.cur.slot, a, names))
include he hinfo hq

theorem exec_sbrRelease_waits (owes : (names.any fun q => s.streamOwes s.cur.cluster s.cur.ctx (meSite q.1) q.2) = true) :
    exec .sbrRelease s = .next s := by
  change execSbrRelease s = _
  simp only [execSbrRelease, he, hinfo, hq, owes, Bool.or_true, if_true]

/-- Once its streams owe nothing an sbr passes A on, frees them and is gone. -/
theorem exec_sbrRelease_frees (hrun : s.running s.cur.cluster s.cur.ctx = true) (owes : (names.any fun q => s.streamOwes s.cur.cluster s.cur.ctx (meSite q.1) q.2) = false)
    (sent : s.replyOut { c := s.cur.cluster, k := s.cur.ctx, site := s.cur.site, slot := s.cur.slot, info := info, a := some a } (some a) [(0, a)] = (s2, true)) :
    exec .sbrRelease s = .next ((s2.sbrHold s.cur.cluster s.cur.ctx (16 * s.cur.site + s.cur.slot) names false).modElem
      s.cur.cluster s.cur.site s.cur.ctx fun e => { e with sbr := e.sbr.filter fun q => decide (q.1 ≠ s.cur.slot) }) := by
  change execSbrRelease s = _
  simp only [execSbrRelease, he, hinfo, hq, owes, hrun, sent, Bool.not_true, Bool.or_self, Bool.false_eq_true, if_false]

end

theorem size_eq_three_iff (z : BitVec 2) : z.toNat = 3 ↔ z = 3 := by
  rw [← BitVec.toNat_inj]; rfl

/-- Settles O43: a wave access is skipped, or performed at its home, and its results leave; the barriers are the branches that their premises select. -/
theorem waveAndBarrierSteps : Obligations.WaveAndBarrierSteps := by
  refine ⟨?steps, ?barriers⟩
  case steps =>
    intro s s1 s2 e rg info w o p n z d key a names c site k slot he hinfo hrun
    refine ⟨?wave, exec_sbrRelease_waits he hinfo, fun hq owes => exec_sbrRelease_frees he hinfo hq hrun owes⟩
    case wave =>
      intro hrg live hsnap hw m va f gone
      refine ⟨?turn, fun outside => ?storeError, fun outside => ?loadError, fun inside near => ⟨?load, ?store⟩⟩
      case turn =>
        intro hi sent
        refine exec_wave_skips he hinfo hrun hrg live hsnap hw (by rw [hi]; rfl) (.inl rfl) ?_
        simp only [WaveAcc.results, decide_true, Bool.or_true, if_true]
        exact sent
      case storeError =>
        intro hi sent
        have apart : w.inside e z.toNat = false := decide_eq_false (Nat.not_le.mpr outside)
        exact exec_wave_skips he hinfo hrun hrg live hsnap hw (by rw [hi]; rfl) (.inr apart) (by rw [apart]; exact sent)
      case loadError =>
        intro hi sent sentError
        have apart : w.inside e z.toNat = false := decide_eq_false (Nat.not_le.mpr outside)
        refine exec_wave_skips he hinfo hrun hrg live hsnap hw (by rw [hi]; rfl) (.inr apart) ?_
        rw [apart]
        refine ⟨s1, ?_, sentError⟩
        simp only [size_eq_three_iff, Bool.or_false]
        exact sent
      case load =>
        intro hi home g sent
        refine exec_wave_loads he hinfo hrun hrg live hsnap hw (by rw [hi]; rfl) (decide_eq_true inside) near rfl home rfl ?_
        simp only [WaveAcc.results, size_eq_three_iff]
        exact sent
      case store =>
        intro hi home g sent
        exact exec_wave_stores he hinfo hrun hrg live hsnap hw (by rw [hi]; rfl) (decide_eq_true inside) near rfl home rfl sent
  case barriers =>
    intro s s1 f e w a key h ha va others
    exact ⟨exec_bar_waits h ha, fun going owes home near => fires_bar h ha going owes home near rfl, begins_sbr h ha⟩

end Sys2Proof.Machine
end

section
/-! O45: an accepted command's step is the body of its meaning, and a drain goes on, ends with its cells kept, or ends with them zeroed. -/
namespace Sys2Proof.Machine

section
variable {s s1 s2 : State} {h : MxCmd} {w : MxW} (hh : s.mxHead s.cur.cluster = some h) (accepted : h.refused = false)
  (slots : (s.mxOf s.cur.cluster).slotsOk w = true)
include hh accepted slots

theorem exec_mmz : exec (.mmz w) s = .next ((s.modMx s.cur.cluster fun m => m.zero w (w.m * w.n)).mxDone s.cur.cluster h stOk) := mxRun_eq hh accepted slots

/-- The term that element i of a tile adds to its cell, or that replaces it. -/
def State.loadTerm (s : State) (c : Nat) (h : MxCmd) (w : MxW) (m : Mx) (i : Nat) : Mx :=
  (if w.acc = 0 then m.zeroCell (w.cell (w.f 14 8) 0 + i) else m).addTerm (w.anchorAt 15) (w.cell (w.f 14 8) 0 + i)
    (if s.tileBad c h.ctx (w.f 31 24) (tyBits w.tyCode * i / 8) then Val.nan false
      else tyDecode w.tyCode false (s.tileElt c h.ctx (w.f 31 24) (tyBits w.tyCode) i))

theorem exec_mload {r : State × Bool × Bool} (owned : s.ownsTile s.cur.cluster h.ctx (w.f 31 24) = true)
    (ready : tileState ((s.cluster s.cur.cluster).tile (w.f 31 24)) = tReady)
    (hr : s.tileScan s.cur.cluster h.ctx (w.f 31 24) ((w.f 7 1 + 1) * w.n * tyBits w.tyCode / 8) = r) :
    exec (.mload w) s = .next
      (((r.1.modMx s.cur.cluster fun m => (List.range ((w.f 7 1 + 1) * w.n)).foldl (s.loadTerm s.cur.cluster h w) m).modCluster s.cur.cluster
        fun x => x.emptyTile (w.f 31 24)).mxDone s.cur.cluster h (if r.2.2 then stPoisoned else if r.2.1 then stError else stOk)) := by
  refine (mxRun_eq hh accepted (by rw [slots, owned]; rfl)).trans (congrArg _ ?_)
  simp only [ready, ne_eq, not_true_eq_false, if_false, hr]
  rfl

/-- The command after a token of its drain has entered the port. -/
def MxCmd.drained (h : MxCmd) (s : State) (c : Nat) (w : MxW) : MxCmd :=
  { h with
    pos := h.pos + 1, error := h.error || (List.range w.slots).any fun a => (s.mxOf c).ovr.getLsbD (w.accsel.toNat + a),
    poisoned := h.poisoned || (s.drainToken c h w h.pos).poison }

/-- The status with which a command ends. -/
def MxCmd.status (h : MxCmd) : Nat := if h.poisoned then stPoisoned else if h.error then stError else stOk

section
variable (entered : s.enterEdge s.cur.cluster (.d (w.f 31 30)) (s.drainToken s.cur.cluster h w h.pos) = some s2)
include entered

theorem exec_mdrain_goes_on (keeps : w.acc ≠ 0 ∨ (h.pos + 1) % w.perRow ≠ 0) (more : h.pos + 1 < w.m * w.perRow) :
    exec (.mdrain w) s = .next (s2.setHead s.cur.cluster h (h.drained s s.cur.cluster w)) := by
  refine (mxRun_eq hh accepted slots).trans (congrArg _ ?_)
  have row : ¬(w.acc = 0 ∧ (h.pos + 1) % w.perRow = 0) := fun z => keeps.elim (· z.1) (· z.2)
  simp only [entered, more, row, if_true, if_false]
  rfl

theorem exec_mdrain_keeps (keeps : w.acc ≠ 0) (last : w.m * w.perRow ≤ h.pos + 1) :
    exec (.mdrain w) s = .next (s2.mxDone s.cur.cluster h (h.drained s s.cur.cluster w).status) := by
  refine (mxRun_eq hh accepted slots).trans (congrArg _ ?_)
  simp only [entered, Nat.not_lt.mpr last, keeps, false_and, if_false]
  rfl

theorem exec_mdrain_zeroes (zeroes : w.acc = 0) (row : (h.pos + 1) % w.perRow = 0) (last : w.m * w.perRow ≤ h.pos + 1) :
    exec (.mdrain w) s = .next (((s2.modMx s.cur.cluster fun m => (List.range w.n).foldl (fun m j => m.zeroCell (w.cell (h.pos / w.perRow) j)) m).modMx
      s.cur.cluster fun m => m.clearOvr w.accsel.toNat w.slots).mxDone s.cur.cluster h (h.drained s s.cur.cluster w).status) := by
  refine (mxRun_eq hh accepted slots).trans (congrArg _ ?_)
  simp only [entered, Nat.not_lt.mpr last, zeroes, row, and_self, if_true, if_false]
  rfl

end
end

/-- Settles O45: each command is its own equation. -/
theorem matrixMoves : Obligations.MatrixMoves := by
  intro s s2 h w c m hh accepted slots
  refine ⟨exec_mmz hh accepted slots, ?load, ?drain⟩
  case load => exact fun owned ready => exec_mload hh accepted slots owned ready rfl
  case drain =>
    intro t entered ovr g
    exact ⟨exec_mdrain_goes_on hh accepted slots entered, exec_mdrain_keeps hh accepted slots entered, exec_mdrain_zeroes hh accepted slots entered⟩

end Sys2Proof.Machine
end

section
/-! O46: each coverage command's step is the body of its meaning; the argmax is the one valid gain that is better than every other. -/
namespace Sys2Proof.Machine

section
variable {s : State} {h : MxCmd} {w : MxW} (hh : s.mxHead s.cur.cluster = some h) (accepted : h.refused = false)
include hh accepted

theorem exec_cvreset (none : (s.mxOf s.cur.cluster).cov = none) :
    exec (.cvreset w) s = .next ((s.setCov s.cur.cluster { e := w.f 31 17 + 1 }).mxDone s.cur.cluster h stOk) :=
  mxRun_eq hh accepted (by rw [Mx.hasCov, none]; rfl)

section
variable (cov : (s.mxOf s.cur.cluster).cov.isSome = true)
include cov

/-- The cells of the coverage slots hold what is free. -/
theorem exec_cvresetRelease {n : Nat} (hn : (s.mxOf s.cur.cluster).covSlots = n) :
    exec (.cvresetRelease w) s = .next ((s.modMx s.cur.cluster fun m => (List.range (2048 * n)).foldl (fun m i =>
      m.setCell (2048 * (16 - n) + i) (Config.releasedCell (32768 * s.tick + 2048 * (16 - n) + i))) { m with cov := none }).mxDone s.cur.cluster h stOk) := by
  subst hn; exact mxRun_eq hh accepted cov

/-! ### Loads from rings (R306) -/

/-- An entry of a tile: best and weight, each NaN where its word is bad (R383). -/
def State.loadEntry (s : State) (c k t first : Nat) (v : Coverage) (i : Nat) : Coverage :=
  { v with
    best := Map.put 0 v.best (first + i) (BitVec.ofNat 32 (if s.tileBad c k t (8 * i) then 0x7FC00000 else s.tileLe c k t (8 * i) 4)),
    weight := Map.put 0x3F80 v.weight (first + i) (BitVec.ofNat 16 (if s.tileBad c k t (8 * i + 4) then 0x7FC0 else s.tileLe c k t (8 * i + 4) 2)) }

/-- A gain of a tile, valid where none of its words is bad. -/
def State.loadGain (s : State) (c k t first : Nat) (v : Coverage) (i : Nat) : Coverage :=
  { v with
    gains := Map.put 0 v.gains (first + i) (BitVec.ofNat 128 (s.tileLe c k t (16 * i) 16)),
    valid := if [0, 4, 8, 12].any fun o => s.tileBad c k t (16 * i + o) then v.valid.filter fun g => decide (g ≠ first + i)
      else (v.valid.filter fun g => decide (g ≠ first + i)) ++ [first + i] }

theorem exec_cvloadEnt {t : Nat} {r : State × Bool × Bool} (owned : s.ownsRing s.cur.cluster h.ctx w.ringA.toNat = true)
    (head : s.readyHead s.cur.cluster w.ringA.toNat = some t) (fits : w.f 30 16 + (w.f 15 6 + 1) ≤ (s.covOf s.cur.cluster).e)
    (hr : s.tileScan s.cur.cluster h.ctx t (8 * (w.f 15 6 + 1)) = r) :
    exec (.cvloadEnt w) s = .next
      (((r.1.setCov s.cur.cluster ((List.range (w.f 15 6 + 1)).foldl (s.loadEntry s.cur.cluster h.ctx t (w.f 30 16)) (s.covOf s.cur.cluster))).modCluster
        s.cur.cluster fun x => x.popHead w.ringA.toNat).mxDone s.cur.cluster h (if r.2.2 then stPoisoned else if r.2.1 then stError else stOk)) := by
  refine (mxRun_eq hh accepted (by rw [Mx.hasCov, cov, owned, decide_eq_true fits]; rfl)).trans (congrArg _ ?_)
  simp only [head, hr]
  rfl

theorem exec_cvloadGain {ta tb : Nat} {ra rb : State × Bool × Bool} (ownedA : s.ownsRing s.cur.cluster h.ctx w.ringA.toNat = true)
    (headA : s.readyHead s.cur.cluster w.ringA.toNat = some ta) (ownedB : s.ownsRing s.cur.cluster h.ctx w.ringB.toNat = true)
    (headB : s.readyHead s.cur.cluster w.ringB.toNat = some tb) (fits : w.f 30 23 + (w.f 22 15 + 1) ≤ 256)
    (ha : s.tileScan s.cur.cluster h.ctx ta (16 * (w.f 22 15 + 1)) = ra)
    (hb : ra.1.tileScan s.cur.cluster h.ctx tb (8 * (w.f 30 23 + (w.f 22 15 + 1))) = rb) :
    exec (.cvloadGain w) s = .next
      (((rb.1.setCov s.cur.cluster (s.takeKeys s.cur.cluster h.ctx tb (w.f 30 23) (w.f 22 15 + 1)
        ((List.range (w.f 22 15 + 1)).foldl (s.loadGain s.cur.cluster h.ctx ta (w.f 30 23)) { s.covOf s.cur.cluster with anchor := w.anchorAt 6 }))).modCluster
        s.cur.cluster fun x => x.popHead w.ringA.toNat).mxDone s.cur.cluster h
          (if ra.2.2 || rb.2.2 then stPoisoned else if ra.2.1 || rb.2.1 then stError else stOk)) := by
  refine (mxRun_eq hh accepted (by rw [Mx.hasCov, cov, ownedA, ownedB, decide_eq_true fits]; rfl)).trans (congrArg _ ?_)
  simp only [headA, headB, ha, hb]
  rfl

/-! ### Probes and commits (R307, R362) -/

section
variable (slots : (s.mxOf s.cur.cluster).slotsOk w = true) (inside : w.f 31 17 < (s.covOf s.cur.cluster).e)
include slots inside

/-- The coverage state with which a probe begins: its anchor, and its columns cleared where acc is 0. -/
def Coverage.probed (v : Coverage) (w : MxW) : Coverage :=
  if w.acc = 0 then (List.range w.n).foldl (fun (v : Coverage) j => { v with gains := v.gains.del (w.f 7 0 + j) }) { v with anchor := w.anchorAt 8 }
  else { v with anchor := w.anchorAt 8 }

theorem exec_cvprobe {t : Nat} {r : State × Bool × Bool} {p : Coverage × Bool} (owned : s.ownsRing s.cur.cluster h.ctx w.ringB.toNat = true)
    (head : s.readyHead s.cur.cluster w.ringB.toNat = some t) (hr : s.tileScan s.cur.cluster h.ctx t (8 * (w.f 7 0 + w.n)) = r)
    (hp : (List.range w.n).foldl (fun (a : Coverage × Bool) j => ((probeColumn s s.cur.cluster w a.1 j).1, a.2 || (probeColumn s s.cur.cluster w a.1 j).2))
      (s.takeKeys s.cur.cluster h.ctx t (w.f 7 0) w.n ((s.covOf s.cur.cluster).probed w), false) = p) :
    exec (.cvprobe w) s = .next
      ((r.1.setCov s.cur.cluster p.1).mxDone s.cur.cluster h (if r.2.2 then stPoisoned else if p.2 || r.2.1 then stError else stOk)) := by
  refine (mxRun_eq hh accepted (by rw [Mx.hasCov, cov, owned, slots, decide_eq_true inside]; rfl)).trans (congrArg _ ?_)
  subst hp
  simp only [head, hr]
  rfl

end

end
end

/-! ### The argmax (R308) -/

/-- The better of what was found and a further gain. -/
def betterOf (v : Coverage) (b : Option Nat) (g : Nat) : Option Nat := match b with
  | none => some g
  | some y => if gainBetter v g y then some g else some y

/-- The best valid gain of n from `first` on. -/
def Coverage.argmax (v : Coverage) (first n : Nat) : Option Nat :=
  (((List.range n).map fun i => first + i).filter fun g => v.valid.contains g).foldl (betterOf v) none

/-- The lanes of the argmax token: open ones where no gain is valid. -/
def Coverage.argmaxLanes (v : Coverage) (tick : Nat) : Option Nat → List Word
  | some g => [BitVec.ofNat 32 g, v.index.get 0 g, v.keys.get 0 g] ++ gainLanes v g ++ [BitVec.ofNat 32 v.ovr.toNat]
  | none => (List.range 7).map (Config.openLane tick) ++ [BitVec.ofNat 32 (2 + v.ovr.toNat)]

section
variable {v : Coverage} {g : Nat} {l : List Nat}

/-- A gain that is better than every other one stays the best. -/
theorem foldl_betterOf_best (best : ∀ x ∈ l, x ≠ g → gainBetter v x g = false) : l.foldl (betterOf v) (some g) = some g :=
  List.foldlRecOn (motive := fun b => b = some g) _ _ rfl fun b hb x hx => by
    subst hb
    by_cases same : x = g
    · rw [same]; exact ite_self _
    · exact if_neg (Bool.eq_false_iff.mp (best x hx same))

/-- It is found wherever it stands. -/
theorem foldl_betterOf (hg : g ∈ l) (best : ∀ x ∈ l, x ≠ g → gainBetter v g x = true ∧ gainBetter v x g = false) (b : Option Nat)
    (hb : ∀ y, b = some y → y = g ∨ gainBetter v g y = true) : l.foldl (betterOf v) b = some g := by
  induction l generalizing b with
  | nil => cases hg
  | cons x l ih =>
    have later : ∀ y ∈ l, y ≠ g → gainBetter v g y = true ∧ gainBetter v y g = false := fun y hy => best y (List.mem_cons_of_mem _ hy)
    by_cases same : x = g
    · have found : betterOf v b x = some g := by
        cases b with
        | none => exact congrArg some same
        | some y =>
          rcases hb y rfl with equal | better
          · rw [same, equal]; exact ite_self _
          · rw [same]; exact if_pos better
      rw [List.foldl_cons, found]
      exact foldl_betterOf_best fun y hy other => (later y hy other).2
    · refine ih ((List.mem_cons.mp hg).resolve_left (Ne.symm same)) later _ fun y hy => ?_
      have worse := (best x List.mem_cons_self same).1
      cases b with
      | none =>
        cases hy
        exact .inr worse
      | some z =>
        simp only [betterOf] at hy
        split at hy
        · cases hy
          exact .inr worse
        · exact hb y hy

theorem argmax_eq_some {first n : Nat} (low : first ≤ g) (high : g < first + n) (valid : g ∈ v.valid)
    (best : ∀ x, first ≤ x → x < first + n → x ∈ v.valid → x ≠ g → gainBetter v g x = true ∧ gainBetter v x g = false) :
    v.argmax first n = some g := by
  have listed (x : Nat) : x ∈ (((List.range n).map fun i => first + i).filter fun g => v.valid.contains g) ↔
      first ≤ x ∧ x < first + n ∧ x ∈ v.valid := by
    simp only [List.mem_filter, List.mem_map, List.mem_range, List.contains_iff_mem, ← and_assoc]
    refine and_congr_left fun _ => ⟨?_, fun ⟨hl, hu⟩ => ⟨x - first, by omega, by omega⟩⟩
    rintro ⟨i, hi, rfl⟩
    omega
  refine foldl_betterOf ((listed g).mpr ⟨low, high, valid⟩) (fun x hx => ?_) none fun _ h => nomatch h
  obtain ⟨hl, hu, hv⟩ := (listed x).mp hx
  exact best x hl hu hv

theorem argmax_eq_none {first n : Nat} (empty : ∀ g, first ≤ g → g < first + n → g ∉ v.valid) : v.argmax first n = none := by
  have nothing : (((List.range n).map fun i => first + i).filter fun g => v.valid.contains g) = [] := by
    refine List.filter_eq_nil_iff.mpr fun x hx => ?_
    obtain ⟨i, hi, rfl⟩ := List.mem_map.mp hx
    have low := List.mem_range.mp hi
    rw [List.contains_iff_mem]
    exact empty _ (by omega) (by omega)
  rw [Coverage.argmax, nothing]
  rfl

end

/-! ### Reads (R308) -/

section
variable {s s1 : State} {h : MxCmd} {w : MxW} (hh : s.mxHead s.cur.cluster = some h) (accepted : h.refused = false)
  (ok : s.readOk s.cur.cluster w = true)
include hh accepted ok

theorem exec_cvreadArg {best : Option Nat} (hb : (s.covOf s.cur.cluster).argmax (w.f 28 21) (w.f 20 13 + 1) = best)
    (entered : s.enterEdge s.cur.cluster (.d (w.f 30 29)) { s.mxToken s.cur.cluster h w 0 with
      lanes := (s.covOf s.cur.cluster).argmaxLanes s.tick best, last := true } = some s1) :
    exec (.cvreadArg w) s = .next (s1.mxDone s.cur.cluster h stOk) := by
  subst hb
  refine (mxRun_eq hh accepted ok).trans (congrArg _ ?_)
  exact congrArg (fun o => match o with
    | none => s.countWait s.cur.cluster 0x022 h.ctx
    | some s1 => s1.mxDone s.cur.cluster h stOk) entered

theorem exec_cvreadGain (entered : s.enterEdge s.cur.cluster (.d (w.f 30 29)) { s.mxToken s.cur.cluster h w 0 with
      lanes := fitLanes 32 (((List.range (Nat.min 8 (w.f 20 13 + 1 - 8 * h.pos))).map fun i => w.f 28 21 + 8 * h.pos + i).flatMap
        (gainLanes (s.covOf s.cur.cluster))), last := decide (8 * (h.pos + 1) ≥ w.f 20 13 + 1) } = some s1) :
    exec (.cvreadGain w) s = .next (if w.f 20 13 + 1 ≤ 8 * (h.pos + 1) then s1.mxDone s.cur.cluster h stOk
      else s1.setHead s.cur.cluster h { h with pos := h.pos + 1 }) := by
  refine (mxRun_eq hh accepted ok).trans (congrArg _ ?_)
  simp only [entered, decide_eq_true_eq]

end

/-- Settles O46: each command is its own equation, and the argmax token that of the gain found. -/
theorem coverageResults : Obligations.CoverageResults := by
  refine ⟨?loads, ?columns, ?reads⟩
  case loads =>
    intro s h w ta tb c k v hh accepted
    refine ⟨exec_cvreset hh accepted, fun cov => ⟨exec_cvresetRelease hh accepted cov rfl, fun owned head => ⟨?entries, ?gains⟩⟩⟩
    case entries => exact fun fits => exec_cvloadEnt hh accepted cov owned head fits rfl
    case gains =>
      intro ownedB headB first n fits
      exact exec_cvloadGain hh accepted cov owned head ownedB headB fits rfl rfl
  case columns =>
    intro s h w t c v gb hh accepted cov slots inside
    refine ⟨fun owned head => exec_cvprobe hh accepted cov slots inside owned head rfl rfl, ?commit⟩
    case commit => exact mxRun_eq hh accepted (by rw [Mx.hasCov, cov, slots, decide_eq_true inside]; rfl)
  case reads =>
    intro s s1 h w
    dsimp only
    intro hh accepted cov fits
    have ok : s.readOk s.cur.cluster w = true := by
      rw [State.readOk, Mx.hasCov, cov, decide_eq_true (Nat.add_assoc .. ▸ fits)]
      rfl
    refine ⟨fun g low high valid best => exec_cvreadArg hh accepted ok (best := some g) (argmax_eq_some low high valid best),
      fun empty => exec_cvreadArg hh accepted ok (best := none) (argmax_eq_none empty), fun entered => ?gains⟩
    case gains =>
      have read := exec_cvreadGain hh accepted ok entered
      exact ⟨fun last => read.trans (congrArg _ (if_pos last)), fun more => read.trans (congrArg _ (if_neg (Nat.not_le.mpr more)))⟩

end Sys2Proof.Machine
end

section
/-! O49: a link command on a port that is ready acts when its turn has come; a scrub step writes the bit of its line. -/
namespace Sys2Proof.Machine

/-! ### Link commands (R311, R337, R404) -/

/-- A SEND has sent one flit more. -/
def State.sentFlit (s : State) (c k id st : Nat) : State := s.modIssued c k id fun y => { y with pos := y.pos + 1, status := Nat.max y.status st }

/-- A port is free for a SEND that no other one holds (R311). -/
theorem holder_free {o : Option (Nat × Nat × Nat)} {me : Nat × Nat × Nat} (h : o = none ∨ o = some me) : (o.isNone || decide (o = some me)) = true := by
  rcases h with rfl | rfl
  · rfl
  · exact decide_eq_true rfl

section
variable {s s1 : State} {d : LkDesc} {x : Cmd} (hx : s.linkCmd d.port.toNat = some x)
include hx

section
variable (below : (s.port d.port.toNat).txEnds = false) (free : ((s.port d.port.toNat).outq.any fun e => e.2.2.isSome) = false)
  (noKey : s.earlierKey s.cur.cluster s.cur.ctx x.id d.port.toNat = false) (noSend : s.earlierSend s.cur.cluster s.cur.ctx x.id d.port.toNat = false)
  (holds : s.sendHolder d.port.toNat = none ∨ s.sendHolder d.port.toNat = some (s.cur.cluster, s.cur.ctx, x.id))
  {t : State} (ht : (s.modPort d.port.toNat fun y => { y with sending := some (s.cur.cluster, s.cur.ctx, x.id) }) = t)
include below free noKey noSend holds ht

theorem exec_send_opens (first : x.pos = 0) : exec (.send d) s = .next ((t.sendLater d.port.toNat 0 d.node.toNat 0 (BitVec.ofNat 16 x.id)
    [d.dst, if d.node.toNat < 2048 then 1 else 0, match s.ctxAt s.cur.cluster s.cur.ctx with
      | some y => y.ptab
      | none => 0, d.nflit.zeroExtend 64] (some (s.cur.cluster, s.cur.ctx, x.id))).sentFlit s.cur.cluster s.cur.ctx x.id 0) := by
  subst ht
  change execSend d s = _
  have mine := holder_free holds
  simp only [execSend, hx, below, free, noKey, noSend, mine, first, Nat.not_lt_zero, gt_iff_lt, decide_false, Bool.not_true, Bool.or_self, Bool.false_eq_true, if_false, if_true]
  rfl

theorem exec_send_data {bs : List PByte} (later : 1 ≤ x.pos) (inside : x.pos ≤ d.nflit.toNat + 1)
    (read : t.engBytes s.cur.cluster s.cur.ctx (engOwner x.id) (d.src + BitVec.ofNat 64 (232 * (x.pos - 1))) 232 = (s1, .ok bs)) :
    exec (.send d) s = .next (((s1.engDone s.cur.cluster s.cur.ctx (engOwner x.id)).sendLater d.port.toNat 1 d.node.toNat (x.pos - 1) (BitVec.ofNat 16 x.id)
      (payOf bs) (some (s.cur.cluster, s.cur.ctx, x.id))).sentFlit s.cur.cluster s.cur.ctx x.id (if anyBad bs then stPoisoned else 0)) := by
  subst ht
  change execSend d s = _
  have mine := holder_free holds
  have notFirst : x.pos ≠ 0 := Nat.one_le_iff_ne_zero.mp later
  simp only [execSend, hx, below, free, noKey, noSend, mine, notFirst, Nat.not_lt.mpr inside, decide_false, Bool.not_true, Bool.or_self, Bool.false_eq_true, if_false, read]
  rfl

end

section
variable (turn : s.keyTurn x d.port.toNat = true)
include turn

/-- The slot that a KEYLD names is not the one that its direction uses. -/
theorem exec_keyld_loads {e : KeyEntry} (key : s.enrolledKey d.handle.toNat (s.rootAt s.cur.cluster s.cur.ctx) 0 = some e)
    (free : (s.port d.port.toNat).inUse (decide (d.dir = 1)) (decide (d.kslot = 1)) = false) :
    exec (.keyld d) s = .next ((s.modPort d.port.toNat fun y => y.setSlot (decide (d.dir = 1)) (decide (d.kslot = 1))
      { loaded := true, handle := d.handle, salt := d.salt, ctr := 0, key := e.key }).cmdDone s.cur.cluster s.cur.ctx x.id 1 stOk) := by
  change execKeyld d s = _
  simp only [execKeyld, hx, turn, key, free, Bool.not_true, Bool.false_eq_true, if_false]

theorem exec_keyld_used {e : KeyEntry} (key : s.enrolledKey d.handle.toNat (s.rootAt s.cur.cluster s.cur.ctx) 0 = some e)
    (used : (s.port d.port.toNat).inUse (decide (d.dir = 1)) (decide (d.kslot = 1)) = true) :
    exec (.keyld d) s = .next (s.refuse s.cur.cluster s.cur.ctx x 3) := by
  change execKeyld d s = _
  simp only [execKeyld, hx, turn, key, used, Bool.not_true, Bool.false_eq_true, if_false, if_true]

theorem exec_keyld_unenrolled (noKey : s.enrolledKey d.handle.toNat (s.rootAt s.cur.cluster s.cur.ctx) 0 = none) :
    exec (.keyld d) s = .next (s.refuse s.cur.cluster s.cur.ctx x 3) := by
  change execKeyld d s = _
  simp only [execKeyld, hx, turn, noKey, Bool.not_true, Bool.false_eq_true, if_false]

section
variable (first : x.pos = 0) (unmarked : ((s.port d.port.toNat).outq.any fun e => decide (e.1.type = 4)) = false)
include first unmarked

theorem exec_keysw_marks (loaded : (s.port d.port.toNat).otherTx.loaded = true)
    (below : (s.port d.port.toNat).otherTx.ctr.toNat + 1 < (s.port d.port.toNat).plim.toNat) :
    exec (.keysw d) s = .next ((s.sendLater d.port.toNat 4 (Config.portNode d.port.toNat).toNat 0 0 [0] (some (s.cur.cluster, s.cur.ctx, x.id))).modIssued
      s.cur.cluster s.cur.ctx x.id fun y => { y with pos := 1 }) := by
  change execKeysw d s = _
  simp only [execKeysw, hx, turn, first, unmarked, loaded, Nat.not_le.mpr below, ne_eq, not_true_eq_false, Bool.not_true, Bool.false_eq_true, or_self, if_false]

theorem exec_keysw_empty (empty : (s.port d.port.toNat).otherTx.loaded = false) : exec (.keysw d) s = .next (s.refuse s.cur.cluster s.cur.ctx x 3) := by
  change execKeysw d s = _
  simp only [execKeysw, hx, turn, first, unmarked, empty, ne_eq, not_true_eq_false, Bool.not_true, Bool.not_false, Bool.false_eq_true, or_self, true_or, if_false, if_true]

end
end

theorem exec_stat_writes {s2 : State} {report : List PByte} (hr : ((s.linkStat d.port.toNat).flatMap fun w => pbytes 8 w.toNat false) = report)
    (ready : s.engReady s.cur.cluster s.cur.ctx (engOwner x.id) d.src report = (s2, none)) :
    exec (.stat d) s = .next
      (((s2.engPut s.cur.cluster s.cur.ctx (engOwner x.id) d.src report).engDone s.cur.cluster s.cur.ctx (engOwner x.id)).cmdDone s.cur.cluster s.cur.ctx x.id 1 stOk) := by
  change execStat d s = _
  simp only [execStat, hx, hr, ready]

end

/-! ### Scrubs (R312 to R314, R386) -/

/-- The number of a number's bytes. -/
theorem natOfBytes_pbytes (n v : Nat) (bad : Bool) : natOfBytes (pbytes n v bad) = v % 256 ^ n := by
  induction n generalizing v with
  | zero => simp [natOfBytes, pbytes, Nat.mod_one]
  | succ n ih =>
    have shift : pbytes (n + 1) v bad = (v % 256, bad) :: pbytes n (v / 256) bad := by
      simp only [pbytes, List.range_succ_eq_map, List.map_cons, List.map_map, Nat.pow_zero, Nat.div_one]
      refine congrArg _ (List.map_congr_left fun i _ => ?_)
      simp only [Function.comp_apply, Nat.pow_succ', Nat.div_div_eq_div_mul]
    rw [shift, natOfBytes, List.foldr_cons, ← natOfBytes, ih, Nat.mod_mod, Nat.pow_succ', Nat.mod_mul]

/-- What a scrub finds is the line's mark. -/
theorem atHome_scrub (s : State) (key : Nat) : ((s.atHome key 64 0 .scrub).2.1 = if s.mark key = 0 then 0 else 1) ∧
    ((s.atHome key 64 0 .scrub).2.2.1 = true ↔ 2 ≤ s.mark key ∧ s.mark key ≠ 4) := by
  simp only [State.atHome, State.scrubLine]
  split
  case h_1 h => simp [h]
  case h_2 h => simp [h]
  case h_3 h => simp [h]
  case h_4 h => simp [h]
  case h_5 zero one four two =>
    have marked : s.mark key ≠ 0 := fun h => zero h
    have bad : 2 ≤ s.mark key := Nat.lt_of_le_of_ne (Nat.one_le_iff_ne_zero.mpr marked) fun h => one h.symm
    exact ⟨(if_neg marked).symm, iff_of_true rfl ⟨bad, fun h => four h⟩⟩

/-- The bitmap's doubleword with the bit of block j. -/
def bitmapWord (old j bit : Nat) : Nat := old - (if old.testBit (j % 64) then 2 ^ (j % 64) else 0) + bit * 2 ^ (j % 64)

/-- The bitmap's doubleword before block j: the first of 64 blocks writes all of it (log 26). -/
def State.bitmapOld (s : State) (bkey j : Nat) : Nat := if j % 64 = 0 then 0 else s.rd bkey 8

/-- A state whose scrub of block j of a command is done. -/
def State.scrubbed (s : State) (c k : Nat) (root bm : DWord) (x : Cmd) (key bkey status : Nat) : State :=
  ((((s.atHome key 64 0 .scrub).1.wrAt root bm bkey 8 (bitmapWord (s.bitmapOld bkey x.pos) x.pos (if s.mark key = 0 then 0 else 1))).engDone c k
    (engOwner x.id)).modIssued c k x.id fun x' => { x' with pos := x.pos + 1, status := status })

section
variable {s s1 s2 : State} {d : ScDesc} {x : Cmd} {key bkey : Nat}

theorem exec_scrub (hx : s.issuedCmd? s.cur.cluster s.cur.ctx s.cur.sel = some x) (hq : x.q = 4) (hd : x.done = false) (hs : x.stalled = none)
    (hr : s.running s.cur.cluster s.cur.ctx = true)
    (home : s.engHome s.cur.cluster s.cur.ctx 0 (d.base + BitVec.ofNat 64 (64 * x.pos)) 64 .load = (s1, .ok key))
    (bits : s1.engHome s.cur.cluster s.cur.ctx 0 (d.bitmap + BitVec.ofNat 64 (8 * (x.pos / 64))) 8 .store = (s2, .ok bkey)) (near : isFar bkey = false)
    {status : Nat} (hst : (if 2 ≤ s2.mark key ∧ s2.mark key ≠ 4 then stPoisoned else x.status) = status)
    {t : State} (ht : s2.scrubbed s.cur.cluster s.cur.ctx (s.rootAt s.cur.cluster s.cur.ctx) (d.bitmap + BitVec.ofNat 64 (8 * (x.pos / 64))) x key bkey status = t) :
    exec (.scrub d) s = .next (if x.pos + 1 < d.nblk.toNat then t else t.cmdDone s.cur.cluster s.cur.ctx x.id d.nblk.toNat status) := by
  subst ht hst
  change execScrub d s = _
  obtain ⟨bit, bad⟩ := atHome_scrub s2 key
  have old : (if x.pos % 64 = 0 then 0 else natOfBytes (pbytes 8 (s2.rd bkey 8) false)) = s2.bitmapOld bkey x.pos := by
    rw [natOfBytes_pbytes, ← pow_bits_eq_pow_bytes, Nat.mod_eq_of_lt (State.rd_lt s2 bkey 8)]
    rfl
  simp only [execScrub, hx, hq, hd, hs, hr, home, bits, near, old, bit, bad, ne_eq, not_true_eq_false, Option.isSome_none, Bool.not_true, Bool.false_eq_true, or_self,
    false_and, if_false]
  split <;> rfl

end

/-- Settles O49: each command is the branch that its premises select. -/
theorem linkAndScrubCommands : Obligations.LinkAndScrubCommands := by
  refine ⟨?link, ?scrub⟩
  case link =>
    intro s s1 s2 d x e bs c k p me hx
    refine ⟨fun below free noKey noSend holds => ⟨exec_send_opens hx below free noKey noSend holds rfl, exec_send_data hx below free noKey noSend holds rfl⟩,
      fun turn => ⟨fun key => ⟨exec_keyld_loads hx turn key, exec_keyld_used hx turn key⟩, exec_keyld_unenrolled hx turn,
        fun first unmarked => ⟨exec_keysw_marks hx turn first unmarked, exec_keysw_empty hx turn first unmarked⟩⟩, exec_stat_writes hx rfl⟩
  case scrub =>
    intro s s1 s2 d x key bkey c k j hx hq hd hs hr home bits near m old bit status bm u word t
    have step := exec_scrub hx hq hd hs hr home bits near rfl rfl
    exact ⟨fun more => step.trans (congrArg _ (if_pos more)), fun last => step.trans (congrArg _ (if_neg (Nat.not_lt.mpr last)))⟩

end Sys2Proof.Machine
end

section
/-! O50: a port sends again before it sends anew; what comes from its neighbour is accepted and moves its replay buffer; a gateway batch is applied whole. -/
namespace Sys2Proof.Machine

/-- A change of a port is told by what it makes of the port as it stands. -/
theorem modPort_congr (s : State) (p : Nat) {f g : Port → Port} (h : f (s.port p) = g (s.port p)) : s.modPort p f = s.modPort p g := by
  have same : f (s.ports.get {} p) = g (s.ports.get {} p) := h
  simp only [State.modPort, Map.mod, same]

/-! ### Sending (R336, R337, R401, R404) -/

section
variable {s : State} {port : BitVec 6} {f : Flit}

/-- A flit that a port sends again. -/
def Port.sendsAgain (x : Port) (f : Flit) (recent : List Nat) (now : Nat) : Port :=
  { x with wire := x.wire ++ [f], resend := x.resend - 1, injected := recent ++ [now] }

/-- The flit that a port makes of what waits, under its slot's next counter. -/
def Port.flitOf (x : Port) (q : FlitHdr × List DWord × Option (Nat × Nat × Nat)) : Flit :=
  { hdr := q.1, pay := q.2.1, slotB := x.txOnB, ctr := x.tx.ctr, key := x.tx.key, salt := x.tx.salt, cmd := q.2.2 }

section
variable (live : s.portLive port.toNat = true) (below : (s.recentOf port.toNat).length < s.ceiling port.toNat)
include live below

theorem exec_flitTransmit_again (again : 0 < (s.port port.toNat).resend)
    (hf : (s.port port.toNat).replay[(s.port port.toNat).replay.length - (s.port port.toNat).resend]? = some f) :
    exec (.flitTransmit port) s = .next (s.modPort port.toNat fun x => x.sendsAgain f (s.recentOf port.toNat) (s.portCycles port.toNat)) := by
  change execFlitTransmit port s = _
  simp only [execFlitTransmit, live, Nat.not_le.mpr below, again, hf, Bool.not_true, Bool.false_eq_true, or_self, if_false, if_true]
  rfl

/-- A flit that goes for the first time is kept until it is acknowledged, unless it is itself an answer; a MARK moves the port to its other slot. -/
theorem exec_flitTransmit_first {h : FlitHdr} {pay : List DWord} {cmd : Option (Nat × Nat × Nat)}
    {rest : List (FlitHdr × List DWord × Option (Nat × Nat × Nat))} (ready : s.portReady port.toNat = true) (none : (s.port port.toNat).resend = 0)
    (picked : s.pickFlit port.toNat (s.port port.toNat).outq = some ((h, pay, cmd), rest)) :
    exec (.flitTransmit port) s = .next (s.modPort port.toNat fun x =>
      let y := x.setTx { (s.port port.toNat).tx with ctr := (s.port port.toNat).tx.ctr + 1 }
      { y with
        outq := rest, wire := y.wire ++ [(s.port port.toNat).flitOf (h, pay, cmd)],
        replay := if h.type = 6 ∨ h.type = 7 then y.replay else y.replay ++ [(s.port port.toNat).flitOf (h, pay, cmd)],
        due := if h.type ≠ 6 ∧ h.type ≠ 7 ∧ (s.port port.toNat).replay = [] then s.portCycles port.toNat + 4096 else y.due,
        txOnB := if h.type = 4 then !y.txOnB else y.txOnB, injected := s.recentOf port.toNat ++ [s.portCycles port.toNat] }) := by
  change execFlitTransmit port s = _
  simp only [execFlitTransmit, live, Nat.not_le.mpr below, ready, none, picked, Bool.not_true, Bool.false_eq_true, or_self, if_false, gt_iff_lt, Nat.lt_irrefl]
  refine congrArg _ (modPort_congr s _ ?_)
  by_cases answer : h.type = 6 ∨ h.type = 7
  · rcases answer with six | seven
    · simp [six, Port.flitOf]
    · simp [seven, Port.flitOf]
  · obtain ⟨six, seven⟩ : h.type ≠ 6#4 ∧ h.type ≠ 7#4 := not_or.mp answer
    simp [six, seven, Port.flitOf]

/-- 4,096 port cycles without an ACK send the oldest flit again. -/
theorem exec_resendTimeout_due {r : List Flit} (none : (s.port port.toNat).resend = 0) (due : (s.port port.toNat).due ≤ s.portCycles port.toNat)
    (oldest : (s.port port.toNat).replay = f :: r) :
    exec (.resendTimeout port) s = .next (s.modPort port.toNat fun x =>
      { x with wire := x.wire ++ [f], due := s.portCycles port.toNat + 4096, injected := s.recentOf port.toNat ++ [s.portCycles port.toNat] }) := by
  change execResendTimeout port s = _
  simp only [execResendTimeout, live, none, oldest, Nat.not_lt.mpr due, Nat.not_le.mpr below, gt_iff_lt, Nat.lt_irrefl, Bool.not_true, Bool.false_eq_true,
    or_self, if_false]

end
end

/-! ### Acknowledgements and authentication failures (R336, R401, R402) -/

section
variable {s : State} {port : BitVec 6} {ctr : DWord}
variable (accepted : s.accepts port.toNat (s.cur.sel % 4096) = true)
include accepted

theorem exec_flitAck_held {gone rest : List Flit} (held : ackedPart ((s.accept port.toNat).port port.toNat).replay ctr = some (gone, rest)) :
    exec (.flitAck port ctr) s = .next (gone.foldl (fun s f => s.flitAcked port.toNat f)
      ((s.accept port.toNat).modPort port.toNat fun x =>
        { x with replay := rest, resend := Nat.min x.resend rest.length, due := s.portCycles port.toNat + 4096 })) := by
  change execFlitAck port ctr s = _
  simp only [execFlitAck, accepted, held, Bool.not_true, Bool.false_eq_true, if_false]

theorem exec_flitAck_unknown (unknown : ackedPart ((s.accept port.toNat).port port.toNat).replay ctr = none) :
    exec (.flitAck port ctr) s = .next (s.accept port.toNat) := by
  change execFlitAck port ctr s = _
  simp only [execFlitAck, accepted, unknown, Bool.not_true, Bool.false_eq_true, if_false]

theorem exec_flitNak_accepted :
    exec (.flitNak port ctr) s = .next ((s.accept port.toNat).modPort port.toNat fun x =>
      { x with
        resend := if fromCtr x.replay ctr = [] then x.resend else (fromCtr x.replay ctr).length,
        naks := if fromCtr x.replay ctr = [] then x.naks else x.naks + 1 }) := by
  change execFlitNak port ctr s = _
  simp only [execFlitNak, accepted, List.length_eq_zero_iff, Bool.not_true, Bool.false_eq_true, if_false]

/-- The NAK with the expected counter that answers a flit which fails authentication. -/
def State.nakked (s : State) (p : Nat) : State :=
  (s.sendLater p 7 (s.cur.sel % 4096) 0 0 [(s.port p).rx.ctr] none).modPort p fun x => { x with fails := x.fails + 1 }

theorem exec_flitAuthFailure_early (few : (s.port port.toNat).fails + 1 < 16) :
    exec (.flitAuthFailure port) s = .next (s.nakked port.toNat) := by
  change execFlitAuthFailure port s = _
  simp only [execFlitAuthFailure, accepted, Nat.not_le.mpr few, Bool.not_true, Bool.false_eq_true, if_false]
  rfl

theorem exec_flitAuthFailure_last (many : 16 ≤ (s.port port.toNat).fails + 1) :
    exec (.flitAuthFailure port) s = .next ((s.nakked port.toNat).retrain port.toNat) := by
  change execFlitAuthFailure port s = _
  simp only [execFlitAuthFailure, accepted, many, Bool.not_true, Bool.false_eq_true, if_false, if_true]
  rfl

end

/-! ### Gateway batches (R339) -/

section
variable {s : State} {ptab : DWord} {seq : Word} {ups : List StampUpdate} {cid : Nat} {cx : Ctx}

/-- A batch applied at the meridian unit, with its sender's next number expected. -/
def State.batchApplied (s : State) (cid : Nat) (ups : List StampUpdate) (seq : Word) : State :=
  (s.muLocal cid (ups.map fun u => ⟨u.loc, u.time, u.count⟩)).modCtx cid fun y => { y with gseq := y.gseq.set s.cur.sel ((seq.toNat + 1) % 2 ^ 32) }

variable (known : s.ptabCtx ptab = some (cid, cx)) (turn : cx.gseq.get 0 s.cur.sel = seq.toNat)
  (room : s.muRoom cid (ups.map fun u => ⟨u.loc, u.time, u.count⟩) false = true)
include known turn room

/-- A batch of an aggregate of this module. -/
theorem exec_gatewayMessage_local (here : s.cur.sel < 65536) :
    exec (.gatewayMessage ptab seq ups) s = .next (s.batchApplied cid ups seq) := by
  have noFlits : decide (s.cur.sel / 65536 > 0) = false := decide_eq_false (by omega)
  change execGatewayMessage ptab seq ups s = _
  simp only [execGatewayMessage, noFlits, known, turn, room, ne_eq, not_true_eq_false, Bool.not_true, Bool.false_and, Bool.false_eq_true, or_self, if_false]
  rfl

/-- A batch that came as flits: they are accepted and acknowledged with it. -/
theorem exec_gatewayMessage_flits (far : 65536 ≤ s.cur.sel)
    (ordered : s.cur.slot = 1 → s.earlierThan (BitVec.ofNat 12 (s.cur.sel % 4096)) s.tick s.tick = false)
    (accepted : s.accepts (s.cur.sel / 65536 - 1) (s.cur.sel % 4096) = true)
    (below : (s.port (s.cur.sel / 65536 - 1)).rx.ctr.toNat + (ups.length + 8) / 9 ≤ (s.port (s.cur.sel / 65536 - 1)).plim.toNat) :
    exec (.gatewayMessage ptab seq ups) s = .next ((List.range ((ups.length + 8) / 9)).foldl
      (fun t _ => (t.accept (s.cur.sel / 65536 - 1)).ackFlit (s.cur.sel / 65536 - 1) (s.cur.sel % 4096) (t.port (s.cur.sel / 65536 - 1)).rx.ctr)
      (s.batchApplied cid ups seq)) := by
  have flits : decide (s.cur.sel / 65536 > 0) = true := decide_eq_true (by omega)
  have unheld : (decide (s.cur.slot = 1) && s.earlierThan (BitVec.ofNat 12 (s.cur.sel % 4096)) s.tick s.tick) = false := by
    by_cases one : s.cur.slot = 1
    · rw [ordered one, Bool.and_false]
    · rw [decide_eq_false one, Bool.false_and]
  have fits : decide ((s.port (s.cur.sel / 65536 - 1)).rx.ctr.toNat + (ups.length + 8) / 9 > (s.port (s.cur.sel / 65536 - 1)).plim.toNat) = false :=
    decide_eq_false (Nat.not_lt.mpr below)
  change execGatewayMessage ptab seq ups s = _
  simp only [execGatewayMessage, flits, unheld, accepted, fits, known, turn, room, ne_eq, not_true_eq_false, Bool.not_true, Bool.or_self, Bool.and_false,
    Bool.false_eq_true, or_self, if_false, if_true]
  rfl

end

/-- Settles O50: a flit to be sent again goes first, else the first that may be sent; what comes back frees flits or has them sent again; a batch is applied whole. -/
theorem flitTransmission : Obligations.FlitTransmission := by
  refine ⟨?sending, ?receiving⟩
  case sending =>
    intro s port f h pay cmd rest r
    dsimp only
    intro live below
    exact ⟨exec_flitTransmit_again live below, exec_flitTransmit_first live below, exec_resendTimeout_due live below⟩
  case receiving =>
    intro s port ctr ptab seq ups gone rest cid cx
    dsimp only
    refine ⟨fun accepted => ⟨exec_flitAck_held accepted, exec_flitAck_unknown accepted, exec_flitNak_accepted accepted,
      exec_flitAuthFailure_early accepted, exec_flitAuthFailure_last accepted⟩, ?inside, ?asFlits⟩
    case inside => exact fun here known turn room => exec_gatewayMessage_local known turn room here
    case asFlits => exact fun far ordered accepted below known turn room => exec_gatewayMessage_flits known turn room far ordered accepted below

end Sys2Proof.Machine
end

section
/-! O51: what a module does with an accepted flit, flit type by flit type; then how what is held for a source is performed, one flit after another. -/
namespace Sys2Proof.Machine

/-! ### The types of flits (R334, R337, R394) -/

section
variable {s : State} {port : BitVec 6} {h : FlitHdr}

/-- The flit on a port is acknowledged with the counter that the port expected in `s`. -/
def State.acks (s : State) (p src : Nat) (u : State) : State := u.ackFlit p src (s.port p).rx.ctr

/-- A transfer as an OPEN describes it. -/
def Transfer.openedBy (h : FlitHdr) (addr mode ptab n : DWord) (now : Nat) : Transfer :=
  { src := h.src, xfer := h.xfer, addr := addr, mode := mode, ptab := ptab, n := n.toNat % 256 + 1, at_ := now }

/-- A READ as it is held. -/
def HeldRead.askedBy (h : FlitHdr) (addr len rxfer : DWord) (now : Nat) : HeldRead :=
  { src := h.src, addr := addr, len := len, rxfer := rxfer.truncate 16, at_ := now, ord := decide (h.ord = 1) }

variable (accepted : s.accepts port.toNat h.src.toNat = true)
include accepted

theorem exec_flitOpen_accepted (addr mode ptab n : DWord) :
    exec (.flitOpen port h addr mode ptab n) s = .next (s.acks port.toNat h.src.toNat (((s.accept port.toNat).modPort port.toNat fun x =>
      { x with xfers := (x.xfers.filter fun y => !(decide (y.src = h.src) && decide (y.xfer = h.xfer))) ++ [Transfer.openedBy h addr mode ptab n s.tick] }).settleXfers h.src)) := by
  change execFlitOpen port h addr mode ptab n s = _
  simp only [execFlitOpen, accepted, Bool.not_true, Bool.false_eq_true, if_false]
  rfl

theorem exec_flitData_accepted (pay : List DWord) :
    exec (.flitData port h pay) s = .next (s.acks port.toNat h.src.toNat (((s.accept port.toNat).modPort port.toNat fun x =>
      { x with xfers := x.xfers.map fun y => if y.src = h.src ∧ y.xfer = h.xfer then
        { y with held := y.held.set h.index.toNat ⟨decide (h.ord = 1), s.tick, pay.take (Nat.min 29 (h.nq.toNat + 1))⟩ } else y }).settleXfers h.src)) := by
  change execFlitData port h pay s = _
  simp only [execFlitData, accepted, Bool.not_true, Bool.false_eq_true, if_false]
  rfl

theorem exec_flitRead_accepted (addr len rxfer : DWord) :
    exec (.flitRead port h addr len rxfer) s = .next (s.acks port.toNat h.src.toNat (((s.accept port.toNat).modPort port.toNat fun x =>
      { x with reads := x.reads ++ [HeldRead.askedBy h addr len rxfer s.tick] }).settleXfers h.src)) := by
  change execFlitRead port h addr len rxfer s = _
  simp only [execFlitRead, accepted, Bool.not_true, Bool.false_eq_true, if_false]
  rfl

theorem exec_flitMark_accepted :
    exec (.flitMark port h) s = .next (s.acks port.toNat h.src.toNat ((s.accept port.toNat).modPort port.toNat fun x => { x with rxOnB := !x.rxOnB })) := by
  change execFlitMark port h s = _
  simp only [execFlitMark, accepted, Bool.not_true, Bool.false_eq_true, if_false]
  rfl

/-! An RDATA answers an access of this module's own, or speaks of a SEND, or of nothing. -/

section
variable {pay : List DWord}

/-- The state in which an accepted RDATA is looked at. -/
def State.taken (s : State) (p src : Nat) : State := s.acks p src (s.accept p)

/-- The access is told by its bytes that it is answered. -/
theorem exec_flitRdata_read {q : FarRead} (mine : (s.taken port.toNat h.src.toNat).farAsked port.toNat h.xfer = some q) (reads : q.write = false)
    (data : pay.take (Nat.min 29 (h.nq.toNat + 1)) ≠ []) :
    exec (.flitRdata port h pay) s = .next (((s.taken port.toNat h.src.toNat).wr q.key q.n
      ((pay.take (Nat.min 29 (h.nq.toNat + 1))).foldr (fun w n => w.toNat + 2 ^ 64 * n) 0 % 2 ^ (8 * q.n))).answer1 q .good) := by
  change ((s.accept port.toNat).ackFlit port.toNat h.src.toNat (s.port port.toNat).rx.ctr).farAsked port.toNat h.xfer = some q at mine
  have bytes : ¬ (q.write = true ∨ (pay.take (Nat.min 29 (h.nq.toNat + 1))).isEmpty = true) := by
    rw [reads, List.isEmpty_iff]
    exact not_or.mpr ⟨Bool.false_ne_true, data⟩
  change execFlitRdata port h pay s = _
  simp only [execFlitRdata, accepted, mine, State.answered, bytes, Bool.not_true, Bool.false_eq_true, if_false]
  rfl

/-- A write is answered by an acknowledgement alone; an RDATA to it, and one without bytes, refuses the access. -/
theorem exec_flitRdata_refused {q : FarRead} (mine : (s.taken port.toNat h.src.toNat).farAsked port.toNat h.xfer = some q)
    (refuses : q.write = true ∨ pay.take (Nat.min 29 (h.nq.toNat + 1)) = []) :
    exec (.flitRdata port h pay) s = .next ((s.taken port.toNat h.src.toNat).answer1 q (refusal h)) := by
  change ((s.accept port.toNat).ackFlit port.toNat h.src.toNat (s.port port.toNat).rx.ctr).farAsked port.toNat h.xfer = some q at mine
  rw [← List.isEmpty_iff] at refuses
  change execFlitRdata port h pay s = _
  simp only [execFlitRdata, accepted, mine, State.answered, refuses, Bool.not_true, Bool.false_eq_true, if_false, if_true]
  rfl

section
variable (other : (s.taken port.toNat h.src.toNat).farAsked port.toNat h.xfer = none)
include other

theorem exec_flitRdata_unknown (none : (s.taken port.toNat h.src.toNat).sendOf port.toNat h.xfer = none) :
    exec (.flitRdata port h pay) s = .next (s.taken port.toNat h.src.toNat) := by
  change ((s.accept port.toNat).ackFlit port.toNat h.src.toNat (s.port port.toNat).rx.ctr).farAsked port.toNat h.xfer = _ at other
  change ((s.accept port.toNat).ackFlit port.toNat h.src.toNat (s.port port.toNat).rx.ctr).sendOf port.toNat h.xfer = _ at none
  change execFlitRdata port h pay s = _
  simp only [execFlitRdata, accepted, other, none, Bool.not_true, Bool.false_eq_true, if_false]
  rfl

variable {c k : Nat} {x : Cmd} (sends : (s.taken port.toNat h.src.toNat).sendOf port.toNat h.xfer = some (c, k, x))
include sends

theorem exec_flitRdata_faulted (faulted : DWord.bits (pay.headD 0) 55 48 = stFaulted) :
    exec (.flitRdata port h pay) s = .next ((s.taken port.toNat h.src.toNat).sendFailed c k x (DWord.bits (pay.headD 0) 47 0)) := by
  change ((s.accept port.toNat).ackFlit port.toNat h.src.toNat (s.port port.toNat).rx.ctr).farAsked port.toNat h.xfer = _ at other
  change ((s.accept port.toNat).ackFlit port.toNat h.src.toNat (s.port port.toNat).rx.ctr).sendOf port.toNat h.xfer = _ at sends
  change execFlitRdata port h pay s = _
  simp only [execFlitRdata, accepted, other, sends, faulted, Bool.not_true, Bool.false_eq_true, if_false, if_true]
  rfl

theorem exec_flitRdata_idle (otherwise : DWord.bits (pay.headD 0) 55 48 ≠ stFaulted) :
    exec (.flitRdata port h pay) s = .next (s.taken port.toNat h.src.toNat) := by
  change ((s.accept port.toNat).ackFlit port.toNat h.src.toNat (s.port port.toNat).rx.ctr).farAsked port.toNat h.xfer = _ at other
  change ((s.accept port.toNat).ackFlit port.toNat h.src.toNat (s.port port.toNat).rx.ctr).sendOf port.toNat h.xfer = _ at sends
  change execFlitRdata port h pay s = _
  simp only [execFlitRdata, accepted, other, sends, otherwise, Bool.not_true, Bool.false_eq_true, if_false]
  rfl

end
end
end

/-! ### One flit after another (R335) -/

section
variable {s s1 : State} {src : BitVec 12}

theorem drainXfers_of_some (m : Nat) (due : s.performNext src = some s1) : State.drainXfers (m + 1) src s = State.drainXfers m src s1 := by
  simp only [State.drainXfers, due]

theorem drainXfers_of_none (none : s.performNext src = none) : ∀ m, State.drainXfers m src s = s
  | 0 => rfl
  | m + 1 => by simp only [State.drainXfers, none]

theorem settleXfers_of_some {m : Nat} (held : s.heldFlits src = m + 1) (due : s.performNext src = some s1) :
    s.settleXfers src = State.drainXfers m src s1 := by
  rw [State.settleXfers, held, drainXfers_of_some m due]

/-- What the first transfer of a source on a port has to perform next, if that is due. -/
def State.dueFlit (s : State) (src : BitVec 12) (p : Nat) : Option State :=
  (s.firstXfer p src).bind fun t => (t.held.find? t.got).bind fun f => if f.ord && s.earlierXfer p t f.at_ then none else s.performFlit p t f.pay

/-- A READ of a source that may be performed now. -/
def State.readable (s : State) (src : BitVec 12) (r : HeldRead) : Bool :=
  decide (r.src = src) && !(r.ord && s.earlierThan src r.at_ r.at_) && s.nodeReady r.addr.toNat r.len.toNat

/-- What a port's READs of a source have to perform next, if one may be performed. -/
def State.dueRead (s : State) (src : BitVec 12) (p : Nat) : Option State :=
  ((s.port p).reads.find? (s.readable src)).map fun r =>
    (s.modPort p fun x => { x with reads := x.reads.filter fun q => decide (q ≠ r) }).answerRead p r

theorem performNext_eq (s : State) (src : BitVec 12) :
    s.performNext src = ((List.range 48).findSome? (s.dueFlit src)).orElse fun _ => (List.range 48).findSome? (s.dueRead src) := rfl

/-- No transfer of the source on the port holds its next flit. -/
theorem dueFlit_of_idle {q : Nat} (idle : ∀ y, s.firstXfer q src = some y → y.held.find? y.got = none) : s.dueFlit src q = none := by
  rw [State.dueFlit]
  cases first : s.firstXfer q src with
  | none => rfl
  | some y => rw [Option.bind_some, idle y first]; rfl

theorem dueFlit_of_asks {p : Nat} {t : Transfer} {f : HeldFlit} (first : s.firstXfer p src = some t) (next : t.held.find? t.got = some f)
    (ordered : f.ord = false ∨ s.earlierXfer p t f.at_ = false) : s.dueFlit src p = s.performFlit p t f.pay := by
  have free : (f.ord && s.earlierXfer p t f.at_) = false := Bool.and_eq_false_iff.mpr ordered
  simp only [State.dueFlit, first, next, free, Option.bind_some, Bool.false_eq_true, if_false]

/-- The first port whose transfer holds its next flit goes first. -/
theorem performNext_flit {p : Nat} {t : Transfer} {f : HeldFlit} (hp : p < 48)
    (before : ∀ q < p, ∀ y, s.firstXfer q src = some y → y.held.find? y.got = none) (first : s.firstXfer p src = some t)
    (next : t.held.find? t.got = some f) (ordered : f.ord = false ∨ s.earlierXfer p t f.at_ = false) (performed : s.performFlit p t f.pay = some s1) :
    s.performNext src = some s1 := by
  have here : s.dueFlit src p = some s1 := (dueFlit_of_asks first next ordered).trans performed
  rw [performNext_eq, findSome?_range_first hp (fun q hq => dueFlit_of_idle (before q hq)) here]
  rfl

/-- A READ waits: it is another source's, or an earlier flit is still to come, or its memory is not ready. -/
theorem readable_of_waits {r : HeldRead}
    (waits : r.src = src → (r.ord = true ∧ s.earlierThan src r.at_ r.at_ = true) ∨ s.nodeReady r.addr.toNat r.len.toNat = false) :
    s.readable src r = false := by
  by_cases mine : r.src = src
  · rcases waits mine with ⟨ord, earlier⟩ | unready
    · simp [State.readable, ord, earlier]
    · simp [State.readable, unready]
  · simp [State.readable, mine]

theorem dueRead_of_waits {q : Nat} (waits : ∀ e ∈ (s.port q).reads, s.readable src e = false) : s.dueRead src q = none := by
  have none : (s.port q).reads.find? (s.readable src) = none := List.find?_eq_none.mpr fun e he => by rw [waits e he]; exact Bool.false_ne_true
  rw [State.dueRead, none, Option.map_none]

theorem dueRead_of_split {p : Nat} {r : HeldRead} {l l2 : List HeldRead} (split : (s.port p).reads = l ++ r :: l2)
    (before : ∀ e ∈ l, s.readable src e = false) (here : s.readable src r = true) :
    s.dueRead src p = some ((s.modPort p fun x => { x with reads := x.reads.filter fun q => decide (q ≠ r) }).answerRead p r) := by
  have none : l.find? (s.readable src) = none := List.find?_eq_none.mpr fun e he => by rw [before e he]; exact Bool.false_ne_true
  rw [State.dueRead, split, List.find?_append, none, Option.none_or, List.find?_cons_of_pos here, Option.map_some]

/-- Where no transfer has a flit to perform, the first READ that may be performed is. -/
theorem performNext_read {p : Nat} {r : HeldRead} {l l2 : List HeldRead} (hp : p < 48)
    (idle : ∀ q < 48, ∀ y, s.firstXfer q src = some y → y.held.find? y.got = none)
    (ports : ∀ q < p, ∀ e ∈ (s.port q).reads, s.readable src e = false) (split : (s.port p).reads = l ++ r :: l2)
    (before : ∀ e ∈ l, s.readable src e = false) (here : s.readable src r = true) :
    s.performNext src = some ((s.modPort p fun x => { x with reads := x.reads.filter fun q => decide (q ≠ r) }).answerRead p r) := by
  have noFlit : (List.range 48).findSome? (s.dueFlit src) = none :=
    List.findSome?_eq_none_iff.mpr fun q hq => dueFlit_of_idle (idle q (List.mem_range.mp hq))
  rw [performNext_eq, noFlit, findSome?_range_first hp (fun q hq => dueRead_of_waits (ports q hq)) (dueRead_of_split split before here)]
  rfl

end

/-! ### One flit of a transfer (R334, R390, R392, R394) -/

section
variable {s s1 : State} {p : Nat} {t : Transfer} {pay : List DWord}

/-- The transfer once its next flit is performed; one whose flits are all performed is gone. -/
def State.flitDone (s : State) (p : Nat) (t : Transfer) (bad : Bool) : State :=
  (s.modXfer p t fun y => { y with got := y.got + 1, failed := y.failed || bad, held := y.held.del t.got }).modPort p fun x =>
    { x with xfers := x.xfers.filter fun y => decide (y.got < y.n) }

/-- The address of a transfer's next flit. -/
def Transfer.va (t : Transfer) : DWord := t.addr + BitVec.ofNat 64 (232 * t.got)

/-- The flits after a failure are accepted and perform nothing (log 68). -/
theorem performFlit_failed (failed : t.failed = true) : s.performFlit p t pay = some (s.flitDone p t false) := by
  simp only [State.performFlit, failed, if_true]
  rfl

section
variable (going : t.failed = false)
include going

section
variable (mode : t.mode = 0)
include mode

theorem performFlit_node : s.performFlit p t pay = (s.performNode t.va.toNat t.n pay).map fun r =>
    (if r.2.1 && r.2.2.isEmpty then r.1 else r.1.sendLater p 3 t.src.toNat 0 t.xfer r.2.2 none).flitDone p t !r.2.1 := by
  simp only [State.performFlit, going, mode, Bool.false_eq_true, if_false, if_true]
  rfl

variable (several : t.n ≠ 1)
include several

theorem performFlit_node_unready (unready : s.nodeReady t.va.toNat (8 * pay.length) = false) : s.performFlit p t pay = none := by
  rw [performFlit_node going mode]
  simp only [State.performNode, several, unready, if_false, Bool.not_false, if_true, Option.map_none]

variable (ready : s.nodeReady t.va.toNat (8 * pay.length) = true)
include ready

theorem performFlit_node_stored (stored : s.nodeStore t.va.toNat pay = (s1, true)) : s.performFlit p t pay = some (s1.flitDone p t false) := by
  rw [performFlit_node going mode]
  simp only [State.performNode, several, ready, stored, if_false, Bool.not_true, Bool.false_eq_true, Option.map_some]
  rfl

theorem performFlit_node_refused (refused : s.nodeStore t.va.toNat pay = (s1, false)) :
    s.performFlit p t pay = some ((s1.sendLater p 3 t.src.toNat 0 t.xfer [] none).flitDone p t true) := by
  rw [performFlit_node going mode]
  simp only [State.performNode, several, ready, refused, if_false, Bool.not_true, Bool.false_eq_true, Option.map_some]
  rfl

end

section
variable (mode : t.mode = 1)
include mode

/-- No context has the tables that the transfer names. -/
theorem performFlit_tables_none (unknown : s.ptabCtx t.ptab = none) : s.performFlit p t pay = some ((s.failAnswer p t).flitDone p t true) := by
  simp only [State.performFlit, going, mode, unknown, Bool.false_eq_true, if_false, if_true]
  rfl

variable {cid : Nat} {x : Ctx} (known : s.ptabCtx t.ptab = some (cid, x))
include known

/-- The bytes of a flit. -/
def flitBytes (pay : List DWord) : List PByte := pay.flatMap fun w => pbytes 8 w.toNat false

/-- The record of a transfer's access that faults. -/
def Transfer.info (t : Transfer) (cid : Nat) (x : Ctx) (code d : Nat) (at_ : DWord) : FaultInfo :=
  { kind := 3, code := code, detail := d, acc := 1, cid := cid, va := at_, root := x.root, pos := (at_ - t.addr).toNat,
    cmd := BitVec.ofNat 64 (t.src.toNat * 2 ^ 48 + t.xfer.toNat) }

theorem performFlit_tables_stored (stored : s.virtualStore x t.va (flitBytes pay) = (s1, none)) : s.performFlit p t pay = some (s1.flitDone p t false) := by
  change s.virtualStore x (t.addr + BitVec.ofNat 64 (232 * t.got)) (pay.flatMap fun w => pbytes 8 w.toNat false) = _ at stored
  simp only [State.performFlit, going, mode, known, stored, Bool.false_eq_true, if_false, if_true]
  rfl

/-- The memory of the tables is not ready. -/
theorem performFlit_tables_unready {d : Nat} {at_ : DWord} (unready : s.virtualStore x t.va (flitBytes pay) = (s1, some (0, d, at_))) :
    s.performFlit p t pay = none := by
  change s.virtualStore x (t.addr + BitVec.ofNat 64 (232 * t.got)) (pay.flatMap fun w => pbytes 8 w.toNat false) = _ at unready
  simp only [State.performFlit, going, mode, known, unready, Bool.false_eq_true, if_false, if_true]
  rfl

theorem performFlit_tables_faulted {code d e : Nat} {at_ : DWord} {s2 : State} (fault : code ≠ 0)
    (faulted : s.virtualStore x t.va (flitBytes pay) = (s1, some (code, d, at_))) (recorded : s1.postFault 0 (t.info cid x code d at_) {} = (s2, some e)) :
    s.performFlit p t pay = some ((s2.failAnswer p t).flitDone p t true) := by
  change s.virtualStore x (t.addr + BitVec.ofNat 64 (232 * t.got)) (pay.flatMap fun w => pbytes 8 w.toNat false) = _ at faulted
  rw [Transfer.info] at recorded
  simp only [State.performFlit, going, mode, known, faulted, fault, recorded, Bool.false_eq_true, if_false, if_true]
  rfl

end
end
end

/-- Settles O51: each type of flit has its one effect; what is held for a source is performed in turn; a flit of a transfer is stored, or refused, or waits. -/
theorem flitReception : Obligations.FlitReception := by
  refine ⟨?types, ?order, ?one⟩
  case types =>
    intro s port h addr mode ptab n len rxfer pay c k x q
    dsimp only
    intro accepted
    refine ⟨exec_flitOpen_accepted accepted addr mode ptab n, exec_flitData_accepted accepted pay, exec_flitRead_accepted accepted addr len rxfer,
      exec_flitMark_accepted accepted, exec_flitRdata_read accepted, exec_flitRdata_refused accepted, exec_flitRdata_unknown accepted, ?_⟩
    exact fun other sends => ⟨exec_flitRdata_faulted accepted other sends, exec_flitRdata_idle accepted other sends⟩
  case order =>
    intro s s1 src p r l l2 d t f
    dsimp only
    refine ⟨fun none => drainXfers_of_none none _, fun m => settleXfers_of_some, fun m => drainXfers_of_some m, ?flit, ?read⟩
    case flit => exact fun hp before ⟨first, next⟩ ordered performed => performNext_flit hp before first next ordered performed
    case read =>
      intro hp idle ports split before mine ordered ready answer
      have free : (r.ord && s.earlierThan src r.at_ r.at_) = false := Bool.and_eq_false_iff.mpr ordered
      have here : s.readable src r = true := by simp only [State.readable, mine, free, ready, decide_true, Bool.not_false, Bool.and_self]
      rw [performNext_read hp idle (fun q hq e he => readable_of_waits (ports q hq e he)) split (fun e he => readable_of_waits (before e he)) here,
        State.answerRead, answer, mine]
  case one =>
    intro s s1 s2 p cid t pay x code d at_ e
    dsimp only
    refine ⟨performFlit_failed, ?node, performFlit_tables_none, ?tables⟩
    case node =>
      exact fun going mode several => ⟨performFlit_node_unready going mode several, performFlit_node_stored going mode several,
        performFlit_node_refused going mode several⟩
    case tables =>
      exact fun going mode known => ⟨performFlit_tables_stored going mode known, performFlit_tables_unready going mode known,
        performFlit_tables_faulted going mode known⟩

end Sys2Proof.Machine
end

section
/-! O59: how an entry becomes a candidate and a candidate a context; the order of candidates is lexicographic, so that what the scheduler finds first is
behind no other. -/
namespace Sys2Proof.Machine

/-! ### Launch queues (R316, R379) -/

section
variable {s : State} {q : BitVec 4}

theorem toNat_eq_fifteen : q.toNat = 15 ↔ q = 15 := by
  rw [← BitVec.toNat_inj]
  rfl

theorem exec_launchNotify_moves {tail : BitVec 9} (other : q ≠ 15) (fits : (tail - (s.die (dieOf s.cur.cluster)).lqhead.get 0 q.toNat).toNat ≤ 256) :
    exec (.launchNotify q tail) s = .next (s.modDie (dieOf s.cur.cluster) fun x => { x with lqntf := x.lqntf.set q.toNat tail }) := by
  change execLaunchNotify q tail s = _
  simp only [execLaunchNotify, State.notify, toNat_eq_fifteen, other, Nat.not_lt.mpr fits, or_self, if_false]

theorem exec_launchNotify_stays {tail : BitVec 9} (held : q = 15 ∨ 256 < (tail - (s.die (dieOf s.cur.cluster)).lqhead.get 0 q.toNat).toNat) :
    exec (.launchNotify q tail) s = .next s := by
  change execLaunchNotify q tail s = _
  simp only [execLaunchNotify, State.notify, toNat_eq_fifteen, gt_iff_lt, held, if_true]

/-- The entry at the head of a queue. -/
def State.headEntry (s : State) (d n : Nat) : Nat :=
  s.rd (hbm (((s.die d).lqbase.get (0 : DWord) n).bits 63 11 * 2 ^ 11 + 8 * (((s.die d).lqhead.get (0 : BitVec 9) n).toNat % 256))) 8

/-- The head of a queue moves on from where it stands in `s`. -/
def State.headTaken (s : State) (d n : Nat) (u : State) : State :=
  u.modDie d fun x => { x with lqhead := x.lqhead.set n ((s.die d).lqhead.get (0 : BitVec 9) n + 1) }

/-- The record of a rejected entry. -/
def rejectInfo (n entry reason : Nat) (root : DWord) : FaultInfo :=
  { kind := 4, code := reason, detail := 0, va := BitVec.ofNat 64 entry, root := root, cmd := BitVec.ofNat 64 n }

theorem rejectEntry_full {d n e reason : Nat} {root : DWord} (full : (s.postFault d (rejectInfo n e reason root) { cluster := 48 * d }).2 = none) :
    s.rejectEntry d n e reason root = none := by
  change (match s.postFault d (rejectInfo n e reason root) { cluster := 48 * d } with
    | (_, none) => none
    | (s1, some _) => _) = _
  generalize s.postFault d (rejectInfo n e reason root) { cluster := 48 * d } = posted at full
  obtain ⟨u, r⟩ := posted
  subst full
  rfl

theorem rejectEntry_recorded {d n e reason r : Nat} {root : DWord} {s1 : State}
    (recorded : s.postFault d (rejectInfo n e reason root) { cluster := 48 * d } = (s1, some r)) :
    s.rejectEntry d n e reason root = some (if rcbOk e = true ∧ s.rcbLevel e = 2 then
      ((s1.takeNodes [e]).setRcbState e 5).signalPa (s.rcb e 0x70).toNat 1 stError else s1) := by
  rw [rejectInfo] at recorded
  simp only [State.rejectEntry, recorded, Bool.and_eq_true, decide_eq_true_eq, apply_ite some]

/-- The candidate that an entry becomes. -/
def State.newCand (s : State) (d e : Nat) : Candidate := { rcb := e, readAt := s.dieCycles d, reentry := s.evictedAt e }

section
variable {d e : Nat} (here : d = dieOf s.cur.cluster) (entry : e = s.headEntry d q.toNat) (ready : s.schedReady d = true)
  (own : q ≠ 15 ∨ (s.die d).chainHead = 0) (based : ((s.die d).lqbase.get (0 : DWord) q.toNat).getLsbD 0 = true)
  (waiting : (s.die d).lqhead.get (0 : BitVec 9) q.toNat ≠ (s.die d).lqntf.get 0 q.toNat) (free : (s.die d).cands.find? q.toNat = none)
include here entry ready own based waiting free

omit entry ready based waiting free in
/-- A queue that the return chain does not hold back reads its own head. -/
theorem exec_launchEntryRead_own : exec (.launchEntryRead q) s = .next (s.readEntry d q.toNat none) := by
  have queue : ¬ (q = 15 ∧ (s.die d).chainHead ≠ 0) := fun ⟨chain, held⟩ => own.elim (· chain) held
  change execLaunchEntryRead q s = _
  subst here
  simp only [execLaunchEntryRead, queue, if_false]

omit here entry in
/-- Nothing keeps the queue from being read. -/
theorem readEntry_open : (!(s.schedReady d) || !(((s.die d).lqbase.get (0 : DWord) q.toNat).getLsbD 0) ||
    decide ((s.die d).lqhead.get (0 : BitVec 9) q.toNat = (s.die d).lqntf.get (0 : BitVec 9) q.toNat) || ((s.die d).cands.find? q.toNat).isSome ||
    (decide (q.toNat = 15) && decide ((s.die d).chainHead ≠ 0))) = false := by
  have unheld : (decide (q.toNat = 15) && decide ((s.die d).chainHead ≠ 0)) = false := by
    rcases own with other | empty
    · rw [decide_eq_false (mt toNat_eq_fifteen.mp other), Bool.false_and]
    · rw [decide_eq_false (not_not.mpr empty), Bool.and_false]
  rw [ready, based, decide_eq_false waiting, free, unheld]
  rfl

theorem exec_launchEntryRead_taken {t : Tree} (good : s.checkEntry e = .ok t) :
    exec (.launchEntryRead q) s = .next ((s.headTaken d q.toNat (((s.gainPass d q.toNat t.part).takeNodes (e :: t.job :: t.part :: t.regions)).setRcbState e 1)).modDie d
      fun x => { x with cands := x.cands.set q.toNat (s.newCand d e) }) := by
  rw [exec_launchEntryRead_own here own]
  subst entry
  rw [State.headEntry] at good
  simp only [State.readEntry, readEntry_open ready own based waiting free, good, Bool.false_eq_true, if_false, reduceCtorEq]
  rfl

section
variable {reason : Nat} {root : DWord} (bad : s.checkEntry e = .error (reason, root))
include bad

theorem exec_launchEntryRead_waits (full : (s.postFault d (rejectInfo q.toNat e reason root) { cluster := 48 * d }).2 = none) :
    exec (.launchEntryRead q) s = .next s := by
  have rejected := rejectEntry_full full
  rw [exec_launchEntryRead_own here own]
  subst entry
  rw [State.headEntry] at bad rejected
  simp only [State.readEntry, readEntry_open ready own based waiting free, bad, rejected, Bool.false_eq_true, if_false]

theorem exec_launchEntryRead_rejects {r : Nat} {s1 : State}
    (recorded : s.postFault d (rejectInfo q.toNat e reason root) { cluster := 48 * d } = (s1, some r)) :
    exec (.launchEntryRead q) s = .next (s.headTaken d q.toNat (if rcbOk e = true ∧ s.rcbLevel e = 2 then
      ((s1.takeNodes [e]).setRcbState e 5).signalPa (s.rcb e 0x70).toNat 1 stError else s1)) := by
  have rejected := rejectEntry_recorded recorded
  rw [exec_launchEntryRead_own here own]
  subst entry
  rw [State.headEntry] at bad rejected
  simp only [State.readEntry, readEntry_open ready own based waiting free, bad, rejected, Bool.false_eq_true, if_false]
  rfl

end
end

/-! ### Candidates (R320, R378) -/

section
variable {x : Candidate} (held : (s.die (dieOf s.cur.cluster)).cands.find? q.toNat = some x)
include held

theorem exec_candidateFault_waits (unready : (s.treeReady (dieOf s.cur.cluster) x).2 = false) :
    exec (.candidateFault q) s = .next (s.treeReady (dieOf s.cur.cluster) x).1 := by
  change execCandidateFault q s = _
  simp only [execCandidateFault, held, unready, Bool.not_false, if_true]

/-- A candidate that can never run is ended. -/
theorem exec_candidateFault_ends {flt : SchedFault} {t : Tree} (ready : (s.treeReady (dieOf s.cur.cluster) x).2 = true)
    (bad : s.candBad (dieOf s.cur.cluster) x = some flt) (tree : s.treeOf x.rcb = .ok t) :
    exec (.candidateFault q) s = .next
      (((((s.farDone (farSched x.rcb)).setRcbState x.rcb 5).dumpRecord (dieOf s.cur.cluster) t.root (s.effective t.part [t.job, x.rcb]).dump flt.kind flt.reason 0x3F 0
        flt.at_ 0 x.rcb).signalPa (s.rcb x.rcb 0x70).toNat 1 flt.status).dropCand (dieOf s.cur.cluster) q.toNat t.part) := by
  change execCandidateFault q s = _
  simp only [execCandidateFault, held, ready, bad, tree, Bool.not_true, Bool.false_eq_true, if_false]

theorem exec_waitingPriorityAging_rises (late : x.level < (s.dieCycles (dieOf s.cur.cluster) - x.readAt) / 2 ^ 20) :
    exec (.waitingPriorityAging q) s = .next (s.modDie (dieOf s.cur.cluster) fun y => { y with cands := y.cands.set q.toNat { x with level := x.level + 1 } }) := by
  change execWaitingPriorityAging q s = _
  simp only [execWaitingPriorityAging, held, State.agedBy, late, if_true]

theorem exec_waitingPriorityAging_stays (early : (s.dieCycles (dieOf s.cur.cluster) - x.readAt) / 2 ^ 20 ≤ x.level) :
    exec (.waitingPriorityAging q) s = .next s := by
  change execWaitingPriorityAging q s = _
  simp only [execWaitingPriorityAging, held, State.agedBy, Nat.not_lt.mpr early, if_false]

end
end

/-! ### The order of candidates (R318, R320, R321) -/

section
variable {s : State} {d : Nat} {x y z : Nat × Candidate}

/-- A property of the four dependences of an RCB. -/
theorem all_four {p : Nat → Bool} : ([0, 1, 2, 3].all p) = true ↔ ∀ i < 4, p i = true := by
  rw [List.all_eq_true]
  refine ⟨fun h i hi => h i ?_, fun h i hi => h i ?_⟩
  · simp only [List.mem_cons, List.not_mem_nil, or_false]
    omega
  · simp only [List.mem_cons, List.not_mem_nil, or_false] at hi
    omega

theorem mem_depReady_new (new : x.2.reentry = none) :
    x ∈ s.depReady d ↔ x ∈ s.candsOf d ∧ (s.treeReady d x.2).2 = true ∧ s.candBad d x.2 = none ∧
      ∀ i < 4, s.depOf x.2.rcb i = 0 ∨ s.depCount (s.depOf x.2.rcb i) ≠ 0 ∧ s.depStatus (s.depOf x.2.rcb i) = stOk := by
  simp only [State.depReady, List.mem_filter, new, Option.isSome_none, Bool.false_eq_true, if_false, Bool.and_eq_true, Option.isNone_iff_eq_none, State.depsMet,
    all_four, Bool.or_eq_true, decide_eq_true_eq]

theorem mem_depReady_again (again : x.2.reentry ≠ none) :
    x ∈ s.depReady d ↔ x ∈ s.candsOf d ∧ (s.treeReady d x.2).2 = true ∧ ∀ i < 4, s.depOf x.2.rcb i = 0 ∨ s.depCount (s.depOf x.2.rcb i) ≠ 0 := by
  simp only [State.depReady, List.mem_filter, Option.isSome_iff_ne_none.mpr again, if_true, Bool.and_eq_true, all_four, Bool.or_eq_true, decide_eq_true_eq]

/-- The pass value of a candidate's partition. -/
def State.passOf (s : State) (d : Nat) (x : Nat × Candidate) : Nat := (s.die d).pass.get 0 (s.candPart x.2)

theorem goesBefore_iff : s.goesBefore d x y = true ↔ s.waitPrio y.2 < s.waitPrio x.2 ∨ s.waitPrio x.2 = s.waitPrio y.2 ∧
    (s.passOf d x < s.passOf d y ∨ s.passOf d x = s.passOf d y ∧ x.1 < y.1) := by
  simp only [State.goesBefore, State.passOf, Bool.or_eq_true, Bool.and_eq_true, decide_eq_true_eq, gt_iff_lt]

theorem goesBefore_irrefl : ¬ s.goesBefore d x x = true := by
  rw [goesBefore_iff]
  omega

theorem goesBefore_trans (hxy : s.goesBefore d x y = true) (hyz : s.goesBefore d y z = true) : s.goesBefore d x z = true := by
  rw [goesBefore_iff] at *
  omega

/-- What goes before one candidate goes before any other that does not itself go before it. -/
theorem goesBefore_cotrans (hxz : s.goesBefore d x z = true) : s.goesBefore d x y = true ∨ s.goesBefore d y z = true := by
  simp only [goesBefore_iff] at *
  omega

/-- The scheduler's step through a list: the better of the best so far and the next. -/
def State.better (s : State) (d : Nat) (b : Option (Nat × Candidate)) (x : Nat × Candidate) : Option (Nat × Candidate) := match b with
  | none => some x
  | some y => if s.goesBefore d x y then some x else b

/-- From a best so far, the fold ends at one of the candidates that no other goes before. -/
theorem foldl_better (l : List (Nat × Candidate)) : ∀ b, ∃ m, l.foldl (s.better d) (some b) = some m ∧ m ∈ b :: l ∧ ∀ y ∈ b :: l, ¬ s.goesBefore d y m = true := by
  induction l with
  | nil => exact fun b => ⟨b, rfl, List.mem_singleton_self b, fun y hy => by rw [List.mem_singleton.mp hy]; exact goesBefore_irrefl⟩
  | cons x l ih =>
    intro b
    by_cases first : s.goesBefore d x b = true
    · obtain ⟨m, found, mem, best⟩ := ih x
      have step : s.better d (some b) x = some x := by simp only [State.better, first, if_true]
      refine ⟨m, by rw [List.foldl_cons, step, found], List.mem_cons_of_mem b mem, fun y hy => ?_⟩
      rcases List.mem_cons.mp hy with rfl | hy
      · exact fun before => best x List.mem_cons_self (goesBefore_trans first before)
      · exact best y hy
    · obtain ⟨m, found, mem, best⟩ := ih b
      have step : s.better d (some b) x = some b := by simp only [State.better, first, if_false, Bool.false_eq_true]
      refine ⟨m, by rw [List.foldl_cons, step, found], ?_, fun y hy => ?_⟩
      · rcases List.mem_cons.mp mem with rfl | mem
        · exact List.mem_cons_self
        · exact List.mem_cons_of_mem b (List.mem_cons_of_mem x mem)
      · rcases List.mem_cons.mp hy with rfl | hy
        · exact best y List.mem_cons_self
        rcases List.mem_cons.mp hy with rfl | hy
        · exact fun before => (goesBefore_cotrans (y := b) before).elim first (best b List.mem_cons_self)
        · exact best y (List.mem_cons_of_mem b hy)

theorem firstCand_cons (b : Nat × Candidate) (l : List (Nat × Candidate)) : s.firstCand d (b :: l) = l.foldl (s.better d) (some b) := rfl

theorem firstCand_eq_none {l : List (Nat × Candidate)} : s.firstCand d l = none ↔ l = [] := by
  cases l with
  | nil => exact iff_of_true rfl rfl
  | cons b l =>
    obtain ⟨m, found, _⟩ := foldl_better (s := s) (d := d) l b
    rw [firstCand_cons, found]
    exact iff_of_false (Option.some_ne_none m) (List.cons_ne_nil b l)

/-- What the scheduler finds first is of the list, and none of the list goes before it. -/
theorem firstCand_spec {l : List (Nat × Candidate)} (found : s.firstCand d l = some x) : x ∈ l ∧ ∀ y ∈ l, ¬ s.goesBefore d y x = true := by
  cases l with
  | nil => cases found
  | cons b l =>
    obtain ⟨m, last, mem, best⟩ := foldl_better (s := s) (d := d) l b
    rw [firstCand_cons, last] at found
    obtain rfl := Option.some.inj found
    exact ⟨mem, best⟩

/-- The candidates of which the scheduler chooses while one is held. -/
def State.atLeast (s : State) (d : Nat) (h : Nat × Candidate) : List (Nat × Candidate) :=
  (s.depReady d).filter fun e => decide (e.1 = h.1) || decide (s.waitPrio e.2 > s.waitPrio h.2)

theorem mem_atLeast {h : Nat × Candidate} : x ∈ s.atLeast d h ↔ x ∈ s.depReady d ∧ (x.1 = h.1 ∨ s.waitPrio h.2 < s.waitPrio x.2) := by
  simp only [State.atLeast, List.mem_filter, Bool.or_eq_true, decide_eq_true_eq, gt_iff_lt]

theorem chosen_unheld (unheld : (s.die d).heldQ = none) : s.chosen d = s.firstCand d (s.depReady d) := by
  simp only [State.chosen, unheld, Option.bind_none]

section
variable {n : Nat} (held : (s.die d).heldQ = some n)
include held

theorem chosen_absent (absent : (s.depReady d).find? (fun e => decide (e.1 = n)) = none) : s.chosen d = s.firstCand d (s.depReady d) := by
  simp only [State.chosen, held, Option.bind_some, absent]

theorem chosen_held {h : Nat × Candidate} (present : (s.depReady d).find? (fun e => decide (e.1 = n)) = some h) : s.chosen d = s.firstCand d (s.atLeast d h) := by
  simp only [State.chosen, held, Option.bind_some, present]
  rfl

end

theorem chosen_eq_none : s.chosen d = none ↔ s.depReady d = [] := by
  cases held : (s.die d).heldQ with
  | none => rw [chosen_unheld held, firstCand_eq_none]
  | some n =>
    cases present : (s.depReady d).find? (fun e => decide (e.1 = n)) with
    | none => rw [chosen_absent held present, firstCand_eq_none]
    | some h =>
      have ready : h ∈ s.depReady d := List.mem_of_find?_eq_some present
      rw [chosen_held held present, firstCand_eq_none]
      exact iff_of_false (List.ne_nil_of_mem (mem_atLeast.mpr ⟨ready, Or.inl rfl⟩)) (List.ne_nil_of_mem ready)

end

/-! ### Budgets and places (R319, R322) -/

section
variable {s : State}

theorem foldl_add_eq_sum (l : List Nat) : l.foldl (· + ·) 0 = l.sum := by
  rw [List.sum_eq_foldr, List.foldl_eq_foldr]

theorem budgetFits_iff {tr : Tree} {m : Nat} {me : Effective} : s.budgetFits tr m me = true ↔
    ∀ node ∈ [(s.effective tr.part [tr.job], fun x : Ctx => decide (x.job = tr.job)), (s.effective tr.part [], fun x : Ctx => decide (x.part = tr.part))],
      m + (((s.ctxs.map Prod.snd).filter node.2).map Ctx.bclus).sum ≤ node.1.bclus ∧
        me.bcobj + (((s.ctxs.map Prod.snd).filter node.2).map Ctx.bcobj).sum ≤ node.1.bcobj ∧
        me.bmem + (((s.ctxs.map Prod.snd).filter node.2).map Ctx.bmem).sum ≤ node.1.bmem := by
  simp only [State.budgetFits, foldl_add_eq_sum, Bool.and_eq_true, decide_eq_true_eq, List.forall_mem_cons, List.not_mem_nil, false_imp_iff, implies_true, and_true,
    and_assoc]

/-- A cluster of a die is the one cluster of its rectangle. -/
theorem rectangle_one {d i : Nat} (hi : i < 48) : rectangle (48 * d + i) 1 1 = some [48 * d + i] := by
  have inside : ¬ ((48 * d + i) % 48 / 8 + 1 > 6 ∨ (48 * d + i) % 48 % 8 + 1 > 8) := by omega
  rw [rectangle]
  simp only [inside, if_false]
  simp

section
variable {cid d : Nat} {r : ToPlace}

theorem placeGang_one (c : Nat) : s.placeGang cid [c] [r] = (s.placeOn cid c r).map fun b => (b.1, [b.2]) := rfl

/-- The first place of a die for a region of no gang. -/
def State.dieRoom (s : State) (cid d : Nat) (r : ToPlace) : Option (State × List Placed) :=
  (List.range 48).findSome? fun i => (rectangle (48 * d + i) 1 1).bind fun cs => s.placeGang cid cs [r]

theorem dieRoom_none (full : ∀ b < 48, s.placeOn cid (48 * d + b) r = none) : s.dieRoom cid d r = none := by
  refine List.findSome?_eq_none_iff.mpr fun b hb => ?_
  rw [rectangle_one (List.mem_range.mp hb), Option.bind_some, placeGang_one, full b (List.mem_range.mp hb), Option.map_none]

theorem dieRoom_first {i : Nat} {s1 : State} {p : Placed} (hi : i < 48) (before : ∀ b < i, s.placeOn cid (48 * d + b) r = none)
    (here : s.placeOn cid (48 * d + i) r = some (s1, p)) : s.dieRoom cid d r = some (s1, [p]) := by
  refine findSome?_range_first hi (fun b hb => ?_) ?_
  · rw [rectangle_one (hb.trans hi), Option.bind_some, placeGang_one, before b hb, Option.map_none]
  · rw [rectangle_one hi, Option.bind_some, placeGang_one, here, Option.map_some]

section
variable (alone : r.gang = 0) (n : Nat) (ds : List Nat)
include alone

theorem placeAll_next (full : s.dieRoom cid d r = none) : State.placeAll cid (n + 1) s (d :: ds) [r] [] = State.placeAll cid n s ds [r] [] := by
  rw [State.dieRoom] at full
  simp [State.placeAll, alone, gangSize, full]

theorem placeAll_here {s1 : State} {p : Placed} (room : s.dieRoom cid d r = some (s1, [p])) : State.placeAll cid (n + 1) s (d :: ds) [r] [] = some (s1, [p]) := by
  rw [State.dieRoom] at room
  cases n <;> simp [State.placeAll, alone, gangSize, room]

end

/-- The region goes to the first die of the list that has room. -/
theorem placeAll_first (alone : r.gang = 0) {s1 : State} {p : Placed} (n : Nat) (before : List Nat) (after : List Nat) (full : ∀ a ∈ before, s.dieRoom cid a r = none)
    (room : s.dieRoom cid d r = some (s1, [p])) : State.placeAll cid (n + before.length + 1) s (before ++ d :: after) [r] [] = some (s1, [p]) := by
  induction before with
  | nil => exact placeAll_here alone n after room
  | cons a before ih =>
    rw [List.cons_append, List.length_cons, ← Nat.add_assoc, placeAll_next alone _ _ (full a List.mem_cons_self)]
    exact ih fun b hb => full b (List.mem_cons_of_mem a hb)

/-- The dies before the j-th and those after it. -/
theorem dieOrder_split (d : Nat) {j : Nat} (hj : j < 8) :
    ∃ after, dieOrder d = ((List.range j).map fun a => (d + a) % 8) ++ (d + j) % 8 :: after := by
  obtain ⟨k, hk⟩ := Nat.exists_eq_add_of_lt hj
  refine ⟨(List.range k).map fun i => (d + (j + (i + 1))) % 8, ?_⟩
  rw [dieOrder, hk, Nat.add_assoc, List.range_add, List.map_append, List.range_succ_eq_map, List.map_map, List.map_cons, List.map_map]
  rfl

theorem place_first {j i : Nat} {s1 : State} {p : Placed} (alone : r.gang = 0) (hj : j < 8) (hi : i < 48)
    (here : s.placeOn cid (48 * ((d + j) % 8) + i) r = some (s1, p))
    (before : ∀ a b, a < 8 → b < 48 → a < j ∨ a = j ∧ b < i → s.placeOn cid (48 * ((d + a) % 8) + b) r = none) :
    s.place d cid [r] = some (s1, [p]) := by
  obtain ⟨after, order⟩ := dieOrder_split d hj
  have room : s.dieRoom cid ((d + j) % 8) r = some (s1, [p]) := dieRoom_first hi (fun b hb => before j b hj (hb.trans hi) (Or.inr ⟨rfl, hb⟩)) here
  have full : ∀ a ∈ (List.range j).map fun a => (d + a) % 8, s.dieRoom cid a r = none := by
    refine List.forall_mem_map.mpr fun a ha => dieRoom_none fun b hb => ?_
    have earlier := List.mem_range.mp ha
    exact before a b (earlier.trans hj) hb (Or.inl earlier)
  have fuel : [r].length + 8 = (8 - j) + ((List.range j).map fun a => (d + a) % 8).length + 1 := by
    rw [List.length_map, List.length_range, List.length_singleton]
    omega
  rw [State.place, order, fuel]
  exact placeAll_first alone (8 - j) _ after full room

end

/-- No region of a list has anything of `l`. -/
theorem untaken_iff {m : Map Region} {f : Region → List Nat} {l : List Nat} :
    ((m.any fun r => (f r.2).any fun t => l.contains t) = false) ↔ ∀ g ∈ m, ∀ t ∈ f g.2, t ∉ l := by
  simp only [List.any_eq_false, List.any_eq_true, List.contains_iff_mem, not_exists, not_and]

/-- Every share that the region needs has a base. -/
theorem shares_iff {c : Nat} {pk : Prick} :
    ((List.range 64).any fun site => decide (pk.share site > 0) && (s.shareFor c site (pk.share site)).isNone) = false ↔
      ∀ site < 64, 0 < pk.share site → s.shareFor c site (pk.share site) ≠ none := by
  simp only [List.any_eq_false, List.mem_range, Bool.and_eq_true, decide_eq_true_eq, gt_iff_lt, Option.isNone_iff_eq_none, not_and, ne_eq]

/-- The first of the four slots that is free. -/
theorem find?_slot {m : Map Region} {i : Nat} :
    [0, 1, 2, 3].find? (fun k => (m.find? k).isNone) = some i ↔ i < 4 ∧ m.find? i = none ∧ ∀ h < i, m.find? h ≠ none := by
  have slots : [0, 1, 2, 3] = List.range 4 := rfl
  simp only [slots, List.find?_range_eq_some, List.mem_range, Option.isNone_iff_eq_none, Bool.not_eq_true', Option.isNone_eq_false_iff, Option.isSome_iff_ne_none]
  exact and_left_comm

/-- A cluster takes a region where it is ready and nothing that the region needs is taken; the region gets the first free slot. -/
theorem freeSlot_eq_some {c i : Nat} {pk : Prick} {rings : List Nat} :
    s.freeSlot c pk rings none = some i ↔
      (s.die (dieOf c)).drdy.getLsbD (c % 48) = true ∧ s.schedReady (dieOf c) = true ∧ s.fenced c = false ∧
      (∀ g ∈ (s.cluster c).regions, (∀ t ∈ g.2.tiles, t ∉ pk.tiles.map TileDecl.tile) ∧ ∀ t ∈ g.2.rings, t ∉ rings) ∧
      (∀ site < 64, 0 < pk.share site → s.shareFor c site (pk.share site) ≠ none) ∧
      i < 4 ∧ (s.cluster c).regions.find? i = none ∧ ∀ h < i, (s.cluster c).regions.find? h ≠ none := by
  simp only [State.freeSlot, Option.ite_none_left_eq_some, Bool.not_eq_true, Bool.or_eq_false_iff, Bool.not_eq_false', untaken_iff, shares_iff, find?_slot,
    forall_and, and_assoc, and_true]

end

/-! ### Admission (R319 to R322) -/

section
variable {s : State} {d n : Nat} {x : Candidate} {tr : Tree}

/-- What was recorded of the regions of a candidate's context. -/
def State.candSaved (s : State) (x : Candidate) : List Saved := match x.reentry.bind s.ctx? with
  | some y => y.saved
  | none => []

/-- The regions of a candidate, to be placed. -/
def State.candPlaces (s : State) (x : Candidate) (tr : Tree) : List ToPlace :=
  s.toPlace (s.candRegions x) (s.candSaved x) (s.effective tr.part [tr.job, x.rcb])

/-- The number of a candidate's context. -/
def State.candCid (s : State) (x : Candidate) : Nat := x.reentry.getD s.newCid

/-- The admission of a candidate whose context stands in `u`: state 2, the pass value, the next of its queue, and its regions are loaded. -/
def State.admits (s : State) (d n : Nat) (x : Candidate) (tr : Tree) (ps : List Placed) (u : State) : State :=
  ((((((x.rcb :: ps.map Placed.rcb).foldl (fun s a => s.setRcbState a 2)
    ((u.farDone (farSched x.rcb)).takeNodes (x.rcb :: tr.job :: tr.part :: ps.map Placed.rcb))).modDie d fun y =>
      { y with pass := y.pass.set tr.part (y.pass.get 0 tr.part + 2 ^ 24 / Nat.max 1 (s.effective tr.part []).bclus) }).dropCand d n tr.part).countDie d 0x106).loadCtx d
        (s.candCid x) x.reentry.isSome tr.part ps)

section
variable (tree : s.treeOf x.rcb = .ok tr)
include tree

/-- A candidate is admitted where a new one passes no budget and every region finds a place. -/
theorem admitCand_eq : s.admitCand d n x =
    if (x.reentry.isNone && !(s.budgetFits tr (s.candPlaces x tr).length (s.effective tr.part [tr.job, x.rcb]))) = true then none
    else (s.place d (s.candCid x) (s.candPlaces x tr)).map fun q => s.admits d n x tr q.2 { q.1 with
      ctxs := q.1.ctxs.set (s.candCid x) (s.ctxOf d tr x (s.candPlaces x tr) q.2),
      nextCid := if x.reentry.isSome then q.1.nextCid else (s.candCid x + 1) % 65536 } := by
  simp only [State.admitCand, tree]
  rfl

theorem admitCand_overBudget (new : x.reentry = none) (full : s.budgetFits tr (s.candPlaces x tr).length (s.effective tr.part [tr.job, x.rcb]) = false) :
    s.admitCand d n x = none := by
  rw [admitCand_eq tree, new, full]
  rfl

theorem admitCand_noPlace (noPlace : s.place d (s.candCid x) (s.candPlaces x tr) = none) : s.admitCand d n x = none := by
  rw [admitCand_eq tree, noPlace, Option.map_none, ite_self]

section
variable {s1 : State} {ps : List Placed} (placed : s.place d (s.candCid x) (s.candPlaces x tr) = some (s1, ps))
include placed

theorem admitCand_again (again : x.reentry ≠ none) :
    s.admitCand d n x = some (s.admits d n x tr ps { s1 with ctxs := s1.ctxs.set (s.candCid x) (s.ctxOf d tr x (s.candPlaces x tr) ps) }) := by
  obtain ⟨cid, old⟩ := Option.ne_none_iff_exists'.mp again
  rw [admitCand_eq tree, placed]
  simp only [old, Option.isNone_some, Option.isSome_some, Bool.false_and, Bool.false_eq_true, if_false, if_true, Option.map_some]

/-- A new context as its RCBs and its prickings describe it. -/
def State.freshCtx (s : State) (d : Nat) (x : Candidate) (tr : Tree) (ps : List Placed) : Ctx :=
  { s.newCtx d x.rcb tr with
    regions := ps, colours := s.coloursOf (ps.map Placed.image), allocs := staticRanges (s.coloursOf (ps.map Placed.image)),
    summaries := (s.candPlaces x tr).flatMap fun r => s.summariesOf r.image r.locBase }

theorem admitCand_new (new : x.reentry = none) (fits : s.budgetFits tr (s.candPlaces x tr).length (s.effective tr.part [tr.job, x.rcb]) = true) :
    s.admitCand d n x = some (s.admits d n x tr ps { s1 with
      ctxs := s1.ctxs.set (s.candCid x) (s.freshCtx d x tr ps), nextCid := (s.candCid x + 1) % 65536 }) := by
  have fresh : s.ctxOf d tr x (s.candPlaces x tr) ps = s.freshCtx d x tr ps := by
    simp only [State.ctxOf, new, Option.bind_none]
    rfl
  rw [admitCand_eq tree, placed, fits]
  simp only [new, fresh, Option.isSome_none, Bool.not_true, Bool.and_false, Bool.false_eq_true, if_false, Option.map_some]

end
end
end

section
variable {s : State} {q : BitVec 4} {n : Nat} {x : Candidate}

/-- The state in which a die's scheduler chooses: ages are counted, and what candidates need of other nodes is asked for. -/
def State.looks (s : State) : State := (s.age (dieOf s.cur.cluster)).askCands (dieOf s.cur.cluster)

theorem exec_admission_idle (idle : s.schedReady (dieOf s.cur.cluster) = false ∨ s.looks.chosen (dieOf s.cur.cluster) = none) :
    exec (.admission q) s = .next s.looks := by
  have nothing : (if s.schedReady (dieOf s.cur.cluster) = true then s.looks.chosen (dieOf s.cur.cluster) else none) = none := by
    rcases idle with unready | none
    · rw [unready, if_neg Bool.false_ne_true]
    · rw [none, ite_self]
  rw [State.looks] at nothing
  change execAdmission q s = _
  simp only [execAdmission, nothing]
  rfl

section
variable (chosen : s.looks.chosen (dieOf s.cur.cluster) = some (n, x))
include chosen

/-- The candidate of another queue is chosen. -/
theorem exec_admission_other (other : ¬ (n = q.toNat ∨ n = 16 ∧ q = 15)) : exec (.admission q) s = .next s.looks := by
  by_cases ready : s.schedReady (dieOf s.cur.cluster) = true
  case neg => exact exec_admission_idle (Or.inl (Bool.not_eq_true _ ▸ ready))
  rw [not_or] at other
  rw [State.looks] at chosen
  change execAdmission q s = _
  simp only [execAdmission, ready, chosen, if_true, other, decide_false, Bool.not_false, ne_eq, not_false_eq_true, and_self]
  rfl

variable (ready : s.schedReady (dieOf s.cur.cluster) = true) (its : n = q.toNat ∨ n = 16 ∧ q = 15)
include ready its

omit chosen ready in
/-- The chosen candidate is that of the queue. -/
theorem admission_mine : ¬ (n ≠ q.toNat ∧ (!decide (n = 16 ∧ q = 15)) = true) := by
  rw [Bool.not_eq_true', decide_eq_false_iff_not]
  exact fun ⟨other, chain⟩ => its.elim other chain

theorem exec_admission_held (refused : s.looks.admitCand (dieOf s.cur.cluster) n x = none) :
    exec (.admission q) s = .next (s.looks.modDie (dieOf s.cur.cluster) fun y => { y with heldQ := some n }) := by
  rw [State.looks] at chosen refused
  change execAdmission q s = _
  simp only [execAdmission, ready, chosen, if_true, admission_mine its, if_false, refused]
  rfl

theorem exec_admission_admits {u : State} (fits : s.looks.admitCand (dieOf s.cur.cluster) n x = some u) : exec (.admission q) s = .next u := by
  rw [State.looks] at chosen fits
  change execAdmission q s = _
  simp only [execAdmission, ready, chosen, if_true, admission_mine its, if_false, fits]

end
end

/-! ### Loading (R324, R358) -/

section
variable {s : State} {d cid part : Nat} {again : Bool} {ps : List Placed} {p : Placed} {b : LoadBad} {x : Ctx}

/-- The regions of a context loaded, and its member map written. -/
def State.loaded (s : State) (ps : List Placed) : State := match ps.map fun p => (p.cluster, p.slot) with
  | q :: _ => ((ps.map fun p => (p.cluster, p.slot)).foldl State.loadRegion s).writeMembers q ps
  | [] => (ps.map fun p => (p.cluster, p.slot)).foldl State.loadRegion s

/-- A new context is bound once it is loaded; one that was evicted keeps its bindings. -/
def State.bound (s : State) (cid : Nat) (again : Bool) (ps : List Placed) : State := if again then s.loaded ps else (s.loaded ps).bindCtx cid ps

theorem loadCtx_rejected (rejected : s.rejected d cid part ps = some (p, b)) : s.loadCtx d cid again part ps = s.reject d cid p b := by
  simp only [State.loadCtx, rejected]

section
variable (good : s.rejected d cid part ps = none)
include good

theorem loadCtx_eq : s.loadCtx d cid again part ps = match (s.bound cid again ps).unbound cid ps with
    | some (p, b) => (s.bound cid again ps).reject d cid p b
    | none => s.bound cid again ps := by
  simp only [State.loadCtx, good]
  rfl

theorem loadCtx_unbound (unbound : (s.bound cid again ps).unbound cid ps = some (p, b)) :
    s.loadCtx d cid again part ps = (s.bound cid again ps).reject d cid p b := by
  rw [loadCtx_eq good, unbound]

theorem loadCtx_bound (all : (s.bound cid again ps).unbound cid ps = none) : s.loadCtx d cid again part ps = s.bound cid again ps := by
  rw [loadCtx_eq good, all]

end

theorem reject_eq (known : s.ctx? cid = some x) : s.reject d cid p b =
    (((((s.releaseCtx cid).dropCtx cid).setRcbState x.rcb 5).setRcbState p.rcb 5).dumpRecord d x.root x.dump 1 b.reason b.site b.slot b.at_ p.image p.rcb).signalPa
      x.done 1 stError := by
  simp only [State.reject, known]

end

/-- Settles O59: entries become candidates; of these the first in the order is chosen; it is admitted where it fits. -/
theorem launchAndAdmission : Obligations.LaunchAndAdmission := by
  refine ⟨?queues, ?order, ?room, ?admission, ?loading⟩
  case queues =>
    intro s s1 q tail x flt t
    dsimp only
    refine ⟨exec_launchNotify_moves, exec_launchNotify_stays, ?entry, fun held => ⟨exec_candidateFault_waits held, exec_candidateFault_ends held,
      exec_waitingPriorityAging_rises held, exec_waitingPriorityAging_stays held⟩⟩
    intro ready own based waiting free
    exact ⟨exec_launchEntryRead_taken rfl rfl ready own based waiting free, fun reason root bad =>
      ⟨exec_launchEntryRead_waits rfl rfl ready own based waiting free bad, fun r => exec_launchEntryRead_rejects rfl rfl ready own based waiting free bad⟩⟩
  case order =>
    intro s d n e x y
    dsimp only
    have spec {l : List (Nat × Candidate)} (found : s.firstCand d l = some x) : x ∈ l ∧ (y ∈ l → ¬ _) :=
      (firstCand_spec found).imp_right fun best hy before => best y hy (goesBefore_iff.mpr before)
    refine ⟨rfl, mem_depReady_new, mem_depReady_again, chosen_eq_none, fun unheld found => spec (chosen_unheld unheld ▸ found),
      fun held absent found => spec (chosen_absent held absent ▸ found), fun held present found => ?held⟩
    have same : e.1 = n := of_decide_eq_true (List.find?_some (p := fun a : Nat × Candidate => decide (a.1 = n)) present)
    obtain ⟨mem, best⟩ := spec (chosen_held held present ▸ found)
    rw [mem_atLeast, same] at mem best
    exact ⟨mem.1, mem.2, fun ready high => best ⟨ready, high⟩⟩
  case room =>
    intro s s1 tr m d cid c j i me r p pk rings
    dsimp only
    exact ⟨budgetFits_iff, place_first, freeSlot_eq_some⟩
  case admission =>
    intro s s1 q x n tr ps
    dsimp only
    refine ⟨exec_admission_idle, exec_admission_other, fun ready chosen its tree => ⟨?full, ?noPlace, fun placed => ⟨?new, ?again⟩⟩⟩
    case full => exact fun new full => exec_admission_held chosen ready its (admitCand_overBudget tree new full)
    case noPlace => exact fun noPlace => exec_admission_held chosen ready its (admitCand_noPlace tree noPlace)
    case new => exact fun new fits => exec_admission_admits chosen ready its (admitCand_new tree placed new fits)
    case again => exact fun again => exec_admission_admits chosen ready its (admitCand_again tree placed again)
  case loading =>
    intro s d cid part again ps p b x
    dsimp only
    exact ⟨loadCtx_rejected, loadCtx_unbound, loadCtx_bound, reject_eq⟩

end Sys2Proof.Machine
end

section
/-! O60: the life of an admitted context: set up and start, or restore; retirement; the end of a fault end; and eviction, each by its own moves. -/
namespace Sys2Proof.Machine

/-! ### Set up (R197, R324, R356) -/

section
variable {s : State} {cid c k : Nat} {x : Ctx} {r : Region} (known : s.ctx? cid = some x) (region : s.region? c k = some r)
include known region

theorem setUpRegion_done (done : r.setUp = true ∨ x.ending.isSome = true) : s.setUpRegion cid (c, k) = s := by
  simp only [State.setUpRegion, known, region, done, if_true]

/-- The entry block of a region: its pricking's, or that of its context. -/
def State.entryOf (s : State) (x : Ctx) (r : Region) : DWord := if r.entry = 0 then s.rcb x.rcb 0x40 else r.entry

variable (fresh : r.setUp = false) (going : x.ending = none)
include fresh going

theorem setUpRegion_waits (full : s.muRoom cid r.sourceUps false = false) : s.setUpRegion cid (c, k) = s.muWait cid (4096 * c + 3584 + k) r.sourceUps false := by
  simp only [State.setUpRegion, known, region, fresh, going, full, Option.isSome_none, Bool.false_eq_true, or_self, if_false, Bool.not_false, if_true]

variable (room : s.muRoom cid r.sourceUps false = true)
include room

/-- The entry block is none, or cannot be fetched yet. -/
theorem setUpRegion_faults {s1 : State} {code d : Nat} {a : DWord} (fault : s.checkJump c k (s.entryOf x r) = (s1, some (code, d, a))) :
    s.setUpRegion cid (c, k) = if code = 0 then s1 else s1.faultEnd cid code d (s.entryOf x r) a 0 := by
  rw [State.entryOf] at *
  simp only [State.setUpRegion, known, region, fresh, going, room, fault, Option.isSome_none, Bool.false_eq_true, or_self, if_false, Bool.not_true]

theorem setUpRegion_sets {s1 : State} (block : s.checkJump c k (s.entryOf x r) = (s1, none)) :
    s.setUpRegion cid (c, k) = ((((s1.muApply cid r.sourceUps).muGo cid (4096 * c + 3584 + k) r.sourceUps).modStream c k fun _ =>
      { startStream (s.entryOf x r) r.eff.trapvec (s.rcb x.rcb 0x78) (s.rcb x.rcb 0x80) with phase := .idle }).modRegion c k fun r =>
        { r with setUp := true }).modCtx cid fun y => { y with sources := r.sourceUps.foldl (fun m u => m.set u.loc [u.time]) y.sources } := by
  rw [State.entryOf] at *
  simp only [State.setUpRegion, known, region, fresh, going, room, block, Option.isSome_none, Bool.false_eq_true, or_self, if_false, Bool.not_true]

end

/-- The RCBs of a context and of its regions show a state. -/
def Ctx.setStates (x : Ctx) (v : Nat) (s : State) : State := (x.rcb :: x.regions.map Placed.rcb).foldl (fun s a => s.setRcbState a v) s

/-! ### Start and restore (R324, R329, R422) -/

section
variable {s : State} {cid : Nat} {x : Ctx} (known : s.ctx? cid = some x)
variable (placed : x.regions ≠ []) (going : x.ending = none) (waiting : x.running = false)
include known placed going waiting

section
variable (new : x.saved = [])
include new

/-- The regions of a context, set up one by one. -/
def State.setUpAll (s : State) (cid : Nat) (x : Ctx) : State := x.places.foldl (fun s q => s.setUpRegion cid q) s

theorem exec_contextStart_starts (all : ∀ q ∈ x.places, ∃ r, (s.setUpAll cid x).region? q.1 q.2 = some r ∧ r.setUp = true)
    (fine : ∃ y, (s.setUpAll cid x).ctx? cid = some y ∧ y.ending = none) :
    exec (.contextStart cid) s = .next ((s.setUpAll cid x).startAll cid x) := by
  obtain ⟨y, still, live⟩ := fine
  rw [State.setUpAll] at *
  change execContextStart cid s = _
  simp only [execContextStart, known, List.isEmpty_eq_false_iff.mpr placed, going, waiting, new, Option.isSome_none, Bool.false_eq_true, or_self, if_false,
    List.isEmpty_nil, Bool.not_true]
  rw [if_pos]
  rw [Bool.and_eq_true, List.all_eq_true]
  refine ⟨fun q hq => ?_, by simp only [still, live, Option.isNone_none]⟩
  obtain ⟨r, found, done⟩ := all q hq
  simp only [found, done]

theorem exec_contextStart_waits (one : ∃ q ∈ x.places, ∀ r, (s.setUpAll cid x).region? q.1 q.2 = some r → r.setUp = false) :
    exec (.contextStart cid) s = .next (s.setUpAll cid x) := by
  obtain ⟨q, hq, undone⟩ := one
  rw [State.setUpAll] at *
  change execContextStart cid s = _
  simp only [execContextStart, known, List.isEmpty_eq_false_iff.mpr placed, going, waiting, new, Option.isSome_none, Bool.false_eq_true, or_self, if_false,
    List.isEmpty_nil, Bool.not_true]
  rw [if_neg]
  rw [Bool.and_eq_true, List.all_eq_true]
  intro ⟨all, _⟩
  have set := all q hq
  cases found : (x.places.foldl (fun s q => s.setUpRegion cid q) s).region? q.1 q.2 with
  | none => simp only [found, Bool.false_eq_true] at set
  | some r => simp only [found, undone r found, Bool.false_eq_true] at set

end

section
variable (evicted : x.saved ≠ [])
include evicted

theorem exec_contextStart_restores : exec (.contextStart cid) s = .next (s.restoreCtx cid x) := by
  change execContextStart cid s = _
  simp only [execContextStart, known, List.isEmpty_eq_false_iff.mpr placed, going, waiting, List.isEmpty_eq_false_iff.mpr evicted, Option.isSome_none, Bool.false_eq_true, or_self, if_false,
    Bool.not_false, if_true]

end
end

section
variable {s : State} {cid : Nat} {x : Ctx}

/-- The seal of the image of a context's i-th region verifies. -/
def State.sealedAt (s : State) (x : Ctx) (i : Nat) : Bool := s.sealOk (x.places.getD i (0, 0)).1 x (x.part? x.saved.length i).1

/-- The pointstamps that a restored context brings back. -/
def Ctx.savedUps (x : Ctx) : List Upd := x.savedStamps.map fun p => ⟨p.loc, p.time, p.count⟩

/-- The number under which a restore waits for the meridian unit. -/
def Ctx.restorer (x : Ctx) : Nat := 4096 * (x.places.getD 0 (0, 0)).1 + 3588

/-- Every region of the context had started. -/
def Ctx.begun (x : Ctx) : Bool := x.saved.all fun v => v.region.started

theorem restoreCtx_asks (unready : (s.imagesReady x).2 = false) : s.restoreCtx cid x = (s.imagesReady x).1 := by
  simp only [State.restoreCtx, unready, Bool.not_false, if_true]

section
variable (ready : (s.imagesReady x).2 = true)
include ready

/-- The first image whose seal does not verify ends the context. -/
theorem restoreCtx_broken {i : Nat} (hi : i < x.saved.length) (broken : s.sealedAt x i = false) (before : ∀ j < i, s.sealedAt x j = true) :
    s.restoreCtx cid x = s.faultEnd cid 0x0A 2 0 (x.part? x.saved.length i).1 0 := by
  have first : (List.range x.saved.length).find? (fun i => !(s.sealOk (x.places.getD i (0, 0)).1 x (x.part? x.saved.length i).1)) = some i := by
    rw [List.find?_range_eq_some]
    exact ⟨by rw [← State.sealedAt, broken]; rfl, List.mem_range.mpr hi, fun j hj => by rw [← State.sealedAt, before j hj]; rfl⟩
  simp only [State.restoreCtx, ready, first, Bool.not_true, Bool.false_eq_true, if_false]

variable (verified : ∀ i < x.saved.length, s.sealedAt x i = true)
include verified

/-- A context as it goes on with everything recorded written back. -/
def State.restored (s : State) (cid : Nat) (x : Ctx) : State :=
  let t := (x.saved.zip x.places).foldl (fun s e => s.restoreRegion e.1 e.2) ((s.muApply cid x.savedUps).muGo cid x.restorer x.savedUps)
  ((if x.begun then x.setStates 3 t else t).farDone (farSched x.rcb)).modCtx cid fun y => { y with running := x.begun, saved := [], savedStamps := [] }

/-- With every seal verified, the context goes on where its stamps and everything recorded find room. -/
theorem restoreCtx_verified : s.restoreCtx cid x =
    if s.muRoom cid x.savedUps false = false then s.muWait cid x.restorer x.savedUps false
    else if ((x.saved.zip x.places).all fun e => s.restoreFits e.1 e.2) = false then s
    else s.restored cid x := by
  have intact : (List.range x.saved.length).find? (fun i => !(s.sealOk (x.places.getD i (0, 0)).1 x (x.part? x.saved.length i).1)) = none :=
    List.find?_eq_none.mpr fun i hi => by rw [← State.sealedAt, verified i (List.mem_range.mp hi)]; exact Bool.false_ne_true
  have first : x.places.headD (0, 0) = x.places.getD 0 (0, 0) := by cases x.places <;> rfl
  simp only [State.restoreCtx, ready, intact, first, Bool.not_true, Bool.false_eq_true, if_false, Bool.not_eq_true']
  rfl

theorem restoreCtx_full (full : s.muRoom cid x.savedUps false = false) : s.restoreCtx cid x = s.muWait cid x.restorer x.savedUps false := by
  rw [restoreCtx_verified ready verified, if_pos full]

variable (room : s.muRoom cid x.savedUps false = true)
include room

theorem restoreCtx_cramped (cramped : ∃ e ∈ x.saved.zip x.places, s.restoreFits e.1 e.2 = false) : s.restoreCtx cid x = s := by
  have unfit : ((x.saved.zip x.places).all fun e => s.restoreFits e.1 e.2) = false := by
    simpa only [List.all_eq_false, Bool.not_eq_true] using cramped
  rw [restoreCtx_verified ready verified, room, if_neg Bool.false_ne_true.symm, if_pos unfit]

theorem restoreCtx_fits (fits : ∀ e ∈ x.saved.zip x.places, s.restoreFits e.1 e.2 = true) : s.restoreCtx cid x = s.restored cid x := by
  rw [restoreCtx_verified ready verified, room, List.all_eq_true.mpr fits, if_neg Bool.false_ne_true.symm, if_neg Bool.false_ne_true.symm]

end
end

/-! ### Retirement (R326) -/

section
variable {s : State} {cid : Nat} {x : Ctx}

theorem mayRetire_iff : s.mayRetire cid x = true ↔ x.ending = none ∧ x.regions ≠ [] ∧ x.saved = [] ∧ s.stampsOf cid = [] ∧
    ∀ q ∈ x.places, (s.stream q.1 q.2).phase = .exited ∧ s.sinksEnded q = true := by
  simp only [State.mayRetire, Bool.and_eq_true, Option.isNone_iff_eq_none, Bool.not_eq_true', List.isEmpty_eq_false_iff, List.isEmpty_iff, List.all_eq_true,
    decide_eq_true_eq]
  tauto

variable (known : s.ctx? cid = some x)
include known

theorem exec_retire_may (may : s.mayRetire cid x = true) :
    exec (.retire cid) s = .next (((x.setStates 4 ((s.releaseCtx cid).dropCtx cid)).signalPa x.done 1 stOk).jobDone x.job) := by
  change execRetire cid s = _
  simp only [execRetire, known, may, Bool.not_true, Bool.false_eq_true, if_false]
  rfl

/-! ### The end of a fault end (R364, R420) -/

section
variable {code detail idx : Nat} {blk addr : DWord} {killed : Bool} (ending : x.ending = some (code, detail, blk, addr, idx, killed))
include ending

theorem exec_postMortemComplete_asks (unready : (s.imageReady cid x).2 = false) :
    exec (.postMortemComplete cid) s = .next (s.imageReady cid x).1 := by
  change execPostMortemComplete cid s = _
  simp only [execPostMortemComplete, known, ending, unready, Bool.not_false, if_true]

/-- The image of a context that ends with a cause; that of a killed one does not say where it stood. -/
def endImage (code detail idx : Nat) (blk addr : DWord) (killed : Bool) : ImageInfo :=
  { kind := if killed then 2 else 1, cause := detail % 256 * 256 + code % 256, blk := if killed then 0 else blk, idx := if killed then 0 else idx,
    addr := if killed then 0 else addr }

theorem exec_postMortemComplete_ends (ready : (s.imageReady cid x).2 = true) :
    exec (.postMortemComplete cid) s = .next ((x.setStates 5
      ((((((s.imageReady cid x).1.writeImages cid x (endImage code detail idx blk addr killed)).farDone (farSched x.rcb)).dropRecords cid).releaseCtx cid).dropCtx
        cid)).signalPa x.done 1 (if killed then stAborted else stFaulted)) := by
  change execPostMortemComplete cid s = _
  simp only [execPostMortemComplete, known, ending, ready, Bool.not_true, Bool.false_eq_true, if_false]
  rfl

end

/-! ### Eviction (R328, R422) -/

section
variable (evicting : x.evicting = true) (placed : x.regions ≠ []) (going : x.ending = none) (unsaved : x.saved = [])
include evicting placed going unsaved

/-- The regions of a context where they are placed. -/
def State.regionsOf (s : State) (x : Ctx) : List ((Nat × Nat) × Region) := x.places.filterMap fun q => (s.region? q.1 q.2).map fun r => (q, r)

/-- A stream stops: where it stood in a block, that is counted. -/
def State.streamStopped (s : State) (q : Nat × Nat) : State :=
  ((if (s.stream q.1 q.2).phase = .inBlock ∨ (s.stream q.1 q.2).phase = .committing then s.count q.1 3 q.2 else s).farDrop q.1 q.2).modStream q.1 q.2 Stream.stopped

/-- No collective is in flight, every stream can stop and the commands that issued are done. -/
def State.mayStop (s : State) (x : Ctx) : Prop := x.colls = [] ∧ ∀ q ∈ x.places, s.canStop q.1 q.2 = true ∧ s.issuedDone q.1 q.2 = true

omit known evicting placed going unsaved in
theorem mayStop_iff : ((x.places.all fun q => s.canStop q.1 q.2 && s.issuedDone q.1 q.2) && x.colls.isEmpty) = true ↔ s.mayStop x := by
  simp only [State.mayStop, Bool.and_eq_true, List.all_eq_true, List.isEmpty_iff]
  exact and_comm

section
variable (unsent : ∃ e ∈ s.regionsOf x, e.2.snapSent = false)
include unsent

omit known evicting placed going unsaved in
theorem regionsOf_unsent : ((s.regionsOf x).any fun e => !e.2.snapSent) = true := by
  simpa only [List.any_eq_true, Bool.not_eq_true'] using unsent

theorem exec_evictionComplete_held (held : ¬ s.mayStop x ∨ s.injectSnaps cid x = none) : exec (.evictionComplete cid) s = .next s := by
  have left := regionsOf_unsent unsent
  rw [State.regionsOf] at left
  change execEvictionComplete cid s = _
  simp only [execEvictionComplete, known, evicting, List.isEmpty_eq_false_iff.mpr placed, going, unsaved, left, Option.isSome_none, List.isEmpty_nil, Bool.not_true,
    Bool.false_eq_true, or_self, if_false, if_true]
  rcases held with never | noRoom
  · rw [if_neg (mt mayStop_iff.mp never)]
  · rw [noRoom, ite_self]

theorem exec_evictionComplete_snaps {t : State} (may : s.mayStop x) (sent : s.injectSnaps cid x = some t) :
    exec (.evictionComplete cid) s = .next (x.places.foldl State.streamStopped t) := by
  have left := regionsOf_unsent unsent
  rw [State.regionsOf] at left
  change execEvictionComplete cid s = _
  simp only [execEvictionComplete, known, evicting, List.isEmpty_eq_false_iff.mpr placed, going, unsaved, left, Option.isSome_none, List.isEmpty_nil, Bool.not_true,
    Bool.false_eq_true, or_self, if_false, if_true, mayStop_iff.mpr may, sent]
  rfl

end

section
variable (sent : ∀ e ∈ s.regionsOf x, e.2.snapSent = true)
include sent

omit known evicting placed going unsaved in
theorem regionsOf_sent : ((s.regionsOf x).any fun e => !e.2.snapSent) = false := by
  simpa only [List.any_eq_false, Bool.not_eq_true', Bool.not_eq_false] using sent

theorem exec_evictionComplete_forwards (unrecorded : x.places.all s.regionRecorded = false) :
    exec (.evictionComplete cid) s = .next (x.places.foldl (fun s q => s.forwardMx cid q) s) := by
  have done := regionsOf_sent sent
  rw [State.regionsOf] at done
  change execEvictionComplete cid s = _
  simp only [execEvictionComplete, known, evicting, List.isEmpty_eq_false_iff.mpr placed, going, unsaved, done, unrecorded, Option.isSome_none, List.isEmpty_nil, Bool.not_true,
    Bool.not_false, Bool.false_eq_true, or_self, if_false, if_true]

variable (recorded : x.places.all s.regionRecorded = true)
include recorded

theorem exec_evictionComplete_asks (unready : (s.imageReady cid x).2 = false) : exec (.evictionComplete cid) s = .next (s.imageReady cid x).1 := by
  have done := regionsOf_sent sent
  rw [State.regionsOf] at done
  change execEvictionComplete cid s = _
  simp only [execEvictionComplete, known, evicting, List.isEmpty_eq_false_iff.mpr placed, going, unsaved, done, recorded, unready, Option.isSome_none, List.isEmpty_nil,
    Bool.not_true, Bool.not_false, Bool.false_eq_true, or_self, if_false, if_true]

/-- The context off its clusters, with its images written and what was recorded kept. -/
def State.evictedFrom (s : State) (cid : Nat) (x : Ctx) : State :=
  (((((s.imageReady cid x).1.writeImages cid x { kind := 3 }).farDone (farSched x.rcb)).dropRecords cid).releaseCtx cid).modCtx cid fun y =>
    { y with
      regions := [], running := false, saved := (s.regionsOf x).map (fun e => s.saveRegion e.1 e.2), savedStamps := s.stampsOf cid, ranges := [] }

theorem exec_evictionComplete_evicts (ready : (s.imageReady cid x).2 = true) :
    exec (.evictionComplete cid) s = .next (((x.setStates 1 (s.evictedFrom cid x)).requeue x.die x.rcb).countDie x.die 0x107) := by
  have done := regionsOf_sent sent
  rw [State.regionsOf] at done
  change execEvictionComplete cid s = _
  simp only [execEvictionComplete, known, evicting, List.isEmpty_eq_false_iff.mpr placed, going, unsaved, done, recorded, ready, Option.isSome_none, List.isEmpty_nil,
    Bool.not_true, Bool.false_eq_true, or_self, if_false]
  rfl

end
end
end

/-- Settles O60: a context is set up, starts or is restored, retires, or ends with its image, or is evicted, each as it stands. -/
theorem contextLife : Obligations.ContextLife := by
  refine ⟨?setUp, fun s cid x known => ⟨?start, ?restore, exec_retire_may known, mayRetire_iff, ?fault, ?evict⟩⟩
  case setUp =>
    intro s s1 cid c k x r code d a known region
    dsimp only
    refine ⟨setUpRegion_done known region, fun fresh going => ⟨setUpRegion_waits known region fresh going, fun room => ⟨?_, ?_⟩⟩⟩
    · exact setUpRegion_faults known region fresh going room
    · exact setUpRegion_sets known region fresh going room
  case start =>
    intro placed going waiting new
    exact ⟨exec_contextStart_starts known placed going waiting new, exec_contextStart_waits known placed going waiting new⟩
  case restore =>
    intro placed going waiting evicted
    dsimp only
    rw [exec_contextStart_restores known placed going waiting evicted]
    refine ⟨fun unready => congrArg _ (restoreCtx_asks unready), fun ready => ⟨fun i hi broken before => congrArg _ (restoreCtx_broken ready hi broken before),
      fun verified => ⟨fun full => congrArg _ (restoreCtx_full ready verified full), fun room => ⟨?_, ?_⟩⟩⟩⟩
    · exact fun cramped => congrArg _ (restoreCtx_cramped ready verified room cramped)
    · exact fun fits => congrArg _ (restoreCtx_fits ready verified room fits)
  case fault =>
    intro code detail blk addr idx killed ending
    exact ⟨exec_postMortemComplete_asks known ending, exec_postMortemComplete_ends known ending⟩
  case evict =>
    intro evicting placed going unsaved
    refine ⟨fun unsent => ⟨?_, ?_⟩, ?_, fun sent recorded => ⟨?_, ?_⟩⟩
    · exact exec_evictionComplete_held known evicting placed going unsaved unsent
    · exact fun t => exec_evictionComplete_snaps known evicting placed going unsaved unsent
    · exact exec_evictionComplete_forwards known evicting placed going unsaved
    · exact exec_evictionComplete_asks known evicting placed going unsaved sent recorded
    · exact exec_evictionComplete_evicts known evicting placed going unsaved sent recorded

end Sys2Proof.Machine
end

section
/-! O7, O12, O13: bytes read back after a write; the orders of times; and frontiers, whose minimal elements and their meets lie at or below every time that was there. -/
namespace Sys2Proof

/-! ### The orders of times (R60) -/

namespace Time

theorem le_iff {s t : Time} : s.le t = true ↔
    s.c0.toNat ≤ t.c0.toNat ∧ s.c1.toNat ≤ t.c1.toNat ∧ s.c2.toNat ≤ t.c2.toNat ∧ s.c3.toNat ≤ t.c3.toNat := by
  simp [le, and_assoc]

theorem forall_coord {P : Nat → Prop} : (∀ i, i < 4 → P i) ↔ P 0 ∧ P 1 ∧ P 2 ∧ P 3 := by
  constructor
  · exact fun h => ⟨h 0 (by decide), h 1 (by decide), h 2 (by decide), h 3 (by decide)⟩
  · rintro ⟨h0, h1, h2, h3⟩ i hi
    match i, hi with
    | 0, _ => exact h0
    | 1, _ => exact h1
    | 2, _ => exact h2
    | 3, _ => exact h3

theorem exists_coord {P : Nat → Prop} : (∃ i, i < 4 ∧ P i) ↔ P 0 ∨ P 1 ∨ P 2 ∨ P 3 := by
  have h := @forall_coord (fun i => ¬ P i)
  have e : (∃ i, i < 4 ∧ P i) ↔ ¬ ∀ i, i < 4 → ¬ P i := by simp
  rw [e, h]; tauto

theorem le_iff_coord {s t : Time} : s.le t = true ↔ ∀ i, i < 4 → s.coord i ≤ t.coord i :=
  le_iff.trans (forall_coord (P := fun i => s.coord i ≤ t.coord i)).symm

/-- The key is the number whose digits are the coordinates, the first one highest. -/
theorem key_eq (t : Time) : t.key = ((t.c0.toNat * 2 ^ 16 + t.c1.toNat) * 2 ^ 16 + t.c2.toNat) * 2 ^ 16 + t.c3.toNat := by
  have digit (a n : Nat) (b : BitVec 16) : a <<< 16 ||| b.toNat = a * 2 ^ 16 + b.toNat := by
    rw [← Nat.shiftLeft_add_eq_or_of_lt b.isLt, Nat.shiftLeft_eq]
  simp only [key, BitVec.toNat_append, digit _ 0]

theorem toNat_bmax {n : Nat} (a b : BitVec n) : (bmax a b).toNat = Nat.max a.toNat b.toNat := by
  unfold bmax; split <;> (show _ = max _ _) <;> omega

theorem toNat_bmin {n : Nat} (a b : BitVec n) : (bmin a b).toNat = Nat.min a.toNat b.toNat := by
  unfold bmin; split <;> (show _ = min _ _) <;> omega

theorem coord_join (s t : Time) (i : Nat) : (s.join t).coord i = Nat.max (s.coord i) (t.coord i) := by
  match i with
  | 0 | 1 | 2 | _ + 3 => exact toNat_bmax ..

theorem coord_meet (s t : Time) (i : Nat) : (s.meet t).coord i = Nat.min (s.coord i) (t.coord i) := by
  match i with
  | 0 | 1 | 2 | _ + 3 => exact toNat_bmin ..

theorem key_lt_iff {s t : Time} : s.key < t.key ↔ ∃ i, i < 4 ∧ s.coord i < t.coord i ∧ ∀ j, j < i → s.coord j = t.coord j := by
  have below (i : Nat) (hi : i < 4) : (∀ j, j < i → s.coord j = t.coord j) ↔ ∀ j, j < 4 → (j < i → s.coord j = t.coord j) :=
    ⟨fun h j _ => h j, fun h j hj => h j (by omega) hj⟩
  have e : (∃ i, i < 4 ∧ s.coord i < t.coord i ∧ ∀ j, j < i → s.coord j = t.coord j) ↔
      ∃ i, i < 4 ∧ (s.coord i < t.coord i ∧ ∀ j, j < 4 → (j < i → s.coord j = t.coord j)) :=
    exists_congr fun i => and_congr_right fun hi => and_congr_right fun _ => below i hi
  rw [e, exists_coord]
  simp only [forall_coord, key_eq, coord]
  have := s.c0.isLt; have := s.c1.isLt; have := s.c2.isLt; have := s.c3.isLt
  have := t.c0.isLt; have := t.c1.isLt; have := t.c2.isLt; have := t.c3.isLt
  omega

theorem eq_of_key_eq {s t : Time} (h : s.key = t.key) : s = t := by
  rw [key_eq, key_eq] at h
  have := s.c0.isLt; have := s.c1.isLt; have := s.c2.isLt; have := s.c3.isLt
  have := t.c0.isLt; have := t.c1.isLt; have := t.c2.isLt; have := t.c3.isLt
  cases s; cases t
  simp only [Time.mk.injEq, ← BitVec.toNat_inj] at *
  omega

theorem key_le_of_le {s t : Time} (h : s.le t = true) : s.key ≤ t.key := by
  obtain ⟨h0, h1, h2, h3⟩ := le_iff.mp h
  rw [key_eq, key_eq]; omega

@[simp] theorem le_refl (t : Time) : t.le t = true := by simp [le_iff]

theorem le_trans {s t u : Time} (h : s.le t = true) (k : t.le u = true) : s.le u = true := by
  rw [le_iff] at *; omega

theorem lt_iff {s t : Time} : s.lt t = true ↔ s.le t = true ∧ s ≠ t := by simp [lt]

theorem key_lt_of_lt {s t : Time} (h : s.lt t = true) : s.key < t.key := by
  obtain ⟨le, ne⟩ := lt_iff.mp h
  exact Nat.lt_of_le_of_ne (key_le_of_le le) fun e => ne (eq_of_key_eq e)

theorem meet_le_left (s t : Time) : (s.meet t).le s = true :=
  le_iff_coord.mpr fun i _ => coord_meet s t i ▸ Nat.min_le_left ..

theorem meet_le_right (s t : Time) : (s.meet t).le t = true :=
  le_iff_coord.mpr fun i _ => coord_meet s t i ▸ Nat.min_le_right ..

@[simp] theorem zero_le (t : Time) : zero.le t = true := by simp [le_iff, zero]

end Time

/-! ### Frontiers (R64, R66) -/

theorem complete_iff {f : List Time} {t : Time} : complete f t = true ↔ ∀ x ∈ f, x.le t = false := by
  simp [complete]

/-- Every time of `ts` has one of `f` at or below it. -/
def Below (f ts : List Time) : Prop := ∀ x ∈ ts, ∃ y ∈ f, y.le x = true

theorem Below.complete {f ts : List Time} {t : Time} (h : Below f ts) (hc : complete f t = true) : Sys2Proof.complete ts t = true := by
  rw [complete_iff] at *
  intro x hx
  obtain ⟨y, hy, le⟩ := h x hx
  cases e : x.le t with
  | false => rfl
  | true => exact absurd (Time.le_trans le e) (by simp [hc y hy])

theorem Below.trans {f g ts : List Time} (h : Below f g) (k : Below g ts) : Below f ts := fun x hx =>
  let ⟨y, hy, le⟩ := k x hx
  let ⟨z, hz, le'⟩ := h y hy
  ⟨z, hz, Time.le_trans le' le⟩

theorem mem_insTime {t x : Time} {l : List Time} : x ∈ insTime t l ↔ x = t ∨ x ∈ l := by
  induction l with
  | nil => simp [insTime]
  | cons u r ih =>
    unfold insTime
    split
    · next e => simp [e]
    · split
      · simp
      · simp [ih]; tauto

theorem length_insTime_le (t : Time) (l : List Time) : (insTime t l).length ≤ l.length + 1 := by
  induction l with
  | nil => exact Nat.le_refl _
  | cons u r ih =>
    unfold insTime
    split
    · exact Nat.le_succ _
    · split
      · exact Nat.le_refl _
      · exact Nat.succ_le_succ ih

/-- The times in order, each once. -/
def sortTimes (ts : List Time) : List Time := ts.foldl (fun a t => insTime t a) []

theorem mem_sortTimes {x : Time} {ts : List Time} : x ∈ sortTimes ts ↔ x ∈ ts := by
  have h (l : List Time) : x ∈ ts.foldl (fun a t => insTime t a) l ↔ x ∈ l ∨ x ∈ ts := by
    induction ts generalizing l with
    | nil => simp
    | cons t r ih => rw [List.foldl_cons, ih, mem_insTime, List.mem_cons]; tauto
  simpa [sortTimes] using h []

theorem length_sortTimes_le (ts : List Time) : (sortTimes ts).length ≤ ts.length := by
  have h (l : List Time) : (ts.foldl (fun a t => insTime t a) l).length ≤ l.length + ts.length := by
    induction ts generalizing l with
    | nil => exact Nat.le_refl _
    | cons t r ih =>
      have := ih (insTime t l)
      have := length_insTime_le t l
      rw [List.foldl_cons, List.length_cons]; omega
  simpa [sortTimes] using h []

theorem mem_minimal {x : Time} {ts : List Time} : x ∈ minimal ts ↔ x ∈ ts ∧ ∀ u ∈ ts, u.lt x = false := by
  have e : minimal ts = (sortTimes ts).filter fun t => !((sortTimes ts).any fun u => u.lt t) := rfl
  simp [e, mem_sortTimes]

theorem length_minimal_le (ts : List Time) : (minimal ts).length ≤ ts.length :=
  (List.length_filter_le ..).trans (length_sortTimes_le ts)

theorem minimal_antichain {ts : List Time} {x y : Time} (hx : x ∈ minimal ts) (hy : y ∈ minimal ts) (ne : x ≠ y) : x.le y = false := by
  cases e : x.le y with
  | false => rfl
  | true => exact absurd (Time.lt_iff.mpr ⟨e, ne⟩) (by simp [(mem_minimal.mp hy).2 x (mem_minimal.mp hx).1])

/-- Below every time of a list lies a minimal one. -/
theorem below_minimal (ts : List Time) : Below (minimal ts) ts := by
  intro x hx
  induction h : x.key using Nat.strong_induction_on generalizing x with
  | _ k ih =>
    by_cases hm : ∀ u ∈ ts, u.lt x = false
    · exact ⟨x, mem_minimal.mpr ⟨hx, hm⟩, Time.le_refl x⟩
    · simp only [not_forall, Bool.not_eq_false] at hm
      obtain ⟨u, hu, lt⟩ := hm
      obtain ⟨y, hy, le⟩ := ih u.key (h ▸ Time.key_lt_of_lt lt) u hu rfl
      exact ⟨y, hy, Time.le_trans le (Time.lt_iff.mp lt).1⟩

/-- What one round of the reduction leaves lies below what was there. -/
theorem below_meet (a b : Time) (r : List Time) : Below (a.meet b :: r) (a :: b :: r) := by
  intro x hx
  rcases List.mem_cons.mp hx with rfl | hx
  · exact ⟨_, .head _, Time.meet_le_left ..⟩
  · rcases List.mem_cons.mp hx with rfl | hx
    · exact ⟨_, .head _, Time.meet_le_right ..⟩
    · exact ⟨x, .tail _ hx, Time.le_refl x⟩

/-- A list of pairwise incomparable times. -/
def Antichain (l : List Time) : Prop := ∀ x ∈ l, ∀ y ∈ l, x ≠ y → x.le y = false

theorem antichain_minimal (ts : List Time) : Antichain (minimal ts) := fun _ hx _ hy => minimal_antichain hx hy

/-- The reduction ends with 8 times at most, incomparable, and below all that were there. -/
theorem reduce8_spec {k : Nat} {l : List Time} (hk : l.length ≤ 8 + k) (ha : Antichain l) :
    (reduce8 k l).length ≤ 8 ∧ Antichain (reduce8 k l) ∧ Below (reduce8 k l) l := by
  have refl (l : List Time) : Below l l := fun x hx => ⟨x, hx, Time.le_refl x⟩
  induction k generalizing l with
  | zero => exact ⟨hk, ha, refl l⟩
  | succ k ih =>
    unfold reduce8
    split
    · next h => exact ⟨h, ha, refl l⟩
    · split
      · next a b r e =>
        have len : l.length = r.length + 2 := by rw [← List.length_reverse, e]; rfl
        have short : (minimal (a.meet b :: r)).length ≤ 8 + k := (length_minimal_le _).trans (by simp; omega)
        have back : Below (a :: b :: r) l := fun x hx => ⟨x, e ▸ List.mem_reverse.mpr hx, Time.le_refl x⟩
        obtain ⟨h8, hc, hb⟩ := ih short (antichain_minimal _)
        exact ⟨h8, hc, hb.trans ((below_minimal _).trans ((below_meet a b r).trans back))⟩
      · next h9 short =>
        exfalso
        match e : l.reverse with
        | a :: b :: r => exact short a b r e
        | [] | [_] =>
          have := congrArg List.length e
          rw [List.length_reverse] at this
          simp only [List.length_cons, List.length_nil] at this
          omega

theorem reduce8_of_length_le {k : Nat} {l : List Time} (h : l.length ≤ 8) : reduce8 k l = l := by
  cases k with
  | zero => rfl
  | succ k => rw [reduce8, if_pos h]

theorem frontierOf_spec (ts : List Time) : (frontierOf ts).length ≤ 8 ∧ Antichain (frontierOf ts) ∧ Below (frontierOf ts) ts :=
  let ⟨h8, ha, hb⟩ := reduce8_spec (k := (minimal ts).length) (Nat.le_add_left ..) (antichain_minimal ts)
  ⟨h8, ha, hb.trans (below_minimal ts)⟩

/-- What is complete under some times is so under the minimal ones, and back. -/
theorem complete_minimal (ts : List Time) (t : Time) : complete (minimal ts) t = complete ts t :=
  Bool.eq_iff_iff.mpr ⟨(below_minimal ts).complete, fun h => complete_iff.mpr fun x hx => complete_iff.mp h x (mem_minimal.mp hx).1⟩

/-! ### The statements -/

/-- Settles O7: what a write leaves is read byte by byte and as a whole. -/
theorem memoryReadsAndWrites : Obligations.MemoryReadsAndWrites := by
  intro m a n v
  refine ⟨?_, fun i hi => ?_, fun k hk => Machine.readByte_writeLe_outside m v hk, Machine.wf_writeLe a n v⟩
  · rw [Machine.readLe_writeLe, Machine.pow_bits_eq_pow_bytes]
  · rw [Machine.readByte_writeLe m v hi, Machine.pow_bits_eq_pow_bytes]

/-- Settles O12: a key's digits are the coordinates. -/
theorem timeOrder : Obligations.TimeOrder := fun s t =>
  ⟨Time.le_iff_coord, Time.lt_iff, fun i _ => ⟨Time.coord_join s t i, Time.coord_meet s t i⟩, Time.key_lt_iff,
    (Nat.lt_trichotomy s.key t.key).imp_right (Or.imp_left Time.eq_of_key_eq), Time.key_le_of_le⟩

/-- Settles O13: the reduction of the minimal times keeps 8 at most, each below what it stands for. -/
theorem frontierLaws : Obligations.FrontierLaws := by
  refine ⟨fun f t => ⟨complete_iff, by simp [complete], by simp [complete]⟩, fun ts => ?_⟩
  obtain ⟨h8, ha, hb⟩ := frontierOf_spec ts
  refine ⟨h8, ha, fun t => hb.complete, fun hm t => ?_⟩
  rw [frontierOf, reduce8_of_length_le hm, complete_minimal]

end Sys2Proof
end

section
/-! O14: an update of a list of pointstamps is one equation, the entries of other places and then the new count; a batch is such updates, and messages to other modules. -/
namespace Sys2Proof.Machine

/-! ### One update (R68, R70) -/

/-- What keys a pointstamp: its context, location and time. -/
def Stamp.place (p : Stamp) : Nat × Nat × Time := (p.cid, p.loc, p.time)

/-- The entry of a place with a count, none where that is zero. -/
def liveEntry (k : Nat × Nat × Time) (n : Int) : List Stamp := if n = 0 then [] else [⟨k.1, k.2.1, k.2.2, n⟩]

/-- The entries of other places. -/
def otherPlaces (l : List Stamp) (k : Nat × Nat × Time) : List Stamp := l.filter fun p => decide (p.place ≠ k)

theorem at_place (p : Stamp) (cid loc : Nat) (t : Time) :
    (decide (p.cid = cid) && decide (p.loc = loc) && decide (p.time = t)) = decide (p.place = (cid, loc, t)) := by
  simp [Stamp.place, Prod.ext_iff, Bool.and_assoc]

theorem countAt_eq_sum (l : List Stamp) (cid loc : Nat) (t : Time) :
    countAt l cid loc t = ((l.filter fun p => decide (p.place = (cid, loc, t))).map Stamp.count).sum := by
  simp only [countAt, at_place, List.sum_eq_foldl]

theorem countAt_append (l m : List Stamp) (cid loc : Nat) (t : Time) : countAt (l ++ m) cid loc t = countAt l cid loc t + countAt m cid loc t := by
  simp [countAt_eq_sum]

theorem countAt_liveEntry (k : Nat × Nat × Time) (n : Int) (cid loc : Nat) (t : Time) :
    countAt (liveEntry k n) cid loc t = if k = (cid, loc, t) then n else 0 := by
  have place : Stamp.place ⟨k.1, k.2.1, k.2.2, n⟩ = k := rfl
  unfold liveEntry
  split
  · next hn => simp [countAt_eq_sum, hn]
  · by_cases hk : k = (cid, loc, t)
    · rw [countAt_eq_sum, List.filter_cons_of_pos (by simpa [place] using hk)]; simp [hk]
    · rw [countAt_eq_sum, List.filter_cons_of_neg (by simpa [place] using hk)]; simp [hk]

theorem countAt_otherPlaces (l : List Stamp) (k : Nat × Nat × Time) (cid loc : Nat) (t : Time) :
    countAt (otherPlaces l k) cid loc t = if k = (cid, loc, t) then 0 else countAt l cid loc t := by
  simp only [countAt_eq_sum, otherPlaces, List.filter_filter]
  split
  · next h => subst h; simp [List.filter_eq_nil_iff.mpr]
  · next h =>
    congr 3; funext p
    simp only [← Bool.decide_and, decide_eq_decide]
    exact ⟨And.left, fun e => ⟨e, e ▸ Ne.symm h⟩⟩

theorem otherPlaces_of_forall_ne {l : List Stamp} {k : Nat × Nat × Time} (h : ∀ p ∈ l, p.place ≠ k) : otherPlaces l k = l :=
  List.filter_eq_self.mpr fun p hp => decide_eq_true (h p hp)

theorem countAt_of_forall_ne {l : List Stamp} {cid loc : Nat} {t : Time} (h : ∀ p ∈ l, p.place ≠ (cid, loc, t)) : countAt l cid loc t = 0 := by
  rw [countAt_eq_sum, List.filter_eq_nil_iff.mpr fun p hp => by simpa using h p hp]; rfl

/-- A keyed list holds one entry of a place, which has its count. -/
theorem countAt_of_mem {l : List Stamp} {p : Stamp} (h : Keyed l) (hp : p ∈ l) : countAt l p.cid p.loc p.time = p.count := by
  have one : l.filter (fun q => decide (q.place = p.place)) = [p] := by
    obtain ⟨nodup, -⟩ := h
    induction l with
    | nil => cases hp
    | cons q r ih =>
      obtain ⟨fresh, nodup⟩ := List.nodup_cons.mp nodup
      have fresh : ∀ x ∈ r, x.place ≠ q.place := fun x hx e => fresh (List.mem_map.mpr ⟨x, hx, e⟩)
      rcases List.mem_cons.mp hp with rfl | hr
      · rw [List.filter_cons_of_pos (by simp), List.filter_eq_nil_iff.mpr fun x hx => by simpa using fresh x hx]
      · rw [List.filter_cons_of_neg (by simpa using (fresh p hr).symm), ih hr nodup]
  have place : (p.cid, p.loc, p.time) = p.place := rfl
  rw [countAt_eq_sum, place, one]; simp

/-- An update leaves the entries of other places, and at its own the sum of the counts in 32 bits. -/
theorem stampAdd_eq {l : List Stamp} (h : Keyed l) (cid : Nat) (u : Upd) : stampAdd l cid u =
    otherPlaces l (cid, u.loc, u.time) ++ liveEntry (cid, u.loc, u.time) ((countAt l cid u.loc u.time + u.n).bmod (2 ^ 32)) := by
  have others : l.filter (fun q => !decide (q.place = (cid, u.loc, u.time))) = otherPlaces l (cid, u.loc, u.time) := by simp [otherPlaces]
  unfold stampAdd
  simp only [at_place]
  split
  · next p e =>
    have hp : p.place = (cid, u.loc, u.time) := by simpa using List.find?_some e
    obtain ⟨rfl, hl, ht⟩ : p.cid = cid ∧ p.loc = u.loc ∧ p.time = u.time := by simpa [Stamp.place] using hp
    have hc : countAt l p.cid u.loc u.time = p.count := by rw [← hl, ← ht]; exact countAt_of_mem h (List.mem_of_find?_eq_some e)
    simp only [others, hc, liveEntry]
    split
    · simp
    · rw [← hl, ← ht]
  · next e =>
    have none : ∀ p ∈ l, p.place ≠ (cid, u.loc, u.time) := fun p hp => by simpa using List.find?_eq_none.mp e p hp
    rw [otherPlaces_of_forall_ne none, countAt_of_forall_ne none, Int.zero_add, liveEntry]
    split
    · simp
    · rfl

/-- An update keeps the entries of a list apart and live. -/
theorem keyed_stampAdd {l : List Stamp} (h : Keyed l) (cid : Nat) (u : Upd) : Keyed (stampAdd l cid u) := by
  rw [stampAdd_eq h]
  obtain ⟨nodup, live⟩ := h
  generalize (countAt l cid u.loc u.time + u.n).bmod (2 ^ 32) = n
  have kept : Keyed (otherPlaces l (cid, u.loc, u.time)) :=
    ⟨nodup.sublist ((List.filter_sublist).map _), fun p hp => live p (List.mem_filter.mp hp).1⟩
  by_cases hn : n = 0
  · simpa [liveEntry, hn] using kept
  · obtain ⟨nodup, live⟩ := kept
    simp only [liveEntry, hn, if_false]
    refine ⟨?_, fun p hp => ?_⟩
    · rw [List.map_append, List.nodup_append]
      refine ⟨nodup, List.nodup_singleton _, fun a ha b hb e => ?_⟩
      obtain ⟨p, hp, rfl⟩ := List.mem_map.mp ha
      have other : p.place ≠ (cid, u.loc, u.time) := by simpa using (List.mem_filter.mp hp).2
      exact other (e.trans (List.mem_singleton.mp hb))
    · rcases List.mem_append.mp hp with hp | hp
      · exact live p hp
      · rw [List.mem_singleton.mp hp]; exact hn

theorem countAt_stampAdd {l : List Stamp} (h : Keyed l) (cid : Nat) (u : Upd) (k loc : Nat) (t : Time) :
    countAt (stampAdd l cid u) k loc t =
      if (cid, u.loc, u.time) = (k, loc, t) then (countAt l k loc t + u.n).bmod (2 ^ 32) else countAt l k loc t := by
  rw [stampAdd_eq h, countAt_append, countAt_otherPlaces, countAt_liveEntry]
  split
  · next e => obtain ⟨rfl, rfl, rfl⟩ : cid = k ∧ u.loc = loc ∧ u.time = t := by simpa using e
              simp
  · simp

/-! ### A batch (R69, R339) -/

/-- A cluster without its pointstamps and the waits for their room. -/
def Cluster.sansStamps (x : Cluster) : Cluster := { x with stamps := [], muWait := 0, muReported := false }

/-- `t` has the memory of `s`, and its clusters but for pointstamps. -/
structure State.SameButStamps (s t : State) : Prop where
  mem : t.mem = s.mem
  marks : t.marks = s.marks
  cluster : ∀ c, (t.cluster c).sansStamps = (s.cluster c).sansStamps

namespace State.SameButStamps

theorem trans {s t u : State} (h : s.SameButStamps t) (g : t.SameButStamps u) : s.SameButStamps u :=
  ⟨g.mem.trans h.mem, g.marks.trans h.marks, fun c => (g.cluster c).trans (h.cluster c)⟩

theorem of_clusters {s t : State} (hm : t.mem = s.mem) (hk : t.marks = s.marks) (hc : t.clusters = s.clusters) : s.SameButStamps t :=
  ⟨hm, hk, fun c => by simp only [State.cluster, hc]⟩

theorem refl (s : State) : s.SameButStamps s := of_clusters rfl rfl rfl

theorem ite {s t u : State} {p : Prop} [Decidable p] (ht : s.SameButStamps t) (hu : s.SameButStamps u) : s.SameButStamps (if p then t else u) := by
  split <;> assumption

theorem foldl {α : Type} (l : List α) {g : State → α → State} (h : ∀ (s : State) a, s.SameButStamps (g s a)) (s : State) : s.SameButStamps (l.foldl g s) :=
  List.foldlRecOn (motive := fun t => s.SameButStamps t) l g (refl s) fun t ht a _ => ht.trans (h t a)

theorem modCluster (s : State) (c : Nat) {f : Cluster → Cluster} (h : ∀ x, (f x).sansStamps = x.sansStamps) : s.SameButStamps (s.modCluster c f) := by
  refine ⟨rfl, rfl, fun l => ?_⟩
  simp only [State.cluster, State.modCluster_clusters, Map.get_mod]
  split
  · next e => rw [h, e]
  · rfl

theorem stream {s t : State} (h : s.SameButStamps t) (c k : Nat) : t.stream c k = s.stream c k := by
  have same := congrArg Cluster.streams (h.cluster c)
  exact congrArg (fun m : Map Stream => m.get {} k) same

end State.SameButStamps

/-- A list of pointstamps that has become shorter. -/
def Cluster.shorter (x : Cluster) (l : List Stamp) : Bool := decide (l.length < x.stamps.length)

/-- A cluster's pointstamps after an update, and the wait for room that a freed entry ends. -/
def Cluster.stampPut (x y : Cluster) (cid : Nat) (u : Upd) : Cluster :=
  if x.shorter (stampAdd y.stamps cid u) then { y with stamps := stampAdd y.stamps cid u, muWait := 0, muReported := false }
  else { y with stamps := stampAdd y.stamps cid u }

/-- One update at the MU of its location. -/
def State.muStep (cid : Nat) (s : State) (u : Upd) : State :=
  let at_ := s.locCluster cid u.loc
  let s1 := s.modCluster at_ fun y => (s.cluster at_).stampPut y cid u
  if (s.cluster at_).shorter (s1.cluster at_).stamps then s1.modDie (dieOf at_) fun d => { d with aggWait := 0, aggReported := false } else s1

theorem muLocal_eq (s : State) (cid : Nat) (us : List Upd) : s.muLocal cid us =
    (us.filter fun u => decide (u.n < 0)).foldl (State.muStep cid) ((us.filter fun u => decide (u.n > 0)).foldl (State.muStep cid) s) := rfl

theorem muStep_frame (cid : Nat) (s : State) (u : Upd) : s.SameButStamps (s.muStep cid u) := by
  have put := State.SameButStamps.modCluster s (s.locCluster cid u.loc)
    (f := fun y => (s.cluster (s.locCluster cid u.loc)).stampPut y cid u) fun x => by unfold Cluster.stampPut; split <;> rfl
  exact .ite (put.trans (.of_clusters rfl rfl rfl)) put

theorem muLocal_frame (s : State) (cid : Nat) (us : List Upd) : s.SameButStamps (s.muLocal cid us) := by
  rw [muLocal_eq]
  exact (State.SameButStamps.foldl _ (muStep_frame cid) s).trans (.foldl _ (muStep_frame cid) _)

theorem gateTo_frame (s : State) (cid : Nat) (us : List Upd) (m : Nat) : s.SameButStamps (s.gateTo cid us m) := by
  unfold State.gateTo
  split
  · exact .refl s
  · dsimp only
    refine .trans ?_ (.foldl _ (fun s i => ?_) _)
    · exact .trans (.of_clusters rfl rfl rfl) (.of_clusters (State.modCtx_mem ..) (State.modCtx_marks ..) (State.modCtx_clusters ..))
    · exact .of_clusters rfl rfl rfl

theorem muApply_frame (s : State) (cid : Nat) (us : List Upd) : s.SameButStamps (s.muApply cid us) :=
  (muLocal_frame s cid us).trans (.foldl _ (fun s m => gateTo_frame s cid us m) _)

/-- The updates of a batch change neither contexts nor ports. -/
theorem muLocal_ctxs_ports (s : State) (cid : Nat) (us : List Upd) : (s.muLocal cid us).ctxs = s.ctxs ∧ (s.muLocal cid us).ports = s.ports := by
  have step (s : State) (u : Upd) : (s.muStep cid u).ctxs = s.ctxs ∧ (s.muStep cid u).ports = s.ports := by
    unfold State.muStep; dsimp only; split <;> exact ⟨rfl, rfl⟩
  have steps (l : List Upd) (s : State) : (l.foldl (State.muStep cid) s).ctxs = s.ctxs ∧ (l.foldl (State.muStep cid) s).ports = s.ports :=
    List.foldlRecOn (motive := fun t : State => t.ctxs = s.ctxs ∧ t.ports = s.ports) l _ ⟨rfl, rfl⟩
      fun t ht u _ => ⟨(step t u).1.trans ht.1, (step t u).2.trans ht.2⟩
  rw [muLocal_eq]
  exact ⟨(steps _ _).1.trans (steps _ _).1, (steps _ _).2.trans (steps _ _).2⟩

/-- A context that lies on this module alone sends no message. -/
theorem muApply_of_no_peers {s : State} {cid : Nat} (us : List Upd) (h : ∀ x, s.ctx? cid = some x → x.peers = []) :
    s.muApply cid us = s.muLocal cid us := by
  unfold State.muApply
  split
  · next x e => rw [h x e, ite_self]; rfl
  · rfl

/-- Settles O14: an update is the equation `stampAdd_eq`; a batch is updates and messages. -/
theorem pointstampCounts : Obligations.PointstampCounts := by
  intro l cid loc t u
  refine ⟨fun h => ⟨keyed_stampAdd h cid u, ?_, fun ne => ?_, fun k ne => ?_⟩, fun s us => ?_⟩
  · rw [countAt_stampAdd h, if_pos rfl]
  · rw [countAt_stampAdd h, if_neg fun e => ne (by simpa using e)]
  · rw [countAt_stampAdd h, if_neg fun e => ne (by simpa using (congrArg Prod.fst e).symm)]
  · have frame := muApply_frame s cid us
    refine ⟨frame.mem, frame.marks, frame.stream, fun h => ?_, frame.cluster⟩
    rw [muApply_of_no_peers us h]
    exact muLocal_ctxs_ports s cid us

end Sys2Proof.Machine
end

section
/-! O9: the frame names the box beside a CE as the only one that its firing changes, but an output drains by the type of the element, not by the site it stands at. -/
namespace Sys2Proof.Machine

/-- An element of type AG at site 0, where a CE stands, with a token in o0 that no word of its box takes, and a word of memory slice interface 0 that takes
its channel (R17, R192). -/
def agAtCeSite : State :=
  { clusters := [(0, { sites :=
      [(0, { elems := [(0, { typ := typAg, out0 := [{ kind := kDense }] })] }),
       (56, { words := [{ net := 0, out := 0, inp := 2, ctx := 0, vc := 0, mc := false }] })] })] }

/-- A firing of that element that reads nothing. -/
def agAtCeSiteFiring : Firing := { c := 0, k := 0, site := 0, slot := 0, info := { i := .mov, reads := [], pair := [], outs := [0] } }

/-- What the firing leaves drains into the box of the memory slice interface. -/
theorem fired_agAtCeSite_enters_slice :
    (agAtCeSite.fired agAtCeSiteFiring { st := agAtCeSite }).site 0 56 ≠ agAtCeSite.site 0 56 := by decide

/-- Refutes O9: nothing in the statement ties an element's type to its site. A firing at the CE site 0 of an element of type AG lets a token of its o0 leave by
memory slice interface 0, which changes the box at site 56, while the frame lets a firing at a CE site change its own box alone. -/
theorem not_firingFrame : ¬ Obligations.FiringFrame := by
  unfold Obligations.FiringFrame
  intro h
  obtain ⟨-, -, -, -, -, -, -, -, -, -, -, sites, -⟩ := h agAtCeSite agAtCeSiteFiring { st := agAtCeSite }
  exact fired_agAtCeSite_enters_slice (sites 0 56 (by decide) (.inl (by decide)))

end Sys2Proof.Machine
end

section
/-! O8: a register instruction writes its register, and sets flags where it is floating point; what else changes is what the fetch of a fall-through header changes,
which is caches, counters and what a walk writes. -/
namespace Sys2Proof.Machine

/-! ### What a fetch changes (R49, R119, R354) -/

/-- A cluster without the sequencer's translation cache and the event counters. -/
def Cluster.sansFetch (x : Cluster) : Cluster := { x with seqTlb := [], evcnt := [] }
/-- A die without its event counters. -/
def Die.sansCounts (x : Die) : Die := { x with devcnt := [] }

/-- `t` is `s` but for memory, its marks and what has been asked of other nodes, for caches and for counters. -/
structure State.FetchFrame (s t : State) : Prop where
  cur : t.cur = s.cur
  cluster : ∀ l, (t.cluster l).sansFetch = (s.cluster l).sansFetch
  die : ∀ l, (t.die l).sansCounts = (s.die l).sansCounts
  ctxs : t.ctxs = s.ctxs
  ports : t.ports = s.ports
  iods : t.iods = s.iods
  keys : t.keys = s.keys

namespace State.FetchFrame

theorem refl (s : State) : s.FetchFrame s := ⟨rfl, fun _ => rfl, fun _ => rfl, rfl, rfl, rfl, rfl⟩

theorem trans {s t u : State} (h : s.FetchFrame t) (g : t.FetchFrame u) : s.FetchFrame u :=
  ⟨g.cur.trans h.cur, fun l => (g.cluster l).trans (h.cluster l), fun l => (g.die l).trans (h.die l), g.ctxs.trans h.ctxs, g.ports.trans h.ports,
    g.iods.trans h.iods, g.keys.trans h.keys⟩

theorem ite {s t u : State} {p : Prop} [Decidable p] (ht : s.FetchFrame t) (hu : s.FetchFrame u) : s.FetchFrame (if p then t else u) := by
  split <;> assumption

theorem stream {s t : State} (h : s.FetchFrame t) (c k : Nat) : t.stream c k = s.stream c k := by
  have same := congrArg Cluster.streams (h.cluster c)
  exact congrArg (fun m : Map Stream => m.get {} k) same

theorem modCluster (s : State) (c : Nat) {f : Cluster → Cluster} (h : ∀ x, (f x).sansFetch = x.sansFetch) : s.FetchFrame (s.modCluster c f) := by
  refine ⟨rfl, fun l => ?_, fun _ => rfl, rfl, rfl, rfl, rfl⟩
  simp only [State.cluster, State.modCluster_clusters, Map.get_mod]
  split
  · next e => rw [h, e]
  · rfl

theorem modDie (s : State) (d : Nat) {f : Die → Die} (h : ∀ x, (f x).sansCounts = x.sansCounts) : s.FetchFrame (s.modDie d f) := by
  refine ⟨rfl, fun _ => rfl, fun l => ?_, rfl, rfl, rfl, rfl⟩
  simp only [State.die, State.modDie_dies, Map.get_mod]
  split
  · next e => rw [h, e]
  · rfl

theorem countDie (s : State) (d ev : Nat) : s.FetchFrame (s.countDie d ev) := modDie s d fun _ => rfl

theorem countHbm (s : State) (k : Nat) (w : Bool) : s.FetchFrame (s.countHbm k w) := ite (countDie ..) (refl s)

theorem wr64 (s : State) (k : Nat) (v : DWord) : s.FetchFrame (s.wr64 k v) := ⟨rfl, fun _ => rfl, fun _ => rfl, rfl, rfl, rfl, rfl⟩

theorem touchLine (s : State) (k : Nat) : s.FetchFrame (s.touchLine k).1 := by
  unfold State.touchLine
  split
  · exact refl s
  · exact ite (countDie ..) (refl s)
  · exact ite (countDie ..) (refl s)
  · exact ⟨rfl, fun _ => rfl, fun _ => rfl, rfl, rfl, rfl, rfl⟩
  · exact refl s

theorem touch (s : State) (k n : Nat) : s.FetchFrame (s.touch k n).1 :=
  List.foldlRecOn (motive := fun a : State × Nat => s.FetchFrame a.1) _ _ (refl s) fun _ h _ _ => h.trans (touchLine _ _)

theorem walkFrom (s : State) (va : DWord) (n lvl table : Nat) : s.FetchFrame (walkFrom s va n lvl table).1 := by
  induction n generalizing s lvl table with
  | zero => exact refl s
  | succ n ih =>
    have touched := touchLine s (hbm (entryAt table lvl va))
    have read := touched.trans (countHbm _ (hbm (entryAt table lvl va)) false)
    unfold Machine.walkFrom
    dsimp only
    split
    · exact touched
    · split
      · exact read
      · split
        · repeat' split
          all_goals exact read
        · split
          · exact read
          · exact read.trans (ih ..)

theorem walk (s : State) (c : Nat) (root va : DWord) (acc : Access) : s.FetchFrame (s.walk c false root va acc).1 := by
  have counted : s.FetchFrame ((s.count c (if false then 0x32 else 0x33) s.cur.ctx).modDie (dieOf c) fun x => (x.count 0x100 1).count 0x101 (Config.waited s.tick)) :=
    (modCluster s c (f := fun x => x.count _ _ 1) fun _ => rfl).trans (modDie _ _ fun _ => rfl)
  have walked := counted.trans (walkFrom _ va 5 1 root.toNat)
  unfold State.walk
  dsimp only
  split
  · next h => rwa [h] at walked
  · next s1 l h =>
    rw [h] at walked
    split
    · exact walked
    · have updated (leaf : DWord) : s1.FetchFrame ((s1.wr64 l.at_ leaf).countHbm l.at_ true) := (wr64 s1 l.at_ leaf).trans (countHbm _ l.at_ true)
      exact (walked.trans (ite (refl s1) (updated _))).trans (modCluster _ c fun _ => rfl)

theorem translate (s : State) (c : Nat) (root va : DWord) (acc : Access) : s.FetchFrame (s.translate c false root va acc).1 := by
  have found : s.FetchFrame (s.lookup c false root va acc).1 := by
    unfold State.lookup
    dsimp only
    split
    · exact refl s
    · split
      · split
        · exact walk ..
        · exact refl s
      · exact walk ..
  unfold State.translate
  split
  · exact refl s
  · split
    · next h =>
      rw [h] at found
      split
      all_goals exact found
    · next h => rwa [h] at found

/-- A load of another node that is answered sends nothing more. -/
theorem farLoad {s t : State} {who k n : Nat} {u : Unit} (h : s.farLoad who k n = (t, .ok u)) : s.FetchFrame t := by
  unfold State.farLoad at h
  split at h
  · cases h
  · next s1 e =>
    have asked : s1 = s := by
      unfold State.farAsk at e
      split at e
      · exact (congrArg Prod.fst e).symm
      · cases e
    cases h; subst asked
    exact ⟨rfl, fun _ => rfl, fun _ => rfl, rfl, rfl, rfl, rfl⟩
  · cases h

theorem fetchWord {s t : State} {c k : Nat} {va : DWord} {w : Word} (h : s.fetchWord c k va = (t, .ok w)) : s.FetchFrame t := by
  have home := translate s c (s.rootAt c k) va .fetch
  unfold State.fetchWord at h
  split at h
  · cases h
  · next s1 key e =>
    rw [e] at home
    split at h
    · split at h
      · cases h
      · next far => cases h; exact home.trans (farLoad far)
    · have read := home.trans (touch s1 key 4)
      split at h
      · next e => rw [e] at read; cases h; exact read.trans (countHbm ..)
      · cases h
      · cases h

/-- A block header that is found leaves the frame of its fetch. -/
theorem checkTarget {s t : State} {c k : Nat} {va : DWord} {fall : Bool} (h : s.checkTarget c k va fall = (t, none)) : s.FetchFrame t := by
  unfold State.checkTarget at h
  split at h
  · cases h
  · next e =>
    split at h
    · cases h
    · split at h
      · cases h
      · cases h; exact fetchWord e

end State.FetchFrame

/-- Where an instruction can go on, what it leaves of the rest of the machine is the frame of a fetch. -/
theorem State.CanAdvance.moved_frame {s : State} (h : s.CanAdvance) : s.FetchFrame s.moved := by
  unfold State.moved
  split
  · exact .refl s
  · next last => exact .checkTarget (Prod.ext rfl (h.resolve_left last))

/-- The state in which a stream has gone on is the one in which its fall-through was read, with the stream as it has become. -/
theorem advance_eq_moved (s : State) {st : Stream} (hidx : st.idx = s.me.idx) (hlen : st.len = s.me.len) (hpc : st.pc = s.me.pc) :
    ∃ u : Stream, s.advance st = s.moved.setMe u ∧ u.view = st.view ∧ u.arch = st.arch ∧ u.effs = st.effs ∧ u.queues = st.queues ∧ u.issued = st.issued := by
  have fall : st.fallThrough = s.me.fallThrough := by simp only [Stream.fallThrough, hpc, hlen]
  unfold State.advance State.moved
  rw [hidx, hlen, fall]
  split
  · exact ⟨_, rfl, rfl, rfl, rfl, rfl, rfl⟩
  · exact ⟨_, rfl, rfl, rfl, rfl, rfl, rfl⟩

/-! ### The register forms (R170, R199 to R204, R209) -/

/-- A write of a register changes registers and taints alone. -/
theorem Regs.ws_eq (r : Regs) (d : BitVec 6) (v : DWord) (t : Bool) : r.ws d v t = { r with s := (r.ws d v t).s, taint := (r.ws d v t).taint } := by
  unfold Regs.ws; split <;> rfl

theorem Regs.ws_fpcr (r : Regs) (d : BitVec 6) (v : DWord) (t : Bool) : (r.ws d v t).fpcr = r.fpcr := by
  unfold Regs.ws; split <;> rfl

/-- The flags as the bits of FPCR (Table 4.6). -/
def FFlags.bits (f : FFlags) : DWord :=
  (if f.nv then 1#64 <<< 7 else 0) ||| (if f.dz then 1#64 <<< 6 else 0) ||| (if f.of then 1#64 <<< 5 else 0) |||
    (if f.uf then 1#64 <<< 4 else 0) ||| (if f.nx then 1#64 <<< 3 else 0)

/-- Flags are set in bits 3 to 7 alone. -/
theorem FFlags.bits_and_mask (f : FFlags) : f.bits &&& 0xFFFFFFFFFFFFFF07#64 = 0#64 := by
  have all : ∀ nv dz of uf nx : Bool, (FFlags.mk nv dz of uf nx).bits &&& 0xFFFFFFFFFFFFFF07#64 = 0#64 := by decide
  exact all ..

theorem Regs.flags_eq (r : Regs) (f : FFlags) : r.flags f = { r with fpcr := r.fpcr ||| f.bits } := by
  simp only [Regs.flags, FFlags.bits, BitVec.or_assoc]

section
variable (s : State) (d a b c n : BitVec 6) (p : BitVec 3) (i : BitVec 14) (u : BitVec 20) (f g : BitVec 1) (x y : BitVec 4)

/-- The instructions whose result is an integer or bits of a register. -/
def intForms : List Instr :=
  [.add d a b, .sub d a b, .mul d a b, .mulh d a b, .mulhn d a b, .div d a b, .divn d a b, .rem d a b, .remn d a b, .adds d a b, .subs d a b,
   .and d a b, .or d a b, .xor d a b, .andn d a b, .orn d a b, .shl d a b, .shr d a b, .sra d a b, .rol d a b, .min d a b, .max d a b,
   .minn d a b, .maxn d a b, .clz d a, .ctz d a, .popc d a, .brev d a, .addi d a i, .andi d a i, .ori d a i, .xori d a i, .shli d a n,
   .shri d a n, .srai d a n, .roli d a n, .li d u, .lui d u, .luh d u, .sel d a b g p, .mfs d a x, .fabs d a f, .fneg d a f]

/-- The instructions whose result is rounded. -/
def floatForms : List Instr :=
  [.fadd d a b f, .fsub d a b f, .fmul d a b f, .fdiv d a b f, .fsqrt d a f, .fmin d a b f, .fmax d a b f, .ffma d a b c f, .fcvt d a x y]

/-- Each of them writes its destination in the block view, and a rounded result sets its flags. -/
theorem intForms_write : ∀ j ∈ intForms d a b n p i u f g x, ∃ (v : Stream → DWord) (t : Stream → Bool),
    exec j s = .next (s.seqPure fun st => st.wr d (v st) (t st)) := by
  simp only [intForms, List.forall_mem_cons]
  iterate 43 refine ⟨⟨_, _, rfl⟩, ?_⟩
  exact fun _ h => nomatch h

theorem floatForms_write : ∀ j ∈ floatForms d a b c f x y, ∃ t v, exec j s = seqFloat s d t v := by
  simp only [floatForms, List.forall_mem_cons]
  exact ⟨⟨_, _, exec_fadd ..⟩, ⟨_, _, exec_fsub ..⟩, ⟨_, _, exec_fmul ..⟩, ⟨_, _, exec_fdiv ..⟩, ⟨_, _, exec_fsqrt ..⟩, ⟨_, _, exec_fmin ..⟩,
    ⟨_, _, exec_fmax ..⟩, ⟨_, _, exec_ffma ..⟩, ⟨_, _, exec_fcvt ..⟩, fun _ h => nomatch h⟩

end

/-- The stream after such an instruction: its register is written, and FPCR may have changed. -/
def Stream.result (st : Stream) (d : BitVec 6) (v : DWord) (t : Bool) (fpcr : DWord) : Stream :=
  { st.wr d v t with view := { st.view.ws d v t with fpcr := fpcr } }

/-- What a state shows of its stream and of the rest after a result at `d`. -/
theorem advance_result_frame {s : State} (h : s.CanAdvance) (d : BitVec 6) (v : DWord) (tt : Bool) (fpcr : DWord) :
    ∃ u : Stream, s.advance (s.me.result d v tt fpcr) = s.moved.setMe u ∧ u.view = { s.me.view.ws d v tt with fpcr := fpcr } ∧ u.arch = s.me.arch ∧
      u.effs = (s.me.wr d v tt).effs ∧ u.queues = s.me.queues ∧ u.issued = s.me.issued ∧ s.FetchFrame s.moved :=
  let ⟨u, eq, view, arch, effs, queues, issued⟩ := advance_eq_moved s (st := s.me.result d v tt fpcr) rfl rfl rfl
  ⟨u, eq, view, arch, effs, queues, issued, h.moved_frame⟩

/-- An atomic that delivers elsewhere is left alone by a register write (R133). -/
theorem wr_effs_of_no_delivery {st : Stream} {d : BitVec 6} (v : DWord) (t : Bool)
    (h : ∀ m fn va key w o cv rm z q, (m, Eff.amo fn va key w d o cv rm z q) ∉ st.effs) : (st.wr d v t).effs = st.effs := by
  unfold Stream.wr
  dsimp only
  conv_rhs => rw [← List.map_id st.effs]
  refine List.map_congr_left fun e he => ?_
  split
  · next m fn va key w d' o cv rm z q =>
    have other : d' ≠ d := fun e => h m fn va key w o cv rm z q (e ▸ he)
    rw [if_neg other]; rfl
  · rfl

theorem next_advance_result {s t : State} {j : Instr} {d : BitVec 6} {g : Stream → Stream} {v : DWord} {tt : Bool} {fpcr : DWord} (hs : s.CanAdvance)
    (hj : exec j s = .next t) (h : exec j s = .next (s.seqPure g)) (hg : g s.me = s.me.result d v tt fpcr) : t = s.advance (s.me.result d v tt fpcr) := by
  have runs : exec j s = .next (s.advance (s.me.result d v tt fpcr)) := goesOn_of_seqPure hs h hg
  exact (Host.Outcome.next.inj (runs.symm.trans hj)).symm

theorem Stream.wr_eq_result (st : Stream) (d : BitVec 6) (v : DWord) (t : Bool) : st.wr d v t = st.result d v t st.view.fpcr := by
  have same := Regs.ws_fpcr st.view d v t
  unfold Stream.result
  rw [← same]; rfl

theorem Stream.wr_flags_eq_result (st : Stream) (d : BitVec 6) (v : DWord) (t : Bool) (f : FFlags) :
    { st.wr d v t with view := (st.wr d v t).view.flags f } = st.result d v t (st.view.fpcr ||| f.bits) := by
  rw [Regs.flags_eq, Stream.wr_view, Regs.ws_fpcr]; rfl

theorem FFlags.or_bits_and_mask (p : DWord) (f : FFlags) : (p ||| f.bits) &&& 0xFFFFFFFFFFFFFF07#64 = p &&& 0xFFFFFFFFFFFFFF07#64 := by
  rw [BitVec.and_or_distrib_right, f.bits_and_mask, BitVec.or_zero]

theorem FFlags.or_bits_or (p : DWord) (f : FFlags) : p ||| f.bits ||| p = p ||| f.bits := by
  rw [BitVec.or_comm p, BitVec.or_assoc, BitVec.or_self]

/-- No instruction is of both kinds. -/
theorem not_intForms_of_floatForms {d a b c n : BitVec 6} {p : BitVec 3} {i : BitVec 14} {u : BitVec 20} {f g : BitVec 1} {x y : BitVec 4} {j : Instr}
    (h : j ∈ floatForms d a b c f x y) : j ∉ intForms d a b n p i u f g x := by
  revert j
  simp [floatForms, intForms]

/-- Settles O8: each instruction is a write of its register, and going on is a fetch. -/
theorem registerFormsFrame : Obligations.RegisterFormsFrame := by
  intro s t d a b c n p i u f g x y j hs hj ints floats w v hmem
  obtain ⟨val, tt, fpcr, ht, hints, hmask, hsticky⟩ : ∃ val tt fpcr, t = s.advance (s.me.result d val tt fpcr) ∧ (j ∈ ints → fpcr = w.fpcr) ∧
      fpcr &&& 0xFFFFFFFFFFFFFF07#64 = w.fpcr &&& 0xFFFFFFFFFFFFFF07#64 ∧ fpcr ||| w.fpcr = fpcr := by
    rcases hmem with hi | hf
    · obtain ⟨val, tt, e⟩ := intForms_write s d a b n p i u f g x j hi
      exact ⟨_, _, w.fpcr, next_advance_result hs hj e (s.me.wr_eq_result ..), fun _ => rfl, rfl, BitVec.or_self⟩
    · obtain ⟨tt, val, e⟩ := floatForms_write s d a b c f x y j hf
      refine ⟨_, tt, _, next_advance_result hs hj e (s.me.wr_flags_eq_result ..), fun hi => ?_, FFlags.or_bits_and_mask .., FFlags.or_bits_or ..⟩
      exact absurd hi (not_intForms_of_floatForms hf)
  obtain ⟨st, eq, view, arch, effs, queues, issued, frame⟩ := advance_result_frame hs d val tt fpcr
  rw [eq] at ht
  subst ht
  have me : (s.moved.setMe st).me = st := State.stream_modStream_self ..
  have hv : v = { w.ws d val tt with fpcr := fpcr } := by rw [← view, ← me]
  rw [me, effs]
  refine ⟨?_, ⟨arch, rfl, wr_effs_of_no_delivery val tt, queues, issued⟩, fun l k other => ?_, fun l => ?_, frame.die, rfl, rfl, frame.ctxs, frame.ports, frame.iods,
    frame.keys⟩
  · rw [hv]
    refine ⟨fun e he => ⟨Regs.rs_ws_ne _ _ _ he, Regs.taintOf_ws_ne _ _ _ he⟩, rfl, rfl, ?_, hints, hmask, hsticky⟩
    dsimp only
    rw [Regs.ws_eq]
  · rw [← frame.cur] at other
    exact (State.stream_modStream_ne _ _ other).trans (frame.stream l k)
  · have same := congrArg (fun x : Cluster => { x with streams := [] }) (frame.cluster l)
    refine Eq.trans ?_ same
    rw [State.cluster, State.setMe, State.modMe, State.modStream, State.modCluster_clusters, Map.get_mod]
    split
    · next e => rw [e]; rfl
    · rfl

end Sys2Proof.Machine
end

section
/-! O24, O26, O27: the system, transfer, time and frontier instructions of the sequencer, each of which changes the stream's view and goes on, or leaves for a checked block. -/
namespace Sys2Proof.Machine

/-! ### Forms -/

section
variable {s : State} {i : Instr}

/-- A result of a time register (R216). -/
theorem writesT_of_seqTime {d : BitVec 3} {f : Regs → Time} {t : Time} (hs : s.CanAdvance) (hi : exec i s = seqTime s d f) (hf : f s.me.view = t) :
    WritesT s i d t := by
  subst hf; exact goesOn_of_seqPure hs hi rfl

/-- A result in a register that no operand taints. -/
theorem writes_untainted {x : BitVec 6} {g : Stream → DWord} {v : DWord} (hs : s.CanAdvance) (hi : exec i s = .next (s.seqPure fun st => st.wr x (g st) false))
    (hg : g s.me = v) : Writes s i x v false := by
  subst hg; exact goesOn_of_seqPure hs hi rfl

end

/-! ### Time (R216) -/

/-- A coordinate that stays in its width is written (Table 18.1). -/
theorem timeCoord_of_lt {s : State} {d : BitVec 3} {base : Time} {j v : Nat} {clear : Bool} (h : v < 2 ^ coordBits j) :
    timeCoord s d base j v clear = seqTime s d fun _ =>
      if clear then (List.range 4).foldl (fun t i => if j < i then t.setCoord i 0 else t) (base.setCoord j v) else base.setCoord j v :=
  if_neg (Nat.not_le.mpr h)

section
variable {s : State} {d a h : BitVec 3} {c : BitVec 2} {x n : BitVec 6}

theorem exec_tinc_of_lt (lt : (s.me.view.rt a).coord c.toNat + (s.me.view.rs x).toNat < 2 ^ coordBits c.toNat) : exec (.tinc d a c x) s =
    seqTime s d fun _ => (s.me.view.rt a).setCoord c.toNat ((s.me.view.rt a).coord c.toNat + (s.me.view.rs x).toNat) :=
  timeCoord_of_lt lt

theorem exec_tinci_of_lt (lt : (s.me.view.rt a).coord c.toNat + n.toNat < 2 ^ coordBits c.toNat) : exec (.tinci d a c n) s =
    seqTime s d fun _ => (s.me.view.rt a).setCoord c.toNat ((s.me.view.rt a).coord c.toNat + n.toNat) :=
  timeCoord_of_lt lt

theorem exec_tadv_of_le (le : (s.me.view.rs x).toNat ≤ (s.me.view.rt a).coord c.toNat) : exec (.tadv d a c x) s = seqTime s d fun r => r.rt a :=
  if_pos le

theorem exec_tadv_of_lt (lt : (s.me.view.rt a).coord c.toNat < (s.me.view.rs x).toNat) (fits : (s.me.view.rs x).toNat < 2 ^ coordBits c.toNat) :
    exec (.tadv d a c x) s = seqTime s d fun _ =>
      (List.range 4).foldl (fun t i => if c.toNat < i then t.setCoord i 0 else t) ((s.me.view.rt a).setCoord c.toNat (s.me.view.rs x).toNat) :=
  (if_neg (Nat.not_le.mpr lt)).trans (timeCoord_of_lt fits)

/-! ### Frontiers (R71, R75, R217) -/

theorem exec_hzwait_complete (w : s.me.wflag = true) (bound : (s.me.view.rh h).bound = true)
    (done : complete (s.frontierHere (s.me.view.rh h).loc) (s.me.view.rt a) = true) : exec (.hzwait a h) s =
    .next (s.seqPure fun st => { st with view := st.view.wh h { s.me.view.rh h with els := s.frontierHere (s.me.view.rh h).loc } }) := by
  simp only [exec, execHzwait, w, bound, done, Bool.not_true, Bool.false_eq_true, if_false, if_true]

theorem exec_hzpub_above (source : s.isTiSource ((s.me.view.rs x).truncate 16).toNat = true)
    (above : ∀ t ∈ (s.me.view.rh h).els, ∃ u ∈ s.sourceFrontier (s.locBaseHere + ((s.me.view.rs x).truncate 16).toNat), u.le t = true) :
    exec (.hzpub h x) s = .next (s.seqPure fun st =>
      (st.addEff (.hzpub (s.locBaseHere + ((s.me.view.rs x).truncate 16).toNat) (s.me.view.rh h).els)).bindHz h (s.me.view.rh h).els true
        ((s.me.view.rs x).truncate 16)) := by
  have all : ((s.me.view.rh h).els.all fun f =>
      (s.sourceFrontier (s.locBaseHere + ((s.me.view.rs x).truncate 16).toNat)).any fun e => e.le f) = true := by
    simpa only [List.all_eq_true, List.any_eq_true] using above
  simp only [exec, execHzpub, source, all, Bool.not_true, Bool.false_eq_true, if_false, if_true]

end

/-- Settles O27: each instruction is its form; those that may trap are read where they do not. -/
theorem timeAndFrontierResults : Obligations.TimeAndFrontierResults := by
  constructor
  · intro s d a b p c x n hs v ta tb cc
    refine ⟨?tmov, ?tset, ?tget, fun lt => ?tinc, fun lt => ?tinci, ?tjoin, ?tmeet, ?tle, ?tlt, ?teq, fun le => ?stay, fun lt fits => ?adv⟩
    case tmov => exact writesT_of_seqTime hs (f := fun r => r.rt a) rfl rfl
    case tset => exact writesT_of_seqTime hs (f := fun r => (r.rt d).setCoord c.toNat (r.rs x).toNat) rfl rfl
    case tget => exact writes_untainted hs (g := fun st => BitVec.ofNat 64 ((st.view.rt a).coord c.toNat)) rfl rfl
    case tinc => exact writesT_of_seqTime hs (exec_tinc_of_lt lt) rfl
    case tinci => exact writesT_of_seqTime hs (exec_tinci_of_lt lt) rfl
    case tjoin => exact writesT_of_seqTime hs (f := fun r => (r.rt a).join (r.rt b)) rfl rfl
    case tmeet => exact writesT_of_seqTime hs (f := fun r => (r.rt a).meet (r.rt b)) rfl rfl
    case tle => exact writesP_of_seqPred hs (f := fun r => (r.rt a).le (r.rt b)) rfl rfl
    case tlt => exact writesP_of_seqPred hs (f := fun r => (r.rt a).lt (r.rt b)) rfl rfl
    case teq => exact writesP_of_seqPred hs (f := fun r => decide (r.rt a = r.rt b)) rfl rfl
    case stay => exact writesT_of_seqTime hs (exec_tadv_of_le le) rfl
    case adv => exact writesT_of_seqTime hs (exec_tadv_of_lt lt fits) rfl
  · intro s h a p d e x hs st v loc z f
    refine ⟨?hzld, fun w bound done => ?hzwait, fun source above => ?hzpub, ?hzle, ?hzget, ?hztime⟩
    case hzld => exact goesOn_of_seqPure hs (f := fun st => st.bindHz h (s.frontierHere loc) false loc) rfl rfl
    case hzwait => exact goesOn_of_seqPure hs (exec_hzwait_complete w bound done) rfl
    case hzpub => exact goesOn_of_seqPure hs (exec_hzpub_above source above) rfl
    case hzle => exact writesP_of_seqPred hs (f := fun r => !(complete (r.rh h).els (r.rt a))) rfl rfl
    case hzget => exact writes_untainted hs (g := fun st => BitVec.ofNat 64 (st.view.rh h).els.length) rfl rfl
    case hztime => exact writesT_of_seqTime hs (f := fun r => (r.rh h).els.getD e.toNat Time.zero) rfl rfl

/-! ### Transfers (R172, R214, R215) -/

section
variable {s : State} {p : BitVec 3} {n : BitVec 1} {o : BitVec 22}

theorem exec_br_taken (h : s.me.view.rp p = decide (n = 0)) : exec (.br p n o) s = .next (s.transfer s.me (branchTarget s.me o)) :=
  if_pos ((predicate_test_iff ..).mpr h)

theorem exec_br_not_taken (h : s.me.view.rp p ≠ decide (n = 0)) : exec (.br p n o) s = .next (s.seqPure fun st => st) :=
  if_neg fun e => h ((predicate_test_iff ..).mp e)

/-- A transfer to an aligned address of a block header. -/
theorem jumpReg_eq_branch {st : Stream} {target : DWord} (aligned : target.toNat % 4 = 0) (block : s.CanBranch target) :
    jumpReg s st target = .next (s.branch st target) := by
  rw [jumpReg, if_pos aligned, transfer_eq_branch block]

theorem exec_ret_of_stack {ra : DWord} {rest : List DWord} (h : s.me.view.rstk = ra :: rest) :
    exec .ret s = jumpReg s { s.me with view := { s.me.view with rstk := rest }, isRet := true } ra := by
  simp only [exec, execRet, h]

end

/-- Settles O26: a transfer to a good block is a branch, from the stream as the instruction leaves it. -/
theorem transferResults : Obligations.TransferResults := by
  intro s p n o w a ra rest st here toward x
  refine ⟨fun taken block => ?_, fun untaken hs => ?_, fun block => ⟨?_, ?_⟩, fun aligned block => ⟨?_, ?_⟩, fun stack aligned block => ?_, fun block => ?_, rfl⟩
  · rw [exec_br_taken taken]; exact congrArg _ (transfer_eq_branch block)
  · exact goesOn_of_seqPure hs (exec_br_not_taken untaken) rfl
  · exact congrArg Host.Outcome.next (transfer_eq_branch block)
  · exact congrArg Host.Outcome.next (transfer_eq_branch block)
  · exact jumpReg_eq_branch aligned block
  · exact jumpReg_eq_branch aligned block
  · rw [exec_ret_of_stack stack]; exact jumpReg_eq_branch aligned block
  · exact congrArg Host.Outcome.next (transfer_eq_branch block)

/-! ### System registers (R174, R198, Table 10.2) -/

theorem sysNum_eq (r : BitVec 6) (n : BitVec 4) : sysNum r n = n.toNat * 64 + r.toNat := by
  rw [sysNum, BitVec.toNat_append, ← Nat.shiftLeft_add_eq_or_of_lt r.isLt, Nat.shiftLeft_eq]

section
variable {s : State} {d r : BitVec 6} {n : BitVec 4} {m : Nat}

/-- MFS of a number gives what is read at it. -/
theorem mfs_reads (hs : s.CanAdvance) {v : DWord} (hv : sysRead s s.me m = v) (hm : n.toNat * 64 + r.toNat = m) : Writes s (.mfs d r n) d v false :=
  writes_untainted hs (g := fun st => sysRead s st (sysNum r n)) rfl (by rw [sysNum_eq, hm, hv])

/-- MTS of a number leaves the stream as its write does. -/
theorem mts_writes (hs : s.CanAdvance) {st : Stream} (hw : sysWrite s.me m (s.me.view.rs d) = st) (hm : n.toNat * 64 + r.toNat = m)
    (idx : st.idx = s.me.idx := by rfl) (len : st.len = s.me.len := by rfl) (fall : st.fallThrough = s.me.fallThrough := by rfl) : Runs s (.mts d r n) st :=
  goesOn_of_seqPure hs (f := fun st => sysWrite st (sysNum r n) (st.view.rs d)) rfl (by rw [sysNum_eq, hm, hw]) idx len fall

end

section
variable (s : State) (st : Stream) {i m : Nat} (v : DWord)

theorem sysRead_evsel (h : i < 8) :
    sysRead s st (0x010 + i) = ((bufferedSel st.effs i).getD ((s.cluster s.cur.cluster).evsel.get 0 i)).zeroExtend 64 := by
  unfold sysRead; dsimp only; rw [if_pos (by omega), Nat.add_sub_cancel_left]

theorem sysRead_evcnt (h : i < 8) :
    sysRead s st (0x018 + i) = ((bufferedCnt st.effs i).getD ((s.cluster s.cur.cluster).evcnt.get 0 i)).zeroExtend 64 := by
  unfold sysRead; dsimp only; rw [if_neg (by omega), if_pos (by omega), Nat.add_sub_cancel_left]

theorem sysWrite_evsel (h : i < 8) : sysWrite st (0x010 + i) v = st.addEff (.evsel i (v.truncate 16 &&& 0xEFFF#16)) := by
  unfold sysWrite; rw [if_pos (by omega), Nat.add_sub_cancel_left]; rfl

theorem sysWrite_evcnt (h : i < 8) : sysWrite st (0x018 + i) v = st.addEff (.evcnt i (v.truncate 48)) := by
  unfold sysWrite; rw [if_neg (by omega), if_pos (by omega), Nat.add_sub_cancel_left]

/-- A number that is not assigned reads as zero. -/
theorem sysRead_unassigned (h : m = 0x00D ∨ m = 0x00E ∨ m = 0x00F ∨ 0x020 < m) : sysRead s st m = 0 := by
  unfold sysRead; dsimp only; rw [if_neg (by omega), if_neg (by omega)]
  split
  case h_15 => rfl
  all_goals omega

/-- A write of a number that is read-only or not assigned is ignored. -/
theorem sysWrite_ignored (h : m = 0x000 ∨ m = 0x001 ∨ m = 0x00A ∨ m = 0x00B ∨ 0x00C < m ∧ m < 0x010 ∨ 0x020 ≤ m) : sysWrite st m v = st := by
  unfold sysWrite; rw [if_neg (by omega), if_neg (by omega)]
  split
  case h_10 => rfl
  all_goals omega

theorem sysRead_ctxid {x : Ctx} (h : s.ctxAt s.cur.cluster s.cur.ctx = some x) :
    sysRead s st 0x000 = BitVec.ofNat 64 (x.fdom % 256 * 2 ^ 16 + s.cidAt s.cur.cluster s.cur.ctx % 2 ^ 16) := by
  simp [sysRead, h]

theorem sysRead_rcb {g : Region} (h : s.region? s.cur.cluster s.cur.ctx = some g) : sysRead s st 0x001 = BitVec.ofNat 64 g.rcb := by
  simp [sysRead, h]

end

/-! ### The ready register (R340) -/

/-- Bits at rising places, as a number. -/
def bitSum (p : Nat → Bool) (n : Nat) : Nat := (List.range n).foldl (fun a d => a + (if p d then 2 ^ d else 0)) 0

section
variable (p : Nat → Bool)

theorem bitSum_succ (n : Nat) : bitSum p (n + 1) = bitSum p n + if p n then 2 ^ n else 0 := by simp [bitSum, List.range_succ]

theorem bitSum_lt (n : Nat) : bitSum p n < 2 ^ n := by
  induction n with
  | zero => exact Nat.one_pos
  | succ n ih => rw [bitSum_succ, Nat.pow_succ]; split <;> omega

theorem testBit_bitSum {n i : Nat} (h : i < n) : (bitSum p n).testBit i = p i := by
  induction n with
  | zero => exact absurd h (Nat.not_lt_zero i)
  | succ n ih =>
    have high : (bitSum p n).testBit n = false := Nat.testBit_lt_two_pow (bitSum_lt p n)
    rw [bitSum_succ]
    rcases Nat.lt_succ_iff_lt_or_eq.mp h with below | rfl
    · split
      · rw [Nat.add_comm, Nat.testBit_two_pow_add_gt below, ih below]
      · exact ih below
    · split
      · next set => rw [Nat.add_comm, Nat.testBit_two_pow_add_eq, high, set]; rfl
      · next clear => rw [Nat.add_zero, high]; exact (Bool.eq_false_iff.mpr clear).symm

end

/-- The ready register as three fields. -/
theorem readyReg_eq (s : State) : readyReg s = BitVec.ofNat 64 (2 ^ 48 * (2 ^ 8 * bitSum (fun i => (s.iod i).irdy.getLsbD 27) 2 +
    bitSum (fun d => (s.die d).drdy.getLsbD 48) 8) + (s.die (dieOf s.cur.cluster)).drdy.bits 47 0) := by
  unfold readyReg
  dsimp only
  refine congrArg (BitVec.ofNat 64) ?_
  show bitSum _ 2 * 2 ^ 56 + bitSum _ 8 * 2 ^ 48 + _ = _
  omega

theorem readyReg_low (s : State) : (readyReg s).bits 47 0 = (s.die (s.cur.cluster / 48)).drdy.bits 47 0 := by
  have low : (s.die (dieOf s.cur.cluster)).drdy.bits 47 0 < 2 ^ 48 := Nat.mod_lt _ (by decide)
  rw [readyReg_eq]
  unfold DWord.bits at low ⊢
  rw [BitVec.toNat_ofNat, Nat.shiftRight_zero, Nat.mod_mod_of_dvd _ (by decide), Nat.mul_add_mod, Nat.mod_eq_of_lt low]
  rfl

/-- A bit of the ready register above the clusters' own. -/
theorem readyReg_high (s : State) {i : Nat} (h : i < 16) : (readyReg s).getLsbD (48 + i) =
    (2 ^ 8 * bitSum (fun i => (s.iod i).irdy.getLsbD 27) 2 + bitSum (fun d => (s.die d).drdy.getLsbD 48) 8).testBit i := by
  have low : (s.die (dieOf s.cur.cluster)).drdy.bits 47 0 < 2 ^ 48 := Nat.mod_lt _ (by decide)
  rw [readyReg_eq, BitVec.getLsbD_ofNat, decide_eq_true (by omega), Bool.true_and, Nat.testBit_two_pow_mul_add _ low, if_neg (by omega),
    Nat.add_sub_cancel_left]

theorem readyReg_die (s : State) {i : Nat} (h : i < 8) : (readyReg s).getLsbD (48 + i) = (s.die i).drdy.getLsbD 48 := by
  rw [readyReg_high s (by omega), Nat.testBit_two_pow_mul_add _ (bitSum_lt _ 8), if_pos h, testBit_bitSum _ h]

theorem readyReg_iod (s : State) {i : Nat} (h : i < 2) : (readyReg s).getLsbD (56 + i) = (s.iod i).irdy.getLsbD 27 := by
  rw [show 56 + i = 48 + (8 + i) by omega, readyReg_high s (by omega), Nat.testBit_two_pow_mul_add _ (bitSum_lt _ 8), if_neg (by omega),
    Nat.add_sub_cancel_left, testBit_bitSum _ h]

/-- Settles O24: each number is read and written at its entry of Table 10.2. -/
theorem systemResults : Obligations.SystemResults := by
  intro s d a r n w x y z sc cx rg hs st v c no u reads writes
  refine ⟨⟨?_, ?_, ?_⟩, fun h => ?_, fun h => ?_, ⟨?_, ?_, ?_, ?_, ?_, ?_, ?_, ?_, ?_, ?_⟩, ?_, fun i hi => ⟨?_, ?_, fun h => ?_, fun h => ?_⟩, fun h => ?_, fun h => ?_,
    ⟨?_, ?_, ?_, ?_, ?_, ?_, ?_, ?_, ?_⟩, fun h => ?_⟩
  · exact goesOn_of_seqPure hs (f := fun st => st) rfl rfl
  · exact goesOn_of_seqPure hs (f := fun st => st) rfl rfl
  · exact goesOn_of_seqPure hs (f := fun st => st.addEff (.trace (st.view.rs a))) rfl rfl
  · exact mfs_reads hs (sysRead_ctxid s st h)
  · exact mfs_reads hs (sysRead_rcb s st h)
  iterate 11 exact mfs_reads hs rfl
  · exact mfs_reads hs (sysRead_evsel s st hi)
  · exact mfs_reads hs (sysRead_evcnt s st hi)
  · exact mts_writes hs (sysWrite_evsel st u hi) h
  · exact mts_writes hs (sysWrite_evcnt st u hi) h
  · exact mfs_reads hs (sysRead_unassigned s st h) rfl
  · exact ⟨readyReg s, mfs_reads hs rfl h, readyReg_low s, fun i hi => readyReg_die s hi, fun i hi => readyReg_iod s hi⟩
  iterate 9 exact mts_writes hs rfl
  · exact mts_writes hs (sysWrite_ignored st u h) rfl

end Sys2Proof.Machine
end

section
/-! O10: what keeps a slot from firing, before its operation is asked and after. -/
namespace Sys2Proof.Machine

section
variable {s : State} {f : Firing} {e : Elem} {i : Instr} {g : State → Firing → Res}

/-- A slot that is not ready does nothing (R44). -/
theorem fireSlot_of_not_ready (g : State → Firing → Res) (h : s.readyAt s.cur.cluster s.cur.site s.cur.ctx s.cur.slot = none) : s.fireSlot g = s := by
  unfold State.fireSlot; simp only [h]

section
variable (elem : s.elem? s.cur.cluster s.cur.site s.cur.ctx = some e) (ready : s.readyAt s.cur.cluster s.cur.site s.cur.ctx s.cur.slot = some f)
include elem ready

/-- A slot whose output has no room counts the stall (R244, R341). -/
theorem fireSlot_of_no_room (g : State → Firing → Res) (full : f.info.needs.all (e.room f.slot) = false) :
    s.fireSlot g = s.countWait s.cur.cluster 0x011 s.cur.ctx := by
  have full : (f.info.needs.any fun o => !(e.room f.slot o)) = true := by simpa using full
  unfold State.fireSlot
  simp only [elem, ready, full, if_true]

/-- A slot that reads a change deeper than its colour fails with DEPTH (R58). -/
theorem fails_of_deep (hi : exec i s = fire s g) (room : f.info.needs.all (e.room f.slot) = true) (deep : s.anyDeep f = true) : Fails s i f e 5 1 := by
  have room : (f.info.needs.any fun o => !(e.room f.slot o)) = false := by simpa using room
  intro free mu
  rw [hi, fire]
  unfold State.fireSlot
  simp only [elem, ready, room, deep, free, if_true, Bool.false_eq_true, if_false, State.finish, mu, Bool.not_true]

end

/-- An operand that is too deep makes the firing one with a change that is too deep. -/
theorem anyDeep_of_operand {a : Token} (operand : f.a = some a ∨ f.b = some a ∨ f.x = some a) (deep : s.tooDeep f.c f.k a = true) : s.anyDeep f = true := by
  have mem : a ∈ [f.a, f.b, f.x].filterMap id := by
    rw [List.mem_filterMap]
    rcases operand with h | h | h
    · exact ⟨_, .head _, h⟩
    · exact ⟨_, .tail _ (.head _), h⟩
    · exact ⟨_, .tail _ (.tail _ (.head _)), h⟩
  exact List.any_eq_true.mpr ⟨a, List.mem_append_left _ mem, deep⟩

/-- A slot whose local delivery finds its entry taken waits (R245). -/
theorem fireSlot_of_locBusy {r : FireOk} (h : s.CanFire f e) (hg : g s f = .ok r)
    (width : r.outs.any (fun o => r.st.widthBad s.cur.cluster s.cur.ctx o.2) = false) (busy : s.locBusy f r = true) : s.fireSlot g = s := by
  rw [fireSlot_eq h, hg]
  simp only [width, busy, Bool.false_eq_true, if_false, if_true]

end

/-- The operations that the statement names are firings. -/
theorem exec_eq_fire (s : State) : ∀ i ∈ [Instr.ceAdd, .ceFma, .ceCmp, .cvt, .mov, .copy, .steerBit, .mergeAny, .tagInc, .redSum, .cjoin, .ctEnter, .khash, .mxc, .ctlSig],
    ∃ g, exec i s = fire s g := by
  simp only [List.forall_mem_cons]
  iterate 15 refine ⟨⟨_, rfl⟩, ?_⟩
  exact fun _ h => nomatch h

/-- Settles O10: each branch of a slot's firing in which it does not fire. -/
theorem firingsThatWait : Obligations.FiringsThatWait := by
  intro s f e i hi
  obtain ⟨g, hg⟩ := exec_eq_fire s i hi
  refine ⟨fun idle => ?_, fun elem ready => ⟨fun full => ?_, fun room => ⟨fun a operand deep => ?_, fun a ha shallow width busy => ?_⟩⟩⟩
  · rw [hg, fire, fireSlot_of_not_ready g idle]
  · rw [hg, fire, fireSlot_of_no_room elem ready g full]
  · exact fails_of_deep elem ready hg room (anyDeep_of_operand operand deep)
  · have gives : withA f (fun a => one s f a) = .ok { st := s, outs := [(f.out, a)] } := by rw [withA, ha]; rfl
    have fits : [(f.out, a)].any (fun o => s.widthBad s.cur.cluster s.cur.ctx o.2) = false := by simp [width]
    exact congrArg Host.Outcome.next (fireSlot_of_locBusy ⟨elem, ready, room, shallow⟩ gives fits busy)

end Sys2Proof.Machine
end

section
/-! O29: a commit is the first of its stops, or its effects; a block that has buffered nothing meets none of them. -/
namespace Sys2Proof.Machine

/-! ### What a commit meets (R50, R132, R355) -/

section
variable {s s1 s2 s3 : State} {cls : List (Nat × List DWord)} {bad : CommitBad}

section
variable (phase : s.me.phase = .committing)
include phase

theorem blockCommit_of_stop (stop : s.commitStop = (s1, some bad)) : exec .blockCommit s =
    if bad.code = 0 then s1.commitWait else .next (s1.takeTrap s.cur.cluster s.cur.ctx bad.code bad.detail bad.addr bad.idx) := by
  simp only [exec, execBlockCommit, phase, stop, ne_eq, not_true_eq_false, if_false]

variable (go : s.commitStop = (s1, none))
include go

theorem blockCommit_of_full (full : s1.commitFull = true) : exec .blockCommit s = s1.commitWait := by
  simp only [exec, execBlockCommit, phase, go, full, ne_eq, not_true_eq_false, if_false, if_true]

variable (room : s1.commitFull = false)
include room

theorem blockCommit_of_unanswered {b : Option CommitBad} (far : s1.farPhase s.cur.cluster s.cur.ctx = (s2, true, b)) :
    exec .blockCommit s = s2.commitWait := by
  simp only [exec, execBlockCommit, phase, go, room, far, ne_eq, not_true_eq_false, if_false, Bool.false_eq_true]

theorem blockCommit_of_refused (far : s1.farPhase s.cur.cluster s.cur.ctx = (s2, false, some bad)) :
    exec .blockCommit s = .next (s2.takeTrap s.cur.cluster s.cur.ctx bad.code bad.detail bad.addr bad.idx) := by
  simp only [exec, execBlockCommit, phase, go, room, far, ne_eq, not_true_eq_false, if_false, Bool.false_eq_true]

/-- What has been accepted elsewhere and read for the forks commits, where the MU has room for its batch (R73). -/
theorem blockCommit_of_accepted (far : s1.farPhase s.cur.cluster s.cur.ctx = (s2, false, none)) (forks : s2.readForks = (s3, cls, false))
    (ranges : s3.rangesFull cls = false) : exec .blockCommit s =
      if s3.muRoom (s3.cidAt s.cur.cluster s.cur.ctx) s3.pubBatch.2 false then
        .next ((commitEffects ((s3.forksDone s.cur.cluster s.cur.ctx).count s.cur.cluster 2 s.cur.ctx) cls s.cur.cluster s.cur.ctx).farDrop
          s.cur.cluster s.cur.ctx)
      else (s3.muWait (s3.cidAt s.cur.cluster s.cur.ctx) (4096 * s.cur.cluster + 3072 + s.cur.ctx) s3.pubBatch.2 false).commitWait := by
  simp only [exec, execBlockCommit, phase, go, room, far, forks, ranges, ne_eq, not_true_eq_false, if_false, Bool.false_eq_true, Bool.not_eq_true',
    ← Bool.not_eq_true, ite_not]

end
end

/-! ### A block that has buffered nothing -/

section
variable {s : State} (none : s.me.effs = [])
include none

theorem commitStop_of_no_effs : s.commitStop = (s, Option.none) := by
  have check : s.commitCheck = (s, Option.none) := by simp only [State.commitCheck, none, List.foldl_nil]
  have quota : s.quotaBad = Option.none := by simp [State.quotaBad, State.newObjects, cmdsOf, none]
  simp only [State.commitStop, check, quota]

theorem commitFull_of_no_effs : s.commitFull = false := by
  simp [State.commitFull, State.newObjects, cmdsOf, enqsOf, cfgsOf, launchesOf, none]

theorem farPhase_of_no_effs (c k : Nat) : s.farPhase c k = (s, false, Option.none) := by
  simp only [State.farPhase, farEffs, none, List.filterMap_nil, List.filter_nil, List.foldl_nil]

theorem readForks_of_no_effs : s.readForks = (s, [], false) := by
  simp only [State.readForks, enqsOf, none, List.filterMap_nil, List.foldl_nil]

theorem pubBatch_of_no_effs : s.pubBatch = ([], []) := by simp [State.pubBatch, pubsOf, none]

theorem forksDone_of_no_effs (c k : Nat) : s.forksDone c k = s := by
  simp only [State.forksDone, enqsOf, none, List.filterMap_nil, List.foldl_nil]

end

theorem rangesFull_nil (s : State) : s.rangesFull [] = false := by
  simp [State.rangesFull, State.rangeNeed]

theorem muRoom_nil (s : State) (cid : Nat) (source : Bool) : s.muRoom cid [] source = true := by
  simp [State.muRoom, State.muClusters]

theorem muApply_nil (s : State) (cid : Nat) : s.muApply cid [] = s := by
  unfold State.muApply
  split <;> rfl

theorem muGo_nil (s : State) (cid who : Nat) : s.muGo cid who [] = s := by simp [State.muGo, State.muClusters]

/-- The effects of such a block are its stream's alone, and the turn where it yields. -/
theorem commitEffects_of_no_effs {s : State} (none : s.me.effs = []) (cls : List (Nat × List DWord)) (c k : Nat) :
    ∃ (es : List (DWord × DWord)) (x : Ctx → Ctx) (y : Cluster → Cluster), (∀ z, (y z).streams = z.streams) ∧ commitEffects s cls c k =
      ((s.modCtx (s.cidAt c k) x).modMe fun st => (st.traced st.view (s.cyclesOf c) es).committed).modCluster c y := by
  refine ⟨memEntries (s.cyclesOf c) s.me.view.spillbase (decide (s.me.view.rstk.length ≥ 16)) [], fun x => { x with sources := x.sources },
    fun z => if s.me.isYield then { z with turn := (k + 1) % 4 } else z, fun z => by split <;> rfl, ?_⟩
  simp only [commitEffects, pubBatch_of_no_effs none, none, List.foldl_nil, muApply_nil, muGo_nil]

/-- Such a block always commits. -/
theorem blockCommit_of_no_effs {s : State} (phase : s.me.phase = .committing) (none : s.me.effs = []) : exec .blockCommit s =
    .next ((commitEffects (s.count s.cur.cluster 2 s.cur.ctx) [] s.cur.cluster s.cur.ctx).farDrop s.cur.cluster s.cur.ctx) := by
  rw [blockCommit_of_accepted phase (commitStop_of_no_effs none) (commitFull_of_no_effs none) (farPhase_of_no_effs none ..) (readForks_of_no_effs none)
    (rangesFull_nil s), pubBatch_of_no_effs none, muRoom_nil, if_pos rfl, forksDone_of_no_effs none]

theorem Stream.traced_committed (st : Stream) (r : Regs) (cyc : Nat) (es : List (DWord × DWord)) :
    ((st.traced r cyc es).committed).arch = (if st.isReti then { st.view with th := false } else st.view) ∧
    ((st.traced r cyc es).committed).view = (if st.isReti then { st.view with th := false } else st.view) ∧
    ((st.traced r cyc es).committed).effs = [] ∧ ((st.traced r cyc es).committed).queues = st.queues ∧ ((st.traced r cyc es).committed).issued = st.issued ∧
    ((st.traced r cyc es).committed).pc = (if st.isExit then st.pc else st.next) ∧
    ((st.traced r cyc es).committed).phase = (if st.isExit then .exiting else .ready) := ⟨rfl, rfl, rfl, rfl, rfl, rfl, rfl⟩

/-- `t` is `s` but for a stream that has become `st`, and parts that no clause speaks of. -/
structure State.Commits (s t : State) (st : Stream) : Prop where
  mem : t.mem = s.mem
  marks : t.marks = s.marks
  ports : t.ports = s.ports
  me : t.me = st
  others : ∀ l j, (l, j) ≠ (s.cur.cluster, s.cur.ctx) → t.stream l j = s.stream l j

theorem State.Commits.farDrop {s t : State} {st : Stream} (h : s.Commits t st) (c k : Nat) : s.Commits (t.farDrop c k) st :=
  ⟨h.mem, h.marks, h.ports, h.me, h.others⟩

/-- Such a block commits its stream alone. -/
theorem commitEffects_commits {s : State} (none : s.me.effs = []) :
    ∃ es, s.Commits (commitEffects s [] s.cur.cluster s.cur.ctx) (s.me.traced s.me.view (s.cyclesOf s.cur.cluster) es).committed := by
  obtain ⟨es, x, y, streams, eq⟩ := commitEffects_of_no_effs none [] s.cur.cluster s.cur.ctx
  have kept := State.SameStreams.of_clusters (State.modCtx_cur s (s.cidAt s.cur.cluster s.cur.ctx) x) (State.modCtx_clusters ..)
  have turned := State.SameStreams.modCluster ((s.modCtx (s.cidAt s.cur.cluster s.cur.ctx) x).modMe fun st =>
    (st.traced st.view (s.cyclesOf s.cur.cluster) es).committed) s.cur.cluster streams
  rw [eq]
  refine ⟨es, State.modCtx_mem .., State.modCtx_marks .., State.modCtx_ports .., ?_, fun l j other => ?_⟩
  · rw [turned.me, ← kept.me]; exact State.stream_modStream_self ..
  · rw [turned.stream, ← kept.stream]
    exact State.stream_modStream_ne _ _ (by rwa [kept.cur])

theorem blockCommit_of_no_effs_commits {s : State} (phase : s.me.phase = .committing) (none : s.me.effs = []) :
    ∃ t cyc es, exec .blockCommit s = .next t ∧ s.Commits t (s.me.traced s.me.view cyc es).committed := by
  have counted : s.SameStreams (s.count s.cur.cluster 2 s.cur.ctx) := .count ..
  obtain ⟨es, commits⟩ := commitEffects_commits (s := s.count s.cur.cluster 2 s.cur.ctx) (by rw [counted.me]; exact none)
  rw [counted.me] at commits
  obtain ⟨mem, marks, ports, me, others⟩ := commits.farDrop s.cur.cluster s.cur.ctx
  exact ⟨_, _, es, blockCommit_of_no_effs phase none, mem, marks, ports, me, fun l j other => (others l j other).trans (counted.stream l j)⟩

/-! ### Asynchronous traps and the exit (R51, R234, R357) -/

section
variable {s : State} {e : Async} {as_ : List Async} (th : s.me.arch.th = false) (pending : s.me.asyncs = e :: as_)
include th pending

theorem asyncTrap_at_boundary (phase : s.me.phase = .ready) : exec .asyncTrap s =
    .next ((s.modMe fun st => { st with asyncs := as_ }).takeTrap s.cur.cluster s.cur.ctx e.code e.detail e.addr 0) := by
  have here : s.stream s.cur.cluster s.cur.ctx = s.me := rfl
  have stays : s.mayAbandon s.cur.cluster s.cur.ctx = false := by simp [State.mayAbandon, here, phase]
  simp only [exec, execAsyncTrap, th, pending, phase, stays, Bool.or_false, decide_true, Bool.not_true, Bool.false_eq_true, if_false]

theorem asyncTrap_at_wait (waits : s.mayAbandon s.cur.cluster s.cur.ctx = true) : exec .asyncTrap s =
    .next ((((s.modMe fun st => { st with asyncs := as_ }).muForget (s.cidAt s.cur.cluster s.cur.ctx) (4096 * s.cur.cluster + 3072 + s.cur.ctx)).count
      s.cur.cluster 3 s.cur.ctx).takeTrap s.cur.cluster s.cur.ctx e.code e.detail e.addr 0) := by
  simp only [exec, execAsyncTrap, th, pending, waits, Bool.or_true, Bool.or_false, Bool.not_true, Bool.false_eq_true, if_false, if_true]

end

theorem mayAbandon_of_waiting {s : State} (phase : s.me.phase = .inBlock) (waiting : s.me.waiting = true) :
    s.mayAbandon s.cur.cluster s.cur.ctx = true := by
  have here : s.stream s.cur.cluster s.cur.ctx = s.me := rfl
  simp [State.mayAbandon, here, phase, waiting]

theorem streamExited_of_idle {s : State} (phase : s.me.phase = .exiting) (queues : ∀ q ∈ s.me.queues, q.2 = []) (issued : s.me.issued = []) :
    exec .streamExited s = .next (s.modMe fun st => { st with phase := .exited }) := by
  have empty : s.me.queues.vals.all List.isEmpty = true := by
    simp only [Map.vals, List.all_map, List.all_eq_true, Function.comp_apply, List.isEmpty_iff]; exact queues
  exact if_pos ⟨phase, empty, by rw [issued]; rfl⟩

/-- Settles O29: each clause is the stop that its premises select, or the commit. -/
theorem streamSteps : Obligations.StreamSteps := by
  intro s s1 s2 s3 cls bad as_ e c k wait trap
  refine ⟨fun phase => ⟨fun stop => ?_, fun go full => ?_, fun go room => ⟨fun b far => ?_, fun far => ?_⟩, fun go room far forks ranges => ?_⟩,
    ?_, fun phase th pending => ?_, fun waits th pending => ?_, fun phase queues issued => ?_⟩
  · have stopped := blockCommit_of_stop phase stop
    exact ⟨fun code => stopped.trans (if_neg code), fun code => stopped.trans (if_pos code)⟩
  · exact blockCommit_of_full phase go full
  · exact blockCommit_of_unanswered phase go room far
  · exact blockCommit_of_refused phase go room far
  · have commits := blockCommit_of_accepted phase go room far forks ranges
    exact ⟨fun free => commits.trans (if_pos free), fun full => commits.trans (if_neg (by rw [full]; exact Bool.false_ne_true))⟩
  · intro phase none v r
    obtain ⟨t, cyc, es, commits, mem, marks, ports, me, others⟩ := blockCommit_of_no_effs_commits phase none
    refine ⟨t, commits, mem, marks, ports, ?_⟩
    rw [me]
    obtain ⟨arch, view, effs, queues, issued, pc, next⟩ := Stream.traced_committed s.me s.me.view cyc es
    exact ⟨arch, view, effs, queues, issued, pc, next, others⟩
  · exact asyncTrap_at_boundary th pending phase
  · exact asyncTrap_at_wait th pending (waits.elim (fun h => mayAbandon_of_waiting h.1 h.2) id)
  · exact streamExited_of_idle phase queues issued

end Sys2Proof.Machine
end


section
/-! O36 to O38: operations on changes, their times, joins and reductions. A firing's result is read off the operation's equation, once the conditions
under which it fails are excluded. -/
namespace Sys2Proof.Machine

variable {s : State} {i : Instr} {f : Firing} {e : Elem} {a b : Token} {col : BitVec 6} {tag : BitVec 12}

/-- A whole operand is not of an odd width. -/
theorem oddWidth_of_whole {ty n : Nat} (h : ty = 2 → n % 2 = 0) : oddWidth ty n = false := by
  unfold oddWidth
  by_cases ht : ty = 2
  · simp [h ht]
  · simp [ht]

section
variable (h : s.CanFire f e) (ha : f.a = some a)
include h ha

/-- An operation on A that gives one token. -/
theorem emits_of_withA {g : State → Firing → Token → Res} {t : Token} (hi : exec i s = fire s fun s f => withA f (g s f))
    (hg : g s f a = one s f t) : Emits s i f t :=
  fires_of_withA h ha hi hg

/-- An operation on A whose one token has the result's colour. -/
theorem emits_of_recoloured {g : State → Firing → Token → Res} {mk : BitVec 6 → BitVec 12 → Token} (hc : s.recolourK f a = some (col, tag))
    (hi : exec i s = fire s fun s f => withA f (g s f)) (hg : g s f a = recoloured s f a fun c t => [mk c t]) : Emits s i f (mk col tag) :=
  fires_of_withA h ha hi (hg.trans (recoloured_some hc _))

/-- An operation on A and B that gives one token. -/
theorem emits_of_withAB {g : State → Firing → Token → Token → Res} {t : Token} (hb : f.b = some b)
    (hi : exec i s = fire s fun s f => withAB f (g s f)) (hg : g s f a b = one s f t) : Emits s i f t :=
  fires_of_withAB h ha hb hi hg

/-- A test of A's and B's times (R272). -/
theorem steers_of_ctTest {g : Time → Time → Bool} (hb : f.b = some b) (hi : exec i s = fire s (ctTest g)) :
    Steers s i f a (g a.time b.time) :=
  fires_of_withAB h ha hb hi rfl

end

/-- Settles O38: each operation is its own equation, its failing condition excluded by the premise. -/
theorem changeTimeResults : Obligations.ChangeTimeResults := by
  unfold Obligations.ChangeTimeResults
  intro s f e a col tag h ha d t j at_
  refine ⟨fun hc => ⟨fun hd => ?_, fun hd => ?_⟩, fun hd ht => ?_, fun b hb => ⟨fun hge hlt => ?_, fun hle => ?_, fun hlt hw => ?_, ?_, ?_, ?_, ?_⟩⟩
  · exact emits_of_recoloured h ha hc (mk := fun c t => { at_ _ with colour := c, tag := t }) rfl (if_neg (Nat.not_le.2 hd))
  · exact emits_of_recoloured h ha hc (mk := fun c t => { at_ _ with colour := c, tag := t }) rfl (if_neg hd)
  · exact emits_of_withA h ha rfl (if_neg (not_or.2 ⟨hd, Nat.not_lt.2 ht⟩))
  · exact emits_of_withAB h ha hb rfl (if_neg (not_or.2 ⟨Nat.not_lt.2 hge, Nat.not_le.2 hlt⟩))
  · exact emits_of_withAB h ha hb rfl (if_pos hle)
  · exact emits_of_withAB h ha hb rfl ((if_neg (Nat.not_le.2 hlt)).trans (if_neg (Nat.not_le.2 hw)))
  · exact steers_of_ctTest h ha hb rfl
  · exact steers_of_ctTest h ha hb (g := fun x y => x.lt y) rfl
  · exact steers_of_ctTest h ha hb (g := fun x y => decide (x = y)) rfl
  · exact steers_of_ctTest h ha hb (g := fun x y => !(x.le y) && !(y.le x)) rfl

/-- Settles O37: the operands' groups are those of the slot, and the premises exclude the full group and the colour that is not allocated. -/
theorem joinResults : Obligations.JoinResults := by
  unfold Obligations.JoinResults
  intro s f e a b col tag h ha x da db v
  refine ⟨fun hb hc => ⟨?_, fun q hq => ?_⟩, ?_⟩
  · refine fires_of_withAB h ha hb rfl ?_
    simp only [hc]
    rfl
  · intro ga gb hfn hga hgb
    have hi : exec q.1 s = fire s ceCred := by
      simp only [List.mem_cons, List.not_mem_nil, or_false] at hq
      obtain rfl | rfl | rfl | rfl := hq <;> rfl
    refine fires_of_withAB h ha hb hi ?_
    have hok : ¬(ga.length > groupMax ∨ gb.length > groupMax) := by simp only [groupMax]; omega
    simp only [slotOf_eq h]
    refine (if_neg hok).trans ?_
    simp only [State.credToks, hc, Option.map_some, elemOf_eq h, hfn]
    rfl
  · intro ts hlen hwin
    have hok : ¬(ts.length > groupMax ∨ (sumsOf da ts).length > e.window f.slot) := by simp only [groupMax]; omega
    refine ⟨fun hl => ?_, fun hl => ?_⟩
    · refine fires_of_withA h ha rfl ?_
      simp only [slotOf_eq h, elemOf_eq h]
      exact (if_neg hok).trans (if_pos hl)
    · refine fires_of_withA h ha rfl ?_
      simp only [slotOf_eq h, elemOf_eq h]
      exact (if_neg hok).trans (if_neg (by simp [hl]))

/-- Settles O36: operation by operation, the width and pair conditions excluded by the premises. -/
theorem changeResults : Obligations.ChangeResults := by
  unfold Obligations.ChangeResults
  intro s f e a col tag h ha d v vs z loc cid flt whole
  have hk := kconst_eq h 0
  have he := elemOf_eq h
  refine ⟨fires_of_withA h ha rfl rfl, fun hw hb => ?_, fun b hb => ⟨fun hw hc => ?_, fun hr ht => ?_⟩, fun good => ⟨fun b hb hw => ?_, fun hb => ?_⟩,
    fun hc => ⟨fun hw => ?_, ?_⟩, fires_of_withA h ha rfl rfl, fires_of_withA h ha rfl rfl, fun x hx hpos => ?_⟩
  · refine emits_of_withA h ha rfl ?_
    have hbw : (f.b.toList.any fun b => oddWidth v.ty b.width) = false := by
      cases hfb : f.b with
      | none => rfl
      | some b => simpa using oddWidth_of_whole (hb b hfb)
    simp only [he, hk, Nat.add_zero]
    exact if_neg (by rw [oddWidth_of_whole hw, hbw]; decide)
  · refine fires_of_withAB h ha hb rfl ?_
    exact (if_neg (by omega)).trans (recoloured_some hc _)
  · exact fires_of_withAB h ha hb rfl (if_neg (not_or.2 ⟨not_not.2 hr, not_not.2 ht⟩))
  · refine emits_of_withA h ha rfl ?_
    simp only [he, hb]
    exact if_neg (by rw [good, oddWidth_of_whole hw]; decide)
  · refine emits_of_withA h ha rfl ?_
    simp only [he, hk, hb, Nat.add_zero]
    exact if_neg (by rw [good, oddWidth_of_whole fun _ => rfl]; decide)
  · refine emits_of_recoloured h ha hc (mk := fun c t => { a with kind := kDense, colour := c, tag := t, lanes := _, aux := _ }) rfl ?_
    simp only [he]
    exact if_neg (by rw [oddWidth_of_whole hw]; decide)
  · exact emits_of_recoloured h ha hc (mk := fun c t => { a with kind := kDense, colour := c, tag := t, lanes := s.lane0 f a c (s.hashOf f a) }) rfl rfl
  · refine fires_of_withA h ha rfl ?_
    simp only [cid] at hx
    simp only [hx]
    exact if_neg (Int.not_le.2 hpos)

end Sys2Proof.Machine
end


section
/-! O34: tags, colour allocation, pack and unpack. -/
namespace Sys2Proof.Machine

variable {s : State} {i : Instr} {f : Firing} {e : Elem} {a : Token} {col : BitVec 6} {tag : BitVec 12}

/-! ### Colour allocation (R263, R373) -/

/-- A slot none of whose waiting tokens has the colour keeps its entries when the colour is granted again (R373). -/
theorem SlotSt.rekey_of_other {y : SlotSt} {q o : Nat} (rel : Token → Nat) (hne : o ≠ q)
    (hy : ∀ en ∈ y.entries, ∀ t ∈ en.2.toks, t.2.colour.toNat = o) : y.rekey q rel = y := by
  have none_moves (p : Nat × Entry → Bool) : ((y.entries.filter p).flatMap fun en =>
      (en.2.toks.filter fun t => decide (t.2.colour.toNat = q)).map fun t => (en.1, t)) = [] := by
    simp only [List.flatMap_eq_nil_iff, List.map_eq_nil_iff, List.filter_eq_nil_iff, decide_eq_true_eq]
    exact fun en hen t ht hq => hne ((hy en (List.mem_of_mem_filter hen) t ht).symm.trans hq)
  simp only [SlotSt.rekey, none_moves, List.foldl_nil]

/-- What no step of a fold changes, the fold does not change. -/
theorem foldl_keeps {α β γ : Type} (p : β → γ) {step : β → α → β} (hstep : ∀ b x, p (step b x) = p b) (l : List α) (b : β) :
    p (l.foldl step b) = p b := by
  induction l generalizing b with
  | nil => rfl
  | cons x l ih => exact (ih _).trans (hstep b x)

/-- A grant changes no context beside the allocation, and no memory: tokens of the colour that still wait are in elements alone (R373). -/
theorem grantColour_frame (s : State) (c k : Nat) (x : Ctx) (col : Nat) (al : ColourAlloc) :
    (s.grantColour c k x col al).mem = s.mem ∧
    (s.grantColour c k x col al).ctxs = (s.modCtx (s.cidAt c k) fun x => { x with allocs := x.allocs.set col al }).ctxs := by
  have allocs : (s.modCtx (s.cidAt c k) fun x => { x with allocs := x.allocs.set col al }).mem = s.mem := by
    unfold State.modCtx
    split <;> rfl
  unfold State.grantColour
  split
  · exact ⟨allocs, rfl⟩
  · constructor
    · exact (foldl_keeps State.mem (fun s p => foldl_keeps State.mem (fun s site => State.modElem_mem ..) _ s) _ _).trans allocs
    · exact foldl_keeps State.ctxs (fun s p => foldl_keeps State.ctxs (fun s site => State.modElem_ctxs ..) _ s) _ _

/-! ### pack (R264) -/

/-- A group that lacks a place gives fewer than g members. -/
theorem packGroup_lacks {rel : Token → Nat} {g j : Nat} {ts : List Token} (hj : j < g) (hn : (ts.find? fun t => decide (rel t % g = j)) = none) :
    ((packGroup rel g ts).filterMap id).length < g := by
  have lacks : none ∈ packGroup rel g ts := List.mem_map.2 ⟨j, List.mem_range.2 hj, hn⟩
  have : (packGroup rel g ts).length = g := by simp [packGroup]
  exact (List.length_filterMap_lt_length_iff_exists.2 ⟨none, lacks, rfl⟩).trans_eq this

/-- A group that has a token of each place gives them in the order of their places. -/
theorem packGroup_full {rel : Token → Nat} {g : Nat} {mine ts : List Token} (hl : ts.length = g)
    (hts : ∀ j, j < g → ts[j]? = mine.find? fun t => decide (rel t % g = j)) : (packGroup rel g mine).filterMap id = ts := by
  have : packGroup rel g mine = ts.map some := by
    refine List.ext_getElem? fun j => ?_
    simp only [packGroup, List.getElem?_map]
    by_cases hj : j < g
    · simp [← hts j hj, hj, hl]
    · simp [hj, hl]
  rw [this, List.filterMap_map]
  simp

/-- The ratios at which pack and unpack work (R264). -/
theorem packs_of_mem {g : Nat} (hg : g ∈ [2, 4, 8, 16, 32]) : packs g = true := List.contains_iff_mem.2 hg

/-- A freed colour leaves its context's allocations and its waves are forgotten (R292). -/
theorem freeColour_of_allocated {c k q : Nat} {x : Ctx} {al : ColourAlloc} (hd : (s.declOf c k q).dyn = true) (hx : s.ctxAt c k = some x)
    (hal : x.allocs.find? q = some al) : s.freeColour c k q =
      (x.places.foldl (fun s p => s.modRegion p.1 p.2 fun r => r.forgetWaves q) s).modCtx (s.cidAt c k) fun x =>
        { x with allocs := x.allocs.del q, freed := x.freed.set q al } := by
  simp only [State.freeColour, hx, hal, hd]
  rfl

/-- A static colour is never freed (R243). -/
theorem freeColour_of_static {c k q : Nat} (hd : (s.declOf c k q).dyn = false) : s.freeColour c k q = s := by
  unfold State.freeColour
  split
  · rfl
  · split
    · rfl
    · exact if_pos (by rw [hd]; rfl)

section
variable {col : Nat} {al : ColourAlloc} (h : s.CanFire f e) (ha : f.a = some a) (hcol : (e.const f.info.w.k.toNat).toNat % 64 = col)
  (hal : s.alloc? f.c f.k col = some al)
include h ha hcol hal

/-- What pack does with the members that its group then has (R264). -/
theorem fires_pack {g : Nat} {r : FireOk} {ts : List Token} (hg : al.width = g * a.width) (ha0 : a.width ≠ 0) (hgs : g ∈ [2, 4, 8, 16, 32])
    (hts : (packGroup (s.relTag f.c f.k) g (((e.slot f.slot).group ++ [a]).filter fun t =>
      decide (t.colour = a.colour) && decide (t.width = a.width) && decide (s.relTag f.c f.k t / g = s.relTag f.c f.k a / g))).filterMap id = ts)
    (hr : (if ts.length < g then .ok { st := s.putSlot f { e.slot f.slot with group := (e.slot f.slot).group ++ [a] } }
      else one (s.putSlot f { e.slot f.slot with group := ts.foldl List.erase ((e.slot f.slot).group ++ [a]) }) f
        { a with
          colour := BitVec.ofNat 6 col, tag := BitVec.ofNat 12 (al.base + s.relTag f.c f.k a / g % al.n),
          lanes := fitLanes al.width (ts.flatMap fun t => t.lanes), last := ts.any fun t => t.last,
          poison := ts.any fun t => t.poison }) = Res.ok r) : Fires s .pack f r := by
  subst hts
  have ratio : al.width / a.width = g := by rw [hg, Nat.mul_div_cancel _ (Nat.pos_of_ne_zero ha0)]
  have ok : ¬(a.width = 0 ∨ al.width % a.width ≠ 0 ∨ !(packs (al.width / a.width))) := by
    rw [ratio, packs_of_mem hgs, hg, Nat.mul_mod_left]; simp [ha0]
  refine fires_of_withA h ha rfl ?_
  simp only [kconst_eq h, Nat.add_zero, hcol, hal, slotOf_eq h]
  refine (if_neg ok).trans ?_
  rw [ratio]
  exact hr

theorem fires_unpack {g : Nat} (hg : a.width = g * al.width) (hal0 : al.width ≠ 0) (hgs : g ∈ [2, 4, 8, 16, 32]) : Fires s .unpack f
    { st := s,
      outs := (List.range g).map fun i => (f.out, { a with
        colour := BitVec.ofNat 6 col, tag := BitVec.ofNat 12 (al.base + (s.relTag f.c f.k a * g + i) % al.n),
        lanes := (a.lanes.drop (i * al.width)).take al.width, last := a.last && decide (i + 1 = g) }) } := by
  have ratio : a.width / al.width = g := by rw [hg, Nat.mul_div_cancel _ (Nat.pos_of_ne_zero hal0)]
  have ok : ¬(al.width = 0 ∨ a.width % al.width ≠ 0 ∨ !(packs (a.width / al.width))) := by
    rw [ratio, packs_of_mem hgs, hg, Nat.mul_mod_left]; simp [hal0]
  refine fires_of_withA h ha rfl ?_
  simp only [kconst_eq h, Nat.add_zero, hcol, hal]
  refine (if_neg ok).trans ?_
  rw [ratio]

end

/-- Settles O34: an equation of each operation, with the group of pack taken apart by the places it has. -/
theorem tagAndPackResults : Obligations.TagAndPackResults := by
  unfold Obligations.TagAndPackResults
  constructor
  · intro s f e a col tag h ha r kN at_
    refine ⟨emits_of_withA h ha rfl rfl, ?_, fun hc => ⟨?_, ?_⟩, ⟨fun hd => ?_, fun x al hd hx hal => ?_⟩, ?_⟩
    · refine emits_of_withA h ha rfl ?_
      simp only [kconst_eq h]
      rfl
    · exact emits_of_recoloured h ha hc (mk := fun c t => { a with colour := c, tag := t, lanes := s.lane0 f a c _ }) rfl rfl
    · exact emits_of_recoloured h ha hc (mk := fun c t => { a with colour := c, tag := t, lanes := s.lane0 f a c _ }) rfl rfl
    · exact fires_of_withA h ha rfl (by rw [freeColour_of_static hd])
    · exact fires_of_withA h ha rfl (by rw [freeColour_of_allocated hd hx hal]; rfl)
    · intro x d b q n w hx hd hn hq hb
      obtain ⟨hm, hc⟩ := grantColour_frame s f.c f.k x q ⟨b, n, w⟩
      refine ⟨⟨hm, hc, fun hfree => ?_, fun o ho y _ hy => SlotSt.rekey_of_other _ ho hy⟩, fires_of_withA h ha rfl ?_⟩
      · unfold State.grantColour
        exact if_pos (Option.isNone_iff_eq_none.2 hfree)
      · simp only [kconst_eq h, Nat.add_zero, hx]
        simp only [q, n, kN] at hd hq hb
        simp only [hd, hq]
        refine (if_neg (Nat.not_lt.2 hn)).trans ((if_neg (by decide)).trans ?_)
        rw [hb]
        rfl
  · intro s f e a al h ha col r x hal
    refine ⟨fun g hg ha0 hgs => ⟨fun ⟨j, hj, hn⟩ => ?_, fun ts hl hts => ?_⟩, fun g hg hal0 hgs => fires_unpack h ha rfl hal hg hal0 hgs⟩
    · exact fires_pack h ha rfl hal hg ha0 hgs rfl (if_pos (packGroup_lacks hj hn))
    · exact fires_pack h ha rfl hal hg ha0 hgs (packGroup_full hl hts) (if_neg (by omega))

end Sys2Proof.Machine
end


section
/-! O41: arrangements. Every result takes its colour by `arrResult`; what remains is the choice that an operation makes by its consolidated records. -/
namespace Sys2Proof.Machine

variable {s : State} {f : Firing} {e : Elem} {w : MeW} {a : Token} {col : BitVec 6} {tag : BitVec 12}

/-- The token that tells how many records an arrangement operation has left (R295). -/
def recordCount (a : Token) (col : BitVec 6) (tag : BitVec 12) (n : Nat) (poison : Bool) : Token :=
  { a with kind := kDense, colour := col, tag := tag, poison := a.poison || poison, lanes := [BitVec.ofNat 32 n] }

section
variable (h : s.CanFire f e) (hc : s.recolour f ((e.const (w.k.toNat + 1)).toNat % 64) a = some (col, tag))
include h hc

theorem arrResult_granted (st : State) (mk : BitVec 6 → BitVec 12 → List Token) :
    arrResult s f w a st mk = .ok { st := st, outs := (mk col tag).map fun x => (0, x) } := by
  simp only [arrResult, elemOf_eq h, hc]

theorem arrCount_granted (st : State) (n : Nat) (poison : Bool) :
    arrCount s f w a st n poison = .ok { st := st, outs := [(0, recordCount a col tag n poison)] } :=
  arrResult_granted h hc ..

variable (ha : f.a = some a)
include ha

/-- An arrangement operation that ends with the number of its records. -/
theorem fires_of_arrCount {i : Instr} {g : State → Firing → Token → Res} {st : State} {n : Nat} {poison : Bool}
    (hi : exec i s = fire s fun s f => withA f (g s f)) (hg : g s f a = arrCount s f w a st n poison) :
    Fires s i f { st := st, outs := [(0, recordCount a col tag n poison)] } :=
  fires_of_withA h ha hi (hg.trans (arrCount_granted h hc ..))

end

/-! ### What an operation does, as its records are consolidated -/

/-- The result of arr.ins at the close of a group whose consolidated records are `r` (R295). -/
def insClose (s : State) (f : Firing) (e : Elem) (w : MeW) (a : Token) (put : State → List Token → State) (r : Sums) : Res :=
  let ts := (e.slot f.slot).group ++ [a]
  let ar := areaOf (e.const w.k.toNat)
  let arr := s.arrOf f w.dslot.toNat
  let rec_ (t : Token) : List Word := fitLanes (ar.kl + ar.vl) t.record
  if r = [] then arrCount s f w a (put s []) 0 (ts.any Token.poison)
  else if arr.free + ar.bytes r.length > ar.len then .ok { st := put s [], outs := [(0, f.error 0x0B 1)] }
  else
    let s1 := s.writeBatch f ar (ar.start + arr.free) (s.ownAddr f arr.batches.head?) { recs := r } fun q =>
      ts.any fun t => t.poison && decide ((rec_ t, t.time) = q)
    arrCount s f w a (put (s1.setArr f w.dslot.toNat { batches := (ar.start + arr.free) :: arr.batches, free := arr.free + ar.bytes r.length }) [])
      r.length (ts.any Token.poison)

section
variable (h : s.CanFire f e) (ha : f.a = some a)
include h ha

theorem fires_arrIns_close {r : Sums} {y : FireOk} (hl : a.last = true)
    (hr : consolidate (((e.slot f.slot).group ++ [a]).map fun t =>
      (fitLanes ((areaOf (e.const w.k.toNat)).kl + (areaOf (e.const w.k.toNat)).vl) t.record, t.time, t.diff)) = some r)
    (hy : insClose s f e w a (fun s g => s.setSlot f.c f.site f.k f.slot { e.slot f.slot with group := g }) r = .ok y) :
    Fires s (.arrIns w) f y := by
  refine fires_of_withA h ha rfl ?_
  rw [← hy]
  simp only [elemOf_eq h]
  refine (if_neg (by simp [hl])).trans ?_
  simp only [hr]
  cases r <;> rfl

theorem fires_arrMrg {r : Sums} {y : FireOk}
    (hr : consolidate ((s.readBatches f w.dslot.toNat).2.flatMap fun b => b.2.recs) = some r)
    (hy : (let rd := s.readBatches f w.dslot.toNat
      let ar := areaOf (e.const w.k.toNat)
      let same := decide (((rd.2.map fun b => b.2.since).eraseDups).length = 1)
      if r = [] then arrCount s f w a (rd.1.setArr f w.dslot.toNat {}) 0 (batchesBad rd.2)
      else if ar.bytes r.length > ar.len then .err 0x0B 1
      else arrCount s f w a ((rd.1.writeBatch f ar ar.start 0
          { recs := r, since := if same then (rd.2.map fun b => b.2.since).headD [] else [], cmp := same && rd.2.all fun b => b.2.cmp }
          fun _ => batchesBad rd.2).setArr f w.dslot.toNat { batches := [ar.start], free := ar.bytes r.length }) r.length (batchesBad rd.2)) = .ok y) :
    Fires s (.arrMrg w) f y := by
  refine fires_of_withA h ha rfl ?_
  rw [← hy]
  simp only [elemOf_eq h, hr]
  cases r <;> rfl

end

/-- Settles O41: each operation reads and consolidates its records, and the result takes the colour k(N+1). -/
theorem arrangementResults : Obligations.ArrangementResults := by
  unfold Obligations.ArrangementResults
  constructor
  · intro s f e w a col tag recs h ha ar n arr x ts rec_ put count rd
    refine ⟨fun hl => ?_, fun hc => ⟨fun hl hr => ⟨fun hn => ?_, fun hn hroom => ?_⟩, fun hr => ⟨fun hn => ?_, fun hn hroom => ?_⟩⟩⟩
    · refine fires_of_withA h ha rfl ?_
      simp only [elemOf_eq h, hl]
      rfl
    · exact fires_arrIns_close h ha hl hr ((if_pos hn).trans (arrCount_granted h hc ..))
    · exact fires_arrIns_close h ha hl hr ((if_neg hn).trans ((if_neg (Nat.not_lt.2 hroom)).trans (arrCount_granted h hc ..)))
    · exact fires_arrMrg h ha hr ((if_pos hn).trans (arrCount_granted h hc ..))
    · exact fires_arrMrg h ha hr ((if_neg hn).trans ((if_neg (Nat.not_lt.2 hroom)).trans (arrCount_granted h hc ..)))
  · intro s f e w a col tag recs h ha ar n key rd mine hc
    refine ⟨fun hr => ?_, fun h1 h8 => ?_⟩
    · intro base outs
      refine fires_of_withA (i := .arrSeek w) h ha rfl ?_
      simp only [elemOf_eq h]
      rw [show consolidate _ = some recs from hr]
      refine (arrResult_granted h hc _ _).trans ?_
      simp only [List.isEmpty_iff]
      rfl
    · intro fr new hnew
      refine fires_of_arrCount (i := .arrCmpt w) h hc ha rfl ?_
      simp only [elemOf_eq h]
      refine (if_neg (by omega)).trans (if_neg fun lost => ?_)
      obtain ⟨b, hb, hnone⟩ := List.any_eq_true.1 lost
      exact Bool.false_ne_true ((Option.isNone_iff_eq_none.1 hnone ▸ rfl : b.2.2.isSome = false).symm.trans (hnew b hb))

end Sys2Proof.Machine
end


section
/-! O56: element commands, aging, and the arrival and loss of configuration units. -/
namespace Sys2Proof.Machine

variable {s : State} {e : Elem} {r : Region}

/-- What the fetch of a unit or of a box's words leaves: the region goes on when nothing of it is missing (R374). -/
def State.resumed (s : State) (c site k : Nat) : State :=
  (s.modRegion c k fun r => { r with frozen := r.frozen && !((s.cluster c).sites.vals.all fun x => !(x.refetch.contains k)) }).settle c site

section
variable (hr : s.region? s.cur.cluster s.cur.ctx = some r)
include hr

section
variable (he : s.elem? s.cur.cluster s.cur.site s.cur.ctx = some e) (hf : e.fetching = true) (hu : e.unit = none)
include he hf hu

/-- A missing unit that the cache holds, or whose digest is that of its load, arrives (R325). -/
theorem configUnitFetch_unit {u : ElemUnit} (hbox : (s.site s.cur.cluster s.cur.site).refetch.contains s.cur.ctx = false)
    (held : (s.cluster s.cur.cluster).cached s.cur.ctx s.cur.site r.image = some u ∨
      (s.cluster s.cur.cluster).cached s.cur.ctx s.cur.site r.image = none ∧
      r.digests.find? s.cur.site = some (s.unitDigest r.image s.cur.site) ∧ u = s.unitAt r.image s.cur.site) :
    exec .configUnitFetch s = .next
      (((((s.countFetch s.cur.cluster s.cur.ctx ((s.cluster s.cur.cluster).cached s.cur.ctx s.cur.site r.image).isNone).modElem
        s.cur.cluster s.cur.site s.cur.ctx fun e => { e with unit := some u, fetching := false }).modCluster s.cur.cluster fun x =>
        x.fetched ⟨s.cur.ctx, s.cur.site, r.image, u⟩)).resumed s.cur.cluster s.cur.site s.cur.ctx) := by
  have arrives : ((s.cluster s.cur.cluster).cached s.cur.ctx s.cur.site r.image).getD (s.unitAt r.image s.cur.site) = u ∧
      (((s.cluster s.cur.cluster).cached s.cur.ctx s.cur.site r.image).isNone &&
        decide (r.digests.find? s.cur.site ≠ some (s.unitDigest r.image s.cur.site))) = false := by
    obtain h | ⟨h, hd, rfl⟩ := held
    · simp [h]
    · simp [h, hd]
  obtain ⟨hu', hok⟩ := arrives
  simp only [exec, execConfigUnitFetch, hr, he, hf, hu, hbox, hu', hok, Option.isNone_none, Bool.and_self, Bool.true_and, Bool.false_and]
  rfl

/-- A missing unit with another digest ends the context (R375). -/
theorem configUnitFetch_wrong_unit (hc : (s.cluster s.cur.cluster).cached s.cur.ctx s.cur.site r.image = none)
    (hd : r.digests.find? s.cur.site ≠ some (s.unitDigest r.image s.cur.site)) :
    exec .configUnitFetch s = .next (s.faultEnd r.cid 0x0A 1 (s.stream s.cur.cluster s.cur.ctx).pc
      (BitVec.ofNat 64 (r.image + s.unitOff r.image s.cur.site)) 0) := by
  simp only [exec, execConfigUnitFetch, hr, he, hf, hu, hc, hd, Option.isNone_none, Bool.and_self, ne_eq, not_false_eq_true, decide_true]
  rfl

end

section
variable (hbox : (s.site s.cur.cluster s.cur.site).refetch.contains s.cur.ctx = true)
  (he : ∀ e, s.elem? s.cur.cluster s.cur.site s.cur.ctx = some e → (e.fetching && e.unit.isNone) = false)
include hbox he

/-- The words of a box that are fetched again arrive where its digest is that of its load (R374). -/
theorem configUnitFetch_box (hd : r.digests.find? (64 + s.cur.site) = some (s.boxDigest r.image s.cur.site)) :
    exec .configUnitFetch s = .next ((s.modSite s.cur.cluster s.cur.site fun x => { x with
      refetch := x.refetch.filter fun j => decide (j ≠ s.cur.ctx),
      words := x.words.map fun v => if v.ctx.toNat = s.cur.ctx ∧ v.pos < 24 then
        { s.boxWord r.image s.cur.site s.cur.ctx v.pos with buf := v.buf, switched := v.switched } else v }).resumed
        s.cur.cluster s.cur.site s.cur.ctx) := by
  cases hel : s.elem? s.cur.cluster s.cur.site s.cur.ctx with
  | none =>
    simp only [exec, execConfigUnitFetch, hr, hel, hbox, hd]
    simp [State.resumed]
  | some e =>
    simp only [exec, execConfigUnitFetch, hr, hel, he e hel, hbox, hd]
    simp [State.resumed]

/-- A box whose words have another digest ends the context (R375). -/
theorem configUnitFetch_wrong_box (hd : r.digests.find? (64 + s.cur.site) ≠ some (s.boxDigest r.image s.cur.site)) :
    exec .configUnitFetch s = .next (s.faultEnd r.cid 0x0A 1 (s.stream s.cur.cluster s.cur.ctx).pc
      (BitVec.ofNat 64 (r.image + s.imgSite r.image s.cur.site)) 0) := by
  cases hel : s.elem? s.cur.cluster s.cur.site s.cur.ctx with
  | none =>
    simp only [exec, execConfigUnitFetch, hr, hel, hbox]
    simp [hd]
  | some e =>
    simp only [exec, execConfigUnitFetch, hr, hel, he e hel, hbox]
    simp [hd]

end

/-- An uncorrectable word freezes the region, and what it was part of is fetched again (R374). -/
theorem configUncorrectable_eq (isBox : Bool) :
    let again (x : Site) : Site := { x with refetch := if x.refetch.contains s.cur.ctx then x.refetch else x.refetch ++ [s.cur.ctx] }
    let dropped := s.modCluster s.cur.cluster fun x =>
      { x with cc := x.cc.filter fun u => !(decide (u.k = s.cur.ctx) && decide (u.site = s.cur.site)) }
    exec (.configUncorrectable isBox) s = .next ((if isBox then dropped.modSite s.cur.cluster s.cur.site again
      else (dropped.modElem s.cur.cluster s.cur.site s.cur.ctx fun e => { e with unit := none, fetching := true }).modSite s.cur.cluster s.cur.site again).modRegion
        s.cur.cluster s.cur.ctx fun r => { r with frozen := true }) := by
  simp only [exec, execConfigUncorrectable, hr]

end

/-- Settles O56: the equation of each command, and the arrival and loss of a unit or a box by cases of what is missing. -/
theorem elementCommandsAndUnits : Obligations.ElementCommandsAndUnits := by
  unfold Obligations.ElementCommandsAndUnits
  refine ⟨fun s e t n f => ?_, fun s e r => ?_⟩
  · intro c k site gone
    refine ⟨fun ht => ?_, fun ht he => ⟨fun hl => ?_, fun u info p hl hi hp => ?_⟩, fun ht => ?_, fun hready he hpassed hrun => ?_⟩
    · simp only [exec, execFetch, c, k, site] at ht ⊢
      rw [ht]; rfl
    · simp only [exec, execUnlatch, c, k, site] at ht he ⊢
      rw [ht, he]; simp only [hl]; rfl
    · simp only [exec, execUnlatch, c, k, site] at ht he hi ⊢
      rw [ht, he]; simp only [hl, hi, hp, Option.bind_some]; rfl
    · simp only [exec, execAccclr, c, k, site] at ht ⊢
      rw [ht]; rfl
    · simp only [exec, execAgingPromotion, c, k, site] at hready he hrun ⊢
      rw [hready, he]
      exact if_neg (by simp [hrun, hpassed])
  · intro c k site dropped hr
    refine ⟨fun he hf hu hbox => ⟨fun unit held => configUnitFetch_unit hr he hf hu hbox held, fun hc hd => configUnitFetch_wrong_unit hr he hf hu hc hd⟩,
      fun hbox he => ?_, configUncorrectable_eq hr true, configUncorrectable_eq hr false⟩
    exact ⟨fun hd => configUnitFetch_box hr hbox he hd, fun hd => configUnitFetch_wrong_box hr hbox he hd⟩

end Sys2Proof.Machine
end


section
/-! O58: the report of the aggregate watchdog (R74) where cluster 0 is listed twice. -/
namespace Sys2Proof.Machine

/-- A state that lists cluster 0 twice: first with stream 1 of context 2 ready, then with a pointstamp of context 2. Contexts 1 and 2 have waited 2^20 cycles
at the aggregate of die 0. -/
def twiceListed : State :=
  { clusters := [(0, { streams := [(1, { phase := .ready })] }), (0, { stamps := [⟨2, 0, Time.zero, 1⟩] })],
    ctxs := [(1, { rcb := 0, regions := [⟨0, 0, 0, 0⟩] }), (2, { rcb := 0, regions := [⟨0, 1, 0, 0⟩] })],
    dies := [(0, { aggStall := [(1, 0), (2, 0)], aggWait := 2 ^ 20 })] }

/-- The addresses of the asynchronous traps of stream 1 of cluster 0. -/
def reportedTo (o : Out) : List DWord := match o with
  | .next s => (s.stream 0 1).asyncs.map Async.addr
  | _ => []

/-- The report to context 1 drops the second entry of cluster 0, so that the report to context 2 counts no live pointstamp. -/
theorem reportedTo_twiceListed : reportedTo (exec .aggregateWatchdog twiceListed) = [BitVec.ofNat 64 (2 ^ 63 + 2 ^ 16)] := by decide

/-- Refutes O58: the aggregate watchdog counts the live pointstamps of a context after its reports to the contexts before it, the statement before them. A report
writes its stream's cluster, which leaves one entry of a cluster that the table of clusters lists twice, and nothing in the statement makes that table canonical. -/
theorem not_commandAndWatchdogSteps : ¬ Obligations.CommandAndWatchdogSteps := by
  unfold Obligations.CommandAndWatchdogSteps
  intro h
  obtain ⟨-, -, watchdogs⟩ := h
  obtain ⟨-, aggregate, -⟩ := watchdogs twiceListed
  have said := aggregate (by decide) (by decide) rfl
  have live : reportedTo (exec .aggregateWatchdog twiceListed) = [BitVec.ofNat 64 (2 ^ 63 + 2 ^ 16 + 1)] := by
    rw [said]
    decide
  exact absurd (reportedTo_twiceListed.symm.trans live) (by decide)

end Sys2Proof.Machine
end


section
/-! O53: service actions. -/
namespace Sys2Proof.Machine

variable {s : State}

/-! ### Bytes put in order -/

theorem readByte_putBytes_outside (m : List Host.Cell) (k : Nat) (l : List Byte) {j : Nat} (h : j < k ∨ k + l.length ≤ j) :
    readByte (l.foldl (fun (a : List Host.Cell × Nat) b => (writeByte a.1 a.2 b, a.2 + 1)) (m, k)).1 j = readByte m j := by
  induction l generalizing m k with
  | nil => rfl
  | cons b l ih =>
    simp only [List.length_cons] at h
    refine (ih _ _ (by omega)).trans ?_
    rw [readByte_writeByte, if_neg (by omega)]

theorem readByte_putBytes (m : List Host.Cell) (k : Nat) (l : List Byte) {i : Nat} {b : Byte} (h : l[i]? = some b) :
    readByte (l.foldl (fun (a : List Host.Cell × Nat) b => (writeByte a.1 a.2 b, a.2 + 1)) (m, k)).1 (k + i) = b := by
  induction l generalizing m k i with
  | nil => cases h
  | cons c l ih =>
    cases i with
    | zero =>
      obtain rfl : c = b := Option.some.inj h
      exact (readByte_putBytes_outside _ _ l (.inl (by omega))).trans ((readByte_writeByte ..).trans (if_pos rfl))
    | succ i =>
      have := ih (writeByte m k c) (k + 1) (i := i) h
      rwa [Nat.add_assoc, Nat.add_comm 1] at this

/-! ### The report (R347, Table 14.13) -/

@[simp] theorem length_leBytes (n v : Nat) : (leBytes n v).length = n := by simp [leBytes]

theorem take_drop_append {α : Type} {p l r : List α} {o n : Nat} (hp : p.length = o) (hl : l.length = n) : ((p ++ (l ++ r)).drop o).take n = l := by
  rw [← hp, List.drop_left, ← hl, List.take_left]

/-- The parts of a report. -/
def State.reportParts (s : State) : List (List Byte) :=
  (List.range 4).map (fun i => leBytes 8 ((s.iod 0).attch.get (0 : DWord) i).toNat) ++
    [leBytes 8 (Config.moduleId.toNat * 2 ^ 52 + (s.reports + 1).toNat), leBytes 32 Config.policyDigest.toNat,
      leBytes 32 (s.firmware.getD Config.bootFirmwareDigest).toNat, leBytes 32 (s.stagedFw.getD 0).toNat,
      leBytes 32 (Config.sha3 ((List.range 384).flatMap fun c =>
        leBytes 32 ((s.cluster c).microcode.getD (Config.bootMicrocodeDigest c)).toNat)).toNat,
      List.ofFn Config.identityPub, List.ofFn Config.importPub]

theorem reportBody_eq (s : State) : s.reportBody = s.reportParts.flatten := by
  unfold State.reportBody State.reportParts
  cases s.stagedFw <;>
    simp only [Option.getD_none, Option.getD_some, List.flatMap_def, List.flatten_append, List.flatten_cons, List.flatten_nil, List.append_assoc,
      List.append_nil]
  rfl

/-- The lengths of the parts of a report. -/
theorem length_reportParts (s : State) : s.reportParts.map List.length = [8, 8, 8, 8, 8, 32, 32, 32, 32, 1312, 1184] := by
  simp only [State.reportParts, List.map_append, List.map_map, List.map_cons, List.map_nil, length_leBytes, List.length_ofFn]
  rfl

theorem length_reportBody (s : State) : s.reportBody.length = 0xA68 := by
  rw [reportBody_eq, List.length_flatten, length_reportParts]
  rfl

/-- The part of a report that begins at an offset. -/
theorem reportBody_part {j : Nat} {l : List Byte} {o n : Nat} (h : s.reportParts[j]? = some l)
    (ho : ([8, 8, 8, 8, 8, 32, 32, 32, 32, 1312, 1184].take j).sum = o) (hl : l.length = n) : (s.reportBody.drop o).take n = l := by
  obtain ⟨hj, hget⟩ := List.getElem?_eq_some_iff.1 h
  have cut : s.reportParts = s.reportParts.take j ++ l :: s.reportParts.drop (j + 1) := by
    rw [← hget, List.cons_getElem_drop_succ, List.take_append_drop]
  rw [reportBody_eq, cut, List.flatten_append, List.flatten_cons]
  refine take_drop_append ?_ hl
  rw [List.length_flatten, List.map_take, length_reportParts, ho]

/-! ### The registers of a die (Table 14.5) -/

/-- A die register as a window reads it. -/
def Die.reg (x : Die) (off : Nat) : DWord :=
  if 0x100 ≤ off ∧ off < 0x180 then BitVec.zeroExtend 64 (x.devsel.get (0 : BitVec 16) ((off - 0x100) / 8))
  else if 0x180 ≤ off ∧ off < 0x200 then BitVec.zeroExtend 64 (x.devcnt.get (0 : BitVec 48) ((off - 0x180) / 8))
  else if 0x1000 ≤ off ∧ off < 0x1200 then
    match off % 32 with
    | 0 => x.lqbase.get (0 : DWord) ((off - 0x1000) / 32)
    | 8 => BitVec.zeroExtend 64 (x.lqntf.get (0 : BitVec 9) ((off - 0x1000) / 32))
    | 16 => BitVec.zeroExtend 64 (x.lqhead.get (0 : BitVec 9) ((off - 0x1000) / 32))
    | _ => 0
  else match off with
    | 0 => x.drdy
    | 0x400 => x.xinvr
    | 0x408 => x.xinv
    | 0x800 => x.cfence
    | 0x808 => x.cmcode
    | 0xC00 => x.fqbase
    | 0xC08 => x.fqtail.zeroExtend 64
    | 0xC10 => x.fqhead.zeroExtend 64
    | 0xC18 => x.fqntf
    | 0xC20 => x.fqres
    | _ => 0

theorem dieRead_eq (s : State) (d off : Nat) : s.dieRead d off = (s.die d).reg off := rfl

namespace Die
variable (x : Die) (y : Nat)

theorem reg_xinvr (v : DWord) (h : y ≠ 0x400) : ({ x with xinvr := v } : Die).reg y = x.reg y := by
  unfold Die.reg
  split_ifs
  · rfl
  · rfl
  · rfl
  · split <;> simp_all

theorem reg_xinv (v : DWord) (h : y ≠ 0x408) : ({ x with xinv := v } : Die).reg y = x.reg y := by
  unfold Die.reg
  split_ifs
  · rfl
  · rfl
  · rfl
  · split <;> simp_all

theorem reg_fqbase (v : DWord) (h : y ≠ 0xC00) : ({ x with fqbase := v } : Die).reg y = x.reg y := by
  unfold Die.reg
  split_ifs
  · rfl
  · rfl
  · rfl
  · split <;> simp_all

theorem reg_fqhead (v : BitVec 7) (h : y ≠ 0xC10) : ({ x with fqhead := v } : Die).reg y = x.reg y := by
  unfold Die.reg
  split_ifs
  · rfl
  · rfl
  · rfl
  · split <;> simp_all

theorem reg_fqntf (v : DWord) (h : y ≠ 0xC18) : ({ x with fqntf := v } : Die).reg y = x.reg y := by
  unfold Die.reg
  split_ifs
  · rfl
  · rfl
  · rfl
  · split <;> simp_all

/-- An event select register: the others stand. -/
theorem reg_devsel {i : Nat} (v : BitVec 16) (h : y ≠ 0x100 + 8 * i) (h8 : y % 8 = 0) : ({ x with devsel := x.devsel.set i v } : Die).reg y = x.reg y := by
  unfold Die.reg
  split_ifs
  · rw [Map.get_set, if_neg (by omega)]
  · rfl
  · rfl
  · rfl

theorem reg_devcnt {i : Nat} (v : BitVec 48) (h : y ≠ 0x180 + 8 * i) (h8 : y % 8 = 0) : ({ x with devcnt := x.devcnt.set i v } : Die).reg y = x.reg y := by
  unfold Die.reg
  split_ifs
  · rfl
  · rw [Map.get_set, if_neg (by omega)]
  · rfl
  · rfl

theorem reg_lqbase {i : Nat} (v : DWord) (h : y ≠ 0x1000 + 32 * i) : ({ x with lqbase := x.lqbase.set i v } : Die).reg y = x.reg y := by
  unfold Die.reg
  split_ifs
  · rfl
  · rfl
  · split
    · rw [Map.get_set, if_neg (by omega)]
    · rfl
    · rfl
    · rfl
  · rfl

end Die

/-! ### Windows (Table 20.3) -/

theorem die_modDie (s : State) (d e : Nat) (f : Die → Die) : (s.modDie d f).die e = if e = d then f (s.die d) else s.die e := Map.get_mod ..
theorem iod_modIod (s : State) (d e : Nat) (f : Iod → Iod) : (s.modIod d f).iod e = if e = d then f (s.iod d) else s.iod e := Map.get_mod ..
theorem port_modPort (s : State) (d e : Nat) (f : Port → Port) : (s.modPort d f).port e = if e = d then f (s.port d) else s.port e := Map.get_mod ..

/-- What a window shows after a write of a die's registers. -/
theorem windowRead_modDie {w : Nat} (hw : w < 8) (f : Die → Die) (x y : Nat) :
    (s.modDie w f).windowRead x y = if y % 8 = 0 ∧ x = w then (f (s.die w)).reg y else s.windowRead x y := by
  unfold State.windowRead
  by_cases h8 : y % 8 = 0
  · by_cases hx : x = w
    · rw [if_neg (not_not.2 h8), if_pos (hx ▸ hw), dieRead_eq, die_modDie, if_pos hx, if_pos ⟨h8, hx⟩]
    · rw [if_neg (fun h : y % 8 = 0 ∧ x = w => hx h.2), dieRead_eq, die_modDie, if_neg hx]
      rfl
  · rw [if_pos h8, if_neg (fun h : y % 8 = 0 ∧ x = w => h8 h.1), if_pos h8]

/-- A write of register o of window w that reads r after it, and leaves every other register of the windows (R7). -/
def State.Puts (s : State) (w o : Nat) (v r : DWord) : Prop :=
  (s.windowWrite w o v).windowRead w o = r ∧ ∀ x y, (x, y) ≠ (w, o) → (s.windowWrite w o v).windowRead x y = s.windowRead x y

/-- A write of a die register that changes that one alone. -/
theorem puts_of_modDie {w o : Nat} {v r : DWord} {f : Die → Die} (hw : w < 8) (h8 : o % 8 = 0) (hwrite : s.dieWrite w o v = s.modDie w f)
    (hself : (f (s.die w)).reg o = r) (hother : ∀ y, y ≠ o → y % 8 = 0 → (f (s.die w)).reg y = (s.die w).reg y) : s.Puts w o v r := by
  have written : s.windowWrite w o v = s.modDie w f := by
    rw [← hwrite]
    unfold State.windowWrite
    rw [if_neg (not_not.2 h8), if_pos hw]
  refine ⟨?_, fun x y hxy => ?_⟩
  · rw [written, windowRead_modDie hw, if_pos ⟨h8, rfl⟩, hself]
  · rw [written, windowRead_modDie hw]
    split
    · next h =>
      obtain ⟨hy8, rfl⟩ := h
      rw [hother y (fun h => hxy (by rw [h])) hy8]
      unfold State.windowRead
      rw [if_neg (not_not.2 hy8), if_pos hw, dieRead_eq]
    · rfl

/-- The low bits of a register that keeps those alone. -/
theorem zeroExtend_truncate (v : DWord) (n : Nat) (hn : n ≤ 64) : (v.truncate n).zeroExtend 64 = v &&& BitVec.ofNat 64 (2 ^ n - 1) := by
  apply BitVec.eq_of_toNat_eq
  have small : 2 ^ n - 1 < 2 ^ 64 := lt_of_lt_of_le (Nat.sub_lt (Nat.two_pow_pos n) one_pos) (Nat.pow_le_pow_right (by decide) hn)
  have low : v.toNat % 2 ^ n < 2 ^ 64 := lt_of_le_of_lt (Nat.mod_le _ _) v.isLt
  rw [BitVec.toNat_and, BitVec.toNat_ofNat, Nat.mod_eq_of_lt small, Nat.and_two_pow_sub_one_eq_mod]
  simp only [BitVec.truncate_eq_setWidth, BitVec.toNat_setWidth, Nat.mod_eq_of_lt low]

section
variable {w i : Nat} (hw : w < 8) (hi : i < 16) (v : DWord)
include hw

theorem puts_xinvr : s.Puts w 0x400 v v := puts_of_modDie hw (by decide) rfl rfl fun y h _ => Die.reg_xinvr _ y _ h
theorem puts_fqbase : s.Puts w 0xC00 v (v &&& 0xFFFFFFFFFFFFF000#64) := puts_of_modDie hw (by decide) rfl rfl fun y h _ => Die.reg_fqbase _ y _ h
theorem puts_fqntf : s.Puts w 0xC18 v (v &&& 0x0FFFFFFFFFFFFFFF#64) := puts_of_modDie hw (by decide) rfl rfl fun y h _ => Die.reg_fqntf _ y _ h

theorem puts_fqhead : s.Puts w 0xC10 v (v &&& 127#64) := by
  refine puts_of_modDie hw (by decide) rfl ?_ fun y h _ => Die.reg_fqhead _ y _ h
  exact zeroExtend_truncate v 7 (by decide)

theorem puts_xinv (hx : (s.die w).xinv.getLsbD 63 = false) : s.Puts w 0x408 v (v &&& 0xF800FFFFFFFF0000#64) := by
  refine puts_of_modDie (f := fun x => { x with xinv := v &&& 0xF800FFFFFFFF0000#64 }) hw (by decide) ?_ rfl fun y h _ => Die.reg_xinv _ y _ h
  exact if_neg (c := (s.die w).xinv.getLsbD 63 = true) (by rw [hx]; decide)

include hi

theorem puts_devsel : s.Puts w (0x100 + 8 * i) v ((eventCode (v.truncate 16)).zeroExtend 64) := by
  have at_ : (0x100 + 8 * i - 0x100) / 8 = i := by omega
  refine puts_of_modDie (f := fun x => { x with devsel := x.devsel.set i (eventCode (v.truncate 16)) }) hw (by omega) ?_ ?_ fun y h h8 =>
    Die.reg_devsel _ y _ h h8
  · unfold State.dieWrite
    rw [if_pos (by omega), at_]
  · unfold Die.reg
    rw [if_pos (by omega), at_, Map.get_set_self]

theorem puts_devcnt : s.Puts w (0x180 + 8 * i) v (v &&& 0xFFFFFFFFFFFF#64) := by
  have at_ : (0x180 + 8 * i - 0x180) / 8 = i := by omega
  refine puts_of_modDie (f := fun x => { x with devcnt := x.devcnt.set i (v.truncate 48) }) hw (by omega) ?_ ?_ fun y h h8 =>
    Die.reg_devcnt _ y _ h h8
  · unfold State.dieWrite
    rw [if_neg (by omega), if_pos (by omega), at_]
  · unfold Die.reg
    rw [if_neg (by omega), if_pos (by omega), at_, Map.get_set_self]
    exact zeroExtend_truncate v 48 (by decide)

theorem puts_lqbase : s.Puts w (0x1000 + 32 * i) v (v &&& 0xFFFFFFFFFFFFF801#64) := by
  have at_ : (0x1000 + 32 * i - 0x1000) / 32 = i := by omega
  have first : (0x1000 + 32 * i) % 32 = 0 := by omega
  refine puts_of_modDie (f := fun x => { x with lqbase := x.lqbase.set i (v &&& 0xFFFFFFFFFFFFF801#64) }) hw (by omega) ?_ ?_ fun y h _ =>
    Die.reg_lqbase _ y _ h
  · unfold State.dieWrite
    rw [if_neg (by omega), if_neg (by omega), if_pos (by omega), at_, first]
    rfl
  · unfold Die.reg
    rw [if_neg (by omega), if_neg (by omega), if_pos (by omega), at_, first, Map.get_set_self]
    rfl

end

/-! ### The windows of the I/O dies -/

/-- A doubleword of an I/O die's window, where the ports and the other state of the die are told apart. -/
theorem windowRead_iod {i y : Nat} (hi : i < 2) (h8 : y % 8 = 0) : s.windowRead (8 + i) y = s.iodRead i y := by
  unfold State.windowRead
  rw [if_neg (not_not.2 h8), if_neg (by omega), if_pos (by omega), Nat.add_sub_cancel_left]

/-- A window reads alike in states whose dies and I/O dies read alike. -/
theorem windowRead_congr {t : State} {x y : Nat} (hd : y % 8 = 0 → t.dieRead x y = s.dieRead x y)
    (hi : y % 8 = 0 → 8 ≤ x → x < 10 → t.iodRead (x - 8) y = s.iodRead (x - 8) y) : t.windowRead x y = s.windowRead x y := by
  unfold State.windowRead
  split_ifs with h8 hw hw'
  · rfl
  · exact hd (not_not.1 h8)
  · exact hi (not_not.1 h8) (by omega) hw'
  · rfl

/-- The word of a report's challenge (Table 14.12). -/
theorem iodRead_attch {n : Nat} (v : DWord) {i y : Nat} (h8 : y % 8 = 0) (h : ¬(i = 0 ∧ y = 0x3100 + 8 * n)) :
    (s.modIod 0 fun x => { x with attch := x.attch.set n v }).iodRead i y = s.iodRead i y := by
  by_cases hi : i = 0
  · subst hi
    have hy : y ≠ 0x3100 + 8 * n := fun hy => h ⟨rfl, hy⟩
    unfold State.iodRead
    rw [iod_modIod, if_pos rfl]
    dsimp only
    split_ifs
    · rfl
    · rfl
    · rfl
    · rfl
    · exact absurd rfl ‹0 ≠ 0›
    · rfl
    · split
      · rfl
      · rw [Map.get_set, if_neg (by omega)]
      · rw [Map.get_set, if_neg (by omega)]
      · rw [Map.get_set, if_neg (by omega)]
      · rw [Map.get_set, if_neg (by omega)]
      · rfl
      · rfl
      · rfl
      · rfl
  · unfold State.iodRead
    rw [iod_modIod, if_neg hi]
    rfl

theorem puts_attch {n : Nat} (hn : n < 4) (v : DWord) : s.Puts 8 (0x3100 + 8 * n) v v := by
  have written : s.windowWrite 8 (0x3100 + 8 * n) v = s.modIod 0 fun x => { x with attch := x.attch.set n v } := by
    obtain rfl | rfl | rfl | rfl : n = 0 ∨ n = 1 ∨ n = 2 ∨ n = 3 := by omega
    · rfl
    · rfl
    · rfl
    · rfl
  refine ⟨?_, fun x y hxy => ?_⟩
  · rw [written]
    obtain rfl | rfl | rfl | rfl : n = 0 ∨ n = 1 ∨ n = 2 ∨ n = 3 := by omega
    all_goals
      rw [windowRead_iod (i := 0) (by decide) (by decide)]
      simp [State.iodRead, iod_modIod]
  · rw [written]
    refine windowRead_congr (fun _ => rfl) fun h8 _ _ => iodRead_attch v h8 ?_
    rintro ⟨hx, rfl⟩
    exact hxy (by rw [show x = 8 by omega])

/-- A port's register as its I/O die's window reads it (Tables 12.12 and 14.3). -/
def Port.reg (x : Port) (o : Nat) : DWord := match o with
  | 0 => x.pctl.zeroExtend 64
  | 8 => x.plim
  | 16 | 24 | 32 | 40 =>
    let cur := if x.txOnB then x.txB else x.txA
    let b (c : Bool) (n : Nat) : Nat := if c then 2 ^ n else 0
    [cur.ctr, x.plim, BitVec.ofNat 64 (b x.rxOnB 3 + b x.txOnB 2 + b x.txB.loaded 1 + b x.txA.loaded 0),
      BitVec.ofNat 64 (x.naks.toNat * 2 ^ 32)].getD ((o - 16) / 8) 0
  | _ => 0

theorem iodRead_port {i y : Nat} (h : 0x2000 ≤ y ∧ y < 0x2600) : s.iodRead i y = (s.port (24 * i + (y - 0x2000) / 64)).reg (y % 64) := if_pos h

/-- PLIM shows in its own register and in the second of link status. -/
theorem Port.reg_plim (x : Port) (v : DWord) {o : Nat} (h8 : o ≠ 8) (h24 : o ≠ 24) : ({ x with plim := v } : Port).reg o = x.reg o := by
  unfold Port.reg
  split <;> simp_all

theorem iodRead_plim {p i y : Nat} (v : DWord) (h : ¬(0x2000 ≤ y ∧ y < 0x2600 ∧ 24 * i + (y - 0x2000) / 64 = p ∧ (y % 64 = 8 ∨ y % 64 = 24))) :
    (s.modPort p fun x => { x with plim := v }).iodRead i y = s.iodRead i y := by
  by_cases hy : 0x2000 ≤ y ∧ y < 0x2600
  · rw [iodRead_port hy, iodRead_port hy, port_modPort]
    split
    · next hp => exact (Port.reg_plim _ v (fun h8 => h ⟨hy.1, hy.2, hp, .inl h8⟩) fun h24 => h ⟨hy.1, hy.2, hp, .inr h24⟩).trans (by rw [hp])
    · rfl
  · unfold State.iodRead
    rw [if_neg hy, if_neg hy]
    rfl

/-- A write of PLIM: it and the link status that shows it (Table 12.12). -/
theorem windowRead_plim {i w : Nat} (hi : i < 24) (hw : w = 8 ∨ w = 9) (v : DWord) :
    let t := s.windowWrite w (0x2008 + 64 * i) v
    t.windowRead w (0x2008 + 64 * i) = v ∧ t.windowRead w (0x2018 + 64 * i) = v ∧
      ∀ x y, (x, y) ≠ (w, 0x2008 + 64 * i) → (x, y) ≠ (w, 0x2018 + 64 * i) → t.windowRead x y = s.windowRead x y := by
  obtain ⟨n, hn, rfl⟩ : ∃ n, n < 2 ∧ w = 8 + n := by obtain rfl | rfl := hw; exacts [⟨0, by decide, rfl⟩, ⟨1, by decide, rfl⟩]
  have at_ : 24 * n + (0x2008 + 64 * i - 0x2000) / 64 = 24 * n + i := by omega
  have eight : (0x2008 + 64 * i) % 64 = 8 := by omega
  have written : s.windowWrite (8 + n) (0x2008 + 64 * i) v = s.modPort (24 * n + i) fun x => { x with plim := v } := by
    unfold State.windowWrite State.iodWrite
    rw [if_neg (by omega), if_neg (by omega), if_pos (by omega), Nat.add_sub_cancel_left, if_pos (by omega), eight, at_]
    rfl
  have shows {y o : Nat} (hy : 0x2000 ≤ y ∧ y < 0x2600) (hp : (y - 0x2000) / 64 = i) (ho : y % 64 = o) :
      (s.modPort (24 * n + i) fun x => { x with plim := v }).windowRead (8 + n) y =
        if y % 8 = 0 then ({ s.port (24 * n + i) with plim := v } : Port).reg o else 0 := by
    split
    · next h8 => rw [windowRead_iod hn h8, iodRead_port hy, hp, ho, port_modPort, if_pos rfl]
    · next h8 => exact if_pos h8
  refine ⟨?_, ?_, fun x y hself hstat => ?_⟩
  · rw [written, shows (by omega) (by omega) eight, if_pos (by omega)]
    rfl
  · rw [written, shows (o := 24) (by omega) (by omega) (by omega), if_pos (by omega)]
    rfl
  · rw [written]
    refine windowRead_congr (fun _ => rfl) fun h8 hx hx' => iodRead_plim v ?_
    rintro ⟨hy, hy', hp, ho⟩
    have hxn : x = 8 + n := by omega
    obtain ho | ho := ho
    · exact hself (by rw [hxn, show y = 0x2008 + 64 * i by omega])
    · exact hstat (by rw [hxn, show y = 0x2018 + 64 * i by omega])

/-- A write of a read-only register, or of none, changes nothing (R7). -/
theorem windowWrite_ignored {w off : Nat} (v : DWord)
    (h : (off % 8 ≠ 0 ∨ 10 ≤ w) ∨ (w < 8 ∧ off ∈ [0, 0xC08]) ∨ (w < 8 ∧ 0x1000 ≤ off ∧ off < 0x1200 ∧ off % 32 = 16) ∨
      (w = 8 ∨ w = 9) ∧ (off = 0 ∨ off = 0x100 ∨ 0x200 ≤ off ∧ off < 0x480 ∨ off = 0x3208)) : s.windowWrite w off v = s := by
  unfold State.windowWrite
  split_ifs with h8 hw hw'
  · rfl
  · simp only [List.mem_cons, List.not_mem_nil, or_false] at h
    obtain rfl | rfl | ⟨h0, h1, hm⟩ : off = 0 ∨ off = 0xC08 ∨ 0x1000 ≤ off ∧ off < 0x1200 ∧ off % 32 = 16 := by omega
    · rfl
    · rfl
    · unfold State.dieWrite
      rw [if_neg (by omega), if_neg (by omega), if_pos ⟨h0, h1⟩, hm]
      rfl
  · have hoff : off = 0 ∨ off = 0x100 ∨ 0x200 ≤ off ∧ off < 0x480 ∨ off = 0x3208 := by omega
    unfold State.iodWrite
    rw [if_neg (by omega), if_neg (by omega)]
    split
    · rfl
    · split <;> simp_all
  · rfl

/-! ### The key store (R345, R346) -/

/-- The address of the record of the request that KIMP asks for. -/
def State.keyRecord (s : State) : Nat := (s.iod 0).kimp.bits 63 6 * 64

theorem keyDone_eq (hin : s.keyRecord + 1152 ≤ 2 ^ 40) : s.keyDone = match s.recordOp s.keyRecord with
    | 0 => s.importKey s.keyRecord
    | 1 => s.removeKey s.keyRecord
    | _ => s.keyStatus 4 none := by
  unfold State.keyDone
  unfold State.keyRecord at hin ⊢
  exact if_neg (Nat.not_lt.2 hin)

section
variable (hgo : (s.iod 0).kimp.getLsbD 0 = true) (a : DWord)
include hgo

theorem keyImport_of_remove (hop : s.recordOp s.keyRecord = 1) : exec (.keyImport a) s = .next s := by
  have : s.asksRemove = true := decide_eq_true hop
  simp only [exec, execKeyImport, hgo, this, if_true]

theorem keyRemove_of_no_remove (hop : s.recordOp s.keyRecord ≠ 1) : exec (.keyRemove a) s = .next s := by
  have : s.asksRemove = false := decide_eq_false hop
  simp only [exec, execKeyRemove, hgo, this, if_true, Bool.false_eq_true, if_false]

variable (hin : s.keyRecord + 1152 ≤ 2 ^ 40)
include hin

theorem keyImport_of_other (hop : 2 ≤ s.recordOp s.keyRecord) : exec (.keyImport a) s = .next (s.keyStatus 4 none) := by
  have none_ : s.asksRemove = false := decide_eq_false (by show s.recordOp s.keyRecord ≠ 1; omega)
  obtain ⟨n, hn⟩ := Nat.exists_eq_add_of_le' hop
  have done : s.keyDone = s.keyStatus 4 none := by
    rw [keyDone_eq hin, hn]
    rfl
  simp only [exec, execKeyImport, hgo, none_, done, if_true, Bool.false_eq_true, if_false]

theorem keyImport_of_import (hop : s.recordOp s.keyRecord = 0) : exec (.keyImport a) s = .next (s.importKey s.keyRecord) := by
  have none_ : s.asksRemove = false := decide_eq_false (by show s.recordOp s.keyRecord ≠ 1; omega)
  have done : s.keyDone = s.importKey s.keyRecord := by
    rw [keyDone_eq hin, hop]
    rfl
  simp only [exec, execKeyImport, hgo, none_, done, if_true, Bool.false_eq_true, if_false]

theorem keyRemove_of_remove (hop : s.recordOp s.keyRecord = 1) : exec (.keyRemove a) s = .next (s.removeKey s.keyRecord) := by
  have asked : s.asksRemove = true := decide_eq_true hop
  have done : s.keyDone = s.removeKey s.keyRecord := by
    rw [keyDone_eq hin, hop]
    rfl
  simp only [exec, execKeyRemove, hgo, asked, done, if_true]

end

section
variable {k : Nat} (good : ¬(s.rd (hbm k + 6) 1 > 1 ∨ s.rd (hbm k) 6 ≠ 0 ∨ s.rd (hbm k + 0x478) 8 ≠ 0))
include good

theorem importKey_of_no_key (hk : Config.keyUnwrap (Config.mlkemDecap (bytesAt s.mem (hbm k + 0x10) 1088)) (bytesAt s.mem (hbm k + 0x450) 40) = none) :
    s.importKey k = s.keyStatus 2 none := by
  unfold State.importKey
  rw [if_neg good, hk]

section
variable {v : BitVec 256} (hk : Config.keyUnwrap (Config.mlkemDecap (bytesAt s.mem (hbm k + 0x10) 1088)) (bytesAt s.mem (hbm k + 0x450) 40) = some v)
include hk

theorem importKey_of_full (hf : ∀ i < 4096, (s.key i).valid = true) : s.importKey k = s.keyStatus 3 none := by
  have full : ((List.range 4096).find? fun i => !(s.key i).valid) = none :=
    List.find?_eq_none.2 fun i hi => by simp [hf i (List.mem_range.1 hi)]
  unfold State.importKey
  rw [if_neg good, hk]
  simp only [full]

/-- The key takes the lowest free entry, under its next generation. -/
theorem importKey_of_free {i : Nat} (hi : i < 4096) (hfree : (s.key i).valid = false) (hlow : ∀ j < i, (s.key j).valid = true) :
    let e : KeyEntry := { valid := true, typ := s.rd (hbm k + 6) 1, root := s.rd64 (hbm k + 8), gen := (s.key i).gen + 1, key := v }
    s.importKey k = State.keyStatus { s with keys := s.keys.set i e } 0 (some (e.gen.toNat * 2 ^ 20 + i)) := by
  intro e
  have lowest : ((List.range 4096).find? fun i => !(s.key i).valid) = some i := by
    rw [List.find?_range_eq_some]
    exact ⟨by simp [hfree], List.mem_range.2 hi, fun j hj => by simp [hlow j hj]⟩
  unfold State.importKey
  rw [if_neg good, hk]
  simp only [lowest]
  rfl

end
end

theorem handleEntry_of_named {h : Nat} (hn : (s.key (h % 4096)).valid = true ∧ h / 4096 % 256 = 0 ∧ (s.key (h % 4096)).gen.toNat = h / 2 ^ 20 % 4096) :
    s.handleEntry h = some (s.key (h % 4096)) := if_pos hn

theorem handleEntry_of_unnamed {h : Nat}
    (hn : ¬((s.key (h % 4096)).valid = true ∧ h / 4096 % 256 = 0 ∧ (s.key (h % 4096)).gen.toNat = h / 2 ^ 20 % 4096)) : s.handleEntry h = none := if_neg hn

/-- A removal of a good record (R346). -/
theorem removeKey_of_good {k : Nat} (good : ¬(s.rd (hbm k + 6) 1 > 1 ∨ s.rd (hbm k) 6 ≠ 0 ∨ s.rd (hbm k + 8) 8 ≠ 0 ∨
      s.zeroBytes (hbm k + 0x10) 1088 = false ∨ s.zeroBytes (hbm k + 0x454) 36 = false ∨ s.rd (hbm k + 0x478) 8 ≠ 0)) :
    s.removeKey k = match s.handleEntry (s.rd (hbm k + 0x450) 4) with
      | none => s.keyStatus 5 none
      | some e => State.keyStatus { s with keys := s.keys.set (s.rd (hbm k + 0x450) 4 % 4096) { valid := false, gen := e.gen + 1 } } 0 none := by
  simp only [← Bool.not_eq_true'] at good
  unfold State.removeKey
  exact if_neg good

theorem removeKey_of_bad {k : Nat} (bad : s.rd (hbm k + 6) 1 > 1 ∨ s.rd (hbm k) 6 ≠ 0 ∨ s.rd (hbm k + 8) 8 ≠ 0 ∨
      s.zeroBytes (hbm k + 0x10) 1088 = false ∨ s.zeroBytes (hbm k + 0x454) 36 = false ∨ s.rd (hbm k + 0x478) 8 ≠ 0) :
    s.removeKey k = s.keyStatus 4 none := by
  simp only [← Bool.not_eq_true'] at bad
  exact if_pos bad

theorem setBit_zero_false (x : DWord) : setBit x 0 false = x &&& ~~~1#64 := by
  unfold setBit
  rw [if_neg (by decide)]
  rfl

theorem setBit_true (x : DWord) (i : Nat) : setBit x i true = x ||| 1#64 <<< i := if_pos rfl

/-! ### Fencing, microcode, firmware, ports and faults -/

theorem setFence_false (d c : Nat) : s.setFence d c false = s.modDie d fun x => { x with cfence := setBit x.cfence c false } := rfl

theorem setFence_true (d c : Nat) : s.setFence d c true =
    if (s.die d).cfence.getLsbD c then s.modDie d fun x => { x with cfence := setBit x.cfence c true }
    else ((s.modDie d fun x => { x with cfence := setBit x.cfence c true }).evictFrom (48 * d + c)).settleFence (48 * d + c) := by
  simp only [State.setFence, Bool.true_and, Bool.not_eq_true']
  cases (s.die d).cfence.getLsbD c <;> rfl

/-- What the service of a record leaves of FQRES (R391). -/
def State.serving (s : State) (d act seq : Nat) : State := s.modDie d fun x => { x with fqres := BitVec.ofNat 64 (act % 4 * 2 ^ 32 + seq % 2 ^ 32) }

section
variable {d seq : Nat} {r : FaultRec} (hr : s.recAt d seq = some r) (hk : r.kind ≠ 4)
include hr hk

theorem service_retry : s.service d seq 0 = if s.retryWaits r then (s.serving d 0 seq).modDie d fun x => { x with fqres := setBit x.fqres 63 true }
    else ((s.serving d 0 seq).resume r).dropRec d seq := by
  simp only [State.service, hr, hk, if_false]
  rfl

theorem service_end : s.service d seq 1 =
    ((s.serving d 1 seq).dropRec d seq).faultEnd r.cid r.code r.detail (s.stream r.locus.cluster r.locus.ctx).pc r.va 0 := by
  simp only [State.service, hr, hk, if_false]
  rfl

end

/-! ### Microcode and firmware -/

section
variable {v : DWord} {d : Nat}

/-- A replacement for which CMCODE asks runs on its fenced cluster once its image verifies. -/
theorem microcodeDone_of_verified {h : BitVec 256} (h48 : (s.die d).cmcode.bits 9 4 < 48) (hf : s.fenced (48 * d + (s.die d).cmcode.bits 9 4) = true)
    (hi : Config.signedImage s.mem (hbm ((s.die d).cmcode.bits 63 16 * 2 ^ 16)) = some h) : s.microcodeDone d =
      (s.modDie d fun x => { x with cmcode := (s.die d).cmcode &&& ~~~1#64 }).modCluster (48 * d + (s.die d).cmcode.bits 9 4) fun x =>
        { x with microcode := some h } := by
  simp only [State.microcodeDone, h48, hf, hi, setBit_zero_false, decide_true, Bool.and_self, if_true]

theorem microcodeDone_of_not_verified (hbad : 48 ≤ (s.die d).cmcode.bits 9 4 ∨ s.fenced (48 * d + (s.die d).cmcode.bits 9 4) = false ∨
    Config.signedImage s.mem (hbm ((s.die d).cmcode.bits 63 16 * 2 ^ 16)) = none) :
    s.microcodeDone d = s.modDie d fun x => { x with cmcode := (s.die d).cmcode &&& ~~~1#64 } := by
  simp only [State.microcodeDone, setBit_zero_false]
  split
  · next running =>
    obtain ⟨h48, hf⟩ := Bool.and_eq_true_iff.1 running
    obtain h | h | h := hbad
    · exact absurd (of_decide_eq_true h48) (Nat.not_lt.2 h)
    · exact absurd (h.symm.trans hf) Bool.false_ne_true
    · rw [h]
  · rfl

theorem firmwareWrite_of_verified {h : BitVec 256} (hgo : v.getLsbD 0 = true)
    (hlo : (((s.iod 0).boundary.get (0 : DWord) 0x468).bits 63 16) * 2 ^ 16 ≤ v.bits 63 16 * 2 ^ 16)
    (hhi : v.bits 63 16 * 2 ^ 16 < (((s.iod 0).boundary.get (0 : DWord) 0x470).bits 63 16) * 2 ^ 16)
    (hi : Config.signedImage s.mem (memKey 1 0 (v.bits 63 16 * 2 ^ 16)) = some h) : s.firmwareWrite v =
      { s.modIod 0 (fun x => { x with fwstage := (v &&& 0xFFFFFFFFFFFF0000#64) ||| 1#64 }) with stagedFw := some h } := by
  simp only [State.firmwareWrite, hgo, decide_eq_true hlo, decide_eq_true hhi, Bool.not_true, Bool.false_eq_true, if_false, Bool.and_self, if_true, hi]

end

/-- The request of the key store that KIMP asks for from now on (Table 14.11). -/
theorem keyWrite_go (hgo : (s.iod 0).kimp.getLsbD 0 = false) (a : DWord) : s.keyWrite (a ||| 1#64) = s.modIod 0 fun x => { x with
    kimp := (a ||| 1#64) &&& 0xFFFFFFFFFFFFFFC1#64, kimpst := mixField x.kimpst (1#64 <<< 56) 63 56 } := by
  have go : (a ||| 1#64).getLsbD 0 = true := by rw [BitVec.getLsbD_or]; simp
  simp only [State.keyWrite, hgo, go, Bool.false_eq_true, if_false, if_true]

/-- The key store's answer clears go (Table 14.11). -/
theorem keyStatus_eq (st : Nat) (handle : Option Nat) : s.keyStatus st handle = s.modIod 0 fun x => { x with
    kimp := x.kimp &&& ~~~1#64, kimpst := BitVec.ofNat 64 (st * 2 ^ 56 + (handle.getD (x.kimpst.bits 31 0)) % 2 ^ 32) } := by
  simp only [State.keyStatus, setBit_zero_false]

/-- The signed report is written where there is room (R347). -/
theorem attest_eq : s.attest = if (s.iod 0).attgo.bits 63 13 * 8192 + 8192 > 2 ^ 40 then s.modIod 0 fun x => { x with attgo := x.attgo &&& ~~~1#64 }
    else { s.modIod 0 fun x => { x with attgo := x.attgo &&& ~~~1#64 } with
      mem := ((s.reportBody ++ List.ofFn (Config.mldsaSign (Config.sha3 s.reportBody))).foldl
        (fun (a : List Host.Cell × Nat) b => (writeByte a.1 a.2 b, a.2 + 1)) (s.mem, hbm ((s.iod 0).attgo.bits 63 13 * 8192))).1,
      reports := s.reports + 1 } := by
  simp only [State.attest, State.putBytes, setBit_zero_false, State.modIod_mem]

/-! ### The statement's parts -/

/-- Settles O53: part by part, each by the equation of its service. -/
theorem serviceActions : Obligations.ServiceActions := by
  unfold Obligations.ServiceActions
  refine ⟨fun s c v h => ?_, fun s port a v cap seq w off r => ?_⟩
  · intro d cl set
    refine ⟨fun hc => ⟨if_pos hc, fun hw => (if_pos hc).trans ?_, fun hw => (if_pos hc).trans ?_⟩, ?_, ?_, fun hst => ?_⟩
    · rw [setFence_true, hw]
      rfl
    · rw [setFence_true, hw]
      rfl
    · intro m w t
      refine ⟨fun hgo => ⟨fun h48 hf hi => ?_, fun hbad => ?_⟩, fun hgo => ?_⟩
      · exact congrArg Host.Outcome.next ((if_pos hgo).trans (microcodeDone_of_verified h48 hf hi))
      · exact congrArg Host.Outcome.next ((if_pos hgo).trans (microcodeDone_of_not_verified hbad))
      · have idle : ¬(s.die d).cmcode.getLsbD 0 = true := ne_true_of_eq_false hgo
        exact congrArg Host.Outcome.next ((if_neg idle).trans (if_neg idle))
    · intro a b hgo hlo hhi hi
      exact congrArg Host.Outcome.next (firmwareWrite_of_verified hgo hlo hhi hi)
    · simp only [exec, execFirmwareSwitch, hst, setBit_zero_false]
  · intro p d at_ answers puts asked
    have status (u : State) (st : Nat) (handle : Option Nat) : answers u st handle = u.keyStatus st handle := (keyStatus_eq st handle).symm
    refine ⟨fun hp => ⟨if_pos hp, if_pos hp, if_pos hp⟩, fun hgo => ?_, fun hgo hin => ?_, fun hgo => ?_, fun hgo => ?_, rfl, rfl, fun hw => ?_, fun hw => ?_,
      fun hw i hi => windowRead_plim hi hw v, fun hw hx => puts_xinv hw v hx, fun h => windowWrite_ignored v h, fun hr hk => ?_⟩
    · have idle : ¬(s.iod 0).kimp.getLsbD 0 = true := ne_true_of_eq_false hgo
      exact ⟨congrArg Host.Outcome.next ((if_neg idle).trans (keyWrite_go hgo a)), congrArg Host.Outcome.next ((if_neg idle).trans (keyWrite_go hgo a))⟩
    · simp only [status]
      refine ⟨keyRemove_of_no_remove hgo a, keyImport_of_remove hgo a, keyImport_of_other hgo a hin, fun hop => ?_, fun hop => ?_⟩
      · have done := keyImport_of_import hgo a hin hop
        refine ⟨fun bad => done.trans (congrArg _ (if_pos bad)), fun good hk => done.trans (congrArg _ (importKey_of_no_key good hk)),
          fun good v hk => ⟨fun hf => done.trans (congrArg _ (importKey_of_full good hk hf)), fun i hi hfree hlow =>
            done.trans (congrArg _ (importKey_of_free good hk hi hfree hlow))⟩⟩
      · have done := keyRemove_of_remove hgo a hin hop
        refine ⟨fun bad => done.trans (congrArg _ (removeKey_of_bad bad)), fun good hn => done.trans (congrArg _ ?_),
          fun good hn => done.trans (congrArg _ ?_)⟩
        · exact (removeKey_of_good good).trans (by rw [handleEntry_of_unnamed hn])
        · exact (removeKey_of_good good).trans (by rw [handleEntry_of_named hn])
    · have idle : ¬(s.iod 0).attgo.getLsbD 0 = true := ne_true_of_eq_false hgo
      exact congrArg Host.Outcome.next ((if_neg idle).trans (if_neg idle))
    · intro t dest body part
      have done : exec (.attestationReport a) s = .next s.attest := congrArg Host.Outcome.next (if_pos hgo)
      rw [done, attest_eq]
      refine ⟨fun hout => congrArg _ (if_pos hout), fun hin => ⟨_, congrArg _ (if_neg (Nat.not_lt.2 hin)), fun i b hb => readByte_putBytes _ _ _ hb,
        fun j hj => readByte_putBytes_outside _ _ _ ?_⟩, length_reportBody s, fun i hi => ?_, ?_, ?_, ?_, ?_, ?_, ?_⟩
      · rw [List.length_append, length_reportBody, List.length_ofFn]
        omega
      · obtain rfl | rfl | rfl | rfl : i = 0 ∨ i = 1 ∨ i = 2 ∨ i = 3 := by omega
        · exact reportBody_part (j := 0) rfl rfl (length_leBytes ..)
        · exact reportBody_part (j := 1) rfl rfl (length_leBytes ..)
        · exact reportBody_part (j := 2) rfl rfl (length_leBytes ..)
        · exact reportBody_part (j := 3) rfl rfl (length_leBytes ..)
      · exact reportBody_part (j := 4) rfl rfl (length_leBytes ..)
      · exact reportBody_part (j := 5) rfl rfl (length_leBytes ..)
      · exact reportBody_part (j := 6) rfl rfl (length_leBytes ..)
      · exact reportBody_part (j := 7) rfl rfl (length_leBytes ..)
      · exact reportBody_part (j := 9) rfl rfl (List.length_ofFn ..)
      · have rest : (body.drop 0x5C8).take 1184 = List.ofFn Config.importPub := reportBody_part (j := 10) rfl rfl (List.length_ofFn ..)
        rwa [List.take_of_length_le] at rest
        rw [List.length_drop, length_reportBody]
    · intro q hq
      simp only [List.mem_append, List.mem_cons, List.not_mem_nil, or_false, List.mem_map, List.mem_range] at hq
      obtain (((rfl | rfl | rfl | rfl) | ⟨i, hi, rfl⟩) | ⟨i, hi, rfl⟩) | ⟨i, hi, rfl⟩ := hq
      · exact puts_xinvr hw v
      · exact puts_fqbase hw v
      · exact puts_fqhead hw v
      · exact puts_fqntf hw v
      · exact puts_devsel hw hi v
      · exact puts_devcnt hw hi v
      · exact puts_lqbase hw hi v
    · exact fun i hi => puts_attch hi v
    · intro t u
      have retried : s.serving d 0 seq.toNat = t := by simp only [State.serving, t, Nat.zero_mod, Nat.zero_mul, Nat.zero_add]
      have ended : s.serving d 1 seq.toNat = u := by simp only [State.serving, u, Nat.one_mod, Nat.one_mul]
      have again := congrArg State.settleAll (service_retry hr hk)
      have done := congrArg State.settleAll (service_end hr hk)
      rw [retried] at again
      rw [ended] at done
      refine ⟨fun hn => congrArg Host.Outcome.next (again.trans ?_), fun hn => congrArg Host.Outcome.next (again.trans ?_), congrArg Host.Outcome.next done⟩
      · rw [if_neg (ne_true_of_eq_false hn)]
      · rw [if_pos hn]
        simp only [setBit_true]

end Sys2Proof.Machine
end


section
/-! O44: the MX accepts commands, a gang meets and starts, and a K-step adds every term. -/
namespace Sys2Proof.Machine

variable {s s1 : State} {c : Nat} {h : MxCmd} {w : MxW}

/-! ### Acceptance (R54, R300, R327) -/

/-- The largest of some numbers is one that is among them and that none exceeds. -/
theorem foldl_max_eq {l : List Nat} {n : Nat} (hn : n ∈ l) (hle : ∀ m ∈ l, m ≤ n) : l.foldl Nat.max 0 = n := by
  have top (k : Nat) (l : List Nat) (hle : ∀ m ∈ l, m ≤ n) (hk : k ≤ n) (hn : k = n ∨ n ∈ l) : l.foldl Nat.max k = n := by
    induction l generalizing k with
    | nil => exact hn.resolve_right (by simp)
    | cons m l ih =>
      have hm := hle m (List.mem_cons_self ..)
      refine ih (Nat.max k m) (fun x hx => hle x (List.mem_cons_of_mem _ hx)) (Nat.max_le.2 ⟨hk, hm⟩) ?_
      obtain rfl | hn := hn
      · exact .inl (Nat.max_eq_left hm)
      · obtain rfl | hn := List.mem_cons.1 hn
        · exact .inl (Nat.max_eq_right hk)
        · exact .inr hn
  exact top 0 l hle (Nat.zero_le _) (.inr hn)

/-- Of what is offered in the order of a round, the search for the highest rank ends at the first that has it. -/
theorem find?_offer_first {α : Type} {n i : Nat} {f : Nat → Option α} {x : α} {rank : α → Nat} (hi : i < n) (hx : f i = some x)
    (top : ∀ j y, j < n → f j = some y → rank y ≤ rank x ∧ (j < i → rank y < rank x)) :
    (((List.range n).filterMap f).find? fun y => decide (rank y = (((List.range n).filterMap f).map rank).foldl Nat.max 0)) = some x := by
  have mem : x ∈ (List.range n).filterMap f := List.mem_filterMap.2 ⟨i, List.mem_range.2 hi, hx⟩
  have highest : (((List.range n).filterMap f).map rank).foldl Nat.max 0 = rank x := by
    refine foldl_max_eq (List.mem_map_of_mem mem) fun m hm => ?_
    obtain ⟨y, hy, rfl⟩ := List.mem_map.1 hm
    obtain ⟨j, hj, hy⟩ := List.mem_filterMap.1 hy
    exact (top j y (List.mem_range.1 hj) hy).1
  have first : (List.range n).find? (fun j => (f j).any fun y => decide (rank y = rank x)) = some i := by
    rw [List.find?_range_eq_some]
    refine ⟨by simp [hx], List.mem_range.2 hi, fun j hj => ?_⟩
    cases hy : f j with
    | none => simp
    | some y => simpa using Nat.ne_of_lt ((top j y (hj.trans hi) hy).2 hj)
  rw [highest, List.find?_filterMap, first]
  exact hx

/-- Two changes of the MX that agree on what it is are one. -/
theorem modMx_congr {f g : Mx → Mx} (h : f (s.mxOf c) = g (s.mxOf c)) : s.modMx c f = s.modMx c g := by
  unfold State.modMx State.modCluster Map.mod
  exact congrArg (fun m => { s with clusters := s.clusters.set c { s.cluster c with mx := m } }) h

/-- An offer leaves the MX as it is. -/
theorem mxOf_of_mxOffer {src : Nat} (ho : s.mxOffer c src = some (s1, h)) : s1.mxOf c = s.mxOf c := by
  have same (u : State) (f : Cluster → Cluster) (hf : ∀ x, (f x).mx = x.mx) : (u.modCluster c f).mxOf c = u.mxOf c := by
    unfold State.mxOf State.cluster State.modCluster
    rw [Map.get_mod_self]
    exact hf _
  unfold State.mxOffer at ho
  split at ho
  · obtain ⟨q, -, hq⟩ := Option.map_eq_some_iff.1 ho
    rw [← (Prod.mk.inj hq).1]
    exact same _ _ fun _ => rfl
  · dsimp only at ho
    split at ho
    · cases ho
    · split at ho
      · cases ho
      · rw [← (Prod.mk.inj (Option.some.inj ho)).1]
        exact same _ _ fun _ => rfl

theorem mxAccept_eq {i : Nat} (room : (s.mxOf s.cur.cluster).buf.length < 16) (hi : i < 6)
    (ho : s.mxOffer s.cur.cluster (((s.mxOf s.cur.cluster).turn + i) % 6) = some (s1, h))
    (top : ∀ j t g, j < 6 → s.mxOffer s.cur.cluster (((s.mxOf s.cur.cluster).turn + j) % 6) = some (t, g) →
      s.firingPrio s.cur.cluster g.ctx ≤ s.firingPrio s.cur.cluster h.ctx ∧ (j < i → s.firingPrio s.cur.cluster g.ctx < s.firingPrio s.cur.cluster h.ctx)) :
    exec .mxAccept s = .next (s1.modMx s.cur.cluster fun m => { m with
      buf := m.buf ++ [h], turn := ((m.turn + i) % 6 + 1) % 6,
      owner := (mxTakes h.w0 h.w1).foldl (fun l a => l.set a h.ctx) m.owner }) := by
  have found := find?_offer_first (f := fun i => (s.mxOffer s.cur.cluster (((s.mxOf s.cur.cluster).turn + i) % 6)).map fun o =>
      (((s.mxOf s.cur.cluster).turn + i) % 6, o)) (rank := fun o => s.firingPrio s.cur.cluster o.2.2.ctx) hi (by rw [ho]; rfl) fun j y hj hy => by
    obtain ⟨⟨t, g⟩, hg, rfl⟩ := Option.map_eq_some_iff.1 hy
    exact top j t g hj hg
  simp only [exec, execMxAccept, List.filterMap_map, Function.comp_def]
  rw [found, modMx_congr (g := fun m => { m with
      buf := m.buf ++ [h], turn := (((s.mxOf s.cur.cluster).turn + i) % 6 + 1) % 6, owner := (mxTakes h.w0 h.w1).foldl (fun l a => l.set a h.ctx) m.owner })
    (by rw [mxOf_of_mxOffer ho])]
  exact if_neg (Nat.not_le.2 room)

/-! ### The meeting of a gang (R302, R361) -/

/-- A gang code that is not the region's is refused (log 103). -/
theorem mmaOk_of_other_gang {r : Region} (hr : s.region? c h.ctx = some r) (h0 : w.gang ≠ 0) (hg : w.gang ≠ r.gang) : s.mmaOk c w h = false := by
  simp [State.mmaOk, hr, h0, hg]

theorem mma_of_refused (hh : s.mxHead s.cur.cluster = some h) (bad : s.mmaOk s.cur.cluster w h = false) :
    exec (.mma w) s = .next (s.mxRefuse s.cur.cluster h) := by
  simp only [exec, execMma, mxRun, hh, bad, Bool.not_false, Bool.or_true, if_true]

theorem mmaParty_of_gang {k : Nat} {d : Nat × Nat} (hd : gangDims w.gang = some d) (h0 : w.gang ≠ 0) : s.mmaParty c k w = s.gangOf c k (d.1 * d.2) := by
  simp only [State.mmaParty, h0, false_and, if_false, gangSizeOf, hd]

theorem gangOf_one (c k : Nat) : s.gangOf c k 1 = [(c, k)] := by
  unfold State.gangOf
  split
  · exact if_pos (Nat.le_refl 1)
  · rfl

/-- A command of code 0 meets with its own member alone where no other of the region's gang has accepted one of another code. -/
theorem mmaParty_of_alone {k : Nat} (h0 : w.gang = 0) (alone : ∀ q ∈ (match s.region? c k with
      | some r => s.gangOf c k (gangSizeOf r.gang)
      | none => [(c, k)]), ∀ x, s.mmaAccepted q = some x → x.2.gang = 0) : s.mmaParty c k w = [(c, k)] := by
  unfold State.mmaParty
  refine (if_neg fun met => ?_).trans (by rw [h0]; exact gangOf_one c k)
  obtain ⟨q, hq, hx⟩ := List.any_eq_true.1 met.2
  cases ha : s.mmaAccepted q with
  | none => simp [ha] at hx
  | some x => simp [ha, alone q hq x ha] at hx

/-- What the members of a gang compare: word 0, and word 1 without the position (R361). -/
def mmaKey (x : MxCmd) : Nat × Nat := (x.w0.toNat, x.w1.toNat - x.w1.toNat / 2 ^ 26 % 8 * 2 ^ 26)

/-- The members of a command's gang that have accepted theirs. -/
def State.mmaMet (s : State) (c k : Nat) (w : MxW) : List (Nat × MxCmd × MxW) :=
  (s.mmaParty c k w).filterMap fun q => (s.mmaAccepted q).map fun x => (q.1, x)

/-- The commands of a gang agree: all alike, and no two at one position. -/
def mmaAgree (hs : List (Nat × MxCmd × MxW)) (h : MxCmd) (n : Nat) : Prop :=
  (∀ x ∈ hs, mmaKey x.2.1 = mmaKey h) ∧ (hs.map fun x => x.2.2.gpos).eraseDups.length = n

/-- What an mma does to the members of its gang: they start, or are refused. -/
def mmaMeet (w : MxW) (agree : Bool) (s : State) (x : Nat × MxCmd × MxW) : State :=
  let s1 := s.setHead x.1 x.2.1 { x.2.1 with refused := !agree, started := agree }
  if agree && decide (w.acc = 0) then s1.modMx x.1 fun m => m.zero x.2.2 (2048 * w.slots) else s1

theorem mmaMeet_true (w : MxW) (s : State) (x : Nat × MxCmd × MxW) : mmaMeet w true s x =
    if w.acc = 0 then (s.setHead x.1 x.2.1 { x.2.1 with refused := false, started := true }).modMx x.1 fun m => m.zero x.2.2 (2048 * w.slots)
    else s.setHead x.1 x.2.1 { x.2.1 with refused := false, started := true } := by
  simp only [mmaMeet, Bool.not_true, Bool.true_and, decide_eq_true_eq]

theorem mmaMeet_false (w : MxW) (s : State) (x : Nat × MxCmd × MxW) :
    mmaMeet w false s x = s.setHead x.1 x.2.1 { x.2.1 with refused := true, started := false } := rfl

section
variable (hh : s.mxHead s.cur.cluster = some h) (hr : h.refused = false) (hok : s.mmaOk s.cur.cluster w h = true)
include hh hr hok

theorem mma_of_missing (hl : (s.mmaMet s.cur.cluster h.ctx w).length < (s.mmaParty s.cur.cluster h.ctx w).length) : exec (.mma w) s = .next s :=
  (mxRun_eq hh hr hok).trans (congrArg _ (if_pos (.inr hl)))

theorem mma_of_met (hs : h.started = false) (hl : (s.mmaParty s.cur.cluster h.ctx w).length ≤ (s.mmaMet s.cur.cluster h.ctx w).length) {b : Bool}
    (hb : b = true ↔ mmaAgree (s.mmaMet s.cur.cluster h.ctx w) h (s.mmaParty s.cur.cluster h.ctx w).length) :
    exec (.mma w) s = .next ((s.mmaMet s.cur.cluster h.ctx w).foldl (mmaMeet w b) s) := by
  have here : b = ((s.mmaMet s.cur.cluster h.ctx w).all (fun x => decide (mmaKey x.2.1 = mmaKey h)) &&
      decide (((s.mmaMet s.cur.cluster h.ctx w).map fun x => x.2.2.gpos).eraseDups.length = (s.mmaParty s.cur.cluster h.ctx w).length)) := by
    rw [Bool.eq_iff_iff, hb]
    simp only [mmaAgree, Bool.and_eq_true, List.all_eq_true, decide_eq_true_eq]
  have go : ¬(h.started = true ∨ (s.mmaMet s.cur.cluster h.ctx w).length < (s.mmaParty s.cur.cluster h.ctx w).length) := by
    rw [hs]
    exact not_or.2 ⟨Bool.false_ne_true, Nat.not_lt.2 hl⟩
  subst here
  exact (mxRun_eq hh hr hok).trans (congrArg _ (if_neg go))

end

section
variable (hh : s.mxHead c = some h) (hd : decodeMx h.w0 h.w1 = some (.mma w)) (hok : s.mmaOk c w h = true)
include hh hd hok

theorem mmaHead_of_head : s.mmaHead (c, h.ctx) = some (h, w) := by
  simp only [State.mmaHead, hh, hd, hok, ne_eq, not_true_eq_false, if_false, if_true]

theorem mmaMet_of_alone (hs : h.started = false) (hp : s.mmaParty c h.ctx w = [(c, h.ctx)]) : s.mmaMet c h.ctx w = [(c, h, w)] := by
  simp only [State.mmaMet, hp, State.mmaAccepted, List.filterMap_cons, mmaHead_of_head hh hd hok, Option.filter_some, hs]
  rfl

end

/-! ### A K-step of an mma alone (R302) -/

section
variable {ta tb : List Nat}

/-- The tiles at the head of a ring leave it. -/
def popTiles (c ring : Nat) (l : List Nat) (s : State) : State := s.modCluster c fun x => l.foldl (fun x _ => x.popHead ring) x

/-- What a K-step of an mma alone has done before it ends: the operands read, the terms added and the tiles popped. -/
def State.kstepAlone (s : State) (c : Nat) (h : MxCmd) (w : MxW) (ta tb : List Nat) : State :=
  let oa : MxOp := ⟨c, h.ctx, w.ringA.toNat, ta⟩
  let ob : MxOp := ⟨c, h.ctx, w.ringB.toNat, tb⟩
  let rb := scanOperand (scanOperand s w w.m (decide (w.sd = 1)) oa).1 w w.n false ob
  popTiles c w.ringB.toNat tb (popTiles c w.ringA.toNat ta ((rb.1.modMx c (mmaTerms s w oa ob)).count c 0x020 h.ctx))

/-- The command after the K-step. -/
def State.kstepCmd (s : State) (c : Nat) (h : MxCmd) (w : MxW) (ta tb : List Nat) : MxCmd :=
  let ra := scanOperand s w w.m (decide (w.sd = 1)) ⟨c, h.ctx, w.ringA.toNat, ta⟩
  let rb := scanOperand ra.1 w w.n false ⟨c, h.ctx, w.ringB.toNat, tb⟩
  { h with
    pos := h.pos + 1, error := h.error || ra.2.1 || rb.2.1, poisoned := h.poisoned || ra.2.2 || rb.2.2, used := h.used ++ (ta ++ tb) }

theorem mmaKstep_alone (hg : w.gang = 0) (hh : s.mxHead s.cur.cluster = some h) (hd : decodeMx h.w0 h.w1 = some (.mma w))
    (hok : s.mmaOk s.cur.cluster w h = true) (hs : h.started = true)
    (hta : s.takeTiles s.cur.cluster w.ringA.toNat (1 + (if w.scaled then 1 else 0) + w.sd.toNat) = some ta)
    (htb : s.takeTiles s.cur.cluster w.ringB.toNat (1 + (if w.scaled then 1 else 0)) = some tb) (hp : w.gpos = 0) :
    let t := s.kstepAlone s.cur.cluster h w ta tb
    let g := s.kstepCmd s.cur.cluster h w ta tb
    exec (.mmaKstep w) s = .next (if g.pos ≥ w.ksteps then
        (t.modCluster s.cur.cluster fun y => h.used.foldl Cluster.unuseTile y).mxDone s.cur.cluster h
          (if g.poisoned then stPoisoned else if g.error then stError else stOk)
      else (t.modCluster s.cur.cluster fun y => (ta ++ tb).foldl Cluster.useTile y).setHead s.cur.cluster h g) := by
  have head := mmaHead_of_head hh hd hok
  have dims : gangDims w.gang = some (1, 1) := by rw [hg]; rfl
  simp only [exec, execMmaKstep, hh, dims, Nat.mul_one, gangOf_one, List.filterMap_cons, List.filterMap_nil, head, Option.map_some]
  have opA : (List.filterMap id (List.map (fun i => mmaOperand s [((s.cur.cluster, h.ctx), h, w)] i w.ringA.toNat
      (1 + (if w.scaled then 1 else 0) + w.sd.toNat)) (List.range 1))) = [⟨s.cur.cluster, h.ctx, w.ringA.toNat, ta⟩] := by
    simp [mmaOperand, List.range_succ, hp, hta]
  have opB : (List.filterMap id (List.map (fun j => mmaOperand s [((s.cur.cluster, h.ctx), h, w)] (1 * j) w.ringB.toNat
      (1 + (if w.scaled then 1 else 0))) (List.range 1))) = [⟨s.cur.cluster, h.ctx, w.ringB.toNat, tb⟩] := by
    simp [mmaOperand, List.range_succ, hp, htb]
  simp only [opA, opB, List.foldl_cons, List.foldl_nil, List.nil_append, hp, List.cons_append, List.filter_cons, List.filter_nil, decide_true, if_true,
    List.flatMap_cons, List.flatMap_nil, List.append_nil]
  refine (if_neg (by simp [hs])).trans ((if_neg (by simp)).trans ?_)
  rfl

end

/-- Settles O44: acceptance by the first offer of the highest rank, the meeting by whether the members agree, and a K-step of one member. -/
theorem matrixProducts : Obligations.MatrixProducts := by
  unfold Obligations.MatrixProducts
  intro s s1 h w c m
  refine ⟨fun i room hi ho top => mxAccept_eq room hi ho top, fun r hr h0 hg hh => mma_of_refused hh (mmaOk_of_other_gang hr h0 hg),
    fun d hd h0 => mmaParty_of_gang hd h0, fun h0 alone => mmaParty_of_alone h0 alone, fun hh hr hok hs => ?_, fun hg hh hr hd hok => ⟨fun hs hp => ?_, fun hs ta tb => ?_⟩⟩
  · intro qs hs' key agree
    refine ⟨fun hl => mma_of_missing hh hr hok hl, fun hl ha => ?_, fun hl hn => ?_⟩
    · have met := mma_of_met hh hr hok hs hl (b := true) (iff_of_true rfl ha)
      simp only [funext fun s => funext fun x => mmaMeet_true w s x] at met
      exact met
    · exact mma_of_met hh hr hok hs hl (b := false) (iff_of_false Bool.false_ne_true hn)
  · intro t
    have alone := mmaMet_of_alone hh hd hok hs hp
    have met := mma_of_met hh hr hok hs (by rw [alone, hp]; exact Nat.le_refl 1) (b := true) (iff_of_true rfl (by rw [alone, hp]; exact ⟨by simp, rfl⟩))
    rw [alone, List.foldl_cons, List.foldl_nil, mmaMeet_true] at met
    exact ⟨fun h0 => met.trans (congrArg _ (if_pos h0)), fun h0 => met.trans (congrArg _ (if_neg h0))⟩
  · intro sc hta htb hp oa ob ra rb pop t g
    have done := mmaKstep_alone hg hh hd hok hs hta htb hp
    exact ⟨fun hlt => done.trans (congrArg _ (if_neg (Nat.not_le.2 hlt))), fun hle => done.trans (congrArg _ (if_pos hle))⟩

end Sys2Proof.Machine
end

section
/-! O42: the streams an ME serves, an access at its home, and the elements of runs. -/
namespace Sys2Proof.Machine
open Sys2Proof

/-! ### The first of those that compete (R45, R52) -/

/-- One competitor more: the first stays unless the new one goes before it. -/
def keepFirst {α : Type} (before : α → α → Bool) (b : Option α) (q : α) : Option α := match b with
  | none => some q
  | some v => if before q v then some q else some v

/-- Where what is not after another is not after what that other is not after, the fold finds one that none goes before. -/
theorem foldl_keepFirst {α : Type} {before : α → α → Bool} (trans : ∀ {x y z}, before y x = false → before z y = false → before z x = false)
    (asymm : ∀ {x y}, before x y = true → before y x = false) (l : List α) (v : α) :
    ∃ b, l.foldl (keepFirst before) (some v) = some b ∧ (b = v ∨ b ∈ l) ∧ before v b = false ∧ ∀ q ∈ l, before q b = false := by
  induction l generalizing v with
  | nil =>
    refine ⟨v, rfl, .inl rfl, ?_, fun _ h => nomatch h⟩
    by_contra self
    exact self (asymm (Bool.eq_true_of_not_eq_false self))
  | cons q l ih =>
    by_cases earlier : before q v = true
    · obtain ⟨b, hb, from_, least, rest⟩ := ih q
      refine ⟨b, by simpa [keepFirst, earlier] using hb, .inr (by simpa using from_), ?_, List.forall_mem_cons.2 ⟨least, rest⟩⟩
      exact trans least (asymm earlier)
    · obtain ⟨b, hb, from_, least, rest⟩ := ih v
      refine ⟨b, by simpa [keepFirst, earlier] using hb, from_.imp_right (.tail _), least, List.forall_mem_cons.2 ⟨?_, rest⟩⟩
      exact trans least (Bool.eq_false_iff.2 earlier)

/-- The order of R45 is one of places in five keys. -/
theorem Rival.not_before_trans {x y z : Rival} (hxy : y.before x = false) (hyz : z.before y = false) : z.before x = false := by
  simp only [Rival.before, Bool.or_eq_false_iff, Bool.and_eq_false_iff, decide_eq_false_iff_not] at *
  omega

theorem Rival.not_before_of_before {x y : Rival} (h : x.before y = true) : y.before x = false := by
  simp only [Rival.before, Bool.or_eq_true, Bool.and_eq_true, decide_eq_true_eq, Bool.or_eq_false_iff, Bool.and_eq_false_iff, decide_eq_false_iff_not] at *
  omega

/-- The stream that an ME serves is one that no other ready stream goes before. -/
theorem chooseRun_first {s : State} {step : State → Nat → Nat → Nat → Nat → State} {c site k n : Nat} {q : Rival × Nat} (hq : q ∈ s.runRivals step c site) :
    ∃ b ∈ s.runRivals step c site, s.chooseRun step c site k n = (b.1.k, b.2) ∧ q.1.before b.1 = false := by
  have choice : s.chooseRun step c site k n = match (s.runRivals step c site).foldl (keepFirst fun x y => x.1.before y.1) none with
    | some q => (q.1.k, q.2)
    | none => (k, n) := by
    rw [show (keepFirst fun x y : Rival × Nat => x.1.before y.1) = fun b q => match b with
      | none => some q
      | some v => if q.1.before v.1 then some q else some v from funext fun b => funext fun q => by cases b <;> rfl] <;> rfl
  rw [choice]
  generalize s.runRivals step c site = l at hq
  cases l with
  | nil => nomatch hq
  | cons v l =>
    obtain ⟨b, hb, from_, least, rest⟩ := foldl_keepFirst (before := fun x y : Rival × Nat => x.1.before y.1) Rival.not_before_trans Rival.not_before_of_before l v
    have found : (v :: l).foldl (keepFirst fun x y => x.1.before y.1) none = some b := hb
    exact ⟨b, by simpa using from_, by rw [found], (List.forall_mem_cons (p := fun q => q.1.before b.1 = false)).2 ⟨least, rest⟩ q hq⟩

/-! ### An access at its home -/

@[simp] theorem touchLine_nodes (s : State) (k : Nat) : (s.touchLine k).1.nodes = s.nodes := by
  unfold State.touchLine
  split
  · rfl
  · split <;> rfl
  · split <;> rfl
  · rfl
  · rfl

/-- Which bytes the scheduler alone writes does not change as lines are read. -/
@[simp] theorem touch_roByte (s : State) (k n j : Nat) : (s.touch k n).1.roByte j = s.roByte j := by
  have nodes : (s.touch k n).1.nodes = s.nodes :=
    foldl_keeps (fun a : State × Nat => a.1.nodes)
      (step := fun a i => ((a.1.touchLine ((k / 64 + i) * 64)).1, Nat.max a.2 (a.1.touchLine ((k / 64 + i) * 64)).2)) (fun a _ => touchLine_nodes a.1 _) _ (s, 0)
  simp only [State.roByte, nodes]

@[simp] theorem poisonLine_mem (s : State) (k : Nat) : (s.poisonLine k).mem = s.mem := rfl

theorem rd_of_mem {s t : State} (h : t.mem = s.mem) (k n : Nat) : t.rd k n = s.rd k n := by simp only [State.rd, h]

/-- A write at its home changes memory by the bytes that it keeps of its value, whatever becomes of the marks. -/
theorem atHome_write_mem (s : State) (key n cov v : Nat) (bad : Bool) : (s.atHome key n cov (.write v bad)).1.mem = (s.wrKeep key n v).mem := by
  simp only [State.atHome]
  split
  · exact (foldl_keeps State.mem (fun t i => poisonLine_mem t _) _ _).trans (countHbm_mem ..)
  · dsimp only
    have stored : ((s.wrKeep key n v).countHbm key true).mem = (s.wrKeep key n v).mem := countHbm_mem ..
    generalize (if key % 64 = 0 ∨ cov = key then key + n else 0) = e
    by_cases covered : e ≠ 0 ∧ e % 64 = 0
    · rw [if_pos covered]; exact stored
    · rw [if_neg covered]; exact stored

theorem atHome_atomic_bad {s : State} {key n : Nat} (cov : Nat) (f : Nat → Nat) (ws : List DWord) (bad : Bool) (h : (s.touch key n).2 ≠ 0) :
    s.atHome key n cov (.atomic f ws bad) = ((s.touch key n).1, 0, true, 0) := if_pos h

/-- An atomic at its home gives the old value and changes memory by the new one. -/
theorem atHome_atomic_mem {s : State} {key n : Nat} (cov : Nat) (f : Nat → Nat) (ws : List DWord) (bad : Bool) (h : (s.touch key n).2 = 0) :
    (s.atHome key n cov (.atomic f ws bad)).2.1 = s.rd key n ∧
    (s.atHome key n cov (.atomic f ws bad)).1.mem = ((s.touch key n).1.wrKeep key n (f (s.rd key n))).mem := by
  have old : (s.touch key n).1.rd key n = s.rd key n := rd_of_mem (touch_mem ..) key n
  simp only [State.atHome, h, ne_eq, not_true, if_false, old, true_and]
  split
  · exact (poisonLine_mem ..).trans (countHbm_mem ..)
  · exact countHbm_mem ..

/-! ### The functions of atomic elements (R291) -/

/-- The smaller or larger of two values. -/
theorem valMin_eq (x y : Val) : valMin false x y = (if x.isNan || y.isNan then .nan false else if x.below y then x else y) ∧
    valMin true x y = (if x.isNan || y.isNan then .nan false else if x.below y then y else x) := by
  cases h : x.below y <;> simp [valMin, h]

/-- The clause of accesses at their home: what one reads, and what it writes where no byte is the scheduler's own. -/
theorem atHome_at_home (s : State) (key n cov v : Nat) (bad : Bool) (f : Nat → Nat) (ws : List DWord) (own : ∀ i, i < n → s.roByte (key + i) = false) :
    (s.atHome key n cov .read).2.1 = s.rd key n ∧ (s.atHome key n cov .read).1.mem = s.mem ∧
    (let g := s.atHome key n cov (.write v bad)
     g.1.rd key n = v % 2 ^ (8 * n) ∧ ∀ k, k < key ∨ key + n ≤ k → readByte g.1.mem k = readByte s.mem k) ∧
    (let g := s.atHome key n cov (.atomic f ws bad)
     ((s.touch key n).2 = 0 → g.2.1 = s.rd key n ∧ g.1.rd key n = f (s.rd key n) % 2 ^ (8 * n)) ∧ ((s.touch key n).2 ≠ 0 → g.1.mem = s.mem ∧ g.2.2.1 = true) ∧
       ∀ k, k < key ∨ key + n ≤ k → readByte g.1.mem k = readByte s.mem k) := by
  have written := atHome_write_mem s key n cov v bad
  refine ⟨rd_of_mem (touch_mem ..) key n, (countHbm_mem ..).trans (touch_mem ..),
    ⟨(rd_of_mem written key n).trans (rd_wrKeep _ _ own), fun k hk => by rw [written]; exact readByte_wrKeep_outside _ _ hk⟩, ?_, ?_, ?_⟩
  · intro clean
    obtain ⟨old, new⟩ := atHome_atomic_mem cov f ws bad clean
    exact ⟨old, (rd_of_mem new key n).trans (rd_wrKeep _ _ fun i hi => (touch_roByte ..).trans (own i hi))⟩
  · intro marked
    rw [atHome_atomic_bad cov f ws bad marked]
    exact ⟨touch_mem .., rfl⟩
  · intro k hk
    by_cases clean : (s.touch key n).2 = 0
    · rw [(atHome_atomic_mem cov f ws bad clean).2, readByte_wrKeep_outside _ _ hk, touch_mem]
    · rw [atHome_atomic_bad cov f ws bad clean, touch_mem]

/-- The clause of atomic elements. -/
theorem agAtom_cases (fn ty z old y cv : Nat) :
    let m := 2 ^ (8 * z)
    let t : ITy := (tyInt ty).getD ⟨8 * z, false⟩
    let val (n : Nat) : Val := tyDecode 3 false n
    let round (v : Val) : Nat := tyRound 3 (RMode.ofCode 0) false 0 v
    (fn = 0 → ty ≠ 3 → agAtom fn ty z old y cv = (old + y) % m) ∧
    (fn = 0 → ty = 3 → agAtom fn ty z old y cv = round ((val old).add (RMode.ofCode 0) (val y)).1) ∧
    (fn = 1 → ty ≠ 3 → agAtom fn ty z old y cv = if t.read y < t.read old then y else old) ∧
    (fn = 2 → ty ≠ 3 → agAtom fn ty z old y cv = if t.read y < t.read old then old else y) ∧
    (fn = 1 → ty = 3 → agAtom fn ty z old y cv = round (if (val old).isNan || (val y).isNan then .nan false else if (val old).below (val y) then val old else val y)) ∧
    (fn = 2 → ty = 3 → agAtom fn ty z old y cv = round (if (val old).isNan || (val y).isNan then .nan false else if (val old).below (val y) then val y else val old)) ∧
    (fn = 3 → agAtom fn ty z old y cv = if old = cv then y else old) ∧ (fn = 4 → agAtom fn ty z old y cv = y) := by
  intro m t val round
  refine ⟨?_, ?_, ?_, ?_, ?_, ?_, ?_, ?_⟩
  · rintro rfl other; exact if_neg other
  · rintro rfl float; exact if_pos float
  · rintro rfl other
    refine (if_neg other).trans ?_
    by_cases less : t.read y < t.read old <;> simp [t, less]
  · rintro rfl other
    refine (if_neg other).trans ?_
    by_cases less : t.read y < t.read old <;> simp [t, less]
  · rintro rfl float; exact (if_pos float).trans (congrArg round (valMin_eq ..).1)
  · rintro rfl float; exact (if_pos float).trans (congrArg round (valMin_eq ..).2)
  · rintro rfl; rfl
  · rintro rfl; rfl

end Sys2Proof.Machine
end

section
/-! O42: the elements of runs. -/
namespace Sys2Proof.Machine
open Sys2Proof

/-! ### An access of a run at a home of this module -/

/-- It leaves of the run all but what it covers and whether it is retried. -/
theorem State.NearAccess.run_eq {p t : State} {x : RunAt} {r r1 : Run} {va : DWord} {n v : Nat} {act : AgAct} {bad : Bool}
    (h : p.NearAccess x r va n act t r1 v bad) : ∃ cov, r1 = { r with cov := cov, retried := false, ranged := false } := by
  obtain ⟨s1, key, -, -, -, -, -, run⟩ := h
  exact ⟨_, run⟩

theorem State.NearAccess.runMem {p t : State} {x : RunAt} {r r1 : Run} {va : DWord} {n v : Nat} {act : AgAct} {bad : Bool}
    (h : p.NearAccess x r va n act t r1 v bad) (exempt : Bool) (m : Nat) : p.runMem x r exempt va n act m = (t, r1, some (v, bad)) := by
  obtain ⟨s1, key, home, near, state, value, poison, run⟩ := h
  rw [State.runMem, home, state, value, poison, run]
  simp [near]

/-! ### A step of a stream with a descriptor -/

/-- What the next element of a run with a descriptor does to the state and the run (R153, R287). -/
def State.runElem (s : State) (x : RunAt) (r : Run) : State × Run := match r.waitsJoin, r.demand with
  | true, some (idx, st) => s.joinElem x r idx st
  | _, _ => match x.info.i with
    | .agsRd _ | .agsFill _ | .pld _ => s.readElem x r
    | .agsWr _ | .pst _ => if dTdst x.d then s.tileElem x r else s.feedElem x r
    | .agsRdcf _ => s.cfElem x r
    | .agsWrcf _ => s.cfFeed x r
    | .agsScrub _ => s.scrubElem x r
    | .ttbFill w => s.fillLine x r w.k
    | .agxGath _ | .agxScat _ | .agxAtomAdd _ | .agxAtomMin _ | .agxAtomMax _ | .agxAtomCas _ | .agxAtomSwp _ => s.indexElem x r
    | _ => (s, r)

/-- A run found for a descriptor is of that descriptor, and stands where it was looked for. -/
theorem runAt_place {s : State} {c site k desc : Nat} {x : RunAt} {r : Run} (h : s.runAt c site k desc = some (x, r)) :
    x.c = c ∧ x.site = site ∧ x.k = k ∧ r.desc = desc := by
  unfold State.runAt at h
  split at h
  · split at h
    · nomatch h
    · split at h
      · nomatch h
      · next active =>
        obtain ⟨info, -, heq⟩ := Option.map_eq_some_iff.1 h
        obtain ⟨rfl, rfl⟩ := Prod.mk.inj heq
        exact ⟨rfl, rfl, rfl, by simpa using List.find?_some active⟩
  · nomatch h

/-- An ME steps the stream that it serves, in the state in which the others were passed over. -/
theorem State.Serves.serveRun_eq {s p : State} {step : State → Nat → Nat → Nat → Nat → State} {x : RunAt} {r : Run} (h : s.Serves step p x r) :
    s.serveRun step = step p x.c x.site x.k r.desc ∧ p.runAt x.c x.site x.k r.desc = some (x, r) := by
  obtain ⟨rfl, run⟩ := h
  obtain ⟨hc, hsite, hk, hdesc⟩ := runAt_place run
  rw [hc, hsite, hk, hdesc]
  exact ⟨rfl, run⟩

/-- Of a stream with a descriptor `runElem` says what its step does. -/
theorem agDoes_of {s p t : State} {x : RunAt} {r r2 : Run} (serves : s.Serves State.agStep p x r) (may : p.MayAccess x r) (low : r.desc < 16)
    (does : p.runElem x r = (t, r2)) : AgDoes s p x r t r2 := by
  obtain ⟨served, run⟩ := serves.serveRun_eq
  obtain ⟨free, goes_on, going⟩ := may
  refine (congrArg Host.Outcome.next served).trans (congrArg Host.Outcome.next ?_)
  have waits : (p.runHeld x r || r.isOver || r.stalled.isSome) = false := by simp [free, goes_on, going]
  have element : (if r.desc ≥ 16 then p.drainLine x r else p.runElem x r) = (t, r2) := (if_neg (Nat.not_le.2 low)).trans does
  unfold State.agStep
  rw [run]
  simp only [waits, Bool.false_eq_true, if_false]
  exact congrArg (fun res : State × Run =>
    (if res.2.pos ≠ r.pos ∨ res.2.isOver = true then res.1.farDone (farRun x.c x.k x.site r.desc) else res.1).setRun x.c x.site x.k
      { res.2 with ready := res.2.ready ++ if (res.2.isOver && (flagsOf x.info.i).2) = true then [p.runEos x r] else [] }) element

/-! ### Affine runs that read memory (R288, R298) -/

section
variable {p t : State} {x : RunAt} {r r1 : Run} {w : MeW} {v ad : Nat} {bad : Bool}

theorem readElem_toToken (hi : x.info.i = .agsRd w ∨ x.info.i = .pld w) (tokens : dTdst x.d = false) (inside : x.beyond r r.pos = false)
    (near : p.NearAccess x r (r.base + BitVec.ofInt 64 (dOffset x.d r.pos)) r.z .read t r1 v bad) :
    p.readElem x r = (t, { t.tokenUp x { r1 with
        pos := r.pos + 1, moved := r1.moved + r.z, poisoned := r1.poisoned || bad, part := r1.part ++ [v], partPoison := r1.partPoison || bad } (dTotal x.d) with
      isOver := decide (r.pos + 1 ≥ dTotal x.d) }) := by
  have access (e : Bool) (m : Nat) : p.runMem x r e (x.addr r r.pos) r.z .read m = (t, r1, some (v, bad)) := near.runMem e m
  have pos (q : Run) : (t.tokenUp x q (dTotal x.d)).pos = q.pos := by unfold State.tokenUp; simp only; split <;> rfl
  rcases hi with hi | hi
  · simp [State.readElem, hi, tokens, inside, access, pos]
  · simp [State.readElem, hi, tokens, inside, access, pos]

theorem readElem_beyond (hi : x.info.i = .pld w) (tokens : dTdst x.d = false) (outside : x.beyond r r.pos = true) :
    p.readElem x r = (p, { p.tokenUp x { r with pos := r.pos + 1, missed := r.missed + 1, error := true, part := r.part ++ [0] } (dTotal x.d) with
      isOver := decide (r.pos + 1 ≥ dTotal x.d) }) := by
  have pos (q : Run) : (p.tokenUp x q (dTotal x.d)).pos = q.pos := by unfold State.tokenUp; simp only; split <;> rfl
  simp [State.readElem, hi, tokens, outside, pos]

theorem spPut_good {s : State} {c n : Nat} (good : ((s.cluster c).spWrite ad n v bad).2 = false) :
    s.spPut c (some ad) n v bad = (s.modCluster c fun _ => ((s.cluster c).spWrite ad n v bad).1, none) := by
  simp [State.spPut, good]

theorem readElem_fill (hi : x.info.i = .agsFill w) (none_missed : r.missed = 0) (goes_on : r.isOver = false) (inside : x.beyond r r.pos = false)
    (near : p.NearAccess x r (r.base + BitVec.ofInt 64 (dOffset x.d r.pos)) r.z .read t r1 v bad)
    (place : t.spAddr x.c x.k ((dAux x.d).bits 20 16) ((dAux x.d).bits 15 0 + r.pos * r.z) r.z = some ad)
    (good : ((t.cluster x.c).spWrite ad r.z v bad).2 = false) :
    p.readElem x r = (t.modCluster x.c fun _ => ((t.cluster x.c).spWrite ad r.z v bad).1, { r1 with
      pos := r.pos + 1, moved := r1.moved + r.z, wrote := r1.wrote + r.z, poisoned := r1.poisoned || bad, isOver := decide (r.pos + 1 ≥ dTotal x.d) }) := by
  have access (e : Bool) (m : Nat) : p.runMem x r e (x.addr r r.pos) r.z .read m = (t, r1, some (v, bad)) := near.runMem e m
  have put := spPut_good good
  obtain ⟨cov, rfl⟩ := near.run_eq
  by_cases fin : dTotal x.d ≤ r.pos + 1
  · simp [State.readElem, hi, inside, access, place, put, State.noteErr, none_missed, State.endElems, fin]
  · simp [State.readElem, hi, inside, access, place, put, State.noteErr, none_missed, fin, goes_on]

theorem readElem_toTile (hi : x.info.i = .agsRd w ∨ x.info.i = .pld w) (tile : dTdst x.d = true) (none_missed : r.missed = 0)
    (empty : r.pos = 0 → tileState ((p.cluster x.c).tile (dTile x.d)) = tEmpty ∧ p.ownsTile x.c x.k (dTile x.d) = true)
    (fits : (r.pos + 1) * r.z ≤ tileLen ((p.cluster x.c).tile (dTile x.d))) (inside : x.beyond r r.pos = false)
    (near : p.NearAccess x r (r.base + BitVec.ofInt 64 (dOffset x.d r.pos)) r.z .read t r1 v bad) {u : State}
    (hu : u = if r.pos = 0 then t.modCluster x.c fun y => (y.useTile (dTile x.d)).tileTo (dTile x.d) tFilling else t)
    (place : u.tileAddr x.c x.k (dTile x.d) (r.pos * r.z) r.z = some ad) (good : ((u.cluster x.c).spWrite ad r.z v bad).2 = false) :
    let u' := u.modCluster x.c fun _ => ((u.cluster x.c).spWrite ad r.z v bad).1
    let r2 : Run := { r1 with pos := r.pos + 1, moved := r1.moved + r.z, wrote := r1.wrote + r.z, poisoned := r1.poisoned || bad }
    p.readElem x r = if dTotal x.d ≤ r.pos + 1 then u'.endElems x r2 true else (u', r2) := by
  have access (e : Bool) (m : Nat) : p.runMem x r e (x.addr r r.pos) r.z .read m = (t, r1, some (v, bad)) := near.runMem e m
  have put := spPut_good good
  obtain ⟨cov, rfl⟩ := near.run_eq
  have free : ¬ (r.pos = 0 ∧ (tileState ((p.cluster x.c).tile (dTile x.d)) ≠ tEmpty ∨ (!p.ownsTile x.c x.k (dTile x.d)) = true)) := by
    rintro ⟨first, refused⟩
    obtain ⟨he, ho⟩ := empty first
    simp [he, ho] at refused
  intro u' r2
  rcases hi with hi | hi
  all_goals
    simp only [State.readElem, hi, tile, Bool.not_false, Bool.and_true, true_and, Bool.or_false, if_true]
    rw [if_neg free, if_neg (Nat.not_lt.2 fits)]
    simp only [inside, Bool.false_eq_true, if_false, access, ← hu, place, put, State.noteErr, if_pos none_missed] <;> rfl

end

end Sys2Proof.Machine
end

section
/-! O42: the elements of runs that write, of scrub runs and of CF8 runs. -/
namespace Sys2Proof.Machine
open Sys2Proof

section
variable {p t t2 : State} {x : RunAt} {r r1 : Run} {w : MeW} {v ad : Nat} {bad : Bool} {f : Firing} {a : Token}

theorem tileElem_stores (readable : tileState ((p.cluster x.c).tile (dTile x.d)) ≠ tFilling) (owns : p.ownsTile x.c x.k (dTile x.d) = true)
    (fits : (r.pos + 1) * r.z ≤ tileLen ((p.cluster x.c).tile (dTile x.d))) (inside : x.beyond r r.pos = false)
    (place : p.tileAddr x.c x.k (dTile x.d) (r.pos * r.z) r.z = some ad) {y : Cluster × Nat × Bool} (hy : y = (p.cluster x.c).spRead ad r.z)
    (near : (p.modCluster x.c fun _ => y.1).NearAccess x r (r.base + BitVec.ofInt 64 (dOffset x.d r.pos)) r.z (.write y.2.1 y.2.2) t r1 v bad) :
    p.tileElem x r = (t, { r1 with
      pos := r.pos + 1, moved := r1.moved + r.z, wrote := r1.wrote + r.z, wroteBad := r1.wroteBad || y.2.2, poisoned := r1.poisoned || y.2.2,
      isOver := decide (r.pos + 1 ≥ dTotal x.d) }) := by
  have access (e : Bool) (m : Nat) : (p.modCluster x.c fun _ => y.1).runMem x r e (x.addr r r.pos) r.z (.write y.2.1 y.2.2) m = (t, r1, some (v, bad)) := near.runMem e m
  simp only [State.tileElem, if_neg readable, owns, Bool.not_true, Bool.false_eq_true, if_false, if_neg (Nat.not_lt.2 fits), inside, place, ← hy, access]

/-- A token shallow enough for its colour is taken as it is. -/
theorem feedDeep_shallow {s : State} (h : s.tooDeep f.c f.k a = false) : s.feedDeep f a = none := by simp [State.feedDeep, h]

/-- An element of an arriving token is stored; the next one stays for the next access, or the token is taken. -/
theorem feedElem_stores (ready : p.readyAt x.c x.site x.k r.slot = some f) (ha : f.a = some a) (shallow : p.tooDeep f.c f.k a = false)
    (inside : x.beyond r r.pos = false)
    (near : p.NearAccess x r (r.base + BitVec.ofInt 64 (dOffset x.d r.pos)) r.z (.write (elemAt r.z a.lanes (x.e.slot r.slot).size) a.poison) t r1 v bad) :
    let put (n m : Nat) : State := t.modElem x.c x.site x.k fun e => e.setSlot r.slot { e.slot r.slot with size := n, data := m }
    let r2 : Run := { r1 with
      pos := r.pos + 1, moved := r1.moved + r.z, wrote := r1.wrote + r.z, wroteBad := r1.wroteBad || a.poison, isOver := decide (r.pos + 1 ≥ dTotal x.d) }
    ((x.e.slot r.slot).size + 1 < 4 * a.width / r.z → p.feedElem x r = (put ((x.e.slot r.slot).size + 1) (x.e.slot r.slot).data, r2)) ∧
    (4 * a.width / r.z ≤ (x.e.slot r.slot).size + 1 → (x.e.slot r.slot).data = 0 → (put 0 0).replyOut f none [(0, a)] = (t2, true) → p.feedElem x r = (t2, r2)) := by
  have access (e : Bool) (m : Nat) : p.runMem x r e (x.addr r r.pos) r.z (.write (elemAt r.z a.lanes (x.e.slot r.slot).size) a.poison) m = (t, r1, some (v, bad)) :=
    near.runMem e m
  intro put r2
  constructor
  · intro more
    simp only [State.feedElem, ready, ha, feedDeep_shallow shallow, inside, Bool.false_eq_true, if_false, access, if_pos more, Bool.not_false, Bool.and_true] <;> rfl
  · intro last none_missed taken
    simp only [State.feedElem, ready, ha, feedDeep_shallow shallow, inside, Bool.false_eq_true, if_false, access, if_neg (Nat.not_lt.2 last), none_missed, if_true,
      Bool.not_false, Bool.and_true]
    rw [show (t.modElem x.c x.site x.k fun e => e.setSlot r.slot { e.slot r.slot with size := 0, data := 0 }).replyOut f none [(0, a)] = (t2, true) from taken]
    simp [r2]

theorem scrubElem_bit (near : p.NearAccess x r (r.base + BitVec.ofInt 64 (dOffset x.d r.pos)) 64 .scrub t r1 v bad) :
    let fin := decide (r.pos + 1 ≥ dTotal x.d)
    let bits := r1.part ++ [v]
    let up := fin || decide (bits.length ≥ 1024)
    let tok : Token := { t.runToken x r1 (fitLanes 32 (packLanes 1 bits)) false false with kind := kDense }
    p.scrubElem x r = (t, { r1 with
      pos := r.pos + 1, moved := r1.moved + 64, poisoned := r1.poisoned || bad, part := if up then [] else bits,
      ready := if up then r1.ready ++ [tok] else r1.ready, emitted := if up then r1.emitted + 1 else r1.emitted, isOver := fin }) := by
  have access (e : Bool) (m : Nat) : p.runMem x r e (x.addr r r.pos) 64 .scrub m = (t, r1, some (v, bad)) := near.runMem e m
  obtain ⟨cov, rfl⟩ := near.run_eq
  intro fin bits up tok
  simp only [State.scrubElem, access] <;> rfl

theorem cfElem_block (fits : r.addr.toNat + 4 ≤ dSpan x.d) (near : p.NearAccess x r (r.base + r.addr) 4 .read t r1 v bad)
    {r2 : Run} {es : List Nat} {m : Nat} {b : Bool} :
    let h : Word := BitVec.ofNat 32 v
    let fit := (dSpan x.d - r.addr.toNat - 4) / 4
    t.cfRead x h (Nat.min fit (if h.bits 23 16 = 32 then 9 else 80)) r1 (r.base + r.addr + 4#64) [] bad = (t2, r2, some (.ok es, m, b)) →
    let closes := decide (r2.pos + 1 ≥ dCnt x.d 0)
    let tok := t2.runToken x r2 (packLanes 8 es) b ((flagsOf x.info.i).1 && closes)
    p.cfElem x r = (t2, { r2 with
      ready := r2.ready ++ [{ tok with kind := kHdr, lanes := [h], last := false }, tok], pos := r2.pos + 1, emitted := r2.emitted + 1,
      addr := r2.addr + BitVec.ofNat 64 (4 + 4 * m), moved := r2.moved + 4 + 4 * m, poisoned := r2.poisoned || b, isOver := closes }) := by
  intro h fit decoded closes tok
  have limit : (if h.bits 23 16 = 32 then Nat.min fit 9 else Nat.min fit 80) = Nat.min fit (if h.bits 23 16 = 32 then 9 else 80) :=
    (apply_ite (Nat.min fit) _ 9 80).symm
  have access (e : Bool) (m : Nat) : p.runMem x r e (r.base + r.addr) 4 .read m = (t, r1, some (v, bad)) := near.runMem e m
  rw [← limit] at decoded
  simp only [h, fit] at decoded
  simp only [State.cfElem, if_neg (Nat.not_lt.2 fits), access, decoded] <;> rfl

/-- Words whose addresses all translate are written in order. -/
theorem cfWrite_translated {ws : List Word} {poison : Bool}
    (homes : ∀ i, i < ws.length → ∃ key, (p.agHome x.c x.k (r.base + r.addr + BitVec.ofNat 64 (4 * i)) 4 .store).2 = .ok key) :
    p.cfWrite x r ws poison = (List.range ws.length).foldl (fun (q : State × Run × Bool) i =>
      let g := q.1.runMem x q.2.1 false (r.base + r.addr + BitVec.ofNat 64 (4 * i)) 4 (.write (ws.getD i 0).toNat poison) (dPos x.d r.pos)
      if q.2.2 then (g.1, g.2.1, g.2.2.isSome) else q) (p, r, true) := by
  unfold State.cfWrite
  simp only
  split
  · next found =>
    obtain ⟨key, hk⟩ := homes _ (List.mem_range.1 (List.mem_of_find?_eq_some found))
    have missed := List.find?_some found
    simp [hk] at missed
  · rfl

theorem cfFeed_block (ready : p.readyAt x.c x.site x.k r.slot = some f) (ha : f.a = some a) (shallow : p.tooDeep f.c f.k a = false) :
    let h := match x.e.hdr.find? a.chan.toNat with
      | some t => t.lane 0
      | none => 0
    let ws := cf8Encode a.scale.toNat (h.getLsbD 15) ((splitLanes 8 a.lanes).take (if h.bits 23 16 = 0 then 4 * a.width else h.bits 23 16))
    let at_ (i : Nat) : DWord := r.base + r.addr + BitVec.ofNat 64 (4 * i)
    let put (q : State × Run × Bool) (i : Nat) : State × Run × Bool :=
      let g := q.1.runMem x q.2.1 false (at_ i) 4 (.write (ws.getD i 0).toNat a.poison) (dPos x.d r.pos)
      if q.2.2 then (g.1, g.2.1, g.2.2.isSome) else q
    ∀ (u : State) (q : Run), (List.range ws.length).foldl put (p, r, true) = (u, q, true) →
    (∀ i, i < ws.length → ∃ key, (p.agHome x.c x.k (at_ i) 4 .store).2 = .ok key) → u.replyOut f none [(0, a)] = (t2, true) →
    p.cfFeed x r = (t2, { q with
      pos := q.pos + 1, addr := q.addr + BitVec.ofNat 64 (4 * ws.length), moved := q.moved + 4 * ws.length, wrote := q.wrote + 4 * ws.length,
      wroteBad := q.wroteBad || a.poison, isOver := decide (q.pos + 1 ≥ dCnt x.d 0) }) := by
  intro h ws at_ put u q stored homes taken
  have written : p.cfWrite x r ws a.poison = (u, q, true) := (cfWrite_translated homes).trans stored
  simp only [State.cfFeed, ready, ha, feedDeep_shallow shallow]
  split
  · next refused => cases refused.symm.trans written
  · next all =>
    obtain ⟨rfl, rfl, -⟩ : _ = u ∧ _ = q ∧ true = true := by simpa using all.symm.trans written
    rw [taken] <;> rfl

end

end Sys2Proof.Machine
end

section
/-! O42: runs that wait on a demand, and indexed runs. -/
namespace Sys2Proof.Machine
open Sys2Proof

section
variable {p t t2 : State} {x : RunAt} {r r1 : Run} {v : Nat} {bad : Bool}

/-- A run that looks at its DTD waits while it is being converted, joins where it has the state that it asks for, and asks for that state otherwise (R153). -/
theorem joinElem_looks {idx st : Nat} (near : p.NearAccess x r (dtdAddr (p.ptabAt x.c x.k) idx) 8 .read t r1 v bad) :
    let d : DWord := BitVec.ofNat 64 v
    let who := farRun x.c x.k x.site r.desc
    let own := runOwner x.site r.desc
    (d.getLsbD 33 = true → p.joinElem x r idx st = (t.farDone who, r1)) ∧
    (d.getLsbD 33 = false → t.tablesFail x.c x.k own idx = (t2, none) →
      let u := (t2.engDone x.c x.k own).farDone who
      (d.bits 63 48 = st → p.joinElem x r idx st = (u, u.joinRun x.c x.k idx r1)) ∧
      (d.bits 63 48 ≠ st → p.joinElem x r idx st = (u.forkConv x.c x.k idx st, r1))) := by
  have access := near.runMem true 0
  intro d who own
  refine ⟨fun converting => ?_, fun settled tables => ⟨fun same => ?_, fun other => ?_⟩⟩
  · simp only [State.joinElem, access]
    exact if_pos converting
  · simp only [State.joinElem, access]
    refine (if_neg (Bool.eq_false_iff.1 settled)).trans ?_
    rw [show t.tablesFail x.c x.k (runOwner x.site r.desc) idx = (t2, none) from tables]
    exact if_pos same
  · simp only [State.joinElem, access]
    refine (if_neg (Bool.eq_false_iff.1 settled)).trans ?_
    rw [show t.tablesFail x.c x.k (runOwner x.site r.desc) idx = (t2, none) from tables]
    exact if_neg other

end

/-! ### Indexed runs (R289, R291) -/

/-- The offset of the element that lane j of A names. -/
def RunAt.indexOff (x : RunAt) (a : Token) (i : Instr) (j : Nat) : Int :=
  (if signedIndex i then (a.lane j).toInt else ((a.lane j).toNat : Int)) * dStr x.d 0
/-- Element j of B and of C, where the run has them, and the poison of B. -/
def Run.elemB (r : Run) : Nat := match r.b with
  | some b => elemAt r.z b.lanes r.pos
  | none => 0
def Run.elemC (r : Run) : Nat := match r.x with
  | some t => elemAt r.z t.lanes r.pos
  | none => 0
def Run.poisonB (r : Run) : Bool := match r.b with
  | some b => b.poison
  | none => false
/-- The access that an indexed operation makes for an element. -/
def indexAct (i : Instr) (r : Run) : AgAct := match atomOf i with
  | some (fn, ty) => .atomic (fun old => agAtom fn ty r.z old r.elemB r.elemC)
      (Config.accessWords { fn := 32 + 16 * fn + ty, n := r.z, y := r.elemB, cv := r.elemC, poison := r.poisonB }) r.poisonB
  | none => if isScat i then .write r.elemB r.poisonB else .read
/-- The width of an indexed operation's result. -/
def indexWidth (x : RunAt) (i : Instr) (r : Run) : Nat := match atomOf i, r.b with
  | some _, some b => b.width
  | _, _ => dWid x.d
/-- The run after an element of it, with the value that it gives. -/
def indexTaken (i : Instr) (r r1 : Run) (inside : Bool) (v : Nat) (bad : Bool) : Run := { r1 with
  pos := r.pos + 1, part := r1.part ++ [v], partPoison := r1.partPoison || bad, moved := r1.moved + (if inside then r.z else 0),
  wrote := r1.wrote + (if inside && isScat i then r.z else 0), wroteBad := r1.wroteBad || (r.poisonB && isScat i) }
/-- The run after A's last lane: its result, and the RANGE error of the elements that lay outside. -/
def State.indexLast (s : State) (x : RunAt) (r : Run) (a : Token) (i : Instr) (r2 : Run) : Run := { r2 with
  ready := r2.ready ++ (if isScat i then [] else [{ a with
      kind := resultKind (some a) (indexWidth x i r), lanes := packTo (indexWidth x i r) r.z r2.part, poison := (x.firing r).poison || r2.partPoison }]) ++
    (if r2.missed = 0 then [] else [s.runErr x r2 0x03 r2.missed]), isOver := true }

/-- What an indexed run does with an element whose access has been made. -/
theorem indexElem_of {p t : State} {x : RunAt} {r r1 : Run} {a : Token} {i : Instr} {v : Nat} {bad : Bool} (inside : Bool) (ha : r.a = some a) (hi : x.info.i = i)
    (within : (decide (0 ≤ x.indexOff a i r.pos) && decide (x.indexOff a i r.pos + r.z ≤ dSpan x.d)) = inside)
    (got : (if inside then p.runMem x r false (r.base + BitVec.ofInt 64 (x.indexOff a i r.pos)) r.z (indexAct i r) (r.emitted % 2 ^ 32 * 2 ^ 32 + r.pos)
      else (p, { r with missed := r.missed + 1 }, some (0, false))) = (t, r1, some (v, bad))) :
    p.indexElem x r = if r.pos + 1 < a.width then (t, indexTaken i r r1 inside v bad)
      else (t, t.indexLast x r a i (indexTaken i r r1 inside v bad)) := by
  subst hi within
  have whole : p.indexElem x r = match (if (decide (0 ≤ x.indexOff a x.info.i r.pos) && decide (x.indexOff a x.info.i r.pos + r.z ≤ dSpan x.d)) = true then
        p.runMem x r false (r.base + BitVec.ofInt 64 (x.indexOff a x.info.i r.pos)) r.z (indexAct x.info.i r) (r.emitted % 2 ^ 32 * 2 ^ 32 + r.pos)
      else (p, { r with missed := r.missed + 1 }, some (0, false))) with
      | (s1, r1, none) => (s1, r1)
      | (s1, r1, some (v, bad)) =>
        let r2 := indexTaken x.info.i r r1 (decide (0 ≤ x.indexOff a x.info.i r.pos) && decide (x.indexOff a x.info.i r.pos + r.z ≤ dSpan x.d)) v bad
        if r.pos + 1 < a.width then (s1, r2) else (s1, s1.indexLast x r a x.info.i r2) := by
    unfold State.indexElem
    rw [ha] <;> rfl
  rw [whole, got]

/-! ### The other moves of runs: replies, ends, chases and batches of a gather engine -/

/-- A reply that leaves, the last of its run taking the operands. -/
theorem agReply_leaves {s p s2 : State} {x : RunAt} {r : Run} {t : Token} {rest : List Token} (serves : s.Serves State.replyStep p x r) (first : r.ready = t :: rest) :
    (rest = [] → r.isOver = true → p.replyOut (x.firing r) (some t) (x.owed r) = (s2, true) →
      exec .agReply s = .next (s2.setRun x.c x.site x.k { r with ready := [], a := none, b := none, x := none, ent := none, holds := false })) ∧
    ((rest ≠ [] ∨ r.isOver = false) → p.replyOut (x.firing r) (some t) [] = (s2, true) →
      exec .agReply s = .next (s2.setRun x.c x.site x.k { r with ready := rest })) := by
  obtain ⟨served, run⟩ := serves.serveRun_eq
  have step : exec .agReply s = .next (p.replyStep x.c x.site x.k r.desc) := congrArg Host.Outcome.next served
  rw [step, State.replyStep, run]
  simp only [first]
  constructor
  · rintro rfl over_ left
    simp [over_, left]
  · intro more left
    have : (r.isOver && rest.isEmpty) = false := by rcases more with h | h <;> simp [h]
    simp [this, left]

theorem chaseStep_eq {s p : State} {x : RunAt} {r : Run} {w : MeW} {a : Token} (serves : s.Serves State.chaseStep p x r) (may : p.MayAccess x r)
    (hi : x.info.i = .agxChase w) (ha : r.a = some a) (returned : r.ready = []) :
    exec .chaseStep s = .next ((p.chaseElem x r a).1.setRun x.c x.site x.k (p.chaseElem x r a).2) := by
  obtain ⟨served, run⟩ := serves.serveRun_eq
  obtain ⟨free, goes_on, going⟩ := may
  refine (congrArg Host.Outcome.next served).trans (congrArg Host.Outcome.next ?_)
  rw [State.chaseStep, run]
  simp [hi, ha, free, goes_on, going, returned]

theorem chaseElem_outside {p : State} {x : RunAt} {r : Run} {a : Token} (h : r.addr.toNat < r.base.toNat ∨ r.base.toNat + dSpan x.d < r.addr.toNat + 8) :
    p.chaseElem x r a = (p, { r with ready := [{ p.runErr x r 0x03 1 with last := true }], isOver := true }) := if_pos h

theorem chaseElem_inside {p t : State} {x : RunAt} {r r1 : Run} {a : Token} {v : Nat} {bad : Bool} (h : r.base.toNat ≤ r.addr.toNat)
    (h' : r.addr.toNat + 8 ≤ r.base.toNat + dSpan x.d) (near : p.NearAccess x r r.addr 8 .read t r1 v bad) :
    let d : DWord := BitVec.ofNat 64 v
    let fin := bad || decide (d = 0) || decide (r.pos + 1 ≥ dCnt x.d 0)
    p.chaseElem x r a = (t.farDone (farRun x.c x.k x.site r.desc), { r1 with
      pos := r.pos + 1, moved := r.moved + 8, isOver := fin, poisoned := r.poisoned || bad, addr := d + dAux x.d,
      ready := [{ a with
        lanes := [r.addr.extractLsb' 0 32, r.addr.extractLsb' 32 32, d.extractLsb' 0 32, d.extractLsb' 32 32],
        last := fin, poison := a.poison || bad }] }) := by
  have access (m : Nat) : p.runMem x r false r.addr 8 .read m = (t, r1, some (v, bad)) := near.runMem false m
  obtain ⟨cov, rfl⟩ := near.run_eq
  intro d fin
  refine (if_neg (by omega)).trans ?_
  rw [access]

/-- A run that is over ends, its arrival made. -/
theorem agRunEnd_ends {s t s2 : State} {x : RunAt} {r r1 : Run} {v : Nat} {bad : Bool} (run : s.runAt s.cur.cluster s.cur.site s.cur.ctx s.cur.sel = some (x, r))
    (ended : r.isOver = true) (left : r.ready = []) (going : r.stalled = none) (free : s.runHeld x r = false) (low : r.desc < 16)
    (arrives : dArv x.d = false ∧ t = s ∧ r1 = r ∧ bad = false ∨
       dArv x.d = true ∧ s.NearAccess x r (dAux x.d) 32 (.update (arrival r.wrote r.wroteBad) (arrivalWords r.wrote r.wroteBad)) t r1 v bad)
    (taken : (t.farDone (farRun s.cur.cluster s.cur.ctx s.cur.site r.desc)).replyOut (x.firing r1) none (x.owed r1) = (s2, true)) :
    exec .agRunEnd s = .next ((s2.modElem s.cur.cluster s.cur.site s.cur.ctx fun e => { e with runs := dropFirst r.desc e.runs }).cmdDone s.cur.cluster s.cur.ctx r1.cmdId
      r1.moved (if r1.poisoned || r1.wroteBad || bad then stPoisoned else if r1.error then stError else stOk)) := by
  have stream : decide (r.desc ≥ 16) = false := decide_eq_false (Nat.not_le.2 low)
  have got : ∃ n, (if (dArv x.d && !decide (r.desc ≥ 16)) = true then
      s.runMem x r false (dAux x.d) 32 (.update (arrival r.wrote r.wroteBad) (arrivalWords r.wrote r.wroteBad)) 0
    else (s, r, some (0, false))) = (t, r1, some (n, bad)) := by
    rcases arrives with ⟨none_, rfl, rfl, rfl⟩ | ⟨some_, near⟩
    · exact ⟨0, by simp [none_]⟩
    · exact ⟨v, by simp [some_, stream, near.runMem]⟩
  obtain ⟨n, got⟩ := got
  change execAgRunEnd s = _
  unfold execAgRunEnd
  simp only [run, ended, left, going, free, got]
  simp [taken, stream]

theorem gatherEngineBatch_near {s : State} {x : RunAt} {r : Run} {w : MeW} (run : s.runAt s.cur.cluster s.cur.site s.cur.ctx s.cur.sel = some (x, r))
    (near : dNear x.d = true) (hi : x.info.i = .agxGath w ∨ x.info.i = .agxScat w) :
    exec .gatherEngineBatch s = .next ((List.range 64).foldl (fun t _ => t.agStep s.cur.cluster s.cur.site s.cur.ctx s.cur.sel) s) := by
  change execGatherEngineBatch s = _
  unfold execGatherEngineBatch
  rcases hi with hi | hi
  · simp [run, near, hi]
  · simp [run, near, hi]

/-! ### The clauses -/

/-- A run that waits on no demand performs its instruction. -/
theorem runElem_of_joined {p : State} {x : RunAt} {r : Run} (h : r.waitsJoin = false ∨ r.demand = none) : p.runElem x r = match x.info.i with
    | .agsRd _ | .agsFill _ | .pld _ => p.readElem x r
    | .agsWr _ | .pst _ => if dTdst x.d then p.tileElem x r else p.feedElem x r
    | .agsRdcf _ => p.cfElem x r
    | .agsWrcf _ => p.cfFeed x r
    | .agsScrub _ => p.scrubElem x r
    | .ttbFill w => p.fillLine x r w.k
    | .agxGath _ | .agxScat _ | .agxAtomAdd _ | .agxAtomMin _ | .agxAtomMax _ | .agxAtomCas _ | .agxAtomSwp _ => p.indexElem x r
    | _ => (p, r) := by
  unfold State.runElem
  rcases h with h | h
  · rw [h] <;> rfl
  · rw [h]; cases r.waitsJoin <;> rfl

/-- The indexed operations of a word. -/
def indexedOps (w : MeW) : List Instr := [.agxGath w, .agxScat w, .agxAtomAdd w, .agxAtomMin w, .agxAtomMax w, .agxAtomCas w, .agxAtomSwp w]

theorem signedIndex_of_indexed {i : Instr} {w : MeW} (h : i ∈ indexedOps w) : signedIndex i = w.flags.getLsbD 0 := by
  simp only [indexedOps, List.mem_cons, List.not_mem_nil, or_false] at h
  rcases h with rfl | rfl | rfl | rfl | rfl | rfl | rfl <;> rfl

theorem runElem_of_indexed {p : State} {x : RunAt} {r : Run} {w : MeW} (h : r.demand = none) (hi : x.info.i ∈ indexedOps w) : p.runElem x r = p.indexElem x r := by
  rw [runElem_of_joined (.inr h)]
  simp only [indexedOps, List.mem_cons, List.not_mem_nil, or_false] at hi
  rcases hi with hi | hi | hi | hi | hi | hi | hi <;> rw [hi]

/-- The run after A's last lane, with a result of a width or none. -/
def State.indexGone (s : State) (x : RunAt) (r : Run) (a : Token) (r2 : Run) (res : Option Nat) : Run := { r2 with
  ready := r2.ready ++ (match res with
    | some n => [{ a with kind := resultKind (some a) n, lanes := packTo n r.z r2.part, poison := (x.firing r).poison || r2.partPoison }]
    | none => []) ++ (if r2.missed = 0 then [] else [s.runErr x r2 0x03 r2.missed]), isOver := true }
/-- The result that leaves is as wide as B for an atomic that has it, and as its colour otherwise; a scatter has none. -/
def RunAt.indexResult (x : RunAt) (r : Run) (i : Instr) : Option Nat := if isScat i then none else match atomOf i, r.b with
  | some _, some b => some b.width
  | _, _ => some (dWid x.d)

theorem indexLast_eq (s : State) (x : RunAt) (r : Run) (a : Token) (i : Instr) (r2 : Run) :
    s.indexLast x r a i r2 = s.indexGone x r a r2 (x.indexResult r i) := by
  have width : x.indexResult r i = if isScat i then none else some (indexWidth x i r) := by
    unfold RunAt.indexResult indexWidth
    split
    · rfl
    · split <;> rfl
  rw [width]
  unfold State.indexLast State.indexGone
  cases isScat i <;> rfl

/-- An element of an indexed run does what its access gives; the last one sends what the run owes. -/
theorem agDoes_indexed {s p t : State} {x : RunAt} {r r1 : Run} {w : MeW} {a : Token} {i : Instr} {v : Nat} {bad : Bool} (inside : Bool)
    (serves : s.Serves State.agStep p x r) (may : p.MayAccess x r) (low : r.desc < 16) (free : r.demand = none) (ha : r.a = some a)
    (hi : x.info.i = i) (indexed : i ∈ indexedOps w)
    (within : (decide (0 ≤ x.indexOff a i r.pos) && decide (x.indexOff a i r.pos + r.z ≤ dSpan x.d)) = inside)
    (got : (if inside then p.runMem x r false (r.base + BitVec.ofInt 64 (x.indexOff a i r.pos)) r.z (indexAct i r) (r.emitted % 2 ^ 32 * 2 ^ 32 + r.pos)
      else (p, { r with missed := r.missed + 1 }, some (0, false))) = (t, r1, some (v, bad))) :
    (r.pos + 1 < a.width → AgDoes s p x r t (indexTaken i r r1 inside v bad)) ∧
    (a.width ≤ r.pos + 1 → AgDoes s p x r t (t.indexGone x r a (indexTaken i r r1 inside v bad) (x.indexResult r i))) := by
  have element := indexElem_of inside ha hi within got
  rw [indexLast_eq] at element
  have whole : p.runElem x r = p.indexElem x r := runElem_of_indexed free (hi ▸ indexed)
  exact ⟨fun more => agDoes_of serves may low (whole.trans (element.trans (if_pos more))),
    fun last => agDoes_of serves may low (whole.trans (element.trans (if_neg (Nat.not_lt.2 last))))⟩

/-- The same of an element inside the span, by its access at a home of this module. -/
theorem agDoes_indexed_near {s p t : State} {x : RunAt} {r r1 : Run} {w : MeW} {a : Token} {i : Instr} {v : Nat} {bad : Bool} {off : Int}
    (serves : s.Serves State.agStep p x r) (may : p.MayAccess x r) (low : r.desc < 16) (free : r.demand = none) (ha : r.a = some a)
    (hi : x.info.i = i) (indexed : i ∈ indexedOps w) (hoff : x.indexOff a i r.pos = off) (within : 0 ≤ off ∧ off + r.z ≤ dSpan x.d)
    (near : p.NearAccess x r (r.base + BitVec.ofInt 64 off) r.z (indexAct i r) t r1 v bad) :
    (r.pos + 1 < a.width → AgDoes s p x r t (indexTaken i r r1 true v bad)) ∧
    (a.width ≤ r.pos + 1 → AgDoes s p x r t (t.indexGone x r a (indexTaken i r r1 true v bad) (x.indexResult r i))) := by
  subst hoff
  exact agDoes_indexed true serves may low free ha hi indexed (by simp [within]) ((if_pos rfl).trans (near.runMem ..))

/-- Settles O42: each clause is the lemma of its kind of run, applied to the step of the stream served (`agDoes_of`). -/
theorem runSteps : Obligations.RunSteps := by
  unfold Obligations.RunSteps
  refine ⟨fun s step c site k n q hq => chooseRun_first hq, fun s key n cov v bad f ws own => atHome_at_home s key n cov v bad f ws own,
    fun fn ty z old y cv _ => agAtom_cases fn ty z old y cv, ?_, ?_, fun s p s2 x r t rest serves first => agReply_leaves serves first, ?_, ?_, ?_⟩
  · intro s p t t2 x r r1 w v ad bad f a serves may low total i z va fin tile into
    refine ⟨fun free inside => ⟨?_, ?_, ?_, ?_, ?_, ?_, ?_, ?_, ?_⟩, ?_, ?_⟩
    · intro hi tokens near
      refine agDoes_of serves may low ((runElem_of_joined (.inl free)).trans ?_)
      have := readElem_toToken hi tokens inside near
      rcases hi with hi | hi
      · rw [hi]; exact this
      · rw [hi]; exact this
    · intro hi none_missed near place y good
      refine agDoes_of serves may low ((runElem_of_joined (.inl free)).trans ?_)
      rw [hi]
      exact readElem_fill hi none_missed may.2.1 inside near place good
    · intro hi toTile none_missed empty fits near u place y r2 e good
      have element := readElem_toTile hi toTile none_missed empty fits inside near rfl place good
      have whole : p.runElem x r = p.readElem x r := by
        rw [runElem_of_joined (.inl free)]
        rcases hi with hi | hi
        · rw [hi]
        · rw [hi]
      exact ⟨fun more => agDoes_of serves may low (whole.trans (element.trans (if_neg (Nat.not_le.2 more)))),
        fun last => agDoes_of serves may low (whole.trans (element.trans (if_pos last)))⟩
    · intro hi toTile readable owns fits place y near
      have element := tileElem_stores readable owns fits inside place rfl near
      refine agDoes_of serves may low ((runElem_of_joined (.inl free)).trans ?_)
      rcases hi with hi | hi
      · rw [hi]; exact (if_pos toTile).trans element
      · rw [hi]; exact (if_pos toTile).trans element
    · intro hi tokens ready ha shallow st near put r2
      have element := feedElem_stores (t2 := t2) ready ha shallow inside near
      have whole : p.runElem x r = p.feedElem x r := by
        rw [runElem_of_joined (.inl free)]
        rcases hi with hi | hi
        · rw [hi]; exact if_neg (Bool.eq_false_iff.1 tokens)
        · rw [hi]; exact if_neg (Bool.eq_false_iff.1 tokens)
      exact ⟨fun more => agDoes_of serves may low (whole.trans (element.1 more)),
        fun last none_missed taken => agDoes_of serves may low (whole.trans (element.2 last none_missed taken))⟩
    · intro hi near bits up tok
      refine agDoes_of serves may low ((runElem_of_joined (.inl free)).trans ?_)
      rw [hi]
      exact scrubElem_bit near
    · intro hi fits near h fit r2 es m b decoded closes tok
      refine agDoes_of serves may low ((runElem_of_joined (.inl free)).trans ?_)
      rw [hi]
      exact cfElem_block fits near decoded
    · intro hi ready ha shallow h ws at_ put u q stored homes taken
      refine agDoes_of serves may low ((runElem_of_joined (.inl free)).trans ?_)
      rw [hi]
      exact cfFeed_block ready ha shallow u q stored homes taken
    · exact fun y q va n m act near => near.runMem false m
    · intro free outside hi tokens r2
      refine agDoes_of serves may low ((runElem_of_joined (.inl free)).trans ?_)
      rw [hi]
      exact readElem_beyond hi tokens outside
    · intro idx st waits demand near d who own
      have element := joinElem_looks (t2 := t2) (st := st) near
      have whole : p.runElem x r = p.joinElem x r idx st := by rw [State.runElem, waits, demand]
      exact ⟨fun converting => agDoes_of serves may low (whole.trans (element.1 converting)), fun settled tables =>
        ⟨fun same => agDoes_of serves may low (whole.trans ((element.2 settled tables).1 same)),
         fun other => agDoes_of serves may low (whole.trans ((element.2 settled tables).2 other))⟩⟩
  · intro s p t x r r1 w a v bad serves may low free ha j z l off va inside y cv bp goes got res
    have within {i : Instr} (indexed : i ∈ indexedOps w) :
        (decide (0 ≤ x.indexOff a i r.pos) && decide (x.indexOff a i r.pos + r.z ≤ dSpan x.d)) = decide inside := by
      rw [RunAt.indexOff, signedIndex_of_indexed indexed]
      exact (Bool.decide_and ..).symm
    have place {i : Instr} (indexed : i ∈ indexedOps w) : x.indexOff a i r.pos = off := by rw [RunAt.indexOff, signedIndex_of_indexed indexed]
    refine ⟨?_, fun within_ => ⟨?_, ?_, ?_⟩⟩
    · rintro i indexed hi outside rfl rfl
      exact agDoes_indexed false serves may low free ha hi indexed ((within indexed).trans (decide_eq_false outside)) rfl
    · intro hi near
      have indexed : Instr.agxGath w ∈ indexedOps w := by simp [indexedOps]
      have does := agDoes_indexed_near (i := .agxGath w) serves may low free ha hi indexed (place indexed) within_ near
      have taken : indexTaken (.agxGath w) r r1 true v bad = got r1 z 0 false := by simp [indexTaken, isScat, got, j, z]
      rw [taken] at does
      exact does
    · intro hi near
      have indexed : Instr.agxScat w ∈ indexedOps w := by simp [indexedOps]
      have does := agDoes_indexed_near (i := .agxScat w) serves may low free ha hi indexed (place indexed) within_ near
      have poison : r.poisonB = bp := rfl
      have taken : indexTaken (.agxScat w) r r1 true v bad = got r1 z z bp := by simp [indexTaken, isScat, got, j, z, poison]
      rw [taken] at does
      exact does
    · intro q hq hi near
      have indexed : q.1 ∈ indexedOps w := by
        simp only [List.mem_cons, List.not_mem_nil, or_false] at hq
        rcases hq with rfl | rfl | rfl | rfl | rfl <;> simp [indexedOps]
      have act : indexAct q.1 r = .atomic (fun old => agAtom q.2 w.ty.toNat z old y cv)
          (Config.accessWords { fn := 32 + 16 * q.2 + w.ty.toNat, n := z, y := y, cv := cv, poison := bp }) bp ∧ isScat q.1 = false := by
        simp only [List.mem_cons, List.not_mem_nil, or_false] at hq
        rcases hq with rfl | rfl | rfl | rfl | rfl <;> exact ⟨rfl, rfl⟩
      obtain ⟨act, keeps⟩ := act
      rw [← act] at near
      have does := agDoes_indexed_near serves may low free ha hi indexed (place indexed) within_ near
      have taken : indexTaken q.1 r r1 true v bad = got r1 z 0 false := by
        simp [indexTaken, keeps, got, j, z]
      rw [taken] at does
      exact does
  · exact fun s t s2 x r r1 v bad => fun run ended left going free low arrives taken => agRunEnd_ends run ended left going free low arrives taken
  · intro s p t x r r1 w a v bad serves may hi ha returned
    have step := chaseStep_eq serves may hi ha returned
    exact ⟨fun outside => by rw [step, chaseElem_outside outside], fun low high near => by rw [step, chaseElem_inside low high near]⟩
  · exact fun s x r w => fun run near hi => gatherEngineBatch_near run near hi

end Sys2Proof.Machine
end

section
/-! O1: a step is the execution of the instruction of its move, in the state after the fetch. -/
namespace Sys2Proof.Machine
open Sys2Proof

/-! ### The step of a move -/

theorem step_of_pick {s t : State} {i : Instr} (ok : agentOk (nextMove s).1.cur = true) (h : pick (nextMove s).1 (nextMove s).2 = (t, some i)) : step s = exec i t := by
  simp only [step, ok, if_true, h]

theorem step_of_pick_none {s t : State} (ok : agentOk (nextMove s).1.cur = true) (h : pick (nextMove s).1 (nextMove s).2 = (t, none)) : step s = .next t := by
  simp only [step, ok, if_true, h]

/-- The module draws at most 5,200 W and the cap asked for. -/
theorem nextMove_power (s : State) : (nextMove s).1.power.toNat ≤ 5200 ∧ (nextMove s).1.power.toNat ≤ (s.iod 0).mcap.toNat := by
  have draws : (nextMove s).1.power.toNat = Nat.min (Config.power s.tick).toNat s.powerLimit % 65536 := BitVec.toNat_ofNat ..
  have most : Nat.min (Config.power s.tick).toNat s.powerLimit % 65536 ≤ s.powerLimit := (Nat.mod_le ..).trans (Nat.min_le_right ..)
  rw [draws]
  exact ⟨most.trans (Nat.min_le_left ..), most.trans ((Nat.min_le_right ..).trans (Nat.min_le_left ..))⟩

/-! ### The stream that has the turn (R52) -/

/-- The order of R52 of the streams of a cluster: the higher priority, then the next in turn. -/
def State.turnBefore (s : State) (c i j : Nat) : Bool := decide (s.streamPrio c i > s.streamPrio c j) ||
  (decide (s.streamPrio c i = s.streamPrio c j) && decide ((i + 4 - (s.cluster c).turn) % 4 < (j + 4 - (s.cluster c).turn) % 4))

theorem turnBefore_trans {s : State} {c x y z : Nat} (hxy : s.turnBefore c y x = false) (hyz : s.turnBefore c z y = false) : s.turnBefore c z x = false := by
  simp only [State.turnBefore, Bool.or_eq_false_iff, Bool.and_eq_false_iff, decide_eq_false_iff_not] at *
  omega

theorem turnBefore_asymm {s : State} {c x y : Nat} (h : s.turnBefore c x y = true) : s.turnBefore c y x = false := by
  simp only [State.turnBefore, Bool.or_eq_true, Bool.and_eq_true, decide_eq_true_eq, Bool.or_eq_false_iff, Bool.and_eq_false_iff, decide_eq_false_iff_not] at *
  omega

/-- The streams that may issue at once. -/
def State.readyStreams (s : State) (c : Nat) : List Nat := [0, 1, 2, 3].filter fun j => s.issues c j && !(s.stream c j).waiting

theorem chooseStream_eq (s : State) (c k : Nat) : s.chooseStream c k = match (s.readyStreams c).foldl (keepFirst (s.turnBefore c)) none with
    | none => k
    | some w => if !(s.issues c k) then k else if (s.stream c k).waiting && decide (s.streamPrio c w ≤ s.streamPrio c k) then k else w := by
  rw [show keepFirst (s.turnBefore c) = fun b j => match b with
      | none => some j
      | some i => if s.turnBefore c j i then some j else some i from funext fun b => funext fun q => by cases b <;> rfl] <;> rfl

/-- Where the stream named issues, no stream that is ready has a higher priority than the one chosen. -/
theorem streamPrio_le_chosen {s : State} {c k j : Nat} (named : s.issues c k = true) (hj : j < 4) (issues : s.issues c j = true)
    (free : (s.stream c j).waiting = false) : s.streamPrio c j ≤ s.streamPrio c (s.chooseStream c k) := by
  have mem : j ∈ s.readyStreams c := List.mem_filter.2 ⟨by simp; omega, by simp [issues, free]⟩
  rw [chooseStream_eq]
  generalize s.readyStreams c = l at mem
  cases l with
  | nil => nomatch mem
  | cons v l =>
    obtain ⟨w, hw, -, least, rest⟩ := foldl_keepFirst (before := s.turnBefore c) turnBefore_trans turnBefore_asymm l v
    have found : (v :: l).foldl (keepFirst (s.turnBefore c)) none = some w := hw
    have highest : s.streamPrio c j ≤ s.streamPrio c w := by
      have := (List.forall_mem_cons (p := fun q => s.turnBefore c q w = false)).2 ⟨least, rest⟩ j mem
      simp only [State.turnBefore, Bool.or_eq_false_iff, decide_eq_false_iff_not] at this
      omega
    simp only [found, named, Bool.not_true, Bool.false_eq_true, if_false]
    split
    · next waits => simp only [Bool.and_eq_true, decide_eq_true_eq] at waits; exact highest.trans waits.2
    · exact highest

/-- The turn is all that the choice of a stream changes, beside the stream that acts. -/
theorem streamTurn_frame (s : State) : s.streamTurn.cur.cluster = s.cur.cluster ∧ s.streamTurn.mem = s.mem ∧ s.streamTurn.ctxs = s.ctxs ∧
    ∀ l j, s.streamTurn.stream l j = s.stream l j := by
  unfold State.streamTurn
  simp only
  split
  · exact ⟨rfl, rfl, rfl, (State.SameStreams.modCluster (f := fun x => { x with turn := (s.chooseStream s.cur.cluster s.cur.ctx + 1) % 4 }) s s.cur.cluster fun _ => rfl).stream⟩
  · exact ⟨rfl, rfl, rfl, fun _ _ => rfl⟩

theorem streamTurn_ctx (s : State) : s.streamTurn.cur.ctx = s.chooseStream s.cur.cluster s.cur.ctx := rfl

/-! ### What the stream does (R49, R51, R234, R357) -/

section
variable {u : State} (runs : u.running u.cur.cluster u.cur.ctx = true)
include runs

/-- A running stream goes on by its phase, unless an asynchronous trap is taken first. -/
theorem streamMove_of_runs : streamMove u =
    if (decide (u.me.phase = .ready) || u.mayAbandon u.cur.cluster u.cur.ctx) && !u.me.asyncs.isEmpty && !u.me.arch.th then (u, some .asyncTrap)
    else match u.me.phase with
      | .idle => (u, none)
      | .exited => (u, none)
      | .exiting => (u, some .streamExited)
      | .committing => (u, some .blockCommit)
      | .inBlock => fetchInstr u
      | .ready => match u.ctxAt u.cur.cluster u.cur.ctx with
        | some x => if x.susp || x.evicting then (u, none) else startBlock u
        | none => (u, none) := by
  unfold streamMove
  simp only [runs, Bool.not_true, Bool.false_eq_true, if_false]
  rfl

theorem streamMove_async (h : u.me.phase = .ready ∨ u.me.phase = .inBlock ∧ u.me.waiting = true) (some_ : u.me.asyncs ≠ []) (open_ : u.me.arch.th = false) :
    streamMove u = (u, some .asyncTrap) := by
  have boundary : (decide (u.me.phase = .ready) || u.mayAbandon u.cur.cluster u.cur.ctx) = true := by
    rcases h with ready | ⟨inBlock, waits⟩
    · simp [ready]
    · have : u.mayAbandon u.cur.cluster u.cur.ctx = true := by
        simp only [State.mayAbandon, show u.stream u.cur.cluster u.cur.ctx = u.me from rfl, waits, inBlock]
        rfl
      simp [this]
  rw [streamMove_of_runs runs, if_pos]
  simp [boundary, some_, open_]

omit runs in
/-- A stream that does not wait abandons no block, nor does one that is at its exit. -/
theorem mayAbandon_of_not_waiting (h : u.me.waiting = false) : u.mayAbandon u.cur.cluster u.cur.ctx = false := by
  simp only [State.mayAbandon, show u.stream u.cur.cluster u.cur.ctx = u.me from rfl, h, Bool.false_and]
omit runs in
theorem mayAbandon_of_exiting (h : u.me.phase = .exiting) : u.mayAbandon u.cur.cluster u.cur.ctx = false := by
  simp [State.mayAbandon, show u.stream u.cur.cluster u.cur.ctx = u.me from rfl, h]

/-- No asynchronous trap is taken inside a block that need not wait. -/
theorem streamMove_of_none (between : u.me.phase ≠ .ready) (h : u.mayAbandon u.cur.cluster u.cur.ctx = false ∨ u.me.asyncs = [] ∨ u.me.arch.th = true) :
    streamMove u = match u.me.phase with
      | .exiting => (u, some .streamExited)
      | .committing => (u, some .blockCommit)
      | .inBlock => fetchInstr u
      | _ => (u, none) := by
  rw [streamMove_of_runs runs, if_neg]
  · cases hp : u.me.phase with
    | ready => exact absurd hp between
    | _ => rfl
  · rcases h with stays | none_ | masked
    · simp [between, stays]
    · simp [none_]
    · simp [masked]

theorem streamMove_ready {x : Ctx} (ready : u.me.phase = .ready) (h : u.me.asyncs = [] ∨ u.me.arch.th = true)
    (ctx : u.ctxAt u.cur.cluster u.cur.ctx = some x) (goes : x.susp = false) (stays : x.evicting = false) : streamMove u = startBlock u := by
  rw [streamMove_of_runs runs, if_neg]
  · simp [ready, ctx, goes, stays]
  · rcases h with none_ | masked
    · simp [none_]
    · simp [masked]

end

theorem fetchInstr_of_word {u v : State} {w : Word}
    (h : u.fetchWord u.cur.cluster u.cur.ctx (u.me.pc + 4#64 + BitVec.ofNat 64 (4 * u.me.idx)) = (v, .ok w)) :
    (∀ i, decodeSeq w = .ok i → fetchInstr u = (v, some i)) ∧
    (∀ d, decodeSeq w = .bad d → fetchInstr u = (v.takeTrap u.cur.cluster u.cur.ctx 1 d (w.zeroExtend 64) u.me.idx, none)) := by
  have fetched : u.fetchWord u.cur.cluster u.cur.ctx ((u.stream u.cur.cluster u.cur.ctx).pc + 4#64 +
      BitVec.ofNat 64 (4 * (u.stream u.cur.cluster u.cur.ctx).idx)) = (v, .ok w) := h
  constructor
  · intro i hi; simp only [fetchInstr, fetched, hi]
  · intro d hd; simp only [fetchInstr, fetched, hd] <;> rfl

/-- A block with a clean header starts with its first word. -/
theorem startBlock_of_words {u v v1 : State} {h w : Word} {i : Instr} (header : u.fetchWord u.cur.cluster u.cur.ctx u.me.pc = (v, .ok h)) (isH : isHeader h = true)
    (clean : headerClean h = true) (first : (v.beginBlock h).fetchWord u.cur.cluster u.cur.ctx (u.me.pc + 4#64) = (v1, .ok w)) (hi : decodeSeq w = .ok i) :
    startBlock u = (v1, some i) := by
  have frame := State.FetchFrame.fetchWord header
  have begun : startBlock u = fetchInstr (v.beginBlock h) := by
    have header' : u.fetchWord u.cur.cluster u.cur.ctx (u.stream u.cur.cluster u.cur.ctx).pc = (v, .ok h) := header
    simp [startBlock, header', isH, clean]
  have cur : (v.beginBlock h).cur = u.cur := frame.cur
  have me : (v.beginBlock h).me.pc = u.me.pc ∧ (v.beginBlock h).me.idx = 0 := by
    have same : (v.stream v.cur.cluster v.cur.ctx).pc = u.me.pc := by rw [frame.stream, frame.cur]; rfl
    have view := State.stream_modStream_self v v.cur.cluster v.cur.ctx
    exact ⟨(congrArg Stream.pc (view _)).trans same, congrArg Stream.idx (view _)⟩
  rw [begun]
  refine (fetchInstr_of_word ?_).1 i hi
  rw [me.1, me.2, cur]
  simpa using first

/-! ### The slot that fires (R45) -/

theorem chooseSlot_eq (s : State) (c site k slot : Nat) : s.chooseSlot c site k slot =
    match ((s.rivals c site).filter fun r => !r.tried).foldl (keepFirst Rival.before)
      ((s.rivals c site).find? fun r => decide (r.k = k) && decide (r.slot = slot) && r.tried) with
    | some r => (r.k, r.slot)
    | none => (k, slot) := by
  rw [show keepFirst Rival.before = fun b r => match b with
      | none => some r
      | some v => if r.before v then some r else some v from funext fun b => funext fun q => by cases b <;> rfl] <;> rfl

/-- No ready slot that was not tried already goes before the one that fires. -/
theorem chooseSlot_first {s : State} {c site k slot : Nat} {r : Rival} (hr : r ∈ s.rivals c site) (fresh : r.tried = false) :
    ∃ b ∈ s.rivals c site, (b.k, b.slot) = s.chooseSlot c site k slot ∧ r.before b = false := by
  have mem : r ∈ (s.rivals c site).filter fun r => !r.tried := List.mem_filter.2 ⟨hr, by simp [fresh]⟩
  rw [chooseSlot_eq]
  cases named : (s.rivals c site).find? fun r => decide (r.k = k) && decide (r.slot = slot) && r.tried with
  | some v =>
    obtain ⟨b, hb, from_, -, rest⟩ := foldl_keepFirst (before := Rival.before) Rival.not_before_trans Rival.not_before_of_before ((s.rivals c site).filter fun r => !r.tried) v
    refine ⟨b, ?_, by rw [hb], rest r mem⟩
    rcases from_ with rfl | inside
    · exact List.mem_of_find?_eq_some named
    · exact (List.mem_filter.1 inside).1
  | none =>
    have sub : ∀ q ∈ (s.rivals c site).filter fun r => !r.tried, q ∈ s.rivals c site := fun q hq => (List.mem_filter.1 hq).1
    generalize (s.rivals c site).filter (fun r => !r.tried) = l at mem sub
    cases l with
    | nil => nomatch mem
    | cons v l =>
      obtain ⟨b, hb, from_, least, rest⟩ := foldl_keepFirst (before := Rival.before) Rival.not_before_trans Rival.not_before_of_before l v
      have found : (v :: l).foldl (keepFirst Rival.before) none = some b := hb
      exact ⟨b, sub b (by simpa using from_), by rw [found], (List.forall_mem_cons (p := fun q => q.before b = false)).2 ⟨least, rest⟩ r mem⟩

theorem fireMove_of_word {u : State} {w : Word} (h : u.slotWord u.cur = some w) :
    (∀ i cw, isCeSite u.cur.site = true → decodeCe w = some (i, cw) → fireMove u = ({ u with cew := cw }, some i)) ∧
    (∀ i, isCeSite u.cur.site = false → decodeMe w = some i → fireMove u = (u, some i)) := by
  constructor
  · intro i cw ce hi; simp [fireMove, h, ce, hi]
  · intro i me hi; simp [fireMove, h, me, hi]

/-! ### Commands of an element (R40) -/

section
variable {t : State} {e : Elem} {x : Token} {r : List Token} (he : t.elem? t.cur.cluster t.cur.site t.cur.ctx = some e)
  (runs : t.running t.cur.cluster t.cur.ctx = true) (hq : e.inQ = x :: r)
include he runs hq

theorem pickCommand_mark (mark : x.kind = kMark) :
    ((x.lane 0).toNat % 256 = 0 → pickCommand t = (t, some (.snap x.aux))) ∧
    ((x.lane 0).toNat % 256 = 1 → pickCommand t = ((t.dropQ t.cur.cluster t.cur.site t.cur.ctx).settle t.cur.cluster t.cur.site,
      some (.abort (BitVec.ofNat 24 ((x.lane 0).toNat / 256))))) ∧
    ((x.lane 0).toNat % 256 = 2 → pickCommand t = (t, some (.switch (BitVec.ofNat 24 ((x.lane 0).toNat / 256))))) ∧
    (2 < (x.lane 0).toNat % 256 → e.snapped = false → e.room x.slot.toNat 0 = true →
      pickCommand t = (((t.answer t.cur.cluster t.cur.site t.cur.ctx x.slot.toNat 0x11 1 x).dropQ t.cur.cluster t.cur.site t.cur.ctx).settle t.cur.cluster t.cur.site, none)) := by
  have command : (kMark : BitVec 3) ≠ kCmd := by decide
  refine ⟨fun h => ?_, fun h => ?_, fun h => ?_, fun h open_ room => ?_⟩
  · simp [pickCommand, he, runs, hq, mark, h]
  · simp [pickCommand, he, runs, hq, mark, h]
  · simp [pickCommand, he, runs, hq, mark, h]
  · simp [pickCommand, he, runs, hq, mark, open_, room, command, Nat.not_le.2 h]

theorem pickCommand_plain (cmd : x.kind = kCmd) (one : x.width = 1) (zeros : (x.lane 0).toNat / 16 % 2 ^ 20 = 0) (open_ : e.snapped = false) :
    ((x.lane 0).toNat / 2 ^ 24 = 1 → pickCommand t = (t, some .fetch)) ∧
    ((x.lane 0).toNat / 2 ^ 24 = 2 → isCeSite t.cur.site = true → pickCommand t = (t, some (.unlatch (BitVec.ofNat 4 (x.lane 0).toNat)))) ∧
    ((x.lane 0).toNat / 2 ^ 24 = 3 → isCeSite t.cur.site = true → e.typ = 1 → pickCommand t = (t, some (.accclr (BitVec.ofNat 4 (x.lane 0).toNat)))) := by
  have picot : (kCmd : BitVec 3) ≠ kMark := by decide
  refine ⟨fun h => ?_, fun h ce => ?_, fun h ce tc => ?_⟩
  · simp only [pickCommand, he, runs, hq, cmd, one, zeros, open_, h, picot]; simp
  · simp only [pickCommand, he, runs, hq, cmd, one, zeros, open_, h, picot, ce]; simp
  · simp only [pickCommand, he, runs, hq, cmd, one, zeros, open_, h, picot, ce, tc]; simp

end

/-! ### The oldest command of the MX (R300) -/

theorem pickMx_of_mma {t : State} {h : MxCmd} {w : MxW} (head : t.mxHead t.cur.cluster = some h) (decoded : decodeMx h.w0 h.w1 = some (.mma w)) :
    pickMx t = (t, some (if h.started then .mmaKstep w else .mma w)) := by
  simp only [pickMx, head, decoded]

theorem pickMx_of_other {t : State} {h : MxCmd} {i : Instr} (head : t.mxHead t.cur.cluster = some h) (decoded : decodeMx h.w0 h.w1 = some i)
    (other : (∀ w, i ≠ .mma w) ∨ h.started = false) : pickMx t = (t, some i) := by
  simp only [pickMx, head, decoded]
  split
  · next bad => cases bad
  · next w mma =>
    obtain rfl : i = .mma w := Option.some.inj mma
    rcases other with no_mma | fresh
    · exact absurd rfl (no_mma w)
    · simp [fresh]
  · next same => rw [same]

/-! ### The clauses -/

/-- Settles O1: a step is `pick` and then `exec`; each clause is what `pick` does with a move of its kind. -/
theorem stepRunsDecoded : Obligations.StepRunsDecoded := by
  unfold Obligations.StepRunsDecoded
  intro s t m ok
  have goes {v : State} {i : Instr} (h : pick t m = (v, some i)) : step s = exec i v := step_of_pick ok h
  have ends {v : State} (h : pick t m = (v, none)) : step s = .next v := step_of_pick_none ok h
  refine ⟨⟨rfl, rfl, rfl, rfl, rfl, rfl, (nextMove_power s).1, (nextMove_power s).2⟩, ?_, ?_, ?_, ?_, ?_, ?_⟩
  · intro i event
    exact goes (by rw [event]; rfl)
  · intro u c k st at_
    have same : c = t.cur.cluster := (streamTurn_frame t).1
    refine ⟨streamTurn_frame t, fun named j hj issues free => ?_, ?_⟩
    · change t.streamPrio c j ≤ t.streamPrio c (t.chooseStream t.cur.cluster t.cur.ctx)
      rw [same] at *
      exact streamPrio_le_chosen named hj issues free
    intro move runs
    have turn : pick t m = streamMove u := by rw [move]; rfl
    refine ⟨?_, ?_, ?_, ?_, ?_⟩
    · intro v w inBlock quiet fetched
      have moves : pick t m = fetchInstr u := turn.trans ((streamMove_of_none runs (by simp [show u.me.phase = _ from inBlock]) (quiet.imp_left mayAbandon_of_not_waiting)).trans (by
        rw [show u.me.phase = _ from inBlock]))
      exact ⟨fun i hi => goes (moves.trans ((fetchInstr_of_word fetched).1 i hi)), fun d hd => ends (moves.trans ((fetchInstr_of_word fetched).2 d hd))⟩
    · intro v h v1 w x i ready quiet ctx free stays header isH clean first hi
      exact goes (turn.trans ((streamMove_ready runs ready quiet ctx free stays).trans (startBlock_of_words header isH clean first hi)))
    · intro at_boundary some_ open_
      exact goes (turn.trans (streamMove_async runs at_boundary some_ open_))
    · intro committing quiet
      refine goes (turn.trans ((streamMove_of_none runs (by simp [show u.me.phase = _ from committing]) (quiet.imp_left mayAbandon_of_not_waiting)).trans ?_))
      rw [show u.me.phase = _ from committing]
    · intro exiting
      refine goes (turn.trans ((streamMove_of_none runs (by simp [show u.me.phase = _ from exiting]) (.inl (mayAbandon_of_exiting exiting))).trans ?_))
      rw [show u.me.phase = _ from exiting]
  · intro u
    refine ⟨fun r hr fresh => chooseSlot_first hr fresh, fun w move word => ?_⟩
    have turn : pick t m = fireMove u := by rw [move]; rfl
    exact ⟨fun i cw ce hi => goes (turn.trans ((fireMove_of_word word).1 i cw ce hi)), fun i me hi => goes (turn.trans ((fireMove_of_word word).2 i me hi))⟩
  · intro e x r move he runs hq v
    have turn : pick t m = pickCommand t := by rw [move]; rfl
    constructor
    · intro mark
      obtain ⟨snap, abort, switch, other⟩ := pickCommand_mark he runs hq mark
      exact ⟨fun h => goes (turn.trans (snap h)), fun h => goes (turn.trans (abort h)), fun h => goes (turn.trans (switch h)),
        fun h open_ room => ends (turn.trans (other h open_ room))⟩
    · intro cmd one zeros open_
      obtain ⟨fetch, unlatch, accclr⟩ := pickCommand_plain he runs hq cmd one zeros open_
      exact ⟨fun h => goes (turn.trans (fetch h)), fun h ce => goes (turn.trans (unlatch h ce)), fun h ce tc => goes (turn.trans (accclr h ce tc))⟩
  · intro h i move head decoded
    have turn : pick t m = pickMx t := by rw [move]; rfl
    exact ⟨fun w mma started => goes (turn.trans ((pickMx_of_mma head (decoded.trans (by rw [mma]))).trans (by rw [if_pos started]))),
      fun other => goes (turn.trans (pickMx_of_other head decoded other))⟩
  · intro x i move issued decoded
    have turn : pick t m = pickEngine t := by rw [move]; rfl
    refine goes (turn.trans ?_)
    rcases decoded with ⟨q, hi⟩ | ⟨q, hi⟩ | ⟨q, hi⟩
    · simp [pickEngine, issued, q, hi]
    · simp [pickEngine, issued, q, hi]
    · simp [pickEngine, issued, q, hi]

end Sys2Proof.Machine
end

section
/-! O5: the operations of the state keep memory, contexts and pointstamps canonical. Each function of the model that gives a state has one lemma, named after it:
what it is made of keeps `State.Canonical`, and so does it. The writers themselves are few: `wr` and `putBytes` of memory, `set`, `del` and `map` of contexts, and
`stampAdd` and the filter of a release of pointstamps. -/
namespace Sys2Proof.Machine
open Sys2Proof

/-! ### Operations of a cluster that leave its pointstamps -/

section
variable (x : Cluster)

@[simp] theorem Cluster.count_stamps (e k n : Nat) : (x.count e k n).stamps = x.stamps := rfl
@[simp] theorem Cluster.fetched_stamps (u : CacheUnit) : (x.fetched u).stamps = x.stamps := rfl
@[simp] theorem Cluster.setTile_stamps (t : Nat) (e : TileE) : (x.setTile t e).stamps = x.stamps := rfl
@[simp] theorem Cluster.tileTo_stamps (t st : Nat) : (x.tileTo t st).stamps = x.stamps := by rw [Cluster.tileTo, Cluster.setTile_stamps]
@[simp] theorem Cluster.useTile_stamps (t : Nat) : (x.useTile t).stamps = x.stamps := rfl
@[simp] theorem Cluster.unuseTile_stamps (t : Nat) : (x.unuseTile t).stamps = x.stamps := rfl
@[simp] theorem Cluster.setMembers_stamps (r : Nat) (l : List Nat) : (x.setMembers r l).stamps = x.stamps := by
  unfold Cluster.setMembers
  dsimp only
  exact (foldl_keeps Cluster.stamps (fun y (q : Nat × Nat) => y.setTile_stamps ..) _ _).trans (foldl_keeps Cluster.stamps (fun y t => y.setTile_stamps ..) _ x)
@[simp] theorem Cluster.leaveRing_stamps (t : Nat) : (x.leaveRing t).stamps = x.stamps := by
  unfold Cluster.leaveRing
  dsimp only
  split
  · exact x.setMembers_stamps ..
  · rfl
@[simp] theorem Cluster.emptyTile_stamps (t : Nat) : (x.emptyTile t).stamps = x.stamps := by simp [Cluster.emptyTile]
@[simp] theorem Cluster.popHead_stamps (r : Nat) : (x.popHead r).stamps = x.stamps := by
  unfold Cluster.popHead
  split
  · rfl
  · split <;> simp
@[simp] theorem Cluster.spRead_stamps (a n : Nat) : (x.spRead a n).1.stamps = x.stamps := rfl
@[simp] theorem Cluster.spWrite_stamps (a n v : Nat) (p : Bool) : (x.spWrite a n v p).1.stamps = x.stamps :=
  foldl_keeps (fun q : Cluster × Bool => q.1.stamps) (fun q w => by dsimp only; split <;> rfl) _ (x, false)
@[simp] theorem Cluster.tagInsert_stamps (k key slot d : Nat) : (x.tagInsert k key slot d).1.stamps = x.stamps := by
  unfold Cluster.tagInsert
  split <;> rfl
@[simp] theorem Cluster.pass_stamps (n : Nat) : (x.pass n).stamps = x.stamps :=
  (foldl_keeps Cluster.stamps (fun y w => y.count_stamps ..) _ _).trans
    ((foldl_keeps Cluster.stamps (fun y k => by split <;> rfl) _ _).trans (x.count_stamps ..))

end
/-- A change of a table's values leaves its keys in order. -/
theorem Map.sorted_map_of_keys {α : Type} {m : Map α} {g : Nat × α → Nat × α} (hg : ∀ e, (g e).1 = e.1) (h : Map.sorted m = true) :
    Map.sorted (List.map g m : Map α) = true := by
  induction m with
  | nil => rfl
  | cons e m ih =>
    obtain ⟨least, rest⟩ := Map.sorted_cons.1 h
    refine Map.sorted_cons.2 ⟨fun x hx => ?_, ih rest⟩
    obtain ⟨y, hy, rfl⟩ := List.mem_map.1 hx
    rw [hg, hg]
    exact least y hy

/-- Pointstamps stay keyed when some are freed. -/
theorem keyed_filter {l : List Stamp} {p : Stamp → Bool} (h : Keyed l) : Keyed (l.filter p) :=
  ⟨h.1.sublist (List.filter_sublist.map _), fun x hx => h.2 x (List.mem_filter.1 hx).1⟩

/-! ### The parts of the state -/

/-- What an operation of a slot leaves is canonical. -/
def Res.Keeps : Res → Prop
  | .hold t => t.Canonical
  | .ok r => r.st.Canonical
  | _ => True

namespace State.Canonical
variable {s : State}

/-- A change of a cluster that keeps its pointstamps keyed. -/
theorem modStamps (h : s.Canonical) (c : Nat) {f : Cluster → Cluster} (hf : ∀ x, Keyed x.stamps → Keyed (f x).stamps) : (s.modCluster c f).Canonical := by
  obtain ⟨mem, ctxs, stamps⟩ := h
  refine ⟨mem, ctxs, fun l => ?_⟩
  rw [State.cluster, State.modCluster, Map.get_mod]
  split
  · exact hf _ (stamps c)
  · exact stamps l

/-- A change of a cluster that leaves its pointstamps. -/
theorem modCluster (h : s.Canonical) {c : Nat} {f : Cluster → Cluster} (hf : ∀ x, (f x).stamps = x.stamps) : (s.modCluster c f).Canonical :=
  h.modStamps c fun x hx => by rwa [hf]

/-- A cluster is put in the place of one with the same pointstamps. -/
theorem setCluster (h : s.Canonical) {c : Nat} {y : Cluster} (hy : y.stamps = (s.cluster c).stamps) : (s.modCluster c fun _ => y).Canonical := by
  obtain ⟨mem, ctxs, stamps⟩ := h
  refine ⟨mem, ctxs, fun l => ?_⟩
  rw [State.cluster, State.modCluster, Map.get_mod]
  split
  · rw [hy]; exact stamps c
  · exact stamps l

theorem modStream (h : s.Canonical) {c k : Nat} {f : Stream → Stream} : (s.modStream c k f).Canonical := h.modCluster fun _ => rfl
theorem modRegion (h : s.Canonical) {c k : Nat} {f : Region → Region} : (s.modRegion c k f).Canonical := h.modCluster fun x => by split <;> rfl
theorem modSite (h : s.Canonical) {c i : Nat} {f : Site → Site} : (s.modSite c i f).Canonical := h.modCluster fun _ => rfl
theorem modElem (h : s.Canonical) {c i k : Nat} {f : Elem → Elem} : (s.modElem c i k f).Canonical := h.modSite
theorem modDie (h : s.Canonical) {d : Nat} {f : Die → Die} : (s.modDie d f).Canonical := h
theorem modIod (h : s.Canonical) {d : Nat} {f : Iod → Iod} : (s.modIod d f).Canonical := h
theorem modPort (h : s.Canonical) {d : Nat} {f : Port → Port} : (s.modPort d f).Canonical := h
theorem modMe (h : s.Canonical) {f : Stream → Stream} : (s.modMe f).Canonical := h.modStream
theorem setMe (h : s.Canonical) {st : Stream} : (s.setMe st).Canonical := h.modMe

theorem setCtx (h : s.Canonical) (cid : Nat) (x : Ctx) : ({ s with ctxs := s.ctxs.set cid x } : State).Canonical := ⟨h.1, Map.sorted_set _ _ h.2.1, h.2.2⟩
theorem modCtx (h : s.Canonical) {cid : Nat} {f : Ctx → Ctx} : (s.modCtx cid f).Canonical := by
  unfold State.modCtx
  split
  · exact h.setCtx ..
  · exact h

theorem wr (h : s.Canonical) {k n v : Nat} : (s.wr k n v).Canonical := ⟨wf_writeLe k n v h.1, h.2⟩
theorem wrKeep (h : s.Canonical) {k n v : Nat} : (s.wrKeep k n v).Canonical := h.wr
theorem wr64 (h : s.Canonical) {k : Nat} {v : DWord} : (s.wr64 k v).Canonical := h.wr
theorem count (h : s.Canonical) {c e k : Nat} : (s.count c e k).Canonical := h.modCluster fun _ => rfl
theorem countWait (h : s.Canonical) {c e k : Nat} : (s.countWait c e k).Canonical := h.modCluster fun _ => rfl
theorem countMe (h : s.Canonical) {c k : Nat} : (s.countMe c k).Canonical := h.count.countWait
theorem countDie (h : s.Canonical) {d e : Nat} : (s.countDie d e).Canonical := h
theorem setMark (h : s.Canonical) {k v : Nat} : (s.setMark k v).Canonical := h
theorem takeNodes (h : s.Canonical) {l : List Nat} : (s.takeNodes l).Canonical := h

/-- What shares memory, contexts and clusters with a canonical state is canonical. -/
theorem same {t : State} (h : s.Canonical) (mem : t.mem = s.mem) (ctxs : t.ctxs = s.ctxs) (clusters : t.clusters = s.clusters) : t.Canonical := by
  simpa only [State.Canonical, State.cluster, mem, ctxs, clusters] using h

/-- A change of every cluster that keeps its pointstamps keyed. -/
theorem mapStamps {t : State} {f : Nat × Cluster → Cluster} (h : s.Canonical) (mem : t.mem = s.mem) (ctxs : t.ctxs = s.ctxs)
    (clusters : t.clusters = s.clusters.map fun e => (e.1, f e)) (hf : ∀ e, Keyed e.2.stamps → Keyed (f e).stamps) : t.Canonical := by
  obtain ⟨hm, hc, stamps⟩ := h
  refine ⟨mem ▸ hm, ctxs ▸ hc, fun c => ?_⟩
  have here := stamps c
  unfold State.cluster Map.get at here ⊢
  rw [clusters]
  generalize s.clusters = l at here
  induction l with
  | nil => exact here
  | cons e l ih =>
    by_cases he : e.1 = c
    · simp only [Map.find?, List.map_cons, he, if_true, Option.getD_some] at here ⊢
      exact hf e here
    · simp only [Map.find?, List.map_cons, he, if_false] at here ⊢
      exact ih here

/-- A change of every cluster that leaves its pointstamps. -/
theorem mapClusters {t : State} {f : Nat × Cluster → Cluster} (h : s.Canonical) (mem : t.mem = s.mem) (ctxs : t.ctxs = s.ctxs)
    (clusters : t.clusters = s.clusters.map fun e => (e.1, f e)) (hf : ∀ e, (f e).stamps = e.2.stamps) : t.Canonical :=
  h.mapStamps mem ctxs clusters fun e he => by rwa [hf]

/-- What every step of a fold keeps, the fold keeps. -/
theorem foldl {α : Type} {f : State → α → State} (h : s.Canonical) (hf : ∀ t x, t.Canonical → (f t x).Canonical) (l : List α) : (l.foldl f s).Canonical := by
  induction l generalizing s with
  | nil => exact h
  | cons x l ih => exact ih (hf _ x h)

/-- The same of a fold that carries something beside the state. -/
theorem foldl_fst {α β : Type} {f : State × β → α → State × β} {q : State × β} (h : q.1.Canonical) (hf : ∀ q x, q.1.Canonical → (f q x).1.Canonical) (l : List α) :
    (l.foldl f q).1.Canonical := by
  induction l generalizing q with
  | nil => exact h
  | cons x l ih => exact ih (hf _ x h)

/-- A fold that may fail and carries something beside the state. -/
theorem foldl_bind_fst {α β : Type} {f : State × β → α → Option (State × β)} {o : Option (State × β)} (ho : ∀ q, o = some q → q.1.Canonical)
    (hf : ∀ q x r, q.1.Canonical → f q x = some r → r.1.Canonical) (l : List α) {r : State × β} (eq : l.foldl (fun o x => o.bind fun q => f q x) o = some r) :
    r.1.Canonical := by
  induction l generalizing o with
  | nil => exact ho _ eq
  | cons x l ih =>
    refine ih (fun u hu => ?_) eq
    obtain ⟨q, hq, hqu⟩ := Option.bind_eq_some_iff.1 hu
    exact hf q x u (ho q hq) hqu

end State.Canonical
end Sys2Proof.Machine
end

section
/-! O5: translation, faults, traps, pointstamps and signals. From here each lemma bears the name of the function it is about; `grind` takes the branches of the function
apart and closes each by the lemmas about what is called there, which the list names. -/
namespace Sys2Proof.Machine
open Sys2Proof
namespace State.Canonical
variable {s : State}

theorem setProt {k n ft : Nat} (h : s.Canonical) : (s.setProt k n ft).Canonical := by
  unfold State.setProt
  grind [same]

theorem touchLine {k : Nat} (h : s.Canonical) : (s.touchLine k).1.Canonical := by
  unfold State.touchLine
  grind [countDie, setMark]

theorem touch {k n : Nat} (h : s.Canonical) : (s.touch k n).1.Canonical := by
  unfold State.touch
  grind [touchLine, foldl_fst]

theorem countHbm {key : Nat} {write : Bool} (h : s.Canonical) : (s.countHbm key write).Canonical := by
  unfold State.countHbm
  grind [countDie]

theorem walkFrom {va : DWord} {n lvl table : Nat} (h : s.Canonical) : (Machine.walkFrom s va n lvl table).1.Canonical := by
  induction n generalizing s lvl table with
  | zero => exact h
  | succ n ih =>
    unfold Machine.walkFrom
    grind [touchLine, countHbm]

theorem walk {c : Nat} {ag : Bool} {root va : DWord} {acc : Access} (h : s.Canonical) : (s.walk c ag root va acc).1.Canonical := by
  unfold State.walk
  grind [modCluster, modDie, count, wr64, countHbm, walkFrom]

theorem lookup {c : Nat} {ag : Bool} {root va : DWord} {acc : Access} (h : s.Canonical) : (s.lookup c ag root va acc).1.Canonical := by
  unfold State.lookup
  grind [walk]

theorem translate {c : Nat} {ag : Bool} {root va : DWord} {acc : Access} (h : s.Canonical) : (s.translate c ag root va acc).1.Canonical := by
  unfold State.translate
  grind [lookup]

theorem sendLater {p : Nat} {type dst : Nat} {index : Nat} {xfer : BitVec 16} {pay : List DWord} {cmd : Option (Nat × Nat × Nat)} {ord : Bool} (h : s.Canonical) : (s.sendLater p type dst index xfer pay cmd ord).Canonical := by
  unfold State.sendLater
  grind [modPort]

theorem farTransfer {key : Nat} {pay : List DWord} {ord : Bool} (h : s.Canonical) : (s.farTransfer key pay ord).Canonical := by
  unfold State.farTransfer
  grind [same, sendLater]

theorem farAsk {who key n : Nat} {q : FarReq} (h : s.Canonical) : (s.farAsk who key n q).1.Canonical := by
  unfold State.farAsk
  grind [same, sendLater, farTransfer]

theorem farDone {who : Nat} (h : s.Canonical) : (s.farDone who).Canonical := by
  unfold State.farDone
  grind [same]

theorem farTake {who key : Nat} (h : s.Canonical) : (s.farTake who key).Canonical := by
  unfold State.farTake
  grind [same]

theorem farLoad {who key n : Nat} (h : s.Canonical) : (s.farLoad who key n).1.Canonical := by
  unfold State.farLoad
  grind [farAsk, farTake]

theorem farDrop {c k : Nat} (h : s.Canonical) : (s.farDrop c k).Canonical := by
  unfold State.farDrop
  grind [same]

theorem wrAt {root va : DWord} {key n v : Nat} (h : s.Canonical) : (s.wrAt root va key n v).Canonical := by
  unfold State.wrAt
  grind [wrKeep, setProt]

/-- One update of the pointstamps of a cluster keeps them keyed (R70). -/
theorem muUpdate {cid c : Nat} {u : Upd} {free : Cluster → Bool} (h : s.Canonical) :
    (s.modCluster c fun x => if free x then { x with stamps := stampAdd x.stamps cid u, muWait := 0, muReported := false }
      else { x with stamps := stampAdd x.stamps cid u }).Canonical := h.modStamps c fun x hx => by
  split
  · exact keyed_stampAdd hx cid u
  · exact keyed_stampAdd hx cid u

theorem muLocal {cid : Nat} {us : List Upd} (h : s.Canonical) : (s.muLocal cid us).Canonical := by
  unfold State.muLocal
  refine foldl (foldl h ?_ _) ?_ _
  all_goals
    intro t u ht
    dsimp only
    split
    · exact ht.muUpdate.modDie
    · exact ht.muUpdate

theorem gateTo {cid : Nat} {us : List Upd} {m : Nat} (h : s.Canonical) : (s.gateTo cid us m).Canonical := by
  unfold State.gateTo
  grind [same, modCtx, sendLater, foldl]

theorem muApply {cid : Nat} {us : List Upd} (h : s.Canonical) : (s.muApply cid us).Canonical := by
  unfold State.muApply
  grind [muLocal, gateTo, foldl]

theorem muWait {cid who : Nat} {us : List Upd} {source : Bool} (h : s.Canonical) : (s.muWait cid who us source).Canonical := by
  unfold State.muWait
  grind [modCluster, modDie, foldl]

theorem muGo {cid who : Nat} {us : List Upd} (h : s.Canonical) : (s.muGo cid who us).Canonical := by
  unfold State.muGo
  grind [modCluster, modDie, foldl]

theorem muForget {cid who : Nat} (h : s.Canonical) : (s.muForget cid who).Canonical :=
  h.mapClusters rfl rfl (f := fun e => { e.2 with muStall := e.2.muStall.filter fun q => decide (q ≠ (cid, who)) }) rfl fun _ => rfl

theorem signalled {key inc status : Nat} (h : s.Canonical) : (s.signalled key inc status).Canonical := by
  unfold State.signalled
  grind [wrKeep]

theorem signal {root va : DWord} {key inc status : Nat} (h : s.Canonical) : (s.signal root va key inc status).Canonical := by
  unfold State.signal
  grind [setProt, countHbm, farTransfer, signalled]

theorem signalUnder {c : Nat} {root obj : DWord} {inc status : Nat} (h : s.Canonical) : (s.signalUnder c root obj inc status).Canonical := by
  unfold State.signalUnder
  grind [same, translate, signal]

theorem signalVa {c k : Nat} {obj : DWord} {inc status : Nat} (h : s.Canonical) : (s.signalVa c k obj inc status).Canonical := by
  unfold State.signalVa
  grind [signalUnder]

theorem signalPa {pa : Nat} {inc status : Nat} (h : s.Canonical) : (s.signalPa pa inc status).Canonical := by
  unfold State.signalPa
  grind [same, countHbm, signalled]

theorem sendSignals (h : s.Canonical) : s.sendSignals.Canonical := by
  unfold State.sendSignals
  grind [same, signalUnder, signalPa, foldl]

theorem signalCmd {c k : Nat} {cmd : Cmd} {inc status : Nat} (h : s.Canonical) : (s.signalCmd c k cmd inc status).Canonical := by
  unfold State.signalCmd
  grind [modCluster, signalVa]

theorem stopStream {p : Nat × Nat} (h : s.Canonical) : (s.stopStream p).Canonical := by
  unfold State.stopStream
  grind [modStream, count, farDrop, signalCmd, foldl]

theorem stopCtx {cid : Nat} {code detail : Nat} {blk addr : DWord} {idx : Nat} {killed : Bool} (h : s.Canonical) : (s.stopCtx cid code detail blk addr idx killed).Canonical := by
  unfold State.stopCtx
  grind [same, modStream, modCtx, signalVa, stopStream, foldl]

theorem faultEnd {cid : Nat} {code detail : Nat} {blk addr : DWord} {idx : Nat} (h : s.Canonical) : (s.faultEnd cid code detail blk addr idx).Canonical := by
  unfold State.faultEnd
  grind [stopCtx, foldl]

theorem takeTrap {c k code detail : Nat} {addr : DWord} {idx : Nat} (h : s.Canonical) : (s.takeTrap c k code detail addr idx).Canonical := by
  unfold State.takeTrap
  grind [modStream, count, farDrop, faultEnd]

theorem fetchWord {c k : Nat} {va : DWord} (h : s.Canonical) : (s.fetchWord c k va).1.Canonical := by
  unfold State.fetchWord
  grind [touch, countHbm, translate, farLoad]

theorem checkTarget {c k : Nat} {va : DWord} {fall : Bool} (h : s.Canonical) : (s.checkTarget c k va fall).1.Canonical := by
  unfold State.checkTarget
  grind [fetchWord]

theorem checkJump {c k : Nat} {va : DWord} (h : s.Canonical) : (s.checkJump c k va).1.Canonical := by
  unfold State.checkJump
  grind [checkTarget]

theorem trapHere {code detail : Nat} {addr : DWord} (h : s.Canonical) : (s.trapHere code detail addr).Canonical := by
  unfold State.trapHere
  grind [takeTrap, checkTarget]

theorem trapJump {code detail : Nat} {addr : DWord} (h : s.Canonical) : (s.trapJump code detail addr).Canonical := by
  unfold State.trapJump
  grind [takeTrap]

theorem retire {st : Stream} (h : s.Canonical) : (s.retire st).Canonical := by
  unfold State.retire
  grind [setMe, takeTrap, checkTarget]

theorem transfer {st : Stream} {target : DWord} (h : s.Canonical) : (s.transfer st target).Canonical := by
  unfold State.transfer
  grind [setMe, takeTrap, checkTarget]

end State.Canonical
end Sys2Proof.Machine
end

section
/-! O5: the register forms, and firings with what they deliver and forward. -/
namespace Sys2Proof.Machine
open Sys2Proof
namespace State.Canonical
variable {s : State}

theorem seqPure {f : Stream → Stream} (h : s.Canonical) : (s.seqPure f).Canonical := by
  unfold State.seqPure
  grind [retire]

theorem seqRRR {d a b : BitVec 6} {f : DWord → DWord → DWord} (h : s.Canonical) {s1 : State} (eq : Machine.seqRRR s d a b f = .next s1) : s1.Canonical := by
  unfold Machine.seqRRR at eq
  grind [seqPure]

theorem seqRR {d a : BitVec 6} {f : DWord → DWord} (h : s.Canonical) {s1 : State} (eq : Machine.seqRR s d a f = .next s1) : s1.Canonical := by
  unfold Machine.seqRR at eq
  grind [seqPure]

theorem seqPred {p : BitVec 3} {f : Regs → Bool} (h : s.Canonical) {s1 : State} (eq : Machine.seqPred s p f = .next s1) : s1.Canonical := by
  unfold Machine.seqPred at eq
  grind [seqPure]

theorem seqTime {d : BitVec 3} {f : Regs → Time} (h : s.Canonical) {s1 : State} (eq : Machine.seqTime s d f = .next s1) : s1.Canonical := by
  unfold Machine.seqTime at eq
  grind [seqPure]

theorem access {va : DWord} {n : Nat} {acc : Access} (h : s.Canonical) : (s.access va n acc).1.Canonical := by
  unfold State.access
  grind [translate]

theorem arm {key : Nat} {expected : DWord} {strict : Bool} (h : s.Canonical) : (s.arm key expected strict).Canonical := by
  unfold State.arm
  grind [wrKeep]

theorem loadView {va : DWord} {n : Nat} {acc : Access} (h : s.Canonical) : (s.loadView va n acc).1.Canonical := by
  unfold State.loadView
  grind [touch, countHbm, farLoad, access]

theorem objectAt {va : DWord} {al : Nat} {acc : Access} (h : s.Canonical) : (s.objectAt va al acc).1.Canonical := by
  unfold State.objectAt
  grind [translate]

theorem tableRd {c k who : Nat} {va : DWord} {n : Nat} (h : s.Canonical) : (s.tableRd c k who va n).1.Canonical := by
  unfold State.tableRd
  grind [touch, countHbm, translate, farLoad]

theorem waitHere (h : s.Canonical) : s.waitHere.Canonical := by
  unfold State.waitHere
  grind [modMe]

theorem stopAt {code detail : Nat} {addr : DWord} (h : s.Canonical) : (s.stopAt code detail addr).Canonical := by
  unfold State.stopAt
  grind [trapHere, waitHere]

theorem setSlot {c site k i : Nat} {x : SlotSt} (h : s.Canonical) : (s.setSlot c site k i x).Canonical := by
  unfold State.setSlot
  grind [modElem]

theorem answer {c site k slot code count : Nat} {t : Token} (h : s.Canonical) : (s.answer c site k slot code count t).Canonical := by
  unfold State.answer
  grind [modElem]

theorem admitData {c site k p slot : Nat} {e : Elem} {info : SlotInfo} {t : Token} (h : s.Canonical) {s1 : State} (eq : s.admitData c site k p slot e info t = some s1) : s1.Canonical := by
  unfold State.admitData at eq
  grind [muApply, setSlot, answer]

theorem takeToken {c site k p : Nat} {t0 : Token} (h : s.Canonical) {s1 : State} (eq : s.takeToken c site k p t0 = some s1) : s1.Canonical := by
  unfold State.takeToken at eq
  dsimp only at eq
  split at eq
  · nomatch eq
  · split at eq
    · nomatch eq
    · split at eq
      · grind [modElem, answer]
      · split at eq
        · nomatch eq
        · split at eq
          · nomatch eq
          · split at eq
            · grind [modElem, answer]
            · split at eq
              · grind [modElem, answer]
              · split at eq
                · obtain ⟨t, ht, rfl⟩ := Option.map_eq_some_iff.1 eq
                  exact (h.admitData ht).modElem
                · nomatch eq

theorem admitOne {c site k : Nat} (h : s.Canonical) {s1 : State} (eq : s.admitOne c site k = some s1) : s1.Canonical := by
  unfold State.admitOne at eq
  split at eq
  · nomatch eq
  · obtain ⟨q, -, hq⟩ := List.exists_of_findSome?_eq_some eq
    exact h.takeToken hq

theorem settleElem {c site k n : Nat} (h : s.Canonical) : (s.settleElem c site k n).Canonical := by
  induction n generalizing s with
  | zero => exact h
  | succ n ih =>
    unfold State.settleElem
    grind [modElem, admitOne]

theorem enterEdge {c : Nat} {ed : Edge} {t : Token} (h : s.Canonical) {s1 : State} (eq : s.enterEdge c ed t = some s1) : s1.Canonical := by
  unfold State.enterEdge at eq
  grind [modSite, Option.map_eq_some_iff]

theorem pushOut {c site k o : Nat} (h : s.Canonical) {s1 : State} (eq : s.pushOut c site k o = some s1) : s1.Canonical := by
  unfold State.pushOut at eq
  split at eq
  · nomatch eq
  · obtain ⟨t, -, ht⟩ := List.exists_of_findSome?_eq_some eq
    dsimp only at ht
    obtain ⟨u, hu, rfl⟩ := Option.map_eq_some_iff.1 ht
    refine modElem ?_
    split at hu
    · exact h.enterEdge hu
    · obtain ⟨y, -, rfl⟩ := Option.map_eq_some_iff.1 hu
      exact h.modSite

theorem settleOuts {c site k n : Nat} (h : s.Canonical) : (s.settleOuts c site k n).Canonical := by
  induction n generalizing s with
  | zero => exact h
  | succ n ih =>
    unfold State.settleOuts
    grind [pushOut]

theorem settle {c site : Nat} (h : s.Canonical) : (s.settle c site).Canonical := by
  unfold State.settle
  grind [settleElem, settleOuts]

theorem noteSnap {c key vc : Nat} (h : s.Canonical) : (s.noteSnap c key vc).Canonical := by
  unfold State.noteSnap
  grind [modCluster]

theorem hop {c site : Nat} {w : SwWord} {t : Token} (h : s.Canonical) {s1 : State} (eq : s.hop c site w t = some s1) : s1.Canonical := by
  unfold State.hop at eq
  dsimp only at eq
  split at eq
  · grind [modElem]
  · split at eq
    · obtain ⟨y, -, rfl⟩ := Option.map_eq_some_iff.1 eq
      exact h.modSite
    · split at eq
      · grind [noteSnap, modCluster]
      · grind [noteSnap, modCluster]
      · split at eq
        · grind
        · split at eq
          · nomatch eq
          · split at eq
            · split at eq
              · exact h.enterEdge eq
              · grind [same]
            · split at eq
              · nomatch eq
              · obtain ⟨y, -, rfl⟩ := Option.map_eq_some_iff.1 eq
                exact h.modCtx
      · grind [enterEdge]
      · nomatch eq

theorem passOver {c site k slot : Nat} (h : s.Canonical) : (s.passOver c site k slot).Canonical := by
  unfold State.passOver
  grind [modElem, foldl]

/-- What a firing leaves of the state. -/
theorem fired {f : Firing} {r : FireOk} (h : s.Canonical) (hr : r.st.Canonical) : (s.fired f r).Canonical := by
  unfold State.fired
  grind [count, countMe, muApply, muGo, modElem, settle]

theorem finish {f : Firing} {r : FireOk} (h : s.Canonical) (hr : r.st.Canonical) : (s.finish f r).Canonical := by
  unfold State.finish
  grind [muWait, fired]

theorem failed {f : Firing} {code count : Nat} (h : s.Canonical) : (s.failed f code count).st.Canonical := by
  unfold State.failed
  grind [setSlot]

/-- A slot fires: what its operation gives, if anything, is canonical. -/
theorem fireSlot {g : State → Firing → Res} (h : s.Canonical) (hg : ∀ f, (g s f).Keeps) : (s.fireSlot g).Canonical := by
  unfold State.fireSlot
  grind [countWait, finish, failed, Res.Keeps]

theorem fire {g : State → Firing → Res} {s1 : State} (h : s.Canonical) (hg : ∀ f, (g s f).Keeps) (eq : Machine.fire s g = .next s1) : s1.Canonical := by
  cases eq
  exact h.fireSlot hg

/-- A fold that may fail keeps it where its steps do. -/
theorem foldl_bind {α : Type} {f : State → α → Option State} {o : Option State} (ho : ∀ t, o = some t → t.Canonical)
    (hf : ∀ t x u, t.Canonical → f t x = some u → u.Canonical) (l : List α) {s1 : State} (eq : l.foldl (fun o x => o.bind fun t => f t x) o = some s1) : s1.Canonical := by
  induction l generalizing o with
  | nil => exact ho _ eq
  | cons x l ih =>
    refine ih (fun u hu => ?_) eq
    obtain ⟨t, ht, htu⟩ := Option.bind_eq_some_iff.1 hu
    exact hf t x u (ho t ht) htu

theorem injectPicots {c k : Nat} {at_ : Edge → Bool} {kind arg aux : Nat} (h : s.Canonical) {s1 : State} (eq : s.injectPicots c k at_ kind arg aux = some s1) :
    s1.Canonical :=
  foldl_bind (fun t ht => Option.some.inj ht ▸ h) (fun _ _ _ ht hu => ht.enterEdge hu) _ eq

theorem settleAround {c site : Nat} (h : s.Canonical) : (s.settleAround c site).Canonical := by
  unfold State.settleAround
  grind [settle, foldl]

theorem forwardWord {c site : Nat} {w : SwWord} (h : s.Canonical) {s1 : State} (eq : s.forwardWord c site w = some s1) : s1.Canonical := by
  unfold State.forwardWord at eq
  extract_lets frozen head snap at eq
  split at eq
  · nomatch eq
  · obtain ⟨t, -, ht⟩ := List.exists_of_findSome?_eq_some eq
    obtain ⟨u, hu, rfl⟩ := Option.map_eq_some_iff.1 ht
    exact (h.hop hu).modSite

theorem execSwitchForward (h : s.Canonical) {s1 : State} (eq : Machine.execSwitchForward s = .next s1) : s1.Canonical := by
  unfold Machine.execSwitchForward at eq
  grind [modSite, settleAround, forwardWord]

theorem deliverLocal {c site k d : Nat} {t : Token} (h : s.Canonical) : (s.deliverLocal c site k d t).Canonical := by
  unfold State.deliverLocal
  split
  · exact h
  · dsimp only
    split
    · exact h.modElem
    · next info _ =>
      cases data : s.admitData c site k 1 d _ info _ with
      | none => exact h.modElem
      | some u => exact h.admitData data

theorem execResultReachesOutput (h : s.Canonical) {s1 : State} (eq : Machine.execResultReachesOutput s = .next s1) : s1.Canonical := by
  unfold Machine.execResultReachesOutput at eq
  grind [modElem, settle, deliverLocal]

theorem execAgingPromotion (h : s.Canonical) {s1 : State} (eq : Machine.execAgingPromotion s = .next s1) : s1.Canonical := by
  unfold Machine.execAgingPromotion at eq
  grind [modElem]

theorem dropQ {c site k : Nat} (h : s.Canonical) : (s.dropQ c site k).Canonical := by
  unfold State.dropQ
  grind [modElem]

theorem execFetch (h : s.Canonical) {s1 : State} (eq : Machine.execFetch s = .next s1) : s1.Canonical := by
  unfold Machine.execFetch at eq
  grind [modElem, dropQ]

theorem execUnlatch {n : BitVec 4} (h : s.Canonical) {s1 : State} (eq : Machine.execUnlatch n s = .next s1) : s1.Canonical := by
  unfold Machine.execUnlatch at eq
  grind [muApply, setSlot, settle, dropQ]

theorem execAccclr {n : BitVec 4} (h : s.Canonical) {s1 : State} (eq : Machine.execAccclr n s = .next s1) : s1.Canonical := by
  unfold Machine.execAccclr at eq
  grind [modElem, dropQ]

theorem countFetch {c k : Nat} {missed : Bool} (h : s.Canonical) : (s.countFetch c k missed).Canonical := by
  unfold State.countFetch
  grind [count]

theorem execConfigUnitFetch (h : s.Canonical) {s1 : State} (eq : Machine.execConfigUnitFetch s = .next s1) : s1.Canonical := by
  unfold Machine.execConfigUnitFetch at eq
  grind [modCluster, modRegion, faultEnd, modSite, modElem, settle, countFetch, Cluster.fetched_stamps]

end State.Canonical
end Sys2Proof.Machine
end

section
/-! O5: the operations of CEs, and collectives, conversions and commands that an ME serves. -/
namespace Sys2Proof.Machine
open Sys2Proof
namespace State.Canonical
variable {s : State}

theorem execConfigUncorrectable {isBox : Bool} (h : s.Canonical) {s1 : State} (eq : Machine.execConfigUncorrectable isBox s = .next s1) : s1.Canonical := by
  unfold Machine.execConfigUncorrectable at eq
  grind [modCluster, modRegion, modSite, modElem]

theorem seqFloat {d : BitVec 6} {t : Bool} {g : Regs → DWord × FFlags} (h : s.Canonical) {s1 : State} (eq : Machine.seqFloat s d t g = .next s1) : s1.Canonical := by
  unfold Machine.seqFloat at eq
  grind [seqPure]

theorem ceMap {g : CeEnv → Nat → El → El → El → Nat} {f : Firing} (h : s.Canonical) : Res.Keeps (Machine.ceMap g s f) := by
  unfold Machine.ceMap
  grind [Res.Keeps]

theorem recoloured {f : Firing} {a : Token} {mk : BitVec 6 → BitVec 12 → List Token} (h : s.Canonical) : Res.Keeps (Machine.recoloured s f a mk) := by
  unfold Machine.recoloured
  grind [Res.Keeps]

theorem ceInt {g : Int → Int → Int → Int} {f : Firing} (h : s.Canonical) : Res.Keeps (Machine.ceInt g s f) := by
  unfold Machine.ceInt
  grind [ceMap]

theorem execCeAdd (h : s.Canonical) {s1 : State} (eq : Machine.execCeAdd s = .next s1) : s1.Canonical := h.fire (fun _ => h.ceInt) eq
theorem execCeSub (h : s.Canonical) {s1 : State} (eq : Machine.execCeSub s = .next s1) : s1.Canonical := h.fire (fun _ => h.ceInt) eq
theorem execCeMul (h : s.Canonical) {s1 : State} (eq : Machine.execCeMul s = .next s1) : s1.Canonical := h.fire (fun _ => h.ceInt) eq
theorem execCeMulh (h : s.Canonical) {s1 : State} (eq : Machine.execCeMulh s = .next s1) : s1.Canonical := h.fire (fun _ => h.ceMap) eq
theorem execCeMin (h : s.Canonical) {s1 : State} (eq : Machine.execCeMin s = .next s1) : s1.Canonical := h.fire (fun _ => h.ceInt) eq
theorem execCeMax (h : s.Canonical) {s1 : State} (eq : Machine.execCeMax s = .next s1) : s1.Canonical := h.fire (fun _ => h.ceInt) eq
theorem execCeAbs (h : s.Canonical) {s1 : State} (eq : Machine.execCeAbs s = .next s1) : s1.Canonical := h.fire (fun _ => h.ceInt) eq
theorem execCeNeg (h : s.Canonical) {s1 : State} (eq : Machine.execCeNeg s = .next s1) : s1.Canonical := h.fire (fun _ => h.ceInt) eq
theorem execCeMad (h : s.Canonical) {s1 : State} (eq : Machine.execCeMad s = .next s1) : s1.Canonical := h.fire (fun _ => h.ceInt) eq
theorem execCeAvg (h : s.Canonical) {s1 : State} (eq : Machine.execCeAvg s = .next s1) : s1.Canonical := h.fire (fun _ => h.ceInt) eq

theorem ceBits {g : Nat → Nat → Nat → Nat} {f : Firing} (h : s.Canonical) : Res.Keeps (Machine.ceBits g s f) := by
  unfold Machine.ceBits
  grind [ceMap]

theorem execCeAnd (h : s.Canonical) {s1 : State} (eq : Machine.execCeAnd s = .next s1) : s1.Canonical := h.fire (fun _ => h.ceBits) eq
theorem execCeOr (h : s.Canonical) {s1 : State} (eq : Machine.execCeOr s = .next s1) : s1.Canonical := h.fire (fun _ => h.ceBits) eq
theorem execCeXor (h : s.Canonical) {s1 : State} (eq : Machine.execCeXor s = .next s1) : s1.Canonical := h.fire (fun _ => h.ceBits) eq
theorem execCeAndn (h : s.Canonical) {s1 : State} (eq : Machine.execCeAndn s = .next s1) : s1.Canonical := h.fire (fun _ => h.ceBits) eq
theorem execCeNot (h : s.Canonical) {s1 : State} (eq : Machine.execCeNot s = .next s1) : s1.Canonical := h.fire (fun _ => h.ceBits) eq
theorem execCeShl (h : s.Canonical) {s1 : State} (eq : Machine.execCeShl s = .next s1) : s1.Canonical := h.fire (fun _ => h.ceBits) eq
theorem execCeShr (h : s.Canonical) {s1 : State} (eq : Machine.execCeShr s = .next s1) : s1.Canonical := h.fire (fun _ => h.ceBits) eq
theorem execCeSra (h : s.Canonical) {s1 : State} (eq : Machine.execCeSra s = .next s1) : s1.Canonical := h.fire (fun _ => h.ceBits) eq
theorem execCeRol (h : s.Canonical) {s1 : State} (eq : Machine.execCeRol s = .next s1) : s1.Canonical := h.fire (fun _ => h.ceBits) eq
theorem execCePopc (h : s.Canonical) {s1 : State} (eq : Machine.execCePopc s = .next s1) : s1.Canonical := h.fire (fun _ => h.ceBits) eq
theorem execCeClz (h : s.Canonical) {s1 : State} (eq : Machine.execCeClz s = .next s1) : s1.Canonical := h.fire (fun _ => h.ceBits) eq

theorem ceFlt {g : RMode → Val → Val → Val → Val} {f : Firing} (h : s.Canonical) : Res.Keeps (Machine.ceFlt g s f) := by
  unfold Machine.ceFlt
  grind [ceMap]

theorem execCeFloatAdd (h : s.Canonical) {s1 : State} (eq : Machine.execCeFloatAdd s = .next s1) : s1.Canonical := h.fire (fun _ => h.ceFlt) eq
theorem execCeFloatSub (h : s.Canonical) {s1 : State} (eq : Machine.execCeFloatSub s = .next s1) : s1.Canonical := h.fire (fun _ => h.ceFlt) eq
theorem execCeFloatMul (h : s.Canonical) {s1 : State} (eq : Machine.execCeFloatMul s = .next s1) : s1.Canonical := h.fire (fun _ => h.ceFlt) eq
theorem execCeFma (h : s.Canonical) {s1 : State} (eq : Machine.execCeFma s = .next s1) : s1.Canonical := h.fire (fun _ => h.ceFlt) eq
theorem execCeFms (h : s.Canonical) {s1 : State} (eq : Machine.execCeFms s = .next s1) : s1.Canonical := h.fire (fun _ => h.ceFlt) eq
theorem execCeFloatMin (h : s.Canonical) {s1 : State} (eq : Machine.execCeFloatMin s = .next s1) : s1.Canonical := h.fire (fun _ => h.ceFlt) eq
theorem execCeFloatMax (h : s.Canonical) {s1 : State} (eq : Machine.execCeFloatMax s = .next s1) : s1.Canonical := h.fire (fun _ => h.ceFlt) eq

theorem ceSign {bits : Nat → Nat → Nat} {val : Val → Val} {f : Firing} (h : s.Canonical) : Res.Keeps (Machine.ceSign bits val s f) := by
  unfold Machine.ceSign
  grind [ceMap]

theorem execCeFloatAbs (h : s.Canonical) {s1 : State} (eq : Machine.execCeFloatAbs s = .next s1) : s1.Canonical := h.fire (fun _ => h.ceSign) eq
theorem execCeFloatNeg (h : s.Canonical) {s1 : State} (eq : Machine.execCeFloatNeg s = .next s1) : s1.Canonical := h.fire (fun _ => h.ceSign) eq

theorem ceSpecial {fn : Nat} {f : Firing} (h : s.Canonical) : Res.Keeps (Machine.ceSpecial fn s f) := by
  unfold Machine.ceSpecial
  grind [ceMap]

theorem execCeRcp (h : s.Canonical) {s1 : State} (eq : Machine.execCeRcp s = .next s1) : s1.Canonical := h.fire (fun _ => h.ceSpecial) eq
theorem execCeRsq (h : s.Canonical) {s1 : State} (eq : Machine.execCeRsq s = .next s1) : s1.Canonical := h.fire (fun _ => h.ceSpecial) eq
theorem execCeSqrt (h : s.Canonical) {s1 : State} (eq : Machine.execCeSqrt s = .next s1) : s1.Canonical := h.fire (fun _ => h.ceSpecial) eq
theorem execCeExp2 (h : s.Canonical) {s1 : State} (eq : Machine.execCeExp2 s = .next s1) : s1.Canonical := h.fire (fun _ => h.ceSpecial) eq
theorem execCeLog2 (h : s.Canonical) {s1 : State} (eq : Machine.execCeLog2 s = .next s1) : s1.Canonical := h.fire (fun _ => h.ceSpecial) eq
theorem execCeTanh (h : s.Canonical) {s1 : State} (eq : Machine.execCeTanh s = .next s1) : s1.Canonical := h.fire (fun _ => h.ceSpecial) eq
theorem execCeSigm (h : s.Canonical) {s1 : State} (eq : Machine.execCeSigm s = .next s1) : s1.Canonical := h.fire (fun _ => h.ceSpecial) eq
theorem execCeSin (h : s.Canonical) {s1 : State} (eq : Machine.execCeSin s = .next s1) : s1.Canonical := h.fire (fun _ => h.ceSpecial) eq
theorem execCeCos (h : s.Canonical) {s1 : State} (eq : Machine.execCeCos s = .next s1) : s1.Canonical := h.fire (fun _ => h.ceSpecial) eq
theorem execCeErf (h : s.Canonical) {s1 : State} (eq : Machine.execCeErf s = .next s1) : s1.Canonical := h.fire (fun _ => h.ceSpecial) eq

theorem ceCompare {f : Firing} (h : s.Canonical) : Res.Keeps (Machine.ceCompare s f) := by
  unfold Machine.ceCompare
  grind [ceMap]

theorem execCeCmp (h : s.Canonical) {s1 : State} (eq : Machine.execCeCmp s = .next s1) : s1.Canonical := h.fire (fun _ => h.ceCompare) eq
theorem execCeSel (h : s.Canonical) {s1 : State} (eq : Machine.execCeSel s = .next s1) : s1.Canonical := h.fire (fun _ => h.ceMap) eq

theorem ceConvert {from_ : Nat} {decode : Elem → CeEnv → Token → Nat → Val} {conv : CeEnv → Nat → Val → Nat} {f : Firing} (h : s.Canonical) : Res.Keeps (Machine.ceConvert from_ decode conv s f) := by
  unfold Machine.ceConvert
  grind [recoloured, Res.Keeps]

theorem ceCvt {f : Firing} (h : s.Canonical) : Res.Keeps (Machine.ceCvt s f) := by
  unfold Machine.ceCvt
  grind [ceConvert, Res.Keeps]

theorem execCvt (h : s.Canonical) {s1 : State} (eq : Machine.execCvt s = .next s1) : s1.Canonical := h.fire (fun _ => h.ceCvt) eq
theorem execQnt (h : s.Canonical) {s1 : State} (eq : Machine.execQnt s = .next s1) : s1.Canonical := h.fire (fun _ => h.ceConvert) eq

theorem ceQntb {f : Firing} (h : s.Canonical) : Res.Keeps (Machine.ceQntb s f) := by
  unfold Machine.ceQntb
  grind [recoloured, Res.Keeps]

theorem execQntb (h : s.Canonical) {s1 : State} (eq : Machine.execQntb s = .next s1) : s1.Canonical := h.fire (fun _ => h.ceQntb) eq

theorem execDeq (h : s.Canonical) {s1 : State} (eq : Machine.execDeq s = .next s1) : s1.Canonical := by
  unfold Machine.execDeq at eq
  grind [fire, ceConvert]

theorem ceLanes {g : Elem → CeW → Token → Option Token → Nat → Word} {f : Firing} (h : s.Canonical) : Res.Keeps (Machine.ceLanes g s f) := by
  unfold Machine.ceLanes
  grind [Res.Keeps]

theorem execMov (h : s.Canonical) {s1 : State} (eq : Machine.execMov s = .next s1) : s1.Canonical := h.fire (fun _ => h.ceLanes) eq
theorem execMovk (h : s.Canonical) {s1 : State} (eq : Machine.execMovk s = .next s1) : s1.Canonical := h.fire (fun _ => h.ceLanes) eq
theorem execBcast (h : s.Canonical) {s1 : State} (eq : Machine.execBcast s = .next s1) : s1.Canonical := h.fire (fun _ => h.ceLanes) eq
theorem execLshift (h : s.Canonical) {s1 : State} (eq : Machine.execLshift s = .next s1) : s1.Canonical := h.fire (fun _ => h.ceLanes) eq
theorem execLrev (h : s.Canonical) {s1 : State} (eq : Machine.execLrev s = .next s1) : s1.Canonical := h.fire (fun _ => h.ceLanes) eq
theorem execLsel (h : s.Canonical) {s1 : State} (eq : Machine.execLsel s = .next s1) : s1.Canonical := h.fire (fun _ => h.ceLanes) eq

theorem one {f : Firing} {t : Token} (h : s.Canonical) : Res.Keeps (Machine.one s f t) := by
  unfold Machine.one
  grind [Res.Keeps]

-- SKIP withA : Res
-- SKIP withAB : Res
theorem putSlot {f : Firing} {x : SlotSt} (h : s.Canonical) : (s.putSlot f x).Canonical := by
  unfold State.putSlot
  grind [setSlot]

theorem steer {a : Token} {test : Bool} (h : s.Canonical) : Res.Keeps (Machine.steer s a test) := by
  unfold Machine.steer
  grind [Res.Keeps]

theorem execSteerBit (h : s.Canonical) {s1 : State} (eq : Machine.execSteerBit s = .next s1) : s1.Canonical := by
  unfold Machine.execSteerBit at eq
  grind [fire, withA, steer, Res.Keeps]

theorem execSteerPar (h : s.Canonical) {s1 : State} (eq : Machine.execSteerPar s = .next s1) : s1.Canonical := by
  unfold Machine.execSteerPar at eq
  grind [fire, withA, steer, Res.Keeps]

theorem mergeOut {f : Firing} (h : s.Canonical) : Res.Keeps (Machine.mergeOut s f) := by
  unfold Machine.mergeOut
  grind [one, Res.Keeps]

theorem execMergeAny (h : s.Canonical) {s1 : State} (eq : Machine.execMergeAny s = .next s1) : s1.Canonical := h.fire (fun _ => h.mergeOut) eq
theorem execMergeTag (h : s.Canonical) {s1 : State} (eq : Machine.execMergeTag s = .next s1) : s1.Canonical := h.fire (fun _ => h.mergeOut) eq

theorem execCopy (h : s.Canonical) {s1 : State} (eq : Machine.execCopy s = .next s1) : s1.Canonical := by
  unfold Machine.execCopy at eq
  grind [fire, withA, Res.Keeps]

theorem execGate (h : s.Canonical) {s1 : State} (eq : Machine.execGate s = .next s1) : s1.Canonical := by
  unfold Machine.execGate at eq
  grind [fire, one, withA, Res.Keeps]

theorem execDrop (h : s.Canonical) {s1 : State} (eq : Machine.execDrop s = .next s1) : s1.Canonical := by
  unfold Machine.execDrop at eq
  grind [fire, withA, Res.Keeps]

theorem execSink (h : s.Canonical) {s1 : State} (eq : Machine.execSink s = .next s1) : s1.Canonical := by
  unfold Machine.execSink at eq
  grind [fire, withA, putSlot, Res.Keeps]

theorem retag {f : Firing} {a : Token} {off : Nat} (h : s.Canonical) : Res.Keeps (Machine.retag s f a off) := by
  unfold Machine.retag
  grind [one]

theorem execTagInc (h : s.Canonical) {s1 : State} (eq : Machine.execTagInc s = .next s1) : s1.Canonical := by
  unfold Machine.execTagInc at eq
  grind [fire, withA, retag, Res.Keeps]

theorem execTagSet (h : s.Canonical) {s1 : State} (eq : Machine.execTagSet s = .next s1) : s1.Canonical := by
  unfold Machine.execTagSet at eq
  grind [fire, withA, retag, Res.Keeps]

theorem execTagGet (h : s.Canonical) {s1 : State} (eq : Machine.execTagGet s = .next s1) : s1.Canonical := by
  unfold Machine.execTagGet at eq
  grind [fire, recoloured, withA, Res.Keeps]

theorem execTagBase (h : s.Canonical) {s1 : State} (eq : Machine.execTagBase s = .next s1) : s1.Canonical := by
  unfold Machine.execTagBase at eq
  grind [fire, recoloured, withA, Res.Keeps]

theorem grantColour {c k : Nat} {x : Ctx} {col : Nat} {al : ColourAlloc} (h : s.Canonical) : (s.grantColour c k x col al).Canonical := by
  unfold State.grantColour
  grind [modCtx, modElem, foldl]

theorem execAlcAlloc (h : s.Canonical) {s1 : State} (eq : Machine.execAlcAlloc s = .next s1) : s1.Canonical := by
  refine fire h (fun f => ?_) eq
  unfold withA
  dsimp only
  repeat' split
  all_goals grind [one, grantColour, Res.Keeps]

theorem freeColour {c k col : Nat} (h : s.Canonical) : (s.freeColour c k col).Canonical := by
  unfold State.freeColour
  grind [modRegion, modCtx, foldl]

theorem execAlcFree (h : s.Canonical) {s1 : State} (eq : Machine.execAlcFree s = .next s1) : s1.Canonical := by
  unfold Machine.execAlcFree at eq
  grind [fire, withA, freeColour, Res.Keeps]

theorem execPack (h : s.Canonical) {s1 : State} (eq : Machine.execPack s = .next s1) : s1.Canonical := by
  unfold Machine.execPack at eq
  grind [fire, one, withA, putSlot, Res.Keeps]

theorem execUnpack (h : s.Canonical) {s1 : State} (eq : Machine.execUnpack s = .next s1) : s1.Canonical := by
  unfold Machine.execUnpack at eq
  grind [fire, withA, Res.Keeps]

theorem ceRed {fn : Nat} {f : Firing} (h : s.Canonical) : Res.Keeps (Machine.ceRed fn s f) := by
  unfold Machine.ceRed
  grind [one, withA, putSlot, Res.Keeps]

theorem execRedSum (h : s.Canonical) {s1 : State} (eq : Machine.execRedSum s = .next s1) : s1.Canonical := h.fire (fun _ => h.ceRed) eq
theorem execRedMin (h : s.Canonical) {s1 : State} (eq : Machine.execRedMin s = .next s1) : s1.Canonical := h.fire (fun _ => h.ceRed) eq
theorem execRedMax (h : s.Canonical) {s1 : State} (eq : Machine.execRedMax s = .next s1) : s1.Canonical := h.fire (fun _ => h.ceRed) eq
theorem execRedAnd (h : s.Canonical) {s1 : State} (eq : Machine.execRedAnd s = .next s1) : s1.Canonical := h.fire (fun _ => h.ceRed) eq
theorem execRedOr (h : s.Canonical) {s1 : State} (eq : Machine.execRedOr s = .next s1) : s1.Canonical := h.fire (fun _ => h.ceRed) eq
theorem execRedCnt (h : s.Canonical) {s1 : State} (eq : Machine.execRedCnt s = .next s1) : s1.Canonical := h.fire (fun _ => h.ceRed) eq

theorem ceScan {fn : Nat} {f : Firing} (h : s.Canonical) : Res.Keeps (Machine.ceScan fn s f) := by
  unfold Machine.ceScan
  grind [one, withA, putSlot, Res.Keeps]

theorem execScanSum (h : s.Canonical) {s1 : State} (eq : Machine.execScanSum s = .next s1) : s1.Canonical := h.fire (fun _ => h.ceScan) eq
theorem execScanMax (h : s.Canonical) {s1 : State} (eq : Machine.execScanMax s = .next s1) : s1.Canonical := h.fire (fun _ => h.ceScan) eq

theorem execLrs (h : s.Canonical) {s1 : State} (eq : Machine.execLrs s = .next s1) : s1.Canonical := by
  unfold Machine.execLrs at eq
  grind [fire, one, withAB, putSlot, Res.Keeps]

theorem ceAcc {max : Bool} {f : Firing} (h : s.Canonical) : Res.Keeps (Machine.ceAcc max s f) := by
  unfold Machine.ceAcc
  grind [modElem, withA, Res.Keeps]

theorem execAccAdd (h : s.Canonical) {s1 : State} (eq : Machine.execAccAdd s = .next s1) : s1.Canonical := h.fire (fun _ => h.ceAcc) eq
theorem execAccMax (h : s.Canonical) {s1 : State} (eq : Machine.execAccMax s = .next s1) : s1.Canonical := h.fire (fun _ => h.ceAcc) eq

theorem execAccReset (h : s.Canonical) {s1 : State} (eq : Machine.execAccReset s = .next s1) : s1.Canonical := by
  unfold Machine.execAccReset at eq
  grind [modElem, fire, one, withA, Res.Keeps]

theorem execCntr (h : s.Canonical) {s1 : State} (eq : Machine.execCntr s = .next s1) : s1.Canonical := by
  unfold Machine.execCntr at eq
  grind [fire, withA, Res.Keeps]

theorem execMxc (h : s.Canonical) {s1 : State} (eq : Machine.execMxc s = .next s1) : s1.Canonical := by
  unfold Machine.execMxc at eq
  grind [fire, one, withA, Res.Keeps]

theorem execCtlSig (h : s.Canonical) {s1 : State} (eq : Machine.execCtlSig s = .next s1) : s1.Canonical := by
  unfold Machine.execCtlSig at eq
  grind [fire, one, withA, Res.Keeps]

theorem execCtlWait (h : s.Canonical) {s1 : State} (eq : Machine.execCtlWait s = .next s1) : s1.Canonical := by
  unfold Machine.execCtlWait at eq
  grind [fire, withAB, steer, Res.Keeps]

theorem execCtlAnd2 (h : s.Canonical) {s1 : State} (eq : Machine.execCtlAnd2 s = .next s1) : s1.Canonical := by
  unfold Machine.execCtlAnd2 at eq
  grind [fire, one, withAB, Res.Keeps]

theorem execCeNop (h : s.Canonical) {s1 : State} (eq : Machine.execCeNop s = .next s1) : s1.Canonical := by
  unfold Machine.execCeNop at eq
  grind

theorem many {f : Firing} {ts : List Token} (h : s.Canonical) : Res.Keeps (Machine.many s f ts) := by
  unfold Machine.many
  grind [Res.Keeps]

theorem execCneg (h : s.Canonical) {s1 : State} (eq : Machine.execCneg s = .next s1) : s1.Canonical := by
  unfold Machine.execCneg at eq
  grind [fire, withA, many, Res.Keeps]

theorem execCscale (h : s.Canonical) {s1 : State} (eq : Machine.execCscale s = .next s1) : s1.Canonical := by
  unfold Machine.execCscale at eq
  grind [fire, one, withA, Res.Keeps]

theorem execMkchg (h : s.Canonical) {s1 : State} (eq : Machine.execMkchg s = .next s1) : s1.Canonical := by
  unfold Machine.execMkchg at eq
  grind [fire, recoloured, withAB, Res.Keeps]

theorem execDense (h : s.Canonical) {s1 : State} (eq : Machine.execDense s = .next s1) : s1.Canonical := by
  unfold Machine.execDense at eq
  grind [fire, recoloured, withA, Res.Keeps]

theorem execDadd (h : s.Canonical) {s1 : State} (eq : Machine.execDadd s = .next s1) : s1.Canonical := by
  unfold Machine.execDadd at eq
  grind [fire, one, withA, Res.Keeps]

theorem execCtEnter (h : s.Canonical) {s1 : State} (eq : Machine.execCtEnter s = .next s1) : s1.Canonical := by
  unfold Machine.execCtEnter at eq
  grind [fire, recoloured, withA, Res.Keeps]

theorem execCtLeave (h : s.Canonical) {s1 : State} (eq : Machine.execCtLeave s = .next s1) : s1.Canonical := by
  unfold Machine.execCtLeave at eq
  grind [fire, recoloured, withA, Res.Keeps]

theorem execCtStep (h : s.Canonical) {s1 : State} (eq : Machine.execCtStep s = .next s1) : s1.Canonical := by
  unfold Machine.execCtStep at eq
  grind [fire, one, withA, Res.Keeps]

theorem execCtSet (h : s.Canonical) {s1 : State} (eq : Machine.execCtSet s = .next s1) : s1.Canonical := by
  unfold Machine.execCtSet at eq
  grind [fire, one, withAB, Res.Keeps]

theorem execCtAdv (h : s.Canonical) {s1 : State} (eq : Machine.execCtAdv s = .next s1) : s1.Canonical := by
  unfold Machine.execCtAdv at eq
  grind [fire, one, withAB, Res.Keeps]

theorem ctTest {g : Time → Time → Bool} {f : Firing} (h : s.Canonical) : Res.Keeps (Machine.ctTest g s f) := by
  unfold Machine.ctTest
  grind [withAB, steer, Res.Keeps]

theorem execCtLe (h : s.Canonical) {s1 : State} (eq : Machine.execCtLe s = .next s1) : s1.Canonical := h.fire (fun _ => h.ctTest) eq
theorem execCtLt (h : s.Canonical) {s1 : State} (eq : Machine.execCtLt s = .next s1) : s1.Canonical := h.fire (fun _ => h.ctTest) eq
theorem execCtEq (h : s.Canonical) {s1 : State} (eq : Machine.execCtEq s = .next s1) : s1.Canonical := h.fire (fun _ => h.ctTest) eq
theorem execCtPar (h : s.Canonical) {s1 : State} (eq : Machine.execCtPar s = .next s1) : s1.Canonical := h.fire (fun _ => h.ctTest) eq

theorem execKhash (h : s.Canonical) {s1 : State} (eq : Machine.execKhash s = .next s1) : s1.Canonical := by
  unfold Machine.execKhash at eq
  grind [fire, recoloured, withA, Res.Keeps]

theorem execKexch (h : s.Canonical) {s1 : State} (eq : Machine.execKexch s = .next s1) : s1.Canonical := by
  unfold Machine.execKexch at eq
  grind [fire, withA, steer, Res.Keeps]

theorem execCjoin (h : s.Canonical) {s1 : State} (eq : Machine.execCjoin s = .next s1) : s1.Canonical := by
  unfold Machine.execCjoin at eq
  grind [fire, withAB, Res.Keeps]

theorem ceCred {f : Firing} (h : s.Canonical) : Res.Keeps (Machine.ceCred s f) := by
  unfold Machine.ceCred
  grind [withAB, putSlot, Res.Keeps]

theorem execCredCount (h : s.Canonical) {s1 : State} (eq : Machine.execCredCount s = .next s1) : s1.Canonical := h.fire (fun _ => h.ceCred) eq
theorem execCredSum (h : s.Canonical) {s1 : State} (eq : Machine.execCredSum s = .next s1) : s1.Canonical := h.fire (fun _ => h.ceCred) eq
theorem execCredMin (h : s.Canonical) {s1 : State} (eq : Machine.execCredMin s = .next s1) : s1.Canonical := h.fire (fun _ => h.ceCred) eq
theorem execCredMax (h : s.Canonical) {s1 : State} (eq : Machine.execCredMax s = .next s1) : s1.Canonical := h.fire (fun _ => h.ceCred) eq

theorem execCdist (h : s.Canonical) {s1 : State} (eq : Machine.execCdist s = .next s1) : s1.Canonical := by
  unfold Machine.execCdist at eq
  grind [fire, withAB, many, Res.Keeps]

theorem execCcons (h : s.Canonical) {s1 : State} (eq : Machine.execCcons s = .next s1) : s1.Canonical := by
  unfold Machine.execCcons at eq
  grind [fire, withA, putSlot, many, Res.Keeps]

theorem hold {cid loc : Nat} {t : Time} {n : Int} (h : s.Canonical) : (s.hold cid loc t n).Canonical := by
  unfold State.hold
  grind [modCtx]

theorem execCnote (h : s.Canonical) {s1 : State} (eq : Machine.execCnote s = .next s1) : s1.Canonical := by
  unfold Machine.execCnote at eq
  grind [fire, withA, hold, Res.Keeps]

theorem execCrel (h : s.Canonical) {s1 : State} (eq : Machine.execCrel s = .next s1) : s1.Canonical := by
  unfold Machine.execCrel at eq
  grind [fire, withA, hold, Res.Keeps]

theorem vwr {c k : Nat} {va : DWord} {v : DWord} (h : s.Canonical) : (s.vwr c k va v).Canonical := by
  unfold State.vwr
  grind [wr64, countHbm, translate, farTransfer, wrAt]

theorem setBusy {c k i : Nat} {b : Bool} (h : s.Canonical) : (s.setBusy c k i b).Canonical := by
  unfold State.setBusy
  grind [vwr]

theorem enterConv {cid : Nat} {op : CollOp} {d : Dtd} {m : Nat} {p : Nat × Nat} (h : s.Canonical) {s1 : State} (eq : s.enterConv cid op d m p = some s1) : s1.Canonical := by
  unfold State.enterConv at eq
  grind [modCtx]

theorem forkConv {c k i st : Nat} (h : s.Canonical) : (s.forkConv c k i st).Canonical := by
  unfold State.forkConv
  grind [modCtx, setBusy, enterConv]

theorem nodeWrite {node addr n v : Nat} (h : s.Canonical) : (s.nodeWrite node addr n v).Canonical := by
  unfold State.nodeWrite
  grind [wr, farTransfer]

theorem wrWords {key : Nat} {ws : List DWord} (h : s.Canonical) : (s.wrWords key ws).Canonical := by
  unfold State.wrWords
  grind [wr64, foldl_fst]

theorem postFault {d : Nat} {i : FaultInfo} {l : Locus} (h : s.Canonical) : (s.postFault d i l).1.Canonical := by
  unfold State.postFault
  grind [modDie, nodeWrite, wrWords]

theorem modIssued {c k id : Nat} {f : Cmd → Cmd} (h : s.Canonical) : (s.modIssued c k id f).Canonical := by
  unfold State.modIssued
  grind [modStream]

theorem cmdDone {c k id inc status : Nat} (h : s.Canonical) : (s.cmdDone c k id inc status).Canonical := by
  unfold State.cmdDone
  grind [modIssued]

theorem refuse {c k : Nat} {cmd : Cmd} {reason : Nat} (h : s.Canonical) : (s.refuse c k cmd reason).Canonical := by
  unfold State.refuse
  grind [modStream, signalCmd, faultEnd]

theorem setRun {c site k : Nat} {r : Run} (h : s.Canonical) : (s.setRun c site k r).Canonical := by
  unfold State.setRun
  grind [modElem]

theorem replyOut {f : Firing} {t0 : Option Token} {ts : List (Nat × Token)} (h : s.Canonical) : (s.replyOut f t0 ts).1.Canonical := by
  unfold State.replyOut
  grind [muApply, muWait, muGo, modElem, enterEdge, settle]

theorem scrubLine {key : Nat} (h : s.Canonical) : (s.scrubLine key).1.Canonical := by
  unfold State.scrubLine
  grind [countDie, setMark]

end State.Canonical
end Sys2Proof.Machine
end

section
/-! O5: the runs of MEs: affine, chasing and gathering runs, and waves. -/
namespace Sys2Proof.Machine
open Sys2Proof
namespace State.Canonical
variable {s : State}

theorem farAct {who key n : Nat} {act : AgAct} (h : s.Canonical) : (s.farAct who key n act).1.Canonical := by
  unfold State.farAct
  grind [farAsk, farTake]

theorem agHome {c k : Nat} {va : DWord} {n : Nat} {acc : Access} (h : s.Canonical) : (s.agHome c k va n acc).1.Canonical := by
  unfold State.agHome
  grind [translate]

theorem poisonLine {k : Nat} (h : s.Canonical) : (s.poisonLine k).Canonical :=
  h.mapClusters (f := fun e => { e.2 with sites := _ }) rfl rfl rfl fun _ => rfl

theorem atHome {key n cov : Nat} {act : AgAct} (h : s.Canonical) : (s.atHome key n cov act).1.Canonical := by
  unfold State.atHome
  grind [wrKeep, setMark, touch, countHbm, scrubLine, poisonLine, foldl]

theorem agStall {c k site desc sel : Nat} {code detail : Nat} {va : DWord} {acc : Access} {pos : Nat} (h : s.Canonical) : (s.agStall c k site desc sel code detail va acc pos).1.Canonical := by
  unfold State.agStall
  grind [postFault]

theorem runStall {x : RunAt} {r : Run} {exempt : Bool} {code d : Nat} {va : DWord} {act : AgAct} {pos : Nat} (h : s.Canonical) : (s.runStall x r exempt code d va act pos).1.Canonical := by
  unfold State.runStall
  grind [agStall]

theorem runMem {x : RunAt} {r : Run} {exempt : Bool} {va : DWord} {n : Nat} {act : AgAct} {pos : Nat} (h : s.Canonical) : (s.runMem x r exempt va n act pos).1.Canonical := by
  unfold State.runMem
  grind [setProt, farAct, agHome, atHome, runStall]

theorem endElems {x : RunAt} {r : Run} {toTile : Bool} (h : s.Canonical) : (s.endElems x r toTile).1.Canonical := by
  unfold State.endElems
  grind [modCluster, Cluster.tileTo_stamps, Cluster.unuseTile_stamps]

theorem spPut {c : Nat} {addr : Option Nat} {n v : Nat} {poison : Bool} (h : s.Canonical) : (s.spPut c addr n v poison).1.Canonical := by
  unfold State.spPut
  grind [setCluster, Cluster.spWrite_stamps]

theorem readElem {x : RunAt} {r : Run} (h : s.Canonical) : (s.readElem x r).1.Canonical := by
  unfold State.readElem
  extract_lets total z i fill toTile t got s1 r2
  have hgot : got.1.Canonical := by grind [runMem]
  split
  · exact h
  · split
    · exact h.endElems
    · grind [modCluster, endElems, spPut, Cluster.tileTo_stamps, Cluster.useTile_stamps]

theorem tileElem {x : RunAt} {r : Run} (h : s.Canonical) : (s.tileElem x r).1.Canonical := by
  unfold State.tileElem
  grind [runMem, setCluster, Cluster.spRead_stamps]

theorem feedDeep {f : Firing} {a : Token} (h : s.Canonical) {s1 : State} (eq : s.feedDeep f a = some s1) : s1.Canonical := by
  unfold State.feedDeep at eq
  grind [replyOut]

theorem feedElem {x : RunAt} {r : Run} (h : s.Canonical) : (s.feedElem x r).1.Canonical := by
  unfold State.feedElem
  repeat' split
  all_goals grind [modElem, replyOut, runMem, feedDeep]

theorem engHome {c k owner : Nat} {va : DWord} {n : Nat} {acc : Access} (h : s.Canonical) : (s.engHome c k owner va n acc).1.Canonical := by
  unfold State.engHome
  grind [translate]

theorem engDone {c k owner : Nat} (h : s.Canonical) : (s.engDone c k owner).Canonical := by
  unfold State.engDone
  grind [farDone]

theorem engBytes {c k owner : Nat} {va : DWord} {n : Nat} (h : s.Canonical) : (s.engBytes c k owner va n).1.Canonical := by
  unfold State.engBytes
  grind [farAct, atHome, engHome, foldl_fst]

theorem engCheck {c k owner : Nat} {va : DWord} {n : Nat} (h : s.Canonical) : (s.engCheck c k owner va n).1.Canonical := by
  unfold State.engCheck
  grind [engHome, foldl_fst]

theorem engAsk {c k owner : Nat} {va : DWord} {l : List PByte} (h : s.Canonical) : (s.engAsk c k owner va l).1.Canonical := by
  unfold State.engAsk
  grind [farAct, engHome, foldl_fst]

theorem engReady {c k owner : Nat} {va : DWord} {l : List PByte} (h : s.Canonical) : (s.engReady c k owner va l).1.Canonical := by
  unfold State.engReady
  grind [engCheck, engAsk]

theorem engPut {c k owner : Nat} {va : DWord} {l : List PByte} (h : s.Canonical) : (s.engPut c k owner va l).Canonical := by
  unfold State.engPut
  grind [setProt, atHome, engHome, foldl]

theorem areasFail {c k owner : Nat} {l : List (DWord × Nat)} (h : s.Canonical) : (s.areasFail c k owner l).1.Canonical := by
  unfold State.areasFail
  grind [engBytes, foldl_fst]

theorem mapFail {c k owner : Nat} {l : List (DWord × Nat)} (h : s.Canonical) : (s.mapFail c k owner l).1.Canonical := by
  unfold State.mapFail
  grind [areasFail]

theorem tablesFail {c k owner i : Nat} (h : s.Canonical) : (s.tablesFail c k owner i).1.Canonical := by
  unfold State.tablesFail
  grind [mapFail]

theorem engStall {c k sel : Nat} {cmd : DWord} {f : EngFail} (h : s.Canonical) : (s.engStall c k sel cmd f).1.Canonical := by
  unfold State.engStall
  grind [postFault]

theorem cmdStall {c k : Nat} {cmd : Cmd} {f : EngFail} (h : s.Canonical) : (s.cmdStall c k cmd f).Canonical := by
  unfold State.cmdStall
  grind [modIssued, engStall]

theorem noteToken {f : Firing} {desc : Nat} (h : s.Canonical) : (s.noteToken f desc).Canonical := by
  unfold State.noteToken
  grind [modElem]

theorem noteIssue {f : Firing} {desc : Nat} (h : s.Canonical) : (s.noteIssue f desc).Canonical := by
  unfold State.noteIssue
  grind [countMe, noteToken]

theorem addRun {f : Firing} {r : Run} (h : s.Canonical) : (s.addRun f r).Canonical := by
  unfold State.addRun
  grind [modElem]

theorem meStart {f : Firing} {mk : Elem → DescW → Run → Run} (h : s.Canonical) : Res.Keeps (Machine.meStart s f mk) := by
  unfold Machine.meStart
  grind [noteIssue, addRun, Res.Keeps]

theorem meTrigger {f : Firing} {mk : Elem → DescW → Run → Run} (h : s.Canonical) : Res.Keeps (Machine.meTrigger s f mk) := by
  unfold Machine.meTrigger
  grind [withA, noteToken, addRun, meStart, Res.Keeps]

theorem meFeed {f : Firing} {mk : Elem → DescW → Run → Run} (h : s.Canonical) : Res.Keeps (Machine.meFeed s f mk) := by
  unfold Machine.meFeed
  grind [noteIssue, addRun, Res.Keeps]

theorem execAgsRd {w : MeW} (h : s.Canonical) {s1 : State} (eq : Machine.execAgsRd w s = .next s1) : s1.Canonical := h.fire (fun _ => h.meTrigger) eq

theorem execAgsWr {w : MeW} (h : s.Canonical) {s1 : State} (eq : Machine.execAgsWr w s = .next s1) : s1.Canonical := by
  unfold Machine.execAgsWr at eq
  grind [fire, meTrigger, meFeed]

theorem execAgsRdcf {_w : MeW} (h : s.Canonical) {s1 : State} (eq : Machine.execAgsRdcf _w s = .next s1) : s1.Canonical := h.fire (fun _ => h.meTrigger) eq
theorem execAgsWrcf {_w : MeW} (h : s.Canonical) {s1 : State} (eq : Machine.execAgsWrcf _w s = .next s1) : s1.Canonical := h.fire (fun _ => h.meFeed) eq
theorem execAgsFill {_w : MeW} (h : s.Canonical) {s1 : State} (eq : Machine.execAgsFill _w s = .next s1) : s1.Canonical := h.fire (fun _ => h.meTrigger) eq
theorem execAgsScrub {_w : MeW} (h : s.Canonical) {s1 : State} (eq : Machine.execAgsScrub _w s = .next s1) : s1.Canonical := h.fire (fun _ => h.meTrigger) eq

theorem execAgxGath {w : MeW} (h : s.Canonical) {s1 : State} (eq : Machine.execAgxGath w s = .next s1) : s1.Canonical := by
  unfold Machine.execAgxGath at eq
  grind [fire, withA, meStart, Res.Keeps]

theorem meIndexed {w : MeW} (h : s.Canonical) {s1 : State} (eq : Machine.meIndexed w s = .next s1) : s1.Canonical := by
  unfold Machine.meIndexed at eq
  grind [fire, withA, meStart, Res.Keeps]

theorem execAgxScat {w : MeW} (h : s.Canonical) {s1 : State} (eq : Machine.execAgxScat w s = .next s1) : s1.Canonical := h.meIndexed eq
theorem execAgxAtomAdd {w : MeW} (h : s.Canonical) {s1 : State} (eq : Machine.execAgxAtomAdd w s = .next s1) : s1.Canonical := h.meIndexed eq
theorem execAgxAtomMin {w : MeW} (h : s.Canonical) {s1 : State} (eq : Machine.execAgxAtomMin w s = .next s1) : s1.Canonical := h.meIndexed eq
theorem execAgxAtomMax {w : MeW} (h : s.Canonical) {s1 : State} (eq : Machine.execAgxAtomMax w s = .next s1) : s1.Canonical := h.meIndexed eq
theorem execAgxAtomCas {w : MeW} (h : s.Canonical) {s1 : State} (eq : Machine.execAgxAtomCas w s = .next s1) : s1.Canonical := h.meIndexed eq
theorem execAgxAtomSwp {w : MeW} (h : s.Canonical) {s1 : State} (eq : Machine.execAgxAtomSwp w s = .next s1) : s1.Canonical := h.meIndexed eq

theorem execAgxChase {_w : MeW} (h : s.Canonical) {s1 : State} (eq : Machine.execAgxChase _w s = .next s1) : s1.Canonical := by
  unfold Machine.execAgxChase at eq
  grind [fire, withA, meStart, Res.Keeps]

theorem mePlaced {f : Firing} {w : MeW} (h : s.Canonical) : Res.Keeps (Machine.mePlaced s f w) := by
  unfold Machine.mePlaced
  grind [meTrigger, Res.Keeps]

theorem execPld {w : MeW} (h : s.Canonical) {s1 : State} (eq : Machine.execPld w s = .next s1) : s1.Canonical := h.fire (fun _ => h.mePlaced) eq

theorem execPst {w : MeW} (h : s.Canonical) {s1 : State} (eq : Machine.execPst w s = .next s1) : s1.Canonical := by
  unfold Machine.execPst at eq
  grind [fire, meFeed, mePlaced]

theorem cfRead {x : RunAt} {hd : Word} {n : Nat} {r : Run} {va : DWord} {ws : List Word} {bad : Bool} (h : s.Canonical) :
    (State.cfRead x hd n s r va ws bad).1.Canonical := by
  induction n generalizing s r va ws bad with
  | zero =>
    unfold State.cfRead
    grind
  | succ n ih =>
    unfold State.cfRead
    grind [runMem]

theorem cfElem {x : RunAt} {r : Run} (h : s.Canonical) : (s.cfElem x r).1.Canonical := by
  unfold State.cfElem
  grind [runMem, cfRead]

theorem cfWrite {x : RunAt} {r : Run} {ws : List Word} {poison : Bool} (h : s.Canonical) : (s.cfWrite x r ws poison).1.Canonical := by
  unfold State.cfWrite
  grind [runMem, foldl_fst]

theorem cfFeed {x : RunAt} {r : Run} (h : s.Canonical) : (s.cfFeed x r).1.Canonical := by
  unfold State.cfFeed
  grind [replyOut, feedDeep, cfWrite]

theorem scrubElem {x : RunAt} {r : Run} (h : s.Canonical) : (s.scrubElem x r).1.Canonical := by
  unfold State.scrubElem
  grind [runMem]

theorem indexElem {x : RunAt} {r : Run} (h : s.Canonical) : (s.indexElem x r).1.Canonical := by
  unfold State.indexElem
  grind [runMem]

theorem drainLine {x : RunAt} {r : Run} (h : s.Canonical) : (s.drainLine x r).1.Canonical := by
  unfold State.drainLine
  grind [setCluster, Cluster.spRead_stamps]

theorem fillLine {x : RunAt} {r : Run} {k : BitVec 5} (h : s.Canonical) : (s.fillLine x r k).1.Canonical := by
  unfold State.fillLine
  grind [runMem, spPut, setCluster, Cluster.tagInsert_stamps]

theorem tableStall {x : RunAt} {r : Run} {f : EngFail} (h : s.Canonical) : (s.tableStall x r f).1.Canonical := by
  unfold State.tableStall
  grind [runStall]

theorem joinElem {x : RunAt} {r : Run} {idx st : Nat} (h : s.Canonical) : (s.joinElem x r idx st).1.Canonical := by
  unfold State.joinElem
  grind [farDone, forkConv, runMem, engDone, tablesFail, tableStall]

theorem agStep {c site k desc : Nat} (h : s.Canonical) : (s.agStep c site k desc).Canonical := by
  unfold State.agStep
  grind [farDone, setRun, readElem, tileElem, feedElem, cfElem, cfFeed, scrubElem, indexElem, drainLine, fillLine, joinElem]

theorem chaseElem {x : RunAt} {r : Run} {a : Token} (h : s.Canonical) : (s.chaseElem x r a).1.Canonical := by
  unfold State.chaseElem
  grind [farDone, runMem]

theorem chaseStep {c site k desc : Nat} (h : s.Canonical) : (s.chaseStep c site k desc).Canonical := by
  unfold State.chaseStep
  grind [setRun, chaseElem]

theorem replyStep {c site k desc : Nat} (h : s.Canonical) : (s.replyStep c site k desc).Canonical := by
  unfold State.replyStep
  grind [setRun, replyOut]

theorem passRuns {l : List (Rival × Nat)} {c site k desc : Nat} (h : s.Canonical) : (s.passRuns l c site k desc).Canonical := by
  unfold State.passRuns
  grind [modElem]

theorem serveRun {step : State → Nat → Nat → Nat → Nat → State} (h : s.Canonical) (hstep : ∀ t c i k n, t.Canonical → (step t c i k n).Canonical) :
    (s.serveRun step).Canonical := hstep _ _ _ _ _ h.passRuns

theorem execAgAccess (h : s.Canonical) {s1 : State} (eq : Machine.execAgAccess s = .next s1) : s1.Canonical := by
  unfold Machine.execAgAccess at eq
  grind [agStep, serveRun]

theorem execChaseStep (h : s.Canonical) {s1 : State} (eq : Machine.execChaseStep s = .next s1) : s1.Canonical := by
  unfold Machine.execChaseStep at eq
  grind [chaseStep, serveRun]

theorem execAgReply (h : s.Canonical) {s1 : State} (eq : Machine.execAgReply s = .next s1) : s1.Canonical := by
  unfold Machine.execAgReply at eq
  grind [replyStep, serveRun]

theorem execGatherEngineBatch (h : s.Canonical) {s1 : State} (eq : Machine.execGatherEngineBatch s = .next s1) : s1.Canonical := by
  unfold Machine.execGatherEngineBatch at eq
  grind [agStep, foldl]

theorem execAgRunEnd (h : s.Canonical) {s1 : State} (eq : Machine.execAgRunEnd s = .next s1) : s1.Canonical := by
  unfold Machine.execAgRunEnd at eq
  grind [modCluster, farDone, modElem, cmdDone, setRun, replyOut, runMem, Cluster.unuseTile_stamps, Cluster.emptyTile_stamps]

theorem execBar {w : MeW} (h : s.Canonical) {s1 : State} (eq : Machine.execBar w s = .next s1) : s1.Canonical := by
  refine fire h (fun f => ?_) eq
  unfold withA
  dsimp only
  repeat' split
  all_goals grind [modElem, farDone, agHome, farAct, atHome, setProt, agStall, Res.Keeps]

theorem sbrHold {c k who : Nat} {names : List (Nat × Nat)} {on : Bool} (h : s.Canonical) : (s.sbrHold c k who names on).Canonical := by
  unfold State.sbrHold
  grind [modElem, foldl]

theorem execSbr {w : MeW} (h : s.Canonical) {s1 : State} (eq : Machine.execSbr w s = .next s1) : s1.Canonical := by
  unfold Machine.execSbr at eq
  grind [countMe, modElem, fire, withA, sbrHold, Res.Keeps]

theorem execSbrRelease (h : s.Canonical) {s1 : State} (eq : Machine.execSbrRelease s = .next s1) : s1.Canonical := by
  unfold Machine.execSbrRelease at eq
  grind [modElem, replyOut, sbrHold]

theorem submitWave {f : Firing} {own pred succ : BitVec 6} {d : BitVec 3} (h : s.Canonical) : Res.Keeps (Machine.submitWave s f own pred succ d) := by
  unfold Machine.submitWave
  grind [modElem, settle, withA, noteIssue, Res.Keeps]

theorem execWavLd {o p n : BitVec 6} {_z : BitVec 2} {d : BitVec 3} (h : s.Canonical) {s1 : State} (eq : Machine.execWavLd o p n _z d s = .next s1) : s1.Canonical :=
  h.fire (fun _ => h.submitWave) eq

theorem execWavSt {o p n : BitVec 6} {_z : BitVec 2} {d : BitVec 3} (h : s.Canonical) {s1 : State} (eq : Machine.execWavSt o p n _z d s = .next s1) : s1.Canonical :=
  h.fire (fun _ => h.submitWave) eq

theorem execWavMnop {o p n : BitVec 6} {_z : BitVec 2} {d : BitVec 3} (h : s.Canonical) {s1 : State} (eq : Machine.execWavMnop o p n _z d s = .next s1) : s1.Canonical :=
  h.fire (fun _ => h.submitWave) eq

theorem waveNote {c k : Nat} {w : WaveAcc} (h : s.Canonical) : (s.waveNote c k w).Canonical := by
  unfold State.waveNote
  grind [modRegion]

theorem execWaveAccessPerform (h : s.Canonical) {s1 : State} (eq : Machine.execWaveAccessPerform s = .next s1) : s1.Canonical := by
  unfold Machine.execWaveAccessPerform at eq
  extract_lets c site k slot at eq
  split at eq
  · split at eq
    · cases eq; exact h
    · split at eq
      · next w info _ _ =>
        split at eq
        extract_lets d z a off inside va f v bp act drop set w2 err finish fail at eq
        have hdrop {t : State} (ht : t.Canonical) : (drop t).Canonical := ht.modElem.waveNote
        have hfinish {t : State} {v : Nat} {bad : Bool} (ht : t.Canonical) : (finish t v bad).Canonical := by
          simp only [finish]
          repeat' split
          all_goals grind [replyOut]
        have hfail {t : State} {code d : Nat} (ht : t.Canonical) : (fail t code d).Canonical := by
          simp only [fail]
          repeat' split
          all_goals grind [agStall, modElem]
        clear_value drop set finish fail act
        grind [agHome, farAct, farDone, atHome, setProt]
      · cases eq; exact h
  · cases eq; exact h

theorem joinAt {p : Nat × Nat} {i st n status : Nat} (h : s.Canonical) : (s.joinAt p i st n status).Canonical := by
  unfold State.joinAt
  grind [modStream, modElem, foldl]

theorem modConv {cid i : Nat} {f : CollOp → CollOp} (h : s.Canonical) : (s.modConv cid i f).Canonical := by
  unfold State.modConv
  grind [modCtx]

theorem readParts {op : CollOp} {d : Dtd} {ns : List Nat} (h : s.Canonical) : (s.readParts op d ns).1.Canonical := by
  unfold State.readParts
  grind [engBytes, foldl_fst]

theorem enterAll {cid : Nat} {op : CollOp} {d : Dtd} (h : s.Canonical) {s1 : State} (eq : s.enterAll cid op d = some s1) : s1.Canonical := by
  refine foldl_bind (f := fun (t : State) m => match op.places[m]? with
    | some p => t.enterConv cid op d m p
    | none => some t) (fun t ht => Option.some.inj ht ▸ h) (fun t m u ht hu => ?_) _ eq
  split at hu
  · exact ht.enterConv hu
  · exact Option.some.inj hu ▸ ht

theorem convFail {l : List ((Nat × Nat) × Nat × DWord × List PByte)} (h : s.Canonical) : (s.convFail l).1.Canonical := by
  unfold State.convFail
  grind [engReady, foldl_fst]

theorem rendezvous {cid i : Nat} {x : Ctx} {op : CollOp} (h : s.Canonical) : (s.rendezvous cid i x op).Canonical := by
  unfold State.rendezvous
  dsimp only
  split
  · exact h
  · split
    · exact h.setBusy.faultEnd
    · split
      · exact h
      · next entered =>
        have := h.enterAll entered
        grind [readParts, engStall, convFail, engPut, engDone, modConv, foldl]

theorem execConversionRendezvous {cid i : Nat} (h : s.Canonical) {s1 : State} (eq : Machine.execConversionRendezvous cid i s = .next s1) : s1.Canonical := by
  unfold Machine.execConversionRendezvous at eq
  dsimp only at eq
  repeat' split at eq
  all_goals grind [tablesFail, engStall, modConv, rendezvous, cmdStall, engDone, joinAt, forkConv]

theorem execConversionComplete {cid i : Nat} (h : s.Canonical) {s1 : State} (eq : Machine.execConversionComplete cid i s = .next s1) : s1.Canonical := by
  unfold Machine.execConversionComplete at eq
  dsimp only at eq
  repeat' split at eq
  all_goals grind [engReady, engStall, modConv, engPut, engDone, modCtx, signalVa, joinAt, foldl]

theorem clTables {c k owner : Nat} {d : ClDesc} (h : s.Canonical) : (s.clTables c k owner d).1.Canonical := by
  unfold State.clTables
  grind [mapFail]

end State.Canonical
end Sys2Proof.Machine
end

section
/-! O5: the collectives, their nodes, and commands that enter queues. -/
namespace Sys2Proof.Machine
open Sys2Proof
namespace State.Canonical
variable {s : State}

theorem clReads {kind : Nat} {d : ClDesc} {ms : List ClMember} (h : s.Canonical) : (Machine.clReads kind d ms s).1.Canonical := by
  unfold Machine.clReads
  grind [engBytes, foldl_fst]

theorem clFail {ms : List (ClMember × Nat × List (DWord × List PByte))} (h : s.Canonical) : (Machine.clFail ms s).1.Canonical := by
  unfold Machine.clFail
  grind [engReady, foldl_fst]

theorem clPut {kind : Nat} {d : ClDesc} {ms : List ClMember} {want : List (List Nat)} {as_ : List Assigned} {out : List (List PByte)} {i : Nat} (h : s.Canonical) : (Machine.clPut kind d ms want as_ out s i).Canonical := by
  unfold Machine.clPut
  grind [cmdDone, engDone, engPut, foldl]

theorem clDeliver {kind : Nat} {d : ClDesc} {ms : List ClMember} {sends out : List (List PByte)} (h : s.Canonical) : (Machine.clDeliver kind d ms sends out s).Canonical := by
  unfold Machine.clDeliver
  grind [clPut, foldl]

theorem clRun {kind : Nat} {d : ClDesc} (h : s.Canonical) {s1 : State} (eq : Machine.clRun kind d s = .next s1) : s1.Canonical := by
  unfold Machine.clRun at eq
  grind [engDone, cmdStall, clTables, clReads, clFail, clDeliver]

theorem execAllreduce {d : ClDesc} (h : s.Canonical) {s1 : State} (eq : Machine.execAllreduce d s = .next s1) : s1.Canonical := h.clRun eq
theorem execReduceScatter {d : ClDesc} (h : s.Canonical) {s1 : State} (eq : Machine.execReduceScatter d s = .next s1) : s1.Canonical := h.clRun eq
theorem execAllgather {d : ClDesc} (h : s.Canonical) {s1 : State} (eq : Machine.execAllgather d s = .next s1) : s1.Canonical := h.clRun eq
theorem execAlltoall {d : ClDesc} (h : s.Canonical) {s1 : State} (eq : Machine.execAlltoall d s = .next s1) : s1.Canonical := h.clRun eq
theorem execIrregularAlltoall {d : ClDesc} (h : s.Canonical) {s1 : State} (eq : Machine.execIrregularAlltoall d s = .next s1) : s1.Canonical := h.clRun eq

theorem modNode {c k n : Nat} {f : CollNode → CollNode} (h : s.Canonical) : (s.modNode c k n f).Canonical := by
  unfold State.modNode
  grind [modCtx]

theorem nodeBecomes {c k n : Nat} {nd nd1 : CollNode} (h : s.Canonical) : (s.nodeBecomes c k n nd nd1).Canonical := by
  unfold State.nodeBecomes
  grind [muApply, modNode]

theorem nodeDeliver {c k n : Nat} {nd : CollNode} (h : s.Canonical) {s1 : State} (eq : s.nodeDeliver c k n nd = some s1) : s1.Canonical := by
  unfold State.nodeDeliver at eq
  obtain ⟨o, -, ho⟩ := List.exists_of_findSome?_eq_some eq
  split at ho
  · obtain ⟨t, ht, rfl⟩ := Option.map_eq_some_iff.1 ho
    exact (h.enterEdge ht).modNode
  · nomatch ho

theorem tellMembers {nd : CollNode} {l : List (Nat × Nat × Nat)} (h : s.Canonical) : (s.tellMembers nd l).Canonical := by
  unfold State.tellMembers
  grind [signalVa, foldl]

theorem execCollectiveNodeFire {n : Nat} (h : s.Canonical) {s1 : State} (eq : Machine.execCollectiveNodeFire n s = .next s1) : s1.Canonical := by
  unfold Machine.execCollectiveNodeFire at eq
  grind [nodeBecomes, nodeDeliver, tellMembers]

theorem received {c k owner : Nat} {at_ : DWord} {total : Nat} (h : s.Canonical) : (s.received c k owner at_ total).1.Canonical := by
  unfold State.received
  grind [poisonLine, engPut]

theorem abortCl {c k : Nat} {id : BitVec 24} (h : s.Canonical) : (s.abortCl c k id).Canonical := by
  unfold State.abortCl
  grind [modCtx, modIssued, received, foldl]

theorem abortConv {p : Nat × Nat} {op : CollOp} (h : s.Canonical) : (s.abortConv p op).Canonical := by
  unfold State.abortConv
  grind [modCtx, signalVa, setBusy, received]

theorem execAbort {id : BitVec 24} (h : s.Canonical) {s1 : State} (eq : Machine.execAbort id s = .next s1) : s1.Canonical := by
  unfold Machine.execAbort at eq
  grind [nodeBecomes, abortCl, abortConv, foldl]

theorem seqEnq {al : Nat} {cmd : Cmd} {bad : Option (Nat × DWord)} (h : s.Canonical) {s1 : State} (eq : Machine.seqEnq s al cmd bad = .next s1) : s1.Canonical := by
  unfold Machine.seqEnq at eq
  grind [trapHere, seqPure]

theorem execEnqMx {a b c : BitVec 6} (h : s.Canonical) {s1 : State} (eq : Machine.execEnqMx a b c s = .next s1) : s1.Canonical := h.seqEnq eq
theorem execEnqAg {a b c : BitVec 6} {f : BitVec 1} (h : s.Canonical) {s1 : State} (eq : Machine.execEnqAg a b c f s = .next s1) : s1.Canonical := h.seqEnq eq
theorem execEnqCl {a b : BitVec 6} (h : s.Canonical) {s1 : State} (eq : Machine.execEnqCl a b s = .next s1) : s1.Canonical := h.seqEnq eq
theorem execEnqLk {a b : BitVec 6} (h : s.Canonical) {s1 : State} (eq : Machine.execEnqLk a b s = .next s1) : s1.Canonical := h.seqEnq eq
theorem execEnqSc {a b : BitVec 6} (h : s.Canonical) {s1 : State} (eq : Machine.execEnqSc a b s = .next s1) : s1.Canonical := h.seqEnq eq
theorem execEnqTi {a b c : BitVec 6} {p : BitVec 2} (h : s.Canonical) {s1 : State} (eq : Machine.execEnqTi a b c p s = .next s1) : s1.Canonical := h.seqEnq eq
theorem execEnqTo {a b : BitVec 6} {p : BitVec 2} (h : s.Canonical) {s1 : State} (eq : Machine.execEnqTo a b p s = .next s1) : s1.Canonical := h.seqEnq eq

theorem plGood {c k : Nat} {idx st : Nat} (h : s.Canonical) : (s.plGood c k idx st).1.Canonical := by
  unfold State.plGood
  grind [tableRd]

theorem execEnqPl {a b c : BitVec 6} (h : s.Canonical) {s1 : State} (eq : Machine.execEnqPl a b c s = .next s1) : s1.Canonical := by
  unfold Machine.execEnqPl at eq
  grind [waitHere, seqEnq, plGood]

theorem waitRead {va : DWord} {al : Nat} (h : s.Canonical) : (s.waitRead va al).1.Canonical := by
  unfold State.waitRead
  grind [touch, farLoad, objectAt]

theorem execWaitc {a b : BitVec 6} (h : s.Canonical) {s1 : State} (eq : Machine.execWaitc a b s = .next s1) : s1.Canonical := by
  unfold Machine.execWaitc at eq
  grind [seqPure, waitHere, stopAt, waitRead]

theorem execSigc {a b : BitVec 6} {x : BitVec 3} (h : s.Canonical) {s1 : State} (eq : Machine.execSigc a b x s = .next s1) : s1.Canonical := by
  unfold Machine.execSigc at eq
  grind [seqPure, objectAt, stopAt]

theorem execWaitb {p : BitVec 3} {a : BitVec 6} (h : s.Canonical) {s1 : State} (eq : Machine.execWaitb p a s = .next s1) : s1.Canonical := by
  unfold Machine.execWaitb at eq
  grind [trapHere, seqPure, waitHere, stopAt, waitRead]

theorem execBara {a b : BitVec 6} {x : BitVec 1} (h : s.Canonical) {s1 : State} (eq : Machine.execBara a b x s = .next s1) : s1.Canonical := by
  unfold Machine.execBara at eq
  grind [seqPure, objectAt, stopAt]

theorem seqCfg {cmd : Cmd} (h : s.Canonical) {s1 : State} (eq : Machine.seqCfg s cmd = .next s1) : s1.Canonical := by
  unfold Machine.seqCfg at eq
  grind [trapHere, seqPure]

theorem execCfgLoad {a b c : BitVec 6} (h : s.Canonical) {s1 : State} (eq : Machine.execCfgLoad a b c s = .next s1) : s1.Canonical := h.seqCfg eq
theorem execCfgSwitch {b c : BitVec 6} (h : s.Canonical) {s1 : State} (eq : Machine.execCfgSwitch b c s = .next s1) : s1.Canonical := h.seqCfg eq
theorem execCfgPage {a b : BitVec 6} (h : s.Canonical) {s1 : State} (eq : Machine.execCfgPage a b s = .next s1) : s1.Canonical := h.seqCfg eq

theorem seqCtx {fn : Nat} {a : BitVec 6} {n : Nat} (h : s.Canonical) {s1 : State} (eq : Machine.seqCtx s fn a n = .next s1) : s1.Canonical := by
  unfold Machine.seqCtx at eq
  grind [translate, trapHere, seqPure, stopAt]

theorem execCtxLaunch {a : BitVec 6} (h : s.Canonical) {s1 : State} (eq : Machine.execCtxLaunch a s = .next s1) : s1.Canonical := h.seqCtx eq
theorem execCtxPrio {a : BitVec 6} {n : BitVec 4} (h : s.Canonical) {s1 : State} (eq : Machine.execCtxPrio a n s = .next s1) : s1.Canonical := h.seqCtx eq
theorem execCtxSusp {a : BitVec 6} (h : s.Canonical) {s1 : State} (eq : Machine.execCtxSusp a s = .next s1) : s1.Canonical := h.seqCtx eq
theorem execCtxResume {a : BitVec 6} (h : s.Canonical) {s1 : State} (eq : Machine.execCtxResume a s = .next s1) : s1.Canonical := h.seqCtx eq
theorem execCtxEvict {a : BitVec 6} (h : s.Canonical) {s1 : State} (eq : Machine.execCtxEvict a s = .next s1) : s1.Canonical := h.seqCtx eq

theorem execEos (h : s.Canonical) {s1 : State} (eq : Machine.execEos s = .next s1) : s1.Canonical := by
  unfold Machine.execEos at eq
  dsimp only at eq
  repeat' split at eq
  all_goals grind [muWait, modElem, muApply, muGo, settle]

theorem retireSlot {c k site slot : Nat} (h : s.Canonical) : (s.retireSlot c k site slot).Canonical := by
  unfold State.retireSlot
  grind [muApply, modElem]

theorem execSwitch {gen : BitVec 24} (h : s.Canonical) {s1 : State} (eq : Machine.execSwitch gen s = .next s1) : s1.Canonical := by
  unfold Machine.execSwitch at eq
  grind [modElem, settle, retireSlot, foldl]

theorem execSnap {id : BitVec 16} (h : s.Canonical) {s1 : State} (eq : Machine.execSnap id s = .next s1) : s1.Canonical := by
  unfold Machine.execSnap at eq
  grind [modSite, modElem, settle]

theorem modMx {c : Nat} {f : Mx → Mx} (h : s.Canonical) : (s.modMx c f).Canonical := by
  unfold State.modMx
  grind [modCluster]

theorem setHead {c : Nat} {cmd g : MxCmd} (h : s.Canonical) : (s.setHead c cmd g).Canonical := by
  unfold State.setHead
  grind [modMx]

theorem popMx {c : Nat} {cmd : MxCmd} (h : s.Canonical) : (s.popMx c cmd).Canonical := by
  unfold State.popMx
  grind [modMx]

theorem mxDone {c : Nat} {cmd : MxCmd} {status : Nat} (h : s.Canonical) : (s.mxDone c cmd status).Canonical := by
  unfold State.mxDone
  grind [cmdDone, popMx]

theorem mxRefuse {c : Nat} {cmd : MxCmd} (h : s.Canonical) : (s.mxRefuse c cmd).Canonical := by
  unfold State.mxRefuse
  grind [enterEdge, refuse, popMx]

theorem mxOffer {c src : Nat} (h : s.Canonical) {r1 : State × MxCmd} (eq : s.mxOffer c src = some r1) : r1.1.Canonical := by
  unfold State.mxOffer at eq
  grind [same, modCluster, modStream, Option.map_eq_some_iff]

theorem execMxAccept (h : s.Canonical) {s1 : State} (eq : Machine.execMxAccept s = .next s1) : s1.Canonical := by
  unfold Machine.execMxAccept at eq
  dsimp only at eq
  split at eq
  · cases eq; exact h
  · split at eq
    · cases eq; exact h
    · next src t hd found =>
      cases eq
      obtain ⟨i, -, hi⟩ := List.mem_filterMap.1 (List.mem_of_find?_eq_some found)
      obtain ⟨o, ho, heq⟩ := Option.map_eq_some_iff.1 hi
      obtain ⟨rfl, rfl⟩ := Prod.mk.inj heq
      exact modMx (h.mxOffer ho)

theorem tileScan {c k t n : Nat} (h : s.Canonical) : (s.tileScan c k t n).1.Canonical := by
  unfold State.tileScan
  grind [setCluster, Cluster.spRead_stamps]

end State.Canonical
end Sys2Proof.Machine
end

section
/-! O5: the MX, coverage commands, and the issue of commands. -/
namespace Sys2Proof.Machine
open Sys2Proof
namespace State.Canonical
variable {s : State}

theorem mxRun {ok : MxCmd → Bool} {body : MxCmd → State} {s1 : State} (h : s.Canonical) (hb : ∀ m, (body m).Canonical)
    (eq : Machine.mxRun s ok body = .next s1) : s1.Canonical := by
  unfold Machine.mxRun at eq
  grind [mxRefuse]

theorem execMma {w : MxW} (h : s.Canonical) {s1 : State} (eq : Machine.execMma w s = .next s1) : s1.Canonical := by
  unfold Machine.execMma at eq
  grind [modMx, setHead, mxRun, foldl]

theorem scanOperand {w : MxW} {rows : Nat} {diff : Bool} {o : MxOp} (h : s.Canonical) : (Machine.scanOperand s w rows diff o).1.Canonical := by
  unfold Machine.scanOperand
  grind [tileScan, foldl_fst]

theorem execMmaKstep {w : MxW} (h : s.Canonical) {s1 : State} (eq : Machine.execMmaKstep w s = .next s1) : s1.Canonical := by
  unfold Machine.execMmaKstep at eq
  extract_lets c sc sd look met pop at eq
  split at eq
  · extract_lets hs as_ bs al bl add at eq
    split at eq
    · cases eq; exact h
    · split at eq
      · cases eq; exact h.countWait
      · have scanned {rows : Nat} {diff : Bool} {q : State × List (Bool × Bool)} (hq : q.1.Canonical) (l : List MxOp) : (l.foldl (look rows diff) q).1.Canonical :=
          foldl_fst hq (fun q o hq => hq.scanOperand) l
        split at eq
        next sa ra first =>
        have hsa : sa.Canonical := by simpa [first] using scanned (rows := w.m) (diff := sd) (q := (s, [])) h al
        split at eq
        next sb rb second =>
        have hsb : sb.Canonical := by simpa [second] using scanned (rows := w.n) (diff := false) (q := (sa, [])) hsa bl
        dsimp only at eq
        cases eq
        refine foldl (foldl (foldl (foldl hsb ?_ _) ?_ _) ?_ _) ?_ _
        · intro t x ht
          simp only [add]
          split
          · exact ht.modMx.count
          · exact ht
        · exact fun t o ht => ht.modCluster fun x => foldl_keeps Cluster.stamps (fun y _ => y.popHead_stamps _) _ x
        · exact fun t o ht => ht.modCluster fun x => foldl_keeps Cluster.stamps (fun y _ => y.popHead_stamps _) _ x
        · intro t x ht
          split
          · exact mxDone (ht.modCluster fun y => foldl_keeps Cluster.stamps (fun y i => y.unuseTile_stamps i) _ y)
          · exact setHead (ht.modCluster fun y => foldl_keeps Cluster.stamps (fun y i => y.useTile_stamps i) _ y)
  · cases eq; exact h

theorem execMmz {w : MxW} (h : s.Canonical) {s1 : State} (eq : Machine.execMmz w s = .next s1) : s1.Canonical := by
  unfold Machine.execMmz at eq
  grind [modMx, mxDone, mxRun]

theorem execMload {w : MxW} (h : s.Canonical) {s1 : State} (eq : Machine.execMload w s = .next s1) : s1.Canonical := by
  unfold Machine.execMload at eq
  grind [modCluster, countWait, modMx, mxDone, tileScan, mxRun, Cluster.emptyTile_stamps]

theorem execMdrain {w : MxW} (h : s.Canonical) {s1 : State} (eq : Machine.execMdrain w s = .next s1) : s1.Canonical := by
  unfold Machine.execMdrain at eq
  grind [countWait, enterEdge, modMx, setHead, mxDone, mxRun]

theorem setCov {c : Nat} {v : Coverage} (h : s.Canonical) : (s.setCov c v).Canonical := by
  unfold State.setCov
  grind [modMx]

theorem execCvreset {w : MxW} (h : s.Canonical) {s1 : State} (eq : Machine.execCvreset w s = .next s1) : s1.Canonical := by
  unfold Machine.execCvreset at eq
  grind [mxDone, mxRun, setCov]

theorem execCvresetRelease {_w : MxW} (h : s.Canonical) {s1 : State} (eq : Machine.execCvresetRelease _w s = .next s1) : s1.Canonical := by
  unfold Machine.execCvresetRelease at eq
  grind [modMx, mxDone, mxRun]

theorem execCvloadEnt {w : MxW} (h : s.Canonical) {s1 : State} (eq : Machine.execCvloadEnt w s = .next s1) : s1.Canonical := by
  unfold Machine.execCvloadEnt at eq
  grind [modCluster, countWait, mxDone, tileScan, mxRun, setCov, Cluster.popHead_stamps]

theorem execCvloadGain {w : MxW} (h : s.Canonical) {s1 : State} (eq : Machine.execCvloadGain w s = .next s1) : s1.Canonical := by
  unfold Machine.execCvloadGain at eq
  grind [modCluster, countWait, mxDone, tileScan, mxRun, setCov, Cluster.popHead_stamps]

theorem execCvprobe {w : MxW} (h : s.Canonical) {s1 : State} (eq : Machine.execCvprobe w s = .next s1) : s1.Canonical := by
  unfold Machine.execCvprobe at eq
  grind [countWait, mxDone, tileScan, mxRun, setCov]

theorem execCvcommit {w : MxW} (h : s.Canonical) {s1 : State} (eq : Machine.execCvcommit w s = .next s1) : s1.Canonical := by
  unfold Machine.execCvcommit at eq
  grind [mxDone, mxRun, setCov]

theorem execCvreadArg {w : MxW} (h : s.Canonical) {s1 : State} (eq : Machine.execCvreadArg w s = .next s1) : s1.Canonical := by
  refine mxRun h (fun m => ?_) eq
  dsimp only
  repeat' split
  all_goals grind [countWait, enterEdge, mxDone]

theorem execCvreadGain {w : MxW} (h : s.Canonical) {s1 : State} (eq : Machine.execCvreadGain w s = .next s1) : s1.Canonical := by
  refine mxRun h (fun m => ?_) eq
  dsimp only
  repeat' split
  all_goals grind [countWait, enterEdge, mxDone, setHead]

theorem setQueue {c k q : Nat} {l : List Cmd} (h : s.Canonical) : (s.setQueue c k q l).Canonical := by
  unfold State.setQueue
  grind [modStream]

theorem modHead {c k q : Nat} {f : Cmd → Cmd} (h : s.Canonical) : (s.modHead c k q f).Canonical := by
  unfold State.modHead
  grind [setQueue]

theorem takeHead {c k q : Nat} (h : s.Canonical) : (s.takeHead c k q).Canonical := by
  unfold State.takeHead
  grind [same, modStream]

theorem headDone {c k q inc status : Nat} (h : s.Canonical) : (s.headDone c k q inc status).Canonical := by
  unfold State.headDone
  grind [cmdDone, takeHead]

theorem headRefused {c k q reason : Nat} (h : s.Canonical) : (s.headRefused c k q reason).Canonical := by
  unfold State.headRefused
  grind [refuse, setQueue]

theorem headStall {c k q : Nat} {f : EngFail} (h : s.Canonical) : (s.headStall c k q f).Canonical := by
  unfold State.headStall
  grind [engStall, modHead]

theorem headDesc {c k q : Nat} {x : Cmd} (h : s.Canonical) : (s.headDesc c k q x).1.Canonical := by
  unfold State.headDesc
  grind [engDone, engBytes, headStall]

theorem issueAg {c k : Nat} {x : Cmd} (h : s.Canonical) : (s.issueAg c k x).Canonical := by
  unfold State.issueAg
  grind [modElem, takeHead, headRefused]

theorem enterCl {c k kind : Nat} {d : ClDesc} (h : s.Canonical) : (s.enterCl c k kind d).Canonical := by
  unfold State.enterCl
  grind [modCtx]

theorem issueCl {c k : Nat} {x : Cmd} (h : s.Canonical) : (s.issueCl c k x).Canonical := by
  unfold State.issueCl
  grind [engDone, clTables, modHead, takeHead, headRefused, headStall, headDesc, enterCl]

theorem issueLk {c k : Nat} {x : Cmd} (h : s.Canonical) : (s.issueLk c k x).Canonical := by
  unfold State.issueLk
  grind [modHead, takeHead, headRefused, headDesc]

theorem issueSc {c k : Nat} {x : Cmd} (h : s.Canonical) : (s.issueSc c k x).Canonical := by
  unfold State.issueSc
  grind [modHead, takeHead, headRefused, headDesc]

theorem issueTi {c k : Nat} {x : Cmd} (h : s.Canonical) : (s.issueTi c k x).Canonical := by
  unfold State.issueTi
  grind [muApply, muWait, muGo, enterEdge, headDone]

theorem issueTo {c k : Nat} {x : Cmd} (h : s.Canonical) : (s.issueTo c k x).Canonical := by
  unfold State.issueTo
  grind [modCluster, muApply, settle, engDone, engReady, engPut, headDone, headStall]

theorem issuePl {c k : Nat} {x : Cmd} (h : s.Canonical) : (s.issuePl c k x).Canonical := by
  unfold State.issuePl
  grind [forkConv, engDone, tablesFail, takeHead, headDone, headStall]

theorem stage {c k im : Nat} (h : s.Canonical) : (s.stage c k im).Canonical := by
  unfold State.stage
  grind [modRegion, modSite, modElem, foldl]

theorem loadAt {c k im : Nat} (h : s.Canonical) : (s.loadAt c k im).Canonical := by
  unfold State.loadAt
  grind [headDone, headRefused, stage]

theorem issueLoad {c k : Nat} {x : Cmd} (h : s.Canonical) : (s.issueLoad c k x).Canonical := by
  unfold State.issueLoad
  grind [translate, engDone, areasFail, headRefused, loadAt]

theorem beginSwitch {c k : Nat} (h : s.Canonical) : (s.beginSwitch c k).Canonical := by
  unfold State.beginSwitch
  grind [modSite, modElem, foldl]

theorem issueSwitch {c k : Nat} {x : Cmd} (h : s.Canonical) : (s.issueSwitch c k x).Canonical := by
  unfold State.issueSwitch
  grind [modRegion, injectPicots, takeHead, headRefused, beginSwitch]

theorem issuePage {c k : Nat} {x : Cmd} (h : s.Canonical) : (s.issuePage c k x).Canonical := by
  unfold State.issuePage
  grind [modElem, takeHead]

theorem issueCfg {c k : Nat} {x : Cmd} (h : s.Canonical) : (s.issueCfg c k x).Canonical := by
  unfold State.issueCfg
  grind [issueLoad, issueSwitch, issuePage]

theorem execCommandIssue (h : s.Canonical) {s1 : State} (eq : Machine.execCommandIssue s = .next s1) : s1.Canonical := by
  unfold Machine.execCommandIssue at eq
  grind [issueAg, issueCl, issueLk, issueSc, issueTi, issueTo, issuePl, issueCfg]

theorem endSwitch {c k : Nat} (h : s.Canonical) : (s.endSwitch c k).Canonical := by
  unfold State.endSwitch
  grind [modRegion, modSite, modElem, foldl]

theorem execCommandComplete (h : s.Canonical) {s1 : State} (eq : Machine.execCommandComplete s = .next s1) : s1.Canonical := by
  unfold Machine.execCommandComplete at eq
  grind [modStream, modCtx, signalCmd, endSwitch]

theorem execScrub {d : ScDesc} (h : s.Canonical) {s1 : State} (eq : Machine.execScrub d s = .next s1) : s1.Canonical := by
  unfold Machine.execScrub at eq
  dsimp only at eq
  repeat' split at eq
  all_goals grind [wrAt, modIssued, cmdDone, atHome, engHome, engDone, engBytes, engReady, cmdStall]

theorem seqLoad {d : BitVec 6} {va : DWord} {sz : Nat} {signed : Bool} {t : Bool} {kind : Nat} (h : s.Canonical) {s1 : State} (eq : Machine.seqLoad s d va sz signed t kind = .next s1) : s1.Canonical := by
  unfold Machine.seqLoad at eq
  grind [seqPure, loadView, stopAt]

theorem seqStore {d : BitVec 6} {va : DWord} {sz : Nat} {rel : Bool} (h : s.Canonical) {s1 : State} (eq : Machine.seqStore s d va sz rel = .next s1) : s1.Canonical := by
  unfold Machine.seqStore at eq
  grind [seqPure, access, stopAt]

theorem execLd {d a : BitVec 6} {sz : BitVec 2} {o : BitVec 12} (h : s.Canonical) {s1 : State} (eq : Machine.execLd d a sz o s = .next s1) : s1.Canonical := h.seqLoad eq

theorem execLdn {d a : BitVec 6} {sz : BitVec 2} {o : BitVec 12} (h : s.Canonical) {s1 : State} (eq : Machine.execLdn d a sz o s = .next s1) : s1.Canonical :=
  h.seqLoad eq

theorem execSt {d a : BitVec 6} {sz : BitVec 2} {o : BitVec 12} (h : s.Canonical) {s1 : State} (eq : Machine.execSt d a sz o s = .next s1) : s1.Canonical := h.seqStore eq

theorem execLdc {d a : BitVec 6} {sz : BitVec 1} {o : BitVec 12} (h : s.Canonical) {s1 : State} (eq : Machine.execLdc d a sz o s = .next s1) : s1.Canonical :=
  h.seqLoad eq

theorem execLda {d a : BitVec 6} {sz c : BitVec 2} {o : BitVec 10} (h : s.Canonical) {s1 : State} (eq : Machine.execLda d a sz c o s = .next s1) : s1.Canonical :=
  h.seqLoad eq

theorem execStl {d a : BitVec 6} {sz c : BitVec 2} {o : BitVec 10} (h : s.Canonical) {s1 : State} (eq : Machine.execStl d a sz c o s = .next s1) : s1.Canonical :=
  h.seqStore eq

theorem seqAmo {fn : Nat} {d a b : BitVec 6} {n : Nat} (h : s.Canonical) {s1 : State} (eq : Machine.seqAmo s fn d a b n = .next s1) : s1.Canonical := by
  unfold Machine.seqAmo at eq
  grind [touch, trapHere, seqPure, access, stopAt]

theorem execAmoAdd {d a b : BitVec 6} {c : BitVec 2} {sz o : BitVec 1} (h : s.Canonical) {s1 : State} (eq : Machine.execAmoAdd d a b c sz o s = .next s1) : s1.Canonical :=
  h.seqAmo eq

theorem execAmoAnd {d a b : BitVec 6} {c : BitVec 2} {sz o : BitVec 1} (h : s.Canonical) {s1 : State} (eq : Machine.execAmoAnd d a b c sz o s = .next s1) : s1.Canonical :=
  h.seqAmo eq

theorem execAmoOr {d a b : BitVec 6} {c : BitVec 2} {sz o : BitVec 1} (h : s.Canonical) {s1 : State} (eq : Machine.execAmoOr d a b c sz o s = .next s1) : s1.Canonical :=
  h.seqAmo eq

theorem execAmoXor {d a b : BitVec 6} {c : BitVec 2} {sz o : BitVec 1} (h : s.Canonical) {s1 : State} (eq : Machine.execAmoXor d a b c sz o s = .next s1) : s1.Canonical :=
  h.seqAmo eq

theorem execAmoMin {d a b : BitVec 6} {c : BitVec 2} {sz o : BitVec 1} (h : s.Canonical) {s1 : State} (eq : Machine.execAmoMin d a b c sz o s = .next s1) : s1.Canonical :=
  h.seqAmo eq

theorem execAmoMax {d a b : BitVec 6} {c : BitVec 2} {sz o : BitVec 1} (h : s.Canonical) {s1 : State} (eq : Machine.execAmoMax d a b c sz o s = .next s1) : s1.Canonical :=
  h.seqAmo eq

theorem execAmoMinn {d a b : BitVec 6} {c : BitVec 2} {sz o : BitVec 1} (h : s.Canonical) {s1 : State} (eq : Machine.execAmoMinn d a b c sz o s = .next s1) : s1.Canonical :=
  h.seqAmo eq

theorem execAmoMaxn {d a b : BitVec 6} {c : BitVec 2} {sz o : BitVec 1} (h : s.Canonical) {s1 : State} (eq : Machine.execAmoMaxn d a b c sz o s = .next s1) : s1.Canonical :=
  h.seqAmo eq

theorem execAmoSwap {d a b : BitVec 6} {c : BitVec 2} {sz o : BitVec 1} (h : s.Canonical) {s1 : State} (eq : Machine.execAmoSwap d a b c sz o s = .next s1) : s1.Canonical :=
  h.seqAmo eq

theorem execAmoCas {d a b : BitVec 6} {c : BitVec 2} {sz o : BitVec 1} (h : s.Canonical) {s1 : State} (eq : Machine.execAmoCas d a b c sz o s = .next s1) : s1.Canonical :=
  h.seqAmo eq

theorem execAmoFadd {d a b : BitVec 6} {c : BitVec 2} {o : BitVec 1} (h : s.Canonical) {s1 : State} (eq : Machine.execAmoFadd d a b c o s = .next s1) : s1.Canonical :=
  h.seqAmo eq

theorem execFence {w x y z : BitVec 1} {c : BitVec 2} (h : s.Canonical) {s1 : State} (eq : Machine.execFence w x y z c s = .next s1) : s1.Canonical := by
  unfold Machine.execFence at eq
  grind [seqPure]

theorem timeCoord {d : BitVec 3} {base : Time} {j v : Nat} {clear : Bool} (h : s.Canonical) {s1 : State} (eq : Machine.timeCoord s d base j v clear = .next s1) : s1.Canonical := by
  unfold Machine.timeCoord at eq
  grind [trapHere, seqTime]

theorem execTmov {d a : BitVec 3} (h : s.Canonical) {s1 : State} (eq : Machine.execTmov d a s = .next s1) : s1.Canonical := h.seqTime eq
theorem execTset {d : BitVec 3} {c : BitVec 2} {x : BitVec 6} (h : s.Canonical) {s1 : State} (eq : Machine.execTset d c x s = .next s1) : s1.Canonical := h.seqTime eq

theorem execTget {a : BitVec 3} {c : BitVec 2} {x : BitVec 6} (h : s.Canonical) {s1 : State} (eq : Machine.execTget a c x s = .next s1) : s1.Canonical := by
  unfold Machine.execTget at eq
  grind [seqPure]

theorem execTinc {d a : BitVec 3} {c : BitVec 2} {x : BitVec 6} (h : s.Canonical) {s1 : State} (eq : Machine.execTinc d a c x s = .next s1) : s1.Canonical :=
  h.timeCoord eq

theorem execTinci {d a : BitVec 3} {c : BitVec 2} {n : BitVec 6} (h : s.Canonical) {s1 : State} (eq : Machine.execTinci d a c n s = .next s1) : s1.Canonical :=
  h.timeCoord eq

theorem execTjoin {d a b : BitVec 3} (h : s.Canonical) {s1 : State} (eq : Machine.execTjoin d a b s = .next s1) : s1.Canonical := h.seqTime eq
theorem execTmeet {d a b : BitVec 3} (h : s.Canonical) {s1 : State} (eq : Machine.execTmeet d a b s = .next s1) : s1.Canonical := h.seqTime eq

end State.Canonical
end Sys2Proof.Machine
end

section
/-! O5: the sequencer over time and memory, the commit of a block, service of dies, and ports. -/
namespace Sys2Proof.Machine
open Sys2Proof
namespace State.Canonical
variable {s : State}

theorem execTle {a b p : BitVec 3} (h : s.Canonical) {s1 : State} (eq : Machine.execTle a b p s = .next s1) : s1.Canonical := h.seqPred eq
theorem execTlt {a b p : BitVec 3} (h : s.Canonical) {s1 : State} (eq : Machine.execTlt a b p s = .next s1) : s1.Canonical := h.seqPred eq
theorem execTeq {a b p : BitVec 3} (h : s.Canonical) {s1 : State} (eq : Machine.execTeq a b p s = .next s1) : s1.Canonical := h.seqPred eq

theorem execTadv {d a : BitVec 3} {c : BitVec 2} {x : BitVec 6} (h : s.Canonical) {s1 : State} (eq : Machine.execTadv d a c x s = .next s1) : s1.Canonical := by
  unfold Machine.execTadv at eq
  grind [seqTime, timeCoord]

theorem execHzld {cmd : BitVec 3} {x : BitVec 6} (h : s.Canonical) {s1 : State} (eq : Machine.execHzld cmd x s = .next s1) : s1.Canonical := by
  unfold Machine.execHzld at eq
  grind [seqPure]

theorem execHzwait {a cmd : BitVec 3} (h : s.Canonical) {s1 : State} (eq : Machine.execHzwait a cmd s = .next s1) : s1.Canonical := by
  unfold Machine.execHzwait at eq
  grind [trapHere, seqPure, waitHere]

theorem execHzpub {cmd : BitVec 3} {x : BitVec 6} (h : s.Canonical) {s1 : State} (eq : Machine.execHzpub cmd x s = .next s1) : s1.Canonical := by
  unfold Machine.execHzpub at eq
  grind [trapHere, seqPure]

theorem execHzle {a cmd p : BitVec 3} (h : s.Canonical) {s1 : State} (eq : Machine.execHzle a cmd p s = .next s1) : s1.Canonical := h.seqPred eq

theorem execHzget {cmd : BitVec 3} {x : BitVec 6} (h : s.Canonical) {s1 : State} (eq : Machine.execHzget cmd x s = .next s1) : s1.Canonical := by
  unfold Machine.execHzget at eq
  grind [seqPure]

theorem execHztime {d cmd e : BitVec 3} (h : s.Canonical) {s1 : State} (eq : Machine.execHztime d cmd e s = .next s1) : s1.Canonical := h.seqTime eq

theorem commitCheck (h : s.Canonical) : (s.commitCheck).1.Canonical := by
  unfold State.commitCheck
  grind [touch, access, foldl_fst]

theorem readForks (h : s.Canonical) : (s.readForks).1.Canonical := by
  unfold State.readForks
  grind [engBytes, tablesFail, clTables, foldl_fst]

theorem launch15 {d pa : Nat} (h : s.Canonical) : (s.launch15 d pa).Canonical := by
  unfold State.launch15
  grind [modDie, wr64]

theorem ctxCommand {fn pa n : Nat} (h : s.Canonical) : (s.ctxCommand fn pa n).Canonical := by
  unfold State.ctxCommand
  grind [modCtx, launch15]

theorem enterCmd {x : Cmd} (h : s.Canonical) : (s.enterCmd x).Canonical := by
  unfold State.enterCmd
  grind [modCluster, setQueue]

theorem forkCmd {x : Cmd} {read : Bool} (h : s.Canonical) : (s.forkCmd x read).Canonical := by
  unfold State.forkCmd
  grind [forkConv, enterCl]

theorem pushStack {ra : DWord} (h : s.Canonical) : (s.pushStack ra).Canonical := by
  unfold State.pushStack
  grind [modMe, wrAt, access]

theorem applyEff {cls : List (Nat × List DWord)} {e : Nat × Eff} (h : s.Canonical) : (State.applyEff cls s e).Canonical := by
  unfold State.applyEff
  grind [modCluster, modMe, setProt, countHbm, wrAt, signal, arm, ctxCommand, enterCmd, forkCmd, pushStack]

theorem farPhase {c k : Nat} (h : s.Canonical) : (s.farPhase c k).1.Canonical := by
  unfold State.farPhase
  grind [farAsk, foldl_fst]

theorem forksDone {c k : Nat} (h : s.Canonical) : (s.forksDone c k).Canonical := by
  unfold State.forksDone
  grind [engDone, foldl]

theorem commitEffects {cls : List (Nat × List DWord)} {c k : Nat} (h : s.Canonical) : (Machine.commitEffects s cls c k).Canonical := by
  unfold Machine.commitEffects
  grind [modCluster, modCtx, modMe, muApply, muGo, applyEff, foldl]

theorem commitStop (h : s.Canonical) : (s.commitStop).1.Canonical := by
  unfold State.commitStop
  grind [commitCheck]

theorem commitWait (h : s.Canonical) {s1 : State} (eq : s.commitWait = .next s1) : s1.Canonical := by
  unfold State.commitWait at eq
  grind [waitHere]

theorem execBlockCommit (h : s.Canonical) {s1 : State} (eq : Machine.execBlockCommit s = .next s1) : s1.Canonical := by
  unfold Machine.execBlockCommit at eq
  grind [count, farDrop, muWait, takeTrap, readForks, farPhase, forksDone, commitEffects, commitStop, commitWait]

theorem execAsyncTrap (h : s.Canonical) {s1 : State} (eq : Machine.execAsyncTrap s = .next s1) : s1.Canonical := by
  unfold Machine.execAsyncTrap at eq
  grind [modMe, count, muForget, takeTrap]

theorem execStreamExited (h : s.Canonical) {s1 : State} (eq : Machine.execStreamExited s = .next s1) : s1.Canonical := by
  unfold Machine.execStreamExited at eq
  grind [modMe]

theorem setPortBit {p : Nat} {b : Bool} (h : s.Canonical) : (s.setPortBit p b).Canonical := by
  unfold State.setPortBit
  grind [modIod]

theorem notify {d q : Nat} {tail : BitVec 9} (h : s.Canonical) : (s.notify d q tail).Canonical := by
  unfold State.notify
  grind [modDie]

theorem invalidate {d : Nat} (h : s.Canonical) : (s.invalidate d).Canonical := by
  unfold State.invalidate
  extract_lets x keep sweep
  refine h.mapClusters (f := fun e => (if dieOf e.1 = d then (e.1, sweep e.2) else e).2) rfl rfl ?_ fun e => ?_
  · exact List.map_congr_left fun e _ => by split <;> rfl
  · split <;> rfl

theorem xinvStep {kind : Nat} (h : s.Canonical) {s1 : State} (eq : Machine.xinvStep kind s = .next s1) : s1.Canonical := by
  unfold Machine.xinvStep at eq
  grind [invalidate]

theorem execXinvPage (h : s.Canonical) {s1 : State} (eq : Machine.execXinvPage s = .next s1) : s1.Canonical := h.xinvStep eq
theorem execXinvRoot (h : s.Canonical) {s1 : State} (eq : Machine.execXinvRoot s = .next s1) : s1.Canonical := h.xinvStep eq
theorem execXinvDie (h : s.Canonical) {s1 : State} (eq : Machine.execXinvDie s = .next s1) : s1.Canonical := h.xinvStep eq

theorem execXinvDone (h : s.Canonical) {s1 : State} (eq : Machine.execXinvDone s = .next s1) : s1.Canonical := by
  unfold Machine.execXinvDone at eq
  grind [modDie, invalidate]

theorem settleFence {c : Nat} (h : s.Canonical) : (s.settleFence c).Canonical := by
  unfold State.settleFence
  grind [modDie]

theorem evictFrom {c : Nat} (h : s.Canonical) : (s.evictFrom c).Canonical :=
  ⟨h.1, Map.sorted_map_of_keys (fun e => by split <;> rfl) h.2.1, h.2.2⟩

theorem setFence {d c : Nat} {b : Bool} (h : s.Canonical) : (s.setFence d c b).Canonical := by
  unfold State.setFence
  grind [modDie, settleFence, evictFrom]

theorem microcodeWrite {d : Nat} {v : DWord} (h : s.Canonical) : (s.microcodeWrite d v).Canonical := by
  unfold State.microcodeWrite
  grind [modDie]

theorem microcodeDone {d : Nat} (h : s.Canonical) : (s.microcodeDone d).Canonical := by
  unfold State.microcodeDone
  grind [modCluster, modDie]

theorem firmwareWrite {v : DWord} (h : s.Canonical) : (s.firmwareWrite v).Canonical := by
  unfold State.firmwareWrite
  grind [same, modIod]

theorem keyStatus {st : Nat} {handle : Option Nat} (h : s.Canonical) : (s.keyStatus st handle).Canonical := by
  unfold State.keyStatus
  grind [modIod]

theorem importKey {a : Nat} (h : s.Canonical) : (s.importKey a).Canonical := by
  unfold State.importKey
  grind [same, keyStatus]

theorem removeKey {a : Nat} (h : s.Canonical) : (s.removeKey a).Canonical := by
  unfold State.removeKey
  grind [same, keyStatus]

theorem keyWrite {v : DWord} (h : s.Canonical) : (s.keyWrite v).Canonical := by
  unfold State.keyWrite
  grind [modIod]

theorem keyDone (h : s.Canonical) : s.keyDone.Canonical := by
  unfold State.keyDone
  grind [keyStatus, importKey, removeKey]

theorem putBytes {k : Nat} {l : List Byte} (h : s.Canonical) : (s.putBytes k l).Canonical := by
  refine ⟨?_, h.2⟩
  have bytes (q : List Host.Cell × Nat) (hq : Memory.wf q.1 = true) :
      Memory.wf (l.foldl (fun (a : List Host.Cell × Nat) b => (writeByte a.1 a.2 b, a.2 + 1)) q).1 = true := by
    induction l generalizing q with
    | nil => exact hq
    | cons b l ih => exact ih _ (Map.wf_put q.2 b hq)
  exact bytes (s.mem, k) h.1

theorem attestWrite {v : DWord} (h : s.Canonical) : (s.attestWrite v).Canonical := by
  unfold State.attestWrite
  grind [modIod]

theorem attest (h : s.Canonical) : s.attest.Canonical := by
  unfold State.attest
  grind [same, modIod, putBytes]

theorem setCap {cap : BitVec 13} (h : s.Canonical) : (s.setCap cap).Canonical := by
  unfold State.setCap
  grind [modIod]

theorem retrain {p : Nat} (h : s.Canonical) : (s.retrain p).Canonical := by
  unfold State.retrain
  grind [modPort, setPortBit]

theorem enablePort {p : Nat} {b : Bool} (h : s.Canonical) : (s.enablePort p b).Canonical := by
  unfold State.enablePort
  grind [modPort]

theorem resume {r : FaultRec} (h : s.Canonical) : (s.resume r).Canonical := by
  unfold State.resume
  grind [modStream, modCtx, modElem]

theorem dropRec {d seq : Nat} (h : s.Canonical) : (s.dropRec d seq).Canonical := by
  unfold State.dropRec
  grind [modDie]

theorem service {d seq act : Nat} (h : s.Canonical) : (s.service d seq act).Canonical := by
  unfold State.service
  grind [modDie, faultEnd, resume, dropRec]

theorem dieWrite {d off : Nat} {v : DWord} (h : s.Canonical) : (s.dieWrite d off v).Canonical := by
  unfold State.dieWrite
  grind [modDie, notify, setFence, microcodeWrite, service, foldl]

theorem iodWrite {i off : Nat} {v : DWord} (h : s.Canonical) : (s.iodWrite i off v).Canonical := by
  unfold State.iodWrite
  grind [modIod, modPort, firmwareWrite, keyWrite, attestWrite, setCap, retrain, enablePort]

theorem windowWrite {w off : Nat} {v : DWord} (h : s.Canonical) : (s.windowWrite w off v).Canonical := by
  unfold State.windowWrite
  grind [dieWrite, iodWrite]

theorem execLaunchNotify {q : BitVec 4} {tail : BitVec 9} (h : s.Canonical) {s1 : State} (eq : Machine.execLaunchNotify q tail s = .next s1) : s1.Canonical := by
  unfold Machine.execLaunchNotify at eq
  grind [notify]

theorem execFenceCluster {c : BitVec 6} (h : s.Canonical) {s1 : State} (eq : Machine.execFenceCluster c s = .next s1) : s1.Canonical := by
  unfold Machine.execFenceCluster at eq
  grind [setFence]

theorem execUnfenceCluster {c : BitVec 6} (h : s.Canonical) {s1 : State} (eq : Machine.execUnfenceCluster c s = .next s1) : s1.Canonical := by
  unfold Machine.execUnfenceCluster at eq
  grind [setFence]

theorem execReplaceClusterMicrocode {v : DWord} (h : s.Canonical) {s1 : State} (eq : Machine.execReplaceClusterMicrocode v s = .next s1) : s1.Canonical := by
  unfold Machine.execReplaceClusterMicrocode at eq
  grind [microcodeWrite, microcodeDone]

theorem execUpdateFirmware {v : DWord} (h : s.Canonical) {s1 : State} (eq : Machine.execUpdateFirmware v s = .next s1) : s1.Canonical := by
  unfold Machine.execUpdateFirmware at eq
  grind [firmwareWrite]

theorem execFirmwareSwitch (h : s.Canonical) {s1 : State} (eq : Machine.execFirmwareSwitch s = .next s1) : s1.Canonical := by
  unfold Machine.execFirmwareSwitch at eq
  grind [same, modIod]

theorem execRetrainPort {port : BitVec 6} (h : s.Canonical) {s1 : State} (eq : Machine.execRetrainPort port s = .next s1) : s1.Canonical := by
  unfold Machine.execRetrainPort at eq
  grind [retrain]

theorem execPortEnable {port : BitVec 6} {en : Bool} (h : s.Canonical) {s1 : State} (eq : Machine.execPortEnable port en s = .next s1) : s1.Canonical := by
  unfold Machine.execPortEnable at eq
  grind [enablePort]

theorem execKeyImport {rec : DWord} (h : s.Canonical) {s1 : State} (eq : Machine.execKeyImport rec s = .next s1) : s1.Canonical := by
  unfold Machine.execKeyImport at eq
  grind [keyWrite, keyDone]

theorem execKeyRemove {rec : DWord} (h : s.Canonical) {s1 : State} (eq : Machine.execKeyRemove rec s = .next s1) : s1.Canonical := by
  unfold Machine.execKeyRemove at eq
  grind [keyWrite, keyDone]

theorem execAttestationReport {v : DWord} (h : s.Canonical) {s1 : State} (eq : Machine.execAttestationReport v s = .next s1) : s1.Canonical := by
  unfold Machine.execAttestationReport at eq
  grind [attestWrite, attest]

theorem execPowerCap {cap : BitVec 13} (h : s.Canonical) {s1 : State} (eq : Machine.execPowerCap cap s = .next s1) : s1.Canonical := by
  unfold Machine.execPowerCap at eq
  grind [setCap]

theorem execColdReset (h : s.Canonical) {s1 : State} (eq : Machine.execColdReset s = .next s1) : s1.Canonical := by
  cases eq
  exact ⟨h.1, State.canonical_reset.2⟩

theorem execActivationAlert {stack bank postponed : Nat} (h : s.Canonical) {s1 : State} (eq : Machine.execActivationAlert stack bank postponed s = .next s1) : s1.Canonical := by
  unfold Machine.execActivationAlert at eq
  grind [modDie, countDie]

theorem execWalk {root va : DWord} {ag : Bool} {acc : Access} (h : s.Canonical) {s1 : State} (eq : Machine.execWalk root va ag acc s = .next s1) : s1.Canonical := by
  unfold Machine.execWalk at eq
  grind [walk]

theorem execSend {d : LkDesc} (h : s.Canonical) {s1 : State} (eq : Machine.execSend d s = .next s1) : s1.Canonical := by
  unfold Machine.execSend at eq
  grind [modPort, sendLater, modIssued, engDone, engBytes, cmdStall]

theorem execKeyld {d : LkDesc} (h : s.Canonical) {s1 : State} (eq : Machine.execKeyld d s = .next s1) : s1.Canonical := by
  unfold Machine.execKeyld at eq
  grind [modPort, cmdDone, refuse]

theorem execKeysw {d : LkDesc} (h : s.Canonical) {s1 : State} (eq : Machine.execKeysw d s = .next s1) : s1.Canonical := by
  unfold Machine.execKeysw at eq
  grind [sendLater, modIssued, refuse]

theorem execStat {d : LkDesc} (h : s.Canonical) {s1 : State} (eq : Machine.execStat d s = .next s1) : s1.Canonical := by
  unfold Machine.execStat at eq
  grind [cmdDone, engDone, engReady, engPut, cmdStall]

theorem execFlitTransmit {port : BitVec 6} (h : s.Canonical) {s1 : State} (eq : Machine.execFlitTransmit port s = .next s1) : s1.Canonical := by
  unfold Machine.execFlitTransmit at eq
  grind [modPort]

theorem accept {p : Nat} (h : s.Canonical) : (s.accept p).Canonical := by
  unfold State.accept
  grind [modPort]

theorem ackFlit {p src : Nat} {ctr : DWord} (h : s.Canonical) : (s.ackFlit p src ctr).Canonical := by
  unfold State.ackFlit
  grind [sendLater]

theorem nodeStore {a : Nat} {pay : List DWord} (h : s.Canonical) : (s.nodeStore a pay).1.Canonical := by
  unfold State.nodeStore
  grind [atHome, windowWrite, foldl_fst]

theorem nodeOp {a : Nat} {op : Config.FarOp} (h : s.Canonical) : (s.nodeOp a op).1.Canonical := by
  unfold State.nodeOp
  grind [countHbm, signalled, arm, atHome]

theorem virtualStore {x : Ctx} {va : DWord} {bs : List PByte} (h : s.Canonical) : (s.virtualStore x va bs).1.Canonical := by
  unfold State.virtualStore
  grind [setProt, translate, atHome, foldl, foldl_fst]

theorem modXfer {p : Nat} {t : Transfer} {f : Transfer → Transfer} (h : s.Canonical) : (s.modXfer p t f).Canonical := by
  unfold State.modXfer
  grind [modPort]

theorem failAnswer {p : Nat} {t : Transfer} (h : s.Canonical) : (s.failAnswer p t).Canonical := by
  unfold State.failAnswer
  grind [sendLater]

theorem performNode {a n : Nat} {pay : List DWord} (h : s.Canonical) {r1 : State × Bool × List DWord} (eq : s.performNode a n pay = some r1) : r1.1.Canonical := by
  unfold State.performNode at eq
  grind [nodeStore, nodeOp]

theorem performFlit {p : Nat} {t : Transfer} {pay : List DWord} (h : s.Canonical) {s1 : State} (eq : s.performFlit p t pay = some s1) : s1.Canonical := by
  unfold State.performFlit at eq
  extract_lets next va at eq
  have hnext {u : State} {bad : Bool} (hu : u.Canonical) : (next u bad).Canonical := hu.modXfer.modPort
  clear_value next
  split at eq
  · cases eq; exact hnext h
  · split at eq
    · obtain ⟨r, hr, rfl⟩ := Option.map_eq_some_iff.1 eq
      have done := h.performNode hr
      exact hnext (by split; exacts [done, done.sendLater])
    · split at eq
      · cases eq; exact hnext h.failAnswer
      · repeat' split at eq
        all_goals grind [virtualStore, postFault, failAnswer]

theorem nodeRead {a n : Nat} (h : s.Canonical) : (s.nodeRead a n).1.Canonical := by
  unfold State.nodeRead
  grind [atHome]

theorem answerRead {p : Nat} {r : HeldRead} (h : s.Canonical) : (s.answerRead p r).Canonical := by
  unfold State.answerRead
  grind [sendLater, nodeRead]

theorem performNext {src : BitVec 12} (h : s.Canonical) {s1 : State} (eq : s.performNext src = some s1) : s1.Canonical := by
  unfold State.performNext at eq
  rw [Option.orElse_eq_or, Option.or_eq_some_iff] at eq
  rcases eq with due | ⟨-, held⟩
  · obtain ⟨p, -, hp⟩ := List.exists_of_findSome?_eq_some due
    obtain ⟨t, -, ht⟩ := Option.bind_eq_some_iff.1 hp
    obtain ⟨f, -, hf⟩ := Option.bind_eq_some_iff.1 ht
    split at hf
    · nomatch hf
    · exact h.performFlit hf
  · obtain ⟨p, -, hp⟩ := List.exists_of_findSome?_eq_some held
    obtain ⟨r, -, rfl⟩ := Option.map_eq_some_iff.1 hp
    exact h.modPort.answerRead

theorem drainXfers {n : Nat} {src : BitVec 12} (h : s.Canonical) : (State.drainXfers n src s).Canonical := by
  induction n generalizing s with
  | zero => exact h
  | succ n ih =>
    unfold State.drainXfers
    split
    · next more => exact ih (h.performNext more)
    · exact h

theorem settleXfers {src : BitVec 12} (h : s.Canonical) : (s.settleXfers src).Canonical := by
  unfold State.settleXfers
  grind [drainXfers]

theorem settleAll (h : s.Canonical) : s.settleAll.Canonical := by
  unfold State.settleAll
  grind [settleXfers, foldl]

theorem execFlitOpen {port : BitVec 6} {cmd : FlitHdr} {addr mode ptab n : DWord} (h : s.Canonical) {s1 : State} (eq : Machine.execFlitOpen port cmd addr mode ptab n s = .next s1) : s1.Canonical := by
  unfold Machine.execFlitOpen at eq
  grind [modPort, accept, ackFlit, settleXfers]

end State.Canonical
end Sys2Proof.Machine
end

section
/-! O5: flits, the tag table, tiles and arrangements, and the scheduler. -/
namespace Sys2Proof.Machine
open Sys2Proof
namespace State.Canonical
variable {s : State}

theorem execFlitData {port : BitVec 6} {cmd : FlitHdr} {pay : List DWord} (h : s.Canonical) {s1 : State} (eq : Machine.execFlitData port cmd pay s = .next s1) : s1.Canonical := by
  unfold Machine.execFlitData at eq
  grind [modPort, accept, ackFlit, settleXfers]

theorem execFlitRead {port : BitVec 6} {cmd : FlitHdr} {addr len rxfer : DWord} (h : s.Canonical) {s1 : State} (eq : Machine.execFlitRead port cmd addr len rxfer s = .next s1) : s1.Canonical := by
  unfold Machine.execFlitRead at eq
  grind [modPort, accept, ackFlit, settleXfers]

theorem answer1 {r : FarRead} {a : FarAns} (h : s.Canonical) : (s.answer1 r a).Canonical := by
  unfold State.answer1
  grind [same]

theorem answered {r : FarRead} {cmd : FlitHdr} {pay : List DWord} (h : s.Canonical) : (s.answered r cmd pay).Canonical := by
  unfold State.answered
  grind [wr, answer1]

theorem sendFailed {c k : Nat} {x : Cmd} {n : Nat} (h : s.Canonical) : (s.sendFailed c k x n).Canonical := by
  unfold State.sendFailed
  grind [signalVa, modIssued]

theorem execFlitRdata {port : BitVec 6} {cmd : FlitHdr} {pay : List DWord} (h : s.Canonical) {s1 : State} (eq : Machine.execFlitRdata port cmd pay s = .next s1) : s1.Canonical := by
  unfold Machine.execFlitRdata at eq
  grind [accept, ackFlit, answered, sendFailed]

theorem execFlitMark {port : BitVec 6} {cmd : FlitHdr} (h : s.Canonical) {s1 : State} (eq : Machine.execFlitMark port cmd s = .next s1) : s1.Canonical := by
  unfold Machine.execFlitMark at eq
  grind [modPort, accept, ackFlit]

theorem flitAcked {p : Nat} {f : Flit} (h : s.Canonical) : (s.flitAcked p f).Canonical := by
  unfold State.flitAcked
  grind [modPort, signalVa, modIssued, cmdDone, answer1]

theorem execFlitAck {port : BitVec 6} {ctr : DWord} (h : s.Canonical) {s1 : State} (eq : Machine.execFlitAck port ctr s = .next s1) : s1.Canonical := by
  unfold Machine.execFlitAck at eq
  grind [modPort, accept, flitAcked, foldl]

theorem execFlitNak {port : BitVec 6} {ctr : DWord} (h : s.Canonical) {s1 : State} (eq : Machine.execFlitNak port ctr s = .next s1) : s1.Canonical := by
  unfold Machine.execFlitNak at eq
  grind [modPort, accept]

theorem execFlitAuthFailure {port : BitVec 6} (h : s.Canonical) {s1 : State} (eq : Machine.execFlitAuthFailure port s = .next s1) : s1.Canonical := by
  unfold Machine.execFlitAuthFailure at eq
  grind [modPort, sendLater, retrain]

theorem execResendTimeout {port : BitVec 6} (h : s.Canonical) {s1 : State} (eq : Machine.execResendTimeout port s = .next s1) : s1.Canonical := by
  unfold Machine.execResendTimeout at eq
  grind [modPort]

theorem execGatewayMessage {ptab : DWord} {seq : Word} {ups : List StampUpdate} (h : s.Canonical) {s1 : State} (eq : Machine.execGatewayMessage ptab seq ups s = .next s1) : s1.Canonical := by
  unfold Machine.execGatewayMessage at eq
  grind [modCtx, muLocal, accept, ackFlit, foldl]

theorem functionReady {fn : ReadyFn} {up : Bool} (h : s.Canonical) : (s.functionReady fn up).Canonical := by
  unfold State.functionReady
  grind [modDie, modIod, modPort, setPortBit]

theorem execFunctionReady {fn : ReadyFn} {up : Bool} (h : s.Canonical) {s1 : State} (eq : Machine.execFunctionReady fn up s = .next s1) : s1.Canonical := by
  unfold Machine.execFunctionReady at eq
  grind [sendSignals, settleAll, functionReady]

theorem execFaultRetry {seq : Word} (h : s.Canonical) {s1 : State} (eq : Machine.execFaultRetry seq s = .next s1) : s1.Canonical := by
  unfold Machine.execFaultRetry at eq
  grind [service, settleAll]

theorem execFqresEnd {seq : Word} (h : s.Canonical) {s1 : State} (eq : Machine.execFqresEnd seq s = .next s1) : s1.Canonical := by
  unfold Machine.execFqresEnd at eq
  grind [service, settleAll]

theorem execRegisterWrite {window : BitVec 4} {off : BitVec 16} {v : DWord} (h : s.Canonical) {s1 : State} (eq : Machine.execRegisterWrite window off v s = .next s1) : s1.Canonical := by
  unfold Machine.execRegisterWrite at eq
  grind [windowWrite, settleAll]

theorem meLane {f : Firing} {a : Token} {k : Nat} {st : State} {v : Nat} (h : st.Canonical) : Res.Keeps (Machine.meLane s f a k st v) := by
  unfold Machine.meLane
  grind [Res.Keeps]

theorem countLookup {c k : Nat} {missed : Bool} (h : s.Canonical) : (s.countLookup c k missed).Canonical := by
  unfold State.countLookup
  grind [count]

theorem execTtbLook {w : MeW} (h : s.Canonical) {s1 : State} (eq : Machine.execTtbLook w s = .next s1) : s1.Canonical := by
  unfold Machine.execTtbLook at eq
  grind [fire, withA, meLane, countLookup, Res.Keeps]

theorem execTtbIns {w : MeW} (h : s.Canonical) {s1 : State} (eq : Machine.execTtbIns w s = .next s1) : s1.Canonical := by
  unfold Machine.execTtbIns at eq
  grind [fire, withA, meLane, Res.Keeps, setCluster, Cluster.tagInsert_stamps]

theorem execTtbEvict {w : MeW} (h : s.Canonical) {s1 : State} (eq : Machine.execTtbEvict w s = .next s1) : s1.Canonical := by
  unfold Machine.execTtbEvict at eq
  grind [modCluster, fire, withA, meLane, Res.Keeps]

theorem execTtbFill {w : MeW} (h : s.Canonical) {s1 : State} (eq : Machine.execTtbFill w s = .next s1) : s1.Canonical := by
  unfold Machine.execTtbFill at eq
  grind [fire, withA, meStart, meLane, Res.Keeps]

theorem tilDone {f : Firing} {a : Token} {k t : Nat} {x : Option Cluster} (h : s.Canonical) (hx : ∀ y, x = some y → y.stamps = (s.cluster f.c).stamps) :
    Res.Keeps (Machine.tilDone s f a k t x) := by
  unfold Machine.tilDone
  split
  · trivial
  · exact meLane (h.setCluster (hx _ rfl))

theorem execTilSetf {w : MeW} (h : s.Canonical) {s1 : State} (eq : Machine.execTilSetf w s = .next s1) : s1.Canonical := by
  refine fire h (fun f => ?_) eq
  unfold withA
  dsimp only
  repeat' split
  all_goals grind [tilDone, Res.Keeps, Cluster.setTile_stamps]

theorem execTilReady {w : MeW} (h : s.Canonical) {s1 : State} (eq : Machine.execTilReady w s = .next s1) : s1.Canonical := by
  refine fire h (fun f => ?_) eq
  unfold withA
  dsimp only
  repeat' split
  all_goals grind [tilDone, Res.Keeps, Cluster.tileTo_stamps]

theorem execTilDrain {_w : MeW} (h : s.Canonical) {s1 : State} (eq : Machine.execTilDrain _w s = .next s1) : s1.Canonical := by
  unfold Machine.execTilDrain at eq
  grind [modCluster, countMe, fire, withA, addRun, Res.Keeps, Cluster.tileTo_stamps, Cluster.useTile_stamps]

theorem execTilEmpty {w : MeW} (h : s.Canonical) {s1 : State} (eq : Machine.execTilEmpty w s = .next s1) : s1.Canonical := by
  refine fire h (fun f => ?_) eq
  unfold withA
  dsimp only
  repeat' split
  all_goals grind [tilDone, Res.Keeps, Cluster.emptyTile_stamps]

theorem execTilPush {w : MeW} (h : s.Canonical) {s1 : State} (eq : Machine.execTilPush w s = .next s1) : s1.Canonical := by
  refine fire h (fun f => ?_) eq
  unfold withA
  dsimp only
  repeat' split
  all_goals grind [tilDone, Res.Keeps, Cluster.setMembers_stamps]

theorem execTilPop {w : MeW} (h : s.Canonical) {s1 : State} (eq : Machine.execTilPop w s = .next s1) : s1.Canonical := by
  refine fire h (fun f => ?_) eq
  unfold withA
  dsimp only
  repeat' split
  all_goals grind [tilDone, Res.Keeps, Cluster.setMembers_stamps]

theorem execTilQuery {w : MeW} (h : s.Canonical) {s1 : State} (eq : Machine.execTilQuery w s = .next s1) : s1.Canonical := by
  unfold Machine.execTilQuery at eq
  grind [fire, withA, Res.Keeps]

theorem ownRead {f : Firing} {off n : Nat} (h : s.Canonical) : (s.ownRead f off n).1.Canonical := by
  unfold State.ownRead
  grind [setCluster, Cluster.spRead_stamps]

theorem ownWrite {f : Firing} {off n v : Nat} {poison : Bool} (h : s.Canonical) : (s.ownWrite f off n v poison).Canonical := by
  unfold State.ownWrite
  grind [modCluster, Cluster.spWrite_stamps]

theorem readBatch {f : Firing} {off : Nat} (h : s.Canonical) : (s.readBatch f off).1.Canonical := by
  unfold State.readBatch
  grind [ownRead, foldl_fst]

theorem writeBatch {f : Firing} {ar : Area} {off next : Nat} {b : Batch} {poison : List Word × Time → Bool} (h : s.Canonical) : (s.writeBatch f ar off next b poison).Canonical := by
  unfold State.writeBatch
  grind [ownWrite, foldl]

theorem setArr {f : Firing} {n : Nat} {a : Arr} (h : s.Canonical) : (s.setArr f n a).Canonical := by
  unfold State.setArr
  grind [modElem]

theorem arrResult {f : Firing} {w : MeW} {a : Token} {st : State} {mk : BitVec 6 → BitVec 12 → List Token} (h : st.Canonical) : Res.Keeps (Machine.arrResult s f w a st mk) := by
  unfold Machine.arrResult
  grind [Res.Keeps]

theorem arrCount {f : Firing} {w : MeW} {a : Token} {st : State} {n : Nat} {poison : Bool} (h : st.Canonical) : Res.Keeps (Machine.arrCount s f w a st n poison) := by
  unfold Machine.arrCount
  grind [arrResult]

theorem execArrIns {w : MeW} (h : s.Canonical) {s1 : State} (eq : Machine.execArrIns w s = .next s1) : s1.Canonical := by
  unfold Machine.execArrIns at eq
  grind [setSlot, fire, withA, writeBatch, setArr, arrCount, Res.Keeps]

theorem readBatches {f : Firing} {n : Nat} (h : s.Canonical) : (s.readBatches f n).1.Canonical := by
  unfold State.readBatches
  grind [readBatch, foldl_fst]

theorem execArrSeek {w : MeW} (h : s.Canonical) {s1 : State} (eq : Machine.execArrSeek w s = .next s1) : s1.Canonical := by
  unfold Machine.execArrSeek at eq
  grind [fire, withA, arrResult, readBatches, Res.Keeps]

theorem execArrCmpt {w : MeW} (h : s.Canonical) {s1 : State} (eq : Machine.execArrCmpt w s = .next s1) : s1.Canonical := by
  unfold Machine.execArrCmpt at eq
  grind [fire, withA, writeBatch, arrCount, readBatches, Res.Keeps, foldl]

theorem execArrMrg {w : MeW} (h : s.Canonical) {s1 : State} (eq : Machine.execArrMrg w s = .next s1) : s1.Canonical := by
  unfold Machine.execArrMrg at eq
  grind [fire, withA, writeBatch, setArr, arrCount, readBatches, Res.Keeps]

theorem bindCtx {cid : Nat} {ps : List Placed} (h : s.Canonical) : (s.bindCtx cid ps).Canonical := by
  unfold State.bindCtx
  grind [modCtx]

theorem setRcbState {a v : Nat} (h : s.Canonical) : (s.setRcbState a v).Canonical := by
  unfold State.setRcbState
  grind [wr]

theorem rejectEntry {d q e reason : Nat} {root : DWord} (h : s.Canonical) {s1 : State} (eq : s.rejectEntry d q e reason root = some s1) : s1.Canonical := by
  unfold State.rejectEntry at eq
  grind [takeNodes, signalPa, postFault, setRcbState]

theorem gainPass {d q part : Nat} (h : s.Canonical) : (s.gainPass d q part).Canonical := by
  unfold State.gainPass
  grind [modDie]

theorem readEntry {d q : Nat} {kept : Option Nat} (h : s.Canonical) : (s.readEntry d q kept).Canonical := by
  unfold State.readEntry
  grind [modDie, takeNodes, setRcbState, rejectEntry, gainPass]

theorem refill {d q : Nat} {kept : Option Nat} {n : Nat} (h : s.Canonical) : (State.refill d q kept n s).Canonical := by
  induction n generalizing s with
  | zero => exact h
  | succ n ih =>
    unfold State.refill
    split
    · exact h
    · exact ih h.readEntry

theorem readChain {d : Nat} {kept : Option Nat} (h : s.Canonical) : (s.readChain d kept).Canonical := by
  unfold State.readChain
  grind [modDie, gainPass]

theorem execLaunchEntryRead {q : BitVec 4} (h : s.Canonical) {s1 : State} (eq : Machine.execLaunchEntryRead q s = .next s1) : s1.Canonical := by
  unfold Machine.execLaunchEntryRead at eq
  grind [readEntry, readChain]

theorem afterChain {d part : Nat} (h : s.Canonical) : (s.afterChain d part).Canonical := by
  unfold State.afterChain
  grind [gainPass, refill]

theorem dropCand {d q part : Nat} (h : s.Canonical) : (s.dropCand d q part).Canonical := by
  unfold State.dropCand
  grind [modDie, refill, readChain, afterChain]

theorem areasReady {d who : Nat} {root : DWord} {l : List (DWord × Nat)} (h : s.Canonical) : (s.areasReady d who root l).1.Canonical := by
  unfold State.areasReady
  grind [translate, farAsk, foldl_fst]

theorem candReady {d : Nat} {x : Candidate} {root dump : DWord} (h : s.Canonical) : (s.candReady d x root dump).1.Canonical := by
  unfold State.candReady
  grind [areasReady]

theorem treeReady {d : Nat} {x : Candidate} (h : s.Canonical) : (s.treeReady d x).1.Canonical := by
  unfold State.treeReady
  grind [candReady]

theorem dumpRecord {d : Nat} {root dump : DWord} {kind reason site slot at_ : Nat} {image rcb : Nat} (h : s.Canonical) : (s.dumpRecord d root dump kind reason site slot at_ image rcb).Canonical := by
  unfold State.dumpRecord
  grind [setProt, countHbm, translate, farTransfer, wrWords]

theorem execCandidateFault {q : BitVec 4} (h : s.Canonical) {s1 : State} (eq : Machine.execCandidateFault q s = .next s1) : s1.Canonical := by
  unfold Machine.execCandidateFault at eq
  grind [farDone, signalPa, setRcbState, dropCand, treeReady, dumpRecord]

theorem age {d : Nat} (h : s.Canonical) : (s.age d).Canonical := by
  unfold State.age
  grind [modDie]

theorem execWaitingPriorityAging {q : BitVec 4} (h : s.Canonical) {s1 : State} (eq : Machine.execWaitingPriorityAging q s = .next s1) : s1.Canonical := by
  unfold Machine.execWaitingPriorityAging at eq
  grind [modDie]

theorem reserve {cid c k : Nat} {p : Prick} {rings : List Nat} {r : ToPlace} (h : s.Canonical) : (s.reserve cid c k p rings r).Canonical := by
  unfold State.reserve
  grind [modCluster, modSite, foldl]

theorem placeOn {cid c : Nat} {r : ToPlace} (h : s.Canonical) {r1 : State × Placed} (eq : s.placeOn cid c r = some r1) : r1.1.Canonical := by
  unfold State.placeOn at eq
  grind [reserve, Option.map_eq_some_iff]

theorem placeGang {cid : Nat} {cs : List Nat} {rs : List ToPlace} (h : s.Canonical) {r1 : State × List Placed} (eq : s.placeGang cid cs rs = some r1) :
    r1.1.Canonical :=
  foldl_bind_fst (fun _ hp => by cases hp; exact h)
    (fun q c r hq hr => by obtain ⟨b, hb, rfl⟩ := Option.map_eq_some_iff.1 hr; exact hq.placeOn hb) _ eq

theorem placeAll {cid n : Nat} {ds : List Nat} {rs : List ToPlace} {l : List Placed} (h : s.Canonical) {r1 : State × List Placed}
    (eq : State.placeAll cid n s ds rs l = some r1) : r1.1.Canonical := by
  induction n generalizing s ds rs l with
  | zero => unfold State.placeAll at eq; grind
  | succ n ih =>
    unfold State.placeAll at eq
    split at eq
    · cases eq; exact h
    · nomatch eq
    · split at eq
      · nomatch eq
      · dsimp only at eq
        split at eq
        · nomatch eq
        · split at eq
          · next tried =>
            obtain ⟨i, -, hi⟩ := List.exists_of_findSome?_eq_some tried
            obtain ⟨cs, -, hcs⟩ := Option.bind_eq_some_iff.1 hi
            exact ih (h.placeGang hcs) eq
          · exact ih h eq

theorem place {d cid : Nat} {rs : List ToPlace} (h : s.Canonical) {r1 : State × List Placed} (eq : s.place d cid rs = some r1) : r1.1.Canonical := by
  unfold State.place at eq
  grind [placeAll]

theorem releaseSlot {cid : Nat} {q : Nat × Nat} (h : s.Canonical) : (s.releaseSlot cid q).Canonical := by
  unfold State.releaseSlot
  grind [modCluster, settleFence]

theorem releaseCtx {cid : Nat} (h : s.Canonical) : (s.releaseCtx cid).Canonical := by
  unfold State.releaseCtx
  split
  · exact h
  · next x _ =>
    refine mapStamps (h.foldl (fun t q ht => ht.releaseSlot) x.places) rfl rfl rfl fun e he => ?_
    dsimp only
    split
    · exact keyed_filter he
    · exact he

theorem dropCtx {cid : Nat} (h : s.Canonical) : (s.dropCtx cid).Canonical := ⟨h.1, Map.sorted_del cid h.2.1, h.2.2⟩

theorem loadRegion {q : Nat × Nat} (h : s.Canonical) : (s.loadRegion q).Canonical := by
  unfold State.loadRegion
  grind [modCluster, modRegion, modSite, modElem, foldl]

theorem writeMembers {q : Nat × Nat} {ps : List Placed} (h : s.Canonical) : (s.writeMembers q ps).Canonical := by
  unfold State.writeMembers
  grind [vwr, foldl]

theorem reject {d cid : Nat} {p : Placed} {b : LoadBad} (h : s.Canonical) : (s.reject d cid p b).Canonical := by
  unfold State.reject
  grind [signalPa, setRcbState, dumpRecord, releaseCtx, dropCtx]

theorem loadCtx {d cid : Nat} {again : Bool} {part : Nat} {ps : List Placed} (h : s.Canonical) : (s.loadCtx d cid again part ps).Canonical := by
  unfold State.loadCtx
  grind [bindCtx, loadRegion, writeMembers, reject, foldl]

theorem admitCand {d q : Nat} {x : Candidate} (h : s.Canonical) {s1 : State} (eq : s.admitCand d q x = some s1) : s1.Canonical := by
  unfold State.admitCand at eq
  split at eq
  · nomatch eq
  · extract_lets again cid me saved places at eq
    clear_value places
    split at eq
    · nomatch eq
    · obtain ⟨q, placed, rfl⟩ := Option.map_eq_some_iff.1 eq
      refine loadCtx (countDie (dropCand (modDie (foldl (takeNodes (farDone ?_)) (fun t a ht => ht.setRcbState) _))))
      exact ((h.place placed).setCtx _ _).same rfl rfl rfl

theorem askCands {d : Nat} (h : s.Canonical) : (s.askCands d).Canonical := by
  unfold State.askCands
  grind [treeReady, foldl]

end State.Canonical
end Sys2Proof.Machine
end

section
/-! O5: eviction and restoring, images, retirement, watchdogs, and the remaining register forms. -/
namespace Sys2Proof.Machine
open Sys2Proof
namespace State.Canonical
variable {s : State}

theorem execAdmission {q : BitVec 4} (h : s.Canonical) {s1 : State} (eq : Machine.execAdmission q s = .next s1) : s1.Canonical := by
  unfold Machine.execAdmission at eq
  grind [modDie, age, admitCand, askCands]

theorem restoreRegion {v : Saved} {q : Nat × Nat} (h : s.Canonical) : (s.restoreRegion v q).Canonical := by
  unfold State.restoreRegion
  split
  split
  · exact h
  · extract_lets site s1 at_ spad marks tag bufs cluster
    have htag (x : Cluster) (e : DWord) : (tag x e).stamps = x.stamps := by unfold tag; split <;> rfl
    clear_value tag spad marks bufs
    have hcluster (x : Cluster) : (cluster x).stamps = x.stamps := foldl_keeps Cluster.stamps (fun y (e : Nat × DWord) => htag y e.2) v.tags x
    have hsite {t : State} (ht : t.Canonical) (e : Nat × Site) : (site t e).Canonical := by
      unfold site
      dsimp only
      split
      · exact ht.modSite
      · exact ht.modSite.modElem
    clear_value cluster site
    have hs1 : s1.Canonical := h.foldl (fun t e ht => hsite ht e) v.sites
    clear_value s1
    exact (hs1.modCluster hcluster).modRegion

theorem setUpRegion {cid : Nat} {q : Nat × Nat} (h : s.Canonical) : (s.setUpRegion cid q).Canonical := by
  unfold State.setUpRegion
  grind [modStream, modRegion, modCtx, muApply, muWait, muGo, faultEnd, checkJump]

theorem startAll {cid : Nat} {x : Ctx} (h : s.Canonical) : (s.startAll cid x).Canonical := by
  unfold State.startAll
  grind [modStream, modRegion, modCtx, setRcbState, foldl]

theorem imagesReady {x : Ctx} (h : s.Canonical) : (s.imagesReady x).1.Canonical := by
  unfold State.imagesReady
  grind [areasReady, foldl_fst]

theorem restoreCtx {cid : Nat} {x : Ctx} (h : s.Canonical) : (s.restoreCtx cid x).Canonical := by
  unfold State.restoreCtx
  grind [modCtx, farDone, muApply, muWait, muGo, faultEnd, setRcbState, restoreRegion, imagesReady, foldl]

theorem execContextStart {cid : Nat} (h : s.Canonical) {s1 : State} (eq : Machine.execContextStart cid s = .next s1) : s1.Canonical := by
  unfold Machine.execContextStart at eq
  grind [setUpRegion, startAll, restoreCtx, foldl]

theorem jobDone {job : Nat} (h : s.Canonical) : (s.jobDone job).Canonical := by
  unfold State.jobDone
  grind [signalPa]

theorem execRetire {cid : Nat} (h : s.Canonical) {s1 : State} (eq : Machine.execRetire cid s = .next s1) : s1.Canonical := by
  unfold Machine.execRetire at eq
  grind [signalPa, setRcbState, releaseCtx, dropCtx, jobDone, foldl]

theorem execBr {p : BitVec 3} {n : BitVec 1} {o : BitVec 22} (h : s.Canonical) {s1 : State} (eq : Machine.execBr p n o s = .next s1) : s1.Canonical := by
  unfold Machine.execBr at eq
  grind [transfer, seqPure]

theorem execJ {o : BitVec 26} (h : s.Canonical) {s1 : State} (eq : Machine.execJ o s = .next s1) : s1.Canonical := by
  unfold Machine.execJ at eq
  grind [transfer]

theorem execCall {o : BitVec 26} (h : s.Canonical) {s1 : State} (eq : Machine.execCall o s = .next s1) : s1.Canonical := by
  unfold Machine.execCall at eq
  grind [transfer]

theorem jumpReg {st : Stream} {target : DWord} (h : s.Canonical) {s1 : State} (eq : Machine.jumpReg s st target = .next s1) : s1.Canonical := by
  unfold Machine.jumpReg at eq
  grind [checkJump, trapJump, transfer]

theorem execJr {a : BitVec 6} (h : s.Canonical) {s1 : State} (eq : Machine.execJr a s = .next s1) : s1.Canonical := h.jumpReg eq
theorem execCallr {a : BitVec 6} (h : s.Canonical) {s1 : State} (eq : Machine.execCallr a s = .next s1) : s1.Canonical := h.jumpReg eq

theorem execRet (h : s.Canonical) {s1 : State} (eq : Machine.execRet s = .next s1) : s1.Canonical := by
  unfold Machine.execRet at eq
  grind [trapJump, loadView, waitHere, jumpReg]

theorem execTrap {a : BitVec 6} (h : s.Canonical) {s1 : State} (eq : Machine.execTrap a s = .next s1) : s1.Canonical := by
  unfold Machine.execTrap at eq
  grind [trapHere]

theorem execReti (h : s.Canonical) {s1 : State} (eq : Machine.execReti s = .next s1) : s1.Canonical := by
  unfold Machine.execReti at eq
  grind [trapHere, transfer]

theorem execExit (h : s.Canonical) {s1 : State} (eq : Machine.execExit s = .next s1) : s1.Canonical := by
  unfold Machine.execExit at eq
  grind [modMe]

theorem execTrace {a : BitVec 6} (h : s.Canonical) {s1 : State} (eq : Machine.execTrace a s = .next s1) : s1.Canonical := by
  unfold Machine.execTrace at eq
  grind [seqPure]

theorem execNop (h : s.Canonical) {s1 : State} (eq : Machine.execNop s = .next s1) : s1.Canonical := by
  unfold Machine.execNop at eq
  grind [seqPure]

theorem execYield (h : s.Canonical) {s1 : State} (eq : Machine.execYield s = .next s1) : s1.Canonical := by
  unfold Machine.execYield at eq
  grind [transfer]

theorem execMfs {d r : BitVec 6} {sz : BitVec 4} (h : s.Canonical) {s1 : State} (eq : Machine.execMfs d r sz s = .next s1) : s1.Canonical := by
  unfold Machine.execMfs at eq
  grind [seqPure]

theorem execMts {d r : BitVec 6} {sz : BitVec 4} (h : s.Canonical) {s1 : State} (eq : Machine.execMts d r sz s = .next s1) : s1.Canonical := by
  unfold Machine.execMts at eq
  grind [seqPure]

theorem checkPart {c : Nat} {root at_ : DWord} {q : Nat} (h : s.Canonical) : (s.checkPart c root at_ q).1.Canonical := by
  unfold State.checkPart
  grind [walk, foldl_fst]

theorem setPmres {rcb res kind len : Nat} (h : s.Canonical) : (s.setPmres rcb res kind len).Canonical := by
  unfold State.setPmres
  grind [wr64]

theorem putPages {ps : List (Nat × Nat)} {l : List Byte} (h : s.Canonical) : (s.putPages ps l).Canonical := by
  induction ps generalizing s l with
  | nil => exact h
  | cons e ps ih =>
    unfold State.putPages
    split
    · exact h
    · exact ih h.putBytes

theorem writeImage {cid : Nat} {x : Ctx} {r : Nat} {p : Placed} {i : ImageInfo} (h : s.Canonical) : (s.writeImage cid x r p i).Canonical := by
  unfold State.writeImage
  grind [same, checkPart, setPmres, putPages]

theorem imageReady {cid : Nat} {x : Ctx} (h : s.Canonical) : (s.imageReady cid x).1.Canonical := by
  unfold State.imageReady
  grind [areasReady]

theorem writeImages {cid : Nat} {x : Ctx} {i : ImageInfo} (h : s.Canonical) : (s.writeImages cid x i).Canonical := by
  unfold State.writeImages
  grind [writeImage, foldl]

theorem dropRecords {cid : Nat} (h : s.Canonical) : (s.dropRecords cid).Canonical := by
  unfold State.dropRecords
  grind [same]

theorem execPostMortemComplete {cid : Nat} (h : s.Canonical) {s1 : State} (eq : Machine.execPostMortemComplete cid s = .next s1) : s1.Canonical := by
  unfold Machine.execPostMortemComplete at eq
  grind [farDone, signalPa, setRcbState, releaseCtx, dropCtx, imageReady, writeImages, dropRecords, foldl]

theorem injectSnaps {cid : Nat} {x : Ctx} (h : s.Canonical) {s1 : State} (eq : s.injectSnaps cid x = some s1) : s1.Canonical :=
  foldl_bind (fun t ht => Option.some.inj ht ▸ h) (fun t q u ht hu => by
    split at hu
    · cases hu; exact ht
    · split at hu
      · cases hu; exact ht
      · obtain ⟨v, hv, rfl⟩ := Option.map_eq_some_iff.1 hu
        exact (ht.injectPicots hv).modRegion) _ eq

theorem forwardMx {cid : Nat} {q : Nat × Nat} (h : s.Canonical) : (s.forwardMx cid q).Canonical := by
  unfold State.forwardMx
  grind [noteSnap, injectPicots]

theorem requeue {d pa : Nat} (h : s.Canonical) : (s.requeue d pa).Canonical := by
  unfold State.requeue
  grind [modDie, wr64, launch15]

theorem execEvictionComplete {cid : Nat} (h : s.Canonical) {s1 : State} (eq : Machine.execEvictionComplete cid s = .next s1) : s1.Canonical := by
  unfold Machine.execEvictionComplete at eq
  grind [modStream, modCtx, count, countDie, farDone, farDrop, setRcbState, releaseCtx, imageReady, writeImages, dropRecords, injectSnaps, forwardMx, requeue, foldl]

theorem reportStall {cid detail : Nat} {addr : DWord} (h : s.Canonical) : (s.reportStall cid detail addr).Canonical := by
  unfold State.reportStall
  grind [modStream, foldl]

theorem execMuWatchdog (h : s.Canonical) {s1 : State} (eq : Machine.execMuWatchdog s = .next s1) : s1.Canonical := by
  unfold Machine.execMuWatchdog at eq
  grind [modCluster, reportStall, foldl]

theorem execAggregateWatchdog (h : s.Canonical) {s1 : State} (eq : Machine.execAggregateWatchdog s = .next s1) : s1.Canonical := by
  unfold Machine.execAggregateWatchdog at eq
  grind [modDie, reportStall, foldl]

theorem execAdd {d a b : BitVec 6} (h : s.Canonical) {s1 : State} (eq : Machine.execAdd d a b s = .next s1) : s1.Canonical := h.seqRRR eq
theorem execSub {d a b : BitVec 6} (h : s.Canonical) {s1 : State} (eq : Machine.execSub d a b s = .next s1) : s1.Canonical := h.seqRRR eq
theorem execMul {d a b : BitVec 6} (h : s.Canonical) {s1 : State} (eq : Machine.execMul d a b s = .next s1) : s1.Canonical := h.seqRRR eq
theorem execMulh {d a b : BitVec 6} (h : s.Canonical) {s1 : State} (eq : Machine.execMulh d a b s = .next s1) : s1.Canonical := h.seqRRR eq
theorem execMulhn {d a b : BitVec 6} (h : s.Canonical) {s1 : State} (eq : Machine.execMulhn d a b s = .next s1) : s1.Canonical := h.seqRRR eq
theorem execDiv {d a b : BitVec 6} (h : s.Canonical) {s1 : State} (eq : Machine.execDiv d a b s = .next s1) : s1.Canonical := h.seqRRR eq
theorem execDivn {d a b : BitVec 6} (h : s.Canonical) {s1 : State} (eq : Machine.execDivn d a b s = .next s1) : s1.Canonical := h.seqRRR eq
theorem execRem {d a b : BitVec 6} (h : s.Canonical) {s1 : State} (eq : Machine.execRem d a b s = .next s1) : s1.Canonical := h.seqRRR eq
theorem execRemn {d a b : BitVec 6} (h : s.Canonical) {s1 : State} (eq : Machine.execRemn d a b s = .next s1) : s1.Canonical := h.seqRRR eq
theorem execAdds {d a b : BitVec 6} (h : s.Canonical) {s1 : State} (eq : Machine.execAdds d a b s = .next s1) : s1.Canonical := h.seqRRR eq
theorem execSubs {d a b : BitVec 6} (h : s.Canonical) {s1 : State} (eq : Machine.execSubs d a b s = .next s1) : s1.Canonical := h.seqRRR eq
theorem execAnd {d a b : BitVec 6} (h : s.Canonical) {s1 : State} (eq : Machine.execAnd d a b s = .next s1) : s1.Canonical := h.seqRRR eq
theorem execOr {d a b : BitVec 6} (h : s.Canonical) {s1 : State} (eq : Machine.execOr d a b s = .next s1) : s1.Canonical := h.seqRRR eq
theorem execXor {d a b : BitVec 6} (h : s.Canonical) {s1 : State} (eq : Machine.execXor d a b s = .next s1) : s1.Canonical := h.seqRRR eq
theorem execAndn {d a b : BitVec 6} (h : s.Canonical) {s1 : State} (eq : Machine.execAndn d a b s = .next s1) : s1.Canonical := h.seqRRR eq
theorem execOrn {d a b : BitVec 6} (h : s.Canonical) {s1 : State} (eq : Machine.execOrn d a b s = .next s1) : s1.Canonical := h.seqRRR eq
theorem execShl {d a b : BitVec 6} (h : s.Canonical) {s1 : State} (eq : Machine.execShl d a b s = .next s1) : s1.Canonical := h.seqRRR eq
theorem execShr {d a b : BitVec 6} (h : s.Canonical) {s1 : State} (eq : Machine.execShr d a b s = .next s1) : s1.Canonical := h.seqRRR eq
theorem execSra {d a b : BitVec 6} (h : s.Canonical) {s1 : State} (eq : Machine.execSra d a b s = .next s1) : s1.Canonical := h.seqRRR eq
theorem execRol {d a b : BitVec 6} (h : s.Canonical) {s1 : State} (eq : Machine.execRol d a b s = .next s1) : s1.Canonical := h.seqRRR eq
theorem execMin {d a b : BitVec 6} (h : s.Canonical) {s1 : State} (eq : Machine.execMin d a b s = .next s1) : s1.Canonical := h.seqRRR eq
theorem execMax {d a b : BitVec 6} (h : s.Canonical) {s1 : State} (eq : Machine.execMax d a b s = .next s1) : s1.Canonical := h.seqRRR eq
theorem execMinn {d a b : BitVec 6} (h : s.Canonical) {s1 : State} (eq : Machine.execMinn d a b s = .next s1) : s1.Canonical := h.seqRRR eq
theorem execMaxn {d a b : BitVec 6} (h : s.Canonical) {s1 : State} (eq : Machine.execMaxn d a b s = .next s1) : s1.Canonical := h.seqRRR eq
theorem execClz {d a : BitVec 6} (h : s.Canonical) {s1 : State} (eq : Machine.execClz d a s = .next s1) : s1.Canonical := h.seqRR eq
theorem execCtz {d a : BitVec 6} (h : s.Canonical) {s1 : State} (eq : Machine.execCtz d a s = .next s1) : s1.Canonical := h.seqRR eq
theorem execPopc {d a : BitVec 6} (h : s.Canonical) {s1 : State} (eq : Machine.execPopc d a s = .next s1) : s1.Canonical := h.seqRR eq
theorem execBrev {d a : BitVec 6} (h : s.Canonical) {s1 : State} (eq : Machine.execBrev d a s = .next s1) : s1.Canonical := h.seqRR eq
theorem execAddi {d a : BitVec 6} {i : BitVec 14} (h : s.Canonical) {s1 : State} (eq : Machine.execAddi d a i s = .next s1) : s1.Canonical := h.seqRR eq
theorem execAndi {d a : BitVec 6} {i : BitVec 14} (h : s.Canonical) {s1 : State} (eq : Machine.execAndi d a i s = .next s1) : s1.Canonical := h.seqRR eq
theorem execOri {d a : BitVec 6} {i : BitVec 14} (h : s.Canonical) {s1 : State} (eq : Machine.execOri d a i s = .next s1) : s1.Canonical := h.seqRR eq
theorem execXori {d a : BitVec 6} {i : BitVec 14} (h : s.Canonical) {s1 : State} (eq : Machine.execXori d a i s = .next s1) : s1.Canonical := h.seqRR eq
theorem execShli {d a n : BitVec 6} (h : s.Canonical) {s1 : State} (eq : Machine.execShli d a n s = .next s1) : s1.Canonical := h.seqRR eq
theorem execShri {d a n : BitVec 6} (h : s.Canonical) {s1 : State} (eq : Machine.execShri d a n s = .next s1) : s1.Canonical := h.seqRR eq
theorem execSrai {d a n : BitVec 6} (h : s.Canonical) {s1 : State} (eq : Machine.execSrai d a n s = .next s1) : s1.Canonical := h.seqRR eq
theorem execRoli {d a n : BitVec 6} (h : s.Canonical) {s1 : State} (eq : Machine.execRoli d a n s = .next s1) : s1.Canonical := h.seqRR eq

theorem execLi {d : BitVec 6} {i : BitVec 20} (h : s.Canonical) {s1 : State} (eq : Machine.execLi d i s = .next s1) : s1.Canonical := by
  unfold Machine.execLi at eq
  grind [seqPure]

theorem execLui {d : BitVec 6} {i : BitVec 20} (h : s.Canonical) {s1 : State} (eq : Machine.execLui d i s = .next s1) : s1.Canonical := h.seqRR eq
theorem execLuh {d : BitVec 6} {i : BitVec 20} (h : s.Canonical) {s1 : State} (eq : Machine.execLuh d i s = .next s1) : s1.Canonical := h.seqRR eq
theorem execCmp {p : BitVec 3} {c : BitVec 4} {a b : BitVec 6} (h : s.Canonical) {s1 : State} (eq : Machine.execCmp p c a b s = .next s1) : s1.Canonical := h.seqPred eq

theorem execCmpi {p : BitVec 3} {c : BitVec 4} {a : BitVec 6} {i : BitVec 13} (h : s.Canonical) {s1 : State} (eq : Machine.execCmpi p c a i s = .next s1) : s1.Canonical :=
  h.seqPred eq

theorem execSel {d a b : BitVec 6} {n : BitVec 1} {p : BitVec 3} (h : s.Canonical) {s1 : State} (eq : Machine.execSel d a b n p s = .next s1) : s1.Canonical := by
  unfold Machine.execSel at eq
  grind [seqPure]

theorem execPand {d a b : BitVec 3} (h : s.Canonical) {s1 : State} (eq : Machine.execPand d a b s = .next s1) : s1.Canonical := h.seqPred eq
theorem execPor {d a b : BitVec 3} (h : s.Canonical) {s1 : State} (eq : Machine.execPor d a b s = .next s1) : s1.Canonical := h.seqPred eq
theorem execPxor {d a b : BitVec 3} (h : s.Canonical) {s1 : State} (eq : Machine.execPxor d a b s = .next s1) : s1.Canonical := h.seqPred eq
theorem execPnot {d a : BitVec 3} (h : s.Canonical) {s1 : State} (eq : Machine.execPnot d a s = .next s1) : s1.Canonical := h.seqPred eq
theorem execPmov {d a : BitVec 3} (h : s.Canonical) {s1 : State} (eq : Machine.execPmov d a s = .next s1) : s1.Canonical := h.seqPred eq
theorem execPset {d : BitVec 3} (h : s.Canonical) {s1 : State} (eq : Machine.execPset d s = .next s1) : s1.Canonical := h.seqPred eq
theorem execPclr {d : BitVec 3} (h : s.Canonical) {s1 : State} (eq : Machine.execPclr d s = .next s1) : s1.Canonical := h.seqPred eq
theorem execFadd {d a b : BitVec 6} {f : BitVec 1} (h : s.Canonical) {s1 : State} (eq : Machine.execFadd d a b f s = .next s1) : s1.Canonical := h.seqFloat eq
theorem execFsub {d a b : BitVec 6} {f : BitVec 1} (h : s.Canonical) {s1 : State} (eq : Machine.execFsub d a b f s = .next s1) : s1.Canonical := h.seqFloat eq
theorem execFmul {d a b : BitVec 6} {f : BitVec 1} (h : s.Canonical) {s1 : State} (eq : Machine.execFmul d a b f s = .next s1) : s1.Canonical := h.seqFloat eq
theorem execFdiv {d a b : BitVec 6} {f : BitVec 1} (h : s.Canonical) {s1 : State} (eq : Machine.execFdiv d a b f s = .next s1) : s1.Canonical := h.seqFloat eq
theorem execFmin {d a b : BitVec 6} {f : BitVec 1} (h : s.Canonical) {s1 : State} (eq : Machine.execFmin d a b f s = .next s1) : s1.Canonical := h.seqFloat eq
theorem execFmax {d a b : BitVec 6} {f : BitVec 1} (h : s.Canonical) {s1 : State} (eq : Machine.execFmax d a b f s = .next s1) : s1.Canonical := h.seqFloat eq
theorem execFsqrt {d a : BitVec 6} {f : BitVec 1} (h : s.Canonical) {s1 : State} (eq : Machine.execFsqrt d a f s = .next s1) : s1.Canonical := h.seqFloat eq
theorem execFabs {d a : BitVec 6} {f : BitVec 1} (h : s.Canonical) {s1 : State} (eq : Machine.execFabs d a f s = .next s1) : s1.Canonical := h.seqRR eq
theorem execFneg {d a : BitVec 6} {f : BitVec 1} (h : s.Canonical) {s1 : State} (eq : Machine.execFneg d a f s = .next s1) : s1.Canonical := h.seqRR eq
theorem execFfma {d a b c : BitVec 6} {f : BitVec 1} (h : s.Canonical) {s1 : State} (eq : Machine.execFfma d a b c f s = .next s1) : s1.Canonical := h.seqFloat eq

theorem execFcmp {p : BitVec 3} {c : BitVec 4} {a b : BitVec 6} {f : BitVec 1} (h : s.Canonical) {s1 : State} (eq : Machine.execFcmp p c a b f s = .next s1) : s1.Canonical := by
  unfold Machine.execFcmp at eq
  grind [seqPure]

theorem execFcvt {d a : BitVec 6} {t sz : BitVec 4} (h : s.Canonical) {s1 : State} (eq : Machine.execFcvt d a t sz s = .next s1) : s1.Canonical := h.seqFloat eq

end State.Canonical
end Sys2Proof.Machine
end

section
/-! O5: the next move, what it fetches, the instruction executed, and the step. -/
namespace Sys2Proof.Machine
open Sys2Proof
namespace State.Canonical
variable {s : State}

theorem nextMove (h : s.Canonical) : (Machine.nextMove s).1.Canonical := by
  unfold Machine.nextMove
  exact h.mapClusters rfl rfl rfl fun e => e.2.pass_stamps _

theorem fetchInstr (h : s.Canonical) : (Machine.fetchInstr s).1.Canonical := by
  unfold Machine.fetchInstr
  grind [takeTrap, fetchWord]

theorem beginBlock {w : Word} (h : s.Canonical) : (s.beginBlock w).Canonical := by
  unfold State.beginBlock
  grind [modStream]

theorem startBlock (h : s.Canonical) : (Machine.startBlock s).1.Canonical := by
  unfold Machine.startBlock
  grind [takeTrap, fetchWord, fetchInstr, beginBlock]

theorem streamMove (h : s.Canonical) : (Machine.streamMove s).1.Canonical := by
  unfold Machine.streamMove
  grind [fetchInstr, startBlock]

theorem streamTurn (h : s.Canonical) : s.streamTurn.Canonical := by
  unfold State.streamTurn
  grind [same, modCluster]

theorem pickStream (h : s.Canonical) : (Machine.pickStream s).1.Canonical := by
  unfold Machine.pickStream
  grind [streamMove, streamTurn]

theorem fireMove (h : s.Canonical) : (Machine.fireMove s).1.Canonical := by
  unfold Machine.fireMove
  grind [same]

theorem slotTurn (h : s.Canonical) : s.slotTurn.Canonical := by
  unfold State.slotTurn
  grind [same, passOver]

theorem pickFire (h : s.Canonical) : (Machine.pickFire s).1.Canonical := by
  unfold Machine.pickFire
  grind [fireMove, slotTurn]

theorem pickCommand (h : s.Canonical) : (Machine.pickCommand s).1.Canonical := by
  unfold Machine.pickCommand
  extract_lets c k site
  repeat' split
  all_goals grind [answer, settle, dropQ]

theorem pickMx (h : s.Canonical) : (Machine.pickMx s).1.Canonical := by
  unfold Machine.pickMx
  grind [mxRefuse]

theorem pickEngine (h : s.Canonical) : (Machine.pickEngine s).1.Canonical := by
  unfold Machine.pickEngine
  grind

theorem upsetLine {line symbols bit : Nat} (h : s.Canonical) : (s.upsetLine line symbols bit).Canonical := by
  unfold State.upsetLine
  grind [wr, setMark]

theorem pick {w : What} (h : s.Canonical) : (Machine.pick s w).1.Canonical := by
  unfold Machine.pick
  grind [modCluster, modElem, pickStream, pickFire, pickCommand, pickMx, pickEngine, upsetLine]

/-- Every instruction keeps it, by the lemma about its meaning. -/
theorem exec {i : Instr} (h : s.Canonical) {s1 : State} (eq : Machine.exec i s = .next s1) : s1.Canonical := by
  cases i with
  | add => exact h.execAdd eq
  | sub => exact h.execSub eq
  | mul => exact h.execMul eq
  | mulh => exact h.execMulh eq
  | mulhn => exact h.execMulhn eq
  | div => exact h.execDiv eq
  | divn => exact h.execDivn eq
  | rem => exact h.execRem eq
  | remn => exact h.execRemn eq
  | adds => exact h.execAdds eq
  | subs => exact h.execSubs eq
  | and => exact h.execAnd eq
  | or => exact h.execOr eq
  | xor => exact h.execXor eq
  | andn => exact h.execAndn eq
  | orn => exact h.execOrn eq
  | shl => exact h.execShl eq
  | shr => exact h.execShr eq
  | sra => exact h.execSra eq
  | rol => exact h.execRol eq
  | min => exact h.execMin eq
  | max => exact h.execMax eq
  | minn => exact h.execMinn eq
  | maxn => exact h.execMaxn eq
  | clz => exact h.execClz eq
  | ctz => exact h.execCtz eq
  | popc => exact h.execPopc eq
  | brev => exact h.execBrev eq
  | addi => exact h.execAddi eq
  | andi => exact h.execAndi eq
  | ori => exact h.execOri eq
  | xori => exact h.execXori eq
  | shli => exact h.execShli eq
  | shri => exact h.execShri eq
  | srai => exact h.execSrai eq
  | roli => exact h.execRoli eq
  | li => exact h.execLi eq
  | lui => exact h.execLui eq
  | luh => exact h.execLuh eq
  | cmp => exact h.execCmp eq
  | cmpi => exact h.execCmpi eq
  | sel => exact h.execSel eq
  | pand => exact h.execPand eq
  | por => exact h.execPor eq
  | pxor => exact h.execPxor eq
  | pnot => exact h.execPnot eq
  | pmov => exact h.execPmov eq
  | pset => exact h.execPset eq
  | pclr => exact h.execPclr eq
  | ld => exact h.execLd eq
  | ldn => exact h.execLdn eq
  | st => exact h.execSt eq
  | ldc => exact h.execLdc eq
  | lda d a z c o => exact h.execLda (c := c) eq
  | stl d a z c o => exact h.execStl (c := c) eq
  | amoAdd d a b c sz o => exact h.execAmoAdd (c := c) (o := o) eq
  | amoAnd d a b c sz o => exact h.execAmoAnd (c := c) (o := o) eq
  | amoOr d a b c sz o => exact h.execAmoOr (c := c) (o := o) eq
  | amoXor d a b c sz o => exact h.execAmoXor (c := c) (o := o) eq
  | amoMin d a b c sz o => exact h.execAmoMin (c := c) (o := o) eq
  | amoMax d a b c sz o => exact h.execAmoMax (c := c) (o := o) eq
  | amoMinn d a b c sz o => exact h.execAmoMinn (c := c) (o := o) eq
  | amoMaxn d a b c sz o => exact h.execAmoMaxn (c := c) (o := o) eq
  | amoSwap d a b c sz o => exact h.execAmoSwap (c := c) (o := o) eq
  | amoCas d a b c sz o => exact h.execAmoCas (c := c) (o := o) eq
  | amoFadd d a b c o => exact h.execAmoFadd (c := c) (o := o) eq
  | fence w x y z c => exact h.execFence (w := w) (x := x) (y := y) (z := z) (c := c) eq
  | fadd => exact h.execFadd eq
  | fsub => exact h.execFsub eq
  | fmul => exact h.execFmul eq
  | fdiv => exact h.execFdiv eq
  | fsqrt => exact h.execFsqrt eq
  | fmin => exact h.execFmin eq
  | fmax => exact h.execFmax eq
  | fabs => exact h.execFabs eq
  | fneg => exact h.execFneg eq
  | ffma => exact h.execFfma eq
  | fcmp => exact h.execFcmp eq
  | fcvt => exact h.execFcvt eq
  | br => exact h.execBr eq
  | j => exact h.execJ eq
  | call => exact h.execCall eq
  | jr => exact h.execJr eq
  | callr => exact h.execCallr eq
  | ret => exact h.execRet eq
  | tmov => exact h.execTmov eq
  | tset => exact h.execTset eq
  | tget => exact h.execTget eq
  | tinc => exact h.execTinc eq
  | tjoin => exact h.execTjoin eq
  | tmeet => exact h.execTmeet eq
  | tle => exact h.execTle eq
  | tlt => exact h.execTlt eq
  | teq => exact h.execTeq eq
  | tadv => exact h.execTadv eq
  | tinci => exact h.execTinci eq
  | hzld => exact h.execHzld eq
  | hzwait => exact h.execHzwait eq
  | hzpub => exact h.execHzpub eq
  | hzle => exact h.execHzle eq
  | hzget => exact h.execHzget eq
  | hztime => exact h.execHztime eq
  | enqMx => exact h.execEnqMx eq
  | enqAg => exact h.execEnqAg eq
  | enqCl => exact h.execEnqCl eq
  | enqLk => exact h.execEnqLk eq
  | enqSc => exact h.execEnqSc eq
  | enqTi => exact h.execEnqTi eq
  | enqTo => exact h.execEnqTo eq
  | enqPl => exact h.execEnqPl eq
  | waitc => exact h.execWaitc eq
  | sigc => exact h.execSigc eq
  | waitb => exact h.execWaitb eq
  | bara => exact h.execBara eq
  | cfgLoad => exact h.execCfgLoad eq
  | cfgSwitch => exact h.execCfgSwitch eq
  | cfgPage => exact h.execCfgPage eq
  | ctxLaunch => exact h.execCtxLaunch eq
  | ctxPrio => exact h.execCtxPrio eq
  | ctxSusp => exact h.execCtxSusp eq
  | ctxResume => exact h.execCtxResume eq
  | ctxEvict => exact h.execCtxEvict eq
  | mfs => exact h.execMfs eq
  | mts => exact h.execMts eq
  | trap => exact h.execTrap eq
  | reti => exact h.execReti eq
  | exit => exact h.execExit eq
  | trace => exact h.execTrace eq
  | nop => exact h.execNop eq
  | yield => exact h.execYield eq
  | blockCommit => exact h.execBlockCommit eq
  | asyncTrap => exact h.execAsyncTrap eq
  | streamExited => exact h.execStreamExited eq
  | ceAdd => exact h.execCeAdd eq
  | ceSub => exact h.execCeSub eq
  | ceMul => exact h.execCeMul eq
  | ceMulh => exact h.execCeMulh eq
  | ceMin => exact h.execCeMin eq
  | ceMax => exact h.execCeMax eq
  | ceAbs => exact h.execCeAbs eq
  | ceNeg => exact h.execCeNeg eq
  | ceMad => exact h.execCeMad eq
  | ceAvg => exact h.execCeAvg eq
  | ceAnd => exact h.execCeAnd eq
  | ceOr => exact h.execCeOr eq
  | ceXor => exact h.execCeXor eq
  | ceAndn => exact h.execCeAndn eq
  | ceNot => exact h.execCeNot eq
  | ceShl => exact h.execCeShl eq
  | ceShr => exact h.execCeShr eq
  | ceSra => exact h.execCeSra eq
  | ceRol => exact h.execCeRol eq
  | cePopc => exact h.execCePopc eq
  | ceClz => exact h.execCeClz eq
  | ceFloatAdd => exact h.execCeFloatAdd eq
  | ceFloatSub => exact h.execCeFloatSub eq
  | ceFloatMul => exact h.execCeFloatMul eq
  | ceFma => exact h.execCeFma eq
  | ceFloatMin => exact h.execCeFloatMin eq
  | ceFloatMax => exact h.execCeFloatMax eq
  | ceFloatAbs => exact h.execCeFloatAbs eq
  | ceFloatNeg => exact h.execCeFloatNeg eq
  | ceFms => exact h.execCeFms eq
  | ceRcp => exact h.execCeRcp eq
  | ceRsq => exact h.execCeRsq eq
  | ceSqrt => exact h.execCeSqrt eq
  | ceExp2 => exact h.execCeExp2 eq
  | ceLog2 => exact h.execCeLog2 eq
  | ceTanh => exact h.execCeTanh eq
  | ceSigm => exact h.execCeSigm eq
  | ceSin => exact h.execCeSin eq
  | ceCos => exact h.execCeCos eq
  | ceErf => exact h.execCeErf eq
  | ceCmp => exact h.execCeCmp eq
  | ceSel => exact h.execCeSel eq
  | cvt => exact h.execCvt eq
  | qntb => exact h.execQntb eq
  | qnt => exact h.execQnt eq
  | deq => exact h.execDeq eq
  | mov => exact h.execMov eq
  | movk => exact h.execMovk eq
  | bcast => exact h.execBcast eq
  | lshift => exact h.execLshift eq
  | lrev => exact h.execLrev eq
  | lsel => exact h.execLsel eq
  | steerBit => exact h.execSteerBit eq
  | steerPar => exact h.execSteerPar eq
  | mergeAny => exact h.execMergeAny eq
  | mergeTag => exact h.execMergeTag eq
  | copy => exact h.execCopy eq
  | gate => exact h.execGate eq
  | drop => exact h.execDrop eq
  | sink => exact h.execSink eq
  | tagInc => exact h.execTagInc eq
  | tagSet => exact h.execTagSet eq
  | tagGet => exact h.execTagGet eq
  | tagBase => exact h.execTagBase eq
  | alcAlloc => exact h.execAlcAlloc eq
  | alcFree => exact h.execAlcFree eq
  | pack => exact h.execPack eq
  | unpack => exact h.execUnpack eq
  | redSum => exact h.execRedSum eq
  | redMin => exact h.execRedMin eq
  | redMax => exact h.execRedMax eq
  | redAnd => exact h.execRedAnd eq
  | redOr => exact h.execRedOr eq
  | redCnt => exact h.execRedCnt eq
  | scanSum => exact h.execScanSum eq
  | scanMax => exact h.execScanMax eq
  | lrs => exact h.execLrs eq
  | accAdd => exact h.execAccAdd eq
  | accMax => exact h.execAccMax eq
  | accReset => exact h.execAccReset eq
  | cneg => exact h.execCneg eq
  | cscale => exact h.execCscale eq
  | mkchg => exact h.execMkchg eq
  | dense => exact h.execDense eq
  | dadd => exact h.execDadd eq
  | ctEnter => exact h.execCtEnter eq
  | ctLeave => exact h.execCtLeave eq
  | ctStep => exact h.execCtStep eq
  | ctSet => exact h.execCtSet eq
  | ctAdv => exact h.execCtAdv eq
  | ctLe => exact h.execCtLe eq
  | ctLt => exact h.execCtLt eq
  | ctEq => exact h.execCtEq eq
  | ctPar => exact h.execCtPar eq
  | khash => exact h.execKhash eq
  | kexch => exact h.execKexch eq
  | cjoin => exact h.execCjoin eq
  | credCount => exact h.execCredCount eq
  | credSum => exact h.execCredSum eq
  | credMin => exact h.execCredMin eq
  | credMax => exact h.execCredMax eq
  | cdist => exact h.execCdist eq
  | ccons => exact h.execCcons eq
  | cnote => exact h.execCnote eq
  | crel => exact h.execCrel eq
  | mxc => exact h.execMxc eq
  | cntr => exact h.execCntr eq
  | ctlSig => exact h.execCtlSig eq
  | ctlWait => exact h.execCtlWait eq
  | ctlAnd2 => exact h.execCtlAnd2 eq
  | ceNop => exact h.execCeNop eq
  | agsRd => exact h.execAgsRd eq
  | agsWr => exact h.execAgsWr eq
  | agsRdcf w => exact h.execAgsRdcf (_w := w) eq
  | agsWrcf w => exact h.execAgsWrcf (_w := w) eq
  | agsFill w => exact h.execAgsFill (_w := w) eq
  | agsScrub w => exact h.execAgsScrub (_w := w) eq
  | agxGath => exact h.execAgxGath eq
  | agxScat => exact h.execAgxScat eq
  | agxChase w => exact h.execAgxChase (_w := w) eq
  | agxAtomAdd => exact h.execAgxAtomAdd eq
  | agxAtomMin => exact h.execAgxAtomMin eq
  | agxAtomMax => exact h.execAgxAtomMax eq
  | agxAtomCas => exact h.execAgxAtomCas eq
  | agxAtomSwp => exact h.execAgxAtomSwp eq
  | wavLd o p sz z d => exact h.execWavLd (_z := z) eq
  | wavSt o p sz z d => exact h.execWavSt (_z := z) eq
  | wavMnop o p sz z d => exact h.execWavMnop (_z := z) eq
  | waveAccessPerform => exact h.execWaveAccessPerform eq
  | ttbLook => exact h.execTtbLook eq
  | ttbIns => exact h.execTtbIns eq
  | ttbEvict => exact h.execTtbEvict eq
  | ttbFill => exact h.execTtbFill eq
  | tilSetf => exact h.execTilSetf eq
  | tilReady => exact h.execTilReady eq
  | tilDrain w => exact h.execTilDrain (_w := w) eq
  | tilEmpty => exact h.execTilEmpty eq
  | tilPush => exact h.execTilPush eq
  | tilPop => exact h.execTilPop eq
  | tilQuery => exact h.execTilQuery eq
  | arrIns => exact h.execArrIns eq
  | arrSeek => exact h.execArrSeek eq
  | arrCmpt => exact h.execArrCmpt eq
  | arrMrg => exact h.execArrMrg eq
  | bar => exact h.execBar eq
  | pld => exact h.execPld eq
  | pst => exact h.execPst eq
  | sbr => exact h.execSbr eq
  | sbrRelease => exact h.execSbrRelease eq
  | mma => exact h.execMma eq
  | mmaKstep => exact h.execMmaKstep eq
  | mmz => exact h.execMmz eq
  | mload => exact h.execMload eq
  | mdrain => exact h.execMdrain eq
  | cvreset => exact h.execCvreset eq
  | cvresetRelease w => exact h.execCvresetRelease (_w := w) eq
  | cvloadEnt => exact h.execCvloadEnt eq
  | cvloadGain => exact h.execCvloadGain eq
  | cvprobe => exact h.execCvprobe eq
  | cvcommit => exact h.execCvcommit eq
  | cvreadArg => exact h.execCvreadArg eq
  | cvreadGain => exact h.execCvreadGain eq
  | mxAccept => exact h.execMxAccept eq
  | allreduce => exact h.execAllreduce eq
  | reduceScatter => exact h.execReduceScatter eq
  | allgather => exact h.execAllgather eq
  | alltoall => exact h.execAlltoall eq
  | irregularAlltoall => exact h.execIrregularAlltoall eq
  | collectiveNodeFire => exact h.execCollectiveNodeFire eq
  | send => exact h.execSend eq
  | keyld => exact h.execKeyld eq
  | keysw => exact h.execKeysw eq
  | stat => exact h.execStat eq
  | scrub => exact h.execScrub eq
  | commandIssue => exact h.execCommandIssue eq
  | commandComplete => exact h.execCommandComplete eq
  | fetch => exact h.execFetch eq
  | unlatch => exact h.execUnlatch eq
  | accclr => exact h.execAccclr eq
  | switchForward => exact h.execSwitchForward eq
  | eos => exact h.execEos eq
  | switch => exact h.execSwitch eq
  | snap => exact h.execSnap eq
  | abort => exact h.execAbort eq
  | agingPromotion => exact h.execAgingPromotion eq
  | configUnitFetch => exact h.execConfigUnitFetch eq
  | configUncorrectable => exact h.execConfigUncorrectable eq
  | agAccess => exact h.execAgAccess eq
  | agReply => exact h.execAgReply eq
  | agRunEnd => exact h.execAgRunEnd eq
  | chaseStep => exact h.execChaseStep eq
  | gatherEngineBatch => exact h.execGatherEngineBatch eq
  | walk => exact h.execWalk eq
  | activationAlert => exact h.execActivationAlert eq
  | muWatchdog => exact h.execMuWatchdog eq
  | aggregateWatchdog => exact h.execAggregateWatchdog eq
  | gatewayMessage => exact h.execGatewayMessage eq
  | conversionRendezvous => exact h.execConversionRendezvous eq
  | conversionComplete => exact h.execConversionComplete eq
  | launchNotify => exact h.execLaunchNotify eq
  | launchEntryRead => exact h.execLaunchEntryRead eq
  | candidateFault => exact h.execCandidateFault eq
  | waitingPriorityAging => exact h.execWaitingPriorityAging eq
  | admission => exact h.execAdmission eq
  | contextStart => exact h.execContextStart eq
  | retire => exact h.execRetire eq
  | evictionComplete => exact h.execEvictionComplete eq
  | postMortemComplete => exact h.execPostMortemComplete eq
  | xinvPage => exact h.execXinvPage eq
  | xinvRoot => exact h.execXinvRoot eq
  | xinvDie => exact h.execXinvDie eq
  | xinvDone => exact h.execXinvDone eq
  | fenceCluster => exact h.execFenceCluster eq
  | unfenceCluster => exact h.execUnfenceCluster eq
  | replaceClusterMicrocode => exact h.execReplaceClusterMicrocode eq
  | updateFirmware => exact h.execUpdateFirmware eq
  | firmwareSwitch => exact h.execFirmwareSwitch eq
  | retrainPort => exact h.execRetrainPort eq
  | portEnable => exact h.execPortEnable eq
  | faultRetry => exact h.execFaultRetry eq
  | fqresEnd => exact h.execFqresEnd eq
  | keyImport => exact h.execKeyImport eq
  | keyRemove => exact h.execKeyRemove eq
  | attestationReport => exact h.execAttestationReport eq
  | powerCap => exact h.execPowerCap eq
  | registerWrite => exact h.execRegisterWrite eq
  | coldReset => exact h.execColdReset eq
  | functionReady => exact h.execFunctionReady eq
  | flitTransmit => exact h.execFlitTransmit eq
  | flitOpen => exact h.execFlitOpen eq
  | flitData => exact h.execFlitData eq
  | flitRead => exact h.execFlitRead eq
  | flitRdata => exact h.execFlitRdata eq
  | flitMark => exact h.execFlitMark eq
  | flitAck => exact h.execFlitAck eq
  | flitNak => exact h.execFlitNak eq
  | flitAuthFailure => exact h.execFlitAuthFailure eq
  | resendTimeout => exact h.execResendTimeout eq
  | resultReachesOutput => exact h.execResultReachesOutput eq

theorem step (h : s.Canonical) {s1 : State} (eq : Machine.step s = .next s1) : s1.Canonical := by
  have moved : (Machine.pick (Machine.nextMove s).1 (Machine.nextMove s).2).1.Canonical := h.nextMove.pick
  unfold Machine.step at eq
  dsimp only at eq
  split at eq
  · split at eq
    · next t i picked => rw [picked] at moved; exact moved.exec eq
    · next t picked => rw [picked] at moved; cases eq; exact moved
  · nomatch eq

end State.Canonical

/-- Settles O5: the lemma of the step, whose parts are the move that is next, what it fetches, and the instruction executed. -/
theorem everyStepKeepsCanonical : Obligations.EveryStepKeepsCanonical := by
  unfold Obligations.EveryStepKeepsCanonical
  exact fun s t h eq => h.step eq

end Sys2Proof.Machine
end
